-- ==== Sys2Proof/Word.lean ====
section
/-!
DEFINITION. The word types of the module: 48-bit words, 24-bit half-words and bytes (spec 02, R36, R37), and the sparse
tables the state is made of.
-/
namespace Sys2Proof

/-- A byte (R36). -/
abbrev Byte := BitVec 8

/-- The module's word of 48 bits (R36), also one device register (R39). -/
abbrev Word := BitVec 48

/-- A 64-bit register of a channel engine, an F register or a doubleword of a descriptor. -/
abbrev DWord := BitVec 64

/-- A sparse table: keys strictly rising, no entry equal to what an unlisted key reads as. -/
abbrev Sp (α : Type) := List (Nat × α)

end Sys2Proof
end

