-- ==== Sys2Proof/Syntax.lean ====
section
/-!
DEFINITION. The commands of the module: one constructor per row of the table of steps. Instruction rows carry the
processor and the fields of their format (spec 03, R40, with the bits that R69 wants zero); event rows carry what
the event is about and what reaches the module from outside with it.
-/
namespace Sys2Proof

/-- Format RR of R40 without its function code, which the row gives; `z` is bits [11:0] (R41). -/
structure RR where
  rd : BitVec 5
  ra : BitVec 5
  rb : BitVec 5
  z  : BitVec 12
deriving DecidableEq, Repr

/-- Format RR with its function field [24:12], for the opcodes that have one instruction (JR, SEGIX). -/
structure RRF where
  rd : BitVec 5
  ra : BitVec 5
  rb : BitVec 5
  fn : BitVec 13
  z  : BitVec 12
deriving DecidableEq, Repr

/-- Format RI of R40. -/
structure RI where
  rd  : BitVec 5
  ra  : BitVec 5
  imm : BitVec 30
deriving DecidableEq, Repr

/-- Format M of R40. -/
structure MF where
  rd   : BitVec 5
  ra   : BitVec 5
  seg  : BitVec 4
  disp : BitVec 26
deriving DecidableEq, Repr

/-- Format B of R40. -/
structure BF where
  test : BitVec 5
  cond : BitVec 4
  disp : BitVec 31
deriving DecidableEq, Repr

/-- An instruction of the floating group: format RR and the format bit P (R98). -/
structure FR where
  rd : BitVec 5
  ra : BitVec 5
  rb : BitVec 5
  p  : Bool
  z  : BitVec 12
deriving DecidableEq, Repr

/-- FMA (R100): the third source rc and the bits [19:15] and [11:0] that must be zero. -/
structure F4 where
  rd : BitVec 5
  ra : BitVec 5
  rb : BitVec 5
  rc : BitVec 5
  z5 : BitVec 5
  p  : Bool
  z  : BitVec 12
deriving DecidableEq, Repr

/-- BAR and PBAR (R94): `fnHi` is fn[12:4], `store` the kind, `sc` the scope. -/
structure BarF where
  rd : BitVec 5
  ra : BitVec 5
  rb : BitVec 5
  fnHi : BitVec 9
  store : Bool
  sc : BitVec 2
  z  : BitVec 12
deriving DecidableEq, Repr

/-- CMO (R109): format M without rd, which selects the operation. -/
structure CmoF where
  ra   : BitVec 5
  seg  : BitVec 4
  disp : BitVec 26
deriving DecidableEq, Repr

/-- CMR (R110): the segment fn[12:9] and the bits fn[8:4] and [11:0] that must be zero. -/
structure CmrF where
  rd  : BitVec 5
  ra  : BitVec 5
  rb  : BitVec 5
  seg : BitVec 4
  fnMid : BitVec 5
  z   : BitVec 12
deriving DecidableEq, Repr

/-- The path on which an agent reaches a register: a processor through device space, the manager or host through
PF BAR0, a virtual function through its BAR0 (R300, R541). -/
inductive Via where
  | proc (p : BitVec 6)
  | pf
  | vf (i : BitVec 6)
deriving DecidableEq, Repr

/-- Who uses the queue machinery (R353, R378, R452). -/
inductive Client where
  | via (v : Via)
  | engine (e : BitVec 4)
  | mbova
deriving DecidableEq, Repr

/-- Who may send a request to a home (R204): a cluster, the host through the CXL block, a member of the coherence
group, or an uncached agent under its master ID (R13). -/
inductive Agent where
  | cluster (k : BitVec 3)
  | host
  | member (i : BitVec 4)
  | unc (m : BitVec 12)
deriving DecidableEq, Repr

/-- The routing registers whose event sets PEND of a cluster line (R139). -/
inductive IntSrc where
  | cc (k : BitVec 3)
  | sp (k : BitVec 3)
  | tun
  | cxl
  | chq (i : BitVec 9)
  | elc
  | cob
  | mbg
  | flt
  | pew
deriving DecidableEq, Repr

/-- The blocks that hold a first-error capture (R475). -/
inductive Blk where
  | clu (k : BitVec 3)
  | cc (k : BitVec 3)
  | ms (s : BitVec 3)
  | tun
  | cxl
  | chan (e : BitVec 4)
  | elc
  | cob
  | zn
  | mbv (l : BitVec 3)
  | mbg
  | brs
  | pew
deriving DecidableEq, Repr

/-- The snapshots of R502: which counters one REQ captures. -/
inductive SnapBlk where
  | dir | err | tun | chq | elc | cob | zn | mbg | flt | pew | clk
  | mbv (l : BitVec 3)
  | core (p : BitVec 6)
deriving DecidableEq, Repr

/-- MetaField and MetaValue of a CXL.mem request, as R317 reads them. -/
inductive Meta where
  | noop | i | s | a
deriving DecidableEq, Repr

/-- The host snoops of R297. -/
inductive Snoop where
  | data | inv | cur
deriving DecidableEq, Repr

/-- The reference clocks (R498). -/
inductive RefClk where
  | cxl | mbv | svc
deriving DecidableEq, Repr

/-- The clock islands (R497). -/
inductive Island where
  | core (n : Nat)
  | hub (k : BitVec 3)
  | network (d : Nat)
  | memctl (s : BitVec 3)
  | engines (g : BitVec 2)
  | io
  | cxl
  | mbova
  | brass
deriving DecidableEq, Repr

/-- What the board and the silicon bring to a rise of PWROK: the strap bits and whether 8 periods agreed (R525), the
Brass units that pass their self-test (R472), the cores whose comparator fails (R290), the channels that fail
training (R510). -/
structure Boot where
  straps  : BitVec 24
  stable  : Bool
  brassOk : BitVec 3
  cmpBad  : BitVec 72
  chanBad : BitVec 64
deriving DecidableEq, Repr

/-- A message that arrives over Mbova, less its link fields (R437, R446): source node, tag, status, poison, words. -/
structure RMsg where
  src    : BitVec 14
  tag    : BitVec 16
  status : BitVec 8
  pois   : Bool
  words  : List (BitVec 48)
deriving DecidableEq, Repr

/-- One reading of the sensors (R528): temperature per group in quarter degrees, mV per rail, 0.1 A per rail. -/
structure Sensors where
  temp : List Int
  volt : List Nat
  curr : List Nat
deriving DecidableEq, Repr

/-- The location a register access names: device space (BAR0 at the same offset), a doorbell page of BAR2, or the
mask of an MSI-X vector in BAR4 (R300). -/
inductive RegAddr where
  | dev (off : Nat)
  | db (page : BitVec 10) (off : Nat)
  | msix (vec : BitVec 11)
deriving DecidableEq, Repr

/-- The commands: one constructor per row of the table of steps, in the table's order. -/
inductive Instr where
  /-- Adds two general registers modulo 2^48 and sets V on signed overflow. (R77) -/
  | add (p : BitVec 6) (f : RR)
  /-- Adds two general registers modulo 2^48 without setting a flag. (R77) -/
  | addu (p : BitVec 6) (f : RR)
  /-- Subtracts two general registers and sets V on signed overflow. (R77) -/
  | sub (p : BitVec 6) (f : RR)
  /-- Subtracts two general registers without setting a flag. (R77) -/
  | subu (p : BitVec 6) (f : RR)
  /-- Negates a general register and sets V for the most negative value. (R77) -/
  | neg (p : BitVec 6) (f : RR)
  /-- Writes the bitwise and of two general registers. (R77) -/
  | and (p : BitVec 6) (f : RR)
  /-- Writes the bitwise or of two general registers. (R77) -/
  | or (p : BitVec 6) (f : RR)
  /-- Writes the bitwise xor of two general registers. (R77) -/
  | xor (p : BitVec 6) (f : RR)
  /-- Writes ra and not rb. (R77) -/
  | andn (p : BitVec 6) (f : RR)
  /-- Writes the bitwise nor of two general registers. (R77) -/
  | nor (p : BitVec 6) (f : RR)
  /-- Writes 1 if ra is below rb as signed values, else 0. (R77) -/
  | slt (p : BitVec 6) (f : RR)
  /-- Writes 1 if ra is below rb as unsigned values, else 0. (R77) -/
  | sltu (p : BitVec 6) (f : RR)
  /-- Shifts left by G[rb][5:0] and gives zero for amounts of 48 or more. (R78) -/
  | shl (p : BitVec 6) (f : RR)
  /-- Shifts right logically by G[rb][5:0]. (R78) -/
  | shr (p : BitVec 6) (f : RR)
  /-- Shifts right arithmetically by G[rb][5:0]. (R78) -/
  | sar (p : BitVec 6) (f : RR)
  /-- Rotates right by the amount modulo 48. (R78) -/
  | ror (p : BitVec 6) (f : RR)
  /-- Rotates left by the amount modulo 48. (R78) -/
  | rol (p : BitVec 6) (f : RR)
  /-- Adds a sign-extended immediate and sets V on signed overflow. (R79) -/
  | addi (p : BitVec 6) (f : RI)
  /-- Adds a sign-extended immediate without setting a flag. (R79) -/
  | addiu (p : BitVec 6) (f : RI)
  /-- Compares with a sign-extended immediate as signed values. (R79) -/
  | slti (p : BitVec 6) (f : RI)
  /-- Compares with a sign-extended immediate as unsigned values. (R79) -/
  | sltiu (p : BitVec 6) (f : RI)
  /-- Ands with a zero-extended immediate. (R79) -/
  | andi (p : BitVec 6) (f : RI)
  /-- Ors with a zero-extended immediate. (R79) -/
  | ori (p : BitVec 6) (f : RI)
  /-- Xors with a zero-extended immediate. (R79) -/
  | xori (p : BitVec 6) (f : RI)
  /-- Loads imm[23:0] shifted left by 24 into rd. (R79) -/
  | lhi (p : BitVec 6) (f : RI)
  /-- Shifts left by an immediate amount. (R79) -/
  | shli (p : BitVec 6) (f : RI)
  /-- Shifts right logically by an immediate amount. (R79) -/
  | shri (p : BitVec 6) (f : RI)
  /-- Shifts right arithmetically by an immediate amount. (R79) -/
  | sari (p : BitVec 6) (f : RI)
  /-- Rotates right by an immediate amount. (R79) -/
  | rori (p : BitVec 6) (f : RI)
  /-- Writes the low 48 bits of the signed product and sets V when it does not fit. (R80) -/
  | mul (p : BitVec 6) (f : RR)
  /-- Writes the high 48 bits of the signed product. (R80) -/
  | mulh (p : BitVec 6) (f : RR)
  /-- Writes the high 48 bits of the unsigned product. (R80) -/
  | mulhu (p : BitVec 6) (f : RR)
  /-- Starts a signed division with zero-divisor and overflow cases. (R80) -/
  | div (p : BitVec 6) (f : RR)
  /-- Starts an unsigned division. (R80) -/
  | divu (p : BitVec 6) (f : RR)
  /-- Starts a signed remainder. (R80) -/
  | rem (p : BitVec 6) (f : RR)
  /-- Starts an unsigned remainder. (R80) -/
  | remu (p : BitVec 6) (f : RR)
  /-- A multiply, divide or floating instruction completes, writes its result and sets its flags, possibly taking a completion trap. (R112) -/
  | longResultComplete (p : BitVec 6) (n : Nat)
  /-- Loads a byte, sign-extended, under the load shadow. (R86) -/
  | lb (p : BitVec 6) (f : MF)
  /-- Loads a byte, zero-extended. (R86) -/
  | lbu (p : BitVec 6) (f : MF)
  /-- Loads a half-word, sign-extended. (R86) -/
  | lh (p : BitVec 6) (f : MF)
  /-- Loads a half-word, zero-extended. (R86) -/
  | lhu (p : BitVec 6) (f : MF)
  /-- Loads a word. (R86) -/
  | lw (p : BitVec 6) (f : MF)
  /-- Loads a binary32 into F bits [31:0] and clears the upper half. (R86) -/
  | lfs (p : BitVec 6) (f : MF)
  /-- Loads a binary64 into an F register. (R86) -/
  | lfd (p : BitVec 6) (f : MF)
  /-- Stores a byte through the store buffer. (R86) -/
  | sb (p : BitVec 6) (f : MF)
  /-- Stores a half-word through the store buffer. (R86) -/
  | sh (p : BitVec 6) (f : MF)
  /-- Stores a word through the store buffer. (R86) -/
  | sw (p : BitVec 6) (f : MF)
  /-- Stores a binary32. (R86) -/
  | sfs (p : BitVec 6) (f : MF)
  /-- Stores a binary64. (R86) -/
  | sfd (p : BitVec 6) (f : MF)
  /-- A load's data arrives and is written to its destination unless superseded, or raises poison consumed. (R61) -/
  | loadDataArrival (p : BitVec 6) (n : Nat) (ext : List Byte) (pois : Bool)
  /-- Loads a word and sets the reservation to its physical address. (R90) -/
  | llw (p : BitVec 6) (f : MF)
  /-- Stores a word only if the reservation matches, writes the status and invalidates the reservation. (R91) -/
  | scw (p : BitVec 6) (f : MF)
  /-- Stores a word through the non-temporal combining buffer. (R93) -/
  | stnt (p : BitVec 6) (f : MF)
  /-- Tests a register under a condition and branches when it holds. (R82) -/
  | bc (p : BitVec 6) (f : BF)
  /-- Writes the link register and branches. (R83) -/
  | call (p : BitVec 6) (f : BF)
  /-- Jumps to a register value and writes the link. (R84) -/
  | jr (p : BitVec 6) (f : RRF)
  /-- Floating add under FPSW.RM. (R98) -/
  | fadd (p : BitVec 6) (f : FR)
  /-- Floating subtract. (R98) -/
  | fsub (p : BitVec 6) (f : FR)
  /-- Floating multiply. (R98) -/
  | fmul (p : BitVec 6) (f : FR)
  /-- Floating divide, by the method DIVCOMPAT selects at issue. (R98) -/
  | fdiv (p : BitVec 6) (f : FR)
  /-- Floating square root, by the method DIVCOMPAT selects at issue. (R98) -/
  | fsqrt (p : BitVec 6) (f : FR)
  /-- Inverts the sign bit without flags. (R98) -/
  | fneg (p : BitVec 6) (f : FR)
  /-- Clears the sign bit without flags. (R98) -/
  | fabs (p : BitVec 6) (f : FR)
  /-- Compares for equality into a G register. (R98) -/
  | feq (p : BitVec 6) (f : FR)
  /-- Compares less-than into a G register. (R98) -/
  | flt (p : BitVec 6) (f : FR)
  /-- Compares less-or-equal into a G register. (R98) -/
  | fle (p : BitVec 6) (f : FR)
  /-- Tests for unordered operands. (R98) -/
  | funord (p : BitVec 6) (f : FR)
  /-- Converts between binary32 and binary64. (R98) -/
  | fcvtP (p : BitVec 6) (f : FR)
  /-- Converts a floating value to a signed 48-bit integer. (R98) -/
  | fcvtI (p : BitVec 6) (f : FR)
  /-- Converts a signed integer to floating. (R98) -/
  | fcvtF (p : BitVec 6) (f : FR)
  /-- Moves G bits [31:0] into F bits [31:0] and clears the upper half. (R98) -/
  | fmvgfLo (p : BitVec 6) (f : RR)
  /-- Moves G bits [31:0] into F bits [63:32]. (R98) -/
  | fmvgfHi (p : BitVec 6) (f : RR)
  /-- Moves F bits [31:0] into a G register. (R98) -/
  | fmvfgLo (p : BitVec 6) (f : RR)
  /-- Moves F bits [63:32] into a G register. (R98) -/
  | fmvfgHi (p : BitVec 6) (f : RR)
  /-- Fused multiply-add with one rounding. (R100) -/
  | fmadd (p : BitVec 6) (f : F4)
  /-- Fused multiply-subtract. (R100) -/
  | fmsub (p : BitVec 6) (f : F4)
  /-- Negated product plus addend, fused. (R100) -/
  | fnmsub (p : BitVec 6) (f : F4)
  /-- Negated product minus addend, fused. (R100) -/
  | fnmadd (p : BitVec 6) (f : F4)
  /-- Issues a full or store barrier of a scope, placing a marker or holding issue. (R162) -/
  | bar (p : BitVec 6) (f : BarF)
  /-- Issues a barrier that also waits for persist-class stores to enter the persistence domain. (R164) -/
  | pbar (p : BitVec 6) (f : BarF)
  /-- A waiting barrier's wait ends and it completes, raising the barrier fault if it covered a dropped store. (R162) -/
  | barrierComplete (p : BitVec 6)
  /-- Starts a byte copy micro-routine with progress in G1 to G3. (R102) -/
  | bmove (p : BitVec 6) (f : RR)
  /-- Starts a byte fill micro-routine. (R102) -/
  | bfill (p : BitVec 6) (f : RR)
  /-- Starts a byte compare micro-routine. (R102) -/
  | bcmp (p : BitVec 6) (f : RR)
  /-- Starts a byte scan micro-routine. (R102) -/
  | bscan (p : BitVec 6) (f : RR)
  /-- Starts a CRC-32C micro-routine. (R102) -/
  | cksum (p : BitVec 6) (f : RR)
  /-- One step of a micro-routine completes up to a line boundary, ending at a marked boundary. (R104) -/
  | microRoutineStep (p : BitVec 6) (ext : List Byte) (pois : Bool)
  /-- Loads a segment register from a checked descriptor. (R46) -/
  | segld (p : BitVec 6) (f : RI)
  /-- Writes a segment register's present bit and index to rd. (R97) -/
  | segix (p : BitVec 6) (f : RRF)
  /-- Reads PSW after earlier integer flag updates. (R27) -/
  | rdpsw (p : BitVec 6) (f : RR)
  /-- Writes PSW within the privilege limits. (R27) -/
  | wrpsw (p : BitVec 6) (f : RR)
  /-- Reads FPSW after earlier floating instructions complete. (R121) -/
  | rdfpsw (p : BitVec 6) (f : RR)
  /-- Writes FPSW after earlier floating instructions complete. (R121) -/
  | wrfpsw (p : BitVec 6) (f : RR)
  /-- Reads the module time base through a snapshot. (R107) -/
  | rdtime (p : BitVec 6) (f : RR)
  /-- Restores PSW, S15 and IP from the saved state and clears ACT. (R131) -/
  | rfe (p : BitVec 6) (f : RR)
  /-- Stops the processor until the manager starts it. (R108) -/
  | halt (p : BitVec 6) (f : RR)
  /-- Suspends the processor until an interrupt is pending. (R108) -/
  | wait (p : BitVec 6) (f : RR)
  /-- Reads a control register by number. (R106) -/
  | mfcr (p : BitVec 6) (f : RI)
  /-- Writes a control register by number, effective for the next instruction. (R35) -/
  | mtcr (p : BitVec 6) (f : RI)
  /-- Raises the supervisor call with a code. (R106) -/
  | svc (p : BitVec 6) (f : RI)
  /-- Raises the debug exception with a code. (R106) -/
  | brk (p : BitVec 6) (f : RI)
  /-- Writes a dirty line to the main store and keeps it cached. (R109) -/
  | cmoClean (p : BitVec 6) (f : CmoF)
  /-- Cleans a line and invalidates it in every cache. (R109) -/
  | cmoClinv (p : BitVec 6) (f : CmoF)
  /-- Invalidates a line in the issuing core's L1 instruction cache. (R109) -/
  | cmoIinv (p : BitVec 6) (f : CmoF)
  /-- Starts a range clean job on the cluster maintenance engine. (R110) -/
  | cmrClean (p : BitVec 6) (f : CmrF)
  /-- Starts a range clean-and-invalidate job. (R110) -/
  | cmrCleanInvalidate (p : BitVec 6) (f : CmrF)
  /-- Starts a range preload job into the cluster cache. (R110) -/
  | cmrPreload (p : BitVec 6) (f : CmrF)
  /-- The processor takes the highest-ranked due exception at a boundary, saves state and loads the vector. (R128) -/
  | exceptionEntry (p : BitVec 6) (word : BitVec 48)
  /-- A block event sets PEND of the cluster line it names. (R139) -/
  | interruptLineEvent (src : IntSrc)
  /-- A read of IACK claims the chosen presented line and clears its PEND. (R141) -/
  | iack (p : BitVec 6)
  /-- A write sets PEND of inter-processor lines. (R142) -/
  | cluIpi (a : Via) (k : BitVec 3) (v : BitVec 48)
  /-- The time base passes TCMP while EN is 1 and PEND sets. (R143) -/
  | timerCompareReached (p : BitVec 6)
  /-- An asynchronous input reaches both cores of a pair at the chosen retirement count. (R283) -/
  | agreementExchangeDelivery (p : BitVec 6)
  /-- A pipeline parity error or comparator mismatch triggers a retry or escalation. (R149) -/
  | detectedTransient (p : BitVec 6) (kind : BitVec 4)
  /-- The comparator reports a difference between leader and checker items. (R280) -/
  | comparatorMismatch (p : BitVec 6) (kind : BitVec 4)
  /-- The pair self-test ends and Brass places cores or stops the processor. (R285) -/
  | selfTestOutcome (k : BitVec 3) (leadOk chkOk : Bool)
  /-- A rail or delay-register fault sets UNCHK and CHKBAD without retry. (R288) -/
  | checkerPathFault (k : BitVec 3) (core : BitVec 4)
  /-- At the next quiet point the checker role moves to a free spare. (R288) -/
  | quietPointCheckerMove (p : BitVec 6)
  /-- Moves the core hosting a slot onto the free spare. (R291) -/
  | spctlMove (a : Via) (k : BitVec 3) (slot : BitVec 3)
  /-- Runs self-test on a retired core. (R291) -/
  | spctlRetest (a : Via) (k : BitVec 3) (core : BitVec 4) (pass : Bool)
  /-- Inverts a bit of the next checker register result to cause a mismatch. (R294) -/
  | chkinjMism (p : BitVec 6)
  /-- Inverts one rail of the next comparison. (R294) -/
  | chkinjCpf (p : BitVec 6)
  /-- Inverts parity of the next pipeline register. (R294) -/
  | chkinjPar (p : BitVec 6)
  /-- The head store-buffer entry departs into L1 or an outstanding-store slot. (R158) -/
  | storeDepart (p : BitVec 6)
  /-- Ownership arrives for a slot and its entry is written. (R158) -/
  | ownershipArrival (p : BitVec 6) (n : Nat)
  /-- A target acknowledges a posted write and frees the slot. (R158) -/
  | postedWriteAck (p : BitVec 6) (n : Nat)
  /-- A slotted store unanswered for 2 µs is dropped and recorded. (R166) -/
  | storeTimeout (p : BitVec 6) (n : Nat)
  /-- An unanswered load for 2 µs is treated as poisoned. (R167) -/
  | loadTimeout (p : BitVec 6) (n : Nat)
  /-- The delay after a failed SCW ends and the next LLW requests ownership. (R172) -/
  | llwBackoffExpiry (p : BitVec 6)
  /-- A write of DST = 0 sets disable pending and queues a control job. (R187) -/
  | l1DataDisable (a : Via) (p : BitVec 6)
  /-- A write of DST = 1 from disabled enables the cache empty. (R187) -/
  | l1DataEnable (a : Via) (p : BitVec 6)
  /-- A write of IST = 0 invalidates and disables the instruction cache. (R188) -/
  | l1InstructionDisable (a : Via) (p : BitVec 6)
  /-- A write of IST = 1 enables the instruction cache. (R188) -/
  | l1InstructionEnable (a : Via) (p : BitVec 6)
  /-- Invalidates the whole L1 instruction cache of the core and its checker. (R180) -/
  | l1invIall (a : Via) (p : BitVec 6)
  /-- A write of STATE = 0 sets disable pending and queues a control job. (R189) -/
  | clusterCacheDisable (a : Via) (k : BitVec 3)
  /-- A write of STATE = 1 from disabled enables the cluster cache. (R189) -/
  | clusterCacheEnable (a : Via) (k : BitVec 3)
  /-- A MOP write starts a register range clean job. (R185) -/
  | mopClean (a : Via) (k : BitVec 3)
  /-- A MOP write starts a register range clean-and-invalidate job. (R185) -/
  | mopCleanInvalidate (a : Via) (k : BitVec 3)
  /-- A MOP write starts a register range preload job. (R185) -/
  | mopPreload (a : Via) (k : BitVec 3)
  /-- Locks or unlocks ways, refusing locks of ways being powered down. (R193) -/
  | ccLockWrite (a : Via) (k : BitVec 3) (v : BitVec 48)
  /-- Queues a power-down or power-up control job for ways. (R192) -/
  | ccPwrWrite (a : Via) (k : BitVec 3) (v : BitVec 48)
  /-- The maintenance engine starts the next queued control job. (R184) -/
  | controlJobStart (k : BitVec 3)
  /-- A maintenance job ends with its status and raises MINT. (R186) -/
  | maintenanceJobEnd (k : BitVec 3)
  /-- The homes finish searching for the lost tag and poison or release the line. (R196) -/
  | tagParitySearchComplete (k : BitVec 3)
  /-- A home acts on a shared read request. (R205) -/
  | rds (line : Nat) (r : Agent)
  /-- A home acts on an exclusive read request. (R205) -/
  | rdx (line : Nat) (r : Agent)
  /-- A home acts on an upgrade request. (R205) -/
  | upg (line : Nat) (r : Agent)
  /-- A home acts on a writeback, with any retain value. (R205) -/
  | wb (line : Nat) (r : Agent)
  /-- A home acts on a clean eviction report. (R205) -/
  | evc (line : Nat) (r : Agent)
  /-- A home serves an uncached snapshot read. (R205) -/
  | rdu (line : Nat) (r : Agent)
  /-- A home replaces all 96 bytes of a line. (R205) -/
  | wrf (line : Nat) (r : Agent)
  /-- A home merges some bytes into a line. (R205) -/
  | wrp (line : Nat) (r : Agent)
  /-- A home has dirty data written to the array. (R205) -/
  | cln (line : Nat) (r : Agent)
  /-- A home writes dirty data and drops every copy. (R205) -/
  | clinv (line : Nat) (r : Agent)
  /-- An owner passes a shared copy to the requester. (R206) -/
  | fwds (line : Nat) (r : Agent)
  /-- An owner or eviction buffer passes the line with ownership. (R211) -/
  | fwdx (line : Nat) (r : Agent)
  /-- An owner passes a stateless copy. (R206) -/
  | fwdu (line : Nat) (r : Agent)
  /-- A sharer drops its copy and acknowledges. (R205) -/
  | inv (line : Nat) (r : Agent)
  /-- An owner returns the line with its data to the home. (R205) -/
  | recall (line : Nat) (r : Agent)
  /-- A requester receives data and grant and enters its new state. (R201) -/
  | dataGrant (line : Nat) (r : Agent)
  /-- A requester counts an invalidation acknowledgement and leaves MA at the last. (R201) -/
  | invAck (line : Nat) (r : Agent)
  /-- The home receives the requester's completion and closes the transaction. (R208) -/
  | cmp (line : Nat) (r : Agent)
  /-- A writeback acknowledgement frees an eviction-buffer entry. (R200) -/
  | wback (line : Nat) (r : Agent)
  /-- An eviction acknowledgement frees an eviction-buffer entry. (R200) -/
  | evack (line : Nat) (r : Agent)
  /-- A requester receives Retry with a back-off count. (R209) -/
  | retry (line : Nat) (r : Agent)
  /-- The back-off ends and the request is sent again. (R209) -/
  | retryBackoffExpiry (line : Nat) (r : Agent)
  /-- A reserved directory way is released after 4 µs. (R209) -/
  | persistentReservationExpiry (line : Nat) (r : Agent)
  /-- A requester receives Pending, which resets its time-out. (R210) -/
  | pending (line : Nat) (r : Agent)
  /-- A home still working on a request sends Pending every 1 µs. (R210) -/
  | pendingTick (line : Nat)
  /-- A home takes a line back from the host by BISnp messages. (R215) -/
  | backInvalidation (line : Nat)
  /-- The host fails to answer in 100 µs and its copy is taken as lost. (R216) -/
  | backInvalidationTimeout (line : Nat)
  /-- A group member fails to answer in 100 µs and is removed with its lines poisoned. (R221) -/
  | memberLost (m : BitVec 4)
  /-- Captures the directory counters of every slice. (R220) -/
  | dirsnapReq (a : Via)
  /-- Read codewords are decoded and delivered, corrected or poisoned. (R227) -/
  | mainStoreReadResult (line : Nat) (err : List (BitVec 56)) (m : BitVec 12)
  /-- The scrubber reads its next line on schedule and writes back corrections. (R234) -/
  | scrubRead (st : BitVec 3)
  /-- Captures the main-store counters of every stack. (R241) -/
  | errsnapReq (a : Via)
  /-- A home grants or holds a persist grant against the dirty budget. (R255) -/
  | persistGrantRequest (line : Nat) (r : Agent)
  /-- A held grant is served as captures lower the dirty count. (R256) -/
  | heldGrantServed (st : BitVec 3)
  /-- A new epoch's sweep starts after the interval or a CUT command. (R258) -/
  | epochCut
  /-- The imager captures a dirty line, clearing D. (R258) -/
  | imagerCapture (st : BitVec 3)
  /-- All sweeps end and the commit record closes the epoch. (R258) -/
  | epochClose
  /-- Cuts the next epoch without waiting. (R273) -/
  | tunCut (a : Via)
  /-- Starts a planned flush. (R266) -/
  | tunPflush (a : Via)
  /-- Repeats the hold-up check. (R248) -/
  | tunRecheck (a : Via)
  /-- Selects a cold start while NORES is 1. (R267) -/
  | tunFormat (a : Via)
  /-- Sets the requested dirty budget at once. (R257) -/
  | tunBudgetWrite (a : Via) (v : BitVec 48)
  /-- Captures the Tungsten counters. (R273) -/
  | tunSnapReq (a : Via)
  /-- PFAIL_N low for 80 ns starts the flush. (R261) -/
  | pfailTrip (ns : Nat)
  /-- VHOLD below 11.0 V starts the flush. (R261) -/
  | vholdTrip (mv : Nat)
  /-- The flush commit record is written and FLUSH_DONE signalled. (R262) -/
  | flushDone (us : Nat)
  /-- A flush still running at T_F becomes a deadline miss. (R265) -/
  | flushDeadlineMiss
  /-- VHOLD or HUOK falls below its limit and the flush aborts with code 7. (R265) -/
  | flushAbort
  /-- Firmware waits for VHOLD, rehearses and sets HUP and the budget. (R247) -/
  | holdUpCheck (mv : Nat) (us : Nat)
  /-- Power-good starts the boot and resume sequence. (R510) -/
  | pwrokRise (b : Boot)
  /-- A fall of PWROK resets the module. (R533) -/
  | pwrokFall
  /-- Firmware releases processors, writes the resume code and sets RUN. (R510) -/
  | processorsReleased
  /-- A producer-index write covers slots or raises ring error 1. (R306) -/
  | sqpi (fn : BitVec 6) (page : BitVec 10) (v : BitVec 32)
  /-- A consumer-index write retires entries and clears HELD, or raises ring error 3. (R310) -/
  | cqci (fn : BitVec 6) (page : BitVec 10) (v : BitVec 32)
  /-- A submission slot's data arrives and is handed to Electrum. (R307) -/
  | descriptorFetchComplete (q : BitVec 10) (idx : BitVec 32) (data : List Byte) (pois : Bool)
  /-- A fetch unanswered for 2 µs raises ring error 2. (R312) -/
  | descriptorFetchTimeout (q : BitVec 10)
  /-- A completion is written to the ring when room exists. (R308) -/
  | completionWrite (q : BitVec 10)
  /-- The host gives GO and CQPI advances. (R308) -/
  | completionGo (q : BitVec 10) (idx : BitVec 32)
  /-- A completion write without GO for 2 µs raises ring error 4. (R312) -/
  | completionGoTimeout (q : BitVec 10)
  /-- The oldest unsignalled completion reaches TUS and the vector is signalled. (R311) -/
  | completionInterruptTimer (q : BitVec 10)
  /-- EN from 0 to 1 resets the ring indices. (R304) -/
  | ringPairEnable (a : Via) (q : BitVec 10) (v : BitVec 48)
  /-- EN = 0 takes effect only with no unretired entry. (R304) -/
  | ringPairDisable (a : Via) (q : BitVec 10) (v : BitVec 48)
  /-- Host read mapped by MetaValue onto RdU, RdS or RdX. (R317) -/
  | memrd (h : Nat) (mv : Meta)
  /-- Host shared read mapped onto RdS. (R317) -/
  | memrddata (h : Nat) (mv : Meta)
  /-- Host invalidate mapped onto RdX or EvC. (R317) -/
  | meminv (h : Nat) (mv : Meta)
  /-- Host clean eviction mapped onto EvC. (R317) -/
  | memclnevct (h : Nat)
  /-- Host speculative read, no action. (R317) -/
  | memspecrd (h : Nat)
  /-- Host write mapped onto WB with retain or WrP. (R317) -/
  | memwr (h : Nat) (mv : Meta) (data : List Byte) (pois : Bool)
  /-- Host partial write mapped onto WB with retain or WrP. (R317) -/
  | memwrptl (h : Nat) (mv : Meta) (data : List Byte) (mask : BitVec 64) (pois : Bool)
  /-- An unsupported CXL.mem request gets Cmp and an event. (R317) -/
  | unsupportedMemRequest (op : BitVec 8) (h : Nat)
  /-- A host snoop to the device cache is answered. (R297) -/
  | hostSnoop (kind : Snoop) (h : Nat)
  /-- The host commits the HDM decoder, refused when misaligned or not running. (R316) -/
  | hdmCommit (base : Nat)
  /-- The module waits for GO on CXL.cache writes and stops issuing them. (R321) -/
  | gpfPhase1
  /-- Phase 2 of global persistent flush, needing no action. (R321) -/
  | gpfPhase2
  /-- The CXL link trains and CXL.cache and CXL.mem are enabled or not. (R298) -/
  | linkTrained (width : BitVec 5) (rate : BitVec 3) (flit : BitVec 2)
  /-- A managed removal holds rings and back-invalidates host lines. (R324) -/
  | detach (a : Via)
  /-- An attach restores ring pairs, sets HELD and RESUMED and sets RUN. (R322) -/
  | attach (a : Via)
  /-- Link loss or viral sets DETACHED and holds every ring. (R325) -/
  | surpriseRemoval (viral : Bool)
  /-- Tungsten acknowledges the entry write and the descriptor is accepted. (R339) -/
  | descriptorAccept (q : BitVec 10)
  /-- An idle engine resumes a parked program or takes the next descriptor. (R351) -/
  | dispatch (e : BitVec 4)
  /-- A write of ELC_ABORT aborts the named descriptor by its state. (R345) -/
  | abort (a : Via) (q : BitVec 10)
  /-- A read of RESV reserves the lowest free slot. (R353) -/
  | resv (a : Client) (i : BitVec 9)
  /-- Commits or discards an item in a reserved slot. (R353) -/
  | commit (a : Client) (i : BitVec 9) (v : BitVec 48)
  /-- A read of READ returns and holds the next available item. (R355) -/
  | read (a : Client) (i : BitVec 9)
  /-- Sets the mark at the end of the held list. (R356) -/
  | mark (a : Client) (i : BitVec 9)
  /-- Makes items held after the mark available again. (R356) -/
  | rewind (a : Client) (i : BitVec 9)
  /-- Frees every held slot and clears the mark. (R356) -/
  | release (a : Client) (i : BitVec 9)
  /-- A write of EN = 0 discards every item, reservation and mark. (R352) -/
  | queueDisable (a : Client) (i : BitVec 9)
  /-- Every 1 µs items and waiting descriptors past their age become urgent. (R357) -/
  | queueAgingCheck
  /-- Every 1 µs expired deadlines of unfinished entries are recorded. (R360) -/
  | deadlineCheck
  /-- The partner's acknowledgement completes a mirrored write. (R348) -/
  | mirrorWriteAck (tag : BitVec 16)
  /-- A mirror write without acknowledgement for 20 µs breaks the mirror. (R349) -/
  | mirrorBreak
  /-- A write of ELC_MIR starts resynchronisation or ends mirroring. (R349) -/
  | mirWrite (a : Via) (v : BitVec 48)
  /-- Resynchronisation ends and clears RESYNC and BROKEN. (R349) -/
  | resyncComplete
  /-- Captures the channel counters. (R365) -/
  | chqSnapReq (a : Via)
  /-- Captures the Electrum counters. (R366) -/
  | elcSnapReq (a : Via)
  /-- Issues a microword and continues at the next address. (R371) -/
  | sqNext (e : BitVec 4)
  /-- Issues a microword and jumps to NEXT. (R371) -/
  | sqJump (e : BitVec 4)
  /-- Issues a microword and branches on the condition. (R371) -/
  | sqBr (e : BitVec 4)
  /-- Issues a microword, pushes the return and jumps. (R371) -/
  | sqCall (e : BitVec 4)
  /-- Issues a microword and returns to the popped address. (R371) -/
  | sqRet (e : BitVec 4)
  /-- Issues a microword and dispatches on the ALU result. (R371) -/
  | sqDisp (e : BitVec 4)
  /-- Parks the program until its reply arrives. (R378) -/
  | sqPark (e : BitVec 4)
  /-- Ends the program and forms the completion. (R379) -/
  | sqEnd (e : BitVec 4)
  /-- ALU adds A and B. (R373) -/
  | aopAdd (e : BitVec 4)
  /-- ALU subtracts B from A. (R373) -/
  | aopSub (e : BitVec 4)
  /-- ALU ands A and B. (R373) -/
  | aopAnd (e : BitVec 4)
  /-- ALU ors A and B. (R373) -/
  | aopOr (e : BitVec 4)
  /-- ALU xors A and B. (R373) -/
  | aopXor (e : BitVec 4)
  /-- ALU computes A and not B. (R373) -/
  | aopAndn (e : BitVec 4)
  /-- ALU unsigned minimum. (R373) -/
  | aopMin (e : BitVec 4)
  /-- ALU unsigned maximum. (R373) -/
  | aopMax (e : BitVec 4)
  /-- ALU passes A. (R373) -/
  | aopMove (e : BitVec 4)
  /-- ALU shifts A left. (R373) -/
  | aopShl (e : BitVec 4)
  /-- ALU shifts A right logically. (R373) -/
  | aopShr (e : BitVec 4)
  /-- ALU sets flags from A minus B without writing. (R373) -/
  | aopCmp (e : BitVec 4)
  /-- Shifter extracts a field zero-extended. (R374) -/
  | sopExt (e : BitVec 4)
  /-- Shifter extracts a field sign-extended. (R374) -/
  | sopExts (e : BitVec 4)
  /-- Shifter inserts a field. (R374) -/
  | sopIns (e : BitVec 4)
  /-- Shifter writes a shifted literal. (R374) -/
  | sopLit (e : BitVec 4)
  /-- Mover reads up to 6,144 bytes into a buffer. (R376) -/
  | mopRd (e : BitVec 4)
  /-- Mover writes a buffer's bytes to an address. (R376) -/
  | mopWr (e : BitVec 4)
  /-- Fills a buffer with a literal byte. (R376) -/
  | mopFill (e : BitVec 4)
  /-- Waits for earlier mover operations to finish. (R376) -/
  | mopWait (e : BitVec 4)
  /-- A mover operation finishes and sets V30 on failure. (R376) -/
  | moverOpComplete (e : BitVec 4) (b : BitVec 2) (st : BitVec 8) (ext : List Byte)
  /-- Reserves a queue slot on the engine's behalf. (R378) -/
  | xopResv (e : BitVec 4)
  /-- Commits an item from microcode. (R378) -/
  | xopCommit (e : BitVec 4)
  /-- Reads the next queue item from microcode. (R378) -/
  | xopRead (e : BitVec 4)
  /-- Issues a queue command from microcode. (R378) -/
  | xopCmd (e : BitVec 4)
  /-- Computes a queue slot address. (R378) -/
  | xopQaddr (e : BitVec 4)
  /-- Submits a Cobalt piece. (R410) -/
  | xopCob (e : BitVec 4)
  /-- Submits a Zinc piece. (R411) -/
  | xopZn (e : BitVec 4)
  /-- Sets the program's reply match for the next PARK. (R378) -/
  | xopPostc (e : BitVec 4)
  /-- Reads the time base into a register. (R378) -/
  | xopTime (e : BitVec 4)
  /-- A port operation's result is written when it arrives. (R375) -/
  | portResultArrival (e : BitVec 4) (n : Nat)
  /-- A matching reply is committed and the parked program becomes ready to resume. (R378) -/
  | parkedProgramReply (e : BitVec 4) (n : Nat)
  /-- 32,768 engine cycles without BND cause a microcode fault. (R380) -/
  | bndWatchdogExpiry (e : BitVec 4)
  /-- Stores a microword at UADDR and increments it. (R388) -/
  | udata2Write (a : Via) (e : BitVec 4) (v : BitVec 48)
  /-- Reads the word at UADDR into UDATA0 to UDATA2. (R388) -/
  | uctlRead (a : Via) (e : BitVec 4)
  /-- Loads an Izdel image into the stores and program table. (R386) -/
  | loadimg (a : Via)
  /-- Loads an image and copies it into the configuration region. (R386) -/
  | install (a : Via)
  /-- Deletes an installed image. (R386) -/
  | remove (a : Via)
  /-- A Cobalt piece finishes and its results return. (R410) -/
  | cobaltPieceComplete (e : BitVec 4) (n : Nat) (ext aad : List Byte) (st : BitVec 8)
  /-- A Zinc piece finishes and its results return. (R411) -/
  | zincPieceComplete (e : BitVec 4) (n : Nat) (ext : List Byte) (st : BitVec 8)
  /-- Loads a key slot once earlier requests finish. (R401) -/
  | kloadLoad (a : Via) (v : BitVec 48)
  /-- Zeroes a key slot once earlier requests finish. (R401) -/
  | kloadZero (a : Via) (v : BitVec 48)
  /-- A waiting slot command takes effect and BUSY clears. (R401) -/
  | keySlotCommandComplete
  /-- The next counter ceiling is durable and waiting encryptions proceed. (R403) -/
  | ceilingWriteComplete (slot : BitVec 12)
  /-- The random source fails its health test and Cobalt is fenced. (R398) -/
  | rngHealthFail
  /-- Captures Cobalt counters for the selected slot. (R415) -/
  | cobSnapReq (a : Via)
  /-- Captures Zinc counters. (R416) -/
  | znSnapReq (a : Via)
  /-- Checks the staged configuration and creates the instance. (R421) -/
  | create (a : Via) (i : BitVec 6)
  /-- Checks and puts a changed staged configuration in force. (R421) -/
  | apply (a : Via) (i : BitVec 6)
  /-- Resets if needed and frees every resource of the instance. (R422) -/
  | destroy (a : Via) (i : BitVec 6)
  /-- Stops, fences and resets an instance and reports its entries. (R427) -/
  | reset (a : Via) (i : BitVec 6)
  /-- Holds rings and starts waiting for programs to end. (R428) -/
  | freeze (a : Via) (i : BitVec 6)
  /-- No program of the instance remains and its processors stop. (R428) -/
  | freezeDrainComplete (i : BitVec 6)
  /-- Continues a frozen instance. (R428) -/
  | thaw (a : Via) (i : BitVec 6)
  /-- Writes the instance image of a frozen instance. (R429) -/
  | save (a : Via) (i : BitVec 6) (st : BitVec 8)
  /-- Builds an instance from an image. (R431) -/
  | restore (a : Via) (i : BitVec 6) (ext : List Byte) (st : BitVec 8)
  /-- Continues a stopped processor or makes a boot start. (R423) -/
  | start (a : Via) (i : BitVec 6) (p : BitVec 6)
  /-- Stops a processor at its next interruptible boundary. (R423) -/
  | stop (a : Via) (i : BitVec 6) (p : BitVec 6)
  /-- Inbound doorbell sets IFULL and the mailbox interrupt. (R424) -/
  | mbidb (a : Via) (i : BitVec 6)
  /-- Program acknowledges and clears IFULL. (R424) -/
  | mbiack (a : Via) (i : BitVec 6)
  /-- Outbound doorbell sets OFULL and signals MSI-X. (R424) -/
  | mbodb (a : Via) (i : BitVec 6)
  /-- Host acknowledges and clears OFULL. (R424) -/
  | mboack (a : Via) (i : BitVec 6)
  /-- A waiting manager report is written to the report ring. (R425) -/
  | reportPost
  /-- A report write without GO for 2 µs sets NOGO. (R425) -/
  | reportGoTimeout
  /-- The manager's consumer index write frees slots and clears NOGO. (R425) -/
  | rptci (a : Via) (v : BitVec 48)
  /-- An Mbova link attempts training every 100 ms while EN is 1. (R435) -/
  | linkTrainingAttempt (l : BitVec 3) (rx tx : BitVec 8)
  /-- A flit is checked, credits returned, and accepted or NAKed. (R439) -/
  | flitReceive (l : BitVec 3) (flit : List Byte)
  /-- A NAK makes the sender replay flits after LACK. (R439) -/
  | nak (l : BitVec 3) (lack : BitVec 8)
  /-- LACK not advancing for 1 µs makes the sender replay. (R439) -/
  | replayTimeout (l : BitVec 3)
  /-- After 8 replays or a lane failure the link retrains. (R439) -/
  | linkRetrain (l : BitVec 3)
  /-- A failed retrain takes the link down and reroutes or discards flits. (R440) -/
  | linkDown (l : BitVec 3)
  /-- A peer's HELLO is checked against the local shape and position. (R456) -/
  | hello (l : BitVec 3) (node : BitVec 14) (shape : BitVec 48) (dir : BitVec 3) (feat0 : BitVec 48)
  /-- Both ends accept and the link becomes active. (R456) -/
  | accept (l : BitVec 3)
  /-- The handshake is rejected and the link carries management only. (R456) -/
  | reject (l : BitVec 3)
  /-- A neighbour's GONE marks links down. (R459) -/
  | gone (l : BitVec 3)
  /-- A neighbour's LEAVE takes its links down. (R458) -/
  | leaveMessage (l : BitVec 3)
  /-- A remote read is checked and served at the home as RdU. (R448) -/
  | rrd (m : RMsg)
  /-- A remote write is checked and served as WrF or WrP. (R448) -/
  | rwr (m : RMsg)
  /-- A remote atomic FADD, SWAP or CAS is performed at the home. (R448) -/
  | rat (m : RMsg)
  /-- An answer ends a remote request. (R447) -/
  | rsp (m : RMsg)
  /-- A pending answer keeps a remote request alive. (R447) -/
  | pnd (m : RMsg)
  /-- A coherence request from a group member is delivered in CSEQ order. (R454) -/
  | crq (m : RMsg)
  /-- A coherence response from a group member is delivered in CSEQ order. (R454) -/
  | crs (m : RMsg)
  /-- A ledger-mirror write is stored and acknowledged. (R453) -/
  | lmw (m : RMsg)
  /-- A remote doorbell commits a queue item at the home. (R452) -/
  | dbl (m : RMsg)
  /-- A buffered doorbell tries to reserve again every 1 µs. (R452) -/
  | doorbellRetry
  /-- The root counts a barrier arrival and releases at COUNT. (R455) -/
  | sba (m : RMsg)
  /-- A barrier release clears WAIT, sets DONE and increments GEN. (R455) -/
  | sbr (c : BitVec 2) (gen : BitVec 16) (aborted : Bool)
  /-- The Mbova block answers an outstanding requester with Pending every 1 µs. (R447) -/
  | remotePendingTick (tag : BitVec 16)
  /-- No answer from the home for 100 µs stops Pending. (R447) -/
  | fabricTimeout (tag : BitVec 16)
  /-- Operation slot issues a remote fetch-and-add. (R451) -/
  | opFadd (a : Via) (slot : BitVec 7) (node : BitVec 14)
  /-- Operation slot issues a remote swap. (R451) -/
  | opSwap (a : Via) (slot : BitVec 7) (node : BitVec 14)
  /-- Operation slot issues a remote compare-and-swap. (R451) -/
  | opCas (a : Via) (slot : BitVec 7) (node : BitVec 14)
  /-- Operation slot issues a remote doorbell. (R451) -/
  | opDoorbell (a : Via) (slot : BitVec 7) (node : BitVec 14)
  /-- Arrives at a system barrier once earlier remote writes have answers. (R455) -/
  | arrive (a : Via) (c : BitVec 2)
  /-- The root aborts a system barrier. (R455) -/
  | sbAbort (a : Via) (c : BitVec 2)
  /-- The module leaves the fabric. (R458) -/
  | leave (a : Via)
  /-- Captures link counters. (R461) -/
  | mbvSnapReq (a : Via) (l : BitVec 3)
  /-- Captures fabric counters. (R463) -/
  | mbgSnapReq (a : Via)
  /-- Voters find differing outputs and vote a unit out. (R468) -/
  | voterDisagreement (v0 v1 v2 : BitVec 8)
  /-- A unit's internal check fires and lowers its HEALTH. (R467) -/
  | brassInternalCheck (u : BitVec 2)
  /-- A unit's self-test ends with resynchronisation or failure. (R469) -/
  | unitSelfTestComplete (u : BitVec 2) (pass : Bool)
  /-- Starts a rotation through the three units. (R470) -/
  | rotate (a : Via) (v : BitVec 48)
  /-- The next unit steps out between sequences for self-test. (R470) -/
  | rotationStep
  /-- AGE advances an hour and records overdue rotations. (R471) -/
  | rotationAgeHour
  /-- Claims the captured error when the time matches. (R479) -/
  | feClaim (a : Via) (b : Blk) (v : BitVec 48)
  /-- A write of VALID frees the capture unless a claim is missing. (R475) -/
  | feStatFree (a : Via) (b : Blk) (v : BitVec 48)
  /-- Arms a check-bit injection for a block's checker. (R485) -/
  | feInjArm (a : Via) (b : Blk) (v : BitVec 48)
  /-- An unclaimed error escalates to CONTAINED or FATAL. (R477) -/
  | escalationTimerExpiry (b : Blk)
  /-- A block leaves fault state after QUIET_S with no new error. (R484) -/
  | quietPeriodExpiry (b : Blk) (c : BitVec 3)
  /-- Releases a containment of a processor or instance. (R481) -/
  | crel (a : Via) (v : BitVec 48)
  /-- Captures every error counter. (R487) -/
  | fltSnapReq (a : Via)
  /-- The next queued record is written to a slot in Tungsten. (R493) -/
  | pewterRecordWrite (ok : Bool)
  /-- A bucket gains a token and writes a SUMMARY when full with suppressions. (R492) -/
  | tokenBucketRefill (code : BitVec 16)
  /-- Records a calendar anchor. (R491) -/
  | ancw (a : Via) (v : BitVec 48)
  /-- Records a host note. (R491) -/
  | notew (a : Via) (v : BitVec 48)
  /-- Reads a Pewter slot into RDATA. (R494) -/
  | rcmd (a : Via) (v : BitVec 48)
  /-- Captures Pewter counters. (R495) -/
  | pewSnapReq (a : Via)
  /-- Every 1,000 ms firmware checkpoints MS, PCYC and SEQ. (R490) -/
  | checkpointTick
  /-- Requests a processor clock change at its next boundary. (R499) -/
  | clkProcSet (a : Via) (p : BitVec 6) (v : BitVec 48)
  /-- The island relocks and the processor continues. (R499) -/
  | clockRelockComplete (p : BitVec 6)
  /-- A reference clock stops or strays and its consumers react. (R498) -/
  | referenceClockLoss (r : RefClk) (khz : Nat)
  /-- Counters are copied at a tick and RDY sets. (R502) -/
  | snapshotCapture (b : SnapBlk)
  /-- Firmware resets an island and re-arms its crossings. (R503) -/
  | islandReset (isl : Island)
  /-- A crossing not clear within 10 µs has failed. (R504) -/
  | crossingRearmTimeout (isl : Island)
  /-- Starts a restart by planned flush and reboot. (R507) -/
  | sysResetRestart (a : Via) (v : BitVec 48)
  /-- Locks RWL fields until module reset. (R516) -/
  | sysLock (a : Via) (v : BitVec 48)
  /-- Copies a boot program into the configuration region. (R512) -/
  | bootProgramInstall (a : Via) (v : BitVec 48)
  /-- Removes the installed boot program. (R512) -/
  | bootProgramRemove (a : Via) (v : BitVec 48)
  /-- Captures clock counters. (R518) -/
  | clkSnapReq (a : Via)
  /-- Requests a cluster mode for the next module reset. (R276) -/
  | cluModeNext (a : Via) (k : BitVec 3) (v : BitVec 48)
  /-- Captures the retry counters. (R293) -/
  | rsnapReq (p : BitVec 6)
  /-- A management write frame on MDIO. (R527) -/
  | managementWrite (addr : BitVec 12) (v : BitVec 16)
  /-- A management read frame on MDIO. (R527) -/
  | managementRead (addr : BitVec 12)
  /-- A trace frame is sent on TRD. (R529) -/
  | traceFrame
  /-- Every 1 ms Brass reads die sensors and warns, throttles or trips. (R537) -/
  | sensorRead (r : Sensors)
  /-- HUOK falling during a flush acts as VHOLD below 9.0 V. (R532) -/
  | huokFall
  /-- PERST_N low is a CXL link reset. (R533) -/
  | perst
  /-- A rail leaving tolerance sets ALERT and records an event. (R535) -/
  | railOutOfTolerance (rail : BitVec 3) (mv : Nat) (us : Nat)
  /-- A write to a register with no behaviour of its own, under its access code. (R10) -/
  | registerWrite (a : Via) (x : RegAddr) (size : Nat) (v : BitVec 64)
  /-- The host answers a BISnpInv, BISnpData or BISnpCur, returning dirty data or entering the BIConflict flow, and the home serves the waiting requester from the array. (R215) -/
  | backInvalidationResponse (line : Nat) (hi : Bool) (dirty : Option (List Byte)) (conflict : Bool)
  /-- A function-level reset of VF i performs the instance reset of R427. (R505) -/
  | functionLevelReset (i : BitVec 6)
  /-- VAUX rises and the module enters the Auxiliary power state, with STRAP_SEL driven. (R538) -/
  | vauxPresent
  /-- VAUX is removed and the module enters the Off power state. (R538) -/
  | vauxAbsent
  /-- Tungsten rewrites a physical block so that every block is rewritten within 30 days of powered operation, with reads behind it answered Pending. (R253) -/
  | blockRelocation (unit : Nat)
  /-- The host gives GO for a manager report write and RPTPI advances. (R425) -/
  | reportGo
  /-- Reports have waited to be posted for over 1 s and event 0x0A07 is recorded. (R433) -/
  | reportsWaitingOver1s
  /-- A write of MS_CGCTL.EN to 0 releases remote lines, recalls lines held by other members, and sets CGDRAIN until the drain is done. (R457) -/
  | cgctlWrite (a : Via) (v : BitVec 48)
  /-- An Mbova link reaches flit lock after training or a retrain, possibly at half width, sends HELLO and resends its replay buffer. (R439) -/
  | mbovaTrainingComplete (l : BitVec 3) (rx tx : BitVec 8)
deriving DecidableEq, Repr

end Sys2Proof
end

