-- ==== Sys2Proof/Decode.lean ====
section
/-!
DEFINITION. The words of the table of steps. Its rows give their commands no bits (every row's fields are empty): a
block takes commands, not words, so no word spells one.
-/
namespace Sys2Proof

/-- The command that a word spells by the table's bits: none, since the table gives no row any bits. -/
def decodeTableWord (_nbits _w : Nat) : Option Instr := none

end Sys2Proof
end

