-- ==== Sys2Proof/Config.lean ====
section
/-!
DEFINITION. What an implementation fixes and the values the spec leaves open: opaque constants, so that no proof rests
on one.
-/
namespace Sys2Proof.Config

open Sys2Proof

/-- A free number, one for each value of the model's counter. -/
opaque freeNat : Nat → Nat

/-- A free word, one for each value of the model's counter. -/
opaque freeWord : Nat → Word

/-- A free byte list of a given length, one for each value of the model's counter. -/
opaque freeBytes : Nat → Nat → List Byte

/-- The DEFLATE stream that Zinc makes of an input (R405), all of it once the input is at its end. -/
opaque deflate : List Byte → Bool → List Byte

/-- The LZ4 block that Zinc makes of an input (R405). -/
opaque lz4 : List Byte → Bool → List Byte

/-- The AES core that serves each request of Cobalt (R399). -/
opaque aesCore : Nat → BitVec 3

/-- The standard Izdel image: its word at each address of the standard region (R383), and the first word of each of its
programs as an offset in that region (R333). -/
opaque stdWord : Nat → BitVec 144
opaque stdEntry : Nat → BitVec 12

/-- The module's serial number, its date of manufacture (years from 2000, ISO week less 1), the steppings of its dies (R516). -/
opaque serial : Word
opaque dateYear : Byte
opaque dateWeek : Nat
opaque step : BitVec 16

/-- The vendor ID that the PCI-SIG assigned to Dvorari (R299). -/
opaque vendorId : BitVec 16

/-- Lot, wafer less 1 and place on the wafer of each die, from its fuses (R515 to R517). -/
opaque dieLot : Nat → Word
opaque dieWafer : Nat → Nat
opaque dieXY : Nat → BitVec 16

end Sys2Proof.Config
end

