-- ==== Sys2Proof/Machine/Sparse.lean ====
section
/-!
DEFINITION. Sparse tables with keys strictly rising, byte lists and bit fields: the plain helpers that the meanings use.
-/
namespace Sys2Proof.Machine

open Sys2Proof

/-- The value at a key, if listed. -/
def spGet {α : Type} : Sp α → Nat → Option α
  | [], _ => none
  | (j, v) :: m, k => if j = k then some v else spGet m k

/-- List a value at a key, keeping the keys rising. -/
def spIns {α : Type} : Sp α → Nat → α → Sp α
  | [], k, v => [(k, v)]
  | (j, w) :: m, k, v =>
    if k < j then (k, v) :: (j, w) :: m
    else if k = j then (k, v) :: m
    else (j, w) :: spIns m k v

/-- Unlist a key. -/
def spDel {α : Type} : Sp α → Nat → Sp α
  | [], _ => []
  | (j, w) :: m, k => if j = k then spDel m k else (j, w) :: spDel m k

/-- The value at a key, `d` where the table lists none. -/
def spGetD {α : Type} (d : α) (m : Sp α) (k : Nat) : α := (spGet m k).getD d

/-- Set the value at a key whose unlisted value is `d`: the canonical form lists no `d`. -/
def spPut {α : Type} [DecidableEq α] (d : α) (m : Sp α) (k : Nat) (v : α) : Sp α :=
  if v = d then spDel m k else spIns m k v

/-- The canonical form: keys strictly rising, all above `lo` (none for the first). -/
def spRising {α : Type} : Option Nat → Sp α → Bool
  | _, [] => true
  | lo, (k, _) :: m => (match lo with | none => true | some l => decide (l < k)) && spRising (some k) m

/-- No listed value is the unlisted one. -/
def spNoDefault {α : Type} [DecidableEq α] (d : α) : Sp α → Bool
  | [] => true
  | (_, v) :: m => decide (v ≠ d) && spNoDefault d m

/-- The bytes at `n` addresses from `a`, an unlisted one reading `d`. -/
def spBytes (d : Byte) (m : Sp Byte) (a : Nat) : Nat → List Byte
  | 0 => []
  | n + 1 => spGetD d m a :: spBytes d m (a + 1) n

/-- Set bytes from address `a` upward. -/
def spPutBytes (d : Byte) (m : Sp Byte) (a : Nat) : List Byte → Sp Byte
  | [] => m
  | b :: bs => spPutBytes d (spPut d m a b) (a + 1) bs

/-- A little-endian value of bytes (R37), as a number. -/
def leNat : List Byte → Nat
  | [] => 0
  | b :: bs => b.toNat + 256 * leNat bs

/-- The `n` little-endian bytes of a number (R37). -/
def natLe : Nat → Nat → List Byte
  | 0, _ => []
  | n + 1, v => BitVec.ofNat 8 v :: natLe n (v / 256)

/-- A word from six bytes. -/
def leWord (bs : List Byte) : Word := BitVec.ofNat 48 (leNat bs)

/-- The six bytes of a word. -/
def wordLe (w : Word) : List Byte := natLe 6 w.toNat

/-- Field [hi:lo] of a value, as a number. -/
def fld {n : Nat} (v : BitVec n) (hi lo : Nat) : Nat := (v.toNat >>> lo) % 2 ^ (hi + 1 - lo)

/-- Bit i of a value. -/
def bitOf {n : Nat} (v : BitVec n) (i : Nat) : Bool := v.getLsbD i

/-- A value with field [hi:lo] replaced by x. -/
def setFld {n : Nat} (v : BitVec n) (hi lo : Nat) (x : Nat) : BitVec n :=
  let m : BitVec n := BitVec.ofNat n ((2 ^ (hi + 1 - lo) - 1) <<< lo)
  (v &&& ~~~m) ||| (BitVec.ofNat n (x <<< lo) &&& m)

/-- A value with bit i set or cleared. -/
def setBit {n : Nat} (v : BitVec n) (i : Nat) (b : Bool) : BitVec n := setFld v i i (if b then 1 else 0)

/-- One as a number for true. -/
def b2n (b : Bool) : Nat := if b then 1 else 0

/-- Saturating addition at 2^n − 1 (counters called "saturating"). -/
def satAdd (n a b : Nat) : Nat := min (a + b) (2 ^ n - 1)

/-- Element i of a list, replaced. -/
def listSet {α : Type} : List α → Nat → α → List α
  | [], _, _ => []
  | _ :: xs, 0, y => y :: xs
  | x :: xs, n + 1, y => x :: listSet xs n y

/-- A list without its element i. -/
def listDrop1 {α : Type} : List α → Nat → List α
  | [], _ => []
  | _ :: xs, 0 => xs
  | x :: xs, n + 1 => x :: listDrop1 xs n

/-- Overlay bytes at absolute addresses onto a byte list that starts at `base`. -/
def overlay (base : Nat) (old : List Byte) (bs : Sp Byte) : List Byte :=
  old.zipIdx.map fun (b, i) => (spGet bs (base + i)).getD b

/-- The (address, byte) pairs of bytes that start at `a`. -/
def cellsAt (a : Nat) : List Byte → Sp Byte
  | [] => []
  | b :: bs => (a, b) :: cellsAt (a + 1) bs

/-- Merge pairs into a table, the new ones winning. -/
def mergeCells (old : Sp Byte) : Sp Byte → Sp Byte
  | [] => old
  | (k, b) :: m => mergeCells (spIns old k b) m

/-- One step of the 16-bit shift register of R178: b := r[0] xor r[2] xor r[3] xor r[5]; r := (r >> 1) or b·2¹⁵. -/
def lfsrStep (r : BitVec 16) : BitVec 16 :=
  let b := Bool.xor (Bool.xor (r.getLsbD 0) (r.getLsbD 2)) (Bool.xor (r.getLsbD 3) (r.getLsbD 5))
  (r >>> 1) ||| (if b then 0x8000 else 0)

/-- One byte of the CRC-32C of R102. -/
def crcByte (c : BitVec 32) (b : Byte) : BitVec 32 :=
  let s (c : BitVec 32) : BitVec 32 := if c.getLsbD 0 then (c >>> 1) ^^^ 0x82F63B78 else c >>> 1
  s (s (s (s (s (s (s (s (c ^^^ b.zeroExtend 32))))))))

/-- The running CRC over bytes (R102). -/
def crcRun (c : BitVec 32) : List Byte → BitVec 32
  | [] => c
  | b :: bs => crcRun (crcByte c b) bs

/-- CRC-32C with initial value of all ones and final inversion (R259 note b). -/
def crc32c (bs : List Byte) : BitVec 32 := ~~~(crcRun 0xFFFFFFFF bs)

end Sys2Proof.Machine
end

