-- ==== Sys2Proof/Machine/Codec.lean ====
section
/-!
DEFINITION. Zinc's formats (spec 15 R404 to R408): decoders of DEFLATE (RFC 1951), zlib (RFC 1950) and LZ4 blocks, and
Swivik Column Pack both ways. What the compressors of DEFLATE and LZ4 put out beyond the rules of R405 is a free value.
-/
namespace Sys2Proof.Machine

open Sys2Proof

/-- How a decoder stopped: at the end of its stream, for want of input, because enough output came, at a place where
the stream may end, at malformed input, at a wrong Adler-32. -/
inductive DSt where
  | done | more | full | edge | bad | adler
deriving DecidableEq, Repr

/-- A decoder's result: all output so far, the input bytes consumed, how it stopped. -/
structure DRes where
  out  : List Byte
  used : Nat
  st   : DSt
deriving DecidableEq, Repr

/-- Bit p of a byte stream, the least significant bit of a byte first. -/
def strBit (inp : List Byte) (p : Nat) : Option Bool := (inp[p / 8]?).map fun b => b.getLsbD (p % 8)

/-- n bits from position p as a number, first bit least significant. -/
def strBits (inp : List Byte) (p : Nat) : Nat → Option Nat
  | 0 => some 0
  | n + 1 => match strBit inp p, strBits inp (p + 1) n with
    | some b, some v => some (b2n b + 2 * v)
    | _, _ => none

/-- A canonical Huffman code: how many codes of each length 1 to 15, and the symbols in code order. -/
structure Huff where
  counts : List Nat
  syms   : List Nat

/-- The code that a list of code lengths defines. -/
def mkHuff (ls : List Nat) : Huff :=
  { counts := (List.range 15).map fun i => (ls.filter fun l => l = i + 1).length
    syms := ((List.range 15).map fun i => (ls.zipIdx.filter fun (l, _) => l = i + 1).map fun (_, s) => s).flatten }

/-- Are no more codes given than there is room for? -/
def Huff.fits (h : Huff) : Bool :=
  (h.counts.foldl (fun (st : Int × Bool) (c : Nat) => let l : Int := st.1 * 2 - (c : Int); (l, st.2 && decide (0 ≤ l))) ((1 : Int), true)).2

/-- Decode one symbol: some (symbol, next position), none for an invalid code; `.error` for want of input. -/
def huffSym (inp : List Byte) : List Nat → List Nat → Nat → Nat → Nat → Except Unit (Option (Nat × Nat))
  | [], _, _, _, _ => .ok none
  | c :: cs, syms, p, code, first =>
    match strBit inp p with
    | none => .error ()
    | some b =>
      let code := code + b2n b
      if code < first + c then .ok ((syms[code - first]?).map fun s => (s, p + 1))
      else huffSym inp cs (syms.drop c) (p + 1) (code * 2) ((first + c) * 2)

/-- Extra bits and bases of the length symbols 257 to 285. -/
def lenBase : List Nat := [3, 4, 5, 6, 7, 8, 9, 10, 11, 13, 15, 17, 19, 23, 27, 31, 35, 43, 51, 59, 67, 83, 99, 115, 131, 163, 195, 227, 258]
def lenExtra : List Nat := [0, 0, 0, 0, 0, 0, 0, 0, 1, 1, 1, 1, 2, 2, 2, 2, 3, 3, 3, 3, 4, 4, 4, 4, 5, 5, 5, 5, 0]
/-- Extra bits and bases of the distance symbols. -/
def distBase : List Nat := [1, 2, 3, 4, 5, 7, 9, 13, 17, 25, 33, 49, 65, 97, 129, 193, 257, 385, 513, 769, 1025, 1537, 2049, 3073] ++
  [4097, 6145, 8193, 12289, 16385, 24577]
def distExtra : List Nat := [0, 0, 0, 0, 1, 1, 2, 2, 3, 3, 4, 4, 5, 5, 6, 6, 7, 7, 8, 8, 9, 9, 10, 10] ++ [11, 11, 12, 12, 13, 13]

/-- Copy `n` bytes from distance `d` back; the output stands newest first. -/
def copyBack (d : Nat) : Nat → List Byte → List Byte
  | 0, o => o
  | n + 1, o => copyBack d n (o.getD (d - 1) 0 :: o)

/-- The symbols of one block: output newest first, position, how it stopped (`done`: end of block). -/
def infSyms (inp : List Byte) (lit dist : Huff) (limit : Nat) : Nat → Nat → List Byte → List Byte × Nat × DSt
  | 0, p, o => (o, p, .full)
  | f + 1, p, o =>
    if limit < o.length then (o, p, .full)
    else match huffSym inp lit.counts lit.syms p 0 0 with
    | .error _ => (o, p, .more)
    | .ok none => (o, p, .bad)
    | .ok (some (s, p1)) =>
      if s < 256 then infSyms inp lit dist limit f p1 (BitVec.ofNat 8 s :: o)
      else if s = 256 then (o, p1, .done)
      else if s > 285 then (o, p, .bad)
      else match strBits inp p1 (lenExtra.getD (s - 257) 0) with
      | none => (o, p, .more)
      | some x =>
        let len := lenBase.getD (s - 257) 0 + x
        let p2 := p1 + lenExtra.getD (s - 257) 0
        match huffSym inp dist.counts dist.syms p2 0 0 with
        | .error _ => (o, p, .more)
        | .ok none => (o, p, .bad)
        | .ok (some (ds, p3)) =>
          if ds > 29 then (o, p, .bad)
          else match strBits inp p3 (distExtra.getD ds 0) with
          | none => (o, p, .more)
          | some y =>
            let d := distBase.getD ds 0 + y
            if o.length < d then (o, p, .bad)
            else infSyms inp lit dist limit f (p3 + distExtra.getD ds 0) (copyBack d len o)

/-- The fixed code. -/
def fixedLit : Huff := mkHuff (List.replicate 144 8 ++ List.replicate 112 9 ++ List.replicate 24 7 ++ List.replicate 8 8)
def fixedDist : Huff := mkHuff (List.replicate 30 5)

/-- The order of the code length codes. -/
def clOrder : List Nat := [16, 17, 18, 0, 8, 7, 9, 6, 10, 5, 11, 4, 12, 3, 13, 2, 14, 1, 15]

/-- Read `n` code lengths with their code (newest first): some lengths and position, none when malformed. -/
def readLens (inp : List Byte) (h : Huff) (n : Nat) : Nat → Nat → List Nat → Except Unit (Option (List Nat × Nat))
  | 0, _, _ => .ok none
  | f + 1, p, ls =>
    if n < ls.length then .ok none
    else if n = ls.length then .ok (some (ls.reverse, p))
    else match huffSym inp h.counts h.syms p 0 0 with
    | .error _ => .error ()
    | .ok none => .ok none
    | .ok (some (s, p1)) =>
      if s < 16 then readLens inp h n f p1 (s :: ls)
      else
        let bits := if s = 16 then 2 else if s = 17 then 3 else 7
        match strBits inp p1 bits with
        | none => .error ()
        | some x =>
          let times := x + (if s = 18 then 11 else 3)
          let v := if s = 16 then ls.headD 0 else 0
          if s = 16 ∧ ls = [] then .ok none
          else readLens inp h n f (p1 + bits) (List.replicate times v ++ ls)

/-- The codes of a dynamic block. -/
def dynCodes (inp : List Byte) (p : Nat) : Except Unit (Option (Huff × Huff × Nat)) :=
  match strBits inp p 5, strBits inp (p + 5) 5, strBits inp (p + 10) 4 with
  | some a, some b, some c =>
    if a > 29 ∨ b > 29 then .ok none
    else match ((List.range (c + 4)).map fun i => strBits inp (p + 14 + 3 * i) 3).foldr
        (fun x acc => match x, acc with | some v, some l => some (v :: l) | _, _ => none) (some []) with
    | none => .error ()
    | some cls =>
      let h := mkHuff ((List.range 19).map fun s => match clOrder.findIdx? fun o => o = s with | some i => cls.getD i 0 | none => 0)
      if !h.fits then .ok none
      else match readLens inp h (a + 257 + b + 1) (a + b + 260) (p + 14 + 3 * (c + 4)) [] with
      | .error _ => .error ()
      | .ok none => .ok none
      | .ok (some (ls, p2)) =>
        let lit := mkHuff (ls.take (a + 257))
        let dist := mkHuff (ls.drop (a + 257))
        if lit.fits && dist.fits && decide (ls.getD 256 0 ≠ 0) then .ok (some (lit, dist, p2)) else .ok none
  | _, _, _ => .error ()

/-- The blocks of a DEFLATE stream: output newest first, position, how it stopped. -/
def infBlocks (inp : List Byte) (limit : Nat) : Nat → Nat → List Byte → List Byte × Nat × DSt
  | 0, p, o => (o, p, .more)
  | f + 1, p, o =>
    match strBits inp p 1, strBits inp (p + 1) 2 with
    | some fin, some ty =>
      let next (r : List Byte × Nat × DSt) : List Byte × Nat × DSt :=
        match r with
        | (o, p, .done) => if fin = 1 then (o, p, .done) else infBlocks inp limit f p o
        | r => r
      let fuel := limit + 8 * inp.length + 2
      match ty with
      | 0 =>
        let b := (p + 3 + 7) / 8
        (match strBits inp (8 * b) 16, strBits inp (8 * b + 16) 16 with
        | some len, some nlen =>
          if len + nlen ≠ 65535 then (o, p, .bad)
          else
            let data := (inp.drop (b + 4)).take len
            let o' := data.reverse ++ o
            if data.length < len then (o', 8 * inp.length, .more)
            else if limit < o'.length then (o', 8 * (b + 4 + len), .full)
            else next (o', 8 * (b + 4 + len), .done)
        | _, _ => (o, p, .more))
      | 1 => next (infSyms inp fixedLit fixedDist limit fuel (p + 3) o)
      | 2 =>
        (match dynCodes inp (p + 3) with
        | .error _ => (o, p, .more)
        | .ok none => (o, p, .bad)
        | .ok (some (lit, dist, p2)) => next (infSyms inp lit dist limit fuel p2 o))
      | _ => (o, p, .bad)
    | _, _ => (o, p, .more)

/-- Decode a DEFLATE stream that begins at byte `at_`; stop once more than `limit` bytes came. -/
def inflate (inp : List Byte) (at_ limit : Nat) : DRes :=
  let (o, p, st) := infBlocks inp limit (8 * inp.length + 1) (8 * at_) []
  { out := o.reverse, used := if st = .more then inp.length else (p + 7) / 8, st := st }

/-- Adler-32 of RFC 1950. -/
def adler32 (bs : List Byte) : Nat :=
  let (a, b) := bs.foldl (fun (st : Nat × Nat) x => let a := (st.1 + x.toNat) % 65521; (a, (st.2 + a) % 65521)) (1, 0)
  b * 65536 + a

/-- Decode a zlib stream (R404, R406). -/
def unzlib (inp : List Byte) (limit : Nat) : DRes :=
  match inp with
  | c :: f :: _ =>
    if c.toNat % 16 ≠ 8 ∨ c.toNat / 16 > 7 ∨ (c.toNat * 256 + f.toNat) % 31 ≠ 0 ∨ f.getLsbD 5 = true then ⟨[], 0, .bad⟩
    else
      let r := inflate inp 2 limit
      if r.st = .done then
        let t := (inp.drop r.used).take 4
        if t.length < 4 then { r with used := inp.length, st := .more }
        else if (t.foldl (fun a b => a * 256 + b.toNat) 0) = adler32 r.out then { r with used := r.used + 4 }
        else { r with used := r.used + 4, st := .adler }
      else r
  | _ => ⟨[], inp.length, .more⟩

/-- An LZ4 length: 15 in the token goes on in bytes of 255. -/
def lz4Len (inp : List Byte) : Nat → Nat → Nat → Option (Nat × Nat)
  | 0, _, _ => none
  | f + 1, p, n => match inp[p]? with
    | none => none
    | some b => if b = 255 then lz4Len inp f (p + 1) (n + 255) else some (n + b.toNat, p + 1)

/-- The sequences of an LZ4 block. -/
def lz4Seqs (inp : List Byte) (limit : Nat) : Nat → Nat → List Byte → List Byte × Nat × DSt
  | 0, p, o => (o, p, .more)
  | f + 1, p, o =>
    if limit < o.length then (o, p, .full)
    else match inp[p]? with
    | none => (o, p, if p = 0 then .more else .edge)
    | some t =>
      match (if t.toNat / 16 = 15 then lz4Len inp inp.length (p + 1) 15 else some (t.toNat / 16, p + 1)) with
      | none => (o, p, .more)
      | some (ll, p1) =>
        let lits := (inp.drop p1).take ll
        if lits.length < ll then (o, p, .more)
        else
          let o1 := lits.reverse ++ o
          let p2 := p1 + ll
          if p2 = inp.length then (o1, p2, .edge)
          else match inp[p2]?, inp[p2 + 1]? with
          | some a, some b =>
            let d := a.toNat + 256 * b.toNat
            if d = 0 ∨ o1.length < d then (o1, p2, .bad)
            else match (if t.toNat % 16 = 15 then lz4Len inp inp.length (p2 + 2) 15 else some (t.toNat % 16, p2 + 2)) with
              | none => (o, p, .more)
              | some (ml, p3) => lz4Seqs inp limit f p3 (copyBack d (ml + 4) o1)
          | _, _ => (o, p, .more)

/-- Decode an LZ4 block. -/
def unlz4 (inp : List Byte) (limit : Nat) : DRes :=
  let (o, p, st) := lz4Seqs inp limit (inp.length + 1) 0 []
  { out := o.reverse, used := if st = .more then inp.length else p, st := st }

/-- Words of six bytes. -/
def words6 (bs : List Byte) : List Nat := (List.range (bs.length / 6)).map fun i => leNat ((bs.drop (6 * i)).take 6)

/-- The bit length of a number below 2^48. -/
def numBits (n : Nat) : Nat := if n = 0 then 0 else Nat.log2 n + 1

/-- A block of a Column Pack frame (R407, R408). -/
def cpBlock (signed : Bool) (ws : List Nat) : List Byte :=
  let key (w : Nat) : Nat := if signed then (w + 2 ^ 47) % 2 ^ 48 else w
  let base := ws.foldl (fun m w => if key w < key m then w else m) (ws.headD 0)
  let offs := ws.map fun w => (w + 2 ^ 48 - base) % 2 ^ 48
  let width := numBits (offs.foldl max 0)
  let v := (offs.zipIdx.map fun (o, i) => o * 2 ^ (i * width)).foldl (· + ·) 0
  [BitVec.ofNat 8 width] ++ natLe 6 base ++ natLe ((ws.length * width + 7) / 8) v

/-- A frame of up to 4,096 words. -/
def cpFrame (signed : Bool) (ws : List Nat) : List Byte :=
  let body := ((List.range ((ws.length + 63) / 64)).map fun k => cpBlock signed ((ws.drop (64 * k)).take 64)).flatten
  [0x43, 0x50, 1, BitVec.ofNat 8 (b2n signed)] ++ natLe 2 ws.length ++ [0, 0] ++ natLe 4 body.length ++
    natLe 4 (crc32c body).toNat ++ body

/-- The Column Pack stream of some input: whole frames only unless the input is at its end (R405). -/
def cpPack (signed : Bool) (inp : List Byte) (last : Bool) : List Byte :=
  let ws := words6 inp
  let full := ws.length / 4096
  let head := ((List.range full).map fun k => cpFrame signed ((ws.drop (4096 * k)).take 4096)).flatten
  let rest := ws.drop (4096 * full)
  head ++ (if last ∧ rest ≠ [] then cpFrame signed rest else [])

/-- Decode the blocks of a frame: none when a WIDTH or a padding bit is wrong or the length does not fit. -/
def cpBlocks (bs : List Byte) : Nat → Nat → Option (List Byte)
  | 0, _ => if bs = [] then some [] else none
  | f + 1, n =>
    if n = 0 then (if bs = [] then some [] else none)
    else
      let k := min n 64
      match bs with
      | [] => none
      | w :: _ =>
        let width := w.toNat
        let base := leNat ((bs.drop 1).take 6)
        let len := (k * width + 7) / 8
        let data := (bs.drop 7).take len
        let v := leNat data
        if width > 48 ∨ bs.length < 7 + len ∨ 2 ^ (k * width) ≤ v then none
        else match cpBlocks (bs.drop (7 + len)) f (n - k) with
          | none => none
          | some rest => some (((List.range k).map fun i => natLe 6 ((base + v / 2 ^ (i * width) % 2 ^ width) % 2 ^ 48)).flatten ++ rest)

/-- Decode frames one after another (R408). -/
def cpFrames (inp : List Byte) (limit : Nat) : Nat → Nat → List Byte → DRes
  | 0, p, o => ⟨o, p, .more⟩
  | f + 1, p, o =>
    let bs := inp.drop p
    if bs = [] then ⟨o, p, .edge⟩
    else if limit < o.length then ⟨o, p, .full⟩
    else
      let hdr := bs.take 16
      let n := leNat ((hdr.drop 4).take 2)
      let plen := leNat ((hdr.drop 8).take 4)
      let body := (bs.drop 16).take plen
      if hdr.length < 16 then ⟨o, inp.length, .more⟩
      else if hdr.take 3 ≠ [0x43, 0x50, 1] ∨ (hdr.getD 3 0).toNat > 1 ∨ n = 0 ∨ n > 4096 ∨ (hdr.drop 6).take 2 ≠ [0, 0] then ⟨o, p, .bad⟩
      else if body.length < plen then ⟨o, inp.length, .more⟩
      else if leNat ((hdr.drop 12).take 4) ≠ (crc32c body).toNat then ⟨o, p, .bad⟩
      else match cpBlocks body 65 n with
        | none => ⟨o, p, .bad⟩
        | some ws => cpFrames inp limit f (p + 16 + plen) (o ++ ws)

/-- Decode by format (R404). -/
def zDecode (fmt : Nat) (inp : List Byte) (limit : Nat) : DRes :=
  match fmt with
  | 1 => inflate inp 0 limit
  | 2 => unzlib inp limit
  | 3 => unlz4 inp limit
  | _ => cpFrames inp limit (inp.length + 1) 0 []

/-- Compress by format (R405): output so far, all of it once the input is at its end. -/
def zEncode (fmt : Nat) (signed : Bool) (inp : List Byte) (last : Bool) : List Byte :=
  match fmt with
  | 1 => if last ∧ inp = [] then [0x03, 0x00] else Config.deflate inp last
  | 2 =>
    [0x78, 0x5E] ++ (if last ∧ inp = [] then [0x03, 0x00] else Config.deflate inp last) ++
      (if last then (natLe 4 (adler32 inp)).reverse else [])
  | 3 => if inp = [] then (if last then [0] else []) else Config.lz4 inp last
  | _ => cpPack signed inp last

end Sys2Proof.Machine
end

