-- ==== Sys2Proof/Machine/Crypto.lean ====
section
/-!
DEFINITION. AES-GCM as Cobalt computes it (spec 15 R394, from FIPS 197 and NIST SP 800-38D): 128- or 256-bit keys, 96-bit
IVs, 128-bit tags.
-/
namespace Sys2Proof.Machine

open Sys2Proof

/-- The substitution box. -/
def aesSbox : List Nat :=
  [0x63, 0x7C, 0x77, 0x7B, 0xF2, 0x6B, 0x6F, 0xC5, 0x30, 0x01, 0x67, 0x2B, 0xFE, 0xD7, 0xAB, 0x76, 0xCA, 0x82, 0xC9, 0x7D, 0xFA, 0x59, 0x47, 0xF0, 0xAD, 0xD4, 0xA2, 0xAF, 0x9C, 0xA4, 0x72, 0xC0] ++
  [0xB7, 0xFD, 0x93, 0x26, 0x36, 0x3F, 0xF7, 0xCC, 0x34, 0xA5, 0xE5, 0xF1, 0x71, 0xD8, 0x31, 0x15, 0x04, 0xC7, 0x23, 0xC3, 0x18, 0x96, 0x05, 0x9A, 0x07, 0x12, 0x80, 0xE2, 0xEB, 0x27, 0xB2, 0x75] ++
  [0x09, 0x83, 0x2C, 0x1A, 0x1B, 0x6E, 0x5A, 0xA0, 0x52, 0x3B, 0xD6, 0xB3, 0x29, 0xE3, 0x2F, 0x84, 0x53, 0xD1, 0x00, 0xED, 0x20, 0xFC, 0xB1, 0x5B, 0x6A, 0xCB, 0xBE, 0x39, 0x4A, 0x4C, 0x58, 0xCF] ++
  [0xD0, 0xEF, 0xAA, 0xFB, 0x43, 0x4D, 0x33, 0x85, 0x45, 0xF9, 0x02, 0x7F, 0x50, 0x3C, 0x9F, 0xA8, 0x51, 0xA3, 0x40, 0x8F, 0x92, 0x9D, 0x38, 0xF5, 0xBC, 0xB6, 0xDA, 0x21, 0x10, 0xFF, 0xF3, 0xD2] ++
  [0xCD, 0x0C, 0x13, 0xEC, 0x5F, 0x97, 0x44, 0x17, 0xC4, 0xA7, 0x7E, 0x3D, 0x64, 0x5D, 0x19, 0x73, 0x60, 0x81, 0x4F, 0xDC, 0x22, 0x2A, 0x90, 0x88, 0x46, 0xEE, 0xB8, 0x14, 0xDE, 0x5E, 0x0B, 0xDB] ++
  [0xE0, 0x32, 0x3A, 0x0A, 0x49, 0x06, 0x24, 0x5C, 0xC2, 0xD3, 0xAC, 0x62, 0x91, 0x95, 0xE4, 0x79, 0xE7, 0xC8, 0x37, 0x6D, 0x8D, 0xD5, 0x4E, 0xA9, 0x6C, 0x56, 0xF4, 0xEA, 0x65, 0x7A, 0xAE, 0x08] ++
  [0xBA, 0x78, 0x25, 0x2E, 0x1C, 0xA6, 0xB4, 0xC6, 0xE8, 0xDD, 0x74, 0x1F, 0x4B, 0xBD, 0x8B, 0x8A, 0x70, 0x3E, 0xB5, 0x66, 0x48, 0x03, 0xF6, 0x0E, 0x61, 0x35, 0x57, 0xB9, 0x86, 0xC1, 0x1D, 0x9E] ++
  [0xE1, 0xF8, 0x98, 0x11, 0x69, 0xD9, 0x8E, 0x94, 0x9B, 0x1E, 0x87, 0xE9, 0xCE, 0x55, 0x28, 0xDF, 0x8C, 0xA1, 0x89, 0x0D, 0xBF, 0xE6, 0x42, 0x68, 0x41, 0x99, 0x2D, 0x0F, 0xB0, 0x54, 0xBB, 0x16]

/-- Substitute a byte. -/
def aesSub (b : Byte) : Byte := BitVec.ofNat 8 (aesSbox.getD b.toNat 0)

/-- Multiply by x in the field of AES. -/
def aesX (b : Byte) : Byte := (b <<< 1) ^^^ (if b.getLsbD 7 then 0x1B else 0)

/-- XOR of byte lists. -/
def xorBytes (a b : List Byte) : List Byte := (a.zip b).map fun (x, y) => x ^^^ y

/-- The round key words, newest first: word i from word i − 1 and word i − nk. -/
def aesExpand (nk : Nat) : Nat → List (List Byte) → Byte → List (List Byte)
  | 0, ws, _ => ws
  | n + 1, ws, rc =>
    let i := ws.length
    let t := ws.headD [0, 0, 0, 0]
    let old := ws.getD (nk - 1) [0, 0, 0, 0]
    if i % nk = 0 then
      let r := (t.drop 1 ++ t.take 1).map aesSub
      let r := match r with | x :: xs => (x ^^^ rc) :: xs | [] => []
      aesExpand nk n (xorBytes old r :: ws) (aesX rc)
    else if nk = 8 ∧ i % nk = 4 then aesExpand nk n (xorBytes old (t.map aesSub) :: ws) rc
    else aesExpand nk n (xorBytes old t :: ws) rc

/-- The round keys, sixteen bytes each, first round first. -/
def aesKeys (key : List Byte) : List (List Byte) :=
  let nk := key.length / 4
  let rounds := nk + 6
  let w0 := (List.range nk).map fun i => (key.drop (4 * i)).take 4
  let ws := (aesExpand nk (4 * (rounds + 1) - nk) w0.reverse 1).reverse
  (List.range (rounds + 1)).map fun r => ((ws.drop (4 * r)).take 4).flatten

/-- Shift the rows of a state held column by column. -/
def aesShift (st : List Byte) : List Byte :=
  (List.range 16).map fun i => st.getD ((i / 4 + i % 4) % 4 * 4 + i % 4) 0

/-- Mix one column. -/
def aesMixCol (c : List Byte) : List Byte :=
  let a := c.getD 0 0
  let b := c.getD 1 0
  let d := c.getD 2 0
  let e := c.getD 3 0
  let t := a ^^^ b ^^^ d ^^^ e
  [a ^^^ t ^^^ aesX (a ^^^ b), b ^^^ t ^^^ aesX (b ^^^ d), d ^^^ t ^^^ aesX (d ^^^ e), e ^^^ t ^^^ aesX (e ^^^ a)]

/-- Mix the columns. -/
def aesMix (st : List Byte) : List Byte := ((List.range 4).map fun c => aesMixCol ((st.drop (4 * c)).take 4)).flatten

/-- The rounds after the first key. -/
def aesRounds : List (List Byte) → List Byte → List Byte
  | [], st => st
  | [k], st => xorBytes (aesShift (st.map aesSub)) k
  | k :: ks, st => aesRounds ks (xorBytes (aesMix (aesShift (st.map aesSub))) k)

/-- Encrypt one block. -/
def aesBlock (key : List Byte) (b : List Byte) : List Byte :=
  match aesKeys key with
  | [] => b
  | k :: ks => aesRounds ks (xorBytes b k)

/-- A number from bytes, the most significant first. -/
def beNat (bs : List Byte) : Nat := bs.foldl (fun a b => a * 256 + b.toNat) 0

/-- Bytes of a number, the most significant first. -/
def natBe (n v : Nat) : List Byte := (natLe n v).reverse

/-- Multiplication in GF(2^128) of GHASH: bit 127 of a value is its first bit. -/
def ghMul (x y : BitVec 128) : BitVec 128 :=
  ((List.range 128).foldl (fun (zv : BitVec 128 × BitVec 128) i =>
    let z := if x.getLsbD (127 - i) then zv.1 ^^^ zv.2 else zv.1
    let v := if zv.2.getLsbD 0 then (zv.2 >>> 1) ^^^ (0xE1 <<< 120) else zv.2 >>> 1
    (z, v)) (0, y)).1

/-- Absorb blocks of sixteen bytes, the last padded with zeros. -/
def ghash (h : BitVec 128) (y : BitVec 128) (bs : List Byte) : Nat → BitVec 128
  | 0 => y
  | n + 1 =>
    if bs.isEmpty then y
    else
      let b := bs.take 16
      ghash h (ghMul (y ^^^ BitVec.ofNat 128 (beNat (b ++ List.replicate (16 - b.length) 0))) h) (bs.drop 16) n

/-- The key of GHASH. -/
def gcmH (key : List Byte) : BitVec 128 := BitVec.ofNat 128 (beNat (aesBlock key (List.replicate 16 0)))

/-- Keystream bytes from text position `pos`: counter blocks begin at 2 for a 96-bit IV. -/
def gcmStream (key iv : List Byte) (pos n : Nat) : List Byte :=
  let b0 := pos / 16
  let blocks := (pos + n + 15) / 16 - b0
  let ks := ((List.range blocks).map fun i => aesBlock key (iv ++ natBe 4 ((b0 + i + 2) % 2 ^ 32))).flatten
  (ks.drop (pos % 16)).take n

/-- The tag from the hash of all data, and the lengths in bytes. -/
def gcmTag (key iv : List Byte) (y : BitVec 128) (aadLen len : Nat) : List Byte :=
  let y := ghMul (y ^^^ BitVec.ofNat 128 (aadLen * 8 * 2 ^ 64 + len * 8)) (gcmH key)
  xorBytes (natBe 16 y.toNat) (aesBlock key (iv ++ [0, 0, 0, 1]))

end Sys2Proof.Machine
end

