-- ==== Sys2Proof/Machine/Types.lean ====
section
/-!
DEFINITION. The parts of the machine's state, first half: a processor, a cluster, the homes and the coherence
messages, the main store's books, the fault captures and the Pewter recorder. Plain data only.
-/
namespace Sys2Proof.Machine

open Sys2Proof

/-- Why a processor does or does not run. R35 calls resetStopped, stopped, contained and halted "stopped";
`waiting` is WAIT (R108); `dead` is a processor whose MAP fields read 0xF (R285 note b) or that the part or the
mode lacks (R2, R32 note a). -/
inductive Run where
  | resetStopped | running | waiting | stopped | contained | halted | dead
deriving DecidableEq, Repr

/-- A segment register: the four words of the descriptor (R45) and the 24-bit index. PRESENT is bit 21 of w2. -/
structure Seg where
  w0 : Word := 0
  w1 : Word := 0
  w2 : Word := 0
  w3 : Word := 0
  index : BitVec 24 := 0
deriving DecidableEq, Repr

/-- The destination of an instruction: a general or a floating register. -/
inductive Reg where
  | g (n : BitVec 5)
  | f (n : BitVec 5)
deriving DecidableEq, Repr

/-- How loaded bytes become a register value (R86, R90). -/
inductive LKind where
  | lb | lbu | lh | lhu | lw | lfs | lfd | llw
deriving DecidableEq, Repr

/-- A load that has issued (R61 to R67): `pos` counts the instructions executed after it, `sn` is its place in
program order, `data` the bytes once they arrived, `fwd` the bytes taken from the processor's own stores at issue
(R160), `sup` that a later write superseded it (R62), `asked` that the request has left for its target, `tick` when it
left and `ans` that the target has responded (R167). -/
structure Load where
  kind  : LKind
  rd    : BitVec 5
  seg   : BitVec 4
  space : BitVec 3
  node  : BitVec 14
  addr  : Nat
  off   : Word
  ip    : Word
  sn    : Nat
  pos   : Nat
  fwd   : Option (List Byte)
  data  : Option (List Byte)
  sup   : Bool
  tick  : Nat
  asked : Bool := false
  ans   : Bool := false
deriving DecidableEq, Repr

/-- A long instruction in progress (R73): destination, result, the flags it will set, the trap it will raise, and
whether it holds the issue stage (R74, R81, R137). `fdiv` and `idiv` say that it occupies a divider, `div` that it is a
divide in progress (R75), `psw` that RDPSW and WRPSW wait for it (R112). -/
structure Long where
  dst  : Reg
  val  : BitVec 64
  fp   : Bool
  idiv : Bool
  fdiv : Bool
  hold : Bool
  setV : Bool
  setDZ : Bool
  fl   : BitVec 5
  cause : BitVec 5
  trap : BitVec 6
  div  : Bool := false
  psw  : Bool := false
deriving DecidableEq, Repr

/-- A store-buffer entry (R157): the bytes of one store, micro-routine step or combining-buffer line, all in one
line. `acc` is 2 for a store and 6 for a micro-routine write (R133); `comb` marks a combining-buffer line. -/
structure Entry where
  sn    : Nat
  space : BitVec 3
  node  : BitVec 14
  seg   : BitVec 4
  acc   : BitVec 3
  persist : Bool
  comb  : Bool
  bytes : List Host.Cell
deriving DecidableEq, Repr

/-- What stands in the store buffer: an entry, or the marker of a store barrier with its scope (R162). -/
inductive SbItem where
  | entry (e : Entry)
  | marker (sc : BitVec 2) (sn : Nat)
deriving DecidableEq, Repr

/-- The stage of an entry in a slot (R156, R158). -/
inductive SlotStage where
  | waiting     -- ownership is awaited, or an earlier entry of the slot comes first
  | grantWait   -- ownership held, persist grant awaited (R255)
  | sent        -- at the target, or on its way there: its acknowledgement is awaited
  | inCluster   -- written into a line that the cluster holds with ownership, invalidations outstanding
deriving DecidableEq, Repr

/-- An entry merged into a slot: where it stands, when it departed, and whether its target has responded since, so that the
time-out of R166 no longer counts. -/
structure SEnt where
  e    : Entry
  st   : SlotStage := .waiting
  tick : Nat
  ans  : Bool := false
deriving DecidableEq, Repr

/-- One of the 8 outstanding-store slots (R158): the entries merged into it, oldest first. `granted`: the persist
grant is held, or none is needed. -/
structure Slot where
  id      : Nat
  ents    : List SEnt
  granted : Bool
deriving DecidableEq, Repr

/-- An entry of the combining buffer (R169): one line with its bytes. -/
structure Comb where
  line    : Nat
  bytes   : List Host.Cell
  persist : Bool
  seg     : BitVec 4
  sn      : Nat
deriving DecidableEq, Repr

/-- A synchronous exception or machine check that is due (R133, R135). `sn` is the place in program order of the load whose
data raised it; none for an exception of the instruction at IP. -/
structure Due where
  code    : BitVec 6
  xip     : Word
  addr    : Word := 0
  paddr   : Word := 0
  seg     : BitVec 4 := 0
  acc     : BitVec 3 := 0
  wv      : Bool := false
  mr      : Bool := false
  info    : BitVec 16 := 0
  kind    : BitVec 2 := 0
  restart : Bool := false
  sn      : Option Nat := none
deriving DecidableEq, Repr

/-- The first dropped store that no barrier has reported (R168). -/
structure Drop where
  space : BitVec 3
  seg   : BitVec 4
  acc   : BitVec 3
  paddr : Word
deriving DecidableEq, Repr

/-- A barrier that holds the issue stage (R162, R164): PBAR or BAR, full or store, its scope, the stores it waits
for (those with a lower `sn`). -/
structure BarWait where
  pbar  : Bool
  store : Bool
  sc    : BitVec 2
  sn    : Nat
deriving DecidableEq, Repr

/-- Which micro-routine is at its marked boundary with setup done (R104). `far` are the reads of other nodes that its next step
waits for: the segment (A or not), the line, and its data with poison once they came. -/
structure Routine where
  fn : BitVec 3
  a  : BitVec 4
  b  : BitVec 4
  started : Bool
  far : List (Bool × Nat × Option (List Byte × Bool)) := []
deriving DecidableEq, Repr

/-- A processor: its architected state (R23) and what the chapters on ordering and retry give it. Registers are kept
sparsely: an unlisted one holds zero. `stopReq` is a stop that waits for an interruptible boundary (R423, R480), `frz` and
`contd` that it ran when its instance was frozen or it was contained, `bootReq` a boot start that waits for its descriptor
to be readable, `relock` a clock change under way (R499). `third` is the older of two loads without data that a third load
waits for (R67), `resvFor` the LLW whose data will set the reservation (R90, R92), `retryOks` the kinds of the retries that
succeeded and are not recorded yet (R152). -/
structure Proc where
  run    : Run := .resetStopped
  g      : Sp Word := []
  f      : Sp (BitVec 64) := []
  ip     : Word := 0
  psw    : Word := 0
  fpsw   : Word := 0
  segs   : Sp Seg := []
  cr     : Sp Word := []
  resv   : Option Nat := none
  resvExc : Bool := false
  resvFor : Option Nat := none
  cmos   : Nat := 0
  sn     : Nat := 0
  loads  : List Load := []
  third  : Option Nat := none
  longs  : List Long := []
  sb     : List SbItem := []
  slots  : List Slot := []
  comb   : List Comb := []
  drops  : Nat := 0
  drop1  : Option Drop := none
  dropP  : Bool := false
  bar    : Option BarWait := none
  routine : Option Routine := none
  lfsr   : BitVec 16 := 0xACE1
  scwFailed : Bool := false
  backoff : Option (BitVec 6) := none
  fault  : Option Due := none
  trap   : Option Due := none
  stepDue : Bool := false
  mcheck : Option Due := none
  resume : Option (BitVec 16) := none
  resumeMr : Bool := false
  extSeen : Bool := false
  timSeen : Bool := false
  mbxSeen : Bool := false
  tries  : Nat := 0
  triesMism : Nat := 0
  mism   : Nat := 0
  par    : Nat := 0
  subs   : Nat := 0
  pauseUs : Nat := 0
  paused : Option (BitVec 4) := none
  cpf    : Bool := false
  inj    : BitVec 3 := 0
  unclosed : List Nat := []
  retryOks : List (BitVec 4) := []
  stopReq : Option Run := none
  frz    : Bool := false
  contd  : Bool := false
  bootReq : Bool := false
  relock : Option (BitVec 6) := none
deriving DecidableEq, Repr

/-- A line of an L1 data cache: its way and whether this core may write it (R175, R158). The bytes stand once, in
the cluster's line, because the cluster cache is inclusive (R177). -/
inductive L1S where
  | m | e | s
deriving DecidableEq, Repr

structure L1Line where
  way : BitVec 3
  st  : L1S
deriving DecidableEq, Repr

/-- A physical core's own state: its two L1 caches and their shift registers (R175, R178). -/
structure CoreS where
  dc    : Sp L1Line := []
  ic    : Sp (BitVec 3) := []
  dlfsr : BitVec 16 := 0xACE1
  ilfsr : BitVec 16 := 0xACE1
deriving DecidableEq, Repr

/-- The states of a line in a cluster cache (R199). `i` is a locked entry that keeps its tag (R191). -/
inductive LS where
  | m | o | e | s | i | is | im | sm | om | ma | eb | sb
deriving DecidableEq, Repr

/-- The ends of a coherence message: the home (directory slice) or an agent. -/
inductive Node where
  | home (st : BitVec 4)
  | ag (a : Agent)
deriving DecidableEq, Repr

/-- The grant a requester receives (R205): none for an uncached copy. -/
inductive Grant where
  | none | s | e | m
deriving DecidableEq, Repr

/-- The kinds of coherence message (R204). -/
inductive MK where
  | rdS | rdX | upg | wb (retain : BitVec 2) | evC | rdU | wrF | wrP | cln | clInv
  | fwdS | fwdX | fwdU | inv | recall | down
  | data (g : Grant) | invAck | cmp | wbAck | evAck | retry (cyc : Nat) | pend | done | back
deriving DecidableEq, Repr

/-- A coherence message in flight. `req` is the agent whose request it serves; `data` a whole line, `bytes` some of
its bytes as (offset in the line, byte) pairs; `acks` the number of invalidations a grant announces; `owner` an Inv
that the recorded owner gets (WrF, R205); `sticky` a persistent request (R209); `tag` who waits at the requester:
the processor number plus 1 for a CMO, 100 plus slot plus 8 times the processor for a posted line, 0 otherwise; `op` an
answer to a transaction that the requester's Cmp closes, `tries` the Retry answers so far (R209), `mast` the master ID of the
access behind it (R13), `tick` when it left for another member (R221). -/
structure Msg where
  src  : Node
  dst  : Node
  kind : MK
  line : Nat
  req  : Agent
  data : List Byte := []
  bytes : List Host.Cell := []
  pois : Bool := false
  acks : Nat := 0
  owner : Bool := false
  sticky : Bool := false
  tag  : Nat := 0
  orig : Option MK := none
  op   : Bool := false
  tries : Nat := 0
  mast : Option Nat := none
  tick : Nat := 0
deriving DecidableEq, Repr

/-- A line of a cluster cache or of its eviction buffer (R199 to R201): `acks` counts acknowledgements still
outstanding in MA (negative while they come before the grant), `pg` is the persist grant (R255), `fq` the messages of the
home that reached the line and wait there (R201), `heir` the last agent the eviction buffer gave the line to (R211), `flip`
how many check bits of its data an injection inverted and `tagBad` that it inverted its tag parity (R485), both until a read
finds it (R194, R196). -/
structure CLine where
  st   : LS
  way  : BitVec 4
  data : List Byte
  pois : Bool := false
  pg   : Bool := false
  acks : Int := 0
  fq   : List Msg := []
  heir : Option Agent := none
  flip : Nat := 0
  tagBad : Bool := false
  tick : Nat := 0
deriving DecidableEq, Repr

/-- What a maintenance job does (R184): a range, the disabling of one core's L1 data cache, of the cluster's caches, a power
change of its ways. -/
inductive JobK where
  | range (op : BitVec 4) (base len : Nat)
  | l1 (slot : BitVec 3)
  | cache
  | power (req : BitVec 16)
deriving DecidableEq, Repr

/-- A maintenance job with the agent that started it (R13 note a, R183) and whether that is a processor (R181). For a range: how
many of its lines are handled, whether one was poisoned (R186), whether its present line's request has gone out and whether the
line was poisoned at its home then. -/
structure Job where
  k      : JobK
  master : BitVec 12
  byProc : Bool := false
  pos    : Nat := 0
  pois   : Bool := false
  sent   : Bool := false
  was    : Bool := false
deriving DecidableEq, Repr

/-- A core self-test that runs (R284, R286): of the pair of processor p, or in the background of one retired core. -/
structure SelfTest where
  p    : BitVec 6
  core : BitVec 4
  bg   : Bool
  kind : BitVec 4
deriving DecidableEq, Repr

/-- A cluster: its cache, its maintenance engine (running job, waiting control jobs), a tag-parity search in
progress (set and way, R196), its retry and sparing controller. -/
structure Clu where
  lines : Sp CLine := []
  job   : Option Job := none
  ctlq  : List Job := []
  search : Option (BitVec 11 × BitVec 4) := none
  sparing : List SelfTest := []
deriving DecidableEq, Repr

/-- Directory state of a line (R203). -/
inductive DS where
  | free | s | em | o
deriving DecidableEq, Repr

/-- Owner of a line (R203). -/
inductive Own where
  | clu (k : BitVec 3)
  | host
  | member (i : BitVec 4)
  | home
  | none
deriving DecidableEq, Repr

/-- A request the home is completing itself (R205 note c): what it awaits before it writes the array. `vict`: it waits for
the victim of its own entry, whose transaction names it as `victimOf` (R206, R209). -/
structure Txn where
  msg    : Msg
  acks   : Nat := 0
  data   : Option (List Byte × Bool) := none
  need   : Bool := false
  host   : Bool := false
  remote : Bool := false
  rtag   : BitVec 16 := 0
  vict   : Bool := false
  victimOf : Option Msg := none
  tick   : Nat := 0
deriving DecidableEq, Repr

/-- A directory entry (R203) with the transaction its home is working on. For a member's line (R217), `rem` is what
the module as a whole holds at the remote home and `rdat` the data that came from there. -/
structure Dir where
  st    : DS := .free
  owner : Own := .none
  shr   : BitVec 8 := 0
  h     : Bool := false
  grp   : BitVec 16 := 0
  opens : Nat := 0
  way   : BitVec 4 := 0
  txn   : Option Txn := none
  rem   : DS := .free
  rdat  : Option (List Byte × Bool) := none
  rw    : Bool := false
deriving DecidableEq, Repr

/-- A persistent reservation of a directory way (R209). -/
structure Persist where
  line : Nat
  req  : Agent
  tick : Nat
deriving DecidableEq, Repr

/-- A back-invalidation in progress (R215): line, which of the line's two host lines answered, the kind. -/
structure BiSnp where
  line  : Nat
  lo    : Bool
  hi    : Bool
  inval : Bool
  cur   : Bool
  dirty : List Host.Cell
  tick  : Nat
deriving DecidableEq, Repr

/-- A stack's controller and directory slice (number 8: the remote-line directory of R217, which uses its queue, shift register
and reservations): queue of waiting requests (R205 note c), shift register, persistent
reservations, held persist grants in arrival order (R256), the scrubber's and the sweep's positions, the live
counters of R241 and R220, address-mismatch stamps per channel (R239); `capt` is the line whose captured data the imager awaits (R258). -/
structure Stack where
  queue  : List Msg := []
  lfsr   : BitVec 16 := 0xACE1
  resv   : List Persist := []
  held   : List (Nat × Agent) := []
  scrubR : Nat := 0
  passes : Nat := 0
  scrubbing : Bool := false
  sweep  : Nat := 0
  sweeping : Bool := false
  capt   : Option Nat := none
  ce     : Nat := 0
  ue     : Nat := 0
  amm    : Nat := 0
  served : Nat := 0
  made   : Nat := 0
  last   : Word := 0
  recalls : Nat := 0
  retries : Nat := 0
  fenced : BitVec 8 := 0
  stamps : List (BitVec 3 × Nat) := []
  missed : Nat := 0
deriving DecidableEq, Repr

/-- A first-error capture and its counters (R475); the timer's start and the fault states' last errors in ticks. -/
structure Fe where
  stat  : Word := 0
  addr  : Word := 0
  info  : Word := 0
  time  : Word := 0
  cnt   : List Nat := []
  ovfs  : Nat := 0
  escs  : Nat := 0
  recov : Nat := 0
  timer : Option Nat := none
  capTick : Nat := 0
  quiet : Sp Nat := []
  inj   : Word := 0
deriving DecidableEq, Repr

/-- A Pewter record before its words are formed (R489); `inv` the bits of its CRC that an injection inverted (R485). -/
structure PRec where
  seq  : Nat
  ms   : Nat
  pcyc : Nat
  code : BitVec 16
  sev  : BitVec 2
  cls  : BitVec 3
  supp : Nat
  master : BitVec 12
  inst : BitVec 6
  instv : Bool
  flags : BitVec 5
  payload : List Word
  inv  : BitVec 16 := 0
deriving DecidableEq, Repr

/-- A code's token bucket (R492): tokens spent, when it last gained one, the suppressed count, what the summary
will carry. -/
structure Bucket where
  spent : Nat := 0
  tick  : Nat := 0
  supp  : Nat := 0
  sev   : BitVec 2 := 0
  payload : List Word := []
deriving DecidableEq, Repr

/-- The Pewter recorder: the log in Tungsten, the queue, the buckets, the counters (R489 to R495), the checkpoint of MS, PCYC
and SEQ. -/
structure Pewter where
  log   : Sp PRec := []
  queue : List PRec := []
  buckets : Sp Bucket := []
  seq   : Nat := 0
  ms    : Nat := 0
  pcyc  : Nat := 0
  subms : Nat := 0
  written : Nat := 0
  dropped : Nat := 0
  supp  : Nat := 0
  newest : Nat := 0
  nslot : Nat := 0
  lastAnchor : Word := 0
  ck    : Nat × Nat × Nat := (0, 0, 0)
deriving DecidableEq, Repr

/-- The epoch that is open (R258): its number, the tick, operating time, time base and dirty count of its cut, and the
lines captured into the image's fresh blocks, with their poison, and those that Tungsten cannot correct. -/
structure Epoch where
  n     : Nat
  tick  : Nat
  ms    : Nat
  tbase : Word
  dirty : Nat
  lines : Sp (List Byte × Bool) := []
  unc   : List Nat := []
deriving DecidableEq, Repr

/-- A commit record of type 1 in the commit ring (R259); `ok` says that its CRC holds. -/
structure Commit where
  seq   : Nat
  ms    : Nat
  pcyc  : Nat
  tbase : Word
  base  : Nat
  groups : Nat
  lines : Nat
  mapver : Nat
  ok    : Bool := true
deriving DecidableEq, Repr

/-- The flush area (R259, R264): the header, the commit record once it is written, the lines of the groups; `state` the bytes of
the machine-state section. -/
structure FlushRec where
  seq   : Nat
  mapver : Nat := 0
  state : Nat := 0
  ms    : Nat
  pcyc  : Nat
  tbase : Word
  base  : Nat
  trig  : Nat
  committed : Bool := false
  fus   : Nat := 0
  missed : Bool := false
  ok    : Bool := true
  unc   : List Nat := []
  lines : Sp (List Byte × Bool) := []
deriving DecidableEq, Repr

/-- The source a resume takes (R267): 0 to 2, the last closed epoch, CAUSE; whether the flush that it applies missed its deadline and
was planned (R270). -/
structure Source where
  src   : Nat
  epoch : Nat := 0
  cause : Nat := 0
  fdl   : Bool := false
  plan  : Bool := false
deriving DecidableEq, Repr

/-- Tungsten and its books (spec 10): the image with its poisoned lines and those it cannot correct, the open epoch, the commit ring, the flush
area, stall accounts, a hold-up check that is due, the final epoch of a FATAL, the progress code and FLUSH_DONE, the class
maximum of the last power-up, a thermal trip to record, a restart (R507), a cold start that FORMAT selected; during a resume its
source (R267) and whether ledger resolution posted completions (R270). -/
structure Tun where
  img    : List Host.Cell := []
  imgP   : List Nat := []
  imgU   : List Nat := []
  opened : Option Epoch := none
  closed : Nat := 0
  lastCut : Option Nat := none
  cutNow : Bool := false
  ring   : Sp Commit := []
  flush  : Option FlushRec := none
  flushSeq : Nat := 0
  mapver : Nat := 0
  stall  : Option Nat := none
  epis   : Nat := 0
  stallT : Nat := 0
  checking : Bool := false
  flushAt : Nat := 0
  final  : Option Nat := none
  pcode  : BitVec 3 := 0
  done   : Bool := false
  lastMax : Option Nat := none
  thermal : Option (Nat × Int) := none
  restart : Bool := false
  cold   : Bool := false
  src    : Option Source := none
  ledg   : Bool := false
deriving DecidableEq, Repr

/-- The Brass triad's own work (R469 to R471): units in self-test after they were voted out, the next unit of a rotation and
the one stepped out, units tested and failed in it, hours counted, the tick of the last hour, live counts of R487. -/
structure Brass where
  test : BitVec 3 := 0
  rot  : Option Nat := none
  out  : Option (BitVec 2) := none
  tested : Nat := 0
  failed : Nat := 0
  hours : Nat := 0
  hourT : Nat := 0
  switches : Nat := 0
  rots  : Nat := 0
  disag : Nat := 0
deriving DecidableEq, Repr

/-- A copy of the boot configuration (R514): its write count, the MODE byte, and for each cluster the SUSPECT, CHKBAD and
RETIRED bits in [26:0]. -/
structure BootCfg where
  seq  : Nat
  mode : BitVec 8
  spare : List Nat
deriving DecidableEq, Repr

/-- A boot program as installed in the configuration region (R512); `ok` says that its CRC holds. -/
structure BootProg where
  lines : Nat
  data : List Byte
  ok   : Bool
deriving DecidableEq, Repr

/-- The management space, the sensors and trace (R527 to R529, R537): the last readings, TRCTL, ALERT, ALMASK, the records
that wait for trace, the gap that a marker will tell (records lost, MS of its start), the frames' pause, the throttle of
each compute die (limit in 100 MHz, the tick it began, the lowest limit), which warnings stand. -/
structure Mgmt where
  temp : List Int := []
  volt : List Nat := []
  curr : List Nat := []
  trctl : BitVec 3 := 0
  alert : BitVec 5 := 0
  almask : BitVec 16 := 0
  trq  : List PRec := []
  gap  : Option (Nat × Nat) := none
  thr  : Sp (Nat × Nat × Nat) := []
  warm : List Nat := []
deriving DecidableEq, Repr

end Sys2Proof.Machine
end

