-- ==== Sys2Proof/Machine/Regs.lean ====
section
/-!
DEFINITION. The register map (spec 21, R541): which block an offset of device space lies in, and for each defined
register its reset value and the fields that a plain write reaches (R10 to R12). Read-only and hardware-changed
fields take no part in a write; write-only fields store nothing.
-/
namespace Sys2Proof.Machine

open Sys2Proof

/-- The three orderable parts (R1). -/
inductive Part where
  | ax | sx | cx
deriving DecidableEq, Repr

/-- Clusters present (R1, R2). -/
def Part.clusters : Part → Nat
  | .cx => 6
  | _ => 8

/-- Main-store stacks present (R1, R2). -/
def Part.stks : Part → Nat
  | .cx => 6
  | _ => 8

/-- Mbova links present (R1, R2). -/
def Part.links : Part → Nat
  | .cx => 4
  | _ => 6

/-- Cobalt present (R1). -/
def Part.cobalt : Part → Bool
  | .sx => false
  | _ => true

/-- Zinc present (R1). -/
def Part.zinc : Part → Bool
  | .cx => false
  | _ => true

/-- Main-store bytes (R224). -/
def Part.msBytes (p : Part) : Nat := p.stks * 3 * 2 ^ 30

/-- Main-store lines (R222). -/
def Part.msLines (p : Part) : Nat := p.stks * 2 ^ 25

/-- How a written field acts (R10). -/
inductive FAcc where
  | rw | w1c | rwl
deriving DecidableEq, Repr

/-- A field that a write reaches: [hi:lo], its access code, and which written words carry no reserved encoding for
it (R12). -/
structure Fld where
  hi  : Nat
  lo  : Nat
  acc : FAcc
  ok  : Word → Bool

/-- A register: its reset value and its writable fields. -/
structure RegD where
  reset : Word
  flds  : List Fld

/-- A read-write field that takes every value. -/
def rw (hi lo : Nat) : Fld := ⟨hi, lo, .rw, fun _ => true⟩

/-- A read-write field that takes the values of a range. -/
def rwIn (hi lo a b : Nat) : Fld := ⟨hi, lo, .rw, fun v => decide (a ≤ fld v hi lo ∧ fld v hi lo ≤ b)⟩

/-- A write-one-to-clear field. -/
def w1c (hi lo : Nat) : Fld := ⟨hi, lo, .w1c, fun _ => true⟩

/-- A field locked by SYS_LOCK. -/
def rwl (hi lo : Nat) : Fld := ⟨hi, lo, .rwl, fun _ => true⟩

/-- A register read back but not written. -/
def roReg (v : Word) : RegD := ⟨v, []⟩

/-- The line and cluster fields of an interrupt routing register (R139): both keep their values when the line is 40
or above or the cluster is absent; `en` stays apart. -/
def routeFlds (nclu : Nat) (chi clo : Nat) : List Fld :=
  let ok : Word → Bool := fun v => decide (fld v 5 0 < 40 ∧ fld v chi clo < nclu)
  [⟨5, 0, .rw, ok⟩, ⟨chi, clo, .rw, ok⟩, rw 6 6]

/-- The line field of a routing register that names no cluster (R139). -/
def lineFlds : List Fld := [rwIn 5 0 0 39, rw 6 6]

/-- The number of set bits of a field. -/
def popFld (v : Word) (hi lo : Nat) : Nat := ((List.range (hi + 1 - lo)).filter fun i => v.getLsbD (lo + i)).length

/-- What one write leaves in a register (R10, R12): each field takes the written value as its access code says. -/
def writeFlds (locked : Bool) (old v : Word) : List Fld → Word
  | [] => old
  | f :: fs =>
    let old' :=
      if !f.ok v then old
      else match f.acc with
        | .rw => setFld old f.hi f.lo (fld v f.hi f.lo)
        | .rwl => if locked then old else setFld old f.hi f.lo (fld v f.hi f.lo)
        | .w1c => setFld old f.hi f.lo (fld (old &&& ~~~v) f.hi f.lo)
    writeFlds locked old' v fs

/-- A location of device space: a block, its index and the offset in it (R541). -/
inductive Loc where
  | sys (o : Nat) | clk (o : Nat) | core (n o : Nat) | clu (k o : Nat) | cc (k o : Nat) | ms (o : Nat) | tun (o : Nat)
  | cxl (o : Nat) | chan (e o : Nat) | chq (o : Nat) | elc (o : Nat) | cob (o : Nat) | zn (o : Nat) | vi (i o : Nat)
  | instm (o : Nat) | mbv (l o : Nat) | mbg (o : Nat) | brs (o : Nat) | pew (o : Nat) | none
deriving DecidableEq, Repr

/-- Offset a in an array of `cnt` blocks at `base` with a stride and a span. -/
def inArr (a base stride span cnt : Nat) : Option (Nat × Nat) :=
  if base ≤ a ∧ a < base + stride * cnt ∧ (a - base) % stride < span then some ((a - base) / stride, (a - base) % stride)
  else Option.none

/-- The block an offset lies in (R541). -/
def locate (a : Nat) : Loc :=
  if a < 0x2000 then .sys a
  else if 0x10000 ≤ a ∧ a < 0x12000 then .clk (a - 0x10000)
  else match inArr a 0x100000 0x1000 0x1000 72 with
  | some (n, o) => .core n o
  | Option.none => match inArr a 0x200000 0x4000 0x4000 8 with
  | some (k, o) => if o < 0x2000 then .clu k o else .cc k (o - 0x2000)
  | Option.none =>
  if 0x300000 ≤ a ∧ a < 0x310000 then .ms (a - 0x300000)
  else if 0x400000 ≤ a ∧ a < 0x401000 then .tun (a - 0x400000)
  else if 0x500000 ≤ a ∧ a < 0x514000 then .cxl (a - 0x500000)
  else match inArr a 0x600000 0x2000 0x2000 16 with
  | some (e, o) => .chan e o
  | Option.none =>
  if 0x620000 ≤ a ∧ a < 0x629000 then .chq (a - 0x620000)
  else if 0x700000 ≤ a ∧ a < 0x704000 then .elc (a - 0x700000)
  else if 0x800000 ≤ a ∧ a < 0x801000 then .cob (a - 0x800000)
  else if 0x900000 ≤ a ∧ a < 0x901000 then .zn (a - 0x900000)
  else match inArr a 0xA00000 0x1000 0x1000 64 with
  | some (i, o) => .vi i o
  | Option.none =>
  if 0xA40000 ≤ a ∧ a < 0xA41000 then .instm (a - 0xA40000)
  else match inArr a 0xB00000 0x2000 0x2000 6 with
  | some (l, o) => .mbv l o
  | Option.none =>
  if 0xB10000 ≤ a ∧ a < 0xB12000 then .mbg (a - 0xB10000)
  else if 0xC00000 ≤ a ∧ a < 0xC01000 then .brs (a - 0xC00000)
  else if 0xD00000 ≤ a ∧ a < 0xD01000 then .pew (a - 0xD00000)
  else .none

/-- Is the unit behind a location present (R2, R6)? -/
def locPresent (p : Part) : Loc → Bool
  | .core n _ => decide (n < 9 * p.clusters)
  | .clu k _ => decide (k < p.clusters)
  | .cc k _ => decide (k < p.clusters)
  | .mbv l _ => decide (l < p.links)
  | .ms o => decide (p.stks = 8 ∨ o < 0x7000 ∨ 0x9000 ≤ o)
  | .cob _ => p.cobalt
  | .zn _ => p.zinc
  | .none => false
  | _ => true

/-- Offsets of the blocks. -/
def aCore (n o : Nat) : Nat := 0x100000 + 0x1000 * n + o
def aClu (k o : Nat) : Nat := 0x200000 + 0x4000 * k + o
def aCc (k o : Nat) : Nat := 0x202000 + 0x4000 * k + o
def aMs (o : Nat) : Nat := 0x300000 + o
def aStk (s o : Nat) : Nat := 0x301000 + 0x1000 * s + o
def aTun (o : Nat) : Nat := 0x400000 + o
def aCxl (o : Nat) : Nat := 0x500000 + o
def aChan (e o : Nat) : Nat := 0x600000 + 0x2000 * e + o
def aChq (o : Nat) : Nat := 0x620000 + o
def aElc (o : Nat) : Nat := 0x700000 + o
def aCob (o : Nat) : Nat := 0x800000 + o
def aZn (o : Nat) : Nat := 0x900000 + o
def aVi (i o : Nat) : Nat := 0xA00000 + 0x1000 * i + o
def aInstm (o : Nat) : Nat := 0xA40000 + o
def aMbv (l o : Nat) : Nat := 0xB00000 + 0x2000 * l + o
def aMbg (o : Nat) : Nat := 0xB10000 + o
def aBrs (o : Nat) : Nat := 0xC00000 + o
def aPew (o : Nat) : Nat := 0xD00000 + o
def aClk (o : Nat) : Nat := 0x10000 + o

/-- Control registers by number (R31): identity (R32 to R34), exceptions (R132), pair status (R292), L1 control
(R180). The fields of FE_STAT-like counters do not occur here. -/
def crReg (c : Nat) : Option RegD :=
  match c with
  | 0 => some (roReg 0)
  | 1 => some ⟨0, [rw 0 0]⟩
  | 2 => some ⟨0, [rw 47 0]⟩
  | 3 => some ⟨0, [rw 23 0]⟩
  | 16 => some ⟨0, [rw 47 0]⟩
  | 17 => some ⟨0, [rw 6 0]⟩
  | 18 => some ⟨0, [rw 39 24, rw 18 15, rw 14 12, rw 11 11, rw 10 10, rw 9 8, rw 6 6, rw 5 0]⟩
  | 19 => some ⟨0, [rw 47 0]⟩
  | 20 => some ⟨0, [rw 47 0]⟩
  | 21 => some ⟨0, [rw 47 0]⟩
  | 22 => some ⟨0, [rw 47 0]⟩
  | 23 => some ⟨0, [rw 47 0]⟩
  | 24 => some ⟨0, [rw 24 0]⟩
  | 25 => some ⟨0, [rw 0 0]⟩
  | 26 => some ⟨0, [rw 47 0]⟩
  | 27 => some ⟨0, [rw 47 0]⟩
  | 28 => some ⟨0, [rw 47 0]⟩
  | 32 => some ⟨0, [rw 3 0]⟩
  | 33 => some (roReg 0)
  | 34 => some (roReg 0)
  | 40 => some ⟨0, [rw 47 0]⟩
  | 41 => some ⟨0, [rw 0 0, w1c 1 1]⟩
  | 64 => some (roReg 0)
  | 65 => some (roReg 0)
  | 66 => some (roReg 0)
  | 67 => some (roReg 0)
  | 68 => some (roReg 0)
  | 96 => some ⟨5, []⟩
  | 97 => some (roReg 0)
  | 98 => some (roReg 0)
  | _ => none

/-- `CLU[k]` (R138, R142, R295) less its capture. -/
def cluReg (o : Nat) : Option RegD :=
  if 0x100 ≤ o ∧ o < 0x280 ∧ o % 8 = 0 then
    let j := (o - 0x100) / 8
    some (if j < 40 then ⟨0, [w1c 15 15, rw 14 11, rw 10 8, rw 7 7]⟩
      else ⟨BitVec.ofNat 48 ((j - 40) <<< 8), [w1c 15 15, rw 14 11, rw 7 7]⟩)
  else match o with
  | 0x300 => some (roReg 0)
  | 0x400 => some ⟨0, [rw 1 1]⟩
  | 0x408 => some (roReg 0x76543210)
  | 0x410 => some (roReg 8)
  | 0x418 => some (roReg 0)
  | 0x420 => some ⟨0, [w1c 2 2]⟩
  | 0x428 => some ⟨0, lineFlds⟩
  | _ => none

/-- `CC[k]` (R182, R183) less its capture and the registers whose writes act by rules of their own (CTL, LOCK, PWR,
MOP). -/
def ccReg (o : Nat) : Option RegD :=
  match o with
  | 0x000 => some ⟨1, []⟩
  | 0x008 => some ⟨0xFFFF, [rwIn 15 0 1 0xFFFF]⟩
  | 0x010 => some ⟨0, [w1c 31 16]⟩
  | 0x018 => some (roReg 0)
  | 0x020 => some ⟨0, [rw 47 0]⟩
  | 0x028 => some ⟨0, [rw 47 0]⟩
  | 0x030 => some (roReg 0)
  | 0x038 => some ⟨0, [w1c 2 2]⟩
  | 0x040 => some ⟨0, lineFlds⟩
  | 0x048 => some ⟨0xACE1, [rwIn 15 0 1 0xFFFF]⟩
  | _ => none

/-- `MS` (R240, R241, R219) less the captures. CGCTL and CGMEM act by rules of their own (R220 note a). -/
def msReg (p : Part) (o : Nat) : Option RegD :=
  if 0x1000 ≤ o ∧ o < 0x9000 then
    let s := (o - 0x1000) / 0x1000
    if p.stks ≤ s then none
    else match (o - 0x1000) % 0x1000 with
    | 0x000 => some (roReg 0)
    | 0x008 => some (roReg 0)
    | 0x010 => some (roReg 0)
    | 0x018 => some (roReg 0)
    | 0x020 => some (roReg 0)
    | 0x028 => some (roReg 0)
    | 0x030 => some ⟨0, [rw 47 0]⟩
    | 0x038 => some ⟨0, [rw 9 0]⟩
    | _ => none
  else if 0xC008 ≤ o ∧ o < 0xC088 ∧ o % 8 = 0 then some ⟨0, [rw 14 0]⟩
  else if 0xC100 ≤ o ∧ o < 0xC140 ∧ o % 8 = 0 then some (roReg 0)
  else match o with
  | 0x0000 => some ⟨0x118, [rw 8 8, rwIn 7 0 1 255]⟩
  | 0x0008 => some (roReg 0)
  | 0xC000 => some ⟨0, [rw 20 5, rw 4 4, rw 3 0]⟩
  | 0xC0F8 => some (roReg 0)
  | _ => none

/-- TUN_BUDGET before a hold-up check has passed, under class 0: EFF and MAX 48 MiB, MIB 384 (R246, R247, R272). -/
def budgetReset : Word := BitVec.ofNat 48 (48 * 2 ^ 32 + 48 * 2 ^ 16 + 384)

/-- `TUN` (R272, R273) less its capture. -/
def tunReg (nclu : Nat) (o : Nat) : Option RegD :=
  match o with
  | 0x000 => some ⟨2, [rwIn 9 0 1 1000]⟩
  | 0x008 => some ⟨budgetReset, [rwIn 9 0 48 768]⟩
  | 0x010 => some (roReg 0)
  | 0x018 => some (roReg 0)
  | 0x020 => some (roReg 0)
  | 0x028 => some (roReg 0)
  | 0x030 => some (roReg 0)
  | 0x038 => some (roReg 0)
  | 0x040 => some (roReg 0)
  | 0x048 => some (roReg 0)
  | 0x050 => some ⟨0, rw 18 16 :: routeFlds nclu 9 7⟩
  | 0x058 => some ⟨0, [w1c 2 0]⟩
  | _ => none

/-- `BRS` and `FLT` (R486, R487) less the capture. -/
def brsReg (nclu : Nat) (o : Nat) : Option RegD :=
  match o with
  | 0x000 => some ⟨0x1C0, [w1c 15 15]⟩
  | 0x008 => some (roReg 0xFEFDFC)
  | 0x010 => some (roReg 0)
  | 0x018 => some (roReg 0)
  | 0x020 => some (roReg 0)
  | 0x800 => some ⟨0x3E8000A, [rwIn 35 16 1 1000000, rwIn 15 0 1 3600]⟩
  | 0x808 => some (roReg 0)
  | 0x810 => some (roReg 0)
  | 0x818 => some ⟨0, rw 21 21 :: rwIn 20 10 1 0x7FF :: routeFlds nclu 9 7⟩
  | 0x820 => some (roReg 0)
  | 0x828 => some (roReg 0)
  | 0x830 => some (roReg 0)
  | 0x838 => some (roReg 0)
  | 0x840 => some (roReg 0)
  | _ => none

/-- `PEW` (R495) less its capture. RLO's BURST and REFILL_MS take every value, 0 too: R495 states ranges for RL alone (DEDUCED, log 95). -/
def pewReg (nclu : Nat) (o : Nat) : Option RegD :=
  if 0x140 ≤ o ∧ o < 0x180 ∧ o % 8 = 0 then some (roReg 0)
  else if 0x200 ≤ o ∧ o < 0x280 ∧ o % 8 = 0 then
    some ⟨0, [rw 41 41, rw 40 33, rw 32 17, rw 15 0]⟩
  else match o with
  | 0x000 => some ⟨0x803E8, [rwIn 23 16 1 255, rwIn 15 0 1 65535]⟩
  | 0x008 => some ⟨0, rw 11 10 :: routeFlds nclu 9 7⟩
  | 0x010 => some (roReg 0)
  | 0x018 => some (roReg 0)
  | 0x020 => some (roReg 0)
  | 0x028 => some (roReg 0)
  | 0x030 => some (roReg 0)
  | 0x038 => some (roReg 0)
  | 0x040 => some (roReg 0)
  | 0x048 => some (roReg 0)
  | 0x050 => some ⟨0, [rw 47 0]⟩
  | 0x058 => some ⟨0, [rw 29 0]⟩
  | 0x060 => some (roReg 0)
  | 0x068 => some ⟨0, [rw 47 0]⟩
  | 0x070 => some ⟨0, [rw 47 0]⟩
  | 0x078 => some ⟨0, [rw 47 0]⟩
  | 0x080 => some (roReg 0)
  | 0x088 => some ⟨0, [rw 15 0]⟩
  | 0x090 => some (roReg 0)
  | 0x098 => some (roReg 0)
  | _ => none

/-- `INST[i]` (R419 note a): instance 0 owns everything at module reset. -/
def viReg (p : Part) (i o : Nat) : Option RegD :=
  let r (a b : Nat) (fl : List Fld) : Option RegD := some ⟨BitVec.ofNat 48 (if i = 0 then a else b), fl⟩
  if (0x100 ≤ o ∧ o < 0x158 ∧ o % 8 = 0) ∨ (0x180 ≤ o ∧ o < 0x1D8 ∧ o % 8 = 0) then
    some ⟨0, [if o = 0x150 ∨ o = 0x1D0 then rw 31 0 else rw 47 0]⟩
  else match o with
  | 0x000 => r 0xFFFFFFFF 0 [rw 31 0]
  | 0x008 => r (2 ^ (8 * p.clusters - 32) - 1) 0 [rw 31 0]
  | 0x010 => r (p.stks * 128 * 1024) 0 [rw 9 0, rw 20 10]
  | 0x018 => some ⟨0, [rw 40 40, rw 39 0]⟩
  | 0x020 => some ⟨0, [rw 39 0]⟩
  | 0x028 => r (1024 * 1024) 0 [rw 9 0, rw 20 10]
  | 0x030 => r (512 * 512) 0 [rw 8 0, rw 18 9]
  | 0x038 => r (10920 * 16384) 0 [rw 13 0, rw 27 14]
  | 0x040 => r (2 * (2 ^ p.clusters - 1) + 1) 0 [rw 8 1, rw 0 0]
  | 0x048 => some ⟨0, [rw 17 17, rw 16 6, rw 5 0]⟩
  | 0x050 => some ⟨0, [rw 47 0]⟩
  | 0x058 => some ⟨0, [rw 47 0]⟩
  | 0x080 => some (roReg 0)
  | 0x088 => r 1 0 [w1c 16 16]
  | 0x090 => some (roReg 0)
  | 0x098 => some (roReg 0)
  | 0x0A0 => some (roReg 0)
  | 0x0A8 => some ⟨0, [rw 47 0]⟩
  | 0x0B0 => some ⟨0, [rw 19 0]⟩
  | 0x0B8 => some (roReg 0)
  | 0x158 => some (roReg 0)
  | 0x160 => some (roReg 0)
  | 0x1D8 => some (roReg 0)
  | 0x1E0 => some (roReg 0)
  | 0x1E8 => some ⟨0, [w1c 3 2]⟩
  | _ => none

/-- `SYS`, `FEAT` and `ID` (R516, R517): the fixed identity stands in Config, the features in R5 and R59. -/
def sysReg (p : Part) (o : Nat) : Option RegD :=
  match o with
  | 0x000 => some (roReg 0)
  | 0x008 => some (roReg 0)
  | 0x010 => some ⟨0, [w1c 15 15]⟩
  | 0x018 => some (roReg 0)
  | 0x020 => some ⟨0, [rw 47 0]⟩
  | 0x028 => some ⟨0, [w1c 17 17]⟩
  | 0x100 => some (roReg (match p with | .ax => 0x0E1FFFFFF | .sx => 0x0E1FEFFFF | .cx => 0x0C93D3F3F))
  | 0x108 => some (roReg (match p with | .cx => 0x00309F7FE802 | _ => 0x00409F7FE802))
  | 0x110 => some (roReg (match p with | .cx => 0x001038306012 | _ => 0x001038306018))
  | 0x118 => some (roReg (match p with | .sx => 0x000102100400 | _ => 0x200102100400))
  | _ => none

/-- `CLK` (R518). PROC acts by a rule of its own (R500). -/
def clkReg (p : Part) (o : Nat) : Option RegD :=
  if 0x1000 ≤ o ∧ o < 0x1200 ∧ o % 8 = 0 then
    (if (o - 0x1000) / 64 < p.clusters then some (roReg 0x2828) else none)
  else match o with
  | 0x000 => some (roReg 0)
  | 0x008 => some (roReg 0)
  | 0x010 => some (roReg 0)
  | _ => none

end Sys2Proof.Machine
end

