-- ==== Sys2Proof/Machine/Types2.lean ====
section
/-!
DEFINITION. The parts of the machine's state, second half: the host interface with its rings, the channel subsystem
with the ledger, and the channel engines. Plain data only.
-/
namespace Sys2Proof.Machine

open Sys2Proof

/-- A completion written to its ring (R308): its index, the tick of the write, whether the host gave GO. -/
structure CWr where
  idx  : BitVec 32
  tick : Nat
  go   : Bool
deriving DecidableEq, Repr

/-- A ring pair's indices and status (R304 to R312, R342). `held` is HELD by its causes: bit 0 resume, attach or
detach, bit 1 an instance freeze, bit 2 containment. `acc` is the next slot whose entry Electrum writes, `got` the
slots fetched and not yet accepted, `ftick` when the oldest fetch began, `stopF` and `stopP` that ring errors 1 or 2,
or 4, stopped fetching or posting, `nidx` the next completion index (R344 note a), `wrs` the completions written and
not yet passed by CQPI, `visN` and `visT` how many completions became visible since the last signal and when the oldest
did (R311), `cqpiW` a value of CQPI whose mirrored ring record awaits the partner (R348), `bad` that the ring record fails its CRC (R347). -/
structure RP where
  sqpi : BitVec 32 := 0
  cqci : BitVec 32 := 0
  sqfp : BitVec 32 := 0
  cqpi : BitVec 32 := 0
  irq  : Word := 0
  held : BitVec 3 := 0
  resumed : Bool := false
  err  : Bool := false
  code : BitVec 4 := 0
  stopF : Bool := false
  stopP : Bool := false
  acc  : BitVec 32 := 0
  got  : List (BitVec 32 × List Byte) := []
  ftick : Nat := 0
  nidx : BitVec 32 := 0
  wrs  : List CWr := []
  visN : Nat := 0
  visT : Nat := 0
  cqpiW : Option (BitVec 32) := none
  nextSeq : Nat := 0
  enSeq : Nat := 0
  sqfpEn : BitVec 32 := 0
  bad : Bool := false
deriving DecidableEq, Repr

/-- A ledger entry's state as Electrum holds it (R344): POSTED and RETIRED follow from CIDX. -/
inductive LSt where
  | accepted | started | done | abandoned
deriving DecidableEq, Repr

/-- A ledger entry (R341): `addr` its logical address, `ord` its place in the order of acceptance, `wait` that a
mirrored write's partner has not acknowledged it (R348), `timer` that it holds a deadline timer (R359), `late` that its
missed deadline is recorded (R360), `urg` that it waits urgent (R357), `redo` that its dispatch takes a new TACC and
timer (R346, R361, R431), `inv` the bits of its CRC that an injection inverted (R485). -/
structure LEnt where
  st   : LSt
  idem : Bool
  dlm  : Bool := false
  inst : BitVec 6
  sidx : BitVec 32
  cidx : BitVec 32 := 0
  tacc : Word
  desc : List Byte
  comp : List Byte := []
  addr : Nat
  ord  : Nat
  wait : Bool := false
  timer : Bool := false
  late : Bool := false
  urg  : Bool := false
  redo : Bool := false
  inv  : BitVec 16 := 0
deriving DecidableEq, Repr

/-- A mirror write without acknowledgement (R348): its tag, the ledger key or ring pair it carries, when it left,
whether it belongs to a resynchronisation (R349). -/
structure MirW where
  tag  : BitVec 16
  ring : Bool
  key  : Nat
  tick : Nat
  sync : Bool
deriving DecidableEq, Repr

/-- A reserved queue slot (R353, R354): who holds it and, for an engine, for which ring pair's program. -/
structure QResv where
  slot : Nat
  master : BitVec 12
  ring : Option (BitVec 10)
deriving DecidableEq, Repr

/-- A committed queue item (R355, R357): `tick` the time base at its commit. -/
structure QItem where
  slot : Nat
  prio : BitVec 3
  lenm1 : BitVec 4
  tick : Nat
  ord  : Nat
  urg  : Bool := false
deriving DecidableEq, Repr

/-- An internal queue (R351 to R357): reservations, available items in commit order, the held list with its mark, the
promotions. -/
structure Queue where
  resv : List QResv := []
  items : List QItem := []
  held : List QItem := []
  mark : Nat := 0
  starv : Nat := 0
deriving DecidableEq, Repr

/-- A message over Mbova (R437, R445): its type, ends, tag, status, poison and payload words. -/
structure FMsg where
  typ  : BitVec 6
  dst  : BitVec 14
  src  : BitVec 14 := 0
  tag  : BitVec 16 := 0
  status : BitVec 8 := 0
  pois : Bool := false
  words : List Word := []
deriving DecidableEq, Repr

/-- A flit in the router (R437, R442, R443): its message, dateline class and detours; `inp` is the link it came in by and
the buffer (4 × class + virtual channel) that it still fills there. -/
structure Flit where
  m    : FMsg
  cl   : Bool := false
  dtr  : Nat := 0
  inp  : Option (Nat × Nat) := none
deriving DecidableEq, Repr

/-- A link (R435 to R440, R456): flit lock, a retrain that runs, the next LSEQ and the last received in order, the replay
buffer, when LACK last advanced, replays since, whether flits are discarded after a bad one, credits in use and credits to
return by buffer, live counters, when an attempt was last made, which ends accepted, whether the link has run at half width since EN
was last written from 0 to 1 (R436). -/
structure Lnk where
  up   : Bool := false
  retr : Bool := false
  tx   : BitVec 8 := 0
  rx   : BitVec 8 := 255
  replay : List (BitVec 8 × Flit) := []
  ackT : Nat := 0
  reps : Nat := 0
  nakW : Bool := false
  used : Sp Nat := []
  ret  : List Nat := []
  flits : Nat := 0
  reN  : Nat := 0
  rtN  : Nat := 0
  crcN : Nat := 0
  tryT : Option Nat := none
  mine : Bool := false
  peer : Bool := false
  half : Bool := false
deriving DecidableEq, Repr

/-- A request that waits at its home (R448, R452): its message, the input buffer it fills, when Pending was last answered;
`db` a doorbell in the doorbell buffer. -/
structure HomeQ where
  m    : FMsg
  tick : Nat
  db   : Bool := false
deriving DecidableEq, Repr

/-- Whose remote request it is (R447): a load by its place in program order, a store slot, a mover operation by engine
and buffer, a port operation by engine and number, an operation slot (R451), a read of a micro-routine for one of its segments (R103). -/
inductive RWho where
  | load (p : BitVec 6) (sn : Nat)
  | store (p : BitVec 6) (slot : Nat)
  | mov (e : BitVec 4) (buf : BitVec 2)
  | port (e : BitVec 4) (id : Nat)
  | ops (i : Nat)
  | routine (p : BitVec 6) (isA : Bool)
deriving DecidableEq, Repr

/-- A remote request of this module (R447, R450): `sent` once it left, `tick` when the home was last heard of, `pt` when
the requester was last answered Pending. -/
structure ROp where
  tag  : BitVec 16
  who  : RWho
  msg  : FMsg
  line : Nat
  sent : Bool := false
  tick : Nat
  pt   : Nat := 0
deriving DecidableEq, Repr

/-- A mover operation in progress (R376): 0 RD, 1 WR, 2 FILL. `void`: an earlier one failed. For a remote address: the
answers still to come, their first bad status, the bytes that came. -/
structure MOp where
  kind : BitVec 2
  buf  : BitVec 2
  addr : BitVec 64
  n    : Nat
  void : Bool := false
  left : Nat := 0
  rst  : BitVec 8 := 0
  rdat : Sp Byte := []
deriving DecidableEq, Repr

/-- A port operation whose result is pending (R378): the number it arrives under, the code, its register, the value of a
queue operation and its status; `req` holds the eight words of a Cobalt or Zinc request, `n` the state of the port
counter at its issue, `left`, `rst`, `rdat` what is awaited of a remote address, `over` that only writes are awaited and
`outs` the registers its result then sets. -/
structure POp where
  id   : Nat
  op   : BitVec 4
  reg  : BitVec 5
  val  : Option (BitVec 64) := none
  st   : BitVec 9 := 0
  req  : List (BitVec 64) := []
  n    : Nat := 0
  left : Nat := 0
  rst  : BitVec 8 := 0
  rdat : Sp Byte := []
  outs : List (BitVec 5 × BitVec 64) := []
  ovr : Bool := false
deriving DecidableEq, Repr

/-- A program of the standard image that runs (R334, R390 to R393): its number, how far it is, the addresses and the length that
are left of its source and destination, whether its Cobalt and its Zinc operation have begun, the input and output bytes since
its last block boundary, compressed bytes so far, bytes that wait in a buffer between the two units, the status that it will end
with and whose step that is, whether the last input was given and whether the stream has ended before it, the queue slot it
reserved, and when it last met a full queue. -/
structure StdRun where
  prog  : Nat
  stage : Nat := 0
  src   : BitVec 64
  dst   : BitVec 64
  left  : Nat
  cobOn : Bool := false
  znOn  : Bool := false
  bIn   : Nat := 0
  bOut  : Nat := 0
  mid   : Nat := 0
  pend  : Nat := 0
  now   : Nat := 0
  last  : Bool := false
  fin   : Bool := false
  tagBad : Bool := false
  full  : Bool := false
  code  : Nat := 0
  ut    : Bool := false
  slot  : Nat := 0
  tick  : Nat := 0
deriving DecidableEq, Repr

/-- A running or parked channel program (R370); `std` for one of the standard image. `word` is how much of the present word has been done: its ALU,
shifter, mover and port fields, with the writes they leave for the end of the word (R375); `toq` is the queue of its last commit. -/
structure Prog where
  q    : BitVec 10
  seq  : Nat
  v    : Sp (BitVec 64) := []
  ua   : BitVec 15
  stack : List (BitVec 15) := []
  z    : Bool := false
  n    : Bool := false
  c    : Bool := false
  status : BitVec 8 := 0
  step : BitVec 4 := 1
  ut   : Bool := false
  mtch : Option (BitVec 9) := none
  lz   : Bool := false
  mops : List MOp := []
  pops : List POp := []
  pid  : Nat := 0
  cycles : Nat := 0
  abort : Bool := false
  started : Bool := false
  fields : BitVec 4 := 0
  alu  : Option (BitVec 5 × BitVec 64) := none
  aluR : Option (BitVec 64 × Bool) := none
  shf  : Option (BitVec 5 × BitVec 64) := none
  movs : List (BitVec 5 × BitVec 64) := []
  rpend : Option (List Word) := none
  reply : Option (List Word) := none
  rord : Nat := 0
  ending : Bool := false
  bnd  : Bool := false
  toq  : Option (BitVec 9) := none
  std  : Option StdRun := none
deriving DecidableEq, Repr

/-- A block buffer (R376): the bytes it holds and whether the last RD into it failed. -/
structure Buf where
  data : List Byte := []
  bad  : Bool := false
deriving DecidableEq, Repr

/-- A channel engine (R363, R370, R383): its running program, its parked ones, buffers, private store, counters. -/
structure Engine where
  run  : Option Prog := none
  parked : List Prog := []
  bufs : Sp Buf := []
  store : Sp (BitVec 144) := []
  done : Nat := 0
deriving DecidableEq, Repr

/-- A key slot (R400, R403): key bytes, 256 bits or 128, IV prefix, owning instance, counter and its ceiling. A valid
slot is listed. -/
structure KSlot where
  key  : List Byte
  big  : Bool
  pre  : BitVec 32
  inst : BitVec 6
  ctr  : Nat := 0
  ceil : Nat := 16777216
deriving DecidableEq, Repr

/-- A slot command that waits for earlier requests (R401): its word, slot and key bytes, and the port counter then. -/
structure KCmd where
  v    : Word
  slot : Nat
  key  : List Byte
  at_  : Nat
deriving DecidableEq, Repr

/-- An open Cobalt operation (R412): its program and request, the IV, the hash so far, text bytes done, ciphertext not
yet hashed, output held, whether output was written. -/
structure CobOp where
  e    : BitVec 4
  q    : BitVec 10
  seq  : Nat
  slot : Nat
  dec  : Bool
  key  : List Byte
  iv   : List Byte
  y    : BitVec 128
  aad  : Nat
  len  : Nat := 0
  part : List Byte := []
  held : List Byte := []
  wrote : Bool := false
  last : Bool := false
  st   : BitVec 9 := 0
deriving DecidableEq, Repr

/-- An open Zinc operation (R411, R412): its program, format, direction, the input consumed, the output bytes made so
far, the output held, whether output was written. -/
structure ZnOp where
  e    : BitVec 4
  q    : BitVec 10
  seq  : Nat
  inst : BitVec 6
  eng  : Nat
  fmt  : Nat
  sgn  : Bool
  dec  : Bool
  inp  : List Byte := []
  made : Nat := 0
  held : List Byte := []
  wrote : Bool := false
  last : Bool := false
deriving DecidableEq, Repr

/-- An installed image (R386): its IMGID, TYPE and lines. -/
structure Image where
  id   : Word
  typ  : Nat
  lines : List Byte
deriving DecidableEq, Repr

/-- A report to the manager that is not posted yet (R426): its 64 bytes less the phase bit, and when it was made. -/
structure Rept where
  bytes : List Byte
  tick  : Nat
deriving DecidableEq, Repr

/-- A RESTORE that writes its window (R431): the image's header line, the lines after it, the window lines written so far. -/
structure RestW where
  hdr  : List Byte
  body : List Byte
  pos  : Nat := 0
deriving DecidableEq, Repr

/-- A CXL.mem request that is being served (R213, R214, R317): the host line, the request each module line still gets,
the line now asked for, whether its grant is held back, the bytes a write carries, what came back, the response,
acknowledgements still to come, and the lines whose transaction closes at the end. -/
structure HReq where
  h    : Nat
  kind : MK
  todo : List Nat
  cur  : Option Nat := none
  held : Bool := false
  bytes : List Host.Cell := []
  pois : Bool := false
  got  : List Host.Cell := []
  gotP : Bool := false
  resp : Nat
  acks : Int := 0
  gotD : Bool := false
  open_ : List Nat := []
deriving DecidableEq, Repr

/-- The CXL block (R297 to R325): HDM base in force in units of 256 MiB, the decoder's base as the host wrote it last, the device
cache of submission lines, requests of the host, that GPF phase 1 ended the writes and since when its answer waits for GO, a
managed detach that runs (its tick, and how many lines it takes back once it does), vectors unmasked and pending (function ×
2048 + vector). -/
structure Cxl where
  hdm  : Nat := 0
  base : Nat := 0
  dcache : List (Nat × List Byte) := []
  reqs : List HReq := []
  gpf  : Bool := false
  gpfW : Option Nat := none
  detach : Option (Nat × Option Nat) := none
  on   : List Nat := []
  pend : List Nat := []
deriving DecidableEq, Repr

end Sys2Proof.Machine
end

