-- ==== Sys2Proof/Machine/State.lean ====
section
/-!
DEFINITION. The machine: every piece of state the spec gives the module, the queue of waiting commands, the reasons a
step can stop, and the state right after module reset. Plain data only.
-/
namespace Sys2Proof.Machine

open Sys2Proof

/-- Where the module stands as a whole: reset with power absent or not good, booting or resuming (R510), running,
flushing (R261), flush done, FATAL (R483), waiting for FORMAT (R267). -/
inductive Phase where
  | off | boot | run | flush | flushed | fatal | nores
deriving DecidableEq, Repr

/-- A configuration of an instance in force (R420): the staged registers as CREATE or APPLY took them. -/
structure Inst where
  procs : BitVec 64 := 0
  wbase : Nat := 0
  wcount : Nat := 0
  hen   : Bool := false
  hbase : Nat := 0
  hlim  : Nat := 0
  rfirst : Nat := 0
  rcount : Nat := 0
  qfirst : Nat := 0
  qcount : Nat := 0
  lgbase : Nat := 0
  lgcount : Nat := 0
  clu   : BitVec 8 := 0
  sysr  : Bool := false
  mbcfg : BitVec 18 := 0
  bootd : Word := 0
  bootip : Word := 0
deriving DecidableEq, Repr

/-- What leaves the module for an agent outside it (the model's own list, newest first): a back-invalidation, a
CXL.mem or CXL.io answer, a write to host memory, an MSI-X message, an instance image, a flit, a value: 1 a queue read, 2 the
host's commit of the HDM decoder taken or not, 3 GPF, 4 a management read, 5 a progress code of a flush, 6 viral, 0x21 a read of
IACK; a trace frame. -/
inductive Out where
  | bisnp (h : Nat) (kind : Nat)
  | memAnswer (h : Nat) (kind : Nat) (data : List Byte) (pois : Bool)
  | hostWrite (addr : Nat) (data : List Byte)
  | hostRead (addr : Nat) (len : Nat)
  | msix (fn : BitVec 6) (vec : BitVec 11)
  | flit (l : BitVec 3) (bytes : List Byte)
  | image (kind : Nat) (node : BitVec 14) (addr : Nat) (data : List Byte)
  | value (kind : Nat) (v : Nat)
  | trace (bytes : List Byte)
deriving DecidableEq, Repr

/-- The machine-state section of a flush (R262): processors, clusters' jobs, the registers of R155, R198 and R499, queues
(R358), captures with the ticks at the stop (R488), Pewter's queue and
buckets, the instances that are contained (R480). -/
structure Saved where
  tick  : Nat
  tb    : Word
  procs : Sp Proc
  clus  : Sp Clu
  dev   : Sp Word
  qs    : Sp Queue
  fe    : Sp Fe
  pewq  : List PRec
  buckets : Sp Bucket
  icont : BitVec 64
deriving DecidableEq, Repr

/-- What stands in Tungsten and in Electrum's books when a resume begins: a power loss before the release leaves it as if that resume
had never begun (R22). -/
structure Kept where
  tun   : Tun
  dev   : Sp Word
  led   : Sp LEnt
  accs  : Nat
  rps   : Sp RP
  insts : Sp Inst
  kslots : Sp KSlot
  repts : List Rept
  icmd  : Sp Nat
  ifail : BitVec 64
  isaved : BitVec 64
  irest : BitVec 64
  icont : BitVec 64
  frzTb : Sp Word
  mirIn : Sp (List Byte)
  saved : Option Saved
  trctl : BitVec 3
deriving DecidableEq, Repr

/-- The machine. -/
structure State where
  /-- Commands waiting, first in, first out. -/
  pending : List Instr := []
  /-- The model's own counter, which free values are taken at. -/
  free  : Nat := 0
  /-- Which part this is (R1); never changes. -/
  part  : Part := .ax
  phase : Phase := .off
  /-- REFCLK_SVC ticks of powered operation since PWROK rose. -/
  ticks : Nat := 0
  /-- The time base (R107). -/
  tb    : Word := 0
  /-- Registers of device space that no other field holds, by offset; unlisted: the reset value. -/
  dev   : Sp Word := []
  procs : Sp Proc := []
  cores : Sp CoreS := []
  clus  : Sp Clu := []
  net   : List Msg := []
  /-- Requests in back-off after a Retry, at their requesters (R209). -/
  parked : List Msg := []
  /-- Forwards, invalidations and recalls delivered to members of the group and not answered yet (R221). -/
  memWait : List Msg := []
  /-- Answers to members whose completion message closes nothing here (R208): a copy of a line without an entry, a refused
  request. -/
  noCmp : List (Nat × BitVec 4) := []
  /-- Members of the group taken as lost (R221). -/
  lost  : BitVec 16 := 0
  dir   : Sp Dir := []
  stks : Sp Stack := []
  /-- The main store: bytes that differ from zero. -/
  ms    : List Host.Cell := []
  /-- Stored check bits that differ from the code of the stored data, by word index: [6:0] C, [7] A (R225). -/
  flips : Sp Byte := []
  /-- Lines whose image-dirty bit D is set, ascending (R254). -/
  dbits : List Nat := []
  peakD : Nat := 0
  bisnp : List BiSnp := []
  tun   : Tun := {}
  fe    : Sp Fe := []
  pew   : Pewter := {}
  insts : Sp Inst := []
  cxl   : Cxl := {}
  rps   : Sp RP := []
  led   : Sp LEnt := []
  /-- Descriptors accepted so far, which orders them (R355). -/
  accs  : Nat := 0
  /-- The descriptor whose abort waits for a block boundary (R345): ring pair and sequence number. -/
  abt   : Option (Nat × Nat) := none
  /-- Live counters of R365 and R366: entry writes, timers refused, dispatch promotions. -/
  acnt  : Nat := 0
  exh   : Nat := 0
  promos : Nat := 0
  /-- Flits that wait for a Mbova link (R437), the links, requests that wait at this home (R448, R452). -/
  fabq  : List Flit := []
  links : Sp Lnk := []
  inq   : List HomeQ := []
  /-- Coherence messages sent to and next expected from each node (R454), and those that came early. -/
  cseqTx : Sp Nat := []
  cseqRx : Sp Nat := []
  cheld : List FMsg := []
  /-- Forwards, invalidations and recalls of other members' homes that wait for a line to come to rest (R217). -/
  fwdIn : List Msg := []
  /-- System barriers (R455): tags that an arrival waits for, and the arrivals counted here as root: node and GEN. -/
  sbWait : Sp (List (BitVec 16)) := []
  sbArr : Sp (List (BitVec 14 × BitVec 16)) := []
  /-- Fabric time-outs so far (R463); that the module is leaving (R458) and how many requests timed out meanwhile. -/
  ftos  : Nat := 0
  leaving : Option Nat := none
  mirw  : List MirW := []
  mirTag : BitVec 16 := 0
  /-- Mirror writes received from a partner, by logical address (R348). -/
  mirIn : Sp (List Byte) := []
  qs    : Sp Queue := []
  /-- Commits so far, which orders them (R355). -/
  commits : Nat := 0
  eng   : Sp Engine := []
  /-- The shared control store: words that differ from the empty word (R383). -/
  ushare : Sp (BitVec 144) := []
  /-- Remote requests of this module that are not answered (R447), and the tag of the next. -/
  rops  : List ROp := []
  rtag  : BitVec 16 := 0
  kslots : Sp KSlot := []
  kbuf  : Sp Word := []
  kcmd  : Option KCmd := none
  cobs  : List CobOp := []
  zns   : List ZnOp := []
  /-- Port operations issued so far (R378). -/
  ports : Nat := 0
  /-- Live counters of R415 and R416. -/
  cobBytes : Nat := 0
  authF : Nat := 0
  znIn  : Nat := 0
  znOut : Nat := 0
  znErr : Nat := 0
  images : List Image := []
  /-- An image command under way (R386): INSTALL or LOADIMG, and the image's address; a boot program's copy under way: its address
  and lines (R512). -/
  imgW  : Option (Bool × Nat) := none
  bpW   : Option (Nat × Nat) := none
  /-- Reports to the manager in order, not posted yet (R425). -/
  repts : List Rept := []
  /-- When the report write that awaits GO left (R425), and that its lateness is recorded (R433). -/
  rptW  : Option Nat := none
  rptLate : Bool := false
  /-- Commands of instances under way (R420): OP by instance, plus 32 times what the target of a SAVE answered; 0x15 is a FREEZE
  whose programs have ended. -/
  icmd  : Sp Nat := []
  rests : Sp RestW := []
  /-- Instances whose last command failed (R420), that were saved since they froze (R422), that a RESTORE made
  (R431), that are contained (R480). -/
  ifail : BitVec 64 := 0
  isaved : BitVec 64 := 0
  irest : BitVec 64 := 0
  icont : BitVec 64 := 0
  /-- The time base at an instance's freeze (R429). -/
  frzTb : Sp Word := []
  /-- Snapshots whose capture was requested and has not been made (R502). -/
  snaps : List SnapBlk := []
  /-- What the flush area and the configuration region hold besides (R262, R513). -/
  saved : Option Saved := none
  kept  : Option Kept := none
  bcfg  : List BootCfg := []
  bprog : Option BootProg := none
  brs   : Brass := {}
  mgmt  : Mgmt := {}
  /-- VAUX is present; the cycle of STRAP_SEL (R525); what the board and the silicon brought to PWROK's rise. -/
  vaux  : Bool := true
  sel   : Nat := 0
  boot  : Option Boot := none
  /-- Live counters of CLK_XSTAT (R518): re-arms, references lost. -/
  rearms : Nat := 0
  refLost : Nat := 0
  outbox : List Out := []
deriving DecidableEq, Repr

/-- Why the machine stops with a fault. -/
inductive Fault where
  /-- Raised by a home's step on a line at or beyond the main store's span, which never reaches a controller (R224).
  Safe: the machine stops where the hardware has no such step. -/
  | beyondMainStore
deriving DecidableEq, Repr

/-- Why a command is refused. -/
inductive Refusal where
  /-- Raised by an arm of exec whose command has no meaning yet. Safe: the machine stops. -/
  | notModelled (mnemonic : String)
deriving DecidableEq, Repr

/-- The machine right after module reset. -/
def State.reset : State := {}

end Sys2Proof.Machine
end

