-- ==== Sys2Proof/Machine/Ops.lean ====
section
/-!
DEFINITION. The named operations over processors, registers, interrupt lines, fault captures and the Pewter queue that
the meanings share.
-/
namespace Sys2Proof.Machine

open Sys2Proof

/-- The code segment of R511 over a window of `size` bytes at `base`: space 0, R, W, X and PRESENT set, USR and P clear, index 0. -/
def entrySeg (base size : Nat) : Seg := { w0 := BitVec.ofNat 48 base, w1 := BitVec.ofNat 48 (size - 1), w2 := 0x2E0000 }

/-- A processor at module reset (R23, R172): reset-stopped, its back-off register seeded by its number, S15 over the whole main store,
instance 0's window at module reset (R511, R419 a). -/
def procInit (pt : Part) (p : Nat) : Proc := { lfsr := 0xACE1 ^^^ BitVec.ofNat 16 (p * 0x0101), segs := [(15, entrySeg 0 pt.msBytes)] }

/-- Processor p. -/
def State.proc (s : State) (p : BitVec 6) : Proc := spGetD (procInit s.part p.toNat) s.procs p.toNat

/-- Replace processor p. -/
def State.setProc (s : State) (p : BitVec 6) (q : Proc) : State := { s with procs := spIns s.procs p.toNat q }

/-- Change processor p. -/
def State.modProc (s : State) (p : BitVec 6) (f : Proc → Proc) : State := s.setProc p (f (s.proc p))

/-- Core n. -/
def State.core (s : State) (n : Nat) : CoreS := spGetD {} s.cores n

/-- Change core n. -/
def State.modCore (s : State) (n : Nat) (f : CoreS → CoreS) : State := { s with cores := spIns s.cores n (f (s.core n)) }

/-- Cluster k. -/
def State.clu (s : State) (k : Nat) : Clu := spGetD {} s.clus k

/-- Change cluster k. -/
def State.modClu (s : State) (k : Nat) (f : Clu → Clu) : State := { s with clus := spIns s.clus k (f (s.clu k)) }

/-- Stack st's controller. -/
def State.stack (s : State) (st : Nat) : Stack := spGetD {} s.stks st

/-- Change stack st's controller. -/
def State.modStack (s : State) (st : Nat) (f : Stack → Stack) : State :=
  { s with stks := spIns s.stks st (f (s.stack st)) }

/-- Take the next value of the model's own counter. -/
def State.tick1 (s : State) : State := { s with free := s.free + 1 }

/-- Append to what leaves the module. -/
def State.out (s : State) (o : Out) : State := { s with outbox := o :: s.outbox }

/-- The cluster of a processor number (R32). -/
def cluOf (p : BitVec 6) : Nat := p.toNat / 8

/-- The slot of a processor number (R138). -/
def slotOf (p : BitVec 6) : Nat := p.toNat % 8

/-- Is the capture of R475 at this offset of its block? Its registers stand in `fe`. -/
def feOff (l : Loc) : Option (Nat × Nat) :=
  let at0 (base o lo : Nat) : Option (Nat × Nat) := if lo ≤ o ∧ o < lo + 0x40 then some (base + lo, o - lo) else none
  match l with
  | .clu k o => at0 (aClu k 0) o 0x500
  | .cc k o => at0 (aCc k 0) o 0x100
  | .ms o => if 0x1000 ≤ o ∧ o < 0x9000 then at0 (aMs (o - (o - 0x1000) % 0x1000)) ((o - 0x1000) % 0x1000) 0x100 else none
  | .tun o => at0 (aTun 0) o 0x100
  | .cxl o => at0 (aCxl 0) o 0x100
  | .chan e o => at0 (aChan e 0) o 0x100
  | .elc o => at0 (aElc 0) o 0x100
  | .cob o => at0 (aCob 0) o 0x100
  | .zn o => at0 (aZn 0) o 0x100
  | .mbv k o => at0 (aMbv k 0) o 0x100
  | .mbg o => at0 (aMbg 0) o 0x100
  | .brs o => at0 (aBrs 0) o 0x100
  | .pew o => at0 (aPew 0) o 0x100
  | _ => none

/-- The capture's base offset of a block (R475). -/
def feBase : Blk → Nat
  | .clu k => aClu k.toNat 0x500
  | .cc k => aCc k.toNat 0x100
  | .ms s => aStk s.toNat 0x100
  | .tun => aTun 0x100
  | .cxl => aCxl 0x100
  | .chan e => aChan e.toNat 0x100
  | .elc => aElc 0x100
  | .cob => aCob 0x100
  | .zn => aZn 0x100
  | .mbv l => aMbv l.toNat 0x100
  | .mbg => aMbg 0x100
  | .brs => aBrs 0x100
  | .pew => aPew 0x100

/-- Control register c of a processor (R30). -/
def Proc.crGet (q : Proc) (c : Nat) : Word := spGetD (match crReg c with | some d => d.reset | none => 0) q.cr c

/-- Set control register c. -/
def Proc.crSet (q : Proc) (c : Nat) (v : Word) : Proc :=
  { q with cr := spPut (match crReg c with | some d => d.reset | none => 0) q.cr c v }

/-- Segment register n (R23): not present where nothing was loaded. -/
def Proc.seg (q : Proc) (n : Nat) : Seg := spGetD {} q.segs n

/-- Set segment register n. -/
def Proc.setSeg (q : Proc) (n : Nat) (d : Seg) : Proc := { q with segs := spPut {} q.segs n d }

/-- PRESENT of a segment register (R45). -/
def Seg.present (d : Seg) : Bool := d.w2.getLsbD 21

/-- SPACE of a segment register (R45). -/
def Seg.space (d : Seg) : BitVec 3 := d.w2.extractLsb' 0 3

/-- NODE of a segment register (R45). -/
def Seg.node (d : Seg) : BitVec 14 := d.w2.extractLsb' 3 14

/-- XSTAT.ACT of a processor (R132). -/
def Proc.act (q : Proc) : Bool := (q.crGet 25).getLsbD 0

/-- PSW bits (R26). -/
def Proc.user (q : Proc) : Bool := q.psw.getLsbD 0
def Proc.ie (q : Proc) : Bool := q.psw.getLsbD 1
def Proc.ss (q : Proc) : Bool := q.psw.getLsbD 2
def Proc.ovt (q : Proc) : Bool := q.psw.getLsbD 5
def Proc.dzt (q : Proc) : Bool := q.psw.getLsbD 6

/-- Is the processor stopped in the sense of R35? -/
def Proc.stopped (q : Proc) : Bool :=
  match q.run with
  | .resetStopped | .stopped | .contained | .halted => true
  | _ => false

/-- Read a plainly stored register: its reset value `d` until something wrote it. -/
def State.rg (s : State) (a : Nat) (d : Word := 0) : Word := spGetD d s.dev a

/-- Store a register whose reset value is `d`. -/
def State.sg (s : State) (a : Nat) (v : Word) (d : Word := 0) : State := { s with dev := spPut d s.dev a v }

/-- CLU[k]_MODE.CHECKED (R295). -/
def State.checked (s : State) (k : Nat) : Bool := (s.rg (aClu k 0x400)).getLsbD 0

/-- The reset placement of MAP (R295). -/
def mapReset : Word := 0x76543210

/-- CLU[k]_MAP. -/
def State.map (s : State) (k : Nat) : Word := s.rg (aClu k 0x408) mapReset

/-- Field s of a MAP value: a local core index, 0xF for none. -/
def mapAt (m : Word) (slot : Nat) : Nat := fld m (4 * slot + 3) (4 * slot)

/-- The physical core that hosts processor p, its leader in checked mode (R32). -/
def State.hostCore (s : State) (p : BitVec 6) : Nat := 9 * cluOf p + mapAt (s.map (cluOf p)) (slotOf p)

/-- The checker core of processor p, if it has one (R295). -/
def State.chkCore (s : State) (p : BitVec 6) : Option Nat :=
  let k := cluOf p
  if s.checked k ∧ slotOf p < 4 then
    let c := mapAt (s.map k) (slotOf p + 4)
    if c < 9 then some (9 * k + c) else none
  else none

/-- The processor whose host (leader) is core n, if any (R30). -/
def State.procOn (s : State) (n : Nat) : Option (BitVec 6) :=
  let k := n / 9
  let c := n % 9
  let slots := if s.checked k then 4 else 8
  ((List.range slots).find? fun t => mapAt (s.map k) t = c).map fun t => BitVec.ofNat 6 (8 * k + t)

/-- Is the cluster present (R2)? -/
def State.hasClu (s : State) (k : Nat) : Bool := decide (k < s.part.clusters)

/-- Does the slot have a processor: its cluster is present and, in checked mode, it is one of slots 0 to 3 (R32)? -/
def State.hasProc (s : State) (p : BitVec 6) : Bool :=
  s.hasClu (cluOf p) && (!s.checked (cluOf p) || decide (slotOf p < 4)) && decide (mapAt (s.map (cluOf p)) (slotOf p) < 9)

/-- The configuration in force of instance i (R419 note a, R420). -/
def instInit (p : Part) (i : Nat) : Inst :=
  if i = 0 then
    { procs := BitVec.ofNat 64 (2 ^ (8 * p.clusters) - 1), wcount := p.stks * 128, rcount := 1024, qcount := 512,
      lgcount := 10920, clu := BitVec.ofNat 8 (2 ^ p.clusters - 1), sysr := true }
  else {}

/-- Instance i's configuration in force. -/
def State.inst (s : State) (i : Nat) : Inst := spGetD (instInit s.part i) s.insts i

/-- Replace instance i's configuration in force. -/
def State.setInst (s : State) (i : Nat) (c : Inst) : State := { s with insts := spIns s.insts i c }

/-- The instance that owns processor p, if any (R418). -/
def State.instOfProc (s : State) (p : BitVec 6) : Option Nat :=
  (List.range 64).find? fun i => (s.inst i).procs.getLsbD p.toNat

/-- The instance whose window holds a main-store address (R475 note a). -/
def State.instOfAddr (s : State) (a : Nat) : Option Nat :=
  (List.range 64).find? fun i =>
    let c := s.inst i
    decide (c.wbase * 25165824 ≤ a ∧ a < (c.wbase + c.wcount) * 25165824)

/-- Set PEND of line j of cluster k (R138, R139): an absent cluster has no line. -/
def State.pend (s : State) (k j : Nat) : State :=
  if s.hasClu k ∧ j < 48 then
    let d := BitVec.ofNat 48 (if j < 40 then 0 else (j - 40) <<< 8)
    let a := aClu k (0x100 + 8 * j)
    s.sg a (s.rg a d ||| 0x8000) d
  else s

/-- ILINE[j] of cluster k (R138). -/
def State.iline (s : State) (k j : Nat) : Word :=
  s.rg (aClu k (0x100 + 8 * j)) (BitVec.ofNat 48 (if j < 40 then 0 else (j - 40) <<< 8))

/-- A block event on the routing register at `a`, laid out as [9:7] CLUSTER, [6] EN, [5:0] LINE (R139). -/
def State.raise (s : State) (a : Nat) : State :=
  let v := s.rg a
  if v.getLsbD 6 then s.pend (fld v 9 7) (fld v 5 0) else s

/-- A cluster block's event on its own line: [6] EN, [5:0] LINE (R182, R295). -/
def State.raiseIn (s : State) (k a : Nat) : State :=
  let v := s.rg a
  if v.getLsbD 6 then s.pend k (fld v 5 0) else s

/-- An error or event about to be recorded (R475, R489): payload items as (width, value). -/
structure Ev where
  code : Nat
  sev  : Nat
  cls  : Nat := 0
  blk  : Option Blk := none
  master : Nat := 0x603
  addr : Nat := 0
  acc  : Nat := 0
  space : Nat := 6
  inst : Option Nat := none
  pay  : List (Nat × Nat) := []
  claimed : Bool := false
  flags : Nat := 0

/-- Payload items into words 4 to 6 (R489 note a): in order from bit 0, an item that does not fit starts the next
word. -/
def packPay : List (Nat × Nat) → Nat → Nat → List Word
  | [], acc, _ => [BitVec.ofNat 48 acc]
  | (w, v) :: r, acc, used =>
    if used + w ≤ 48 then packPay r (acc + (v % 2 ^ w) * 2 ^ used) (used + w)
    else BitVec.ofNat 48 acc :: packPay r (v % 2 ^ w) w

/-- The capture at a base offset. -/
def State.feAt (s : State) (b : Nat) : Fe := spGetD {} s.fe b

/-- Replace the capture at a base offset. -/
def State.setFe (s : State) (b : Nat) (f : Fe) : State := { s with fe := spIns s.fe b f }

/-- An injection armed for a checker and unit of a block is made now (R485): its check bits to invert; ARM clears. -/
def State.injHit (s : State) (b : Blk) (chk unit : Nat) : Option (Nat × State) :=
  let f := s.feAt (feBase b)
  if f.inj.getLsbD 32 && decide (fld f.inj 27 24 = chk) && decide (fld f.inj 19 16 = unit) then
    some (fld f.inj 15 0, s.setFe (feBase b) { f with inj := setBit f.inj 32 false })
  else none

/-- The number of set bits below 16 of a number. -/
def popN (n : Nat) : Nat := ((List.range 16).filter fun i => n.testBit i).length

/-- A unit of Tungsten is written (R485): with an injection of more than 8 bits it becomes poisoned. -/
def State.tungInj (s : State) : Bool × State :=
  match s.injHit .tun 0 0 with
  | some (inv, s) => (decide (8 < popN inv), s)
  | none => (false, s)

/-- Does a captured error still want a claim (R477)? -/
def Fe.wants (f : Fe) : Bool := f.stat.getLsbD 0 && f.stat.getLsbD 5 && !f.stat.getLsbD 4

/-- The MSI-X table size of a function (R297). -/
def msixSize (fn : Nat) : Nat := if fn = 0 then 2048 else 128

/-- Signal vector `vec` of function `fn` (R303): a masked vector sets its pending bit. -/
def State.msix (s : State) (fn vec : Nat) : State :=
  let k := fn * 2048 + vec
  if s.cxl.on.contains k then s.out (.msix (BitVec.ofNat 6 fn) (BitVec.ofNat 11 vec))
  else { s with cxl := { s.cxl with pend := if s.cxl.pend.contains k then s.cxl.pend else k :: s.cxl.pend } }

/-- FLT_INT is raised (R477, R487): the cluster line, and the PF vector MVEC when MEN is 1. -/
def State.raiseFlt (s : State) : State :=
  let v := s.rg (aBrs 0x818)
  let s := s.raise (aBrs 0x818)
  if v.getLsbD 21 then s.msix 0 (fld v 20 10) else s

/-- Count i of a list of counters raised by one, saturating at 255 (FE_CNT, R475). -/
def bumpCnt (l : List Nat) (i : Nat) : List Nat :=
  let l := l ++ List.replicate (6 - l.length) 0
  listSet l i (satAdd 8 (l.getD i 0) 1)

/-- First-error capture (R475, R476): count the class, enter its fault state, take the error if the capture is free,
holds one that needs no claim while this one does, or was taken in this same tick by an error of lower class or equal
class and higher master, which then is the error not captured; otherwise OVF. -/
def State.capture (s : State) (e : Ev) : State :=
  match e.blk with
  | none => s
  | some b =>
    if e.cls = 0 then s else
    let f := s.feAt (feBase b)
    let need : Bool := e.cls = 3 || e.cls = 4
    let valid := f.stat.getLsbD 0
    let hneed := f.stat.getLsbD 5
    let same : Bool := decide (f.capTick = s.ticks) && !f.stat.getLsbD 4 && !f.stat.getLsbD 9 &&
      (decide (fld f.stat 8 6 < e.cls) || (decide (fld f.stat 8 6 = e.cls) && decide (e.master < fld f.info 27 16)))
    let f := { f with cnt := bumpCnt f.cnt (e.cls - 1), quiet := spIns f.quiet e.cls s.ticks }
    let stat := setBit f.stat (39 + e.cls) true
    if !valid || (!hneed && need) || same then
      let inst := match e.inst with
        | some i => some i
        | none => if e.space = 0 then s.instOfAddr e.addr else none
      let info : Word := BitVec.ofNat 48 (e.code * 2 ^ 28 + (e.master % 4096) * 2 ^ 16 + e.acc * 2 ^ 12 + e.space * 2 ^ 9 +
        (match inst with | some i => i * 8 + 4 | none => 0)) ||| BitVec.ofNat 48 (((e.addr >>> 48) % 16) <<< 44)
      let stat := setFld stat 9 4 (e.cls * 4 + b2n need * 2 + b2n (e.claimed && need))
      let lost : Bool := valid && decide (f.capTick = s.ticks)
      let f := { f with stat := setBit (setBit stat 0 true) 10 (stat.getLsbD 10 || lost), addr := BitVec.ofNat 48 e.addr, info := info, time := s.tb,
                        timer := if need && !e.claimed then some s.ticks else none, capTick := s.ticks, ovfs := if lost then satAdd 16 f.ovfs 1 else f.ovfs }
      let s := s.setFe (feBase b) f
      if need && !e.claimed then s.raiseFlt else s
    else
      s.setFe (feBase b) { f with stat := setBit stat 10 true, ovfs := satAdd 16 f.ovfs 1 }

/-- BURST and REFILL_MS for a code (R492): the lowest enabled override that names it, otherwise PEW_RL. -/
def State.rate (s : State) (code : Nat) : Nat × Nat :=
  match (List.range 16).find? fun k =>
      let v := s.rg (aPew (0x200 + 8 * k))
      v.getLsbD 41 && decide (fld v 15 0 = code) with
  | some k => let v := s.rg (aPew (0x200 + 8 * k)); (fld v 40 33, fld v 32 17)
  | none => let v := s.rg (aPew 0) 0x803E8; (fld v 23 16, fld v 15 0)

/-- The record an event becomes, with the operating time and power cycle of its moment (R489, R490). -/
def State.mkRec (s : State) (e : Ev) (supp : Nat) : PRec :=
  { seq := 0, ms := s.pew.ms, pcyc := s.pew.pcyc, code := BitVec.ofNat 16 e.code, sev := BitVec.ofNat 2 e.sev,
    cls := BitVec.ofNat 3 e.cls, supp := min supp 0xFFFF, master := BitVec.ofNat 12 e.master,
    inst := BitVec.ofNat 6 (e.inst.getD 0), instv := e.inst.isSome,
    flags := BitVec.ofNat 5 (e.flags ||| (if supp ≥ 0xFFFF then 4 else 0)), payload := packPay e.pay 0 0 }

/-- An event reaches Pewter (R492): with a token and room in the queue it is recorded and carries the suppressed
count, otherwise it is counted as suppressed. -/
def State.pewter (s : State) (e : Ev) : State :=
  let b : Bucket := spGetD {} s.pew.buckets e.code
  if b.spent < (s.rate e.code).1 ∧ s.pew.queue.length < 256 then
    let r := s.mkRec e b.supp
    let b' := { b with spent := b.spent + 1, tick := if b.spent = 0 then s.ticks else b.tick, supp := 0, sev := 0 }
    { s with pew := { s.pew with queue := s.pew.queue ++ [r], buckets := spIns s.pew.buckets e.code b' } }
  else
    let b' := { b with supp := satAdd 16 b.supp 1, sev := BitVec.ofNat 2 (max b.sev.toNat e.sev), payload := packPay e.pay 0 0 }
    { s with pew := { s.pew with supp := satAdd 32 s.pew.supp 1, buckets := spIns s.pew.buckets e.code b' } }

/-- Record an event: into its block's capture when it carries a class, and into Pewter (R475, R489, R548). -/
def State.event (s : State) (e : Ev) : State := (s.capture e).pewter e

/-- The block that captures errors of processor p's cluster (R548). -/
def cluBlk (p : BitVec 6) : Option Blk := some (.clu (BitVec.ofNat 3 (cluOf p)))

/-- Ring pair q. -/
def State.rp (s : State) (q : Nat) : RP := spGetD {} s.rps q

/-- Change ring pair q. -/
def State.modRp (s : State) (q : Nat) (f : RP → RP) : State := { s with rps := spPut {} s.rps q (f (s.rp q)) }

/-- CXL_RP[q]_SQB and CXL_RP[q]_CQB (R304). -/
def State.sqb (s : State) (q : Nat) : Word := s.rg (aCxl (0x10000 + 16 * q))
def State.cqb (s : State) (q : Nat) : Word := s.rg (aCxl (0x10008 + 16 * q))

/-- Is ring pair q enabled (R304)? -/
def State.rpEn (s : State) (q : Nat) : Bool := (s.sqb q).getLsbD 44

/-- Slots of a ring of size register v (R304). -/
def ringSize (v : Word) : Nat := 64 * 2 ^ fld v 43 40

/-- The instance whose ring range holds q (R302). -/
def State.ringOwner (s : State) (q : Nat) : Option Nat :=
  (List.range 64).find? fun i => let c := s.inst i; decide (c.rfirst ≤ q ∧ q < c.rfirst + c.rcount)

/-- CXL_MSTAT bits (R328): 0 RUN, 1 DETACHED, 2 LINKUP, 3 HDM. -/
def State.mstat (s : State) (i : Nat) : Bool := (s.rg (aCxl 8)).getLsbD i

/-- Set a bit of CXL_MSTAT. -/
def State.setMstat (s : State) (i : Nat) (b : Bool) : State := s.sg (aCxl 8) (setBit (s.rg (aCxl 8)) i b)

/-- An event of the CXL block sets a bit of EVT and raises the line of EVINT (R327, R328). -/
def State.cxlEvt (s : State) (i : Nat) : State :=
  (s.sg (aCxl 0x18) (setBit (s.rg (aCxl 0x18)) i true)).raise (aCxl 0x20)

/-- The main-store host line of the host's own line number h, under the committed decoder (R316). -/
def State.hdmLine (s : State) (h : Nat) : Option Nat :=
  let b := s.cxl.hdm * 4194304
  if s.mstat 3 ∧ b ≤ h ∧ (h - b + 1) * 64 ≤ s.part.msBytes then some (h - b) else none

/-- The host's line number of a main-store host line. -/
def State.hostNo (s : State) (h : Nat) : Nat := s.cxl.hdm * 4194304 + h

/-- Engine e. -/
def State.engine (s : State) (e : Nat) : Engine := spGetD {} s.eng e

/-- Change engine e. -/
def State.modEng (s : State) (e : Nat) (f : Engine → Engine) : State := { s with eng := spPut {} s.eng e (f (s.engine e)) }

/-- Internal queue i. -/
def State.queue (s : State) (i : Nat) : Queue := spGetD {} s.qs i

/-- Change internal queue i. -/
def State.modQ (s : State) (i : Nat) (f : Queue → Queue) : State := { s with qs := spPut {} s.qs i (f (s.queue i)) }

/-- A report to the manager (R426). -/
def State.report (s : State) (typ inst ring seq status flags count prog tag : Nat) : State :=
  let bs : List Byte := [BitVec.ofNat 8 typ, BitVec.ofNat 8 inst] ++ natLe 2 ring ++ natLe 6 seq ++ [BitVec.ofNat 8 status, BitVec.ofNat 8 flags] ++
    natLe 4 count ++ [BitVec.ofNat 8 prog, 0, 0, 0] ++ natLe 4 tag ++ wordLe s.tb ++ List.replicate 34 0
  { s with repts := s.repts ++ [⟨bs, s.ticks⟩] }

/-- Reserved queue slots of masters that `gone` names are marked bad: they are free again (R354). -/
def State.badSlots (s : State) (gone : QResv → Bool) : State :=
  { s with qs := s.qs.map fun (i, (k : Queue)) => (i, { k with resv := k.resv.filter fun r => !gone r }) }

/-- A message waits for its Mbova link (R437). -/
def State.fab (s : State) (m : FMsg) : State :=
  let f : Flit := { m := { m with src := (s.rg (aMbg 0)).extractLsb' 0 14 } }
  { s with fabq := s.fabq ++ [f] }

/-- The node of member i of the coherence group (R219). -/
def State.memNode (s : State) (i : Nat) : BitVec 14 := (s.rg (aMs (0xC008 + 8 * i))).extractLsb' 0 14

/-- Codes of coherence requests in CRQ, in the order of R204 (DESIGN CHOICE: R454 gives no numbers). -/
def crqCode : MK → Nat
  | .rdS => 0 | .rdX => 1 | .upg => 2 | .wb _ => 3 | .evC => 4 | .rdU => 5 | .wrF => 6 | .wrP => 7 | .cln => 8 | _ => 9

/-- Codes of the other coherence messages in CRS (DESIGN CHOICE). The order to write back and keep is code 4 with 1 as its
acknowledgement count. -/
def crsCode : MK → Nat
  | .fwdS => 0 | .fwdX => 1 | .fwdU => 2 | .inv => 3 | .recall | .down => 4 | .data .none => 5 | .data .s => 6 | .data .e => 7 | .data .m => 8
  | .invAck => 9 | .cmp => 10 | .wbAck => 11 | .evAck => 12 | .retry _ => 13 | .pend => 14 | _ => 15

/-- A coherence message to a node of the group (R454), numbered by CSEQ; a request takes a tag, by which its discard is answered
(R444). -/
def State.coh (s : State) (node : BitVec 14) (rq : Bool) (code addr acks : Nat) (data : List Byte) (pois : Bool) (status : BitVec 8) : State :=
  let n := node.toNat
  let q := spGetD 0 s.cseqTx n
  let w1 : Word := BitVec.ofNat 48 (code % 16 + fld (s.rg (aMs 0xC000)) 3 0 * 16 + acks % 64 * 256 + q * 2 ^ 32)
  let ws := (List.range (data.length / 6)).map fun w => leWord ((data.drop (6 * w)).take 6)
  let m : FMsg := { typ := if rq then 8 else 9, dst := node, tag := if rq then s.rtag else 0, pois := pois, status := status,
                    words := BitVec.ofNat 48 addr :: w1 :: ws }
  ({ s with cseqTx := spPut 0 s.cseqTx n ((q + 1) % 65536), rtag := if rq then s.rtag + 1 else s.rtag }).fab m

/-- The agent on whose behalf a remote request goes (R450). -/
def RWho.agent : RWho → Nat
  | .load p _ | .store p _ | .routine p _ => p.toNat
  | .mov e _ | .port e _ => 0x100 + e.toNat
  | .ops i => 0x1000 + i

/-- May a waiting remote request leave now (R447, R450)? None does while the module leaves the fabric (R458). -/
def State.rReady (s : State) (r : ROp) : Bool :=
  !r.sent && s.leaving.isNone && !(s.rg (aMbg 0x28)).getLsbD 0 && decide ((s.rops.filter fun x => x.sent).length < 2048) &&
  !(s.rops.any fun x => x.sent && decide (x.line = r.line ∧ x.msg.dst = r.msg.dst ∧ x.who.agent = r.who.agent))

/-- Remote requests that may leave do, in order (R450). -/
def State.rPump (s : State) : State :=
  s.rops.foldl (fun s r =>
    if s.rReady r then
      ({ s with rops := s.rops.map fun (x : ROp) => if x.tag = r.tag then { x with sent := true, tick := s.ticks } else x }).fab r.msg
    else s) s

/-- Issue a remote request (R447): it takes the next tag. -/
def State.rIssue (s : State) (who : RWho) (node : BitVec 14) (typ : BitVec 6) (line : Nat) (ws : List Word) : State :=
  let m : FMsg := { typ := typ, dst := node, tag := s.rtag, words := ws }
  let r : ROp := { tag := s.rtag, who := who, msg := m, line := line, tick := s.ticks, pt := s.ticks }
  ({ s with rtag := s.rtag + 1, rops := s.rops ++ [r] }).rPump

/-- The meta word of RRD, RWR and RAT (R446). -/
def metaWord (inst master op : Nat) : Word := BitVec.ofNat 48 (inst + master * 64 + op * 2 ^ 18)

/-- Read the line that holds an address of another node (R446). -/
def State.rRead (s : State) (who : RWho) (node : BitVec 14) (a inst master : Nat) : State :=
  s.rIssue who node 1 (a / 96) [BitVec.ofNat 48 a, metaWord inst master 0]

/-- Write bytes of one line of another node (R446): (absolute address, byte) pairs. -/
def State.rWrite (s : State) (who : RWho) (node : BitVec 14) (l inst master : Nat) (bs : List Host.Cell) : State :=
  let has (o : Nat) : Bool := (spGet bs (96 * l + o)).isSome
  let mask (b : Nat) : Word := BitVec.ofNat 48 ((List.range 48).foldl (fun a i => a + b2n (has (b + i)) * 2 ^ i) 0)
  let line := (List.range 96).map fun o => spGetD 0 bs (96 * l + o)
  s.rIssue who node 2 l ([BitVec.ofNat 48 (96 * l), metaWord inst master 0, mask 0, mask 48] ++
    (List.range 16).map fun w => leWord ((line.drop (6 * w)).take 6))

/-- Stop a processor as CONTAINED (R129, R134, R480). -/
def State.stopContained (s : State) (p : BitVec 6) : State :=
  s.modProc p fun q => if q.run = .dead then q else { q with run := .contained }

end Sys2Proof.Machine
end

