-- ==== Sys2Proof/Machine/Segments.lean ====
section
/-!
DEFINITION. Segmented addressing (spec 02): the descriptor checks of R46, the access check of R51 with the instance
window, the register grants and the host-memory grant (R52), and the fetch check (R44).
-/
namespace Sys2Proof.Machine

open Sys2Proof

/-- Descriptor checks of R46 steps 5 to 7 on words 0 to 2: the exception code they raise, if any. -/
def descCheck (w0 w1 w2 : Word) : Option (BitVec 6) :=
  let sp := fld w2 2 0
  let r := w2.getLsbD 17
  let w := w2.getLsbD 18
  let x := w2.getLsbD 19
  let p := w2.getLsbD 20
  let _ := r
  if sp > 4 then some 0x04
  else if sp = 1 ∧ (w = true ∨ x = true ∨ p = true) then some 0x04
  else if (sp = 2 ∨ sp = 3 ∨ sp = 4) ∧ (x = true ∨ p = true) then some 0x04
  else if sp = 2 ∧ w0.toNat % 8 ≠ 0 then some 0x06
  else if sp ≠ 2 ∧ w0.toNat % 24 ≠ 0 then some 0x06
  else if w0.toNat + w1.toNat ≥ 2 ^ 48 then some 0x03
  else none

/-- The instance whose resources processor p uses: a free processor has none (R422). -/
def State.instOf (s : State) (p : BitVec 6) : Inst :=
  match s.instOfProc p with
  | some i => s.inst i
  | none => {}

/-- Does a main-store byte range lie in processor p's instance window (R51)? -/
def State.inWindow (s : State) (p : BitVec 6) (a size : Nat) : Bool :=
  let c := s.instOf p
  decide (c.wbase * 25165824 ≤ a ∧ a + size ≤ (c.wbase + c.wcount) * 25165824)

/-- Does a host-memory byte range lie in processor p's instance grant (R51)? -/
def State.inHostGrant (s : State) (p : BitVec 6) (a size : Nat) : Bool :=
  let c := s.instOf p
  c.hen && decide (c.hbase * 4096 ≤ a ∧ a + size ≤ c.hlim * 4096 + 4096)

/-- The device registers processor p reaches (R52, R541). -/
def State.reach (s : State) (p : BitVec 6) (a : Nat) : Bool :=
  match s.instOfProc p with
  | none => false
  | some i =>
    let c := s.inst i
    c.sysr || (match locate a with
      | .sys o => decide (0x100 ≤ o)
      | .core n _ => (match s.procOn n with
          | some q => c.procs.getLsbD q.toNat
          | none => false)
      | .vi j _ => decide (i = j)
      | .chq o => decide (0x1000 ≤ o ∧ c.qfirst ≤ (o - 0x1000) / 64 ∧ (o - 0x1000) / 64 < c.qfirst + c.qcount)
      | .clu k _ => c.clu.getLsbD k
      | .cc k _ => c.clu.getLsbD k
      | .mbg o => decide (0x400 + 64 * p.toNat ≤ o ∧ o < 0x400 + 64 * p.toNat + 0x30)
      | _ => false)

/-- A register of an instance's block (R419). -/
def State.rgVi (s : State) (i o : Nat) : Word := s.rg (aVi i o) (match viReg s.part i o with | some d => d.reset | none => 0)

/-- Set a register of an instance's block. -/
def State.sgVi (s : State) (i o : Nat) (v : Word) : State := s.sg (aVi i o) v (match viReg s.part i o with | some d => d.reset | none => 0)

/-- INST[i]_STAT.STATE (R419): 0 NONE, 1 ACTIVE, 2 FROZEN. -/
def State.instState (s : State) (i : Nat) : Nat := fld (s.rgVi i 0x88) 1 0

/-- The master ID of an agent that accesses registers (R13). -/
def viaMaster : Via → Nat
  | .proc p => p.toNat
  | .pf => 0x400
  | .vf i => 0x400 + i.toNat

/-- Does a write by an agent reach the register at an offset (R52, R300, R301, R541)? Before RUN only the host reaches
a few registers, during a flush (R261) and in FATAL (R483) nothing is written. -/
def State.viaReach (s : State) (a : Via) (off : Nat) : Bool :=
  locPresent s.part (locate off) &&
  (match s.phase with
   | .run => (match a with
      | .proc p => s.hasProc p && (s.reach p off || (match locate off with
          | .core n _ => decide (s.procOn n = some p)
          | _ => false))
      | .pf => true
      | .vf i => decide (s.instState i.toNat ≠ 0) && (match locate off with
          | .vi j _ => decide (j = i.toNat)
          | _ => false))
   | .boot | .nores => decide (a = .pf) && (decide (off < 0x2000) || decide (off = aTun 0))
   | _ => false)

/-- The kinds of access of R50 and R109. -/
inductive AccKind where
  | load | store | fetch | cmo | mrRead | mrWrite
deriving DecidableEq, Repr

/-- XCAUSE.ACCESS of an access kind (R133). -/
def AccKind.code : AccKind → BitVec 3
  | .load => 1
  | .store => 2
  | .fetch => 3
  | .cmo => 7
  | .mrRead => 5
  | .mrWrite => 6

/-- Does a segment grant an access kind its right (R50, R109)? -/
def Seg.right (d : Seg) : AccKind → Bool
  | .load | .mrRead => d.w2.getLsbD 17
  | .store | .mrWrite => d.w2.getLsbD 18
  | .fetch => d.w2.getLsbD 19
  | .cmo => d.w2.getLsbD 17 || d.w2.getLsbD 18 || d.w2.getLsbD 19

/-- An access that passed its checks: where it goes (R53). A space-4 access to the module's own node is a space-0
access (R49). -/
structure Acc where
  space : BitVec 3
  node  : BitVec 14
  addr  : Nat
  persist : Bool
deriving DecidableEq, Repr

/-- The module's own node ID (R32, R442): MBG_NODE. -/
def State.node (s : State) : BitVec 14 := (s.rg (aMbg 0)).extractLsb' 0 14

/-- The access check of R51: the first exception, or where the access goes. `align` is what R36 asks; space 2 takes
whole words at multiples of 8 and no fetch (R39), so any other shape raises alignment there. -/
def State.access (s : State) (p : BitVec 6) (kind : AccKind) (sn : BitVec 4) (off : Word) (size align : Nat)
    (xip : Word) : Except Due Acc :=
  let q := s.proc p
  let d := q.seg sn.toNat
  let due (c : BitVec 6) (wv : Bool) (pa : Nat) : Due :=
    { code := c, xip := xip, addr := off, paddr := BitVec.ofNat 48 pa, seg := sn, acc := kind.code, wv := wv }
  if !d.present then .error (due 0x05 false 0)
  else if d.space.toNat > 4 then .error (due 0x04 false 0)
  else if q.user && !d.w2.getLsbD 22 then .error (due 0x04 false 0)
  else if !d.right kind then .error (due 0x04 false 0)
  else if (if d.space = 2 ∧ kind ≠ .cmo then kind = .fetch ∨ off.toNat % 8 ≠ 0 ∨ (size ≠ 6 ∨ align ≠ 6) else off.toNat % align ≠ 0) then
    .error (due 0x06 false 0)
  else if off.toNat + size - 1 > d.w1.toNat then .error (due 0x03 false 0)
  else
    let a := d.w0.toNat + off.toNat
    let own : Bool := decide (d.space = 4) && decide (d.node = s.node)
    if (d.space = 0 ∨ own = true) ∧ !s.inWindow p a size then .error (due 0x03 true a)
    else if d.space = 2 ∧ !s.reach p a then .error (due 0x04 false 0)
    else if d.space = 3 ∧ !s.inHostGrant p a size then .error (due 0x03 true a)
    else .ok { space := if own then 0 else d.space, node := d.node, addr := a, persist := d.w2.getLsbD 20 }

/-- The offset of a format-M access (R51): G[ra] plus the displacement, modulo 2^48. -/
def effOff (base : Word) (disp : BitVec 26) : Word := base + disp.signExtend 48

/-- The line index of a physical address (R176). -/
def lineOf (a : Nat) : Nat := a / 96

/-- The table key of a cached line: the line index, lines of group member i (space 4) apart from the module's own
(R176). -/
def lineKey (member : Option Nat) (l : Nat) : Nat :=
  match member with
  | none => l
  | some i => (i + 1) * 2 ^ 44 + l

/-- The coherence-group member a node is, when the group is enabled (R220, R221). -/
def State.memberOf (s : State) (n : BitVec 14) : Option Nat :=
  let c := s.rg (aMs 0xC000)
  if c.getLsbD 4 then
    (List.range 16).find? fun i =>
      let m := s.rg (aMs (0xC008 + 8 * i))
      c.getLsbD (5 + i) && m.getLsbD 14 && decide (m.extractLsb' 0 14 = n)
  else none

/-- The cached line an access touches (R176): space 0, or space 4 within the coherence group. -/
def State.cacheLine (s : State) (a : Acc) : Option Nat :=
  if a.space = 0 then some (lineOf a.addr)
  else if a.space = 4 then (s.memberOf a.node).map fun i => lineKey (some i) (lineOf a.addr)
  else none

end Sys2Proof.Machine
end

