-- ==== Sys2Proof/Machine/MainStore.lean ====
section
/-!
DEFINITION. The main store's array (spec 09): where a line lives (R223), the stored word and its code (R225, R546),
what a read delivers (R227), writes with poison and injection (R233, R237, R242), fencing (R239), and the image-dirty
bits with the budget (R254 to R257).
-/
namespace Sys2Proof.Machine

open Sys2Proof

/-- Stack and line-in-stack of a line index (R223). -/
def homeR (p : Part) (l : Nat) : Nat × Nat :=
  let b := l % 8
  let a := l / 8
  match p with
  | .cx => if b < 6 then (b, a) else (2 * (a % 3) + (b - 6), 3 * 2 ^ 23 + a / 3)
  | _ => (b, a)

/-- The stack that is the home of a line (R223). -/
def State.homeOf (s : State) (l : Nat) : Nat := (homeR s.part l).1

/-- The line index of position r of a stack: the inverse of R223. -/
def lineAt (p : Part) (st r : Nat) : Nat :=
  match p with
  | .cx => if r < 3 * 2 ^ 23 then 8 * r + st
           else let a := 3 * (r - 3 * 2 ^ 23) + st / 2
                8 * a + 6 + st % 2
  | _ => 8 * r + st

/-- The 7-bit column of each stored bit, 0 to 55 (R546): data [47:0], C [54:48], A [55]. -/
def columns : List Nat :=
  [0x07, 0x0B, 0x0D, 0x0E, 0x13, 0x15, 0x16, 0x19, 0x1A, 0x1C, 0x23, 0x25, 0x26, 0x29] ++
  [0x2A, 0x2C, 0x31, 0x32, 0x34, 0x38, 0x43, 0x45, 0x46, 0x49, 0x4A, 0x4C, 0x51, 0x52] ++
  [0x54, 0x58, 0x61, 0x62, 0x64, 0x68, 0x70, 0x1F, 0x2F, 0x37, 0x3B, 0x3D, 0x3E, 0x4F] ++
  [0x57, 0x5B, 0x5D, 0x5E, 0x67, 0x6B, 0x01, 0x02, 0x04, 0x08, 0x10, 0x20, 0x40, 0x6D]

/-- The syndrome of the deviations of a stored word from its codeword (R546): the columns of the wrong bits, summed
modulo 2. -/
def synd (dev : BitVec 56) : BitVec 7 :=
  (columns.zipIdx.foldl (fun acc (c, i) => if dev.getLsbD i then acc ^^^ BitVec.ofNat 7 c else acc) 0)

/-- The stored bit a syndrome names, if any (R546). -/
def synBit (y : BitVec 7) : Option Nat := columns.findIdx? fun c => decide (c = y.toNat)

/-- What a read of one word delivers (R227). -/
inductive WordOut where
  | ok (w : Word)
  | corrected (w : Word) (syn : BitVec 7) (bit : Nat)
  | uncorrectable (syn : BitVec 7)
  | poison
  | mismatch
deriving DecidableEq, Repr

/-- Decode one word by R227: `w` the data as written, `flip` the deviation of its stored check bits, `err` what the
array changed on the way. A deviation of three or five C bits whose syndrome is a data bit's column is decoded by that table of
R546, although the rule's last sentence says that it never looks correctable (DEDUCED, log 71). -/
def decodeWord (w : Word) (flip : Byte) (err : BitVec 56) : WordOut :=
  let dev : BitVec 56 := err ^^^ (flip.zeroExtend 56 <<< 48)
  let y := synd dev
  if y = 0 then
    if dev.getLsbD 55 then .mismatch else .ok (w ^^^ dev.extractLsb' 0 48)
  else if y = 0x7F then .poison
  else match synBit y with
    | none => .uncorrectable y
    | some b =>
      let dev' := dev ^^^ (1#56 <<< b)
      if dev'.getLsbD 55 then .mismatch else .corrected (w ^^^ dev'.extractLsb' 0 48) y b

/-- The bytes of a line of the array, as written. -/
def State.msLine (s : State) (l : Nat) : List Byte := spBytes 0 s.ms (96 * l) 96

/-- Word w of a line's bytes. -/
def lineWord (bs : List Byte) (w : Nat) : Word := leWord ((bs.drop (6 * w)).take 6)

/-- The outcomes of the 16 words of a line (R227). -/
def State.lineOuts (s : State) (l : Nat) (err : List (BitVec 56)) : List WordOut :=
  (List.range 16).map fun w =>
    decodeWord (lineWord (s.msLine l) w) (spGetD 0 s.flips (16 * l + w)) (err.getD w 0)

/-- Is a word's outcome one that poisons the line (R226, R227)? -/
def WordOut.bad : WordOut → Bool
  | .uncorrectable _ => true
  | .poison => true
  | .mismatch => true
  | _ => false

/-- The word an outcome delivers; a poisoned one delivers the data as stored. -/
def WordOut.val (d : Word) : WordOut → Word
  | .ok w => w
  | .corrected w _ _ => w
  | _ => d

/-- Is the line's channel fenced (R239)? -/
def State.fenced (s : State) (l : Nat) : Bool :=
  let (st, r) := homeR s.part l
  (s.stack st).fenced.getLsbD (r % 8)

/-- Is the line stored poisoned, or unreadable (R226, R227, R239)? -/
def State.linePois (s : State) (l : Nat) : Bool := s.fenced l || (s.lineOuts l []).any WordOut.bad

/-- An armed injection takes a write of word w (R242): the named bits of what is being stored are inverted. -/
def State.inject (s : State) (l w : Nat) : State :=
  let st := s.homeOf l
  let c := s.rg (aStk st 0x38)
  let a := (s.rg (aStk st 0x30)).toNat
  if c.getLsbD 8 ∧ a / 6 = 16 * l + w then
    let f : Byte := c.extractLsb' 0 8
    let f := if c.getLsbD 9 then f ^^^ 0xED else f
    let s := { s with flips := spPut 0 s.flips (16 * l + w) (spGetD 0 s.flips (16 * l + w) ^^^ f) }
    s.sg (aStk st 0x38) (setBit c 8 false)
  else s

/-- Some words of a line are written as poison: the data stands, C is inverted in all seven bits (R226); an injection may take
the write (R242). -/
def State.poisonWords (s : State) (l : Nat) (ws : List Nat) : State :=
  let s := { s with flips := ws.foldl (fun m w => spIns m (16 * l + w) 0x7F) s.flips }
  ws.foldl (fun s w => s.inject l w) s

/-- Write the poison code into all 16 words (R226, R237), which POISCNT.MADE counts. A fenced channel discards the write (R239),
and a line beyond the main store's span has no controller. -/
def State.poisonLine (s : State) (l : Nat) : State :=
  if s.fenced l || decide (s.part.msLines ≤ l) then s else
  (s.poisonWords l (List.range 16)).modStack (s.homeOf l) fun k => { k with made := satAdd 24 k.made 1 }

/-- Record an address-parity mismatch on a channel, fencing it at the sixteenth within 1,000 ms (R239, R243). One access counts
once in AMM, however many words of the line mismatch, and the record of the fence carries the master whose read brought it
(DESIGN CHOICE, log 72). -/
def State.addrMismatch (s : State) (l : Nat) (master : Nat) : State :=
  let (st, r) := homeR s.part l
  let j := BitVec.ofNat 3 (r % 8)
  let blk : Option Blk := some (.ms (BitVec.ofNat 3 st))
  let s := s.modStack st fun k =>
    { k with amm := satAdd 24 k.amm 1, stamps := (j, s.ticks) :: k.stamps.filter fun (_, t) => decide (s.ticks < t + 25000000) }
  let s := s.event { code := 0x0303, sev := 3, cls := 3, blk := blk, master := master, addr := 96 * l, acc := 1, space := 0,
                     pay := [(48, 96 * l), (3, st), (3, r % 8)] }
  let k := s.stack st
  if ((k.stamps.filter fun (c, _) => c = j).length ≥ 16) && !k.fenced.getLsbD j.toNat then
    let s := s.modStack st fun k => { k with fenced := setBit k.fenced j.toNat true }
    let s := s.sg (aStk st 0) (setBit (s.rg (aStk st 0)) j.toNat true)
    s.event { code := 0x0308, sev := 3, cls := 3, blk := blk, master := master, acc := 1, space := 0, pay := [(3, st), (3, r % 8)] }
  else s

/-- LASTCE of a corrected word (R241). -/
def lastCe (w r j : Nat) (y : BitVec 7) (bit : Nat) : Word :=
  BitVec.ofNat 48 (w * 2 ^ 41 + r * 2 ^ 16 + j * 2 ^ 13 + y.toNat * 64 + bit)

/-- The corrected words of a line are written back and counted (R227 note a, R241): LASTCE keeps the last. -/
def State.correct (s : State) (l : Nat) (fixes : List (Nat × Word × BitVec 7 × Nat)) : State :=
  let (st, r) := homeR s.part l
  fixes.foldl (fun s (w, v, y, b) =>
    let s := s.modStack st fun k => { k with ce := satAdd 32 k.ce 1, last := lastCe w r (r % 8) y b }
    let s := { s with ms := spPutBytes 0 s.ms (96 * l + 6 * w) (wordLe v), flips := spDel s.flips (16 * l + w) }
    s.inject l w) s

/-- The corrected words among the outcomes of a line. -/
def fixesOf (outs : List WordOut) : List (Nat × Word × BitVec 7 × Nat) :=
  outs.zipIdx.filterMap fun (o, w) => match o with | .corrected v y b => some (w, v, y, b) | _ => none

/-- The syndromes of the uncorrectable words among the outcomes of a line. -/
def uesOf (outs : List WordOut) : List (BitVec 7) :=
  outs.filterMap fun o => match o with | .uncorrectable y => some y | _ => none

/-- Event 0x0301 or 0x0302 of one access to a line: it carries the line's address and the syndrome of the lowest word that errs
(R227 note b, R243; which word and which address is a DESIGN CHOICE, log 72). -/
def State.wordEvent (s : State) (l : Nat) (code sev cls master : Nat) (ys : List (BitVec 7)) : State :=
  match ys with
  | [] => s
  | y :: _ => s.event { code := code, sev := sev, cls := cls, blk := some (.ms (BitVec.ofNat 3 (s.homeOf l))), master := master,
                        addr := 96 * l, acc := 1, space := 0, pay := [(48, 96 * l), (7, y.toNat)] }

/-- A read of a line of the array (R227, R239): its bytes, whether it is delivered poisoned, and the state after the
corrections, the poisoning and the records that go with it. Every corrected word is written back, beside a bad one too. -/
def State.arrayRead (s : State) (l : Nat) (err : List (BitVec 56)) (master : Nat) : List Byte × Bool × State :=
  let st := s.homeOf l
  let served (s : State) : State := s.modStack st fun k => { k with served := satAdd 24 k.served 1 }
  if s.fenced l then (s.msLine l, true, served s)
  else
    let outs := s.lineOuts l err
    let old := s.msLine l
    let bytes := (outs.zipIdx.map fun (o, w) => wordLe (o.val (lineWord old w))).flatten
    let ues := uesOf outs
    let amm : Bool := outs.any fun o => o = .mismatch
    let s := (s.correct l (fixesOf outs)).wordEvent l 0x0301 0 1 master ((fixesOf outs).map fun x => x.2.2.1)
    if outs.any WordOut.bad then
      let s := if amm then (served s).addrMismatch l master else served s
      let s := (s.modStack st fun k => { k with ue := satAdd 24 k.ue ues.length }).wordEvent l 0x0302 2 3 master ues
      (bytes, true, if ues.isEmpty && !amm then s else s.poisonLine l)
    else (bytes, false, s)

/-- The words of a line that some of the bytes `bs` stand in. -/
def wordsOf (bs : List Host.Cell) : List Nat :=
  (List.range 16).filter fun w => (List.range 6).any fun i => (spGet bs (6 * w + i)).isSome

/-- Before a write that covers part of a word the line is read (R237). -/
def State.mergeRead (s : State) (l : Nat) (bs : List Host.Cell) (master : Nat) : State :=
  if (wordsOf bs).any fun w => (List.range 6).any fun i => (spGet bs (6 * w + i)).isNone then (s.arrayRead l [] master).2.2 else s

/-- Write some bytes of a line to the array (R233, R237): (offset, byte) pairs. A write that covers part of a word reads the line
first; a line that is poisoned then stays so unless all 96 bytes come unpoisoned; each whole word gets fresh check bits. A
write to a fenced channel is discarded (R239); one beyond the main store's span never reaches a controller (R224). -/
def State.arrayWrite (s : State) (l : Nat) (cells : List Host.Cell) (pois : Bool) (master : Nat := 0x603) : State :=
  if s.fenced l || decide (s.part.msLines ≤ l) then s else
  let bs := cells.filter fun (o, _) => o < 96
  let full : Bool := decide ((List.range 96).all fun o => (spGet bs o).isSome)
  let touched := wordsOf bs
  let s := s.mergeRead l bs master
  if s.fenced l then s else
  let was : Bool := (s.lineOuts l []).any fun o => o = .poison
  let s := { s with ms := bs.foldl (fun m (o, b) => spPut 0 m (96 * l + o) b) s.ms }
  if pois then s.poisonLine l
  else if was && !full then s.poisonWords l touched
  else
    let s := { s with flips := touched.foldl (fun m w => spDel m (16 * l + w)) s.flips }
    touched.foldl (fun s w => s.inject l w) s

/-- Write a whole line (R237). -/
def State.arrayLine (s : State) (l : Nat) (d : List Byte) (pois : Bool) (master : Nat := 0x603) : State :=
  s.arrayWrite l (cellsAt 0 d) pois master

/-- Insert into an ascending list without repeats. -/
def insNat : List Nat → Nat → List Nat
  | [], k => [k]
  | j :: m, k => if k < j then k :: j :: m else if k = j then j :: m else j :: insNat m k

/-- The effective budget in MiB (R247, R257): the lesser of the request and the class maximum, 48 while the hold-up
check has not passed. -/
def State.effMib (s : State) : Nat := fld (s.rg (aTun 8) budgetReset) 41 32

/-- Lines of a budget in MiB (R246). -/
def mibLines (m : Nat) : Nat := m * 1048576 / 96

/-- Is D of a line set (R254)? -/
def State.dirtyD (s : State) (l : Nat) : Bool := s.dbits.contains l

/-- A persist write asks for its line's D (R255): some state where it is granted, none where it is held. -/
def State.tryGrant (s : State) (l : Nat) : Option State :=
  if s.dirtyD l then some s
  else if s.dbits.length < mibLines s.effMib then
    some { s with dbits := insNat s.dbits l, peakD := max s.peakD (s.dbits.length + 1) }
  else none

/-- Is any persist grant held (R256)? -/
def State.stalling (s : State) : Bool := (List.range 8).any fun st => !(s.stack st).held.isEmpty

/-- The Tungsten interrupt for STATUS bit i (R273). -/
def State.tunStatus (s : State) (i : Nat) : State :=
  let s := s.sg (aTun 0x58) (setBit (s.rg (aTun 0x58)) i true)
  if (s.rg (aTun 0x50)).getLsbD (16 + i) then s.raise (aTun 0x50) else s

/-- A stall episode begins (R256): event 0x0402. -/
def State.stallBegin (s : State) : State :=
  match s.tun.stall with
  | some _ => s
  | none =>
    let s := { s with tun := { s.tun with stall := some s.ticks, epis := satAdd 16 s.tun.epis 1 } }
    let s := s.event { code := 0x0402, sev := 1, master := 0x603, pay := [(24, s.dbits.length), (24, mibLines s.effMib)] }
    s.tunStatus 0

/-- A stall episode ends once no grant is held (R256): event 0x0403 with its length. -/
def State.stallEnd (s : State) : State :=
  if s.stalling then s else
  match s.tun.stall with
  | none => s
  | some t =>
    let us := (s.ticks - t) / 25
    let s := { s with tun := { s.tun with stall := none, stallT := satAdd 32 s.tun.stallT us } }
    s.event { code := 0x0403, sev := 1, master := 0x603, pay := [(32, us)] }

/-- The home answers a persist write of a line (R255, R256): granted, or held behind what this home holds already, which begins
a stall. A request whose line has its D set is always granted; another one never passes a held request of its home (DEDUCED, log 73). -/
def State.grantOr (s : State) (l : Nat) (r : Agent) : Bool × State :=
  let st := s.homeOf (l % 2 ^ 44)
  match (if s.dirtyD l || (s.stack st).held.isEmpty then s.tryGrant l else none) with
  | some s => (true, s)
  | none =>
    if (s.stack st).held.contains (l, r) then (false, s)
    else (false, (s.modStack st fun k => { k with held := k.held ++ [(l, r)] }).stallBegin)

end Sys2Proof.Machine
end

