-- ==== Sys2Proof/Machine/Cache.lean ====
section
/-!
DEFINITION. L1 and cluster caches (spec 07): presence, replacement (R178), eviction (R177, R200), local writes, and
what a coherent agent outside the caches reads or writes at one moment.
-/
namespace Sys2Proof.Machine

open Sys2Proof

/-- CC[k]_CTL.STATE (R182): 0 disabled, 1 enabled, 2 disable pending. -/
def State.ccState (s : State) (k : Nat) : Nat := fld (s.rg (aCc k 0) 1) 1 0

/-- A line of cluster k's cache or eviction buffer. -/
def State.cline (s : State) (k l : Nat) : Option CLine := spGet (s.clu k).lines l

/-- Set a line of cluster k. -/
def State.setLine (s : State) (k l : Nat) (c : CLine) : State := s.modClu k fun q => { q with lines := spIns q.lines l c }

/-- Remove a line of cluster k; a locked way's entry keeps its tag (R191). -/
def State.dropLine (s : State) (k l : Nat) : State :=
  match s.cline k l with
  | none => s
  | some c =>
    if (s.rg (aCc k 0x10)).getLsbD c.way.toNat ∧ c.st ≠ .eb ∧ c.st ≠ .sb then
      s.setLine k l { st := .i, way := c.way, data := [] }
    else s.modClu k fun q => { q with lines := spDel q.lines l }

/-- Do the cluster's processors read this state's data (R199)? -/
def LS.readable : LS → Bool
  | .m | .o | .e | .s | .sm | .om | .ma => true
  | _ => false

/-- May the cluster write this state's line (R199)? -/
def LS.writable : LS → Bool
  | .m | .e | .ma => true
  | _ => false

/-- Is a transaction open on a line in this state (R199: the transient states)? -/
def LS.openTx : LS → Bool
  | .is | .im | .sm | .om | .ma | .eb | .sb => true
  | _ => false

/-- Invalidate the reservations on a line of every processor but `keep` (R92). -/
def State.killResv (s : State) (l : Nat) (keep : Option (BitVec 6)) : State :=
  { s with procs := s.procs.map fun (n, q) =>
      if q.resv.any (fun a => a / 96 = l) && !(keep.any fun p => p.toNat = n) then (n, { q with resv := none }) else (n, q) }

/-- Invalidate reservations on a line of the processors hosted on core n (R92: the line leaves the L1 data cache). -/
def State.killResvCore (s : State) (n l : Nat) : State :=
  match s.procOn n with
  | some p => if (s.proc p).resv.any fun a => a / 96 = l then s.modProc p fun q => { q with resv := none } else s
  | none => s

/-- Reservations of a cluster's processors on a line become invalid (R92, R190). -/
def State.killResvClu (s : State) (k l : Nat) : State :=
  { s with procs := s.procs.map fun (n, q) =>
      if n / 8 = k ∧ q.resv.any (fun a => a / 96 = l) then (n, { q with resv := none }) else (n, q) }

/-- Invalidate a line in every L1 data cache of a cluster but core `keep` (R177). -/
def State.dropL1D (s : State) (k l : Nat) (keep : Option Nat) : State :=
  (List.range 9).foldl (fun s c =>
    let n := 9 * k + c
    if keep = some n then s
    else if (spGet (s.core n).dc l).isSome then
      (s.modCore n fun q => { q with dc := spDel q.dc l }).killResvCore n l
    else s) s

/-- Invalidate a line in every L1 instruction cache of a cluster (R177). -/
def State.dropL1I (s : State) (k l : Nat) : State :=
  (List.range 9).foldl (fun s c => s.modCore (9 * k + c) fun q => { q with ic := spDel q.ic l }) s

/-- The first eligible way at or above a start, wrapping (R178 step 2). -/
def firstFrom (n start : Nat) (ok : Nat → Bool) : Option Nat :=
  ((List.range n).map fun i => (start + i) % n).find? ok

/-- The way an L1 cache fills (R178): the set as (line, way) pairs, which lines have an open transaction, the shift register.
Answers the way, the line that leaves it and the register; nothing while no way is eligible. -/
def l1Pick (busy : Nat → Bool) (set : List (Nat × BitVec 3)) (r : BitVec 16) : Option (BitVec 3 × Option Nat × BitVec 16) :=
  match (List.range 8).find? fun w => !(set.any fun (_, x) => x.toNat = w) with
  | some w => some (BitVec.ofNat 3 w, none, r)
  | none =>
    let r := lfsrStep r
    (firstFrom 8 (r.toNat % 8) fun w => set.any fun (j, x) => x.toNat = w && !busy j).bind fun w =>
      (set.find? fun (_, x) => x.toNat = w).map fun (j, _) => (BitVec.ofNat 3 w, some j, r)

/-- Is a transaction open on a line in cluster k (R178)? -/
def State.lineBusy (s : State) (k l : Nat) : Bool := (s.cline k l).any fun c => c.st.openTx

/-- May the L1 data cache of core n allocate at all (R187, R189)? -/
def State.l1dOn (s : State) (n : Nat) : Bool :=
  (match s.procOn n with
    | some p => fld ((s.proc p).crGet 96) 3 2 = 1
    | none => true) && decide (s.ccState (n / 9) = 1)

/-- May the L1 instruction cache of core n allocate at all (R188, R189)? -/
def State.l1iOn (s : State) (n : Nat) : Bool :=
  (match s.procOn n with
    | some p => fld ((s.proc p).crGet 96) 1 0 = 1
    | none => true) && decide (s.ccState (n / 9) = 1)

/-- The way a line takes in core n's L1 data cache. -/
def State.l1dWay (s : State) (n l : Nat) : Option (BitVec 3 × Option Nat × BitVec 16) :=
  l1Pick (s.lineBusy (n / 9)) (((s.core n).dc.filter fun (j, _) => j % 64 = l % 64).map fun (j, x) => (j, x.way)) (s.core n).dlfsr

/-- The way a line takes in core n's L1 instruction cache. -/
def State.l1iWay (s : State) (n l : Nat) : Option (BitVec 3 × Option Nat × BitVec 16) :=
  l1Pick (s.lineBusy (n / 9)) ((s.core n).ic.filter fun (j, _) => j % 64 = l % 64) (s.core n).ilfsr

/-- Has a fill of core n's L1 data cache to wait until some way becomes eligible (R178 step 3)? -/
def State.l1dWait (s : State) (n l : Nat) : Bool := s.l1dOn n && (spGet (s.core n).dc l).isNone && (s.l1dWay n l).isNone

/-- The same for the L1 instruction cache. -/
def State.l1iWait (s : State) (n l : Nat) : Bool := s.l1iOn n && (spGet (s.core n).ic l).isNone && (s.l1iWay n l).isNone

/-- The checks of core n's L1 data cache on line l when the line is read for any purpose (R194, R485): with an injection into it,
or into its checker's, a clean line is read again from the cluster cache, a dirty one is copied from the partner, or goes on
poisoned and the processor stops. Reservations held on a line that leaves fall (R92). -/
def State.l1dCheck (s : State) (n l : Nat) : State :=
  let k := n / 9
  let b : Blk := .clu (BitVec.ofNat 3 k)
  match spGet (s.core n).dc l with
  | none => s
  | some x =>
    let p : BitVec 6 := (s.procOn n).getD (BitVec.ofNat 6 (8 * k))
    let units := n % 9 :: (match s.chkCore p with | some c => [c % 9] | none => [])
    match units.findSome? fun u => (s.injHit b 0 u).orElse fun _ => s.injHit b 1 u with
    | none => s
    | some (inv, s) =>
      if inv % 2 = 0 then s
      else
        let ev (code sev cls : Nat) : Ev := { code := code, sev := sev, cls := cls, blk := some b, master := p.toNat, addr := 96 * (l % 2 ^ 44), acc := 1, space := 0, pay := [(48, 96 * (l % 2 ^ 44))] }
        let drop (s : State) : State := (s.modCore n fun (q : CoreS) => { q with dc := spDel q.dc l }).killResvCore n l
        if x.st ≠ .m then (drop s).event (ev 0x0111 1 1)
        else if s.checked k && !((s.proc p).crGet 1).getLsbD 1 then s.event (ev 0x0112 2 2)
        else
          let s := match s.cline k l with | some c => s.setLine k l { c with pois := true } | none => s
          ((drop s).stopContained p).event (ev 0x0113 3 4)

/-- Fill a line into the L1 data cache of core n (R178, R187, R189); a dirty line that leaves is read first (R194). Nothing is
allocated while either cache's state forbids it. -/
def State.fillL1D (s : State) (n l : Nat) (st : L1S) : State :=
  match spGet (s.core n).dc l with
  | some x => s.modCore n fun q => { q with dc := spIns q.dc l { x with st := st } }
  | none =>
    if !s.l1dOn n then s else
    match s.l1dWay n l with
    | none => s
    | some (w, old, r) =>
      let s := match old with
        | some j =>
          let s := match spGet (s.core n).dc j with | some x => if x.st = L1S.m then s.l1dCheck n j else s | none => s
          (s.modCore n fun q => { q with dc := spDel q.dc j }).killResvCore n j
        | none => s
      s.modCore n fun q => { q with dc := spIns q.dc l ⟨w, st⟩, dlfsr := r }

/-- Fill a line into the L1 instruction cache of core n (R178, R188). -/
def State.fillL1I (s : State) (n l : Nat) : State :=
  if !s.l1iOn n || (spGet (s.core n).ic l).isSome then s else
  match s.l1iWay n l with
  | none => s
  | some (w, old, r) =>
    s.modCore n fun q => { q with ic := spIns (match old with | some j => spDel q.ic j | none => q.ic) l w, ilfsr := r }

/-- What R178 finds for a line in a cluster cache: a way (with the line to evict, if any), a wait, or nothing. -/
inductive Victim where
  | way (w : Nat) (old : Option Nat)
  | wait
  | none
deriving DecidableEq, Repr

/-- The entries of a line's set in cluster k's cache. -/
def State.ccSet (s : State) (k l : Nat) : List (Nat × CLine) :=
  (s.clu k).lines.filter fun (j, c) => j % 2048 = l % 2048 ∧ c.st ≠ .eb ∧ c.st ≠ .sb

/-- The way for a line in cluster k (R178), with the shift register where the choice advances it. A locked entry that keeps the
line's tag is used again (R191); a set under a tag search allocates nothing (R196). -/
def State.victim (s : State) (k l : Nat) (preload : Bool) : Victim × Option (BitVec 16) :=
  let off := fld (s.rg (aCc k 0x18)) 31 16
  let lock := fld (s.rg (aCc k 0x10)) 15 0
  let pal := fld (s.rg (aCc k 0x08) 0xFFFF) 15 0
  let set := s.ccSet k l
  let inWay (w : Nat) : Option (Nat × CLine) := set.find? fun (_, c) => c.way.toNat = w
  let allowed (w : Nat) : Bool := !off.testBit w && (if preload then pal.testBit w else !lock.testBit w)
  let isFree (w : Nat) : Bool := match inWay w with
    | Option.none => true
    | some (_, c) => c.st = .i
  let elig (w : Nat) : Bool := allowed w && (match inWay w with
    | Option.none => true
    | some (_, c) => !c.st.openTx)
  if (s.clu k).search.any fun (x, _) => decide (x.toNat = l % 2048) then (.wait, none)
  else match (match s.cline k l with | some c => if c.st = LS.i then some c.way.toNat else Option.none | Option.none => Option.none) with
  | some w => (.way w Option.none, none)
  | Option.none =>
    match (List.range 16).find? fun w => elig w && isFree w with
    | some w => (.way w ((inWay w).map fun x => x.1), none)
    | Option.none =>
      if (List.range 16).any elig then
        let r := lfsrStep ((s.rg (aCc k 0x48) 0xACE1).extractLsb' 0 16)
        match firstFrom 16 (r.toNat % 16) elig with
        | some w => (.way w ((inWay w).map fun x => x.1), some r)
        | Option.none => (.wait, none)
      else if (List.range 16).any allowed then (.wait, none)
      else (.none, none)

/-- CC[k]_LFSR takes the value of a choice that advanced it. -/
def State.ccLfsr (s : State) (k : Nat) (r : Option (BitVec 16)) : State :=
  match r with
  | some r => s.sg (aCc k 0x48) (r.zeroExtend 48) 0xACE1
  | none => s

/-- Send a coherence message. -/
def State.send (s : State) (m : Msg) : State := { s with net := s.net ++ [m] }

/-- A cluster as an agent. -/
def cluAg (k : Nat) : Agent := .cluster (BitVec.ofNat 3 k)

/-- The home of a line key: the stack of a local line, the Mbova block (numbered 8) for a member's line (R217). -/
def State.homeNode (s : State) (l : Nat) : Node :=
  if l < 2 ^ 44 then .home (BitVec.ofNat 4 (s.homeOf l)) else .home 8

/-- The line the module has for a line of a home, at this moment, other than in cluster k: another owner's copy, else the array
(R194's read from the home). -/
def State.freshLine (s : State) (k l : Nat) (c : CLine) : List Byte × Bool × State :=
  match (List.range 8).find? fun j => decide (j ≠ k) && ((s.cline j l).any fun x => decide (x.st = .m ∨ x.st = .o ∨ x.st = .e)) with
  | some j => (match s.cline j l with | some x => (x.data, x.pois, s) | none => (c.data, c.pois, s))
  | none => if l < 2 ^ 44 then s.arrayRead l [] (8 * k) else (c.data, c.pois, s)

/-- A lookup in a set of cluster k reads its tags (R196): one whose parity fails starts the search. -/
def State.ccTag (s : State) (k l : Nat) : State :=
  if (s.clu k).search.isSome then s
  else match (s.ccSet k l).find? fun (_, c) => c.tagBad with
    | some (_, c) => s.modClu k fun (q : Clu) => { q with search := some (BitVec.ofNat 11 l, c.way) }
    | none => s

/-- Is the line's entry the one under a tag search, which gives neither address nor state (R196)? -/
def State.hidden (s : State) (k l : Nat) : Bool :=
  (s.clu k).search.any fun (x, w) => decide (x.toNat = l % 2048) && ((s.cline k l).any fun c => decide (c.way = w ∧ c.st ≠ .eb ∧ c.st ≠ .sb))

/-- The data of a line of cluster k is read for some purpose (R194): one inverted check bit is corrected; more poison a dirty
line, and a clean one is invalidated with its L1 copies and fetched again from its home. -/
def State.ccRead (s : State) (k l : Nat) : State :=
  match s.cline k l with
  | none => s
  | some c =>
    if c.flip = 0 then s else
    let b : Blk := .cc (BitVec.ofNat 3 k)
    let ev (code sev cls : Nat) : Ev := { code := code, sev := sev, cls := cls, blk := some b, master := 8 * k, addr := 96 * (l % 2 ^ 44), space := 0, pay := [(48, 96 * (l % 2 ^ 44))] }
    if c.flip = 1 then (s.setLine k l { c with flip := 0 }).event (ev 0x0201 0 1)
    else if c.st = .s ∨ c.st = .e ∨ c.st = .sm then
      let (d, z, s) := ((s.dropL1D k l none).dropL1I k l).freshLine k l c
      (s.setLine k l { c with data := d, pois := z, flip := 0 }).event (ev 0x0202 1 1)
    else (s.setLine k l { c with pois := true, flip := 0 }).event (ev 0x0203 2 3)

/-- A line of cluster k is read for an eviction, a coherence request, a job or a flush (R194): the copies of the L1 data caches
first, then the cluster's. -/
def State.checkLine (s : State) (k l : Nat) : State :=
  ((List.range 9).foldl (fun s c => s.l1dCheck (9 * k + c) l) s).ccRead k l

/-- Lines of a cluster's eviction buffer (R200). -/
def Clu.evbCount (q : Clu) : Nat := (q.lines.filter fun (_, c) => c.st = .eb).length

/-- Does a line take an entry of the eviction buffer when it is evicted (R200)? -/
def LS.buffered : LS → Bool
  | .m | .o | .e => true
  | _ => false

/-- Evict a stable line of cluster k (R177, R190, R200): L1 copies and reservations go, dirty lines leave with WB, clean ones
with EvC. -/
def State.evict (s : State) (k l : Nat) : State :=
  let s := s.checkLine k l
  match s.cline k l with
  | none => s
  | some c =>
    let s := ((s.dropL1D k l none).dropL1I k l).killResvClu k l
    let home := s.homeNode l
    let src := Node.ag (cluAg k)
    match c.st with
    | .m | .o =>
      (s.setLine k l { c with st := .eb, pg := false }).send
        { src := src, dst := home, kind := .wb 3, line := l, req := cluAg k, data := c.data, pois := c.pois }
    | .e =>
      (s.setLine k l { c with st := .eb, pg := false }).send { src := src, dst := home, kind := .evC, line := l, req := cluAg k }
    | .s =>
      (s.setLine k l { c with st := .sb, pg := false, data := [] }).send
        { src := src, dst := home, kind := .evC, line := l, req := cluAg k }
    | .i => s.modClu k fun q => { q with lines := spDel q.lines l }
    | _ => s

/-- What a cluster does about a line it wants: nothing more is needed, a request is out, or no way can hold it. -/
inductive Want where
  | ready | waiting | uncached
deriving DecidableEq, Repr

/-- Cluster k wants a line, to read or to own it, for the master `m` (R204, R205): a miss takes a way and sends RdS or RdX, a
shared or owned copy that is to be written sends Upg. A victim that needs an entry of the full eviction buffer waits (R200). -/
def State.wantLine (s : State) (k l : Nat) (own preload : Bool) (m : Nat) : Want × State :=
  let s := s.ccTag k l
  let ask (s : State) (kind : MK) : Want × State :=
    (.waiting, s.send { src := .ag (cluAg k), dst := s.homeNode l, kind := kind, line := l, req := cluAg k, mast := some m })
  let miss : Want × State :=
    if s.ccState k ≠ 1 then (.uncached, s) else
    match s.victim k l preload with
    | (.wait, _) => (.waiting, s)
    | (.none, _) => (.uncached, s)
    | (.way w old, r) =>
      let full : Bool := old.any fun j => ((s.cline k j).any fun c => c.st.buffered) && decide ((s.clu k).evbCount ≥ 16)
      if full then (.waiting, s)
      else
        let s := s.ccLfsr k r
        let s := match old with | some j => s.evict k j | Option.none => s
        ask (s.setLine k l { st := if own then .im else .is, way := BitVec.ofNat 4 w, data := [], tick := s.ticks })
          (if own then .rdX else .rdS)
  if s.hidden k l then (.waiting, s) else
  match s.cline k l with
  | none => miss
  | some c =>
    match c.st with
    | .m | .e | .ma => (.ready, s)
    | .s => if own then ask (s.setLine k l { c with st := .sm, tick := s.ticks }) .upg else (.ready, s)
    | .o => if own then ask (s.setLine k l { c with st := .om, tick := s.ticks }) .upg else (.ready, s)
    | .sm | .om => if own then (.waiting, s) else (.ready, s)
    | .i => miss
    | .is | .im | .eb | .sb => (.waiting, s)

/-- Check bits of a line just written to cluster k's cache (R485): an injection inverts some, which the next read finds; a whole
line brings fresh ones. -/
def State.ccWritten (s : State) (k l : Nat) (full : Bool) : State :=
  let b : Blk := .cc (BitVec.ofNat 3 k)
  match s.cline k l with
  | none => s
  | some c =>
    match s.injHit b 0 0 with
    | some (inv, s) => s.setLine k l { c with flip := popN (inv % 128) }
    | none =>
      match s.injHit b 1 0 with
      | some (inv, s) => s.setLine k l { c with tagBad := decide (inv % 2 = 1) }
      | none => if full && decide (c.flip ≠ 0) then s.setLine k l { c with flip := 0 } else s

/-- A check of core n's L1 instruction cache on a line for processor p (R485, R194): with an injection the line is invalidated,
and the fetch reads it again. -/
def State.l1iCheck (s : State) (p : BitVec 6) (n l : Nat) : State :=
  let b : Blk := .clu (BitVec.ofNat 3 (n / 9))
  let units := n % 9 :: (match s.chkCore p with | some c => [c % 9] | none => [])
  match units.findSome? fun u => s.injHit b 2 u with
  | some (inv, s) =>
    if inv % 2 = 0 then s
    else (s.modCore n fun q => { q with ic := spDel q.ic l }).event
      { code := 0x0110, sev := 1, cls := 1, blk := some b, master := p.toNat, addr := 96 * (l % 2 ^ 44),
        acc := 3, space := 0, pay := [(48, 96 * (l % 2 ^ 44))] }
  | none => s

/-- Is the L1 data cache of core n being disabled (R187)? -/
def State.l1dClosing (s : State) (n : Nat) : Bool :=
  match s.procOn n with
  | some p => fld ((s.proc p).crGet 96) 3 2 = 2
  | none => false

/-- Bytes that go through to a line's home while the caches of a cluster are being disabled (R189): into the array, or into what
the module holds of a member's line (R217). -/
def State.writeThrough (s : State) (l : Nat) (bs : List Host.Cell) (pois : Bool) : State :=
  if l < 2 ^ 44 then s.arrayWrite l bs pois
  else match spGet s.dir l with
    | some d => { s with dir := spIns s.dir l { d with rdat := d.rdat.map fun x => (overlay 0 x.1 bs, pois), rw := true } }
    | none => s

/-- Write bytes of an owned line of cluster k for a core (R156, R195, R200): E becomes M, other L1 copies of the
cluster go, other agents' reservations on the line become invalid; a poisoned line stays poisoned unless all 96 bytes
come. While a state field reads 2 the write also goes through, so that no line becomes newly dirty (R187, R189). -/
def State.cluWrite (s : State) (k l : Nat) (core : Option Nat) (p : Option (BitVec 6)) (bs : List Host.Cell) : State :=
  let s := match core with | some n => s.l1dCheck n l | none => s
  match s.cline k l with
  | none => s
  | some c =>
    let full : Bool := decide ((List.range 96).all fun o => (spGet bs o).isSome)
    let thru : Bool := decide (s.ccState k = 2)
    let c' := { c with st := if c.st = .e ∧ thru = false then .m else c.st, data := overlay 0 c.data bs, pois := c.pois && !full }
    let s := (s.setLine k l c').dropL1D k l core
    let s := match core with
      | some n => (match spGet (s.core n).dc l with
          | some x => s.modCore n fun q => { q with dc := spIns q.dc l { x with st := if (s.l1dClosing n || thru) && decide (x.st ≠ L1S.m) then L1S.e else L1S.m } }
          | none => s.fillL1D n l .m)
      | none => s
    let s := if thru then s.writeThrough l bs c'.pois else s
    (s.killResv l p).ccWritten k l full

/-- Does a message belong to an open transaction? The answers of R209 and R210 and a completed posted write's do not. -/
def MK.moves : MK → Bool
  | .pend | .retry _ | .done => false
  | _ => true

/-- Is a line at rest: no transaction open at its home, no message about it in flight, no transient copy (R208)? -/
def State.quietLine (s : State) (l : Nat) : Bool :=
  (match spGet s.dir l with
    | some d => decide (d.opens = 0) && d.txn.isNone
    | none => true) &&
  !(s.net.any fun m => m.line = l && m.kind.moves) && !(s.bisnp.any fun b => b.line = l) &&
  (List.range 8).all fun k => match s.cline k l with
    | some c => !c.st.openTx
    | none => true

/-- The cluster that owns a line, if one does. -/
def State.ownerClu (s : State) (l : Nat) : Option Nat :=
  (List.range 8).find? fun k => match s.cline k l with
    | some c => match c.st with
      | .m | .o | .e | .ma | .om => true
      | .eb => c.heir.isNone
      | _ => false
    | none => false

/-- The line's bytes as an agent outside the caches reads them at this moment (RdU, R205): the owner's copy, data
with ownership still in flight, otherwise the array. -/
def State.peekLine (s : State) (l : Nat) : List Byte × Bool :=
  match s.ownerClu l with
  | some k => match s.cline k l with
    | some c => (c.data, c.pois)
    | none => (s.msLine l, s.linePois l)
  | none =>
    match s.net.find? fun m => m.line = l ∧ (m.kind = .data .m ∨ m.kind = .data .e) ∧ m.data ≠ [] with
    | some m => (m.data, m.pois)
    | none => (s.msLine l, s.linePois l)

/-- A read of a line by an agent outside the caches, at one moment: what `peekLine` finds; a read of the array has its effects
there (R227). -/
def State.readLine (s : State) (l master : Nat) : List Byte × Bool × State :=
  match s.ownerClu l with
  | some k =>
    let s := s.checkLine k l
    (match s.cline k l with
    | some c => (c.data, c.pois, s)
    | none => s.arrayRead l [] master)
  | none =>
    match s.net.find? fun m => m.line = l ∧ (m.kind = .data .m ∨ m.kind = .data .e) ∧ m.data ≠ [] with
    | some m => (m.data, m.pois, s)
    | none => s.arrayRead l [] master

/-- `n` bytes of the main store from address a, read so line by line. -/
def State.readBytes (s : State) (a n master : Nat) : List Byte × Bool × State :=
  let ls := (List.range (((a + n + 95) / 96) - a / 96)).map (a / 96 + ·)
  let (d, z, s) := ls.foldl (fun (d, z, s) l => let (b, y, s) := State.readLine s l master; (d ++ b, z || y, s)) (([] : List Byte), false, s)
  ((d.drop (a % 96)).take n, z, s)

/-- `n` bytes of the main store from address a, as an agent outside the caches finds them: bytes and poison. -/
def State.peek (s : State) (a n : Nat) : List Byte × Bool :=
  let ls := (List.range (((a + n + 95) / 96) - a / 96)).map (a / 96 + ·)
  let parts := ls.map fun l => s.peekLine l
  let all := (parts.map fun (d, _) => d).flatten
  ((all.drop (a % 96)).take n, parts.any fun (_, p) => p)

/-- Remove every cached copy of a line (INV to all holders), at one moment. -/
def State.invAll (s : State) (l : Nat) : State :=
  let s := (List.range 8).foldl (fun s k =>
    match s.cline k l with
    | none => s
    | some _ => ((s.dropL1D k l none).dropL1I k l).dropLine k l) s
  let s := match spGet s.dir l with
    | some d => if d.h then (s.out (.bisnp (s.hostNo (3 * l / 2)) 1)).out (.bisnp (s.hostNo (3 * l / 2 + 1)) 1) else s
    | none => s
  { s with dir := spDel s.dir l }

/-- Write bytes of one line for an agent outside the caches, at one moment (WrF, WrP, R205): dirty data goes to the
array first, every copy is dropped, the bytes are merged, reservations on the line become invalid (R92). -/
def State.pokeLine (s : State) (l : Nat) (bs : List Host.Cell) (pois : Bool) (master : Nat := 0x603) : State :=
  let own := s.ownerClu l
  let s := match own with | some k => s.checkLine k l | none => s
  let (d, pz) := s.peekLine l
  let s := s.invAll l
  let s := match own with
    | some _ => s.arrayLine l d pz master
    | none => s
  (s.arrayWrite l bs pois master).killResv l none

/-- A persist write by an agent outside the caches is granted within its own transaction (R255): none while held. -/
def State.grantRange (s : State) (a n : Nat) : Option State :=
  (List.range (((a + n + 95) / 96) - a / 96)).foldl (fun os i => os.bind fun s => s.tryGrant (a / 96 + i)) (some s)

/-- Write bytes of the main store from address a for an agent outside the caches (R254: a persist write). -/
def State.poke (s : State) (a : Nat) (bs : List Byte) (pois : Bool) (master : Nat := 0x603) : State :=
  let cells := cellsAt a bs
  (List.range (((a + bs.length + 95) / 96) - a / 96)).foldl (fun s i =>
    let l := a / 96 + i
    s.pokeLine l ((cells.filter fun (x, _) => x / 96 = l).map fun (x, b) => (x % 96, b)) pois master) s

/-- May an agent outside the caches read the line now: at rest, and owned neither by the host nor by a member? -/
def State.readNow (s : State) (l : Nat) : Bool :=
  s.quietLine l && (match spGet s.dir l with
    | some d => (match d.owner with | .host => false | .member _ => false | _ => true)
    | none => true)

/-- May an agent outside the caches write the line now: readable, and held by neither the host nor a member? -/
def State.writeNow (s : State) (l : Nat) : Bool :=
  s.readNow l && (match spGet s.dir l with
    | some d => !d.h && decide (d.grp = 0)
    | none => true)

/-- May all lines of a byte range be read now? -/
def State.readRange (s : State) (a n : Nat) : Bool :=
  (List.range (((a + n + 95) / 96) - a / 96)).all fun i => s.readNow (a / 96 + i)

/-- May all lines of a byte range be written now? -/
def State.writeRange (s : State) (a n : Nat) : Bool :=
  (List.range (((a + n + 95) / 96) - a / 96)).all fun i => s.writeNow (a / 96 + i)

/-- CLEAN of one line in every cache of the module, at one moment (R109, R205 Cln): the owner writes back and keeps
the line E or S. True when dirty data that was read is poisoned (R186). -/
def State.cleanLine (s : State) (l : Nat) : Bool × State :=
  match s.ownerClu l with
  | none => (false, s)
  | some k =>
    let s := s.checkLine k l
    match s.cline k l with
    | none => (false, s)
    | some c =>
      match c.st with
      | .m => (c.pois, ((s.arrayLine l c.data c.pois).setLine k l { c with st := .e }))
      | .o =>
        let s := s.arrayLine l c.data c.pois
        let s := s.setLine k l { c with st := .s }
        let s := match spGet s.dir l with
          | some d => { s with dir := spIns s.dir l { d with st := .s, owner := .none, shr := setBit d.shr k true } }
          | none => s
        (c.pois, s)
      | _ => (false, s)

/-- CLINV of one line at one moment (R109, R205 ClInv). -/
def State.clinvLine (s : State) (l : Nat) : Bool × State :=
  let (p, s) := s.cleanLine l
  (p, s.invAll l)

end Sys2Proof.Machine
end

