-- ==== Sys2Proof/Machine/Coherence.lean ====
section
/-!
DEFINITION. The coherence protocol (spec 08): what a home does with each request (R205), the transactions it completes
itself, back-invalidation, the directory's replacement and Retry (R209), and what holders and requesters do.
-/
namespace Sys2Proof.Machine

open Sys2Proof

/-- Is an end of a message a home? -/
def Node.isHome : Node → Bool
  | .home _ => true
  | .ag _ => false

/-- Must message m arrive after an earlier x (R207): both go from one home to one agent, or from one agent to one home? -/
def Msg.after (x m : Msg) : Bool := decide (x.src = m.src ∧ x.dst = m.dst) && (x.src.isHome || x.dst.isHome)

/-- Take the first message that `ok` picks, unless an earlier one has to arrive before it (R207). -/
def takeMsg (ok : Msg → Bool) : List Msg → List Msg → Option (Msg × List Msg)
  | _, [] => none
  | seen, m :: ms =>
    if ok m && !(seen.any fun x => x.after m) then some (m, seen.reverse ++ ms)
    else takeMsg ok (m :: seen) ms

/-- The master ID of an agent's request (R13). -/
def agentMaster : Agent → Nat
  | .cluster k => k.toNat * 8
  | .host => 0x400
  | .member _ => 0x500
  | .unc m => m.toNat

/-- The master ID of the access behind a request (R13). -/
def Msg.master (m : Msg) : Nat := m.mast.getD (agentMaster m.req)

/-- The directory slice of a line: its stack's, or the remote-line directory of R217, numbered 8. -/
def State.sliceOf (s : State) (l : Nat) : Nat := if l < 2 ^ 44 then s.homeOf l else 8

/-- The directory entry of a line (R203): free where none is listed. -/
def State.dirOf (s : State) (l : Nat) : Dir := spGetD {} s.dir l

/-- Set a directory entry; one in state I is unlisted unless a transaction keeps it busy. -/
def State.setDir (s : State) (l : Nat) (d : Dir) : State :=
  if d.st = .free ∧ d.opens = 0 ∧ d.txn.isNone then { s with dir := spDel s.dir l } else { s with dir := spIns s.dir l d }

/-- Is an agent recorded as a sharer (R203)? -/
def Dir.shares (d : Dir) : Agent → Bool
  | .cluster k => d.shr.getLsbD k.toNat
  | .host => d.h
  | .member i => d.grp.getLsbD i.toNat
  | .unc _ => false

/-- Is an agent the recorded owner? -/
def Dir.owns (d : Dir) : Agent → Bool
  | .cluster k => decide (d.owner = .clu k)
  | .host => decide (d.owner = .host)
  | .member i => decide (d.owner = .member i)
  | .unc _ => false

/-- Record or remove a sharer. -/
def Dir.share (d : Dir) (a : Agent) (b : Bool) : Dir :=
  match a with
  | .cluster k => { d with shr := setBit d.shr k.toNat b }
  | .host => { d with h := b }
  | .member i => { d with grp := setBit d.grp i.toNat b }
  | .unc _ => d

/-- The owner field for an agent. -/
def agentOwn : Agent → Own
  | .cluster k => .clu k
  | .host => .host
  | .member i => .member i
  | .unc _ => .none

/-- The agent an owner field names. -/
def Own.agent : Own → Option Agent
  | .clu k => some (.cluster k)
  | .host => some .host
  | .member i => some (.member i)
  | _ => Option.none

/-- The clusters and members recorded as sharers, but one agent (R205). The host is taken back by BISnp (R215). -/
def Dir.sharers (d : Dir) (but : Agent) : List Agent :=
  ((List.range 8).filterMap fun k => if d.shr.getLsbD k ∧ Agent.cluster (BitVec.ofNat 3 k) ≠ but then
      some (Agent.cluster (BitVec.ofNat 3 k)) else none) ++
  ((List.range 16).filterMap fun i => if d.grp.getLsbD i ∧ Agent.member (BitVec.ofNat 4 i) ≠ but then
      some (Agent.member (BitVec.ofNat 4 i)) else none)

/-- No sharer of any kind is recorded. -/
def Dir.noSharer (d : Dir) : Bool := decide (d.shr = 0) && decide (d.grp = 0) && !d.h

/-- The data a home reads for a request: the array, or what came from a remote home (R217). -/
def State.homeData (s : State) (l : Nat) (master : Nat) : List Byte × Bool × State :=
  if l < 2 ^ 44 then s.arrayRead l [] master
  else match (s.dirOf l).rdat with
    | some (d, p) => (d, p, s)
    | none => (List.replicate 96 0, true, s)

/-- A home merges bytes of a line: into its array, or into what the module holds of a member's line (R205, R217). -/
def State.homeMerge (s : State) (l : Nat) (bs : List Host.Cell) (p : Bool) (master : Nat := 0x603) : State :=
  if l < 2 ^ 44 then s.arrayWrite l bs p master
  else
    let (old, q) := (s.dirOf l).rdat.getD (List.replicate 96 0, false)
    let full : Bool := decide ((List.range 96).all fun o => (spGet bs o).isSome)
    { s with dir := spIns s.dir l { s.dirOf l with rdat := some (overlay 0 old bs, p || (q && !full)), rw := true } }

/-- A home writes a whole line. -/
def State.homeWrite (s : State) (l : Nat) (d : List Byte) (p : Bool) : State := s.homeMerge l (cellsAt 0 d) p

/-- The module gives a member's line back to its home (R217): WB with the data where some agent of the module wrote it, otherwise
EvC. -/
def State.remoteBack (s : State) (l : Nat) (wrote : Bool) : State :=
  if l < 2 ^ 44 then s
  else
    let node := s.memNode (l / 2 ^ 44 - 1)
    let a := 96 * (l % 2 ^ 44)
    match (s.dirOf l).rdat with
    | some (d, p) => if wrote || (s.dirOf l).rw then s.coh node true 3 a 0 d p 0 else s.coh node true 4 a 0 [] false 0
    | none => s.coh node true 4 a 0 [] false 0

/-- Send Inv to a list of holders on behalf of a requester (R205). -/
def State.sendInvs (s : State) (l : Nat) (req : Agent) (own : Bool) : List Agent → State
  | [] => s
  | a :: as => (s.send { src := s.homeNode l, dst := .ag a, kind := .inv, line := l, req := req, owner := own }).sendInvs l req own as

/-- A request that the home completes itself is done (R208): a CMO's processor counts it, a posted line or a host or
member request gets its answer. -/
def State.homeDone (s : State) (m : Msg) : State :=
  match m.req with
  | .cluster _ =>
    if m.tag = 0 then s
    else if m.tag < 100 then s.modProc (BitVec.ofNat 6 (m.tag - 1)) fun q => { q with cmos := q.cmos - 1 }
    else s.send { src := s.homeNode m.line, dst := .ag m.req, kind := .done, line := m.line, req := m.req, tag := m.tag }
  | .host => s.send { src := s.homeNode m.line, dst := .ag .host, kind := .done, line := m.line, req := .host, tag := m.tag }
  | .member i => s.coh (s.memNode i.toNat) false 15 (96 * (m.line % 2 ^ 44)) 0 [] false 0
  | .unc _ => s

/-- The home answers Retry (R209): its shift register moves, the count it draws from 32 to 256 is a free value. -/
def State.sendRetry (s : State) (m : Msg) : State :=
  let st := s.sliceOf m.line
  let cyc := 32 + Config.freeNat s.free % 225
  let s := s.tick1.modStack st fun k =>
    { k with lfsr := lfsrStep k.lfsr, retries := satAdd 24 k.retries 1,
             resv := if m.sticky ∧ !(k.resv.any fun x => x.line = m.line ∧ x.req = m.req) then
                 k.resv ++ [⟨m.line, m.req, s.ticks⟩] else k.resv }
  s.send { m with src := s.homeNode m.line, dst := .ag m.req, kind := .retry cyc, orig := some m.kind }

/-- The slice's queue holds 64 waiting requests; a further one gets Retry (R205 note c). -/
def State.enqueue (s : State) (m : Msg) : State :=
  let st := s.sliceOf m.line
  if (s.stack st).queue.length < 64 then s.modStack st fun k => { k with queue := k.queue ++ [m] } else s.sendRetry m

/-- The array write of a request that the home completes itself (R205, R208): the data that came back, then the request's own
bytes; its entry becomes free, or keeps what Cln leaves. The host's own write leaves what the host itself holds recorded,
because only a back-invalidation of both host lines clears H (R215). The requester is answered. -/
def State.txnWrite (s : State) (m : Msg) (data : Option (List Byte × Bool)) (opened : Nat) : State :=
  let l := m.line
  let s : State := match data with
    | some (bs, p) => s.homeWrite l bs p
    | none => s
  let s : State :=
    match m.kind with
    | .wrF => (s.homeMerge l (cellsAt 0 m.data) m.pois m.master).killResv l none
    | .wrP => (s.homeMerge l m.bytes m.pois m.master).killResv l none
    | _ => s
  let d : Dir := s.dirOf l
  let s : State :=
    match m.kind with
    | .cln =>
      if d.st = .o then
        let d' := (match d.owner.agent with | some o => d.share o true | none => d)
        s.setDir l { d' with st := .s, owner := .none, opens := d.opens - opened, txn := none }
      else s.setDir l { d with opens := d.opens - opened, txn := none }
    | _ =>
      let keep : Bool := decide (m.req = .host) && d.h
      (if d.rem = .free then s else s.remoteBack l (data.isSome || decide (m.kind ≠ .clInv))).setDir l
        { d with st := if keep then .s else .free, owner := .none, shr := 0, grp := 0, h := keep, opens := d.opens - opened, txn := none,
                 rem := .free, rdat := none, rw := false }
  s.homeDone m

/-- What a request that drops copies needs before its array write (R205): acknowledgements and the owner's data. With nobody to
ask the write is done at once. -/
def State.startTxn (s : State) (m : Msg) (d : Dir) (recl : Bool) : State :=
  let l := m.line
  let inv := d.sharers (.unc 0)
  let t : Txn := { msg := m, acks := inv.length, tick := s.ticks }
  match d.owner.agent with
  | none =>
    if inv.isEmpty then s.txnWrite m none 0
    else (s.setDir l { d with owner := .home, opens := d.opens + 1, txn := some t }).sendInvs l m.req false inv
  | some o =>
    let kind : MK := if recl then .recall else .inv
    let s := s.setDir l { d with owner := .home, opens := d.opens + 1,
                                 txn := some { t with need := recl, acks := t.acks + (if recl then 0 else 1) } }
    (s.send { src := s.homeNode l, dst := .ag o, kind := kind, line := l, req := m.req, owner := true }).sendInvs l m.req false inv

/-- A request waits for the host to give the line back (R215), or for the remote home (R217). -/
def State.holdFor (s : State) (m : Msg) (remote : Bool) : State :=
  let d := s.dirOf m.line
  s.setDir m.line { d with txn := some { msg := m, host := !remote, remote := remote, rtag := s.rtag, tick := s.ticks } }

/-- Does the request have to take the line back from the host first (R215)? Inv, Recall and FwdX stand for an
invalidation, FwdS and FwdU need the host's data only while it owns the line. A request of the host itself never takes the line
back from the host: the bytes of the host line it asks for are current at the home (DEDUCED, log 74). -/
def Dir.hostFirst (d : Dir) (m : Msg) : Bool :=
  match m.req, m.kind with
  | .host, _ => false
  | _, .rdX | _, .upg | _, .wrF | _, .wrP | _, .clInv => d.h || decide (d.owner = .host)
  | _, .rdS | _, .rdU | _, .cln => decide (d.owner = .host)
  | _, _ => false

/-- Does the request need a directory entry (R202)? -/
def MK.needsEntry : MK → Bool
  | .rdS | .rdX | .upg => true
  | _ => false

/-- Does the module lack at the remote home what a local request needs (R217)? A write without ownership takes it first, a
CMO of a line that the module does not own acts at its home. -/
def Dir.remoteFirst (d : Dir) (m : Msg) : Bool :=
  decide (m.line ≥ 2 ^ 44) && (match m.kind with
    | .rdS => decide (d.rem = .free) || (decide (d.st = .s) && d.rdat.isNone)
    | .rdU => decide (d.rem = .free)
    | .rdX | .upg | .wrF | .wrP | .clInv => decide (d.rem ≠ .em)
    | .cln => decide (d.rem ≠ .free)
    | _ => false)

/-- A member is answered for a request that opens nothing: the completion message it sends is for nothing (R208). -/
def State.unopened (s : State) (l : Nat) (r : Agent) : State :=
  match r with
  | .member i => { s with noCmp := s.noCmp ++ [(l, i)] }
  | _ => s

/-- The request that goes to the remote home for a local one (R217): ownership for a write. -/
def remoteKind (k : MK) : MK := match k with | .wrF | .wrP => .rdX | x => x

/-- The home acts on a request by the table of R205; the line's entry is not being worked on. -/
def State.homeTable (s : State) (m : Msg) : State :=
  let l := m.line
  let d := s.dirOf l
  let r := m.req
  let home := s.homeNode l
  let reply (s : State) (g : Grant) (acks : Nat) : State :=
    let (data, p, s) := s.homeData l m.master
    s.send { src := home, dst := .ag r, kind := .data g, line := l, req := r, data := data, pois := p, acks := acks, tag := m.tag,
             op := decide (d.st ≠ .free) && decide (g = .none) }
  let rdx (s : State) : State :=
    let d' : Dir := { d with st := .em, owner := agentOwn r, shr := 0, grp := 0, h := decide (r = .host), opens := d.opens + 1 }
    match d.st with
    | .free => reply (s.setDir l d') .m 0
    | .s =>
      let inv := d.sharers r
      (reply (s.setDir l d') .m inv.length).sendInvs l r false inv
    | .em | .o =>
      let inv := d.sharers r
      match d.owner.agent with
      | some o => if o = r then (reply (s.setDir l d') .m inv.length).sendInvs l r false inv else
          ((s.setDir l d').send { src := home, dst := .ag o, kind := .fwdX, line := l, req := r, acks := inv.length }).sendInvs l r false inv
      | none => reply (s.setDir l d') .m 0
  match m.kind with
  | .rdS =>
    match d.st with
    | .free =>
      if r = .host ∨ (l ≥ 2 ^ 44 ∧ d.rem ≠ .em) then
        reply (s.setDir l { (d.share r true) with st := .s, owner := .none, opens := d.opens + 1 }) .s 0
      else reply (s.setDir l { d with st := .em, owner := agentOwn r, opens := d.opens + 1 }) .e 0
    | .s => reply (s.setDir l { (d.share r true) with opens := d.opens + 1 }) .s 0
    | .em | .o =>
      match d.owner.agent with
      | some o =>
        if o = r then reply (s.setDir l { d with opens := d.opens + 1 }) .s 0
        else (s.setDir l { (d.share r true) with st := .o, opens := d.opens + 1 }).send
          { src := home, dst := .ag o, kind := .fwdS, line := l, req := r }
      | none => reply (s.setDir l { (d.share r true) with st := .s, opens := d.opens + 1 }) .s 0
  | .rdX => rdx s
  | .upg =>
    if d.st = .s ∧ d.shares r then
      let inv := d.sharers r
      ((s.setDir l { d with st := .em, owner := agentOwn r, shr := 0, grp := 0, h := false, opens := d.opens + 1 }).send
        { src := home, dst := .ag r, kind := .data .m, line := l, req := r, acks := inv.length }).sendInvs l r false inv
    else if d.st = .o ∧ (d.shares r ∨ d.owns r) then
      let inv := d.sharers r ++ (match d.owner.agent with | some o => if o = r then [] else [o] | none => [])
      ((s.setDir l { d with st := .em, owner := agentOwn r, shr := 0, grp := 0, h := false, opens := d.opens + 1 }).send
        { src := home, dst := .ag r, kind := .data .m, line := l, req := r, acks := inv.length }).sendInvs l r false inv
    else rdx s
  | .wb ret =>
    let ack (s : State) : State :=
      match r with
      | .host => s.send { src := home, dst := .ag r, kind := .done, line := l, req := r, tag := m.tag }
      | _ => s.send { src := home, dst := .ag r, kind := .wbAck, line := l, req := r }
    if (d.st = .em ∨ d.st = .o) ∧ d.owns r then
      let s := if m.bytes.isEmpty then s.homeWrite l m.data m.pois else s.arrayWrite l m.bytes m.pois m.master
      let s := if d.st = .em then s.remoteBack l true else s
      let d := s.dirOf l
      let s :=
        if r = .host ∧ ret = 2 then s
        else if r = .host ∧ ret = 1 then s.setDir l { d with st := .s, owner := .none, h := true }
        else if d.st = .em then s.setDir l { d with st := .free, owner := .none, shr := 0, grp := 0, rem := .free, rdat := none, rw := false }
        else s.setDir l { d with st := .s, owner := .none, rem := if l < 2 ^ 44 then d.rem else .o }
      ack s
    else ack s
  | .evC =>
    let ack (s : State) : State :=
      match r with
      | .host => s.send { src := home, dst := .ag r, kind := .done, line := l, req := r, tag := m.tag }
      | _ => s.send { src := home, dst := .ag r, kind := .evAck, line := l, req := r }
    match d.st with
    | .free => ack s
    | .s =>
      let d' := if r = .host then d else d.share r false
      if d'.noSharer then ack ((s.remoteBack l (decide (d.rem = .o))).setDir l { d' with st := .free, rem := .free, rdat := none, rw := false })
      else ack (s.setDir l d')
    | .em =>
      if d.owns r then ack ((s.remoteBack l false).setDir l { d with st := .free, owner := .none, rem := .free, rdat := none, rw := false }) else ack s
    | .o =>
      if d.owns r then
        if d.noSharer then ack ((s.remoteBack l false).setDir l { d with st := .free, owner := .none, rem := .free, rdat := none, rw := false })
        else ack (s.setDir l { d with st := .s, owner := .none })
      else ack (s.setDir l (if r = .host then d else d.share r false))
  | .rdU =>
    match (if d.st = .em ∨ d.st = .o then d.owner.agent else none) with
    | some o =>
      let s := s.setDir l { d with opens := d.opens + 1 }
      if o = r then reply s .none 0
      else s.send { src := home, dst := .ag o, kind := .fwdU, line := l, req := r, tag := m.tag, op := true }
    | none => reply (if d.st = .free then s.unopened l r else s.setDir l { d with opens := d.opens + 1 }) .none 0
  | .wrF | .wrP | .clInv =>
    if r = .host ∧ d.owner = .host then ((s.homeMerge l m.bytes m.pois m.master).killResv l none).homeDone m
    else match d.st with
    | .free => s.txnWrite m none 0
    | _ => s.startTxn m d (decide (m.kind ≠ .wrF))
  | .cln =>
    match (if d.st = .em ∨ d.st = .o then d.owner.agent else none) with
    | none => s.homeDone m
    | some o =>
      (s.setDir l { d with opens := d.opens + 1, txn := some { msg := m, need := true, tick := s.ticks } }).send
        { src := home, dst := .ag o, kind := .down, line := l, req := r, owner := true }
  | _ => s

/-- Does the entry stand in a way of its set: it is not a request's that still waits for its victim (R209)? -/
def Dir.placed (d : Dir) : Bool := match d.txn with | some t => !t.vict | none => true

/-- The entries of a line's directory set (R202): same slice, same bits [18:6] of the line index. The remote-line directory
has 2,048 sets (R217); which bits name one is a DESIGN CHOICE, the lowest eleven. -/
def State.dirSet (s : State) (l : Nat) : List (Nat × Dir) :=
  s.dir.filter fun (j, d) =>
    if l < 2 ^ 44 then decide (j ≠ l ∧ j < 2 ^ 44 ∧ s.homeOf j = s.homeOf l ∧ (j / 64) % 8192 = (l / 64) % 8192) && d.placed
    else decide (j ≠ l ∧ 2 ^ 44 ≤ j ∧ j % 2048 = l % 2048) && d.placed

/-- Do two lines fall into one directory set of a slice? -/
def sameSet (a b : Nat) : Bool :=
  if a < 2 ^ 44 then decide (b < 2 ^ 44 ∧ (a / 64) % 8192 = (b / 64) % 8192) else decide (2 ^ 44 ≤ b ∧ a % 2048 = b % 2048)

/-- A line's entry takes a way of its set, if it has none. -/
def State.takeWay (s : State) (l : Nat) : State :=
  let d := s.dirOf l
  let set := s.dirSet l
  let w := ((List.range 16).find? fun w => !(set.any fun (_, e) => e.way.toNat = w)).getD 0
  { s with dir := spIns s.dir l { d with way := BitVec.ofNat 4 w } }

/-- The home acts by its table, or asks the remote home first (R217). -/
def State.homeGo (s : State) (m : Msg) : State :=
  let l := m.line
  if (s.dirOf l).remoteFirst m then
    (s.holdFor m true).coh (s.memNode (l / 2 ^ 44 - 1)) true (crqCode (remoteKind m.kind)) (96 * (l % 2 ^ 44)) 0 [] false 0
  else s.homeTable m

/-- A request whose own line waits for a victim stands at its home, so that later requests for the line wait behind it (R206). -/
def State.victWait (s : State) (m : Msg) : State :=
  s.setDir m.line { s.dirOf m.line with txn := some { msg := m, vict := true, tick := s.ticks } }

/-- The wait of `victWait` ends. -/
def State.victOver (s : State) (m : Msg) : State :=
  let d := s.dirOf m.line
  match d.txn with
  | some t => if t.vict then s.setDir m.line { d with txn := none } else s
  | none => s

/-- The victim's ClInv stands as a transaction of line j on behalf of a request. -/
def State.victFor (s : State) (j : Nat) (m : Msg) : State :=
  let e := s.dirOf j
  (s.setDir j { e with txn := e.txn.map fun t => { t with victimOf := some m } }).victWait m

/-- The home acts on a request (R205, R209): one that meets a busy home waits in the queue, one that needs an entry
takes a free way or recalls a victim line first, or gets Retry. A host write to a line that is being taken back from
the host goes first (R326). -/
def State.homeAct (s : State) (m : Msg) : State :=
  let l := m.line
  let d := s.dirOf l
  let st := s.sliceOf l
  let first : Bool := decide (m.req = .host) && (match m.kind with | .wb _ => true | _ => false) &&
    (match d.txn with | some t => t.host | none => false)
  if first then s.homeTable m
  else if d.txn.isSome then s.enqueue m
  else
    let s := s.modStack st fun k => { k with resv := k.resv.filter fun x => !(x.line = l ∧ x.req = m.req) }
    if d.hostFirst m then s.holdFor m false
    else if m.kind.needsEntry ∧ d.st = .free then
      let set := s.dirSet l
      let others := ((s.stack st).resv.filter fun x => sameSet x.line l).length
      if set.length + others < 16 ∨ d.rem ≠ .free then (s.takeWay l).homeGo m
      else
        let idle := set.filter fun (_, e) => e.opens = 0 ∧ e.txn.isNone
        if idle.length ≤ others then s.sendRetry m
        else
          let r := lfsrStep (s.stack st).lfsr
          let s := s.modStack st fun k => { k with lfsr := r, recalls := satAdd 24 k.recalls 1 }
          match (firstFrom 16 (r.toNat % 16) fun w => idle.any fun (_, e) => e.way.toNat = w).bind fun w =>
              idle.find? fun (_, e) => e.way.toNat = w with
          | none => s.sendRetry m
          | some (j, e) =>
            let vm : Msg := { src := .ag (.unc 0x603), dst := s.homeNode j, kind := .clInv, line := j, req := .unc 0x603 }
            if e.hostFirst vm then (s.setDir j { e with txn := some { msg := vm, host := true, tick := s.ticks } }).victFor j m
            else
              let s := s.startTxn vm e true
              if (s.dirOf j).txn.isSome then s.victFor j m else (s.takeWay l).homeGo m
    else s.homeGo m

/-- The waiting requests of a line act in arrival order, until one keeps the home working again (R205 note c). -/
def State.drainQueue (s : State) (l : Nat) : Nat → State
  | 0 => s
  | n + 1 =>
    let st := s.sliceOf l
    if (s.dirOf l).txn.isSome then s
    else match (s.stack st).queue.find? fun m => m.line = l with
      | none => s
      | some m =>
        ((s.modStack st fun k => { k with queue := k.queue.erase m }).homeAct m).drainQueue l n

/-- A victim line's entry is free: the request that waited for it acts (R209), and those behind it. -/
def State.victDone (s : State) (w : Option Msg) : State :=
  match w with
  | some m => (((s.victOver m).homeAct m)).drainQueue m.line 64
  | none => s

/-- A transaction that the home completes itself ends once it has all it awaits (R205, R208): the array write is done, waiting
requests act. -/
def State.finishTxn (s : State) (l : Nat) : State :=
  match (s.dirOf l).txn with
  | none => s
  | some t =>
    if t.host || t.remote || t.vict || t.need || decide (t.acks ≠ 0) then s
    else ((s.txnWrite t.msg t.data 1).victDone t.victimOf).drainQueue l 64

/-- The home takes the next request of a kind for a line from an agent. -/
def State.homeRow (s : State) (l : Nat) (r : Agent) (ok : MK → Bool) : State :=
  match takeMsg (fun m => m.line = l ∧ m.src = .ag r ∧ m.dst = s.homeNode l ∧ ok m.kind) [] s.net with
  | none => s
  | some (m, net) => ({ s with net := net }).homeAct m

/-- The line key of an entry that may be cached. -/
def State.entryLine (s : State) (e : Entry) : Option Nat :=
  match e.bytes with
  | [] => none
  | (a, _) :: _ => s.cacheLine { space := e.space, node := e.node, addr := a, persist := e.persist }

/-- The line key of a load that may hit a cache. -/
def State.loadLine (s : State) (x : Load) : Option Nat :=
  s.cacheLine { space := x.space, node := x.node, addr := x.addr, persist := false }

/-- The stores in a slot, oldest first. -/
def Slot.entries (x : Slot) : List Entry := x.ents.map fun y => y.e

/-- A cluster's slots and loads that wait for a line get an answer, which ends their time-outs (R166, R167, R210). -/
def State.answered (s : State) (k l : Nat) : State :=
  { s with procs := s.procs.map fun (n, q) =>
      if n / 8 = k then
        (n, { q with slots := q.slots.map (fun x => { x with ents := x.ents.map fun y => if s.entryLine y.e = some l then { y with ans := true } else y }),
                     loads := q.loads.map (fun x => if x.asked && decide (s.loadLine x = some l) then { x with ans := true } else x) })
      else (n, q) }

/-- Does a store of a cluster wait for the cluster's own request of this line (R201)? A line of the combining buffer, which goes to
the home by itself, does not, and so nothing behind it does. -/
def State.slotWaits (s : State) (k l : Nat) : Bool :=
  s.procs.any fun (n, q) => decide (n / 8 = k) && q.slots.any fun x =>
    match x.ents with
    | y :: _ => decide (y.st = .waiting) && !y.e.comb && decide (s.entryLine y.e = some l)
    | [] => false

/-- Give up a line to another agent (FwdX, Inv, Recall): the L1 copies and the reservations held on them go. -/
def State.giveUp (s : State) (k l : Nat) : State := (((s.dropL1D k l none).dropL1I k l).killResvClu k l).dropLine k l

/-- An owner serves a forwarded request (R205, R206, R211), for the message that brought it. -/
def State.serveFwd (s : State) (k l : Nat) (m : Msg) : State :=
  let s := s.checkLine k l
  match s.cline k l with
  | none => s
  | some c =>
    let me := Node.ag (cluAg k)
    let data (g : Grant) : Msg :=
      { src := me, dst := .ag m.req, kind := .data g, line := l, req := m.req, data := c.data, pois := c.pois, acks := m.acks, tag := m.tag, op := m.op }
    match m.kind with
    | .fwdS =>
      let s := if c.st = .m ∨ c.st = .e then s.setLine k l { c with st := .o } else s
      let s := if c.st = .eb then s else (List.range 9).foldl (fun s i => s.modCore (9 * k + i) fun q =>
        { q with dc := (match spGet q.dc l with | some x => spIns q.dc l { x with st := .s } | none => q.dc) }) s
      s.send (data .s)
    | .fwdU => s.send (data .none)
    | _ =>
      if c.st = .eb then
        match c.heir with
        | none => (s.setLine k l { c with heir := some m.req }).send (data .m)
        | some h => (s.setLine k l { c with heir := some m.req }).send { m with src := me, dst := .ag h }
      else (s.giveUp k l).send (data .m)

/-- May an owner serve a forwarded request now (R196, R199, R201)? -/
def State.canServe (s : State) (k l : Nat) : Bool :=
  !s.hidden k l &&
  match s.cline k l with
  | none => false
  | some c => match c.st with
    | .m | .o | .e => !s.slotWaits k l
    | .eb => true
    | _ => false

/-- A message for a member leaves over Mbova (R217, R218); one that wants an answer is remembered with its time (R221). -/
def State.sendMember (s : State) (m : Msg) (i : BitVec 4) : State :=
  let wants : Bool := match m.kind with | .inv | .recall | .down | .fwdS | .fwdX | .fwdU => true | _ => false
  let s := if wants then { s with memWait := s.memWait ++ [{ m with tick := s.ticks }] } else s
  s.coh (s.memNode i.toNat) false (crsCode m.kind) (96 * (m.line % 2 ^ 44)) (if m.kind = .down then 1 else m.acks) m.data m.pois 0

/-- A message of some kind reaches a line of cluster k: the one that waits longest there goes first; a new one goes ahead when none
waits and `now` allows it, and waits at the line otherwise (R201). Answers the message to serve and the state without it. -/
def State.lineTurn (s : State) (k l : Nat) (kind : MK → Bool) (now : Bool) : Option Msg × State :=
  match s.cline k l with
  | none => (none, s)
  | some c =>
    match c.fq with
    | m :: rest =>
      if kind m.kind && now then (some m, s.setLine k l { c with fq := rest })
      else match takeMsg (fun m => decide (m.line = l ∧ m.dst = .ag (cluAg k)) && kind m.kind) [] s.net with
        | some (x, net) => (none, ({ s with net := net } : State).setLine k l { c with fq := c.fq ++ [x] })
        | none => (none, s)
    | [] =>
      match takeMsg (fun m => decide (m.line = l ∧ m.dst = .ag (cluAg k)) && kind m.kind) [] s.net with
      | none => (none, s)
      | some (m, net) =>
        if now then (some m, { s with net := net })
        else (none, ({ s with net := net } : State).setLine k l { c with fq := [m] })

/-- A forwarded request of a kind reaches a cluster (R201), or leaves for a member. -/
def State.fwdRow (s : State) (l : Nat) (r : Agent) (mk : MK) : State :=
  match r with
  | .cluster kb =>
    let k := kb.toNat
    (match s.lineTurn k l (fun x => decide (x = mk)) (s.canServe k l) with
    | (some m, s) => s.serveFwd k l m
    | (none, s) => s)
  | .member i =>
    match takeMsg (fun m => m.line = l ∧ m.dst = .ag r ∧ m.kind = mk) [] s.net with
    | none => s
    | some (m, net) => ({ s with net := net }).sendMember m i
  | _ => s

/-- A cluster's own request has completed (R201, R208): it tells the home. -/
def State.cmpl (s : State) (k l : Nat) : State :=
  s.send { src := .ag (cluAg k), dst := s.homeNode l, kind := .cmp, line := l, req := cluAg k }

end Sys2Proof.Machine
end

