-- ==== Sys2Proof/Machine/Holders.lean ====
section
/-!
DEFINITION. What holders and requesters do with the messages a home or an owner sends them (spec 08): Inv, Recall,
data with a grant, acknowledgements, completion, Retry, Pending, back-invalidation.
-/
namespace Sys2Proof.Machine

open Sys2Proof

/-- Where an acknowledgement goes: to the home while it completes the requester's request itself, to the requester
otherwise (R205). -/
def State.ackTo (s : State) (l : Nat) (req : Agent) : Node :=
  match (s.dirOf l).txn with
  | some t => if t.msg.req = req then s.homeNode l else .ag req
  | none => .ag req

/-- May a cluster act on an Inv now (R201, R205)? One for the owner, of a WrF, waits while the line's own request is still being
completed or a store waits for it; a copy in SM or OM is dropped at once (note a). -/
def State.invNow (s : State) (k l : Nat) : Bool :=
  !s.hidden k l &&
  match s.cline k l with
  | none => true
  | some c => match c.st with
    | .im | .ma => false
    | .m | .o | .e => !s.slotWaits k l
    | _ => true

/-- A cluster drops its copy at an Inv (R205 note a): one in SM or OM goes to IM, one in the eviction buffer has nothing more to
give. -/
def State.invDrop (s : State) (k l : Nat) : State :=
  match s.cline k l with
  | none => s
  | some c =>
    match c.st with
    | .sm | .om => (((s.dropL1D k l none).dropL1I k l).killResvClu k l).setLine k l { c with st := .im, data := [], pg := false }
    | .eb => s.setLine k l { c with st := .sb, data := [] }
    | .m | .o | .e | .s => s.giveUp k l
    | _ => s

/-- An Inv reaches a holder (R205 with notes a and c): it drops its copy, if it has one, and acknowledges. -/
def State.invAt (s : State) (l : Nat) (r : Agent) : State :=
  let ack (s : State) (m : Msg) : State :=
    s.send { src := .ag r, dst := s.ackTo l m.req, kind := .invAck, line := l, req := m.req }
  match r with
  | .cluster kb =>
    let k := kb.toNat
    if (s.cline k l).isNone then
      match takeMsg (fun m => m.line = l ∧ m.dst = .ag r ∧ m.kind = .inv) [] s.net with
      | none => s
      | some (m, net) => ack { s with net := net } m
    else
      -- an Inv for a sharer never waits; one for the owner queues at the line
      match takeMsg (fun m => m.line = l ∧ m.dst = .ag r ∧ m.kind = .inv ∧ m.owner = false) [] s.net with
      | some (m, net) =>
        let s : State := { s with net := net }
        (match s.cline k l with
        | some c => if c.st = .im ∨ c.st = .ma then ack s m else ack (s.invDrop k l) m
        | none => ack s m)
      | none =>
        match s.lineTurn k l (fun x => decide (x = .inv)) (s.invNow k l) with
        | (some m, s) => ack (s.invDrop k l) m
        | (none, s) => s
  | _ =>
    match takeMsg (fun m => m.line = l ∧ m.dst = .ag r ∧ m.kind = .inv) [] s.net with
    | none => s
    | some (m, net) => ack { s with net := net } m

/-- The home receives the line back from its owner (Recall and the write-back of Cln, R205). -/
def State.homeBack (s : State) (l : Nat) (data : Option (List Byte × Bool)) : State :=
  let d := s.dirOf l
  match d.txn with
  | none => s
  | some t =>
    let t' := { t with need := false, data := match data with | some x => some x | none => t.data }
    (s.setDir l { d with txn := some t' }).finishTxn l

/-- The owner gives a line back to the home for a Recall, or writes it back and keeps it (R205). -/
def State.recallDo (s : State) (k l : Nat) (kind : MK) : State :=
  let s := s.checkLine k l
  match s.cline k l with
  | none => s.homeBack l none
  | some c =>
    if kind = .recall then
      match c.st with
      | .m | .o | .e => (s.giveUp k l).homeBack l (some (c.data, c.pois))
      | .eb => (s.setLine k l { c with st := .sb, data := [] }).homeBack l (some (c.data, c.pois))
      | _ => s.homeBack l none
    else
      match c.st with
      | .m => (s.setLine k l { c with st := .e }).homeBack l (some (c.data, c.pois))
      | .o => (s.setLine k l { c with st := .s }).homeBack l (some (c.data, c.pois))
      | .eb => s.homeBack l (some (c.data, c.pois))
      | _ => s.homeBack l none

/-- May the owner act on a Recall or on the order to write back now (R201)? -/
def State.recallNow (s : State) (k l : Nat) : Bool :=
  !s.hidden k l &&
  match s.cline k l with
  | some c => (match c.st with
    | .is | .im | .sm | .om | .ma => false
    | .m | .o | .e => !s.slotWaits k l
    | _ => true)
  | none => true

/-- A Recall, or the order to write back and keep, reaches the owner (R205). -/
def State.recallAt (s : State) (l : Nat) (r : Agent) : State :=
  match r with
  | .cluster kb =>
    let k := kb.toNat
    if (s.cline k l).isNone then
      match takeMsg (fun m => m.line = l ∧ m.dst = .ag r ∧ (m.kind = .recall ∨ m.kind = .down)) [] s.net with
      | none => s
      | some (_, net) => ({ s with net := net } : State).homeBack l none
    else
      match s.lineTurn k l (fun x => decide (x = .recall ∨ x = .down)) (s.recallNow k l) with
      | (some m, s) => s.recallDo k l m.kind
      | (none, s) => s
  | _ => s

/-- A message of data with a grant. -/
def MK.grants : MK → Bool
  | .data .none => false
  | .data _ => true
  | _ => false

/-- A cluster receives data with a grant (R199, R201, R205): it enters S, E, M, or MA until the acknowledgements the
grant announces have come, and completes its request outside MA. -/
def State.grantAt (s : State) (k l : Nat) : State :=
  let r := cluAg k
  match takeMsg (fun m => m.line = l ∧ m.dst = .ag r ∧ m.kind.grants = true) [] s.net with
  | none => s
  | some (m, net) =>
    match s.cline k l with
    | none => s
    | some c =>
      let s := ({ s with net := net }).answered k l
      let data := if m.data.isEmpty then c.data else m.data
      let pois := if m.data.isEmpty then c.pois else m.pois
      let pg := c.pg || (s.procs.any fun (n, q) => decide (n / 8 = k) && q.slots.any fun x =>
        x.granted && x.entries.any fun e => e.persist && decide (s.entryLine e = some l))
      let c' := { c with data := data, pois := pois, pg := pg }
      let s := (match c.st, m.kind with
      | .is, .data .s => (s.setLine k l { c' with st := .s, acks := 0 }).cmpl k l
      | .is, .data .e => (s.setLine k l { c' with st := .e, acks := 0 }).cmpl k l
      | .is, .data .m => (s.setLine k l { c' with st := .m, acks := 0 }).cmpl k l
      | .im, .data .m | .sm, .data .m | .om, .data .m =>
        let left := c.acks + m.acks
        if left = 0 then (s.setLine k l { c' with st := .m, acks := 0 }).cmpl k l
        else s.setLine k l { c' with st := .ma, acks := left }
      | _, _ => s)
      if m.data.isEmpty then s else s.ccWritten k l true

/-- An acknowledgement is counted (R201): by the home for a request it completes itself, otherwise by the requester,
which leaves MA at the last. -/
def State.ackAt (s : State) (l : Nat) (r : Agent) : State :=
  match takeMsg (fun m => m.line = l ∧ m.req = r ∧ m.kind = .invAck) [] s.net with
  | none => s
  | some (m, net) =>
    let s := { s with net := net }
    match m.dst with
    | .home _ =>
      let d := s.dirOf l
      (match d.txn with
      | some t =>
        let d := match m.src with | .ag a => d.share a false | _ => d
        (s.setDir l { d with txn := some { t with acks := t.acks - 1 } }).finishTxn l
      | none => s)
    | .ag (.cluster kb) =>
      let k := kb.toNat
      (match s.cline k l with
      | none => s
      | some c =>
        let left := c.acks - 1
        if c.st = .ma ∧ left = 0 then
          let s := (s.setLine k l { c with st := .m, acks := 0 }).answered k l
          s.cmpl k l
        else s.setLine k l { c with acks := left })
    | _ => s

/-- The home receives a completion message and closes the transaction (R208). -/
def State.cmpAt (s : State) (l : Nat) (r : Agent) : State :=
  match takeMsg (fun m => m.line = l ∧ m.src = .ag r ∧ m.kind = .cmp) [] s.net with
  | none => s
  | some (_, net) =>
    let s : State := { s with net := net }
    match (match r with | .member i => some i | _ => none) with
    | some i =>
      if s.noCmp.contains (l, i) then { s with noCmp := s.noCmp.erase (l, i) }
      else let d := s.dirOf l; (s.setDir l { d with opens := d.opens - 1 }).drainQueue l 64
    | none => let d := s.dirOf l; (s.setDir l { d with opens := d.opens - 1 }).drainQueue l 64

/-- WBAck or EvAck frees the eviction-buffer entry (R200), once the buffer has served what reached it before (R211). -/
def State.evbFree (s : State) (l : Nat) (r : Agent) (kind : MK) : State :=
  match takeMsg (fun m => m.line = l ∧ m.dst = .ag r ∧ m.kind = kind) [] s.net with
  | none => s
  | some (_, net) =>
    let s0 := s
    let s := { s with net := net }
    match r with
    | .cluster kb =>
      (match s.cline kb.toNat l with
      | some c => if !c.fq.isEmpty then s0
        else if c.st = .eb ∨ c.st = .sb then s.modClu kb.toNat fun q => { q with lines := spDel q.lines l }
        else s
      | none => s)
    | _ => s

/-- A requester receives Retry (R209): the request waits its back-off; Retry is an answer (R166). -/
def State.retryAt (s : State) (l : Nat) (r : Agent) : State :=
  match takeMsg (fun m => decide (m.line = l) && decide (m.dst = .ag r) && (match m.kind with | .retry _ => true | _ => false)) [] s.net with
  | none => s
  | some (m, net) =>
    let s : State := { s with net := net, parked := s.parked ++ [{ m with tries := m.tries + 1 }] }
    match r with
    | .cluster kb => s.answered kb.toNat l
    | _ => s

/-- Change the transaction of a line. -/
def State.modTxn (s : State) (l : Nat) (f : Txn → Txn) : State :=
  let d := s.dirOf l
  match d.txn with
  | some t => s.setDir l { d with txn := some (f t) }
  | none => s

/-- The back-off ends and the request is sent again, persistent after 8 Retry answers (R209). -/
def State.resend (s : State) (l : Nat) (r : Agent) : State :=
  match s.parked.find? fun m => m.line = l ∧ m.dst = .ag r with
  | none => s
  | some m =>
    let s : State := { s with parked := s.parked.erase m }
    let kind := m.orig.getD .rdS
    if m.src = s.homeNode l && decide (2 ^ 44 ≤ l) && (match r with | .member _ => true | _ => false) then
      -- this module's own request to the remote home of the line; an acknowledgement count of 1 marks it as persistent
      (s.modTxn l fun t => { t with rtag := s.rtag }).coh (s.memNode (l / 2 ^ 44 - 1)) true (crqCode kind) (96 * (l % 2 ^ 44))
        (b2n (decide (m.tries ≥ 8))) [] false 0
    else s.send { m with src := .ag r, dst := s.homeNode l, kind := kind, orig := none, sticky := decide (m.tries ≥ 8) }

/-- The requesters whose requests about a line a home is still working on (R210, R256): the one it completes itself or whose victim,
host copy or remote home it awaits, those queued behind, those it forwarded to a member, and the held persist grants. -/
def State.working (s : State) (l : Nat) : List Agent :=
  (match (s.dirOf l).txn with | some t => [t.msg.req] | none => []) ++
  (((s.stack (s.sliceOf l)).queue.filter fun m => m.line = l).map fun m => m.req) ++
  ((s.memWait.filter fun m => m.line = l ∧ (m.kind = .fwdS ∨ m.kind = .fwdX ∨ m.kind = .fwdU)).map fun m => m.req) ++
  (((s.stack (s.sliceOf l)).held.filter fun (j, _) => j = l).map fun (_, a) => a)

/-- A home still working on requests tells their requesters so (R210). -/
def State.pendTick (s : State) (l : Nat) : State :=
  (s.working l).foldl (fun s a => s.send { src := s.homeNode l, dst := .ag a, kind := .pend, line := l, req := a }) s

/-- A requester receives Pending, an answer under R166 and R167. -/
def State.pendAt (s : State) (l : Nat) (r : Agent) : State :=
  match takeMsg (fun m => m.line = l ∧ m.dst = .ag r ∧ m.kind = .pend) [] s.net with
  | none => s
  | some (_, net) =>
    let s := { s with net := net }
    match r with
    | .cluster kb => s.answered kb.toNat l
    | _ => s

/-- A home starts to take a line back from the host (R215): one back-invalidation for each of its two host lines; the
kind follows the request that waits: BISnpInv for ownership or a write, BISnpData for a shared read, BISnpCur for an uncached
read. R215 names none for Cln: BISnpCur, after which the host keeps the line as R205's Cln leaves it to an owner (DEDUCED,
log 74). -/
def State.biStart (s : State) (l : Nat) : State :=
  let d := s.dirOf l
  if (!d.h && decide (d.owner ≠ .host)) || s.bisnp.any (fun b => b.line = l) then s else
  let kind : Option MK := match d.txn with
    | some t => if t.host then some t.msg.kind else none
    | none => none
  -- a managed detach takes every line back although nothing waits for it (R324)
  let kind := if kind.isNone ∧ s.cxl.detach.isSome then some .clInv else kind
  match kind with
  | none => s
  | some kd =>
    let cur : Bool := kd = .rdU || kd = .cln
    let inval : Bool := !(cur || kd = .rdS)
    let code := if inval then 1 else if cur then 3 else 2
    let h := 3 * l / 2
    let b : BiSnp := { line := l, lo := false, hi := false, inval := inval, cur := cur, dirty := [], tick := s.ticks }
    let s : State := { s with bisnp := s.bisnp ++ [b] }
    (s.out (.bisnp (s.hostNo h) code)).out (.bisnp (s.hostNo (h + 1)) code)

/-- Bytes of a host line that fall into a module line, as (offset, byte) pairs (R212). -/
def hostPart (l h : Nat) (data : List Byte) : List Host.Cell :=
  (data.zipIdx.filter fun (_, i) => (64 * h + i) / 96 = l).map fun (b, i) => ((64 * h + i) % 96, b)

/-- Both host lines answered: the host's copy is gone, shared or read, and what waited for it goes on (R215). `lost`
poisons a line the host owned (R216). -/
def State.biFinish (s : State) (b : BiSnp) (lost : Bool) : State :=
  let l := b.line
  let s := { s with bisnp := s.bisnp.filter fun x => x.line ≠ l }
  let owned := decide ((s.dirOf l).owner = .host)
  let s := if owned && lost then s.poisonLine l
           else if b.dirty.isEmpty then s else s.arrayWrite l b.dirty false 0x400
  let d := s.dirOf l
  let d' : Dir :=
    if b.cur && !lost then d
    else if b.inval || lost then
      if owned then { d with owner := .none, st := if decide (d.shr = 0) && decide (d.grp = 0) then .free else .s, h := false }
      else { d with h := false, st := if d.st = .s ∧ d.shr = 0 ∧ d.grp = 0 then .free else d.st }
    else { d with owner := .none, st := .s, h := true }
  match d.txn with
  | some t =>
    if t.host then
      let m := t.msg
      let s := s.setDir l { d' with txn := none }
      let s :=
        if b.cur && !lost then
          -- BISnpCur: the host stays owner and the home serves the requester from the array
          if m.kind = .cln then s.homeDone m
          else
            let (data, p, s) := s.homeData l m.master
            s.send { src := s.homeNode l, dst := .ag m.req, kind := .data .none, line := l, req := m.req, data := data, pois := p, tag := m.tag }
        else
          let s := s.homeTable m
          match t.victimOf, (s.dirOf l).txn with
          | some w, some t' => s.setDir l { s.dirOf l with txn := some { t' with victimOf := some w } }
          | w, _ => s.victDone w
      s.drainQueue l 64
    else s.setDir l d'
  | none => s.setDir l d'

/-- The host answers one back-invalidation (R215, R323): dirty bytes return with it; BIConflict has it sent again. -/
def State.biAnswer (s : State) (l : Nat) (hi : Bool) (dirty : Option (List Byte)) (conflict : Bool) : State :=
  match s.bisnp.find? fun b => b.line = l with
  | none => s
  | some b =>
    let h := 3 * l / 2 + (if hi then 1 else 0)
    if conflict then s.out (.bisnp (s.hostNo h) (if b.inval then 1 else if b.cur then 3 else 2))
    else
      let b' := { b with lo := b.lo || !hi, hi := b.hi || hi, dirty := match dirty with
        | some data => mergeCells b.dirty (hostPart l h data)
        | none => b.dirty }
      if b'.lo && b'.hi then s.biFinish b' false
      else { s with bisnp := s.bisnp.map fun x => if x.line = l then b' else x }

/-- No answer for 100 µs (R216): the host's copy is taken as lost, event 0x0521. -/
def State.biLost (s : State) (l : Nat) : State :=
  match s.bisnp.find? fun b => b.line = l with
  | none => s
  | some b =>
    if s.ticks < b.tick + 2500 then s
    else (s.biFinish b true).event { code := 0x0521, sev := 3, cls := 3, blk := some .cxl, master := 0x400, addr := 96 * l,
                                     acc := 5, space := 0, pay := [(48, 96 * l)] }

end Sys2Proof.Machine
end

