-- ==== Sys2Proof/Machine/Uncached.lean ====
section
/-!
DEFINITION. Reads and writes of the main store by agents outside the caches (RdU, WrF and WrP of R205), and a processor's read of
one line for other purposes than a load (spec 02 R46, spec 05 R104, R128).
-/
namespace Sys2Proof.Machine

open Sys2Proof

/-- Is a request of an agent about a line under way already? -/
def State.asked (s : State) (l : Nat) (me : Agent) : Bool :=
  (s.net.any fun m => decide (m.line = l ∧ m.req = me)) || (s.parked.any fun m => decide (m.line = l ∧ m.req = me)) ||
  (s.memWait.any fun m => decide (m.line = l ∧ m.req = me)) ||
  (match (s.dirOf l).txn with | some t => decide (t.msg.req = me) | none => false) ||
  (s.stack (s.sliceOf l)).queue.any fun m => decide (m.line = l ∧ m.req = me)

/-- The data of an uncached read that has come for an agent. -/
def State.dataFor (s : State) (l : Nat) (me : Agent) : Option Msg :=
  s.net.find? fun m => decide (m.line = l ∧ m.dst = .ag me ∧ m.tag = 0) && (match m.kind with | .data _ => true | _ => false)

/-- Can an uncached agent's read of a line end now: its data has come, or the line is at rest where the home reads it? -/
def State.lineHere (s : State) (l : Nat) (me : Agent) : Bool :=
  (s.dataFor l me).isSome || (decide (l < 2 ^ 44) && s.readNow l)

/-- An uncached agent asks the home for a copy of a line (RdU), once. -/
def State.lineAsk (s : State) (l : Nat) (me : Agent) : State :=
  if s.lineHere l me || s.asked l me then s
  else s.homeAct { src := .ag me, dst := s.homeNode l, kind := .rdU, line := l, req := me }

/-- An uncached agent's read of a line (RdU): its data and poison, or nothing yet. A forwarded one is closed by Cmp (R208). -/
def State.lineRead (s : State) (l : Nat) (me : Agent) : Option (List Byte × Bool) × State :=
  match s.dataFor l me with
  | some m =>
    let s : State := { s with net := s.net.erase m }
    (some (m.data, m.pois), if m.op then s.send { src := .ag me, dst := s.homeNode l, kind := .cmp, line := l, req := me } else s)
  | none =>
    if l < 2 ^ 44 ∧ s.readNow l = true then
      let (d, z, s) := s.readLine l (agentMaster me)
      (some (d, z), s)
    else (none, s.lineAsk l me)

/-- The lines of a byte range. -/
def linesOf (a n : Nat) : List Nat := (List.range ((a + n + 95) / 96 - a / 96)).map (a / 96 + ·)

/-- An uncached agent reads bytes of the main store: bytes and poison once every line has come. -/
def State.uncRead (s : State) (a n : Nat) (master : BitVec 12) : Option (List Byte × Bool) × State :=
  let me : Agent := .unc master
  let ls := linesOf a n
  if ls.all fun l => s.lineHere l me then
    let (d, z, s) := ls.foldl (fun (d, z, s) l => match State.lineRead s l me with
      | (some (b, y), s) => (d ++ b, z || y, s)
      | (none, s) => (d, z, s)) (([] : List Byte), false, s)
    (some ((d.drop (a % 96)).take n, z), s)
  else (none, ls.foldl (fun s l => s.lineAsk l me) s)

/-- An uncached agent asks that the host and the members give up a line that they hold, before it writes there (WrP, R205, R215). -/
def State.lineClear (s : State) (l : Nat) (me : Agent) : State :=
  if s.writeNow l || !s.quietLine l || s.asked l me then s
  else s.homeAct { src := .ag me, dst := s.homeNode l, kind := .clInv, line := l, req := me }

/-- The persist grants of all lines of a byte range, for one agent (R255, R256): whether all are granted. -/
def State.grantAll (s : State) (a n : Nat) (me : Agent) : Bool × State :=
  (linesOf a n).foldl (fun (ok, s) l => let (g, s) := State.grantOr s l me; (ok && g, s)) (true, s)

/-- An uncached agent writes bytes of the main store, a persist write (R254): done once every line can be written and its grant is
held. -/
def State.uncWrite (s : State) (a : Nat) (bs : List Byte) (pois : Bool) (master : BitVec 12) : Bool × State :=
  let me : Agent := .unc master
  if s.writeRange a bs.length then
    match s.grantAll a bs.length me with
    | (true, s) => (true, s.poke a bs pois master.toNat)
    | (false, s) => (false, s)
  else (false, (linesOf a bs.length).foldl (fun s l => s.lineClear l me) s)

/-- A processor reads a line that caches may hold: from its cluster's cache, which asks for it on a miss, or uncached where the
cluster cannot hold it (R178 step 4, R189). -/
def State.procLine (s : State) (p : BitVec 6) (l : Nat) : Option (List Byte × Bool) × State :=
  let k := cluOf p
  match s.wantLine k l false false p.toNat with
  | (.ready, s) =>
    let s := s.ccRead k l
    ((s.cline k l).map fun c => (c.data, c.pois), s)
  | (.waiting, s) => (none, s)
  | (.uncached, s) => s.lineRead l (.unc (p.zeroExtend 12))

/-- `n` bytes at address `a` within the line of key `l`, read so. -/
def State.procRead (s : State) (p : BitVec 6) (l a n : Nat) : Option (List Byte × Bool) × State :=
  match s.procLine p l with
  | (some (d, z), s) => (some ((d.drop (a % 96)).take n, z), s)
  | (none, s) => (none, s)

end Sys2Proof.Machine
end

