-- ==== Sys2Proof/Machine/HostReq.lean ====
section
/-!
DEFINITION. The host's requests to the main store (spec 08 R212 to R214, spec 12 R316 to R320): one or two module
lines, one after the other, answered when all are done.
-/
namespace Sys2Proof.Machine

open Sys2Proof

/-- The module lines a host line touches (R212). -/
def hostLines (h : Nat) : List Nat := if h % 3 = 1 then [64 * h / 96, 64 * h / 96 + 1] else [64 * h / 96]

/-- The request of the present line leaves for its home (R213). -/
def State.hostMsg (s : State) (r : HReq) (l : Nat) : State :=
  s.send { src := .ag .host, dst := s.homeNode l, kind := r.kind, line := l, req := .host,
           bytes := (r.bytes.filter fun (a, _) => a / 96 = l).map fun (a, b) => (a % 96, b), pois := r.pois }

/-- Is the request a write, which is a persist write (R254, R318)? -/
def HReq.writes (r : HReq) : Bool := match r.kind with | .wb _ | .wrP => true | _ => false

/-- Replace the request of the same host line and kind. -/
def State.setReq (s : State) (r r' : HReq) : State :=
  { s with cxl := { s.cxl with reqs := s.cxl.reqs.map fun x => if x = r then r' else x } }

/-- What leaves for the host (R317): 0 Cmp, 1 MemData with Cmp, 2 MemData with Cmp-S, 3 MemData with Cmp-E, 4 Cmp-E. A
host line that touches a poisoned line is poisoned (R319). -/
def State.hostAnswer (s : State) (r : HReq) : State :=
  let data : List Byte := if r.resp = 1 ∨ r.resp = 2 ∨ r.resp = 3 then
      (List.range 64).map fun i => (spGet r.got (64 * r.h + i)).getD 0
    else []
  s.out (.memAnswer (s.hostNo r.h) r.resp data r.gotP)

/-- The request moves on (R214): to its next line, once the persist grant of a write is held (R318), or to its end:
the lines stop being busy and the host is answered. -/
def State.hostNext (s : State) (r : HReq) : State :=
  match r.todo with
  | [] =>
    let s := r.open_.foldl (fun s l => s.send { src := .ag .host, dst := s.homeNode l, kind := .cmp, line := l, req := .host }) s
    let s := { s with cxl := { s.cxl with reqs := s.cxl.reqs.erase r } }
    if s.phase = .run then s.hostAnswer r else s
  | l :: rest =>
    let r' := { r with todo := rest, cur := some l, acks := 0, gotD := false }
    if r.writes then
      match s.grantOr l .host with
      | (true, s) => (s.setReq r r').hostMsg r' l
      | (false, s) => s.setReq r { r' with held := true }
    else (s.setReq r r').hostMsg r' l

/-- The answer for the present line is whole: data, if any, and every acknowledgement it announced. -/
def State.hostLineDone (s : State) (r : HReq) : State :=
  if r.gotD ∧ r.acks = 0 then s.hostNext r else s

/-- The request that waits for an answer about a line. -/
def State.hostReqOf (s : State) (l : Nat) : Option HReq := s.cxl.reqs.find? fun r => r.cur = some l ∧ r.held = false

/-- Data with a grant, an uncached copy, or the home's word that a write is done reaches the CXL block (R205, R213). The lower
line of two stays busy until the whole request completes (R214). -/
def State.hostGot (s : State) (l : Nat) : State :=
  match takeMsg (fun m => decide (m.line = l) && decide (m.dst = .ag .host) &&
      (match m.kind with | .data _ | .done => true | _ => false)) [] s.net with
  | none => s
  | some (m, net) =>
    let s := { s with net := net }
    match s.hostReqOf l with
    | none => s
    | some r =>
      let got : List Host.Cell := cellsAt (96 * l) m.data
      let op : Bool := m.op || (match m.kind with | .data .none => false | .data _ => true | _ => false)
      let stay : Bool := !op && !r.todo.isEmpty
      let s := if stay then s.setDir l { s.dirOf l with opens := (s.dirOf l).opens + 1 } else s
      let r' : HReq := { r with gotD := true, acks := r.acks + m.acks, gotP := r.gotP || m.pois,
                                got := mergeCells r.got got, open_ := if op || stay then r.open_ ++ [l] else r.open_ }
      (s.setReq r r').hostLineDone r'

/-- An acknowledgement reaches the CXL block as the requester (R201). -/
def State.hostAck (s : State) (l : Nat) : State :=
  match takeMsg (fun m => m.line = l ∧ m.dst = .ag .host ∧ m.kind = .invAck) [] s.net with
  | none => s
  | some (_, net) =>
    let s := { s with net := net }
    match s.hostReqOf l with
    | none => s
    | some r =>
      let r' : HReq := { r with acks := r.acks - 1 }
      (s.setReq r r').hostLineDone r'

/-- A held write of the host is granted (R256, R318). -/
def State.hostGrant (s : State) (l : Nat) : State :=
  match s.cxl.reqs.find? fun r => r.cur = some l ∧ r.held = true with
  | none => s
  | some r => let r' : HReq := { r with held := false }; (s.setReq r r').hostMsg r' l

end Sys2Proof.Machine
end

