-- ==== Sys2Proof/Machine/Operands.lean ====
section
/-!
DEFINITION. Operand reads and register writes under the load shadow (R24, R25, R60 to R67), long results, and the
values that loads and stores pass (R86).
-/
namespace Sys2Proof.Machine

open Sys2Proof

/-- G[n] (R24: G0 reads zero). -/
def Proc.gR (q : Proc) (n : BitVec 5) : Word := if n = 0 then 0 else spGetD 0 q.g n.toNat

/-- F[n]. -/
def Proc.fR (q : Proc) (n : BitVec 5) : BitVec 64 := spGetD 0 q.f n.toNat

/-- The register a load writes (R86). -/
def Load.dst (l : Load) : Reg :=
  match l.kind with
  | .lfs | .lfd => .f l.rd
  | _ => .g l.rd

/-- A write supersedes the outstanding loads of its register (R62). -/
def Proc.supersede (q : Proc) (r : Reg) : Proc :=
  { q with loads := q.loads.map fun l => if l.dst = r then { l with sup := true } else l }

/-- The register write itself: G0 discards it (R24). -/
def Proc.put (q : Proc) (r : Reg) (v : BitVec 64) : Proc :=
  match r with
  | .g n => if n = 0 then q else { q with g := spPut 0 q.g n.toNat (v.setWidth 48) }
  | .f n => { q with f := spPut 0 q.f n.toNat v }

/-- An instruction writes G[n]. -/
def Proc.gW (q : Proc) (n : BitVec 5) (v : Word) : Proc := (q.supersede (.g n)).put (.g n) (v.setWidth 64)

/-- An instruction writes F[n]. -/
def Proc.fW (q : Proc) (n : BitVec 5) (v : BitVec 64) : Proc := (q.supersede (.f n)).put (.f n) v

/-- A load whose register write waits: a later load stands at its position 1 or 2, names the same register and has not delivered its
data yet. That later load supersedes it (R62) unless it raises an exception, for then it writes nothing (R64). -/
def Proc.held (q : Proc) (l : Load) : Bool :=
  q.loads.any fun y => decide (y.dst = l.dst ∧ l.sn < y.sn ∧ y.sn ≤ l.sn + 2) && y.data.isNone

/-- Must a reader of the register wait (R61, R73): an outstanding load at position 3 or later whose data has not
arrived, or a long instruction in progress? G0 never waits, and a load that a later one may supersede is not waited for. -/
def Proc.blockedR (q : Proc) (r : Reg) : Bool :=
  decide (r ≠ .g 0) &&
  (q.loads.any (fun l => decide (l.dst = r) && !l.sup && l.data.isNone && decide (2 ≤ l.pos) && !q.held l) ||
   q.longs.any (fun x => decide (x.dst = r)))

/-- Must a writer of the register wait (R73)? -/
def Proc.blockedW (q : Proc) (r : Reg) : Bool := q.longs.any fun x => decide (x.dst = r)

/-- The value a load delivers from its bytes (R86, R25). -/
def loadVal (k : LKind) (bs : List Byte) : BitVec 64 :=
  let v := leNat bs
  match k with
  | .lb => (BitVec.ofNat 8 v).signExtend 48 |>.setWidth 64
  | .lbu => BitVec.ofNat 64 (v % 256)
  | .lh => (BitVec.ofNat 24 v).signExtend 48 |>.setWidth 64
  | .lhu => BitVec.ofNat 64 (v % 2 ^ 24)
  | .lw | .llw => BitVec.ofNat 64 (v % 2 ^ 48)
  | .lfs => BitVec.ofNat 64 (v % 2 ^ 32)
  | .lfd => BitVec.ofNat 64 v

/-- Bytes of a load (R86). -/
def LKind.size : LKind → Nat
  | .lb | .lbu => 1
  | .lh | .lhu => 3
  | .lw | .llw => 6
  | .lfs => 4
  | .lfd => 8

/-- Has a load all that its register write needs: its data, its shadow over, no later load that may supersede it? -/
def Proc.ready (q : Proc) (l : Load) : Bool := l.data.isSome && decide (2 ≤ l.pos) && !q.held l

/-- Is a load superseded by the later loads `ws` that write now (R62)? -/
def Load.late (l : Load) (ws : List Load) : Bool := ws.any fun y => decide (y.dst = l.dst ∧ l.sn < y.sn)

/-- Loads whose data has come and whose shadow is over write their register (R61, R62), in program order; an older one of the same
register that is still outstanding is then superseded. -/
def Proc.retireLoads (q : Proc) : Proc :=
  let ws := q.loads.filter fun l => q.ready l && !l.sup
  let q' := { q with loads := (q.loads.filter fun l => !q.ready l).map fun l => { l with sup := l.sup || l.late ws } }
  ws.foldl (fun q l => if l.late ws then q else q.put l.dst (loadVal l.kind (l.data.getD []))) q'

/-- Every outstanding load moves on by one position (R60). -/
def Proc.advance (q : Proc) : Proc :=
  Proc.retireLoads { q with loads := q.loads.map fun l => { l with pos := l.pos + 1 } }

/-- Is some load's shadow open (R65)? -/
def Proc.inShadow (q : Proc) : Bool := q.loads.any fun l => decide (l.pos < 2)

/-- The register write of every outstanding load is completed (R65, R128 step 1): those whose data has come. -/
def Proc.flushLoads (q : Proc) : Proc :=
  Proc.retireLoads { q with loads := q.loads.map fun l => { l with pos := 2 } }

/-- A long instruction completes (R112, R121): its result is written, its flags are set; a completion trap becomes due
(R71) and CAUSE takes what it signalled (R29). -/
def Proc.completeLong (q : Proc) (x : Long) : Proc :=
  let q := q.put x.dst x.val
  let psw := if x.setV then q.psw ||| 8 else q.psw
  let psw := if x.setDZ then psw ||| 16 else psw
  let fpsw := q.fpsw ||| (x.fl.zeroExtend 48 <<< 3)
  let fpsw := if x.trap = 0x09 then setFld fpsw 17 13 x.cause.toNat else fpsw
  let q := { q with psw := psw, fpsw := fpsw }
  if x.trap = 0 then q
  else { q with trap := some { code := x.trap, xip := q.ip, kind := 1 } }

/-- Every long instruction in progress completes (R112). -/
def Proc.completeLongs (q : Proc) : Proc := q.longs.foldl Proc.completeLong { q with longs := [] }

end Sys2Proof.Machine
end

