-- ==== Sys2Proof/Machine/Flags.lean ====
section
/-!
DEFINITION. The sticky flags of PSW (R26, R77 to R81) and the completion traps that the integer instructions raise
(R71).
-/
namespace Sys2Proof.Machine

open Sys2Proof

/-- The signed value of a word (spec 03). -/
def sval (w : Word) : Int := w.toInt

/-- Does a signed result fall outside the 48-bit range (R77)? -/
def overflows (x : Int) : Bool := decide (x < -(2 ^ 47)) || decide (2 ^ 47 ≤ x)

/-- Set V when `v`, and make the integer overflow trap due when OVT is 1 (R71, R77 note a). The trap saves the next
instruction (R130). -/
def Proc.flagV (q : Proc) (v : Bool) : Proc :=
  if v then
    let q := { q with psw := q.psw ||| 8 }
    if q.ovt then { q with trap := some { code := 0x07, xip := q.ip, kind := 1 } } else q
  else q

/-- May the processor take an asynchronous interrupt at this boundary: no shadow is open (R65), no divide and no floating
instruction is in progress (R75, R146), and what a retry does again has retired (R151)? A waiting barrier has not executed
yet (R163). -/
def Proc.interruptible (q : Proc) : Bool := !q.inShadow && !(q.longs.any fun x => x.fp || x.div) && decide (q.tries = 0)

end Sys2Proof.Machine
end

