-- ==== Sys2Proof/Machine/Issue.lean ====
section
/-!
DEFINITION. Issuing an instruction: when a processor can (R35, R67, R73 to R75, R95, R137), its fetch through S15 (R44,
R88), the faults that come before its effect (R69, R70), and its retirement (R26, R60).
-/
namespace Sys2Proof.Machine

open Sys2Proof

/-- Does a processor still run: in a running module, and after a trip or in FATAL until it stands at a boundary where it could take an
interrupt (R154, R262, R483)? What is due there is taken after the resume. -/
def State.runs (s : State) (p : BitVec 6) : Bool :=
  let q := s.proc p
  decide (s.phase = .run) || (decide (s.phase = .flush ∨ s.phase = .fatal) && s.hasProc p && decide (q.run = .running) && !q.interruptible &&
    q.paused.isNone && q.fault.isNone && q.trap.isNone && q.mcheck.isNone)

/-- Can the processor issue an instruction now: it exists and runs (R154), nothing synchronous is due,
it is not paused (R151), no barrier, micro-routine or long instruction holds the issue stage? -/
def State.able (s : State) (p : BitVec 6) : Bool :=
  let q := s.proc p
  s.runs p && s.hasProc p && decide (q.run = .running) && q.paused.isNone && q.fault.isNone && q.trap.isNone &&
  !(q.stepDue && !q.inShadow) && q.mcheck.isNone && !(q.resume.isSome && !q.act) && q.bar.isNone && q.routine.isNone &&
  q.relock.isNone && !(q.stopReq.isSome && q.interruptible) && !q.longs.any fun x => x.hold

/-- The outcome of a fetch: the line is there (the state may have filled the L1 instruction cache), a wait, a fault. -/
inductive Fetch where
  | ok (s : State)
  | wait (s : State)
  | bad (d : Due)

/-- Fetch through S15 at IP (R44, R51, R88, R175, R188). -/
def State.fetch (s : State) (p : BitVec 6) : Fetch :=
  let q := s.proc p
  match s.access p .fetch 15 q.ip 6 6 q.ip with
  | .error d => .bad d
  | .ok a =>
    match s.cacheLine a with
    | none => .ok s
    | some l =>
      let n := s.hostCore p
      let k := cluOf p
      let bad : Fetch := .bad { code := 0x0B, xip := q.ip, addr := q.ip, paddr := BitVec.ofNat 48 (96 * (l % 2 ^ 44)), seg := 15, acc := 3 }
      let s := if (spGet (s.core n).ic l).isSome then s.l1iCheck p n l else s
      if (spGet (s.core n).ic l).isSome then .ok s
      else if s.l1iWait n l then .wait s
      else match s.procLine p l with
        | (none, s) => .wait s
        | (some (_, z), s) => if z then bad else if (s.cline k l).isSome then .ok (s.fillL1I n l) else .ok s

/-- A fault of the next instruction becomes due (R70, R135 rank 8). -/
def State.setFault (s : State) (p : BitVec 6) (d : Due) : State := s.modProc p fun q => { q with fault := some d }

/-- A fault of the instruction at IP with nothing but a code. -/
def Proc.plainDue (q : Proc) (c : BitVec 6) : Due := { code := c, xip := q.ip }

/-- A new checkpoint (R147, R148): a retry before it has succeeded, with the KIND that XRETRY names (R152), and the counts start
again (R149). -/
def Proc.checkpoint (q : Proc) : Proc :=
  { q with tries := 0, triesMism := 0,
           retryOks := if q.tries = 0 then q.retryOks else q.retryOks ++ [(q.crGet 66).extractLsb' 0 4] }

/-- An instruction retires: loads move on by one position, a single step becomes due when SS was 1 as it began (R60,
R65, R135), the retry count starts again (R149). IP stands at the next instruction already. -/
def Proc.finish (q : Proc) (ss : Bool) : Proc :=
  let q := q.advance.checkpoint
  { q with stepDue := q.stepDue || ss, sn := q.sn + 1 }

/-- An instruction retires and goes on at `ip'`. -/
def State.retire (s : State) (p : BitVec 6) (ss : Bool) (ip' : Word) : State :=
  s.modProc p fun q => Proc.finish { q with ip := ip' } ss

/-- What stands before an instruction's effect: it waits, or it raises an exception, or it goes ahead. -/
inductive Pre where
  | stall (s : State)
  | go (s : State)

/-- R70 up to the access exceptions: fetch faults, illegal instruction (R41, R69), privilege (R55); then the waits of
the operands (R61, R73). -/
def State.pre (s : State) (p : BitVec 6) (illegal priv : Bool) (reads writes : List Reg) : Pre :=
  if !s.able p then .stall s
  else match s.fetch p with
    | .wait s' => .stall s'
    | .bad d => .stall (s.setFault p d)
    | .ok s' =>
      let q := s'.proc p
      if illegal then .stall (s'.setFault p (q.plainDue 0x01))
      else if priv && q.user then .stall (s'.setFault p (q.plainDue 0x02))
      else if reads.any q.blockedR || writes.any q.blockedW then .stall s'
      else .go s'

/-- Issue an instruction: its effect `body` runs when nothing stands before it. -/
def State.issue (s : State) (p : BitVec 6) (illegal priv : Bool) (reads writes : List Reg) (body : State → State) :
    Host.Outcome State Fault Refusal :=
  match s.pre p illegal priv reads writes with
  | .stall s' => .next s'
  | .go s' => .next (body s')

/-- The effect of an instruction that only changes its processor and goes on to the next word: `f` sees IP there and
every register as it stood before (R61). -/
def State.simple (s : State) (p : BitVec 6) (f : Proc → Proc) : State :=
  s.modProc p fun q => (f { q with ip := q.ip + 6 }).finish q.ss

end Sys2Proof.Machine
end

