-- ==== Sys2Proof/Machine/IntArith.lean ====
section
/-!
DEFINITION. Integer register operations, immediates, shifts, multiply and divide (spec 03 R77 to R81, spec 04 R111).
-/
namespace Sys2Proof.Machine

open Sys2Proof

/-- What a step answers. -/
abbrev Res := Host.Outcome State Fault Refusal

/-- An RR operation on G registers: result and overflow from the two operands (R77). -/
def rrOp (p : BitVec 6) (f : RR) (op : Word → Word → Word × Bool) (s : State) : Res :=
  s.issue p (f.z ≠ 0) false [.g f.ra, .g f.rb] [.g f.rd] fun s =>
    s.simple p fun q =>
      let r := op (q.gR f.ra) (q.gR f.rb)
      (q.gW f.rd r.1).flagV r.2

/-- An RI operation on G registers: result and overflow from the operand and the immediate (R79); `bad` says when the
immediate or ra breaks what must be zero. -/
def riOp (p : BitVec 6) (f : RI) (bad : Bool) (op : Word → BitVec 30 → Word × Bool) (s : State) : Res :=
  s.issue p bad false [.g f.ra] [.g f.rd] fun s =>
    s.simple p fun q =>
      let r := op (q.gR f.ra) f.imm
      (q.gW f.rd r.1).flagV r.2

/-- Shifts and rotates (R78). -/
def shlW (a : Word) (n : Nat) : Word := if n ≥ 48 then 0 else a <<< n
def shrW (a : Word) (n : Nat) : Word := if n ≥ 48 then 0 else a >>> n
def sarW (a : Word) (n : Nat) : Word := if n ≥ 48 then (if a.msb then BitVec.allOnes 48 else 0) else a.sshiftRight n
def rorW (a : Word) (n : Nat) : Word := (a >>> (n % 48)) ||| (a <<< (48 - n % 48))
def rolW (a : Word) (n : Nat) : Word := (a <<< (n % 48)) ||| (a >>> (48 - n % 48))

/-- The amount of a shift: G[rb][5:0] or imm[5:0] (R78). -/
def amt {n : Nat} (b : BitVec n) : Nat := b.toNat % 64

def execAdd (p : BitVec 6) (f : RR) (s : State) : Res :=
  rrOp p f (fun a b => (a + b, overflows (sval a + sval b))) s
def execAddu (p : BitVec 6) (f : RR) (s : State) : Res := rrOp p f (fun a b => (a + b, false)) s
def execSub (p : BitVec 6) (f : RR) (s : State) : Res :=
  rrOp p f (fun a b => (a - b, overflows (sval a - sval b))) s
def execSubu (p : BitVec 6) (f : RR) (s : State) : Res := rrOp p f (fun a b => (a - b, false)) s

/-- NEG: rb must be zero (R77, R69). -/
def execNeg (p : BitVec 6) (f : RR) (s : State) : Res :=
  s.issue p (f.z ≠ 0 ∨ f.rb ≠ 0) false [.g f.ra] [.g f.rd] fun s =>
    s.simple p fun q => (q.gW f.rd (0 - q.gR f.ra)).flagV (q.gR f.ra = 0x800000000000)

def execAnd (p : BitVec 6) (f : RR) (s : State) : Res := rrOp p f (fun a b => (a &&& b, false)) s
def execOr (p : BitVec 6) (f : RR) (s : State) : Res := rrOp p f (fun a b => (a ||| b, false)) s
def execXor (p : BitVec 6) (f : RR) (s : State) : Res := rrOp p f (fun a b => (a ^^^ b, false)) s
def execAndn (p : BitVec 6) (f : RR) (s : State) : Res := rrOp p f (fun a b => (a &&& ~~~b, false)) s
def execNor (p : BitVec 6) (f : RR) (s : State) : Res := rrOp p f (fun a b => (~~~(a ||| b), false)) s
def execSlt (p : BitVec 6) (f : RR) (s : State) : Res :=
  rrOp p f (fun a b => (if sval a < sval b then 1 else 0, false)) s
def execSltu (p : BitVec 6) (f : RR) (s : State) : Res :=
  rrOp p f (fun a b => (if a.toNat < b.toNat then 1 else 0, false)) s
def execShl (p : BitVec 6) (f : RR) (s : State) : Res := rrOp p f (fun a b => (shlW a (amt b), false)) s
def execShr (p : BitVec 6) (f : RR) (s : State) : Res := rrOp p f (fun a b => (shrW a (amt b), false)) s
def execSar (p : BitVec 6) (f : RR) (s : State) : Res := rrOp p f (fun a b => (sarW a (amt b), false)) s
def execRor (p : BitVec 6) (f : RR) (s : State) : Res := rrOp p f (fun a b => (rorW a (amt b), false)) s
def execRol (p : BitVec 6) (f : RR) (s : State) : Res := rrOp p f (fun a b => (rolW a (amt b), false)) s

/-- The sign-extended and the zero-extended immediate (spec 03). -/
def sxI (i : BitVec 30) : Word := i.signExtend 48
def zxI (i : BitVec 30) : Word := i.zeroExtend 48

def execAddi (p : BitVec 6) (f : RI) (s : State) : Res :=
  riOp p f false (fun a i => (a + sxI i, overflows (sval a + sval (sxI i)))) s
def execAddiu (p : BitVec 6) (f : RI) (s : State) : Res := riOp p f false (fun a i => (a + sxI i, false)) s
def execSlti (p : BitVec 6) (f : RI) (s : State) : Res :=
  riOp p f false (fun a i => (if sval a < sval (sxI i) then 1 else 0, false)) s
def execSltiu (p : BitVec 6) (f : RI) (s : State) : Res :=
  riOp p f false (fun a i => (if a.toNat < (sxI i).toNat then 1 else 0, false)) s
def execAndi (p : BitVec 6) (f : RI) (s : State) : Res := riOp p f false (fun a i => (a &&& zxI i, false)) s
def execOri (p : BitVec 6) (f : RI) (s : State) : Res := riOp p f false (fun a i => (a ||| zxI i, false)) s
def execXori (p : BitVec 6) (f : RI) (s : State) : Res := riOp p f false (fun a i => (a ^^^ zxI i, false)) s

/-- LHI: ra and imm[29:24] zero (R79, R69). -/
def execLhi (p : BitVec 6) (f : RI) (s : State) : Res :=
  riOp p f (f.ra ≠ 0 ∨ f.imm.toNat ≥ 2 ^ 24) (fun _ i => (zxI i <<< 24, false)) s

/-- The RI shifts: imm[29:6] zero (R78, R69). -/
def execShli (p : BitVec 6) (f : RI) (s : State) : Res :=
  riOp p f (f.imm.toNat ≥ 64) (fun a i => (shlW a (amt i), false)) s
def execShri (p : BitVec 6) (f : RI) (s : State) : Res :=
  riOp p f (f.imm.toNat ≥ 64) (fun a i => (shrW a (amt i), false)) s
def execSari (p : BitVec 6) (f : RI) (s : State) : Res :=
  riOp p f (f.imm.toNat ≥ 64) (fun a i => (sarW a (amt i), false)) s
def execRori (p : BitVec 6) (f : RI) (s : State) : Res :=
  riOp p f (f.imm.toNat ≥ 64) (fun a i => (rorW a (amt i), false)) s

/-- A long integer result (R73): result, V, DZ, whether the divider is used, whether it is a divide (R75) and whether RDPSW waits for
it (R112). It holds the issue stage when its trap must be precise: MUL while OVT is 1 (R137), an exceptional divide whose trap
is enabled (R81). -/
def Proc.longInt (q : Proc) (rd : BitVec 5) (v : Word) (ov dz idiv hold div psw : Bool) : Proc :=
  let q := q.supersede (.g rd)
  let trap : BitVec 6 := if dz && q.dzt then 0x08 else if ov && q.ovt then 0x07 else 0
  let x : Long :=
    { dst := .g rd, val := v.setWidth 64, fp := false, idiv := idiv, fdiv := false, hold := hold || decide (trap ≠ 0),
      setV := ov, setDZ := dz, fl := 0, cause := 0, trap := trap, div := div, psw := psw }
  { q with longs := q.longs ++ [x] }

/-- A multiply (R80); `psw`: RDPSW and WRPSW wait for it (R112 names MUL and MULH, not MULHU). -/
def mulOp (p : BitVec 6) (f : RR) (op : Word → Word → Word × Bool) (flags psw : Bool) (s : State) : Res :=
  s.issue p (f.z ≠ 0) false [.g f.ra, .g f.rb] [.g f.rd] fun s =>
    s.simple p fun q =>
      let r := op (q.gR f.ra) (q.gR f.rb)
      q.longInt f.rd r.1 r.2 false false (flags && q.ovt) false psw

def execMul (p : BitVec 6) (f : RR) (s : State) : Res :=
  mulOp p f (fun a b => (BitVec.ofInt 48 (sval a * sval b), overflows (sval a * sval b))) true true s
def execMulh (p : BitVec 6) (f : RR) (s : State) : Res :=
  mulOp p f (fun a b => ((BitVec.ofInt 96 (sval a * sval b)).extractLsb' 48 48, false)) false true s
def execMulhu (p : BitVec 6) (f : RR) (s : State) : Res :=
  mulOp p f (fun a b => ((BitVec.ofNat 96 (a.toNat * b.toNat)).extractLsb' 48 48, false)) false false s

/-- Quotient, remainder, V and DZ of a division (R80). -/
def divS (a b : Word) : Word × Word × Bool × Bool :=
  if b = 0 then (0, a, false, true)
  else if a = 0x800000000000 ∧ b = BitVec.allOnes 48 then (0x800000000000, 0, true, false)
  else (BitVec.ofInt 48 (Int.tdiv (sval a) (sval b)), BitVec.ofInt 48 (Int.tmod (sval a) (sval b)), false, false)
def divU (a b : Word) : Word × Word × Bool × Bool :=
  if b = 0 then (0, a, false, true) else (a / b, a % b, false, false)

/-- A divide (R80, R81): one that needs the divider waits at issue while it is busy (R73). -/
def divOp (p : BitVec 6) (f : RR) (op : Word → Word → Word × Word × Bool × Bool) (rem : Bool) (s : State) : Res :=
  s.issue p (f.z ≠ 0) false [.g f.ra, .g f.rb] [.g f.rd] fun s =>
    let q := s.proc p
    let r := op (q.gR f.ra) (q.gR f.rb)
    let uses : Bool := !(r.2.2.1 || r.2.2.2)
    if uses && q.longs.any (fun x => x.idiv) then s
    else s.simple p fun q => q.longInt f.rd (if rem then r.2.1 else r.1) r.2.2.1 r.2.2.2 uses false true true

def execDiv (p : BitVec 6) (f : RR) (s : State) : Res := divOp p f divS false s
def execDivu (p : BitVec 6) (f : RR) (s : State) : Res := divOp p f divU false s
def execRem (p : BitVec 6) (f : RR) (s : State) : Res := divOp p f divS true s
def execRemu (p : BitVec 6) (f : RR) (s : State) : Res := divOp p f divU true s

/-- A long instruction completes (R73, R112, R121): the n-th in program order. -/
def execLongResultComplete (p : BitVec 6) (n : Nat) (s : State) : Res :=
  .next (match (s.proc p).longs[n]? with
    | some x => s.modProc p fun q => Proc.completeLong { q with longs := listDrop1 q.longs n } x
    | none => s)

/-- BC (R82, R43): conditions 9 to 15 are reserved; with AL the test field must be zero (R69). -/
def condTrue (c : BitVec 4) (v : Word) : Bool :=
  match c.toNat with
  | 0 => decide (v = 0)
  | 1 => decide (v ≠ 0)
  | 2 => decide (sval v < 0)
  | 3 => decide (0 ≤ sval v)
  | 4 => decide (sval v ≤ 0)
  | 5 => decide (0 < sval v)
  | 6 => v.getLsbD 0
  | 7 => !v.getLsbD 0
  | _ => true

/-- The target of a format-B transfer (R42). -/
def branchTo (ip : Word) (disp : BitVec 31) : Word := ip + 6 * disp.signExtend 48

def execBc (p : BitVec 6) (f : BF) (s : State) : Res :=
  s.issue p (f.cond.toNat > 8 ∨ (f.cond = 8 ∧ f.test ≠ 0)) false (if f.cond = 8 then [] else [.g f.test]) [] fun s =>
    let q := s.proc p
    s.retire p q.ss (if condTrue f.cond (q.gR f.test) then branchTo q.ip f.disp else q.ip + 6)

/-- CALL (R83): the test field is the link register; the condition must be AL. -/
def execCall (p : BitVec 6) (f : BF) (s : State) : Res :=
  s.issue p (f.cond ≠ 8) false [] [.g f.test] fun s =>
    let q := s.proc p
    (s.modProc p fun q => q.gW f.test (q.ip + 6)).retire p q.ss (branchTo q.ip f.disp)

/-- JR (R84): rb and fn zero; the old value is the target when rd and ra are the same. -/
def execJr (p : BitVec 6) (f : RRF) (s : State) : Res :=
  s.issue p (f.z ≠ 0 ∨ f.rb ≠ 0 ∨ f.fn ≠ 0) false [.g f.ra] [.g f.rd] fun s =>
    let q := s.proc p
    (s.modProc p fun q => q.gW f.rd (q.ip + 6)).retire p q.ss (q.gR f.ra)

end Sys2Proof.Machine
end

