-- ==== Sys2Proof/Machine/Memory.lean ====
section
/-!
DEFINITION. Loads, stores, LLW, SCW, STNT, barriers and the store buffer (spec 03 R86 to R95, spec 06).
-/
namespace Sys2Proof.Machine

open Sys2Proof

/-- Entries of the store buffer (R157). -/
def Proc.entries (q : Proc) : List Entry := q.sb.filterMap fun x => match x with | .entry e => some e | _ => none

/-- Is there room for n more entries (R157: 16)? There always is for none. -/
def Proc.sbRoom (q : Proc) (n : Nat) : Bool := decide (n = 0 ∨ q.entries.length + n ≤ 16)

/-- All buffered and slotted stores, oldest first (R160). One that is written into its line already is read there. -/
def Proc.ownStores (q : Proc) : List Entry :=
  ((q.slots.map fun x => (x.ents.filter fun y => y.st ≠ .inCluster).map fun y => y.e).flatten) ++ q.entries

/-- Does an entry touch a byte range of a space? -/
def Entry.touches (e : Entry) (space : BitVec 3) (node : BitVec 14) (a n : Nat) : Bool :=
  decide (e.space = space) && (decide (space ≠ 4) || decide (e.node = node)) && e.bytes.any fun (x, _) => decide (a ≤ x ∧ x < a + n)

/-- The youngest buffered or slotted byte at an address of space 0 (R160). -/
def Proc.ownByte (q : Proc) (a : Nat) : Option Byte :=
  (q.ownStores.filter fun e => decide (e.space = 0)).foldl (fun acc e =>
    match spGet e.bytes a, acc with
    | some b, none => some (e.sn, b)
    | some b, some (n, b0) => if n ≤ e.sn then some (e.sn, b) else some (n, b0)
    | none, acc => acc) (none : Option (Nat × Byte)) |>.map fun x => x.2

/-- Forwarding of a space-0 access (R160): all bytes in own stores, none of them, or only some. -/
inductive Fwd where
  | full (bs : List Byte)
  | none
  | part

/-- Forwarding of n bytes from address a. -/
def Proc.forward (q : Proc) (a n : Nat) : Fwd :=
  let bs := (List.range n).map fun i => q.ownByte (a + i)
  if bs.all Option.isSome then .full (bs.filterMap id)
  else if bs.all Option.isNone then .none
  else .part

/-- Move combining-buffer lines into the store buffer, each as one entry (R170): none where there is no room. -/
def Proc.drainComb (q : Proc) (pick : Comb → Bool) : Option Proc :=
  let go := q.comb.filter pick
  if q.sbRoom go.length then
    let asEntry (c : Comb) : SbItem :=
      .entry { sn := c.sn, space := 0, node := 0, seg := c.seg, acc := 2, persist := c.persist, comb := true, bytes := c.bytes }
    some { q with comb := q.comb.filter fun c => !pick c, sb := q.sb ++ go.map asEntry }
  else none

/-- The line of the combining buffer that an access touches drains first (R170). -/
def Proc.drainFor (q : Proc) (a : Acc) (n : Nat) : Option Proc :=
  if a.space = 0 then q.drainComb fun c => decide (c.line = a.addr / 96 ∨ c.line = (a.addr + n - 1) / 96) else some q

/-- The host lines that n bytes from an address touch, as (address, length) pieces (R314). -/
def hostPieces (a n : Nat) : List (Nat × Nat) :=
  (List.range ((a + n + 63) / 64 - a / 64)).map fun i =>
    let lo := max a (64 * (a / 64 + i))
    (lo, min (a + n) (64 * (a / 64 + i) + 64) - lo)

/-- A read of host memory leaves as one request for each host line it touches (R314). -/
def State.hostReads (s : State) (a n : Nat) : State :=
  (hostPieces a n).foldl (fun s (x, m) => s.out (.hostRead x m)) s

/-- A write of host memory leaves so (R314). -/
def State.hostWrites (s : State) (a : Nat) (bs : List Byte) : State :=
  (hostPieces a bs.length).foldl (fun s (x, m) => s.out (.hostWrite x ((bs.drop (x - a)).take m))) s

/-- Do earlier stores of the processor that are not performed overlap a load (R160)? -/
def Proc.overlapped (q : Proc) (l : Load) : Bool :=
  q.ownStores.any fun e => decide (e.sn < l.sn) && e.touches l.space l.node l.addr l.kind.size

/-- The request of an issued load leaves for its target, once (R160, R167, R172): its line is asked for, with ownership for LLW; host
memory, another node and a line that the cluster cannot hold are asked once no own store overlaps the load. -/
def State.loadAsk (s : State) (p : BitVec 6) (l : Load) : State :=
  let laps := (s.proc p).overlapped l
  let mark (s : State) : State := s.modProc p fun q =>
    { q with loads := q.loads.map fun x => if x.sn = l.sn then { x with asked := true, tick := s.ticks } else x }
  if l.asked then s
  else match s.loadLine l with
  | some key =>
    (match s.wantLine (cluOf p) key (decide (l.kind = .llw)) false p.toNat with
    | (.uncached, s) => if laps then s else mark (s.lineAsk key (.unc (p.zeroExtend 12)))
    | (_, s) => if (s.cline (cluOf p) key).isSome then mark s else s)
  | none =>
    if laps then s
    else if l.space = 3 then mark (s.hostReads l.addr l.kind.size)
    else if l.space = 4 then mark (s.rRead (.load p l.sn) l.node l.addr ((s.instOfProc p).getD 0) p.toNat)
    else mark s

/-- Must a further load wait at issue (R67): for the older of two loads without data, also when the younger one delivers first? -/
def Proc.loadStall (q : Proc) : Option Nat :=
  let out := q.loads.filter fun l => l.data.isNone
  match q.third with
  | some n => if out.any fun l => l.sn = n then some n else none
  | none => if out.length ≥ 2 then out.head?.map fun l => l.sn else none

/-- A load of format M (R61, R67, R86, R160): it issues, its data comes later. LLW asks for ownership, after a delay that it draws
where an SCW has failed before it (R172), and its data will set the reservation (R90). -/
def loadOp (p : BitVec 6) (f : MF) (kind : LKind) (s : State) : Res :=
  let dst : Reg := match kind with | .lfs | .lfd => .f f.rd | _ => .g f.rd
  s.issue p false false [.g f.ra] [dst] fun s =>
    let q := s.proc p
    let off := effOff (q.gR f.ra) f.disp
    match s.access p .load f.seg off kind.size kind.size q.ip with
    | .error d => s.setFault p d
    | .ok a =>
      match q.loadStall with
      | some n => s.setProc p { q with third := some n }
      | none =>
      match q.drainFor a kind.size with
      | none => s
      | some q =>
        let fwd := if a.space = 0 then (match q.forward a.addr kind.size with | .full bs => some bs | _ => none) else none
        let ld : Load := { kind := kind, rd := f.rd, seg := f.seg, space := a.space, node := a.node, addr := a.addr, off := off,
                           ip := q.ip, sn := q.sn, pos := 0, fwd := fwd, data := none, sup := false, tick := s.ticks }
        let ss := q.ss
        let line := (s.cacheLine a).isSome
        let draw : Bool := decide (kind = .llw) && q.scwFailed && line
        let q := if draw then { q with lfsr := lfsrStep q.lfsr, backoff := some ((lfsrStep q.lfsr).extractLsb' 0 6), scwFailed := false } else q
        let q := if kind = .llw then { q with resv := none, resvExc := false, resvFor := if line then some q.sn else none } else q
        let q := Proc.finish { q with ip := q.ip + 6, third := none } ss
        let s := s.setProc p { q with loads := q.loads ++ [ld] }
        if (fwd.isSome && decide (kind ≠ .llw)) || draw then s else s.loadAsk p ld

def execLb (p : BitVec 6) (f : MF) (s : State) : Res := loadOp p f .lb s
def execLbu (p : BitVec 6) (f : MF) (s : State) : Res := loadOp p f .lbu s
def execLh (p : BitVec 6) (f : MF) (s : State) : Res := loadOp p f .lh s
def execLhu (p : BitVec 6) (f : MF) (s : State) : Res := loadOp p f .lhu s
def execLw (p : BitVec 6) (f : MF) (s : State) : Res := loadOp p f .lw s
def execLfs (p : BitVec 6) (f : MF) (s : State) : Res := loadOp p f .lfs s
def execLfd (p : BitVec 6) (f : MF) (s : State) : Res := loadOp p f .lfd s
def execLlw (p : BitVec 6) (f : MF) (s : State) : Res := loadOp p f .llw s

/-- A store enters the store buffer with the address and class fixed (R53, R89, R157). -/
def State.pushStore (s : State) (p : BitVec 6) (q : Proc) (a : Acc) (seg : BitVec 4) (bs : List Byte) : State :=
  let e : Entry := { sn := q.sn, space := a.space, node := a.node, seg := seg, acc := 2,
                     persist := a.persist && decide (a.space = 0), comb := false, bytes := cellsAt a.addr bs }
  let ss := q.ss
  s.setProc p (Proc.finish { q with sb := q.sb ++ [.entry e], ip := q.ip + 6 } ss)

/-- A plain store of n bytes (R86). -/
def storeOp (p : BitVec 6) (f : MF) (n : Nat) (src : Reg) (val : Proc → Nat) (s : State) : Res :=
  s.issue p false false [.g f.ra, src] [] fun s =>
    let q := s.proc p
    let off := effOff (q.gR f.ra) f.disp
    match s.access p .store f.seg off n n q.ip with
    | .error d => s.setFault p d
    | .ok a =>
      match q.drainFor a n with
      | none => s
      | some q' => if q'.sbRoom 1 then s.pushStore p q' a f.seg (natLe n (val q)) else s

def execSb (p : BitVec 6) (f : MF) (s : State) : Res := storeOp p f 1 (.g f.rd) (fun q => (q.gR f.rd).toNat) s
def execSh (p : BitVec 6) (f : MF) (s : State) : Res := storeOp p f 3 (.g f.rd) (fun q => (q.gR f.rd).toNat) s
def execSw (p : BitVec 6) (f : MF) (s : State) : Res := storeOp p f 6 (.g f.rd) (fun q => (q.gR f.rd).toNat) s
def execSfs (p : BitVec 6) (f : MF) (s : State) : Res := storeOp p f 4 (.f f.rd) (fun q => (q.fR f.rd).toNat) s
def execSfd (p : BitVec 6) (f : MF) (s : State) : Res := storeOp p f 8 (.f f.rd) (fun q => (q.fR f.rd).toNat) s

/-- STNT (R93, R169, R170): a space-0 word goes through the combining buffer; in any other space it is SW. -/
def execStnt (p : BitVec 6) (f : MF) (s : State) : Res :=
  s.issue p false false [.g f.ra, .g f.rd] [] fun s =>
    let q := s.proc p
    let off := effOff (q.gR f.ra) f.disp
    match s.access p .store f.seg off 6 6 q.ip with
    | .error d => s.setFault p d
    | .ok a =>
      let bs := wordLe (q.gR f.rd)
      if a.space ≠ 0 then (if q.sbRoom 1 then s.pushStore p q a f.seg bs else s)
      else
        let l := a.addr / 96
        let room : Option Proc :=
          if q.comb.any (fun c => c.line = l) then some q
          else if q.comb.length < 4 then some q
          else match q.comb with
            | c :: _ => q.drainComb fun x => decide (x.line = c.line)
            | [] => some q
        match room with
        | none => s
        | some q =>
          let comb := if q.comb.any (fun c => c.line = l) then
              q.comb.map fun c => if c.line = l then
                { c with bytes := mergeCells c.bytes (cellsAt a.addr bs), persist := c.persist || a.persist, sn := q.sn } else c
            else q.comb ++ [{ line := l, bytes := cellsAt a.addr bs, persist := a.persist, seg := f.seg, sn := q.sn }]
          let q := { q with comb := comb }
          let full : Bool := q.comb.any fun c => decide (c.line = l) && decide (c.bytes.length = 96)
          match (if full then q.drainComb fun c => decide (c.line = l) else some q) with
          | none => s
          | some q =>
            let ss := q.ss
            s.setProc p (Proc.finish { q with ip := q.ip + 6 } ss)

/-- SCW without a valid reservation on its address stores nothing (R91). A failure for any cause but an exception, interrupt or
retry delays the next LLW (R172). -/
def State.scwFail (s : State) (p : BitVec 6) (rd : BitVec 5) : State :=
  s.simple p fun q => Proc.gW { q with resv := none, resvFor := none, scwFailed := !q.resvExc, resvExc := false } rd 0

/-- SCW has stored (R91). -/
def State.scwDone (s : State) (p : BitVec 6) (rd : BitVec 5) : State :=
  s.simple p fun q => Proc.gW { q with resv := none, resvFor := none, resvExc := false, scwFailed := false } rd 1

/-- The lowest slot number not in use (R158: 8 slots). -/
def Proc.freeSlot (q : Proc) : Option Nat := (List.range 8).find? fun i => !(q.slots.any fun x => x.id = i)

/-- A persist write of a processor's lines to capture before a PBAR ends while the hold-up check has not passed (R165). -/
def Proc.writesPersist (q : Proc) (l : Nat) (persist : Bool) : Proc :=
  if persist then { q with unclosed := insNat q.unclosed l } else q

/-- The persist grant for a line that the cluster holds: its PG, or the home's answer (R255). -/
def State.linePg (s : State) (k l : Nat) (persist : Bool) : Bool × State :=
  if !persist || ((s.cline k l).any fun c => c.pg) then (true, s)
  else match s.grantOr l (cluAg k) with
    | (true, s) => (true, match s.cline k l with | some c => s.setLine k l { c with pg := true } | none => s)
    | r => r

/-- SCW with its reservation valid writes its line, once the cluster owns it (R91, R156): in MA the store stays in a slot until the
last acknowledgement, and a space-4 store waits for it (R156 note a). -/
def State.scwStore (s : State) (p : BitVec 6) (f : MF) (a : Acc) (l : Nat) : State :=
  let k := cluOf p
  let core := s.hostCore p
  let q := s.proc p
  let bs := cellsAt a.addr (wordLe (q.gR f.rd))
  let rel := bs.map fun (x, b) => (x % 96, b)
  match s.wantLine k l true false p.toNat with
  | (.waiting, s) => s
  | (.ready, s) =>
    let ma : Bool := (s.cline k l).any fun c => decide (c.st = .ma)
    if s.l1dWait core l || (ma && (decide (a.space ≠ 0) || q.freeSlot.isNone)) then s
    else match s.linePg k l a.persist with
      | (false, s) => s
      | (true, s) =>
        let e : Entry := { sn := q.sn, space := a.space, node := a.node, seg := f.seg, acc := 2, persist := a.persist, comb := false, bytes := bs }
        let s := s.modProc p fun q =>
          let q := q.writesPersist l a.persist
          match q.freeSlot with
          | some i => if ma then { q with slots := q.slots ++ [⟨i, [{ e := e, st := .inCluster, tick := s.ticks }], true⟩] } else q
          | none => q
        (s.cluWrite k l (some core) (some p) rel).scwDone p f.rd
  | (.uncached, s) =>
    if s.writeNow l then
      match (if a.persist then s.grantOr l (.unc (p.zeroExtend 12)) else (true, s)) with
      | (false, s) => s
      | (true, s) => ((s.pokeLine l rel false p.toNat).modProc p fun q => q.writesPersist l a.persist).scwDone p f.rd
    else s.lineClear l (.unc (p.zeroExtend 12))

/-- SCW (R91): the checks of a word store; with a valid reservation on the address it stores once its line is owned,
waiting at issue until then, and until no store barrier's marker stands before it (R162). The status is visible at once. -/
def execScw (p : BitVec 6) (f : MF) (s : State) : Res :=
  s.issue p false false [.g f.ra, .g f.rd] [.g f.rd] fun s =>
    let q := s.proc p
    let off := effOff (q.gR f.ra) f.disp
    match s.access p .store f.seg off 6 6 q.ip with
    | .error d => (s.setFault p d).modProc p fun q => { q with resv := none, resvFor := none }
    | .ok a =>
      match q.drainFor a 6 with
      | none => s
      | some q =>
        let s := s.setProc p q
        match s.cacheLine a with
        | none => s.scwFail p f.rd
        | some l =>
          if q.resv ≠ some (96 * l + a.addr % 96) then s.scwFail p f.rd
          else if (q.sb.any fun x => match x with | .marker _ _ => true | _ => false) ||
              q.ownStores.any (fun e => e.touches a.space a.node (96 * (a.addr / 96)) 96) then s
          else s.scwStore p f a l

/-- Are all earlier stores of the slots at the stage of a scope (R161)? Only a space-0 store can be performed in cluster before it is
in system (R156 note a). -/
def Proc.slotsAt (q : Proc) (sc : BitVec 2) (sn : Nat) : Bool :=
  q.slots.all fun x => x.ents.all fun y =>
    decide (sn ≤ y.e.sn) ||
    (match sc.toNat with
      | 0 => true
      | 1 => decide (y.st = .inCluster)
      | _ => false)

/-- Has every earlier persist-class store entered the persistence domain (R164, R165)? While the hold-up check has
not passed, every line they wrote must have been captured by a closed epoch. -/
def State.persisted (s : State) (q : Proc) (sn : Nat) : Bool :=
  !(q.entries.any fun e => e.persist && decide (e.sn < sn)) &&
  !(q.slots.any fun x => !x.granted && x.entries.any fun e => e.persist && decide (e.sn < sn)) &&
  ((s.rg (aTun 0x40)).getLsbD 3 || (q.unclosed.isEmpty && !(q.slots.any fun x => x.entries.any fun e => e.persist && decide (e.sn < sn))))

/-- Has the wait of a barrier ended (R161, R162, R164; R109 for earlier CMOs at system scope)? -/
def State.barDone (s : State) (p : BitVec 6) (b : BarWait) : Bool :=
  let q := s.proc p
  (b.store || ((q.loads.all fun l => l.data.isSome) &&
    !(q.entries.any fun e => decide (e.sn < b.sn)) && q.slotsAt b.sc b.sn)) &&
  (!b.pbar || s.persisted q b.sn) && (decide (b.sc ≠ 2) || decide (q.cmos = 0))

/-- A barrier completes (R95), with the barrier fault if its wait covered a dropped store (R168). The count goes only when the fault
is taken: one that an interrupt outranks is found again when the barrier executes again (R136). -/
def State.barFinish (s : State) (p : BitVec 6) (b : BarWait) : State :=
  let q := s.proc p
  let covers : Bool := (!b.store || b.pbar) && decide (q.drops ≠ 0) && (decide (b.sc ≠ 0) && !b.store || (b.pbar && q.dropP))
  if covers then
    let d := q.drop1.getD { space := 0, seg := 0, acc := 2, paddr := 0 }
    let due : Due := { code := 0x0A, xip := q.ip, paddr := d.paddr, seg := d.seg, acc := d.acc, info := BitVec.ofNat 16 (min q.drops 0xFFFF) }
    s.setProc p { q with bar := none, fault := some due }
  else
    let ss := q.ss
    s.setProc p (Proc.finish { q with bar := none, ip := q.ip + 6 } ss)

/-- BAR and PBAR (R94, R95, R161 to R165): the combining buffer moves into the store buffer first, a store barrier
places its marker, the barrier then completes or holds the issue stage. -/
def barOp (p : BitVec 6) (f : BarF) (pbar : Bool) (s : State) : Res :=
  s.issue p (f.rd ≠ 0 ∨ f.ra ≠ 0 ∨ f.rb ≠ 0 ∨ f.fnHi ≠ 0 ∨ f.z ≠ 0 ∨ f.sc = 3) false [] [] fun s =>
    let q := s.proc p
    match q.drainComb fun _ => true with
    | none => s
    | some q =>
      let b : BarWait := { pbar := pbar, store := f.store, sc := f.sc, sn := q.sn }
      let q := if f.store then { q with sb := q.sb ++ [.marker f.sc q.sn] } else q
      let s := s.setProc p q
      if s.barDone p b then s.barFinish p b else s.setProc p { q with bar := some b }

def execBar (p : BitVec 6) (f : BarF) (s : State) : Res := barOp p f false s
def execPbar (p : BitVec 6) (f : BarF) (s : State) : Res := barOp p f true s

/-- A waiting barrier's wait ends (R162, R164). -/
def execBarrierComplete (p : BitVec 6) (s : State) : Res :=
  .next (match (s.proc p).bar with
    | some b => if s.barDone p b then s.barFinish p b else s
    | none => s)

/-- The tag by which a posted line's answer finds its slot. -/
def slotTag (p : BitVec 6) (id : Nat) : Nat := 100 + 8 * p.toNat + id

/-- Send a slotted entry to its home without ownership: a drained combining-buffer line, or a store of a cluster that
cannot hold the line (R170, R178 step 4, R189). Only an entry that is a whole line by itself replaces one (R195). -/
def State.sendPosted (s : State) (p : BitVec 6) (id l : Nat) (e : Entry) : State :=
  let rel := e.bytes.map fun (a, b) => (a % 96, b)
  let full : Bool := decide (rel.length = 96)
  (s.modProc p fun q => q.writesPersist l e.persist).send
    { src := .ag (cluAg (cluOf p)), dst := s.homeNode l, kind := if full then .wrF else .wrP, line := l,
      req := cluAg (cluOf p), data := if full then rel.map fun x => x.2 else [], bytes := if full then [] else rel,
      tag := slotTag p id, mast := some p.toNat }

/-- Does an older load of the same processor still wait for the bytes a store is about to write? The store then waits
(CoRW within one processor, R159). -/
def Proc.loadWaits (q : Proc) (e : Entry) : Bool :=
  q.loads.any fun l => l.data.isNone && l.fwd.isNone && decide (l.sn < e.sn) && e.touches l.space l.node l.addr l.kind.size

/-- Relative bytes of an entry in its line. -/
def Entry.rel (e : Entry) : List Host.Cell := e.bytes.map fun (a, b) => (a % 96, b)

/-- Replace the entries of a slot; one without entries is free. -/
def Proc.setEnts (q : Proc) (n : Nat) (ents : List SEnt) : Proc :=
  { q with slots := (q.slots.map fun x => if x.id = n then { x with ents := ents } else x).filter fun x => !x.ents.isEmpty }

/-- The entries at the head of a slot that the cluster's ownership of the line lets be written together: those before the first
line of the combining buffer. -/
def Slot.owned (x : Slot) : List SEnt := x.ents.takeWhile fun y => !y.e.comb && decide (y.st = .waiting ∨ y.st = .grantWait)

/-- The head entry of a slot goes to its home by itself, once its persist grant is held (R170, R189, R255). -/
def State.slotPost (s : State) (p : BitVec 6) (x : Slot) (l : Nat) (y : SEnt) : State :=
  if y.e.persist && !x.granted then s
  else (s.modProc p fun q => q.setEnts x.id ({ y with st := .sent } :: x.ents.drop 1)).sendPosted p x.id l y.e

/-- Ownership of a slot's line is here (R158, R201, R255): its first entries are written oldest first, provided a persist-class one
has its grant; in MA a space-0 entry stays until the last acknowledgement, and a space-4 one waits (R156 note a). -/
def State.slotWrite (s : State) (p : BitVec 6) (x : Slot) (l : Nat) (c : CLine) : State :=
  let k := cluOf p
  let core := s.hostCore p
  let pre := x.owned
  let post := x.ents.drop pre.length
  let pst : Bool := pre.any fun y => y.e.persist
  if s.l1dWait core l || (decide (c.st = .ma) && pre.any fun y => decide (y.e.space ≠ 0)) then s
  else if pst && !(x.granted || c.pg) then
    s.modProc p fun q => q.setEnts x.id ((pre.map fun y => { y with st := .grantWait }) ++ post)
  else
    let s := if pst then s.setLine k l { c with pg := true } else s
    let s := pre.foldl (fun s y => s.cluWrite k l (some core) (some p) y.e.rel) s
    s.modProc p fun q => (q.writesPersist l pst).setEnts x.id
      ((if c.st = .ma then pre.map fun y => { y with st := .inCluster } else []) ++ post)

/-- A slot moves on (R158, R201): its head is written once the cluster owns the line, goes to the home where the cluster cannot hold
it or where it is a line of the combining buffer, is over when the home's word has come, or when the line has left MA. A slot
whose line the cluster has lost or could not ask for yet asks again. -/
def State.slotGo (s : State) (p : BitVec 6) (n : Nat) : State :=
  let k := cluOf p
  match (s.proc p).slots.find? fun x => x.id = n with
  | none => s
  | some x =>
    match x.ents with
    | [] => s
    | y :: rest =>
      match s.entryLine y.e with
      | none => s
      | some l =>
        match y.st with
        | .sent =>
          (match takeMsg (fun m => m.kind = .done ∧ m.tag = slotTag p n ∧ m.line = l) [] s.net with
          | some (_, net) => ({ s with net := net } : State).modProc p fun q => q.setEnts n rest
          | none => s)
        | .inCluster =>
          if (s.cline k l).any fun c => c.st = .ma then s
          else s.modProc p fun q => q.setEnts n (x.ents.dropWhile fun y => y.st = .inCluster)
        | _ =>
          if y.e.comb then s.slotPost p x l y
          else match s.wantLine k l true false p.toNat with
            | (.ready, s) => (match s.cline k l with
                | some c => s.slotWrite p x l c
                | none => s)
            | (.waiting, s) => s
            | (.uncached, s) => s.slotPost p x l y

/-- An entry goes into a slot of its own (R158): nothing while all 8 are busy. -/
def State.newSlot (s : State) (p : BitVec 6) (q : Proc) (e : Entry) (st : SlotStage) (granted : Bool) : Option (Nat × State) :=
  q.freeSlot.map fun i => (i, s.setProc p { q with slots := q.slots ++ [⟨i, [{ e := e, st := st, tick := s.ticks }], granted⟩] })

/-- Where an entry's first byte goes. -/
def Entry.at_ (e : Entry) : Nat := match e.bytes with | (x, _) :: _ => x | [] => 0

/-- The head of the store buffer departs (R158, R162, R255). -/
def State.depart (s : State) (p : BitVec 6) : State :=
  let q := s.proc p
  match q.sb with
  | [] => s
  | .marker sc sn :: rest =>
    if q.slotsAt sc sn then s.setProc p { q with sb := rest } else s
  | .entry e :: rest =>
    if q.loadWaits e then s else
    let k := cluOf p
    let pop : Proc := { q with sb := rest }
    match s.entryLine e with
    | none =>
      -- spaces 2 to 4: a posted write
      (match s.newSlot p pop e .sent true with
      | none => s
      | some (i, s) =>
        if e.space = 3 then (if s.cxl.gpf ∨ s.mstat 1 then s else s.hostWrites e.at_ (e.bytes.map fun x => x.2))
        else if e.space = 4 then s.rWrite (.store p i) e.node (e.at_ / 96) ((s.instOfProc p).getD 0) p.toNat e.bytes
        else s)
    | some l =>
      let n := s.hostCore p
      let line := s.cline k l
      let l1 : Bool := match spGet (s.core n).dc l with | some x => decide (x.st ≠ .s) | none => false
      let own : Bool := !s.hidden k l && line.any fun c => decide (c.st = .m ∨ c.st = .e)
      let pg : Bool := !e.persist || (own && !e.comb && line.any fun c => c.pg)
      match q.slots.find? fun x => x.entries.any fun y => s.entryLine y = some l with
      | some x => s.setProc p { pop with slots := pop.slots.map fun y => if y.id = x.id then
          { y with ents := y.ents ++ [{ e := e, tick := s.ticks }], granted := y.granted && pg } else y }
      | none =>
        if !e.comb && l1 && own && pg then
          (s.setProc p (pop.writesPersist l e.persist)).cluWrite k l (some n) (some p) e.rel
        else match s.newSlot p pop e .waiting pg with
          | none => s
          | some (i, s) => s.slotGo p i

def execStoreDepart (p : BitVec 6) (s : State) : Res := .next (s.depart p)

def execOwnershipArrival (p : BitVec 6) (n : Nat) (s : State) : Res := .next (s.slotGo p n)

/-- One slotted store is dropped (R166, R168): it is counted, event 0x0131. -/
def State.dropStore (s : State) (p : BitVec 6) (e : Entry) : State :=
  let d : Drop := { space := e.space, seg := e.seg, acc := e.acc, paddr := BitVec.ofNat 48 e.at_ }
  let s := s.modProc p fun (q : Proc) => { q with drops := q.drops + 1, drop1 := some (q.drop1.getD d), dropP := q.dropP || e.persist }
  s.event { code := 0x0131, sev := 2, cls := 3, blk := cluBlk p, master := p.toNat, addr := e.at_, acc := 2,
            space := e.space.toNat, inst := s.instOfProc p, pay := [(48, e.at_), (3, e.space.toNat), (12, p.toNat)] }

/-- The stores that `pick` names in a slot are dropped, each by itself; a message that carries one and has not reached its home goes
with it. -/
def State.dropStores (s : State) (p : BitVec 6) (x : Slot) (pick : SEnt → Bool) : State :=
  let posted : Bool := x.ents.any fun y => pick y && decide (y.st = .sent)
  let t := slotTag p x.id
  let s : State := if posted then { s with net := s.net.filter (fun m => m.tag ≠ t), parked := s.parked.filter fun m => m.tag ≠ t } else s
  let s := s.modProc p fun q => q.setEnts x.id (x.ents.filter fun y => !pick y)
  (x.ents.filter pick).foldl (fun s y => s.dropStore p y.e) s

/-- A whole slot is dropped. -/
def State.dropSlot (s : State) (p : BitVec 6) (x : Slot) : State := s.dropStores p x fun _ => true

/-- Has the time-out of a slotted store run out (R166)? It counts only while the target has given no response: a store that is
written or whose line the cluster owns has had its response, one whose request the home holds, for its persist grant too, is
still being worked on (R164, R210), and the Mbova block answers Pending for a request that is outstanding (R447). -/
def State.storeLate (s : State) (p : BitVec 6) (x : Slot) (y : SEnt) : Bool :=
  decide (y.tick + 50 ≤ s.ticks) && !y.ans && decide (y.st = .waiting ∨ y.st = .sent) && !(s.rops.any fun r => r.who = .store p x.id) &&
  (match s.entryLine y.e with
  | none => true
  | some l =>
    !((s.cline (cluOf p) l).any fun c => decide (y.st = .waiting) && c.st.writable) &&
    !((s.working l).contains (cluAg (cluOf p))) && !(s.net.any fun m => m.kind = .done ∧ m.tag = slotTag p x.id))

/-- Slotted stores without a response for 2 µs, 50 ticks, are dropped (R166). -/
def execStoreTimeout (p : BitVec 6) (n : Nat) (s : State) : Res :=
  .next (match (s.proc p).slots.find? fun x => x.id = n with
    | none => s
    | some x => if x.ents.any (s.storeLate p x) then s.dropStores p x (s.storeLate p x) else s)

/-- A load's poison consumed becomes due (R88): of several the oldest load's, and before a fault of the instruction at IP, which
stands behind every load. -/
def Proc.loadFault (q : Proc) (d : Due) : Proc :=
  match q.fault with
  | some e => (match e.sn, d.sn with
    | some m, some n => if m ≤ n then q else { q with fault := some d }
    | _, _ => { q with fault := some d })
  | none => { q with fault := some d }

/-- What an uncached request brought for a load that is gone is discarded; a forwarded one is closed (R208). -/
def State.forget (s : State) (l : Nat) (me : Agent) : State :=
  let gone (m : Msg) : Bool := decide (m.line = l ∧ m.req = me)
  let op : Bool := s.net.any fun m => gone m && m.op
  let s : State := { s with net := s.net.filter (fun m => !gone m), parked := s.parked.filter fun m => !gone m }
  if op then s.send { src := .ag me, dst := s.homeNode l, kind := .cmp, line := l, req := me } else s

/-- A load's data is poisoned, or counts as poisoned (R88, R167): poison consumed is due on the load, which is gone. What younger
instructions that executed behind it have done stands, and they execute again after RFE, because XIP is the load's: no rule
takes their effects back (R64, R65; DEDUCED, log 75). -/
def State.loadPoison (s : State) (p : BitVec 6) (n : Nat) (l : Load) (pa : Nat) : State :=
  let due : Due := { code := 0x0B, xip := l.ip, addr := l.off, paddr := BitVec.ofNat 48 pa, seg := l.seg, acc := 1, sn := some l.sn }
  s.modProc p fun q => (Proc.retireLoads { q with loads := listDrop1 q.loads n }).loadFault due

/-- Event 0x0132: a read of a processor has no answer (R167). -/
def State.readLost (s : State) (p : BitVec 6) (addr space : Nat) : State :=
  s.event { code := 0x0132, sev := 2, cls := 3, blk := cluBlk p, master := p.toNat, addr := addr, acc := 1,
            space := space, inst := s.instOfProc p, pay := [(48, addr), (3, space), (12, p.toNat)] }

/-- A load whose target gives no answer, or answers that it failed (R167, R447). -/
def State.loadLost (s : State) (p : BitVec 6) (n : Nat) (l : Load) : State :=
  let s := match s.loadLine l with | some k => s.forget k (.unc (p.zeroExtend 12)) | none => s
  (s.loadPoison p n l l.addr).readLost p l.addr l.space.toNat

/-- Has the time-out of a load run out (R167)? Its target was asked and has given no response, and no home works on it (R210). -/
def State.loadLate (s : State) (p : BitVec 6) (l : Load) : Bool :=
  l.data.isNone && l.asked && !l.ans && !(decide (l.space = 1) && s.tun.checking) && l.fwd.isNone && decide (l.tick + 50 ≤ s.ticks) && !(s.rops.any fun r => r.who = .load p l.sn) &&
  (match s.loadLine l with
  | some k => !((s.working k).contains (cluAg (cluOf p))) && !((s.working k).contains (.unc (p.zeroExtend 12))) &&
      !((s.cline (cluOf p) k).any fun c => c.st.readable)
  | none => true)

/-- An unanswered load for 2 µs (R167). -/
def execLoadTimeout (p : BitVec 6) (n : Nat) (s : State) : Res :=
  .next (match (s.proc p).loads[n]? with
    | none => s
    | some l => if s.loadLate p l then s.loadLost p n l else s)

/-- The data of a load arrives (R61, R62, R64, R88): poisoned it raises poison consumed with the line's address; otherwise it is
written once the shadow is over, and an older load of the same register that stands at most two positions before it is
superseded. LLW of a line that caches may hold sets the reservation, unless something ended it since (R90, R92). -/
def State.loadGets (s : State) (p : BitVec 6) (n : Nat) (l : Load) (bs : List Byte) (pois : Bool) : State :=
  if pois then s.loadPoison p n l (96 * (l.addr / 96))
  else
    let key := (s.loadLine l).map fun j => 96 * j + l.addr % 96
    s.modProc p fun (q : Proc) =>
      let mine : Bool := decide (l.kind = .llw ∧ q.resvFor = some l.sn)
      let loads := (listSet q.loads n { l with data := some bs }).map fun x =>
        if x.dst = l.dst ∧ x.sn < l.sn ∧ l.sn ≤ x.sn + 2 then { x with sup := true } else x
      Proc.retireLoads { q with loads := loads, resv := if mine then key else q.resv, resvFor := if mine then none else q.resvFor }

/-- The delay after a failed SCW ends and the waiting LLW asks for ownership (R172). -/
def execLlwBackoffExpiry (p : BitVec 6) (s : State) : Res :=
  let q := s.proc p
  .next (if q.backoff.isNone then s else
    let s := s.setProc p { q with backoff := none }
    match q.loads.find? fun l => l.kind = .llw ∧ l.asked = false with
    | some l => s.loadAsk p l
    | none => s)

end Sys2Proof.Machine
end

