-- ==== Sys2Proof/Machine/CacheCtl.lean ====
section
/-!
DEFINITION. Control of the caches (spec 07): disabling and enabling, way locking and power, the maintenance engine and
its jobs, CMO and CMR, the tag-parity search.
-/
namespace Sys2Proof.Machine

open Sys2Proof

/-- L1CTL.DST and IST (R181). -/
def Proc.dst (q : Proc) : Nat := fld (q.crGet 96) 3 2
def Proc.ist (q : Proc) : Nat := fld (q.crGet 96) 1 0
def Proc.setDst (q : Proc) (v : Nat) : Proc := q.crSet 96 (setFld (q.crGet 96) 3 2 v)
def Proc.setIst (q : Proc) (v : Nat) : Proc := q.crSet 96 (setFld (q.crGet 96) 1 0 v)

/-- Does any job run or wait on a cluster's engine (CC[k]_MSTAT.BUSY)? -/
def Clu.engineBusy (q : Clu) : Bool := q.job.isSome || !q.ctlq.isEmpty

/-- Set CC[k]_MSTAT.LOST. -/
def State.mstatLost (s : State) (k : Nat) : State := s.sg (aCc k 0x38) (setBit (s.rg (aCc k 0x38)) 2 true)

/-- Invalidate the whole L1 instruction cache of a processor's core and its checker (R180, R188). -/
def State.clearIall (s : State) (p : BitVec 6) : State :=
  let s := s.modCore (s.hostCore p) fun q => { q with ic := [] }
  match s.chkCore p with
  | some n => s.modCore n fun q => { q with ic := [] }
  | none => s

/-- A control job for the agent that asks for it (R13 note a). -/
def ctlJob (a : Via) (k : JobK) : Job :=
  { k := k, master := BitVec.ofNat 12 (viaMaster a), byProc := match a with | .proc _ => true | _ => false }

/-- A write of L1CTL.DST by an agent (R187). -/
def State.dstWrite (s : State) (a : Via) (p : BitVec 6) (v : Nat) : State :=
  let q := s.proc p
  if v = 0 ∧ q.dst = 1 then
    (s.setProc p (q.setDst 2)).modClu (cluOf p) fun c => { c with ctlq := c.ctlq ++ [ctlJob a (.l1 (BitVec.ofNat 3 (slotOf p)))] }
  else if v = 1 ∧ q.dst = 0 then s.setProc p (q.setDst 1)
  else s

/-- A write of L1CTL.IST (R188). -/
def State.istWrite (s : State) (p : BitVec 6) (v : Nat) : State :=
  if v = 0 then (s.clearIall p).modProc p fun q => q.setIst 0
  else if v = 1 then s.modProc p fun q => q.setIst 1
  else s

/-- A write of L1INV (R180). -/
def State.l1invWrite (s : State) (p : BitVec 6) (v : Word) : State := if v.getLsbD 0 then s.clearIall p else s

/-- The offset of a processor's control register, where its host core's block has it (R30). -/
def State.crOff (s : State) (p : BitVec 6) (c : Nat) : Nat := aCore (s.hostCore p) (8 * c)

/-- A register write by an agent that reaches the register: `f` is its effect. -/
def State.onWrite (s : State) (a : Via) (off : Nat) (f : State → State) : Host.Outcome State Fault Refusal :=
  .next (if s.viaReach a off then f s else s)

def execL1DataDisable (a : Via) (p : BitVec 6) (s : State) : Res := s.onWrite a (s.crOff p 96) fun s => s.dstWrite a p 0
def execL1DataEnable (a : Via) (p : BitVec 6) (s : State) : Res := s.onWrite a (s.crOff p 96) fun s => s.dstWrite a p 1
def execL1InstructionDisable (a : Via) (p : BitVec 6) (s : State) : Res := s.onWrite a (s.crOff p 96) fun s => s.istWrite p 0
def execL1InstructionEnable (a : Via) (p : BitVec 6) (s : State) : Res := s.onWrite a (s.crOff p 96) fun s => s.istWrite p 1
def execL1invIall (a : Via) (p : BitVec 6) (s : State) : Res := s.onWrite a (s.crOff p 98) fun s => s.l1invWrite p 1

/-- A write of CC[k]_CTL.STATE (R189). -/
def State.ccCtlWrite (s : State) (a : Via) (k v : Nat) : State :=
  let st := s.ccState k
  if v = 0 ∧ st = 1 then
    (s.sg (aCc k 0) 2 1).modClu k fun c => { c with ctlq := c.ctlq ++ [ctlJob a .cache] }
  else if v = 1 ∧ st = 0 then s.sg (aCc k 0) 1 1
  else s

def execClusterCacheDisable (a : Via) (k : BitVec 3) (s : State) : Res :=
  s.onWrite a (aCc k.toNat 0) fun s => s.ccCtlWrite a k.toNat 0
def execClusterCacheEnable (a : Via) (k : BitVec 3) (s : State) : Res :=
  s.onWrite a (aCc k.toNat 0) fun s => s.ccCtlWrite a k.toNat 1

/-- A job runs for an agent: CC[k]_MSTAT.MASTER (R183). -/
def State.jobRuns (s : State) (k : Nat) (j : Job) : State :=
  s.sg (aCc k 0x38) (setFld (s.rg (aCc k 0x38)) 27 16 j.master.toNat)

/-- A job ends (R181, R183, R186): CC[k]_MSTAT.STATUS and MASTER, the STATUS that the processor which started it sees, and the
cluster line that MINT names. -/
def State.jobEnd (s : State) (k : Nat) (j : Job) (status : Nat) : State :=
  let s := s.jobRuns k j
  let s := s.sg (aCc k 0x38) (setFld (s.rg (aCc k 0x38)) 15 8 status)
  let s := if j.byProc && decide (j.master.toNat < 64) then
      s.modProc (j.master.setWidth 6) fun q => q.crSet 97 (setFld (q.crGet 97) 15 8 status) else s
  (s.modClu k fun c => { c with job := none }).raiseIn k (aCc k 0x40)

/-- A write of CC[k]_MOP (R184, R185): ignored with LOST while the engine is busy. A reserved operation is then a job that does
nothing and completes with FORMAT_ERROR, as R12 lays down for a request (DEDUCED, log 76: R182 says nothing of it). -/
def State.mopWrite (s : State) (a : Via) (k op : Nat) : State :=
  let base := (s.rg (aCc k 0x20)).toNat
  let len := (s.rg (aCc k 0x28)).toNat
  let j := ctlJob a (.range (BitVec.ofNat 4 op) base len)
  if (s.clu k).engineBusy then s.mstatLost k
  else if op > 2 then s.jobEnd k j 4
  else if len = 0 then s.jobEnd k j 0
  else if base + len > s.part.msBytes then s.jobEnd k j 7
  else (s.jobRuns k j).modClu k fun c => { c with job := some j }

def execMopClean (a : Via) (k : BitVec 3) (s : State) : Res := s.onWrite a (aCc k.toNat 0x30) fun s => s.mopWrite a k.toNat 0
def execMopCleanInvalidate (a : Via) (k : BitVec 3) (s : State) : Res :=
  s.onWrite a (aCc k.toNat 0x30) fun s => s.mopWrite a k.toNat 1
def execMopPreload (a : Via) (k : BitVec 3) (s : State) : Res := s.onWrite a (aCc k.toNat 0x30) fun s => s.mopWrite a k.toNat 2

/-- Ways that a waiting or running power job takes down (R193); a job that asks for more than 12 will take down none (R192). -/
def State.pwrGoing (s : State) (k : Nat) : BitVec 16 :=
  let off := (s.rg (aCc k 0x18)).extractLsb' 16 16
  let of (j : Job) : BitVec 16 := match j.k with
    | .power r => if popFld (r.zeroExtend 48) 15 0 > 12 then 0 else r &&& ~~~off
    | _ => 0
  let q := s.clu k
  (q.ctlq.foldl (fun a j => a ||| of j) 0) ||| (match q.job with | some j => of j | none => 0)

/-- A write of CC[k]_LOCK (R191, R193): WAYS of more than 14 bits stays; locks of ways without power, or losing it, are
refused with REJ; REJ bits clear by writing 1. -/
def State.lockWrite (s : State) (k : Nat) (v : Word) : State :=
  let old := s.rg (aCc k 0x10)
  let ways : BitVec 16 := old.extractLsb' 0 16
  let rej : BitVec 16 := old.extractLsb' 16 16 &&& ~~~(v.extractLsb' 16 16)
  let want : BitVec 16 := v.extractLsb' 0 16
  let off : BitVec 16 := (s.rg (aCc k 0x18)).extractLsb' 16 16
  let gone : BitVec 16 := off ||| s.pwrGoing k
  let refused : BitVec 16 := want &&& ~~~ways &&& gone
  let legal : Bool := decide (popFld v 15 0 ≤ 14)
  let ways' := if legal then want &&& ~~~refused else ways
  let rej' := if legal then rej ||| refused else rej
  let s := s.sg (aCc k 0x10) (rej'.zeroExtend 48 <<< 16 ||| ways'.zeroExtend 48)
  -- an unlocked way's entries without a line are free again
  s.modClu k fun q => { q with lines := q.lines.filter fun (_, c) => c.st ≠ .i || ways'.getLsbD c.way.toNat }

def execCcLockWrite (a : Via) (k : BitVec 3) (v : BitVec 48) (s : State) : Res :=
  s.onWrite a (aCc k.toNat 0x10) fun s => s.lockWrite k.toNat v

/-- A write of CC[k]_PWR (R184, R192): ignored with LOST while a power job waits or runs; a change queues a job that
holds the previous REQ. -/
def State.pwrWrite (s : State) (a : Via) (k : Nat) (v : Word) : State :=
  let q := s.clu k
  let isP (j : Job) : Bool := match j.k with | .power _ => true | _ => false
  if q.ctlq.any isP || (match q.job with | some j => isP j | none => false) then s.mstatLost k
  else
    let old := s.rg (aCc k 0x18)
    let req : BitVec 16 := v.extractLsb' 0 16
    if req = old.extractLsb' 0 16 then s
    else (s.sg (aCc k 0x18) (setFld old 15 0 req.toNat)).modClu k fun c => { c with ctlq := c.ctlq ++ [ctlJob a (.power req)] }

def execCcPwrWrite (a : Via) (k : BitVec 3) (v : BitVec 48) (s : State) : Res :=
  s.onWrite a (aCc k.toNat 0x18) fun s => s.pwrWrite a k.toNat v

/-- The directory loses a cluster's copy, as WB (`wrote`) or EvC leaves it (R205); a member's line that no cluster keeps goes
back to its home (R217). -/
def State.dirLose (s : State) (k l : Nat) (wrote : Bool) : State :=
  let d := s.dirOf l
  let a := cluAg k
  let gone (s : State) (d : Dir) (wrote : Bool) : State :=
    (s.remoteBack l wrote).setDir l { d with st := .free, owner := .none, rem := .free, rdat := none, rw := false }
  match d.st with
  | .free => s
  | .s => let d' := d.share a false; if d'.noSharer then gone s d' (decide (d.rem = .o)) else s.setDir l d'
  | .em => if d.owns a then gone s d wrote else s
  | .o => if d.owns a then (if d.noSharer && !wrote then gone s d wrote else s.setDir l { d with st := .s, owner := .none, rem := if l < 2 ^ 44 then d.rem else .o })
          else s.setDir l (d.share a false)

/-- Clean and invalidate one line of cluster k at one moment: a dirty line goes to its home. True when it is
poisoned. -/
def State.purge (s : State) (k l : Nat) : Bool × State :=
  let s := s.checkLine k l
  match s.cline k l with
  | none => (false, s)
  | some c =>
    let s := (s.dropL1D k l none).dropL1I k l
    let dirty : Bool := c.st = .m || c.st = .o
    let s := if dirty then s.homeWrite l c.data c.pois else s
    let s := if c.st = .i then s else s.dirLose k l dirty
    (dirty && c.pois, (s.killResvClu k l).dropLine k l)

/-- Are all lines of cluster k that `pick` names at rest? -/
def State.cluQuiet (s : State) (k : Nat) (pick : Nat → CLine → Bool) : Bool :=
  (s.clu k).lines.all fun (l, c) => !pick l c || s.quietLine l

/-- Purge every line of cluster k that `pick` names. -/
def State.purgeAll (s : State) (k : Nat) (pick : Nat → CLine → Bool) : Bool × State :=
  (s.clu k).lines.foldl (fun (b, s) (l, c) => if pick l c then (let (b', s) := s.purge k l; (b || b', s)) else (b, s)) (false, s)

/-- A line of cluster k moves to a way inside PALLOC (R185, R178); where none is powered it stays. False while it must wait. -/
def State.preloadMove (s : State) (k l : Nat) (c : CLine) : Bool × State :=
  match s.victim k l true with
  | (.wait, _) => (false, s)
  | (.none, _) => (true, s)
  | (.way w old, r) =>
    if old.any fun j => ((s.cline k j).any fun x => x.st.buffered) && decide ((s.clu k).evbCount ≥ 16) then (false, s)
    else
      let s := s.ccLfsr k r
      let s := match old with | some j => s.evict k j | none => s
      (true, s.setLine k l { c with way := BitVec.ofNat 4 w })

/-- What the engine did about the present line of a range job: it waits, or the line is handled, poisoned or not. -/
inductive LineDone where
  | wait
  | done (pois : Bool)
deriving DecidableEq, Repr

/-- A clean, or clean and invalidate, of one line in every cache of the module (R109, R185): at once where only clusters hold it and
it is at rest, otherwise by a request of the job's master to the home. -/
def State.cleanStep (s : State) (j : Job) (inv : Bool) (l : Nat) : LineDone × Job × State :=
  let me : Agent := .unc j.master
  if j.sent then
    if s.asked l me then (.wait, j, s) else (.done (s.linePois l && !j.was), j, s)
  else if (if inv then s.writeNow l else s.readNow l) then
    let (z, s) := if inv then s.clinvLine l else s.cleanLine l
    (.done z, j, s)
  else if s.quietLine l then
    (.wait, { j with sent := true, was := s.linePois l },
      s.homeAct { src := .ag me, dst := s.homeNode l, kind := if inv then .clInv else .cln, line := l, req := me })
  else (.wait, j, s)

/-- A preload of one line into cluster k (R185): nothing while the cache is not enabled; a line in a way outside PALLOC moves; an
absent one is read from its home, under the master that started the job, into a way that R178 chooses for a preload. -/
def State.preloadStep (s : State) (k : Nat) (j : Job) (l : Nat) : LineDone × Job × State :=
  if s.ccState k ≠ 1 then (.done false, j, s) else
  let pal := fld (s.rg (aCc k 0x08) 0xFFFF) 15 0
  match s.cline k l with
  | some c =>
    if s.hidden k l then (.wait, j, s)
    else if c.st = .i then (let (w, s) := s.wantLine k l false true j.master.toNat; (if w = .uncached then .done false else .wait, { j with sent := true }, s))
    else if c.st.openTx && decide (c.st ≠ .ma) then (.wait, j, s)
    else if pal.testBit c.way.toNat then (.done (j.sent && c.pois), j, s)
    else if c.st.openTx then (.wait, j, s)
    else match s.preloadMove k l c with
      | (true, s) => (.done (j.sent && c.pois), j, s)
      | (false, s) => (.wait, j, s)
  | none =>
    let (w, s) := s.wantLine k l false true j.master.toNat
    (if w = .uncached then .done false else .wait, { j with sent := (s.cline k l).isSome }, s)

/-- The engine goes on with a range job, line after line, until one must wait (R185); at most `n` lines. -/
def State.rangeGo (s : State) (k : Nat) (j : Job) (op : BitVec 4) (ls : List Nat) : Bool × Job × State :=
  match ls with
  | [] => (true, j, s)
  | l :: rest =>
    match (if op = 2 then s.preloadStep k j l else s.cleanStep j (op = 1) l) with
    | (.wait, j, s) => (false, j, s)
    | (.done z, j, s) => s.rangeGo k { j with pos := j.pos + 1, pois := j.pois || z, sent := false, was := false } op rest

/-- Does poison show in a job's status (R186)? -/
def poisonStatus (b : Bool) : Nat := if b then 6 else 0

/-- The L1 data cache of a processor's core, and of its checker, is cleaned into the cluster cache and invalidated (R187): whether a
dirty line was poisoned (R186). -/
def State.l1Purge (s : State) (p : BitVec 6) : Bool × State :=
  let n := s.hostCore p
  let k := cluOf p
  let s := (s.core n).dc.foldl (fun s (l, x) => if x.st = .m then s.l1dCheck n l else s) s
  let bad : Bool := (s.core n).dc.any fun (l, x) => decide (x.st = .m) && (s.cline k l).any fun c => c.pois
  let s := (s.core n).dc.foldl (fun s (l, _) => s.killResvCore n l) s
  let s := s.modCore n fun q => { q with dc := [] }
  (bad, match s.chkCore p with | some c => s.modCore c fun q => { q with dc := [] } | none => s)

/-- The running job of cluster k ends with every line handled (R185 to R193); it waits while a line it needs is in use. -/
def State.maintEnd (s : State) (k : Nat) : State :=
  match (s.clu k).job with
  | none => s
  | some j =>
    match j.k with
    | .range op base len =>
      (match s.rangeGo k j op ((linesOf base len).drop j.pos) with
      | (true, j, s) => s.jobEnd k j (poisonStatus j.pois)
      | (false, j, s) => s.modClu k fun c => { c with job := some j })
    | .l1 slot =>
      let p : BitVec 6 := BitVec.ofNat 6 (8 * k + slot.toNat)
      let (b, s) := s.l1Purge p
      (s.modProc p fun q => q.setDst 0).jobEnd k j (poisonStatus b)
    | .cache =>
      if s.cluQuiet k fun _ _ => true then
        let (b, s) := s.purgeAll k fun _ _ => true
        let s := (List.range 9).foldl (fun s c => s.modCore (9 * k + c) fun q => { q with dc := [], ic := [] }) s
        let s := s.modClu k fun q => { q with lines := [] }
        (s.sg (aCc k 0) 0 1).jobEnd k j (poisonStatus b)
      else s
    | .power req =>
      let old := s.rg (aCc k 0x18)
      let off : BitVec 16 := old.extractLsb' 16 16
      let down : BitVec 16 := req &&& ~~~off
      let pick (_ : Nat) (c : CLine) : Bool := c.st ≠ .eb && c.st ≠ .sb && down.getLsbD c.way.toNat
      if s.cluQuiet k pick then
        let (b, s) := s.purgeAll k pick
        let s := s.modClu k fun q => { q with lines := q.lines.filter fun (_, c) => !(c.st = .i && down.getLsbD c.way.toNat) }
        let s := s.sg (aCc k 0x18) (setFld (setFld (s.rg (aCc k 0x18)) 31 16 req.toNat) 15 0 req.toNat)
        s.jobEnd k j (poisonStatus b)
      else s

def execMaintenanceJobEnd (k : BitVec 3) (s : State) : Res := .next (s.maintEnd k.toNat)

/-- The engine starts the next control job (R184, R192, R193): a power job of more than 12 ways, or of a locked way,
ends at once and REQ returns to its previous value, which is what OFF shows. -/
def State.ctlStart (s : State) (k : Nat) : State :=
  let q := s.clu k
  match q.job, q.ctlq with
  | none, j :: rest =>
    let s := (s.jobRuns k j).modClu k fun c => { c with job := some j, ctlq := rest }
    (match j.k with
    | .power req =>
      let old := s.rg (aCc k 0x18)
      let off : BitVec 16 := old.extractLsb' 16 16
      let lock : BitVec 16 := (s.rg (aCc k 0x10)).extractLsb' 0 16
      let back := s.sg (aCc k 0x18) (setFld old 15 0 off.toNat)
      if popFld (req.zeroExtend 48) 15 0 > 12 then back.jobEnd k j 4
      else if req &&& ~~~off &&& lock ≠ 0 then back.jobEnd k j 0x0E
      else s
    | _ => s)
  | _, _ => s

def execControlJobStart (k : BitVec 3) (s : State) : Res := .next (s.ctlStart k.toNat)

/-- The homes have searched for a lost tag (R196): a line that a directory records as modified or owned by the cluster,
in that set and not among the other ways' tags or the eviction buffer's (log 102), is poisoned at its home and the event is
DEFERRED; otherwise the entry was clean and the event is CORRECTED. The entry is invalidated with its L1 copies. -/
def State.searchEnd (s : State) (k : Nat) : State :=
  match (s.clu k).search with
  | none => s
  | some (set, way) =>
    let mine : List (Nat × CLine) := (s.clu k).lines.filter fun (l, _) => l % 2048 = set.toNat
    let inSet := mine.filter fun (_, c) => c.st ≠ .eb ∧ c.st ≠ .sb
    let others := mine.filter fun (_, c) => c.way ≠ way ∨ c.st = .eb ∨ c.st = .sb
    let lost := (s.dir.find? fun (l, d) => l % 2048 = set.toNat ∧ (d.st = .em ∨ d.st = .o) ∧ d.owner = .clu (BitVec.ofNat 3 k) ∧
      !(others.any fun (j, _) => j = l)).map fun x => x.1
    let clean : State := (inSet.filter fun (_, c) => c.way = way).foldl (fun s (l, _) =>
      (((s.dropL1D k l none).dropL1I k l).killResvClu k l).modClu k fun q => { q with lines := spDel q.lines l }) s
    let clean := clean.modClu k fun q => { q with search := none }
    let blk : Option Blk := some (.cc (BitVec.ofNat 3 k))
    match lost with
    | some l =>
      let s := (if l < 2 ^ 44 then clean.poisonLine l else clean.homeWrite l (List.replicate 96 0) true).dirLose k l true
      s.event { code := 0x0205, sev := 2, cls := 3, blk := blk, master := 8 * k, addr := 96 * l, space := 0,
                pay := [(11, set.toNat), (4, way.toNat)] }
    | none =>
      clean.event { code := 0x0204, sev := 1, cls := 1, blk := blk, master := 8 * k, pay := [(11, set.toNat), (4, way.toNat)] }

def execTagParitySearchComplete (k : BitVec 3) (s : State) : Res := .next (s.searchEnd k.toNat)

/-- CMO (R109): the checks of a one-byte access of kind 7; a line that caches may hold is cleaned, or cleaned and
invalidated, at its home; the request is complete when the home says so. -/
def cmoOp (p : BitVec 6) (f : CmoF) (kind : MK) (s : State) : Res :=
  s.issue p false true [.g f.ra] [] fun s =>
    let q := s.proc p
    match s.access p .cmo f.seg (effOff (q.gR f.ra) f.disp) 1 1 q.ip with
    | .error d => s.setFault p d
    | .ok a =>
      match q.drainFor a 1 with
      | none => s
      | some q =>
        let s := (s.setProc p q).simple p id
        match s.cacheLine a with
        | none => s
        | some l =>
          (s.modProc p fun q => { q with cmos := q.cmos + 1 }).send
            { src := .ag (cluAg (cluOf p)), dst := s.homeNode l, kind := kind, line := l, req := cluAg (cluOf p), tag := p.toNat + 1, mast := some p.toNat }

def execCmoClean (p : BitVec 6) (f : CmoF) (s : State) : Res := cmoOp p f .cln s
def execCmoClinv (p : BitVec 6) (f : CmoF) (s : State) : Res := cmoOp p f .clInv s

/-- IINV (R109): the line leaves the issuing core's L1 instruction cache, and its checker's. -/
def execCmoIinv (p : BitVec 6) (f : CmoF) (s : State) : Res :=
  s.issue p false true [.g f.ra] [] fun s =>
    let q := s.proc p
    match s.access p .cmo f.seg (effOff (q.gR f.ra) f.disp) 1 1 q.ip with
    | .error d => s.setFault p d
    | .ok a =>
      match q.drainFor a 1 with
      | none => s
      | some q =>
        let s := (s.setProc p q).simple p id
        match s.cacheLine a with
        | none => s
        | some l =>
          let s := s.modCore (s.hostCore p) fun c => { c with ic := spDel c.ic l }
          (match s.chkCore p with
          | some n => s.modCore n fun c => { c with ic := spDel c.ic l }
          | none => s)

/-- The checks of CMR (R110), in order. -/
def State.cmrCheck (s : State) (p : BitVec 6) (sg : BitVec 4) (a b : Word) : Option Due :=
  let q := s.proc p
  let d := q.seg sg.toNat
  let due (c : BitVec 6) (wv : Bool) (off pa : Word) : Option Due :=
    some { code := c, xip := q.ip, addr := off, paddr := pa, seg := sg, acc := 7, wv := wv }
  let last := a.toNat + b.toNat - 1
  let pa := d.w0.toNat + a.toNat
  let pl := d.w0.toNat + last
  if !d.present then due 0x05 false a 0
  else if d.space.toNat > 4 || (q.user && !d.w2.getLsbD 22) then due 0x04 false a 0
  else if d.space ≠ 0 then due 0x04 false a 0
  else if !d.right .cmo then due 0x04 false a 0
  else if last > d.w1.toNat then due 0x03 false (BitVec.ofNat 48 last) 0
  else if !s.inWindow p pa 1 then due 0x03 true a (BitVec.ofNat 48 pa)
  else if !s.inWindow p pl 1 then due 0x03 true (BitVec.ofNat 48 last) (BitVec.ofNat 48 pl)
  else none

/-- CMR (R110): checks, then the engine starts or the result is 0. -/
def cmrOp (p : BitVec 6) (f : CmrF) (op : BitVec 4) (s : State) : Res :=
  s.issue p (f.fnMid ≠ 0 ∨ f.z ≠ 0) true [.g f.ra, .g f.rb] [.g f.rd] fun s =>
    let q := s.proc p
    let a := q.gR f.ra
    let b := q.gR f.rb
    let done (s : State) (v : Word) : State := s.simple p fun q => q.gW f.rd v
    if b = 0 then done s 1
    else match s.cmrCheck p f.seg a b with
    | some d => s.setFault p d
    | none =>
      let pa := (q.seg f.seg.toNat).w0.toNat + a.toNat
      match q.drainComb fun c => decide (96 * c.line < pa + b.toNat ∧ pa < 96 * c.line + 96) with
      | none => s
      | some q =>
        let s := s.setProc p q
        let k := cluOf p
        if (s.clu k).engineBusy then done s 0
        else
          let j := ctlJob (.proc p) (.range op pa b.toNat)
          done ((s.jobRuns k j).modClu k fun c => { c with job := some j }) 1

def execCmrClean (p : BitVec 6) (f : CmrF) (s : State) : Res := cmrOp p f 0 s
def execCmrCleanInvalidate (p : BitVec 6) (f : CmrF) (s : State) : Res := cmrOp p f 1 s
def execCmrPreload (p : BitVec 6) (f : CmrF) (s : State) : Res := cmrOp p f 2 s

end Sys2Proof.Machine
end

