-- ==== Sys2Proof/Machine/System.lean ====
section
/-!
DEFINITION. Segment and system instructions (spec 03 R96, R97, R106 to R108), the control registers (R30 to R35, R132,
R181, R292) and the start of the micro-routines (R101).
-/
namespace Sys2Proof.Machine

open Sys2Proof

/-- The line that the cluster's controller would present to the processor (R140): the highest PRIO above IPRI among
pending, enabled lines that target it; the lower line breaks a tie. -/
def State.presented (s : State) (p : BitVec 6) : Option Nat :=
  if !s.hasProc p then none else
  let k := cluOf p
  let pri := fld ((s.proc p).crGet 32) 3 0
  let prio (j : Nat) : Nat := fld (s.iline k j) 14 11
  let cand := (List.range 48).filter fun j =>
    let v := s.iline k j
    v.getLsbD 15 && v.getLsbD 7 && decide (fld v 10 8 = slotOf p) && decide (pri < prio j)
  cand.foldl (fun best j => match best with
    | none => some j
    | some b => if prio b < prio j then some j else some b) none

/-- The mailbox interrupt of a processor (R144, R424): an active instance in whose configuration in force it is the
mailbox processor has an inbound message. -/
def State.mboxDue (s : State) (p : BitVec 6) : Bool :=
  (List.range 64).any fun i =>
    let c := (s.inst i).mbcfg
    decide (s.instState i ≠ 0) && c.getLsbD 17 && decide (c.extractLsb' 0 6 = p) && (s.rgVi i 0x1E8).getLsbD 0

/-- TCTL.PEND (R143). -/
def Proc.timPend (q : Proc) : Bool := (q.crGet 41).getLsbD 1

/-- What the agreement exchange has brought to both cores of a pair is there no longer when the input itself is not (R145, R283): a
later interrupt must pass the exchange again. -/
def State.seenFall (s : State) : State :=
  { s with procs := s.procs.map fun (i, (q : Proc)) =>
      let p : BitVec 6 := BitVec.ofNat 6 i
      (i, { q with extSeen := q.extSeen && (s.presented p).isSome, timSeen := q.timSeen && q.timPend,
                   mbxSeen := q.mbxSeen && s.mboxDue p }) }

/-- Clear PEND of a line. -/
def State.unpend (s : State) (k j : Nat) : State :=
  let d := BitVec.ofNat 48 (if j < 40 then 0 else (j - 40) <<< 8)
  let a := aClu k (0x100 + 8 * j)
  (s.sg a (setBit (s.rg a d) 15 false) d).seenFall

/-- A read of IACK (R141): the claim and its value. -/
def State.claim (s : State) (p : BitVec 6) : Word × State :=
  match s.presented p with
  | some j => (BitVec.ofNat 48 (64 + j), s.unpend (cluOf p) j)
  | none => (0, s)

/-- IPEND (R132): the lines that are pending, enabled and target the processor. -/
def State.ipend (s : State) (p : BitVec 6) : Word :=
  (List.range 48).foldl (fun w j =>
    let v := s.iline (cluOf p) j
    if v.getLsbD 15 && v.getLsbD 7 && decide (fld v 10 8 = slotOf p) then w ||| (1#48 <<< j) else w) 0

/-- A control register's value, and the state after reading it (R30 to R34, R132, R181, R292). -/
def State.crRead (s : State) (p : BitVec 6) (c : Nat) : Word × State :=
  let q := s.proc p
  let k := cluOf p
  match c with
  | 0 =>
    let inst := match s.instOfProc p with | some i => i | none => 0
    (BitVec.ofNat 48 (s.node.toNat * 2 ^ 23 + inst * 2 ^ 17 + b2n (s.checked k) * 2 ^ 16 + k * 2 ^ 13 + s.hostCore p * 64 + p.toNat), s)
  | 33 => s.claim p
  | 34 => (s.ipend p, s)
  | 67 =>
    let chk := match s.chkCore p with | some n => (if (q.crGet 1).getLsbD 1 || q.cpf then 15 else n % 9) | none => 15
    (BitVec.ofNat 48 (b2n q.cpf * 512 + chk * 16 + mapAt (s.map k) (slotOf p)), s)
  | 68 => (0, s)
  | 97 =>
    let mine : Bool := match (s.clu k).job with
      | some j => j.byProc && decide (j.master.toNat = p.toNat)
      | none => false
    (BitVec.ofNat 48 (fld (q.crGet 97) 15 8 * 256 + b2n mine * 2 + b2n (s.clu k).engineBusy), s)
  | 98 => (0, s)
  | _ => (q.crGet c, s)

/-- A write of CHKINJ (R294): in split mode MISM and CPF have no effect. -/
def State.chkinjWrite (s : State) (p : BitVec 6) (v : BitVec 3) : State :=
  let ok : BitVec 3 := if s.checked (cluOf p) then v else v &&& 4
  s.modProc p fun q => { q with inj := q.inj ||| ok }

/-- A request for a snapshot (R502): RDY clears; a request while one is in progress is absorbed. -/
def State.snapReq (s : State) (b : SnapBlk) : State :=
  if s.snaps.contains b then s else { s with snaps := s.snaps ++ [b] }

/-- A write of RSNAP.REQ (R293). -/
def State.rsnapWrite (s : State) (p : BitVec 6) : State :=
  (s.modProc p fun q => q.crSet 64 0).snapReq (.core p)

/-- May a control register be written by an agent now (R35)? MODE, DTB and DTL by others only while the processor is stopped. -/
def State.crOpen (s : State) (a : Via) (p : BitVec 6) (c : Nat) : Bool :=
  decide (a = .proc p) || !(c = 1 || c = 2 || c = 3) || (s.proc p).stopped

/-- An agent's write to a control register by number (R10, R31): its fields take the written values as their access codes say;
L1CTL, L1INV, RSNAP and CHKINJ act. -/
def State.crWrite (s : State) (a : Via) (p : BitVec 6) (c : Nat) (v : Word) : State :=
  if !s.crOpen a p c then s else
  match c with
  | 64 => if v.getLsbD 0 then s.rsnapWrite p else s
  | 68 => s.chkinjWrite p (v.extractLsb' 0 3)
  | 96 => (s.dstWrite a p (fld v 3 2)).istWrite p (fld v 1 0)
  | 98 => s.l1invWrite p v
  | _ => match crReg c with
    | some d => (s.modProc p fun q => q.crSet c (writeFlds false (q.crGet c) v d.flds)).seenFall
    | none => s

/-- Bytes of the main store as a load of the processor would read them (R46, R128 step 5, R160): from its own buffered and slotted
stores where they hold all of them, after those stores where they hold some, else from the caches, with poison. -/
def State.ownRead (s : State) (p : BitVec 6) (a n : Nat) : Option (List Byte × Bool) × State :=
  match (s.proc p).forward a n with
  | .full bs => (some (bs, false), s)
  | .part => (none, s)
  | .none => (linesOf a n).foldl (fun (r, s) l =>
      let lo := max a (96 * l)
      let (b, s) := s.procRead p l lo (min (a + n) (96 * l + 96) - lo)
      (match r, b with
        | some (d, z), some (e, y) => some (d ++ e, z || y)
        | _, _ => none, s)) (some ([], false), s)

/-- SEGLD (R46, R47, R96): the descriptor as a load of the processor would read it; it waits while own stores overlap
it in part or its line is on its way. XCAUSE.SEG of its faults is 0: R46 and R133 name no segment register for a read that goes
through none (DESIGN CHOICE, log 77). -/
def execSegld (p : BitVec 6) (f : RI) (s : State) : Res :=
  s.issue p (f.rd.getLsbD 4) true [.g f.ra] [] fun s =>
    let q := s.proc p
    let i := q.gR f.ra + f.imm.signExtend 48
    let dtb := (q.crGet 2).toNat
    let due (c : BitVec 6) (wv : Bool) (pa : Nat) : Due :=
      { code := c, xip := q.ip, addr := i, paddr := BitVec.ofNat 48 pa, acc := 4, wv := wv }
    if i.toNat ≥ fld (q.crGet 3) 23 0 then s.setFault p (due 0x03 false 0)
    else if dtb % 24 ≠ 0 then s.setFault p (due 0x06 false 0)
    else
      let a := dtb + 24 * i.toNat
      if !s.inWindow p a 24 then s.setFault p (due 0x03 true a)
      else
        let take (s : State) (bs : List Byte) : State :=
          let d : Seg := { w0 := lineWord bs 0, w1 := lineWord bs 1, w2 := lineWord bs 2, w3 := lineWord bs 3,
                           index := i.setWidth 24 }
          match (if d.present then descCheck d.w0 d.w1 d.w2 else none) with
          | some c => s.setFault p (due c false 0)
          | none => s.simple p fun q => q.setSeg (f.rd.toNat % 16) d
        match s.ownRead p a 24 with
        | (some (bs, pz), s) => if pz then s.setFault p (due 0x0B false a) else take s bs
        | (none, s) => s

/-- SEGIX (R97): ra names the segment register; rb, fn and the top bit of ra are zero. -/
def execSegix (p : BitVec 6) (f : RRF) (s : State) : Res :=
  s.issue p (f.z ≠ 0 ∨ f.rb ≠ 0 ∨ f.fn ≠ 0 ∨ f.ra.getLsbD 4) false [] [.g f.rd] fun s =>
    s.simple p fun q =>
      let d := q.seg (f.ra.toNat % 16)
      q.gW f.rd (BitVec.ofNat 48 (b2n d.present * 2 ^ 24 + d.index.toNat))

/-- RDPSW waits for the earlier multiplies and divides that R112 names. -/
def execRdpsw (p : BitVec 6) (f : RR) (s : State) : Res :=
  s.issue p (f.z ≠ 0 ∨ f.ra ≠ 0 ∨ f.rb ≠ 0) false [] [.g f.rd] fun s =>
    if (s.proc p).longs.any (fun x => x.psw) then s else s.simple p fun q => q.gW f.rd q.psw

/-- What WRPSW leaves (R27). -/
def wrPsw (old v : Word) : Word := if old.getLsbD 0 then (old &&& 0x07) ||| (v &&& 0x78) else v &&& 0x7F

def execWrpsw (p : BitVec 6) (f : RR) (s : State) : Res :=
  s.issue p (f.z ≠ 0 ∨ f.rd ≠ 0 ∨ f.rb ≠ 0) false [.g f.ra] [] fun s =>
    let ss := (s.proc p).ss
    if (s.proc p).longs.any (fun x => x.psw) then s
    else s.modProc p fun q => Proc.finish { q with psw := wrPsw q.psw (q.gR f.ra), ip := q.ip + 6 } ss

/-- RDFPSW and WRFPSW wait for every earlier floating instruction (R121). -/
def execRdfpsw (p : BitVec 6) (f : RR) (s : State) : Res :=
  s.issue p (f.z ≠ 0 ∨ f.ra ≠ 0 ∨ f.rb ≠ 0) false [] [.g f.rd] fun s =>
    if (s.proc p).longs.any (fun x => x.fp) then s else s.simple p fun q => q.gW f.rd q.fpsw

/-- What WRFPSW leaves (R28, R29): RM of 5 to 7 keeps the old mode. -/
def wrFpsw (old v : Word) : Word :=
  if fld v 2 0 > 4 then (v &&& 0x3FFF8) ||| (old &&& 7) else v &&& 0x3FFFF

def execWrfpsw (p : BitVec 6) (f : RR) (s : State) : Res :=
  s.issue p (f.z ≠ 0 ∨ f.rd ≠ 0 ∨ f.rb ≠ 0) false [.g f.ra] [] fun s =>
    if (s.proc p).longs.any (fun x => x.fp) then s
    else s.simple p fun q => { q with fpsw := wrFpsw q.fpsw (q.gR f.ra) }

/-- RDTIME (R107). -/
def execRdtime (p : BitVec 6) (f : RR) (s : State) : Res :=
  s.issue p (f.z ≠ 0 ∨ f.ra ≠ 0 ∨ f.rb ≠ 0) false [] [.g f.rd] fun s =>
    s.simple p fun q => q.gW f.rd s.tb

/-- The reservation goes for an exception, an interrupt, RFE or a retry (R92, R151, R172). -/
def Proc.dropResv (q : Proc) : Proc := { q with resvExc := q.resvExc || q.resv.isSome || q.resvFor.isSome, resv := none, resvFor := none }

/-- RFE (R131). -/
def execRfe (p : BitVec 6) (f : RR) (s : State) : Res :=
  s.issue p (f.z ≠ 0 ∨ f.rd ≠ 0 ∨ f.ra ≠ 0 ∨ f.rb ≠ 0) true [] [] fun s =>
    s.modProc p fun q =>
      let xi := q.crGet 24
      let d : Seg := { w0 := q.crGet 21, w1 := q.crGet 22, w2 := setBit (q.crGet 23) 21 (xi.getLsbD 24), w3 := 0,
                       index := xi.extractLsb' 0 24 }
      let ss := q.ss
      let q' : Proc := { q.dropResv with psw := q.crGet 17 &&& 0x7F, ip := q.crGet 16 }
      ((q'.setSeg 15 d).crSet 25 0).finish ss

/-- HALT (R108): the combining buffer drains; the processor stops behind it. -/
def execHalt (p : BitVec 6) (f : RR) (s : State) : Res :=
  s.issue p (f.z ≠ 0 ∨ f.rd ≠ 0 ∨ f.ra ≠ 0 ∨ f.rb ≠ 0) true [] [] fun s =>
    match (s.proc p).drainComb fun _ => true with
    | none => s
    | some q => (s.setProc p q).simple p fun q => { q with run := .halted }

/-- WAIT (R108): the combining buffer drains; IP stays at the WAIT until an interrupt is pending. -/
def execWait (p : BitVec 6) (f : RR) (s : State) : Res :=
  s.issue p (f.z ≠ 0 ∨ f.rd ≠ 0 ∨ f.ra ≠ 0 ∨ f.rb ≠ 0) true [] [] fun s =>
    match (s.proc p).drainComb fun _ => true with
    | none => s
    | some q => s.setProc p { q with run := .waiting }

/-- MFCR (R106). -/
def execMfcr (p : BitVec 6) (f : RI) (s : State) : Res :=
  s.issue p (f.ra ≠ 0 ∨ f.imm.toNat ≥ 512) true [] [.g f.rd] fun s =>
    let (v, s) := s.crRead p f.imm.toNat
    s.simple p fun q => q.gW f.rd v

/-- MTCR (R35, R106): in effect for the next instruction. -/
def execMtcr (p : BitVec 6) (f : RI) (s : State) : Res :=
  s.issue p (f.rd ≠ 0 ∨ f.imm.toNat ≥ 512) true [.g f.ra] [] fun s =>
    (s.simple p id).crWrite (.proc p) p f.imm.toNat ((s.proc p).gR f.ra)

/-- SVC and BRK (R106, R130): a fault that saves the next instruction, with its code in INFO. -/
def codeTrap (p : BitVec 6) (f : RI) (code : BitVec 6) (s : State) : Res :=
  s.issue p (f.rd ≠ 0 ∨ f.ra ≠ 0 ∨ f.imm.toNat ≥ 2 ^ 16) false [] [] fun s =>
    let q := s.proc p
    s.setFault p { code := code, xip := q.ip + 6, info := f.imm.setWidth 16 }

def execSvc (p : BitVec 6) (f : RI) (s : State) : Res := codeTrap p f 0x11 s
def execBrk (p : BitVec 6) (f : RI) (s : State) : Res := codeTrap p f 0x10 s

/-- A micro-routine's start (R101): its first marked boundary; setup follows with its first step. -/
def routineOp (p : BitVec 6) (f : RR) (fn : BitVec 3) (useA useB : Bool) (s : State) : Res :=
  s.issue p (f.z ≠ 0 ∨ f.rb ≠ 0 ∨ f.rd.getLsbD 4 ∨ f.ra.getLsbD 4 ∨ (useA = false ∧ f.rd ≠ 0) ∨ (useB = false ∧ f.ra ≠ 0)) false
    [.g 1, .g 2, .g 3, .g 4] [.g 1, .g 2, .g 3, .g 4] fun s =>
    s.modProc p fun q => { q with routine := some { fn := fn, a := f.rd.setWidth 4, b := f.ra.setWidth 4, started := false } }

def execBmove (p : BitVec 6) (f : RR) (s : State) : Res := routineOp p f 0 true true s
def execBfill (p : BitVec 6) (f : RR) (s : State) : Res := routineOp p f 1 true false s
def execBcmp (p : BitVec 6) (f : RR) (s : State) : Res := routineOp p f 2 true true s
def execBscan (p : BitVec 6) (f : RR) (s : State) : Res := routineOp p f 3 false true s
def execCksum (p : BitVec 6) (f : RR) (s : State) : Res := routineOp p f 4 false true s

end Sys2Proof.Machine
end

