-- ==== Sys2Proof/Machine/Exceptions.lean ====
section
/-!
DEFINITION. Taking an exception (spec 05, R127 to R137), the interrupt lines, the claim, inter-processor interrupts, the
timer and the mailbox (R138 to R145).
-/
namespace Sys2Proof.Machine

open Sys2Proof

/-- Is an instruction word legal (R41, R68, R69)? Reserved opcodes and functions, and fields that must be zero, are
not. -/
def legalWord (w : BitVec 48) : Bool :=
  let rd := fld w 39 35
  let ra := fld w 34 30
  let rb := fld w 29 25
  let fn := fld w 24 12
  let z := fld w 11 0
  let imm := fld w 29 0
  let cond := fld w 34 31
  match fld w 47 40 with
  | 0x01 => decide (z = 0) && [0, 1, 2, 3, 4, 8, 9, 10, 11, 12, 0x10, 0x11, 0x18, 0x19, 0x1A, 0x1B, 0x1C].contains fn &&
      (decide (fn ≠ 4) || decide (rb = 0))
  | 0x02 => decide (z = 0) && [0, 2, 3, 8, 9, 10, 11].contains fn
  | 0x08 | 0x09 | 0x0A | 0x0B | 0x0C | 0x0D | 0x0E => true
  | 0x0F => decide (ra = 0) && decide (imm < 2 ^ 24)
  | 0x10 | 0x11 | 0x12 | 0x13 => decide (imm < 64)
  | 0x20 | 0x21 | 0x22 | 0x23 | 0x24 | 0x25 | 0x26 | 0x27 | 0x28 | 0x29 | 0x2A | 0x2B | 0x2C | 0x2D | 0x2E => true
  | 0x30 => decide (cond < 8) || (decide (cond = 8) && decide (rd = 0))
  | 0x31 => decide (cond = 8)
  | 0x32 => decide (z = 0) && decide (rb = 0) && decide (fn = 0)
  | 0x38 => decide (z = 0) && [0, 1, 2, 3, 4, 5, 6, 8, 9, 10, 11, 12, 13, 14, 16, 17].contains (fn / 2) &&
      (!([4, 5, 6, 12, 13, 14, 16, 17].contains (fn / 2)) || decide (rb = 0))
  | 0x3B => decide (z = 0) && decide (fld w 19 15 = 0)
  | 0x40 => decide (z = 0) && decide (rd = 0) && decide (ra = 0) && decide (rb = 0) && decide (fn < 16) && decide (fn % 4 ≠ 3)
  | 0x48 => decide (z = 0) && decide (rd < 16) && decide (ra < 16) && decide (rb = 0) && decide (fn ≤ 4) &&
      (decide (fn ≠ 1) || decide (ra = 0)) && (decide (fn < 3) || decide (rd = 0))
  | 0x49 => decide (rd < 16)
  | 0x4A => decide (z = 0) && decide (rb = 0) && decide (fn = 0) && decide (ra < 16)
  | 0x50 => decide (z = 0) && decide (rb = 0) && (match fn with
      | 0 | 2 | 4 => decide (ra = 0)
      | 1 | 3 => decide (rd = 0)
      | 8 | 9 | 10 => decide (rd = 0) && decide (ra = 0)
      | _ => false)
  | 0x51 => decide (ra = 0) && decide (imm < 512)
  | 0x52 => decide (rd = 0) && decide (imm < 512)
  | 0x53 | 0x54 => decide (rd = 0) && decide (ra = 0) && decide (imm < 2 ^ 16)
  | 0x58 => decide (rd ≤ 2)
  | 0x59 => decide (z = 0) && decide (fld w 20 16 = 0) && decide (fld w 15 12 ≤ 2)
  | _ => false

/-- Which asynchronous interrupts are due (R135, R144); in checked mode only once the agreement exchange has brought
them to both cores (R145, R283). -/
def State.mbxNow (s : State) (p : BitVec 6) : Bool := s.mboxDue p && (!s.checked (cluOf p) || (s.proc p).mbxSeen)
def State.timNow (s : State) (p : BitVec 6) : Bool := (s.proc p).timPend && (!s.checked (cluOf p) || (s.proc p).timSeen)
def State.extNow (s : State) (p : BitVec 6) : Bool :=
  (s.presented p).isSome && (!s.checked (cluOf p) || (s.proc p).extSeen)

/-- The next instruction to execute: a load whose fault is due is executed again. -/
def Proc.nextIp (q : Proc) : Word :=
  match q.fault with
  | some d => if d.code = 0x0B ∧ d.acc = 1 then d.xip else q.ip
  | none => q.ip

/-- The barrier fault tells the drops of the moment it is taken (R133, R168). -/
def Proc.told (q : Proc) (d : Due) : Due :=
  if d.code = 0x0A then { d with info := BitVec.ofNat 16 (min q.drops 0xFFFF) } else d

/-- The highest-ranked exception due (R135). A completion trap and a single step save the next instruction in program order, the
others the next one to execute (R130). R133 does not say which KIND single step is: it is a trap here, as it comes after an
instruction (DESIGN CHOICE, log 77). -/
def State.chosen (s : State) (p : BitVec 6) : Option Due :=
  let q := s.proc p
  let mr : Bool := match q.routine with
    | some r => r.started
    | none => false
  let ip := q.nextIp
  let async : Bool := q.ie && q.interruptible
  let int (c : BitVec 6) : Option Due := some { code := c, xip := ip, kind := 2, mr := mr }
  match q.mcheck with
  | some d => some { d with xip := ip, mr := mr }
  | none =>
    match (if q.act then none else q.resume) with
    | some r => some { code := 0x12, xip := ip, kind := 3, info := r, mr := mr || q.resumeMr }
    | none =>
      match q.trap with
      | some d => some { d with xip := q.ip, mr := mr }
      | none =>
        if q.stepDue && !q.inShadow then some { code := 0x10, xip := q.ip, kind := 1, mr := mr }
        else if async && s.mbxNow p then int 0x0D
        else if async && s.timNow p then int 0x0E
        else if async && s.extNow p then int 0x0F
        else q.fault.map q.told

/-- XCAUSE of a due exception (R133). -/
def Due.cause (d : Due) : Word :=
  BitVec.ofNat 48 (d.info.toNat * 2 ^ 24 + d.seg.toNat * 2 ^ 15 + d.acc.toNat * 2 ^ 12 + b2n d.mr * 2 ^ 11 + b2n d.restart * 2 ^ 10 +
    d.kind.toNat * 2 ^ 8 + b2n d.wv * 2 ^ 6 + d.code.toNat)

/-- Steps 1 to 4 of R128: long instructions and loads complete, the saved registers are written, PSW.USER, IE and SS
clear, the reservation goes. What was due and outranked is discarded (R136), for its instruction executes again; but the fault of a
load that stands before the saved XIP of a trap or single step stays due (R135; DEDUCED, log 78). The drops that a barrier fault
tells are told (R168). -/
def Proc.saveState (q : Proc) (d : Due) : Proc :=
  let q := q.completeLongs.flushLoads
  let s15 := q.seg 15
  let q := q.crSet 16 d.xip
  let q := q.crSet 17 (q.psw &&& 0x7F)
  let q := q.crSet 18 d.cause
  let q := q.crSet 19 d.addr
  let q := q.crSet 20 d.paddr
  let q := q.crSet 21 s15.w0
  let q := q.crSet 22 s15.w1
  let q := q.crSet 23 s15.w2
  let q := q.crSet 24 (BitVec.ofNat 48 (b2n s15.present * 2 ^ 24 + s15.index.toNat))
  let q : Proc := { q.dropResv with psw := q.psw &&& ~~~7#48, run := .running,
                                    fault := (if d.kind = 1 then q.fault.filter (fun e => e.sn.isSome) else none), trap := none, stepDue := false }
  let q : Proc := if d.code = 0x0A then { q with drops := 0, drop1 := none, dropP := false } else q
  { q with third := none, mcheck := if d.code = 0x0C then none else q.mcheck, resume := if d.code = 0x12 then none else q.resume,
           resumeMr := q.resumeMr && d.code ≠ 0x12, bar := none, routine := none }

/-- A vector fault or a double fault (R129, R134): the processor stops as CONTAINED, event 0x0149 with the code that
could not be entered and XIP as it stands (R296 note a). -/
def State.entryFails (s : State) (p : BitVec 6) (code : BitVec 6) : State :=
  let xip := (s.proc p).crGet 16
  let k := cluOf p
  let lead := mapAt (s.map k) (slotOf p)
  let chk := match s.chkCore p with | some n => n % 9 | none => 15
  (s.modProc p fun q => { q with run := .contained, fault := none, trap := none, stepDue := false, mcheck := none, bar := none, routine := none }).event
    { code := 0x0149, sev := 3, cls := 4, blk := cluBlk p, master := p.toNat, inst := s.instOfProc p,
      pay := [(6, p.toNat), (4, lead), (4, chk), (4, 0), (6, code.toNat), (48, xip.toNat)] }

/-- Steps 5 and 6 of R128 with the bytes of the vector entry, `none` where it cannot be read. -/
def State.enterVector (s : State) (p : BitVec 6) (d : Due) (entry : Option (List Byte)) : State :=
  match entry with
  | none => s.entryFails p d.code
  | some bs =>
    let w (i : Nat) := lineWord bs i
    let sg : Seg := { w0 := w 0, w1 := w 1, w2 := w 2, w3 := w 3, index := (w 5).extractLsb' 0 24 }
    if sg.present && decide (sg.space = 0) && sg.w2.getLsbD 19 && (descCheck sg.w0 sg.w1 sg.w2).isNone then
      s.modProc p fun q => ((Proc.setSeg { q with ip := w 4 } 15 sg).crSet 25 1)
    else s.entryFails p d.code

/-- Entry to an exception (R128), and whether it was made: a synchronous one or a machine check under ACT is a double fault (R134);
the entry waits for outstanding loads and for the vector entry to be readable, and drains the combining buffer (R170). -/
def State.enter (s : State) (p : BitVec 6) (d : Due) : Bool × State :=
  let q := s.proc p
  if q.act && decide (d.kind ≠ 2) then (true, s.entryFails p d.code)
  else if q.loads.any fun l => l.data.isNone then (false, s)
  else match q.drainComb fun _ => true with
    | none => (false, s)
    | some q =>
      let a := (q.crGet 26).toNat + 48 * d.code.toNat
      let go (s : State) (e : Option (List Byte)) : Bool × State := (true, (s.modProc p fun q => q.saveState d).enterVector p d e)
      let s := s.setProc p q
      if !s.inWindow p a 48 then go s none
      else match s.ownRead p a 48 with
        | (some (bs, pz), s) => go s (if pz then none else some bs)
        | (none, s) => (false, s)

/-- WAIT (R108): an interrupt is pending. The WAIT is done, IP stands behind it (R130), and with IE set the interrupt is taken there,
unless a load's shadow is still open: then behind its second instruction (R65; DEDUCED, log 79). While the entry cannot be
made the processor goes on waiting. -/
def State.waitEnds (s : State) (p : BitVec 6) : State :=
  let s1 := s.simple p fun q => { q with run := .running }
  match s1.chosen p with
  | some d => (match s1.enter p d with
    | (true, s) => s
    | (false, s2) => s2.setProc p (s.proc p))
  | none => s1

/-- EXCEPTION_ENTRY (R135): the highest-ranked exception due is taken; a processor in WAIT goes on when an interrupt is pending
(R108); with nothing due, a fetched word that is illegal raises the illegal-instruction exception (R41, R68, R69). -/
def execExceptionEntry (p : BitVec 6) (word : BitVec 48) (s : State) : Res :=
  let q := s.proc p
  .next (
    if !(decide (s.phase = .run) && s.hasProc p && q.paused.isNone && q.relock.isNone && decide (q.run = .running ∨ q.run = .waiting) &&
         !(q.stopReq.isSome && q.interruptible) && !(q.longs.any fun x => x.hold)) then s
    else
      let d := s.chosen p
      if q.run = .waiting && (d.isNone || d.any fun d => d.kind = 2) then
        if s.mbxNow p || s.timNow p || s.extNow p then s.waitEnds p else s
      else match d with
      | some d => (s.enter p d).2
      | none =>
        if !legalWord word && s.able p then
          match s.fetch p with
          | .wait s' => s'
          | .bad d => ((s.setFault p d).enter p d).2
          | .ok s' => (s'.enter p ((s'.proc p).plainDue 0x01)).2
        else s)

/-- The event of a block on its routing register (R139). -/
def execInterruptLineEvent (src : IntSrc) (s : State) : Res :=
  .next (match src with
    | .cc k => s.raiseIn k.toNat (aCc k.toNat 0x40)
    | .sp k => s.raiseIn k.toNat (aClu k.toNat 0x428)
    | .tun => s.raise (aTun 0x50)
    | .cxl => s.raise (aCxl 0x20)
    | .chq i => s.raise (aChq (0x1000 + 64 * i.toNat + 0x38))
    | .elc => s.raise (aElc 0x50)
    | .cob => s.raise (aCob 0x80)
    | .mbg => s.raise (aMbg 0x40)
    | .flt => s.raise (aBrs 0x818)
    | .pew => s.raise (aPew 8))

/-- A read of CORE[n]_IACK by the processor (R141). -/
def execIack (p : BitVec 6) (s : State) : Res :=
  let (v, s) := s.claim p
  .next (s.out (.value 0x21 v.toNat))

/-- A write of CLU[k]_IPI (R142). -/
def State.ipiWrite (s : State) (k : Nat) (v : Word) : State :=
  (List.range 8).foldl (fun s i => if v.getLsbD i then s.pend k (40 + i) else s) s

def execCluIpi (a : Via) (k : BitVec 3) (v : BitVec 48) (s : State) : Res :=
  s.onWrite a (aClu k.toNat 0x300) fun s => s.ipiWrite k.toNat v

/-- The timer (R143): while EN is 1, PEND sets when the time base has reached TCMP. -/
def State.timerCheck (s : State) (p : BitVec 6) : State :=
  let q := s.proc p
  if (q.crGet 41).getLsbD 0 && !(s.tb - q.crGet 40).getLsbD 47 then s.setProc p (q.crSet 41 (q.crGet 41 ||| 2)) else s

def execTimerCompareReached (p : BitVec 6) (s : State) : Res :=
  .next (if s.phase = .run ∧ s.hasProc p = true then s.timerCheck p else s)

end Sys2Proof.Machine
end

