-- ==== Sys2Proof/Machine/Pairs.lean ====
section
/-!
DEFINITION. Instruction retry (R148 to R152), checked pairs, self-test, substitution and core sparing (spec 11).
-/
namespace Sys2Proof.Machine

open Sys2Proof

/-- CLU[k]_SPARE (R295). -/
def State.spareReg (s : State) (k : Nat) : Word := s.rg (aClu k 0x410) 8

/-- Firmware writes the boot configuration (R514): the modes asked for and each cluster's marks, into the copy that does not
hold the higher SEQ. -/
def State.bootWrite (s : State) : State :=
  let n := match s.bcfg with | c :: _ => c.seq + 1 | [] => 1
  let m : BitVec 8 := BitVec.ofNat 8 ((List.range 8).foldl (fun a k => a + b2n ((s.rg (aClu k 0x400)).getLsbD 1) * 2 ^ k) 0)
  let c : BootCfg := { seq := n, mode := m, spare := (List.range 8).map fun k => fld (s.spareReg k) 30 4 }
  { s with bcfg := c :: s.bcfg.take 1 }

/-- CLU[k]_SPARE changes; its marks are kept in the boot configuration (R277). -/
def State.setSpare (s : State) (k : Nat) (v : Word) : State :=
  let s' := s.sg (aClu k 0x410) v 8
  if fld v 30 4 = fld (s.spareReg k) 30 4 then s' else s'.bootWrite

/-- Local index of the spare, 0xF for none. -/
def State.spare (s : State) (k : Nat) : Nat := fld (s.spareReg k) 3 0

/-- RETIRED, CHKBAD and SUSPECT bits of a local core. -/
def State.chkBad (s : State) (k c : Nat) : Bool := (s.spareReg k).getLsbD (13 + c)
def State.setRetired (s : State) (k c : Nat) (b : Bool) : State := s.setSpare k (setBit (s.spareReg k) (4 + c) b)
def State.setChkBad (s : State) (k c : Nat) : State := s.setSpare k (setBit (s.spareReg k) (13 + c) true)
def State.setSuspect (s : State) (k c : Nat) (b : Bool) : State := s.setSpare k (setBit (s.spareReg k) (22 + c) b)
def State.setSpareIdx (s : State) (k c : Nat) : State := s.setSpare k (setFld (s.spareReg k) 3 0 c)

/-- Place local core c in field t of CLU[k]_MAP. -/
def State.setMap (s : State) (k t c : Nat) : State := s.sg (aClu k 0x408) (setFld (s.map k) (4 * t + 3) (4 * t) c) mapReset

/-- Does a pair run checked: checked mode and UNCHK clear (R287)? -/
def State.pairChecked (s : State) (p : BitVec 6) : Bool :=
  s.checked (cluOf p) && !((s.proc p).crGet 1).getLsbD 1 && !(s.proc p).cpf && (s.chkCore p).isSome

/-- A sparing event (R296): processor, the cores involved, KIND. -/
def State.spEvent (s : State) (p : BitVec 6) (code sev cls : Nat) (c1 c2 : Nat) (kind : Nat) : State :=
  s.event { code := code, sev := sev, cls := cls, blk := cluBlk p, master := p.toNat, inst := s.instOfProc p,
            pay := [(6, p.toNat), (4, c1), (4, c2), (4, kind)] }

/-- Both L1 caches of a core become empty and its shift registers start again (R197, R284). R284 says the latter of a checked pair;
a substitution in split mode (R286) and a move (R288) leave them so too (DEDUCED, log 80). -/
def State.clearL1 (s : State) (n : Nat) : State :=
  s.modCore n fun q => { q with dc := [], ic := [], dlfsr := 0xACE1, ilfsr := 0xACE1 }

/-- SPINT: substitutions, moves, checker-path faults and lost processors (R295). -/
def State.raiseSp (s : State) (k : Nat) : State := s.raiseIn k (aClu k 0x428)

/-- A processor goes on from its checkpoint after a pause (R284): the reservation is invalid, the retry count starts
again. -/
def State.unpause (s : State) (p : BitVec 6) (us : Nat) (sub : Bool) : State :=
  s.modProc p fun q => { q.dropResv with paused := none, tries := 0, triesMism := 0, pauseUs := min us 255,
                                         subs := if sub then satAdd 8 q.subs 1 else q.subs }

/-- A processor whose MAP fields read 0xF is lost (R285 note b): it does not exist until the next module reset, its reserved queue slots
are bad (R354), and its instance reports it (R426). -/
def State.loseProc (s : State) (p : BitVec 6) : State :=
  let s := s.modProc p fun q => { q.dropResv with run := .dead, paused := none }
  let s := s.badSlots fun r => decide (r.master = p.zeroExtend 12)
  match s.instOfProc p with
  | some i => s.report 4 i 0 p.toNat 0 0 0 0 0
  | none => s

/-- What RCNT reads after a capture (R293). -/
def Proc.rcnt (q : Proc) : Word := BitVec.ofNat 48 (min q.mism 0xFFFF * 2 ^ 32 + min q.par 0xFFFF * 2 ^ 16 + q.subs * 2 ^ 8 + q.pauseUs)

/-- A detected transient (R149, R150, R284, R286): a retry while the count allows; then, for a checked pair, a pause
with the self-test of both cores; in split mode the spare takes the checkpoint, or the machine check is due. -/
def State.transient (s : State) (p : BitVec 6) (kind : BitVec 4) : State :=
  let q := s.proc p
  let k := cluOf p
  let mism : Bool := decide (kind ≠ 1)
  let checked := s.pairChecked p
  if !(decide (s.phase = .run) && s.hasProc p && decide (q.run = .running ∨ q.run = .waiting) && q.paused.isNone) then s
  else if kind = 0 ∨ kind.toNat > 7 ∨ (mism && !checked) then s
  else
    let esc : Bool := decide (q.tries ≥ 3) || (mism && decide (q.triesMism ≥ 1))
    let last : Word := BitVec.ofNat 48 (min q.tries 3 * 64 + b2n esc * 32 + kind.toNat)
    let q := { q.crSet 66 last with inj := if mism then q.inj &&& 6 else q.inj &&& 3 }
    if !esc then
      s.setProc p { q.dropResv with tries := q.tries + 1, triesMism := q.triesMism + b2n mism,
                                    mism := satAdd 16 q.mism (b2n mism), par := satAdd 16 q.par (b2n (!mism)) }
    else
      let lead := mapAt (s.map k) (slotOf p)
      let sp := s.spare k
      let s := (s.setProc p q).l1Purge p |>.2
      if checked then
        let s := s.modProc p fun q => { q with paused := some kind }
        let t : SelfTest := { p := p, core := BitVec.ofNat 4 lead, bg := false, kind := kind }
        let s := s.modClu k fun c => { c with sparing := c.sparing ++ [t] }
        s.spEvent p 0x0141 1 0 lead (match s.chkCore p with | some n => n % 9 | none => 15) kind.toNat
      else if sp < 9 then
        let s := ((((s.clearL1 (9 * k + lead)).clearL1 (9 * k + sp)).setMap k (slotOf p) sp).setRetired k lead true).setSpareIdx k 0xF
        let s := (s.unpause p (Config.freeNat s.free % 31) true).tick1
        let t : SelfTest := { p := p, core := BitVec.ofNat 4 lead, bg := true, kind := kind }
        let s := s.modClu k fun c => { c with sparing := c.sparing ++ [t] }
        let s := s.spEvent p 0x0141 1 0 lead 15 kind.toNat
        (s.spEvent p 0x0142 2 2 lead sp kind.toNat).raiseSp k
      else
        let due : Due := { code := 0x0C, xip := q.ip, info := 1, kind := 3, restart := true }
        let s := s.modProc p fun q => { q.dropResv with mcheck := some due, tries := 0, triesMism := 0 }
        s.spEvent p 0x0148 3 4 lead 15 kind.toNat

def execDetectedTransient (p : BitVec 6) (kind : BitVec 4) (s : State) : Res := .next (s.transient p kind)

/-- The comparator's report (R280); a pair that runs unchecked ignores it (R287), and so does split mode. -/
def execComparatorMismatch (p : BitVec 6) (kind : BitVec 4) (s : State) : Res :=
  .next (if kind = 1 then s else s.transient p kind)

/-- The pair of processor p takes new cores after its self-test (R285): leader, checker (0xF: none, unchecked), the
failed core, the spare that is left. -/
def State.placePair (s : State) (p : BitVec 6) (lead chk failed spareLeft : Nat) : State :=
  let k := cluOf p
  let t := slotOf p
  let s := ((s.setMap k t lead).setMap k (t + 4) chk).setRetired k failed true
  let s := s.setSpareIdx k spareLeft
  let s := [lead, chk, failed].foldl (fun s c => if c < 9 then s.clearL1 (9 * k + c) else s) s
  s.modProc p fun q => { q.crSet 1 (setBit (q.crGet 1) 1 (decide (chk ≥ 9))) with cpf := false }

/-- The outcome of the oldest self-test of a cluster (R285, R286). When both cores pass, the checker is retired as
undiagnosed. -/
def State.selfTest (s : State) (k : Nat) (leadOk chkOk : Bool) : State :=
  match (s.clu k).sparing with
  | [] => s
  | t :: rest =>
    let s := s.modClu k fun c => { c with sparing := rest }
    let p := t.p
    let kind := t.kind.toNat
    if t.bg then
      if leadOk then (s.setSuspect k t.core.toNat true).spEvent p 0x0147 2 2 t.core.toNat 15 kind else s
    else
      let lead := mapAt (s.map k) (slotOf p)
      let chk := mapAt (s.map k) (slotOf p + 4)
      let sp := s.spare k
      if !leadOk && !chkOk then
        let s := ((s.setRetired k lead true).setRetired k chk true)
        let s := ((s.setMap k (slotOf p) 0xF).setMap k (slotOf p + 4) 0xF)
        let s := (s.clearL1 (9 * k + lead)).clearL1 (9 * k + chk)
        let s := (s.loseProc p).modProc p fun q => { q with pauseUs := 46 }
        (s.spEvent p 0x0145 3 4 lead chk kind).raiseSp k
      else
        let undiag : Bool := leadOk && chkOk
        let surv := if leadOk then lead else chk
        let failed := if leadOk then chk else lead
        let s := if undiag then s.setSuspect k chk true else s
        let hasSp : Bool := decide (sp < 9)
        let s :=
          if hasSp then
            if !s.chkBad k sp then s.placePair p surv sp failed 0xF
            else if !s.chkBad k surv then s.placePair p sp surv failed 0xF
            else s.placePair p surv 0xF failed sp
          else s.placePair p surv 0xF failed 0xF
        let s := s.unpause p 66 hasSp
        let s := if undiag then s.spEvent p 0x0147 2 2 surv failed kind
                 else if hasSp then s.spEvent p 0x0142 2 2 surv failed kind
                 else s.spEvent p 0x0144 3 2 surv failed kind
        if hasSp then s.raiseSp k else s

def execSelfTestOutcome (k : BitVec 3) (leadOk chkOk : Bool) (s : State) : Res := .next (s.selfTest k.toNat leadOk chkOk)

/-- A checker-path fault (R288, R289): the checker's CHKBAD; outside a self-test sequence the pair runs unchecked until
its checker moves. -/
def State.pathFault (s : State) (k c : Nat) : State :=
  if !s.checked k then s else
  match (List.range 4).find? fun t => mapAt (s.map k) (t + 4) = c ∧ c < 9 with
  | none => s
  | some t =>
    let p : BitVec 6 := BitVec.ofNat 6 (8 * k + t)
    let s := s.setChkBad k c
    let s := if (s.proc p).paused.isSome then s else
      s.modProc p fun q => { q.crSet 1 (setBit (q.crGet 1) 1 true) with cpf := true, inj := q.inj &&& 5 }
    (s.spEvent p 0x0143 2 2 (mapAt (s.map k) t) c 0).raiseSp k

def execCheckerPathFault (k : BitVec 3) (core : BitVec 4) (s : State) : Res := .next (s.pathFault k.toNat core.toNat)

/-- The agreement exchange delivers what is pending to both cores of a pair (R283); an injection on the slot's rail is a
checker-path fault (R485, R288). -/
def execAgreementExchangeDelivery (p : BitVec 6) (s : State) : Res :=
  .next (if s.checked (cluOf p) ∧ s.hasProc p = true then
      let s := match s.injHit (.clu (BitVec.ofNat 3 (cluOf p))) 3 (slotOf p) with
        | some (inv, s) => (match s.chkCore p with | some n => if inv % 2 = 0 then s else s.pathFault (cluOf p) (n % 9) | none => s)
        | none => s
      s.modProc p fun q => { q with extSeen := (s.presented p).isSome, timSeen := q.timPend, mbxSeen := s.mboxDue p }
    else s)

/-- A quiet point (R288): a boundary where an interrupt could be taken, with ACT = 0. -/
def State.quietPoint (s : State) (p : BitVec 6) : Bool :=
  let q := s.proc p
  s.hasProc p && q.interruptible && !q.act && q.paused.isNone && q.fault.isNone && q.trap.isNone

/-- The core in field t of the map moves onto the free spare (R288, R291): its old core becomes the spare. A checker that moves runs
checked again. -/
def State.moveCore (s : State) (p : BitVec 6) (t : Nat) : State :=
  let k := cluOf p
  let old := mapAt (s.map k) t
  let sp := s.spare k
  let s := (((s.l1Purge p).2.setMap k t sp).setSpareIdx k old)
  let s := (s.clearL1 (9 * k + old)).clearL1 (9 * k + sp)
  let s := if s.checked k then (s.clearL1 (9 * k + mapAt (s.map k) (slotOf p))) else s
  let s := if s.checked k && decide (4 ≤ t) then
      s.modProc p fun q => { q.crSet 1 (setBit (q.crGet 1) 1 false) with cpf := false } else s
  ((s.unpause p (Config.freeNat s.free % 26) true).tick1).raiseSp k

def execQuietPointCheckerMove (p : BitVec 6) (s : State) : Res :=
  .next (
    if (s.proc p).cpf && s.checked (cluOf p) && s.quietPoint p && decide (s.spare (cluOf p) < 9) then
      s.moveCore p (slotOf p + 4)
    else s)

/-- The status of a sparing command (R291, R295). -/
def State.spStatus (s : State) (k st : Nat) : State := s.sg (aClu k 0x420) (setFld (s.rg (aClu k 0x420)) 23 16 st)

/-- Is the controller busy (R289)? A command is then ignored with LOST. -/
def State.spBusy (s : State) (k : Nat) (f : State → State) : State :=
  if (s.clu k).sparing.isEmpty then f s else s.sg (aClu k 0x420) (setBit (s.rg (aClu k 0x420)) 2 true)

/-- MOVE (R291): an invalid slot, or no free spare, is FORMAT_ERROR. -/
def State.spMove (s : State) (k slot : Nat) : State :=
  s.spBusy k fun s =>
    let p : BitVec 6 := BitVec.ofNat 6 (8 * k + (if s.checked k then slot % 4 else slot))
    if s.spare k < 9 ∧ mapAt (s.map k) slot < 9 ∧ (s.proc p).paused.isNone then (s.moveCore p slot).spStatus k 0
    else s.spStatus k 4

def execSpctlMove (a : Via) (k : BitVec 3) (slot : BitVec 3) (s : State) : Res :=
  s.onWrite a (aClu k.toNat 0x418) fun s => s.spMove k.toNat slot.toNat

/-- RETEST (R291): a retired core that passes becomes the spare when there is none. -/
def State.spRetest (s : State) (k c : Nat) (pass : Bool) : State :=
  s.spBusy k fun s =>
    if !(decide (c < 9) && (s.spareReg k).getLsbD (4 + c)) then s.spStatus k 4
    else if !pass then s.spStatus k 6
    else if s.spare k < 9 then s.spStatus k 0
    else (((s.setRetired k c false).setSuspect k c false).setSpareIdx k c).spStatus k 0

def execSpctlRetest (a : Via) (k : BitVec 3) (core : BitVec 4) (pass : Bool) (s : State) : Res :=
  s.onWrite a (aClu k.toNat 0x418) fun s => s.spRetest k.toNat core.toNat pass

def execChkinjMism (p : BitVec 6) (s : State) : Res := .next (if s.hasProc p then s.chkinjWrite p 1 else s)
def execChkinjCpf (p : BitVec 6) (s : State) : Res := .next (if s.hasProc p then s.chkinjWrite p 2 else s)
def execChkinjPar (p : BitVec 6) (s : State) : Res := .next (if s.hasProc p then s.chkinjWrite p 4 else s)

/-- A write of CORE[n]_RSNAP.REQ (R293). -/
def execRsnapReq (p : BitVec 6) (s : State) : Res := .next (if s.hasProc p then s.rsnapWrite p else s)

/-- A write of CLU[k]_MODE.NEXT (R276): CHECKED keeps its value until the next module reset. -/
def execCluModeNext (a : Via) (k : BitVec 3) (v : BitVec 48) (s : State) : Res :=
  s.onWrite a (aClu k.toNat 0x400) fun s =>
    (s.sg (aClu k.toNat 0x400) (setBit (s.rg (aClu k.toNat 0x400)) 1 (v.getLsbD 1))).bootWrite

end Sys2Proof.Machine
end

