-- ==== Sys2Proof/Machine/MainRows.lean ====
section
/-!
DEFINITION. The main store's own commands (spec 09) and the persist grants (R254 to R256): array reads, the scrubber,
snapshots of its counters, grants held and served.
-/
namespace Sys2Proof.Machine

open Sys2Proof

/-- Is the line one a home can be asked for: on this part's main store (R224), or a group member's (R217)? -/
def State.lineOk (s : State) (l : Nat) : Bool := decide (l < s.part.msLines) || decide (2 ^ 44 ≤ l)

/-- Act on a line of the main store; an address beyond it does not exist (R224). -/
def State.onLine (s : State) (l : Nat) (f : State → State) : Res :=
  if s.lineOk l then .next (f s) else .fault .beyondMainStore

/-- A read of the array by a master, with what the array changed in its words (R227): the data or the poison leave for
that master. -/
def execMainStoreReadResult (line : Nat) (err : List (BitVec 56)) (m : BitVec 12) (s : State) : Res :=
  s.onLine line fun s =>
    if line ≥ 2 ^ 44 then s
    else
      let (bs, p, s) := s.arrayRead line err m.toNat
      s.out (.memAnswer line (256 + m.toNat) bs p)

/-- Are the running conditions of the scrubber met (R234)? -/
def State.scrubOn (s : State) : Bool := decide (s.phase = .run) && (s.rg (aMs 0) 0x118).getLsbD 8

/-- The scrubber moves on; at the end of a pass it records 0x0306 (R234). -/
def State.scrubNext (s : State) (st : Nat) : State :=
  let k := s.stack st
  if k.scrubR + 1 < 2 ^ 25 then
    (s.modStack st fun k => { k with scrubR := k.scrubR + 1, scrubbing := true }).sg (aStk st 0) (s.rg (aStk st 0) ||| 0x100)
  else
    let s := s.modStack st fun k => { k with scrubR := 0, scrubbing := false, passes := satAdd 16 k.passes 1 }
    let s := s.sg (aStk st 0) (setBit (s.rg (aStk st 0)) 8 false)
    s.event { code := 0x0306, sev := 0, master := 0x710 + st, pay := [(3, st), (16, (s.stack st).passes)] }

/-- OWNER and RMEM of R203 for an owner: four bits each. -/
def Own.code : Own → Nat × Nat
  | .clu k => (k.toNat, 0)
  | .host => (8, 0)
  | .member i => (9, i.toNat)
  | .home => (10, 0)
  | .none => (15, 0)

/-- What the scrubber finds on a line that it repairs from its owner is counted, and every corrected word is written back (R234,
R241); 0x0302 and 0x0303 are for lines that it poisons (R236). -/
def State.scrubFound (s : State) (st l : Nat) (outs : List WordOut) : State :=
  let s := (s.correct l (fixesOf outs)).wordEvent l 0x0301 0 1 (0x710 + st) ((fixesOf outs).map fun x => x.2.2.1)
  s.modStack st fun k => { k with ue := satAdd 24 k.ue (uesOf outs).length,
                                  amm := satAdd 24 k.amm (b2n (outs.any fun o => o = .mismatch)) }

/-- The owner's copy of a line goes to the array with fresh check bits: event 0x0304 (R236). It carries the owner as R203 codes it
(DESIGN CHOICE, log 72). -/
def State.scrubRepair (s : State) (st l : Nat) (d : List Byte) (pois : Bool) : State :=
  let (o, m) := (s.dirOf l).owner.code
  ((s.arrayLine l d pois (0x710 + st)).event
    { code := 0x0304, sev := 1, cls := 1, blk := some (.ms (BitVec.ofNat 3 st)), master := 0x710 + st,
      addr := 96 * l, acc := 1, space := 0, pay := [(48, 96 * l), (4, o), (4, m)] }).scrubNext st

/-- Is a member of the group the owner of a line? -/
def Dir.memberOwns (d : Dir) : Bool := match d.owner with | .member _ => true | _ => false

/-- One scrub read (R234, R236, R239). A member that owns a broken line is asked for its copy by FwdU, and the scrubber waits. -/
def State.scrub (s : State) (st : Nat) : State :=
  let l := lineAt s.part st (s.stack st).scrubR
  let me : Agent := .unc (BitVec.ofNat 12 (0x710 + st))
  match s.dataFor l me with
  | some _ =>
    (match s.lineRead l me with
    | (some (d, z), s) => if (s.dirOf l).memberOwns then s.scrubRepair st l d z else s.scrubNext st
    | (none, s) => s)
  | none =>
    if s.fenced l then s.scrubNext st
    else if !s.quietLine l || s.asked l me then s
    else
      let outs := s.lineOuts l []
      let broken : Bool := outs.any fun o => match o with | .uncorrectable _ => true | .mismatch => true | _ => false
      match (if broken then s.ownerClu l else none) with
      | some k =>
        let s := s.checkLine k l
        (match s.cline k l with
        | some c => (s.scrubFound st l outs).scrubRepair st l c.data c.pois
        | none => s)
      | none =>
        if broken && (s.dirOf l).memberOwns then (s.scrubFound st l outs).lineAsk l me
        else (s.arrayRead l [] (0x710 + st)).2.2.scrubNext st

def execScrubRead (st : BitVec 3) (s : State) : Res :=
  .next (if s.scrubOn ∧ st.toNat < s.part.stks then s.scrub st.toNat else s)

/-- Requests for the snapshots of the main store (R220, R241): REQ clears RDY. -/
def execErrsnapReq (a : Via) (s : State) : Res := s.onWrite a (aMs 8) fun s => (s.sg (aMs 8) 0).snapReq .err
def execDirsnapReq (a : Via) (s : State) : Res := s.onWrite a (aMs 0xC0F8) fun s => (s.sg (aMs 0xC0F8) 0).snapReq .dir

/-- A granted line (R255): the cluster's line holds PG, its processors' waiting stores are granted, and a posted line
goes to its home. -/
def State.grantTo (s : State) (l : Nat) (r : Agent) : State :=
  match r with
  | .cluster kb =>
    let k := kb.toNat
    let s := match s.cline k l with
      | some c => if c.st = .eb ∨ c.st = .sb ∨ c.st = .i then s else s.setLine k l { c with pg := true }
      | none => s
    (List.range 8).foldl (fun s t =>
      let p : BitVec 6 := BitVec.ofNat 6 (8 * k + t)
      (s.proc p).slots.foldl (fun s x =>
        if !x.granted && x.entries.any (fun e => s.entryLine e = some l) then
          let s := s.modProc p fun q => { q with slots := q.slots.map fun y => if y.id = x.id then
            { y with granted := true, ents := y.ents.map fun z => { z with ans := true } } else y }
          if x.entries.head?.any fun e => e.comb then s.slotGo p x.id else s
        else s) s) s
  | .host => s.hostGrant l
  | _ => s

/-- A home answers a persist grant request (R255): a request exists where one of the cluster's slots waits for its
grant. -/
def State.persistAsk (s : State) (l : Nat) (r : Agent) : State :=
  match r with
  | .cluster kb =>
    let waits : Bool := (List.range 8).any fun t => (s.proc (BitVec.ofNat 6 (8 * kb.toNat + t))).slots.any fun x =>
      !x.granted && x.entries.any fun e => e.persist && s.entryLine e = some l
    if !waits then s
    else match s.grantOr l r with
    | (true, s) => s.grantTo l r
    | (false, s) => s
  | _ => s

def execPersistGrantRequest (line : Nat) (r : Agent) (s : State) : Res := s.onLine line fun s => s.persistAsk line r

/-- The oldest held grant of a home is served once the count allows it (R256). -/
def State.serveHeld (s : State) (st : Nat) : State :=
  match (s.stack st).held with
  | [] => s
  | (l, r) :: rest =>
    match s.tryGrant l with
    | none => s
    | some s => ((s.modStack st fun k => { k with held := rest }).grantTo l r).stallEnd

def execHeldGrantServed (st : BitVec 3) (s : State) : Res := .next (s.serveHeld st.toNat)

end Sys2Proof.Machine
end

