-- ==== Sys2Proof/Machine/CohRows.lean ====
section
/-!
DEFINITION. The commands of the coherence protocol (spec 08): a home acts on a request, a holder on what the home
sends it, a requester on its answers. A command whose message is not in flight changes nothing; an agent outside the
caches has its request made by the command itself.
-/
namespace Sys2Proof.Machine

open Sys2Proof

/-- The tag of an uncached agent's request that a command makes: its answer leaves with DATA_GRANT and is nobody else's. -/
def cmdTag : Nat := 1000

/-- A request of a lost member gets TARGET_DEAD (R221). -/
def State.deadRow (s : State) (l : Nat) (i : BitVec 4) (ok : MK → Bool) : State :=
  let net := match takeMsg (fun m => m.line = l ∧ m.src = .ag (.member i) ∧ ok m.kind) [] s.net with
    | some (_, net) => net
    | none => s.net
  (({ s with net := net } : State).unopened l (.member i)).coh (s.memNode i.toNat) false 5 (96 * l) 0 [] true 8

/-- A home acts on a request of a kind that came over the protocol. -/
def State.msgRow (s : State) (l : Nat) (r : Agent) (ok : MK → Bool) : State :=
  match r with
  | .member i => if s.lost.getLsbD i.toNat then s.deadRow l i ok else s.homeRow l r ok
  | _ => s.homeRow l r ok

/-- A home acts on a request of a kind. The request of an uncached agent or a member that stands in no queue comes with the
command. -/
def State.reqRow (s : State) (l : Nat) (r : Agent) (kind : MK) : State :=
  let here : Bool := s.net.any fun x => x.line = l ∧ x.src = .ag r ∧ x.kind = kind
  let new (tag : Nat) : State := s.homeAct { src := .ag r, dst := s.homeNode l, kind := kind, line := l, req := r, tag := tag }
  match r with
  | .unc _ => if here then s.homeRow l r fun k => k = kind else new cmdTag
  | .member i => if here || s.lost.getLsbD i.toNat then s.msgRow l r fun k => k = kind else new 0
  | _ => s.homeRow l r fun k => k = kind

def execRds (line : Nat) (r : Agent) (s : State) : Res := s.onLine line fun s => s.reqRow line r .rdS
def execRdx (line : Nat) (r : Agent) (s : State) : Res := s.onLine line fun s => s.reqRow line r .rdX
def execUpg (line : Nat) (r : Agent) (s : State) : Res := s.onLine line fun s => s.reqRow line r .upg
def execWb (line : Nat) (r : Agent) (s : State) : Res :=
  s.onLine line fun s => s.msgRow line r fun k => match k with | .wb _ => true | _ => false
def execEvc (line : Nat) (r : Agent) (s : State) : Res := s.onLine line fun s => s.reqRow line r .evC
def execRdu (line : Nat) (r : Agent) (s : State) : Res := s.onLine line fun s => s.reqRow line r .rdU
def execWrf (line : Nat) (r : Agent) (s : State) : Res := s.onLine line fun s => s.msgRow line r fun k => k = .wrF
def execWrp (line : Nat) (r : Agent) (s : State) : Res := s.onLine line fun s => s.msgRow line r fun k => k = .wrP
def execCln (line : Nat) (r : Agent) (s : State) : Res := s.onLine line fun s => s.reqRow line r .cln
def execClinv (line : Nat) (r : Agent) (s : State) : Res := s.onLine line fun s => s.reqRow line r .clInv

def execFwds (line : Nat) (r : Agent) (s : State) : Res := s.onLine line fun s => s.fwdRow line r .fwdS
def execFwdx (line : Nat) (r : Agent) (s : State) : Res := s.onLine line fun s => s.fwdRow line r .fwdX
def execFwdu (line : Nat) (r : Agent) (s : State) : Res := s.onLine line fun s => s.fwdRow line r .fwdU

/-- A message for a member leaves over Mbova (R217, R218). -/
def State.toMember (s : State) (l : Nat) (r : Agent) (ok : MK → Bool) : State :=
  match takeMsg (fun m => decide (m.line = l) && decide (m.dst = .ag r) && ok m.kind) [] s.net with
  | none => s
  | some (m, net) => (match r with | .member i => ({ s with net := net }).sendMember m i | _ => s)

def execInv (line : Nat) (r : Agent) (s : State) : Res :=
  s.onLine line fun s => match r with
    | .member _ => s.toMember line r (fun k => k = .inv)
    | _ => s.invAt line r

def execRecall (line : Nat) (r : Agent) (s : State) : Res :=
  s.onLine line fun s => match r with
    | .member _ => s.toMember line r (fun k => k = .recall || k = .down)
    | _ => s.recallAt line r

def execDataGrant (line : Nat) (r : Agent) (s : State) : Res :=
  s.onLine line fun s => match r with
    | .cluster k => s.grantAt k.toNat line
    | .host => s.hostGot line
    | .member _ => s.toMember line r (fun k => match k with | .data _ => true | _ => false)
    | .unc m =>
      (match takeMsg (fun x => decide (x.line = line ∧ x.dst = .ag r ∧ x.tag = cmdTag) &&
          (match x.kind with | .data _ => true | _ => false)) [] s.net with
      | some (x, net) =>
        let s := ({ s with net := net } : State).out (.memAnswer line (256 + m.toNat) x.data x.pois)
        if x.op then s.send { src := .ag r, dst := s.homeNode line, kind := .cmp, line := line, req := r } else s
      | none => s)

def execInvAck (line : Nat) (r : Agent) (s : State) : Res :=
  s.onLine line fun s =>
    if r = .host ∧ (s.net.any fun m => m.line = line ∧ m.dst = .ag .host ∧ m.kind = .invAck) = true then s.hostAck line
    else match r with
    | .member _ =>
      if s.net.any fun m => m.line = line ∧ m.dst = .ag r ∧ m.kind = .invAck then s.toMember line r (fun k => k = .invAck)
      else s.ackAt line r
    | _ => s.ackAt line r

def execCmp (line : Nat) (r : Agent) (s : State) : Res := s.onLine line fun s => s.cmpAt line r

def execWback (line : Nat) (r : Agent) (s : State) : Res :=
  s.onLine line fun s => match r with
    | .host => s.hostGot line
    | .member _ => s.toMember line r (fun k => k = .wbAck)
    | _ => s.evbFree line r .wbAck

def execEvack (line : Nat) (r : Agent) (s : State) : Res :=
  s.onLine line fun s => match r with
    | .host => s.hostGot line
    | .member _ => s.toMember line r (fun k => k = .evAck)
    | _ => s.evbFree line r .evAck

def execRetry (line : Nat) (r : Agent) (s : State) : Res :=
  s.onLine line fun s => match r with
    | .member _ => s.toMember line r (fun k => match k with | .retry _ => true | _ => false)
    | _ => s.retryAt line r

def execRetryBackoffExpiry (line : Nat) (r : Agent) (s : State) : Res := s.onLine line fun s => s.resend line r

/-- A persistent reservation that nothing used is given up after 4 µs (R209). -/
def execPersistentReservationExpiry (line : Nat) (r : Agent) (s : State) : Res :=
  s.onLine line fun s => s.modStack (s.sliceOf line) fun k =>
    { k with resv := k.resv.filter fun x => !(x.line = line ∧ x.req = r ∧ x.tick + 100 ≤ s.ticks) }

def execPending (line : Nat) (r : Agent) (s : State) : Res :=
  s.onLine line fun s => match r with
    | .member _ => s.toMember line r (fun k => k = .pend)
    | _ => s.pendAt line r

def execPendingTick (line : Nat) (s : State) : Res := s.onLine line fun s => s.pendTick line

/-- A back-invalidation starts (R215); a detached host's is answered as lost at once (R216). -/
def State.biGo (s : State) (l : Nat) : State :=
  let s' := s.biStart l
  if s.mstat 1 then
    match s'.bisnp.find? fun b => b.line = l with
    | some b => (s'.biFinish b true).event { code := 0x0521, sev := 3, cls := 3, blk := some .cxl, master := 0x400,
                                             addr := 96 * l, acc := 5, space := 0, pay := [(48, 96 * l)] }
    | none => s'
  else s'

def execBackInvalidation (line : Nat) (s : State) : Res := s.onLine line fun s => s.biGo line

/-- A back-invalidation unanswered for 100 µs (R216) sets EVT.BITO (R328). -/
def execBackInvalidationTimeout (line : Nat) (s : State) : Res :=
  s.onLine line fun s => match s.bisnp.find? fun b => b.line = line with
    | some b => if s.ticks < b.tick + 2500 then s else (s.biLost line).cxlEvt 3
    | none => s

def execBackInvalidationResponse (line : Nat) (hi : Bool) (dirty : Option (List Byte)) (conflict : Bool) (s : State) : Res :=
  s.onLine line fun s => s.biAnswer line hi dirty conflict

/-- What a lost member still owed is made good (R221): its acknowledgements count as given, a line it was to supply is
poisoned and the home answers. -/
def State.settle (s : State) (m : Msg) : State :=
  let l := m.line
  match m.kind with
  | .inv => s.send { src := m.dst, dst := s.ackTo l m.req, kind := .invAck, line := l, req := m.req }
  | .recall | .down => (s.poisonLine l).homeBack l none
  | .fwdS | .fwdX | .fwdU =>
    let g : Grant := match m.kind with | .fwdS => .s | .fwdX => .m | _ => .none
    let s := s.poisonLine l
    s.send { src := s.homeNode l, dst := .ag m.req, kind := .data g, line := l, req := m.req, data := s.msLine l, pois := true,
             acks := m.acks, tag := m.tag }
  | _ => s

/-- A member that did not answer a forward, an invalidation or a recall for 100 µs, 2,500 ticks, is lost (R221): cleared from every
GRP, each line it owned poisoned, what it owed settled; event 0x0B40. -/
def execMemberLost (m : BitVec 4) (s : State) : Res :=
  let a : Agent := .member m
  let owed : List Msg := (s.memWait ++ s.net).filter fun x => x.dst = .ag a
  if !(s.memWait.any fun x => decide (x.dst = .ag a ∧ x.tick + 2500 ≤ s.ticks)) || !(s.rg (aMs 0xC000)).getLsbD 4 then .next s
  else
    let s : State := { s with net := s.net.filter fun x => !(x.dst = Node.ag a), memWait := s.memWait.filter fun x => !(x.dst = Node.ag a) }
    let s : State := s.dir.foldl (fun s (l, d) =>
      if d.owner = .member m then
        let s := s.poisonLine l
        let d := d.share a false
        s.setDir l { d with owner := .none, st := if d.noSharer then .free else .s }
      else if d.shares a then
        let d := d.share a false
        s.setDir l { d with st := if d.st = .s ∧ d.noSharer then .free else d.st }
      else s) s
    let s := owed.foldl (fun s x => s.settle x) s
    .next ({ s with lost := setBit s.lost m.toNat true }.event
      { code := 0x0B40, sev := 3, cls := 3, blk := some .mbg, master := 0x500, pay := [(4, m.toNat)] })

/-- A write of MS_CGCTL (R220 note a, R221): while EN is 1 only EN and the clearing of MEMBERS bits take effect. -/
def State.cgctlSet (s : State) (v : Word) : State :=
  let old := s.rg (aMs 0xC000)
  let v' := if old.getLsbD 4 then setFld (setFld old 20 5 (fld (old &&& v) 20 5)) 4 4 (fld v 4 4)
            else v &&& 0x1FFFFF
  let s := s.sg (aMs 0xC000) v'
  -- a member cleared from MEMBERS may join again later
  { s with lost := s.lost &&& v'.extractLsb' 5 16 }

def execCgctlWrite (a : Via) (v : BitVec 48) (s : State) : Res := s.onWrite a (aMs 0xC000) fun s => s.cgctlSet v

end Sys2Proof.Machine
end

