-- ==== Sys2Proof/Machine/Ledger.lean ====
section
/-!
DEFINITION. Electrum (spec 13): entries and their states (R341, R344), ring areas (R343), completions (R337), the
mirror's sending side (R348, R349), deadline timers (R359, R360), aborts (R345); and ring errors (R312).
-/
namespace Sys2Proof.Machine

open Sys2Proof

/-- The table key of an entry: ring pair and sequence number. -/
def entKey (q seq : Nat) : Nat := q * 2 ^ 48 + seq

/-- The entry of a sequence number. -/
def State.ent (s : State) (q seq : Nat) : Option LEnt := spGet s.led (entKey q seq)

/-- Set an entry. -/
def State.setEnt (s : State) (q seq : Nat) (e : LEnt) : State := { s with led := spIns s.led (entKey q seq) e }

/-- The entries of ring pair q with their sequence numbers, ascending. -/
def State.entsOf (s : State) (q : Nat) : List (Nat × LEnt) :=
  (s.led.filter fun (k, _) => k / 2 ^ 48 = q).map fun (k, e) => (k % 2 ^ 48, e)

/-- Is index a before b, in 32-bit order? -/
def idxBefore (a b : BitVec 32) : Bool := decide (2 ^ 31 ≤ (a - b).toNat)

/-- Is the entry POSTED or beyond (R344)? -/
def RP.posted (r : RP) (seq : Nat) (e : LEnt) : Bool :=
  decide (e.st = .done) && (decide (seq < r.enSeq) || idxBefore e.cidx r.cqpi)

/-- Is the entry RETIRED (R310, R342, R344)? -/
def RP.retired (r : RP) (seq : Nat) (e : LEnt) : Bool :=
  decide (e.st = .done) && (decide (seq < r.enSeq) || idxBefore e.cidx r.cqci)

/-- Is the entry unretired (R304 note c): ACCEPTED, STARTED, DONE or POSTED? -/
def RP.open (r : RP) (seq : Nat) (e : LEnt) : Bool := decide (e.st ≠ .abandoned) && decide (r.enSeq ≤ seq) && !r.retired seq e

/-- Has ring pair q an unretired entry? -/
def State.unretired (s : State) (q : Nat) : Bool := (s.entsOf q).any fun (n, e) => (s.rp q).open n e

/-- ELC_RA[q] (R366). -/
def State.ra (s : State) (q : Nat) : Word := s.rg (aElc (0x1000 + 8 * q))

/-- Entries of a ring area (R343). -/
def raSize (v : Word) : Nat := 4096 * fld v 27 14

/-- The logical address of the entry of a sequence number (R343). -/
def State.slotAddr (s : State) (q seq : Nat) : Nat :=
  0x900100000 + 0x60000 * fld (s.ra q) 13 0 + 96 * (seq % raSize (s.ra q))

/-- ELC_MIR.MODE and the mirror's state (R349, R366). -/
def State.mirMode (s : State) : Nat := fld (s.rg (aElc 0)) 15 14
def State.mirBroken (s : State) : Bool := (s.rg (aElc 0x38)).getLsbD 0
def State.mirResync (s : State) : Bool := (s.rg (aElc 0x38)).getLsbD 1

/-- Are entry and ring-record writes sent to the partner? -/
def State.mirOn (s : State) : Bool := decide (s.mirMode = 1 ∨ s.mirMode = 2) && (!s.mirBroken || s.mirResync)

/-- Do transitions wait for the partner (R348: synchronous, but for a resynchronisation)? -/
def State.mirSync (s : State) : Bool := decide (s.mirMode = 2) && !s.mirBroken && !s.mirResync

/-- A STATUS bit of Electrum with its interrupt (R366). -/
def State.elcStatus (s : State) (i : Nat) : State :=
  (s.sg (aElc 0x58) (setBit (s.rg (aElc 0x58)) i true)).raise (aElc 0x50)

/-- CRC-32C over 96 bytes but the four at `at_` (R341, R342). -/
def crcBut (bs : List Byte) (at_ : Nat) : List Byte := natLe 4 (crc32c (bs.take at_ ++ bs.drop (at_ + 4))).toNat

/-- The 96 bytes of an entry (R341). -/
def entBytes (q seq : Nat) (e : LEnt) : List Byte :=
  let st : Nat := match e.st with | .accepted | .started => 1 | .done => 2 | .abandoned => 3
  let w0 : Nat := st * 2 ^ 46 + b2n e.idem * 2 ^ 45 + b2n e.dlm * 2 ^ 44 + e.inst.toNat * 2 ^ 38 + q * 2 ^ 28
  let body := match e.st with | .done => e.comp | _ => e.desc
  let bs := natLe 6 w0 ++ natLe 6 seq ++ natLe 4 e.sidx.toNat ++ natLe 4 e.cidx.toNat ++ wordLe e.tacc ++ [0, 0] ++
    [0, 0, 0, 0] ++ body
  let c : BitVec 32 := BitVec.ofNat 32 (leNat (crcBut bs 28)) ^^^ e.inv.zeroExtend 32
  overlay 0 bs (cellsAt 28 (natLe 4 c.toNat))

/-- The 96 bytes of the ring record of ring pair q (R342); `ra` fills bytes 36 to 41 in an instance image. -/
def State.ringRec (s : State) (q : Nat) (ra : Word) : List Byte :=
  let r := s.rp q
  let bs := wordLe (s.sqb q) ++ wordLe (s.cqb q) ++ wordLe r.irq ++ natLe 4 r.cqpi.toNat ++ natLe 4 r.cqci.toNat ++
    natLe 6 r.nextSeq ++ natLe 4 r.sqfpEn.toNat ++ wordLe ra ++ natLe 6 r.enSeq ++ List.replicate 44 0 ++ [0, 0, 0, 0]
  overlay 0 bs (cellsAt 92 (crcBut bs 92))

/-- Send a write of Electrum to the partner (R348, R453): its offset in the ledger region, and the line. -/
def State.mirSend (s : State) (ring : Bool) (key : Nat) (sync : Bool) : State :=
  let q := if ring then key else key / 2 ^ 48
  let seq := key % 2 ^ 48
  let (a, line) : Nat × List Byte :=
    if ring then (0x900000000 + 96 * q, s.ringRec q 0)
    else match spGet s.led key with
      | some e => (e.addr, entBytes q seq e)
      | none => (0, [])
  let tag := s.mirTag
  let ws : List Word := BitVec.ofNat 48 (a - 0x900000000) :: 0 ::
    (List.range 16).map fun w => lineWord line w
  let m : FMsg := { typ := 0x10, dst := (s.rg (aElc 0)).extractLsb' 0 14, tag := tag, words := ws }
  let w : MirW := { tag := tag, ring := ring, key := key, tick := s.ticks, sync := sync }
  ({ s with mirTag := tag + 1, mirw := s.mirw ++ [w] }).fab m

/-- Write an entry (R339, R348): counted, and sent to the partner; in synchronous mode it takes effect later. -/
def State.entWrite (s : State) (q seq : Nat) (e : LEnt) : State :=
  let s := { s with acnt := s.acnt + 1 }
  let (inv, s) : Nat × State := match s.injHit .elc 0 0 with | some x => x | none => (0, s)
  let (bad, s) := s.tungInj
  let inv := if bad then inv ||| 1 else inv
  let s := s.setEnt q seq { e with wait := s.mirSync, inv := BitVec.ofNat 16 inv }
  if s.mirOn then s.mirSend false (entKey q seq) false else s

/-- Write a ring record (R342, R348). -/
def State.ringWrite (s : State) (q : Nat) : State :=
  let (bad, s) := s.tungInj
  let s := s.modRp q fun r => { r with bad := bad }
  if s.mirOn then s.mirSend true q false else s

/-- Does a ring-record write of q await the partner in synchronous mode? -/
def State.ringWaits (s : State) (q : Nat) : Bool := s.mirSync && s.mirw.any fun m => m.ring && decide (m.key = q)

/-- The function and event vector of a ring's owner (R303). -/
def State.ringVec (s : State) (q vec : Nat) : State :=
  match s.ringOwner q with
  | some i => s.msix i vec
  | none => s

/-- A host physical address as payload items (R489 note a). -/
def hostPay (a : Nat) : List (Nat × Nat) := [(48, a), (4, a / 2 ^ 48)]

/-- Raise ring error `c` of ring pair q about an index (R312). -/
def State.ringError (s : State) (q c : Nat) (idx : BitVec 32) : State :=
  let s := s.modRp q fun r =>
    { r with code := if r.err then r.code else BitVec.ofNat 4 c, err := true,
             stopF := r.stopF || decide (c = 1) || decide (c = 2), stopP := r.stopP || decide (c = 4) }
  let a := fld (s.sqb q) 39 0 * 4096 + 64 * (idx.toNat % ringSize (s.sqb q))
  let s := (s.ringVec q 0).cxlEvt 2
  if c = 2 then
    s.event { code := 0x0511, sev := 2, cls := 3, blk := some .cxl, master := 0x110, addr := a, acc := 1, space := 3,
              inst := s.ringOwner q, pay := [(10, q), (32, idx.toNat)] ++ hostPay a }
  else
    s.event { code := 0x0510, sev := 2, master := 0x110, inst := s.ringOwner q, pay := [(10, q), (4, c), (32, idx.toNat)] }

/-- CHQ_PT[p] (R333). -/
def State.pt (s : State) (p : Nat) : Word := s.rg (aChq (8 * p))

/-- Descriptor fields (R330). -/
def descB (d : List Byte) (i : Nat) : Nat := (d.getD i 0).toNat
def descProg (d : List Byte) : Nat := descB d 0
def descPrio (d : List Byte) : Nat := descB d 2 % 8
def descDle (d : List Byte) : Bool := (descB d 1).testBit 1
def descFence (d : List Byte) : Bool := (descB d 1).testBit 2
def descTag (d : List Byte) : Nat := leNat ((d.drop 4).take 4)
def descDlus (d : List Byte) : Nat := leNat ((d.drop 8).take 4)

/-- Is a descriptor's form good (R332)? -/
def State.descOk (s : State) (d : List Byte) : Bool :=
  decide (descB d 1 < 8) && decide (descB d 2 < 8) && decide (descB d 3 = 0) &&
  !(descDle d && decide (descDlus d = 0)) && (s.pt (descProg d)).getLsbD 47

/-- Has the deadline passed at a value of the time base (R360)? -/
def LEnt.missed (e : LEnt) (tb : Word) : Bool := descDle e.desc && decide (e.tacc.toNat + 25 * descDlus e.desc < tb.toNat)

/-- Record a missed deadline once (R360): event 0x0720. -/
def State.lateEvent (s : State) (q seq : Nat) (e : LEnt) : State :=
  s.event { code := 0x0720, sev := 2, cls := 6, blk := some .elc, master := 0x702, inst := some e.inst.toNat,
            pay := [(10, q), (48, seq), (32, descDlus e.desc),
                    (32, (s.tb.toNat - e.tacc.toNat - 25 * descDlus e.desc) / 25)] }

/-- The 64 bytes of a completion with P zero (R337). -/
def compBytes (status flags prog step tag seq ring inst : Nat) (res : List (BitVec 64)) (tdone : Word) : List Byte :=
  [BitVec.ofNat 8 status, BitVec.ofNat 8 flags, BitVec.ofNat 8 prog, BitVec.ofNat 8 step] ++ natLe 4 tag ++ natLe 6 seq ++
  natLe 2 (ring + 1024 * inst) ++ ((List.range 4).map fun i => natLe 8 (res.getD i 0).toNat).flatten ++ wordLe tdone ++
  List.replicate 10 0

/-- An abort that waited ends (R345). -/
def State.abortEnd (s : State) (result : Nat) : State :=
  ({ s with abt := none }.sg (aElc 0x20) (BitVec.ofNat 48 result)).elcStatus 2

/-- An entry becomes DONE (R344 with note a): its completion takes the next completion index; its timer is freed; a
missed deadline is recorded; an abort that waited for it is answered. -/
def State.entDone (s : State) (q seq status step : Nat) (ut : Bool) (res : List (BitVec 64)) : State :=
  match s.ent q seq with
  | none => s
  | some e =>
    if e.st = .done ∨ e.st = .abandoned then s else
    let miss := e.missed s.tb
    let r := s.rp q
    let comp := compBytes status (b2n miss + 4 * b2n ut) (descProg e.desc) step (descTag e.desc) seq q e.inst.toNat res s.tb
    let e' : LEnt := { e with st := .done, cidx := r.nidx, comp := comp, dlm := miss, timer := false, late := e.late || miss }
    let s := if miss && !e.late then s.lateEvent q seq e else s
    let s := (s.modRp q fun r => { r with nidx := r.nidx + 1 }).entWrite q seq e'
    if s.abt = some (q, seq) then s.abortEnd (if status = 0x0A then 1 else 2) else s

/-- Deadline timers in use, in all and by instance (R359). -/
def State.timers (s : State) (i : Option (BitVec 6)) : Nat :=
  (s.led.filter fun (_, e) => e.timer && (match i with | some i => decide (e.inst = i) | none => true)).length

/-- Is a deadline timer free for an instance (R359)? -/
def State.timerFree (s : State) (i : BitVec 6) : Bool :=
  decide (s.timers none < 4096 ∧ s.timers (some i) < fld (s.rg (aElc (0x3000 + 8 * i.toNat)) 4096) 12 0)

/-- No timer for an entry (R359): event 0x0721, TIMER_EXHAUSTED. -/
def State.noTimer (s : State) (q seq : Nat) (i : BitVec 6) : State :=
  let s := { s with exh := satAdd 24 s.exh 1 }.elcStatus 1
  let s := s.event { code := 0x0721, sev := 1, master := 0x702, inst := some i.toNat,
                     pay := [(10, q), (48, seq), (6, i.toNat), (13, s.timers none)] }
  s.entDone q seq 0x0D 0 false []

/-- An entry's write is acknowledged, so its descriptor is accepted (R339): SQFP moves past it, and a descriptor of bad
form or without a timer completes at once (R332, R359). -/
def State.accepted (s : State) (q seq : Nat) : State :=
  match s.ent q seq with
  | none => s
  | some e =>
    let e : LEnt := { e with wait := false, tacc := s.tb }
    let s := (s.setEnt q seq e).modRp q fun r => { r with sqfp := e.sidx + 1, ftick := s.ticks, sqpi := if idxBefore r.sqpi (e.sidx + 1) then e.sidx + 1 else r.sqpi }
    if !s.descOk e.desc then s.entDone q seq 4 0 false []
    else if !descDle e.desc then s
    else if s.timerFree e.inst then s.setEnt q seq { e with timer := true }
    else s.noTimer q seq e.inst

/-- May Electrum accept at all now (R348, R349)? -/
def State.mirAccepts (s : State) : Bool :=
  !(decide (s.mirMode ≠ 0) && s.mirBroken && !s.mirResync && (s.rg (aElc 0)).getLsbD 16) &&
  !((decide (s.mirMode = 1) || s.mirResync) && decide (4096 ≤ s.mirw.length))

/-- Is the slot of a sequence number free for it (R343)? In synchronous mode a retirement must have reached the
partner. -/
def State.slotFree (s : State) (q seq : Nat) : Bool :=
  let a := s.slotAddr q seq
  !(s.led.any fun (k, e) => decide (e.addr = a) &&
    (let n := k % 2 ^ 48
     let r := s.rp (k / 2 ^ 48)
     !(r.retired n e || (decide (e.st = .abandoned) && decide (n < r.enSeq))))) && !s.ringWaits q

/-- Electrum accepts the next fetched descriptor of a ring pair (R339, R343). -/
def State.accept (s : State) (q : Nat) : State :=
  let r := s.rp q
  match r.got.find? fun (i, _) => i = r.acc with
  | none => s
  | some (idx, d) =>
    if !(decide (s.phase = .run)) || !s.rpEn q || !s.mirAccepts || decide (raSize (s.ra q) = 0) || !s.slotFree q r.nextSeq ||
        r.held.getLsbD 1 || r.held.getLsbD 2 then s
    else
      let seq := r.nextSeq
      let a := s.slotAddr q seq
      let inst := BitVec.ofNat 6 ((s.ringOwner q).getD 0)
      let e : LEnt := { st := .accepted, idem := (descB d 1).testBit 0 && (s.pt (descProg d)).getLsbD 47 && (s.pt (descProg d)).getLsbD 46,
                        inst := inst, sidx := idx, tacc := s.tb, desc := d, addr := a, ord := s.accs }
      let s := { s with led := s.led.filter fun (_, x) => decide (x.addr ≠ a), accs := s.accs + 1 }
      let s := s.modRp q fun r =>
        { r with acc := r.acc + 1, nextSeq := r.nextSeq + 1, got := r.got.filter fun (i, _) => decide (i ≠ idx) }
      let sync := s.mirSync
      let s := s.entWrite q seq e
      if sync then s else s.accepted q seq

def execDescriptorAccept (q : BitVec 10) (s : State) : Res := .next (s.accept q.toNat)

/-- Take the lowest entries of a ring that the partner has acknowledged as accepted, in order. -/
def State.acceptInOrder (s : State) (q : Nat) : Nat → State
  | 0 => s
  | n + 1 =>
    let r := s.rp q
    match (s.entsOf q).find? fun (_, e) => e.sidx = r.sqfp ∧ e.st = .accepted ∧ r.sqfp ≠ r.acc with
    | some (seq, e) => if e.wait ∧ s.mirw.any (fun m => !m.ring && decide (m.key = entKey q seq)) then s
        else (s.accepted q seq).acceptInOrder q n
    | none => s

/-- Signal the completion interrupt when a threshold is reached (R311). -/
def State.compSignal (s : State) (q : Nat) : State :=
  let r := s.rp q
  let tus := fld r.irq 31 20
  if r.irq.getLsbD 11 ∧ fld r.irq 10 0 ≠ 0 ∧ r.visN ≠ 0 ∧
      (max 1 (fld r.irq 19 12) ≤ r.visN ∨ (tus ≠ 0 ∧ r.visT + 25 * tus ≤ s.ticks)) then
    (s.modRp q fun r => { r with visN := 0 }).ringVec q (fld r.irq 10 0)
  else s

/-- CQPI takes a value (R308, R344): the completions below it are POSTED and visible. -/
def State.cqpiTo (s : State) (q : Nat) (v : BitVec 32) : State :=
  let n := (v - (s.rp q).cqpi).toNat
  let s := s.modRp q fun r =>
    { r with cqpi := v, cqpiW := none, visT := if r.visN = 0 then s.ticks else r.visT, visN := r.visN + n,
             wrs := r.wrs.filter fun w => !idxBefore w.idx v }
  s.compSignal q

/-- The index CQPI may advance to: past every slot with GO, in order (R308). -/
def RP.goTo (r : RP) : Nat → BitVec 32 → BitVec 32
  | 0, v => v
  | n + 1, v => if r.wrs.any fun w => w.idx = v ∧ w.go = true then r.goTo n (v + 1) else v

/-- CQPI advances once its ring record is written (R342), in synchronous mode by the partner too. -/
def State.cqpiAdvance (s : State) (q : Nat) : State :=
  let r := s.rp q
  let v := r.goTo r.wrs.length r.cqpi
  if v = r.cqpi then s
  else if s.mirSync then (s.modRp q fun r => { r with cqpiW := some v }).ringWrite q
  else (s.cqpiTo q v).ringWrite q

/-- The partner's acknowledgement completes a mirrored write (R348): the transition takes effect. -/
def State.mirAck (s : State) (tag : BitVec 16) : State :=
  match s.mirw.find? fun m => m.tag = tag with
  | none => s
  | some m =>
    let s := { s with mirw := s.mirw.filter fun x => x.tag ≠ tag }
    if m.ring then
      match (s.rp m.key).cqpiW with
      | some v => if s.mirw.any fun x => x.ring && decide (x.key = m.key) then s else s.cqpiTo m.key v
      | none => s
    else
      let q := m.key / 2 ^ 48
      match spGet s.led m.key with
      | some e =>
        if !e.wait then s
        else if e.st = .accepted ∧ idxBefore e.sidx (s.rp q).sqfp = false then s.acceptInOrder q (s.led.length + 1)
        else s.setEnt q (m.key % 2 ^ 48) { e with wait := false }
      | none => s

def execMirrorWriteAck (tag : BitVec 16) (s : State) : Res := .next (s.mirAck tag)

/-- What waited for the partner takes effect without it: the mirror ended or broke. An entry that waits to be accepted goes on waiting
unless `take` says that Electrum accepts (R349, ONFAIL). -/
def State.mirRelease (s : State) (take : Bool) : State :=
  let keys := (s.led.filter fun (_, e) => e.wait).map fun (k, _) => k
  let rings := (s.mirw.filter fun m => m.ring).map fun m => m.key
  let s := { s with mirw := [] }
  let s := keys.foldl (fun s k =>
    match spGet s.led k with
    | some e =>
      if !e.wait then s
      else if e.st = .accepted ∧ idxBefore e.sidx (s.rp (k / 2 ^ 48)).sqfp = false then
        (if take then s.acceptInOrder (k / 2 ^ 48) (s.led.length + 1) else s)
      else s.setEnt (k / 2 ^ 48) (k % 2 ^ 48) { e with wait := false }
    | none => s) s
  rings.foldl (fun s q => match (s.rp q).cqpiW with | some v => s.cqpiTo q v | none => s) s

/-- The mirror breaks (R349): event 0x0730. With ONFAIL = 1 Electrum accepts nothing, also what waits already. -/
def State.mirBreak (s : State) : State :=
  let lag := s.mirw.length
  let s := s.sg (aElc 0x38) 1
  let s := (s.elcStatus 0).event { code := 0x0730, sev := 3, master := 0x702, pay := [(14, fld (s.rg (aElc 0)) 13 0), (13, lag)] }
  s.mirRelease (!(s.rg (aElc 0)).getLsbD 16)

/-- A mirror write without acknowledgement for 20 µs (R349). -/
def execMirrorBreak (s : State) : Res :=
  .next (if s.mirw.any fun m => m.tick + 500 ≤ s.ticks then s.mirBreak else s)

/-- A resynchronisation starts (R349): every live entry and every ring record is sent. -/
def State.resync (s : State) : State :=
  let s := s.sg (aElc 0x38) (s.rg (aElc 0x38) ||| 2)
  let s := s.led.foldl (fun s (k, e) =>
    let r := s.rp (k / 2 ^ 48)
    if r.retired (k % 2 ^ 48) e || decide (e.st = .abandoned) then s else s.mirSend false k true) s
  (List.range 1024).foldl (fun s q => s.mirSend true q true) s

/-- A write of ELC_MIR (R349, R367). MODE 3 is reserved; PARTNER stays while MODE is nonzero. Acceptances that ONFAIL held go on as a
resynchronisation starts: it follows mode 1. -/
def State.mirSet (s : State) (v : Word) : State :=
  let old := s.rg (aElc 0)
  let oldM := fld old 15 14
  let v1 := setFld old 16 16 (fld v 16 16)
  let v1 := if oldM = 0 then setFld v1 13 0 (fld v 13 0) else v1
  let m := fld v 15 14
  if m = 3 then s.sg (aElc 0) v1
  else
    let s' := s.sg (aElc 0) (setFld v1 15 14 m)
    if m = 0 then
      -- mirroring ends at once; what waited for the partner takes effect
      (s'.mirRelease true).sg (aElc 0x38) 0
    else if s.mirResync then s'
    else if s.mirBroken ∨ oldM = 0 then (s'.mirRelease true).resync
    else s'

def execMirWrite (a : Via) (v : BitVec 48) (s : State) : Res := s.onWrite a (aElc 0) fun s => s.mirSet v

/-- A resynchronisation ends once every one of its writes is acknowledged (R349): event 0x0731. -/
def execResyncComplete (s : State) : Res :=
  .next (if s.mirResync ∧ (s.mirw.any fun m => m.sync) = false then
    let n := (s.led.filter fun (k, e) => !((s.rp (k / 2 ^ 48)).retired (k % 2 ^ 48) e || decide (e.st = .abandoned))).length
    (s.sg (aElc 0x38) 0).event { code := 0x0731, sev := 1, master := 0x702, pay := [(14, fld (s.rg (aElc 0)) 13 0), (28, n)] }
  else s)

/-- Every µs, expired deadlines of unfinished entries are recorded (R360). -/
def State.deadlines (s : State) : State :=
  s.led.foldl (fun s (k, e) =>
    if e.timer && !e.late && e.missed s.tb && (decide (e.st = .accepted) || decide (e.st = .started)) then
      (s.setEnt (k / 2 ^ 48) (k % 2 ^ 48) { e with late := true }).lateEvent (k / 2 ^ 48) (k % 2 ^ 48) e
    else s) s

def execDeadlineCheck (s : State) : Res := .next (if s.phase = .run then s.deadlines else s)

end Sys2Proof.Machine
end

