-- ==== Sys2Proof/Machine/Queues.lean ====
section
/-!
DEFINITION. The internal queues (spec 13 R351 to R358): reservations, commits, reads, the held list with its mark, aging,
and the engine reply queues (R336).
-/
namespace Sys2Proof.Machine

open Sys2Proof

/-- The offset of a register of queue i (R364). -/
def aQ (i o : Nat) : Nat := aChq (0x1000 + 0x40 * i + o)

/-- CHQ_Q[i]_BASE and CHQ_Q[i]_CFG (R364, R365). -/
def State.qBase (s : State) (i : Nat) : Nat := (s.rg (aQ i 0)).toNat
def State.qCfg (s : State) (i : Nat) : Word := s.rg (aQ i 8)
def State.qEn (s : State) (i : Nat) : Bool := (s.qCfg i).getLsbD 5
def State.qEng (s : State) (i : Nat) : Bool := (s.qCfg i).getLsbD 6

/-- Slots of queue i. -/
def State.qSlots (s : State) (i : Nat) : Nat := 2 ^ fld (s.qCfg i) 4 0

/-- Is a slot in use: reserved, or holding an item that is available or held (R353)? -/
def Queue.used (k : Queue) (n : Nat) : Bool :=
  (k.resv.any fun r => r.slot = n) || (k.items.any fun x => x.slot = n) || (k.held.any fun x => x.slot = n)

/-- Raise the queue's interrupt (R365). -/
def State.qRaise (s : State) (i : Nat) : State := s.raise (aQ i 0x38)

/-- Reserve the lowest free slot of queue i (R353): the value RESV reads. -/
def State.qResv (s : State) (i : Nat) (m : BitVec 12) (ring : Option (BitVec 10)) : Nat × State :=
  if !s.qEn i then (0, s)
  else match (List.range (s.qSlots i)).find? fun n => !(s.queue i).used n with
    | none => (0, s)
    | some n => (65536 + n, s.modQ i fun k => { k with resv := k.resv ++ [⟨n, m, ring⟩] })

/-- Is the program the one a reply names (R336, R378)? -/
def Prog.awaits (p : Prog) (i seq ring : Nat) : Bool :=
  decide (p.mtch = some (BitVec.ofNat 9 i)) && decide (p.seq = seq) && decide (p.q.toNat = ring) && p.rpend.isNone && p.reply.isNone

/-- The four words of a reply go to the program whose match they carry, or are released with event 0x0612 (R336). -/
def State.qMatch (s : State) (i : Nat) (ws : List Word) : State :=
  let seq := (ws.getD 0 0).toNat
  let ring := fld (ws.getD 1 0) 9 0
  match (List.range 16).find? fun e =>
      (match (s.engine e).run with | some p => p.awaits i seq ring | none => false) || (s.engine e).parked.any fun p => p.awaits i seq ring with
  | some e =>
    let n := s.commits
    let give (p : Prog) : Prog := if p.awaits i seq ring then { p with rpend := some ws, rord := n } else p
    ({ s with commits := n + 1 }).modEng e fun g => { g with run := g.run.map give, parked := g.parked.map give }
  | none =>
    s.event { code := 0x0612, sev := 2, master := 0x110, pay := [(9, i), (48, seq), (10, ring)] }

/-- The channel subsystem consumes an item of an engine reply queue once it has read its four words from the main store (R336,
R352): whether it did. -/
def State.qReply (s : State) (i : Nat) (x : QItem) : Bool × State :=
  match s.uncRead (s.qBase i + 96 * x.slot) 24 0x110 with
  | (some (bs, _), s) =>
    (true, (s.modQ i fun k => { k with items := k.items.erase x }).qMatch i ((List.range 4).map fun w => lineWord bs w))
  | (none, s) => (false, s)

/-- Serve an engine reply queue, in commit order, up to the first item whose words have not come. -/
def State.qServe (s : State) (i : Nat) : State :=
  if s.qEn i && s.qEng i then
    ((s.queue i).items.foldl (fun (go, s) x => if go then State.qReply s i x else (go, s)) (true, s)).2
  else s

/-- A commit on behalf of a master (R353, R354): true when it is taken. -/
def State.qCommit (s : State) (i : Nat) (m : BitVec 12) (v : Word) : Bool × State :=
  let slot := fld v 15 0
  let k := s.queue i
  if s.qEn i && k.resv.any (fun r => r.slot = slot ∧ r.master = m) then
    let s := s.modQ i fun k => { k with resv := k.resv.filter fun r => decide (r.slot ≠ slot) }
    if v.getLsbD 23 then (true, s)
    else
      let x : QItem := { slot := slot, prio := v.extractLsb' 20 3, lenm1 := v.extractLsb' 16 4, tick := s.tb.toNat, ord := s.commits }
      let s := ({ s with commits := s.commits + 1 }).modQ i fun k => { k with items := k.items ++ [x] }
      (true, if s.qEng i then s.qServe i else if k.items.isEmpty then s.qRaise i else s)
  else
    (false, s.event { code := 0x0611, sev := 1, master := m.toNat, pay := [(9, i), (16, slot), (12, m.toNat)] })

/-- Does item x come before item y (R355)? -/
def QItem.before (x y : QItem) : Bool :=
  if x.urg ∧ !y.urg then true
  else if y.urg ∧ !x.urg then false
  else if x.urg then decide (x.ord < y.ord)
  else decide (y.prio < x.prio) || (decide (x.prio = y.prio) && decide (x.ord < y.ord))

/-- The first of a list of items in the order of R355. -/
def firstItem : List QItem → Option QItem
  | [] => none
  | x :: xs => match firstItem xs with
    | none => some x
    | some y => if x.before y then some x else some y

/-- Age in µs, saturating at 20 bits (R365). -/
def State.ageUs (s : State) (t : Nat) : Nat := min ((s.tb.toNat - t) / 25) (2 ^ 20 - 1)

/-- Read the next available item (R355): the value READ reads. An engine reply queue and a disabled queue give 0. -/
def State.qRead (s : State) (i : Nat) : Nat × State :=
  if !s.qEn i ∨ s.qEng i then (0, s)
  else match firstItem (s.queue i).items with
    | none => (0, s)
    | some x =>
      (2 ^ 47 + b2n x.urg * 2 ^ 46 + x.prio.toNat * 2 ^ 43 + x.lenm1.toNat * 2 ^ 39 + s.ageUs x.tick * 2 ^ 16 + x.slot,
       s.modQ i fun k => { k with items := k.items.erase x, held := k.held ++ [x] })

/-- Insert an item in commit order. -/
def insItem (x : QItem) : List QItem → List QItem
  | [] => [x]
  | y :: ys => if x.ord < y.ord then x :: y :: ys else y :: insItem x ys

/-- MARK, REWIND and RELEASE (R356). -/
def State.qCmd (s : State) (i c : Nat) : State :=
  let k := s.queue i
  match c with
  | 1 => s.modQ i fun k => { k with mark := k.held.length }
  | 2 =>
    let back := k.held.drop k.mark
    let s' := s.modQ i fun k => { k with held := k.held.take k.mark, items := back.foldl (fun l x => insItem x l) k.items }
    if k.items.isEmpty && !back.isEmpty then s'.qRaise i else s'
  | 3 => s.modQ i fun k => { k with held := [], mark := 0 }
  | _ => s

/-- Discard everything a queue holds (R352). -/
def State.qClear (s : State) (i : Nat) : State := s.modQ i fun k => { k with items := [], held := [], resv := [], mark := 0 }

/-- A write of CHQ_Q[i]_CFG (R352, R365): LOG, INST and ENG stay while EN is 1; EN = 0 discards the items. -/
def State.qCfgSet (s : State) (i : Nat) (v : Word) : State :=
  let old := s.qCfg i
  let lg := fld v 4 0
  let v1 := setFld old 32 13 (fld v 32 13)
  let v1 := if old.getLsbD 5 then v1 else
    let v2 := setFld v1 12 6 (fld v 12 6)
    if 6 ≤ lg ∧ lg ≤ 16 then setFld v2 4 0 lg else v2
  let v1 := setBit v1 5 (v.getLsbD 5)
  let s := s.sg (aQ i 8) v1
  if v.getLsbD 5 then s else s.qClear i

/-- A write of CHQ_Q[i]_BASE (R352). -/
def State.qBaseSet (s : State) (i : Nat) (v : Word) : State := if s.qEn i then s else s.sg (aQ i 0) v

/-- Does a client reach a queue's register (R52, R378)? -/
def State.qReach (s : State) (a : Client) (i o : Nat) : Bool :=
  match a with
  | .via v => s.viaReach v (aQ i o)
  | _ => decide (s.phase = .run)

/-- The master ID of a client (R13). -/
def clientMaster : Client → BitVec 12
  | .via v => BitVec.ofNat 12 (viaMaster v)
  | .engine e => 0x100 + e.zeroExtend 12
  | .mbova => 0x500

/-- The ring pair whose program an engine runs (R354). -/
def State.clientRing (s : State) (a : Client) : Option (BitVec 10) :=
  match a with
  | .engine e => (s.engine e.toNat).run.map fun p => p.q
  | _ => none

/-- Act on a queue for a client that reaches it. -/
def State.onQ (s : State) (a : Client) (i : BitVec 9) (o : Nat) (f : State → State) : Res :=
  .next (if s.qReach a i.toNat o then f s else s)

/-- A value read by an agent: it leaves as the model's output. -/
def answerVal (x : Nat × State) : State := x.2.out (.value 1 x.1)

def execResv (a : Client) (i : BitVec 9) (s : State) : Res :=
  s.onQ a i 0x10 fun s => answerVal (s.qResv i.toNat (clientMaster a) (s.clientRing a))
def execCommit (a : Client) (i : BitVec 9) (v : BitVec 48) (s : State) : Res :=
  s.onQ a i 0x18 fun s => (s.qCommit i.toNat (clientMaster a) v).2
def execRead (a : Client) (i : BitVec 9) (s : State) : Res := s.onQ a i 0x20 fun s => answerVal (s.qRead i.toNat)
def execMark (a : Client) (i : BitVec 9) (s : State) : Res := s.onQ a i 0x28 fun s => s.qCmd i.toNat 1
def execRewind (a : Client) (i : BitVec 9) (s : State) : Res := s.onQ a i 0x28 fun s => s.qCmd i.toNat 2
def execRelease (a : Client) (i : BitVec 9) (s : State) : Res := s.onQ a i 0x28 fun s => s.qCmd i.toNat 3
def execQueueDisable (a : Client) (i : BitVec 9) (s : State) : Res :=
  s.onQ a i 8 fun s => s.qCfgSet i.toNat (setBit (s.qCfg i.toNat) 5 false)

/-- Items of a queue past their age become urgent (R357). -/
def State.qAge (s : State) (i : Nat) : State :=
  let age := fld (s.qCfg i) 32 13
  if !s.qEn i ∨ age = 0 then s
  else
    let due (x : QItem) : Bool := !x.urg && decide (25 * age < s.tb.toNat - x.tick)
    let ups := (s.queue i).items.filter due
    if ups.isEmpty then s
    else
      let s := s.modQ i fun k => { k with items := k.items.map (fun x => if due x then { x with urg := true } else x),
                                          starv := satAdd 14 k.starv ups.length }
      let s := s.qRaise i
      ups.foldl (fun s x => s.event { code := 0x0610, sev := 1, master := 0x110, pay := [(9, i), (16, x.slot), (3, x.prio.toNat), (20, s.ageUs x.tick)] }) s

/-- Does a descriptor wait for an engine (R351)? -/
def LEnt.waits (e : LEnt) : Bool := decide (e.st = .accepted) && !e.wait

/-- Descriptors that wait too long become urgent (R357): event 0x0611. -/
def State.dispAge (s : State) : State :=
  let age := fld (s.rg (aChq 0x800) 1000) 19 0
  if age = 0 then s
  else s.led.foldl (fun s (k, e) =>
    if e.waits && !e.urg && decide (25 * age < s.tb.toNat - e.tacc.toNat) then
      let s := { s with promos := satAdd 32 s.promos 1 }.setEnt (k / 2 ^ 48) (k % 2 ^ 48) { e with urg := true }
      s.event { code := 0x0611, sev := 1, master := 0x110, inst := some e.inst.toNat, pay := [(10, k / 2 ^ 48), (48, k % 2 ^ 48)] }
    else s) s

def execQueueAgingCheck (s : State) : Res :=
  .next (if s.phase = .run then ((s.qs.map fun x => x.1).foldl (fun s i => s.qAge i) s).dispAge else s)

/-- Requests for the snapshots of the channel subsystem and Electrum (R365, R366). -/
def execChqSnapReq (a : Via) (s : State) : Res := s.onWrite a (aChq 0x808) fun s => (s.sg (aChq 0x808) 0).snapReq .chq
def execElcSnapReq (a : Via) (s : State) : Res := s.onWrite a (aElc 0x28) fun s => (s.sg (aElc 0x28) 0).snapReq .elc

end Sys2Proof.Machine
end

