-- ==== Sys2Proof/Machine/TungRead.lean ====
section
/-!
DEFINITION. What a read of Tungsten's logical space delivers (R250, R251): the image, the commit ring, the flush header
and commit record, the ledger with the mirror it holds, the Pewter log.
-/
namespace Sys2Proof.Machine

open Sys2Proof

/-- A 96-byte record of words 0 to 14 with its CRC in word 15 (R259). -/
def recLine (ws : List Nat) (ok : Bool) : List Byte :=
  let body := (List.range 15).map fun i => natLe 6 (ws.getD i 0)
  let bs := body.flatten
  let c := crc32c bs
  bs ++ natLe 6 (if ok then c.toNat else (~~~c).toNat)

/-- The bytes of an epoch commit record (R259). -/
def Commit.line (c : Commit) : List Byte :=
  recLine [2 ^ 32, c.seq, c.ms, c.pcyc * 2 ^ 24, c.tbase.toNat, c.base, c.groups * 2 ^ 24 + c.lines, c.mapver] c.ok

/-- The bytes of the flush header or of the flush commit record (R259). -/
def FlushRec.line (f : FlushRec) (commit : Bool) : List Byte :=
  let n := f.lines.length
  recLine [(if commit then 2 else 3) * 2 ^ 32, f.seq, f.ms, f.pcyc * 2 ^ 24, f.tbase.toNat, f.base,
           (if commit then ((n + 71) / 72) * 2 ^ 24 + n else 0), f.mapver, (if commit then f.fus * 2 ^ 24 else 0) + f.trig,
           f.state] (!commit || f.ok)

/-- A byte of the groups of a committed flush, by its offset from the first (R264): 3 index lines, then 72 data lines; what stands
behind the last line is firmware's. -/
def FlushRec.groupByte (f : FlushRec) (o : Nat) : Option Byte :=
  let at_ (k : Nat) := f.lines[72 * (o / 7200) + k]?
  let x := o % 7200
  if x < 288 then
    match at_ (x / 4) with
    | some (l, _, p) => (natLe 4 (l + b2n p * 2 ^ 28 + 2 ^ 29))[x % 4]?
    | none => if 72 * (o / 7200) < f.lines.length then some 0 else none
  else (at_ ((x - 288) / 96)).bind fun (_, d, _) => d[(x - 288) % 96]?

/-- The 48 bytes of a Pewter record (R489). -/
def PRec.bytes (r : PRec) : List Byte :=
  let w2 := r.pcyc % 2 ^ 24 * 2 ^ 24 + r.code.toNat * 2 ^ 8 + r.sev.toNat * 2 ^ 6 + r.cls.toNat * 2 ^ 3
  let w3 := r.supp * 2 ^ 32 + r.master.toNat * 2 ^ 20 + r.inst.toNat * 2 ^ 14 + b2n r.instv * 2 ^ 13 + r.flags.toNat * 2 ^ 8
  let bs := natLe 6 r.seq ++ natLe 6 r.ms ++ natLe 6 w2 ++ natLe 6 w3 ++
    ((List.range 3).map fun i => wordLe (r.payload.getD i 0)).flatten
  let c := crc32c bs
  bs ++ natLe 6 (c ^^^ r.inv.zeroExtend 32).toNat

/-- A copy of the boot configuration as its line (R514). -/
def BootCfg.line (c : BootCfg) : List Byte :=
  recLine ([4 * 2 ^ 32 + 0x42434647, c.seq, c.mode.toNat] ++ c.spare ++ List.replicate (12 - c.spare.length) 0) true

/-- The byte at a logical address of Tungsten, where the model holds it (R250): none for content that only firmware
reads, for a flush area that holds nothing but fill or what an unfinished flush left there (R247), and for an image line that
Tungsten cannot correct. Addresses outside the regions read zero (R251). -/
def State.tungByte (s : State) (a : Nat) : Option Byte :=
  if a < s.part.msBytes then (if s.tun.imgU.contains (a / 96) then none else some (spGetD 0 s.tun.img a))
  else if 0x800000000 ≤ a ∧ a < 0x800000000 + 2 ^ 30 then
    let o := a - 0x800000000
    match s.tun.flush with
    | none => none
    | some f =>
      if o < 96 then (f.line false)[o]?
      else if f.committed ∧ 0xFFFA0 ≤ o then (if o < 0x100000 then (f.line true)[o - 0xFFFA0]? else f.groupByte (o - 0x100000))
      else none
  else if 0x900000000 ≤ a ∧ a < 0x900000000 + 4 * 2 ^ 30 then
    let o := a - 0x900000000
    if o < 0x18000 then (s.ringRec (o / 96) 0)[o % 96]?
    else if o < 0x30000 then
      (match spGet s.mirIn (0x900000000 + o - o % 96) with
      | some bs => bs[o % 96]?
      | none => some 0)
    else if o < 0x100000 then none
    else
      -- granules: entries stand at multiples of 96 from the first granule
      let e := 0x900100000 + (o - 0x100000) - (o - 0x100000) % 96
      (match s.led.find? fun (_, x) => x.addr = e with
      | some (k, x) => (entBytes (k / 2 ^ 48) (k % 2 ^ 48) x)[(o - 0x100000) % 96]?
      | none => match spGet s.mirIn e with
        | some bs => bs[(o - 0x100000) % 96]?
        | none => some 0)
  else if 0xA00000000 ≤ a ∧ a < 0xA00000000 + 3 * 2 ^ 20 then
    let o := a - 0xA00000000
    match spGet s.pew.log (o / 48) with
    | some r => (r.bytes)[o % 48]?
    | none => some 0
  else if 0xA04000000 ≤ a ∧ a < 0xA04000000 + 98304 then
    let o := a - 0xA04000000
    match spGet s.tun.ring (o / 96) with
    | some c => c.line[o % 96]?
    | none => some 0
  else if 0xA04018000 ≤ a ∧ a < 0xA040180C0 then
    -- copies A and B of the boot configuration, written in turn
    let o := a - 0xA04018000
    match s.bcfg.find? fun c => c.seq % 2 = 1 - o / 96 with
    | some c => c.line[o % 96]?
    | none => some 0
  else if 0xA04000000 ≤ a ∧ a < 0xA08000000 then none
  else some 0

/-- `n` bytes from a logical address; bytes of firmware's own come with the command. -/
def State.tungBytes (s : State) (a n : Nat) (ext : List Byte) : List Byte :=
  (List.range n).map fun i => match s.tungByte (a + i) with
    | some b => b
    | none => ext.getD i 0

/-- Does a logical address lie in a region (R250)? -/
def State.tungRegion (s : State) (a : Nat) : Bool :=
  decide (a < s.part.msBytes) || decide (0x800000000 ≤ a ∧ a < 0x800000000 + 2 ^ 30) ||
  decide (0x900000000 ≤ a ∧ a < 0x900000000 + 4 * 2 ^ 30) || decide (0xA00000000 ≤ a ∧ a < 0xA00000000 + 3 * 2 ^ 20) ||
  decide (0xA04000000 ≤ a ∧ a < 0xA08000000)

/-- May a processor read a byte of the logical space (R251): the image within its instance's partition, which is the image of its
window, the other regions with system-register access; what lies outside the regions reads zero for everyone. -/
def State.tungMay (s : State) (p : BitVec 6) (a : Nat) : Bool :=
  !s.tungRegion a || (if a < s.part.msBytes then (s.instOfProc p).isSome && s.inWindow p a 1
    else match s.instOfProc p with | some i => (s.inst i).sysr | none => false)

/-- A processor's read of space 1 (R251, R252): plaintext without the poison flag; a read that it may not make returns zero and is
event 0x0417. -/
def State.tungRead (s : State) (p : BitVec 6) (a n : Nat) (ext : List Byte) : List Byte × State :=
  if (List.range n).all fun i => s.tungMay p (a + i) then (s.tungBytes a n ext, s)
  else (List.replicate n 0, s.event { code := 0x0417, sev := 1, blk := some .tun, master := p.toNat, pay := [(48, a), (12, p.toNat)] })

end Sys2Proof.Machine
end

