-- ==== Sys2Proof/Machine/Routine.lean ====
section
/-!
DEFINITION. The steps of the micro-routines (spec 03 R102 to R105, spec 05 R146, R147, spec 12 R314).
-/
namespace Sys2Proof.Machine

open Sys2Proof

/-- The segments a routine touches, in the order of their accesses to one byte (R102): segment A or not, and how. -/
def routineSides (fn : BitVec 3) : List (Bool × AccKind) :=
  match fn.toNat with
  | 0 => [(false, .mrRead), (true, .mrWrite)]
  | 1 => [(true, .mrWrite)]
  | 2 => [(true, .mrRead), (false, .mrRead)]
  | _ => [(false, .mrRead)]

/-- Does a routine touch segment A, or B? -/
def Routine.uses (r : Routine) (isA : Bool) : Bool := (routineSides r.fn).any fun x => x.1 = isA

/-- The register of a segment's offset, and the segment's number (R101). -/
def routineReg (isA : Bool) : BitVec 5 := if isA then 1 else 2
def Routine.seg (r : Routine) (isA : Bool) : BitVec 4 := if isA then r.a else r.b

/-- The check of one byte of a step (R51, R103). -/
def State.routineAccess (s : State) (p : BitVec 6) (r : Routine) (isA : Bool) (kind : AccKind) (i : Nat) : Except Due Acc :=
  let q := s.proc p
  s.access p kind (r.seg isA) (q.gR (routineReg isA) + BitVec.ofNat 48 i) 1 1 q.ip

/-- Bytes of a step (R104). -/
def State.routineLen (s : State) (p : BitVec 6) (r : Routine) : Nat :=
  let q := s.proc p
  let room (isA : Bool) : Nat := if r.uses isA then 96 - ((q.seg (r.seg isA).toNat).w0.toNat + (q.gR (routineReg isA)).toNat) % 96 else 96
  min (q.gR 3).toNat (min (room true) (room false))

/-- Something that stops a step at one of its bytes: the byte, the rank of the access among those to the byte, the exception. -/
structure RStop where
  at_  : Nat
  rank : Nat
  due  : Due

/-- The first of two stops. -/
def RStop.first (x y : RStop) : RStop := if y.at_ < x.at_ ∨ (y.at_ = x.at_ ∧ y.rank < x.rank) then y else x

/-- The first byte of a step whose check fails in one segment. -/
def State.routineFault (s : State) (p : BitVec 6) (r : Routine) (isA : Bool) (kind : AccKind) (rank n : Nat) : Option RStop :=
  (List.range n).findSome? fun i => match s.routineAccess p r isA kind i with
    | .error d => some { at_ := i, rank := rank, due := { d with mr := true } }
    | .ok _ => none

/-- What a routine reads in one segment, as loads of its bytes would (R88, R103, R160, R167, R251): the bytes before the first poisoned one and whether that stops it, or a wait. -/
def State.routineRead (s : State) (p : BitVec 6) (r : Routine) (isA : Bool) (a : Acc) (n : Nat) (ext : List Byte) (pois : Bool) :
    Option (List Byte × Bool) × State :=
  let q := s.proc p
  let given : Option (List Byte × Bool) := some (if pois then ([], true) else ((ext ++ List.replicate n 0).take n, false))
  -- a store of its own to another space is read only once it is performed (R160)
  if a.space ≠ 0 && q.ownStores.any fun e => e.touches a.space a.node a.addr n then (none, s)
  else match s.cacheLine a with
  | some l =>
    let own : List (Option Byte) := (List.range n).map fun i => if a.space = 0 then q.ownByte (a.addr + i) else none
    if own.all Option.isSome then (some (own.filterMap id, false), s)
    else match s.procRead p l a.addr n with
      | (none, s) => (none, s)
      | (some (bs, z), s) =>
        let all := (List.zip own bs).map fun (o, b) => o.getD b
        (some (if z then (all.take ((own.findIdx? Option.isNone).getD n), true) else (all, false)), s)
  | none =>
    match a.space.toNat with
    | 1 => let (bs, s) := s.tungRead p a.addr n ext
           (some (bs, false), s)
    | 3 => if s.mstat 2 && !s.mstat 1 then (given, s.hostReads a.addr n) else (some ([], true), s.readLost p a.addr 3)
    | 4 =>
      let l := a.addr / 96
      (match r.far.find? fun x => x.1 = isA ∧ x.2.1 = l with
      | some (_, _, some (d, z)) => (some (if z then ([], true) else ((d.drop (a.addr % 96)).take n, false)), s)
      | some _ => (none, s)
      | none =>
        (none, (s.modProc p fun q => { q with routine := some { r with far := r.far ++ [(isA, l, none)] } }).rRead
          (.routine p isA) a.node a.addr ((s.instOfProc p).getD 0) p.toNat))
    | _ => (given, s)

/-- BMOVE's bytes, copied one at a time in ascending order (R102 note a): a byte written earlier in the step is read
back where source and destination overlap. -/
def moveBytes (sameSpace : Bool) (src dst : Nat) : List Byte → Nat → List Host.Cell → List Host.Cell
  | [], _, w => w
  | b :: bs, i, w =>
    let v := if sameSpace then (spGet w (src + i)).getD b else b
    moveBytes sameSpace src dst bs (i + 1) (spIns w (dst + i) v)

/-- The routine's progress after n bytes: offsets advance, the count falls. -/
def Proc.progress (q : Proc) (r : Routine) (n : Nat) : Proc :=
  let d : Word := BitVec.ofNat 48 n
  let q := if r.uses true then q.gW 1 (q.gR 1 + d) else q
  let q := if r.uses false then q.gW 2 (q.gR 2 + d) else q
  q.gW 3 (q.gR 3 - d)

/-- The routine ends: the instruction completes (R105). -/
def Proc.routineDone (q : Proc) : Proc :=
  let ss := q.ss
  Proc.finish { q with routine := none, ip := q.ip + 6 } ss

/-- The end of a step: a marked boundary, which is a retry checkpoint (R104, R148, R149), or the end of the routine. -/
def Proc.stepEnd (q : Proc) (r : Routine) : Proc :=
  if q.gR 3 = 0 then (if r.fn = 2 then q.gW 4 0 else q).routineDone
  else { q.checkpoint with routine := some { r with started := true, far := [] } }

/-- The first index where two byte lists differ. -/
def firstDiff : List Byte → List Byte → Nat → Option Nat
  | x :: xs, y :: ys, i => if x = y then firstDiff xs ys (i + 1) else some i
  | _, _, _ => none

/-- What the bytes of a step do to the processor (R102), `m` of them with the bytes read in A and in B: none while the store buffer has
no room. -/
def Proc.routineWork (q : Proc) (r : Routine) (wr : Option Acc) (same : Bool) (src m : Nat) (xs ys : List Byte) : Option (Bool × Proc) :=
  let store (cells : List Host.Cell) (a : Acc) : Option (Bool × Proc) :=
    let e : Entry := { sn := q.sn, space := a.space, node := a.node, seg := r.a, acc := 6, persist := a.persist && decide (a.space = 0), comb := false, bytes := cells }
    if m = 0 then some (true, q)
    else if q.sbRoom 1 then some (true, Proc.progress { q with sb := q.sb ++ [.entry e] } r m) else none
  match r.fn.toNat, wr with
  | 0, some a => store (moveBytes same src a.addr (ys.take m) 0 []) a
  | 1, some a => store (cellsAt a.addr (List.replicate m ((q.gR 4).setWidth 8))) a
  | 2, _ =>
    (match firstDiff (xs.take m) (ys.take m) 0 with
    | some j => some (false, (Proc.gW (q.progress r j) 4 (if (ys.getD j 0).toNat < (xs.getD j 0).toNat then 1 else BitVec.allOnes 48)).routineDone)
    | none => some (true, q.progress r m))
  | 3, _ =>
    (match (ys.take m).findIdx? fun y => y = (q.gR 4).setWidth 8 with
    | some j => some (false, (q.progress r j).routineDone)
    | none => some (true, q.progress r m))
  | 4, _ => some (true, (q.progress r m).gW 4 ((crcRun ((q.gR 4).setWidth 32) (ys.take m)).setWidth 48))
  | _, _ => some (true, q)

/-- One step of a micro-routine (R102 to R104, R147): the bytes before the first that faults are done, the fault is then due. -/
def State.routineStep (s : State) (p : BitVec 6) (r : Routine) (ext : List Byte) (pois : Bool) : State :=
  let q := s.proc p
  if q.gR 3 = 0 then s.setProc p (if r.fn = 2 then q.gW 4 0 else q).routineDone
  else
    let n := s.routineLen p r
    let sides := (routineSides r.fn).zipIdx
    let checks := sides.filterMap fun ((isA, kind), i) => s.routineFault p r isA kind (2 * i) n
    let place (isA : Bool) : Option Acc := sides.findSome? fun ((x, kind), _) =>
      if x = isA then (match s.routineAccess p r isA kind 0 with | .ok a => some a | .error _ => none) else none
    let lim (isA : Bool) : Nat := sides.foldl (fun m ((x, _), i) => if x = isA then
      (checks.filter fun c => c.rank = 2 * i).foldl (fun m c => min m c.at_) m else m) n
    -- lines of the combining buffer that the step touches drain first (R170)
    let touch (isA : Bool) (l : Nat) : Bool := match place isA with | some a => decide (a.space = 0 ∧ l = a.addr / 96) | none => false
    match q.drainComb fun c => touch true c.line || touch false c.line with
    | none => s
    | some q1 =>
      let s := s.setProc p q1
      let rd (s : State) (isA : Bool) (ext : List Byte) : Option (List Byte × Bool) × State :=
        match place isA with
        | some a =>
          if (sides.any fun ((x, k), _) => x = isA && decide (k = .mrRead)) && decide (lim isA ≠ 0) then s.routineRead p r isA a (lim isA) ext pois
          else (some ([], false), s)
        | none => (some ([], false), s)
      let near (isA : Bool) : Bool := match place isA with | some a => (s.cacheLine a).isSome | none => true
      match rd s true ext with
      | (none, s) => s
      | (some (xs, zx), s) =>
        match rd s false (if r.uses true && r.fn = 2 && !near true then ext.drop (lim true) else ext) with
        | (none, s) => s
        | (some (ys, zy), s) =>
          -- poison consumed at the byte behind those that were read (R88, R147)
          let bad (z isA : Bool) (bs : List Byte) : List RStop := sides.filterMap fun ((x, _), i) =>
            if z && decide (x = isA) then
              some { at_ := bs.length, rank := 2 * i + 1,
                     due := { code := 0x0B, xip := q.ip, addr := q.gR (routineReg isA) + BitVec.ofNat 48 bs.length,
                              paddr := BitVec.ofNat 48 (match place isA with | some a => (a.addr + bs.length) / 96 * 96 | none => 0),
                              seg := r.seg isA, acc := 5, mr := true } }
            else none
          let stops := checks ++ bad zx true xs ++ bad zy false ys
          let stop := stops.tail.foldl RStop.first <$> stops.head?
          let m := match stop with | some x => x.at_ | none => n
          let same : Bool := match place true, place false with | some a, some b => decide (a.space = b.space ∧ a.node = b.node) | _, _ => false
          match Proc.routineWork (s.proc p) r (place true) same (match place false with | some b => b.addr | none => 0) m xs ys with
          | none => s
          | some (false, q) => s.setProc p q
          | some (true, q) => s.setProc p (match stop with
              | some x => { q with routine := none, fault := some x.due }
              | none => q.stepEnd r)

/-- MICRO_ROUTINE_STEP (R104): the processor takes no step while something that comes first is due at the marked boundary (R135, R150,
R153), or while it is paused or stops. -/
def execMicroRoutineStep (p : BitVec 6) (ext : List Byte) (pois : Bool) (s : State) : Res :=
  let q := s.proc p
  .next (match q.routine with
    | some r =>
      if s.runs p && s.hasProc p && decide (q.run = .running) && q.paused.isNone && q.relock.isNone && q.fault.isNone && q.trap.isNone &&
          q.mcheck.isNone && !(q.resume.isSome && !q.act) && !(q.stepDue && !q.inShadow) && !(q.stopReq.isSome && q.interruptible) then
        s.routineStep p r ext pois
      else s
    | none => s)

end Sys2Proof.Machine
end

