-- ==== Sys2Proof/Machine/Engine.lean ====
section
/-!
DEFINITION. A channel engine's word (spec 14): microword fields (R369), control stores (R383), stalls (R381), faults
(R382), boundaries (R380), the fields' actions, the end of a word (R371, R375, R379) and of a program.
-/
namespace Sys2Proof.Machine

open Sys2Proof

/-- A microword (R369). -/
abbrev Mw := BitVec 144

/-- Field [hi:lo] of a microword. -/
def Mw.f (w : Mw) (hi lo : Nat) : Nat := (w.toNat >>> lo) % 2 ^ (hi + 1 - lo)

def Mw.sq (w : Mw) : Nat := w.f 143 140
def Mw.next (w : Mw) : BitVec 15 := w.extractLsb' 125 15
def Mw.cond (w : Mw) : Nat := w.f 124 120
def Mw.cpol (w : Mw) : Bool := w.getLsbD 119
def Mw.aop (w : Mw) : Nat := w.f 118 115
def Mw.adst (w : Mw) : Nat := w.f 114 110
def Mw.asa (w : Mw) : Nat := w.f 109 105
def Mw.asb (w : Mw) : Nat := w.f 104 100
def Mw.aimm (w : Mw) : Bool := w.getLsbD 99
def Mw.lit (w : Mw) : Nat := w.f 98 83
def Mw.sop (w : Mw) : Nat := w.f 82 80
def Mw.sdst (w : Mw) : Nat := w.f 79 75
def Mw.ssrc (w : Mw) : Nat := w.f 74 70
def Mw.spos (w : Mw) : Nat := w.f 69 64
def Mw.swid (w : Mw) : Nat := w.f 63 58 + 1
def Mw.mop (w : Mw) : Nat := w.f 57 54
def Mw.mreg (w : Mw) : Nat := w.f 53 49
def Mw.mlreg (w : Mw) : Nat := w.f 48 44
def Mw.mbuf (w : Mw) : BitVec 2 := w.extractLsb' 42 2
def Mw.xop (w : Mw) : Nat := w.f 41 38
def Mw.xreg (w : Mw) : Nat := w.f 37 33
def Mw.stat (w : Mw) : Nat := w.f 23 16
def Mw.step (w : Mw) : BitVec 4 := w.extractLsb' 12 4
def Mw.sw (w : Mw) : Bool := w.getLsbD 11
def Mw.bnd (w : Mw) : Bool := w.getLsbD 10
def Mw.xind (w : Mw) : Bool := w.getLsbD 9

/-- The empty word (R383). -/
def emptyWord : Mw := 0x1FF

/-- Is an address in a store that can be fetched (R383)? -/
def storeAddr (a : Nat) : Bool := decide (a < 0x1000) || (decide (0x4000 ≤ a) && decide (a < 0x8000))

/-- The word at an address for engine e (R383): the standard region holds the standard image until it is rewritten. -/
def State.uword (s : State) (e a : Nat) : Mw :=
  if a < 0x1000 then spGetD emptyWord (s.engine e).store a
  else match spGet s.ushare a with
    | some w => w
    | none => if 0x4000 ≤ a ∧ a < 0x5000 then Config.stdWord a else emptyWord

/-- Register n of a program (R370): V0 reads zero. -/
def Prog.r (p : Prog) (n : Nat) : BitVec 64 := if n = 0 then 0 else spGetD 0 p.v n

/-- A hardware write of a register. -/
def Prog.hw (p : Prog) (n : Nat) (x : BitVec 64) : Prog := if n = 0 then p else { p with v := spPut 0 p.v n x }

/-- A write of a register by microcode (R370): V0, V30 and V31 keep their values. -/
def Prog.w (p : Prog) (n : Nat) (x : BitVec 64) : Prog := if n = 30 ∨ n = 31 then p else p.hw n x

/-- The queue a word names (R378). -/
def Prog.queueOf (p : Prog) (w : Mw) : Nat := if w.xind then (p.r w.asb).toNat % 512 else w.f 32 24

/-- Registers that a pending port operation will write (R378, R410, R411). -/
def POp.regs (o : POp) : List Nat :=
  let r := o.reg.toNat
  match o.op.toNat with
  | 1 | 3 | 5 | 9 => [r]
  | 6 => [r, r + 4, r + 5, r + 6]
  | 7 => [r, r + 3, r + 4]
  | _ => []

/-- Registers a word reads or writes (R381). -/
def Mw.regs (w : Mw) : List Nat :=
  (if w.aop ≠ 0 then (w.asa :: (if w.aimm then [] else [w.asb])) ++ [w.adst] else []) ++
  (if w.xind ∧ (w.xop ≠ 0 ∨ w.sq = 6) then [w.asb] else []) ++
  (if w.sop ≠ 0 then (if w.sop = 4 then [w.sdst] else [w.sdst, w.ssrc]) else []) ++
  (if w.mop = 1 then [w.mreg, w.mlreg] else if w.mop = 2 then [w.mreg] else if w.mop = 3 then [w.mlreg] else []) ++
  (if w.xop = 6 ∨ w.xop = 7 then (List.range 8).map (w.xreg + ·) else if w.xop ≠ 0 ∧ w.xop ≠ 8 then [w.xreg] else []) ++
  (if w.sq = 2 ∧ w.cond = 6 then [w.xreg] else []) ++
  (if w.sq = 2 ∧ w.cond = 5 then [31] else []) ++ (if w.sw ∧ w.stat = 0xFF then [31] else []) ++
  (if w.sq = 7 then [18, 19, 20, 21] else [])

/-- Buffers a pending Cobalt or Zinc piece uses (R412): its source and destination selectors. -/
def POp.bufs (o : POp) : List Nat :=
  let c := o.req.getD 0 0
  let (a, b) := if o.op = 6 then (fld c 34 32, fld c 37 35) else if o.op = 7 then (fld c 10 8, fld c 13 11) else (0, 0)
  (if 4 ≤ a then [a - 4] else []) ++ (if 4 ≤ b then [b - 4] else [])

/-- Buffers that the piece a word submits would use. -/
def Prog.wordBufs (p : Prog) (w : Mw) : List Nat :=
  if w.xop = 6 ∨ w.xop = 7 then ({ id := 0, op := BitVec.ofNat 4 w.xop, reg := 0, req := [p.r w.xreg] } : POp).bufs else []

/-- Is a port operation one of Cobalt's or Zinc's? -/
def POp.unit (o : POp) : Bool := decide (o.op = 6) || decide (o.op = 7)

/-- Does the word stall (R381)? END and PARK leave nothing of the program's own in progress. -/
def State.uStall (s : State) (e : Nat) (p : Prog) (w : Mw) : Bool :=
  let used := (p.mops.map fun m => m.buf.toNat) ++ (p.pops.map fun o => o.bufs).flatten
  (p.pops.any fun o => (o.regs ++ [31]).any fun r => w.regs.contains r) ||
  ((decide (w.mop = 1 ∨ w.mop = 2 ∨ w.mop = 3)) && used.contains w.mbuf.toNat) ||
  ((p.wordBufs w).any fun b => used.contains b) ||
  (decide (w.mop = 4 ∨ w.sq = 7) && !p.mops.isEmpty) ||
  (decide (w.sq = 7) && !p.pops.isEmpty) ||
  (decide (w.sq = 6) && (!p.mops.isEmpty || (p.pops.any POp.unit) || decide (64 ≤ (s.engine e).parked.length))) ||
  (decide (w.xop = 6 ∨ w.xop = 7) && decide (4 ≤ p.pops.length))

/-- The microcode fault of a word before it issues (R374, R378, R379, R382), as UFLT.KIND. -/
def State.uFault (s : State) (e : Nat) (p : Prog) (w : Mw) : Option Nat :=
  if !storeAddr p.ua.toNat then some 3
  else if w.sq ≥ 8 ∨ w.cond ≥ 8 ∨ w.aop ≥ 13 ∨ w.sop ≥ 5 ∨ w.mop ≥ 5 ∨ w.xop ≥ 10 then some 1
  else if w.f 8 0 ≠ 0 then some 2
  else if (w.sq = 3 ∧ p.stack.length ≥ 8) ∨ (w.sq = 4 ∧ p.stack = []) then some 4
  else if (1 ≤ w.sop ∧ w.sop ≤ 3 ∧ w.spos + w.swid > 64) ∨ ((w.xop = 6 ∨ w.xop = 7) ∧ w.xreg > 22) then some 5
  else if w.sq = 6 ∧ (s.qEng (p.queueOf w) = false ∨ p.mtch = none ∨ (s.zns.any fun z => z.e.toNat = e ∧ z.seq = p.seq ∧ z.q = p.q) = true) then
    some 6
  else if w.sw ∧ 0x0E ≤ w.stat ∧ w.stat ≤ 0xFD then some 7
  else none

/-- Is a program fenced: its entry was ABANDONED by a reset of its instance (R427)? What it writes is discarded. -/
def State.progGone (s : State) (p : Prog) : Bool :=
  match s.ent p.q.toNat p.seq with
  | some x => decide (x.st = .abandoned)
  | none => true

/-- The open Cobalt and Zinc operations of a program are discarded (R412). -/
def State.dropOps (s : State) (q : BitVec 10) (seq : Nat) : State :=
  { s with cobs := s.cobs.filter fun c => !(c.q = q ∧ c.seq = seq), zns := s.zns.filter fun z => !(z.q = q ∧ z.seq = seq) }

/-- A program that has ended becomes DONE once its operations have (R309, R335, R382). -/
def State.uFinish (s : State) (e : Nat) : State :=
  match (s.engine e).run with
  | none => s
  | some p =>
    if p.ending && p.mops.isEmpty && p.pops.isEmpty then
      let st := p.status.toNat
      let s := (s.dropOps p.q p.seq).modEng e fun g => { g with run := none, done := satAdd 48 g.done 1 }
      s.entDone p.q.toNat p.seq st (if st = 0 then 0 else p.step.toNat) p.ut [p.r 18, p.r 19, p.r 20, p.r 21]
    else s

/-- Replace the running program. -/
def State.setRun (s : State) (e : Nat) (p : Prog) : State := s.modEng e fun g => { g with run := some p }

/-- The program stops here with a status (R335, R380): port operations without effects of their own are forgotten. -/
def State.uStop (s : State) (e : Nat) (p : Prog) (status : BitVec 8) : State :=
  (s.setRun e { p with status := status, ending := true, pops := p.pops.filter POp.unit }).uFinish e

/-- A microcode fault (R382): UFLT, event 0x0620, FORMAT_ERROR with the current STEP. -/
def State.uFaultAt (s : State) (e : Nat) (p : Prog) (kind : Nat) : State :=
  let s := s.sg (aChan e 0x1030) (BitVec.ofNat 48 (kind * 2 ^ 20 + p.ua.toNat))
  let s := s.event { code := 0x0620, sev := 2, master := 0x100 + e, inst := (s.ent p.q.toNat p.seq).map fun x => x.inst.toNat,
                     pay := [(4, e), (4, kind), (15, p.ua.toNat), (10, p.q.toNat), (48, p.seq)] }
  s.uStop e p 4

/-- At a block boundary (R380): an abort or a reset of the owner stops the program. -/
def State.uBound (s : State) (e : Nat) (p : Prog) : Option State :=
  if s.progGone p then some (s.uStop e p 9)
  else if p.abort ∨ s.abt = some (p.q.toNat, p.seq) then some (s.uStop e p 0x0A)
  else none

/-- The first word makes the entry STARTED (R344, R370). -/
def State.uStart (s : State) (e : Nat) (p : Prog) : State × Prog :=
  if p.started then (s, p)
  else
    let p' := { p with started := true }
    let s := match s.ent p.q.toNat p.seq with
      | some x => if x.st = LSt.accepted then s.setEnt p.q.toNat p.seq { x with st := .started } else s
      | none => s
    (s.setRun e p', p')

/-- Whether the present word may act: it stops, it stalls, or it goes on with the program. -/
inductive UPre where
  | stop (s : State)
  | stall
  | go (s : State) (p : Prog)

/-- Checks before a word's first field acts (R380 to R382). -/
def State.uPre (s : State) (e : Nat) (p : Prog) (w : Mw) : UPre :=
  if p.ending then .stall
  else if p.fields ≠ 0 then .go s p
  else
    let b := if w.bnd then s.uBound e p else none
    match b with
    | some s' => .stop s'
    | none =>
      let p := if w.bnd then { p with cycles := 0 } else p
      match s.uFault e p w with
      | some k => .stop ((s.uStart e p).1.uFaultAt e p k)
      | none =>
        if s.uStall e p w then .stall
        else let (s, p) := s.uStart e p; .go s p

/-- The ALU's result and carry (R373). -/
def aluOf (op : Nat) (a b : BitVec 64) : BitVec 64 × Bool :=
  match op with
  | 1 => (a + b, decide (2 ^ 64 ≤ a.toNat + b.toNat))
  | 2 => (a - b, decide (b.toNat ≤ a.toNat))
  | 3 => (a &&& b, false)
  | 4 => (a ||| b, false)
  | 5 => (a ^^^ b, false)
  | 6 => (a &&& ~~~b, false)
  | 7 => (if a.toNat ≤ b.toNat then a else b, false)
  | 8 => (if a.toNat ≤ b.toNat then b else a, false)
  | 9 => (a, false)
  | 10 => (a <<< (b.toNat % 64), false)
  | 11 => (a >>> (b.toNat % 64), false)
  | _ => (a - b, decide (b.toNat ≤ a.toNat))

/-- Bits of `fields`: which fields of the word have been done. -/
def Prog.did (p : Prog) (i : Nat) : Prog := { p with fields := setBit p.fields i true }

/-- The ALU field (R373, R375): the result waits for the end of the word. -/
def Prog.doAlu (p : Prog) (w : Mw) : Prog :=
  if w.aop = 0 ∨ p.fields.getLsbD 0 then p.did 0
  else
    let b := if w.aimm then BitVec.ofNat 64 w.lit else p.r w.asb
    let r := aluOf w.aop (p.r w.asa) b
    { p.did 0 with aluR := some r, alu := if w.aop = 12 then none else some (BitVec.ofNat 5 w.adst, r.1) }

/-- The shifter field (R374). -/
def Prog.doShf (p : Prog) (w : Mw) : Prog :=
  if w.sop = 0 ∨ p.fields.getLsbD 1 then p.did 1
  else
    let x := p.r w.ssrc
    let v := (x.toNat >>> w.spos) % 2 ^ w.swid
    let r : BitVec 64 := match w.sop with
      | 1 => BitVec.ofNat 64 v
      | 2 => BitVec.ofNat 64 (if v ≥ 2 ^ (w.swid - 1) then v + 2 ^ 64 - 2 ^ w.swid else v)
      | 3 => setFld (p.r w.sdst) (w.spos + w.swid - 1) w.spos (x.toNat % 2 ^ w.swid)
      | _ => BitVec.ofNat 64 (w.lit <<< w.spos)
    { p.did 1 with shf := some (BitVec.ofNat 5 w.sdst, r) }

/-- An address in the format of R331: KIND, node, address bits, and whether the bits that must be zero are. -/
structure Adr where
  kind : Nat
  node : BitVec 14
  a    : Nat
  zok  : Bool
deriving DecidableEq, Repr

/-- Read an address; one at the module's own node is local (R447). -/
def State.adr (s : State) (v : BitVec 64) : Adr :=
  let k := fld v 63 62
  match k with
  | 2 => ⟨2, 0, fld v 51 0, decide (fld v 61 52 = 0)⟩
  | 3 =>
    let n : BitVec 14 := v.extractLsb' 48 14
    if n = s.node then ⟨0, 0, fld v 47 0, true⟩ else ⟨3, n, fld v 47 0, true⟩
  | _ => ⟨k, 0, fld v 47 0, decide (fld v 61 48 = 0)⟩

/-- The check of an address for `n` bytes by instance i (R331): 0, or the status it gives. -/
def State.adrCheck (s : State) (i : Nat) (x : Adr) (n : Nat) (write : Bool) : Nat :=
  let c := s.inst i
  if !x.zok then 4
  else if n = 0 then (if x.kind = 1 ∧ write then 7 else 0)
  else match x.kind with
  | 0 => if c.wbase * 25165824 ≤ x.a ∧ x.a + n ≤ (c.wbase + c.wcount) * 25165824 ∧ x.a + n ≤ s.part.msBytes then 0 else 7
  | 1 => if write then 7
         else if c.wbase * 25165824 ≤ x.a ∧ x.a + n ≤ (c.wbase + c.wcount) * 25165824 ∧ x.a + n ≤ s.part.msBytes then 0 else 7
  | 2 => if c.hen ∧ c.hbase * 4096 ≤ x.a ∧ x.a + n ≤ c.hlim * 4096 + 4096 then 0 else 7
  | _ => 0

/-- Add to the address bits of an address (R376). -/
def adrAdd (v : BitVec 64) (n : Nat) : BitVec 64 :=
  if fld v 63 62 = 2 then setFld v 51 0 ((fld v 51 0 + n) % 2 ^ 52) else setFld v 47 0 ((fld v 47 0 + n) % 2 ^ 48)

/-- The lines a byte range touches. -/
def rangeLs (a n : Nat) : List Nat := if n = 0 then [] else (List.range ((a + n + 95) / 96 - a / 96)).map (a / 96 + ·)

/-- The instance a program works for (R331). -/
def State.progInst (s : State) (p : Prog) : Nat := match s.ent p.q.toNat p.seq with | some x => x.inst.toNat | none => 0

/-- A buffer of an engine. -/
def State.bufOf (s : State) (e b : Nat) : Buf := spGetD {} (s.engine e).bufs b

/-- Requests of a read for a program leave: one a line to another node (R447), one a host line to host memory (R314). The number of
answers to await. -/
def State.askFar (s : State) (who : RWho) (p : Prog) (e : Nat) (x : Adr) (n : Nat) : Nat × State :=
  let i := s.progInst p
  if x.kind = 3 then
    let ls := rangeLs x.a n
    (ls.length, ls.foldl (fun s l => s.rRead who x.node (96 * l) i (0x100 + e)) s)
  else if x.kind = 2 ∧ s.adrCheck i x n false = 0 then (0, s.hostReads x.a n)
  else (0, s)

/-- Writes of a program to another node leave, one a line (R447): the number of answers to await. -/
def State.putFar (s : State) (who : RWho) (p : Prog) (e : Nat) (x : Adr) (bs : List Byte) : Nat × State :=
  let i := s.progInst p
  let ls := rangeLs x.a bs.length
  let cells := cellsAt x.a bs
  (ls.length, ls.foldl (fun s l => s.rWrite who x.node l i (0x100 + e) (cells.filter fun (y, _) => y / 96 = l)) s)

/-- A mover operation is issued (R376): 0 RD of n bytes, 1 WR of what the buffer holds, 2 FILL of n copies of the byte in `addr`. One
behind a failure is void. -/
def State.movIssue (s : State) (e : Nat) (p : Prog) (kind b : BitVec 2) (addr : BitVec 64) (n : Nat) : State × Prog :=
  let x := s.adr addr
  let void := decide (p.r 30 ≠ 0)
  let buf := s.bufOf e b.toNat
  let n := if kind = 1 then buf.data.length else n
  let who : RWho := .mov (BitVec.ofNat 4 e) b
  let (left, s) : Nat × State :=
    if void || decide (kind = 2) then (0, s)
    else if kind = 0 then s.askFar who p e x n
    else if x.kind = 3 ∧ buf.bad = false ∧ s.progGone p = false then s.putFar who p e x buf.data
    else (0, s)
  (s, { p with mops := p.mops ++ [{ kind := kind, buf := b, addr := addr, n := n, void := void, left := left }] })

/-- The mover field (R376): the operation is issued; its registers change at the end of the word. -/
def State.doMov (s : State) (e : Nat) (p : Prog) (w : Mw) : State × Prog :=
  if w.mop = 0 ∨ w.mop = 4 ∨ p.fields.getLsbD 2 then (s, p.did 2)
  else
    let len := (p.r w.mlreg).toNat
    let n := min len 6144
    let addr := p.r w.mreg
    let mreg := BitVec.ofNat 5 w.mreg
    let rest := (BitVec.ofNat 5 w.mlreg, BitVec.ofNat 64 (len - n))
    match w.mop with
    | 1 =>
      let (s, p) := s.movIssue e p 0 w.mbuf addr n
      (s, { p.did 2 with movs := [(mreg, adrAdd addr n), rest], lz := decide (len - n = 0) })
    | 2 =>
      let c := (s.bufOf e w.mbuf.toNat).data.length
      let (s, p) := s.movIssue e p 1 w.mbuf addr c
      (s, { p.did 2 with movs := [(mreg, adrAdd addr c)] })
    | _ =>
      let (s, p) := s.movIssue e p 2 w.mbuf (BitVec.ofNat 64 (w.lit % 256)) n
      (s, { p.did 2 with movs := [rest], lz := decide (len - n = 0) })

/-- A request is submitted to Cobalt (6) or Zinc (7) with its eight words (R410, R411); reads of another node or of host memory leave
now. At an absent unit it ends at once with UNIT_ABSENT and no output (R7, R378). -/
def State.unitIssue (s : State) (e : Nat) (p : Prog) (op : Nat) (reg : BitVec 5) (req : List (BitVec 64)) : State × Prog :=
  let id := s.ports
  let s := { s with ports := s.ports + 1 }
  let o : POp := { id := id, op := BitVec.ofNat 4 op, reg := reg, n := id }
  let there : Bool := if op = 6 then s.part.cobalt && !(s.rg (aCob 0)).getLsbD 0 else s.part.zinc
  if !there then (s, { p with pops := p.pops ++ [{ o with st := 0x0C, val := some 0 }] })
  else
    let x := req.getD 0 0
    let who : RWho := .port (BitVec.ofNat 4 e) id
    let (m, s) := if (if op = 6 then fld x 34 32 else fld x 10 8) = 0
      then s.askFar who p e (s.adr (req.getD 1 0)) ((req.getD 3 0).toNat % 2 ^ 32) else (0, s)
    let (k, s) := if op = 6 ∧ x.getLsbD 30 then s.askFar who p e (s.adr (req.getD 4 0)) (fld x 29 13) else (0, s)
    (s, { p with pops := p.pops ++ [{ o with req := req, left := m + k }] })

/-- The port field (R378): a queue operation acts now, its result arrives later; Cobalt and Zinc take the request. -/
def State.doPort (s : State) (e : Nat) (p : Prog) (w : Mw) : State × Prog :=
  if w.xop = 0 ∨ p.fields.getLsbD 3 then (s, p.did 3)
  else
    let q := p.queueOf w
    let m : BitVec 12 := 0x100 + BitVec.ofNat 12 e
    let x := p.r w.xreg
    let id := s.ports
    let s0 := s
    let s := { s with ports := s.ports + 1 }
    let o : POp := { id := id, op := BitVec.ofNat 4 w.xop, reg := BitVec.ofNat 5 w.xreg, n := id }
    let off : Bool := !s.qEn q
    let fail : POp := { o with st := 4 }
    let add (p : Prog) (o : POp) : Prog := { p.did 3 with pops := p.pops ++ [o] }
    match w.xop with
    | 1 => if off then (s, add p fail) else
        let (v, s) := s.qResv q m (some p.q); (s, add p { o with val := some (BitVec.ofNat 64 v) })
    | 2 => if off then (s, add p fail) else
        let (ok, s) := s.qCommit q m (BitVec.ofNat 48 x.toNat)
        (s, add { p with toq := if ok then some (BitVec.ofNat 9 q) else p.toq } (if ok then o else fail))
    | 3 => if off then (s, add p fail) else
        let (v, s) := s.qRead q; (s, add p { o with val := some (BitVec.ofNat 64 v) })
    | 4 => if off then (s, add p fail) else (s.qCmd q (x.toNat % 4), add p o)
    | 5 => if off then (s, add p fail) else
        (s, add p { o with val := some (BitVec.ofNat 64 ((s.qBase q + 96 * (x.toNat % 65536)) % 2 ^ 48)) })
    | 8 => if off then (s, add p fail) else (s, add { p with mtch := some (BitVec.ofNat 9 q) } o)
    | 9 => (s, add p { o with val := some (s.tb.zeroExtend 64) })
    | _ => (s0.unitIssue e (p.did 3) w.xop (BitVec.ofNat 5 w.xreg) ((List.range 8).map fun i => p.r (w.xreg + i)))

/-- The condition of BR (R372). -/
def Prog.condOf (p : Prog) (w : Mw) : Bool :=
  let c : Bool := match w.cond with
    | 0 => true
    | 1 => p.z
    | 2 => p.n
    | 3 => p.c
    | 4 => decide (p.r 30 ≠ 0)
    | 5 => decide (p.r 31 ≠ 0)
    | 6 => (p.r w.xreg).getLsbD 16
    | _ => p.lz
  Bool.xor c w.cpol

/-- The end of a word (R371, R375, R379): registers, flags, status, then the next word. COND reads the state before the
word; a taken branch into the shared store costs four cycles more (R381). -/
def State.uCommit (s : State) (e : Nat) (p0 p : Prog) (w : Mw) : State :=
  let taken : Bool := p0.condOf w
  let p := match p.alu with | some (d, v) => p.w d.toNat v | none => p
  let p := match p.shf with | some (d, v) => p.w d.toNat v | none => p
  let p := p.movs.foldl (fun p (d, v) => p.w d.toNat v) p
  let res := p.aluR
  let p := match res with
    | some (r, c) => { p with z := decide (r = 0), n := r.getLsbD 63, c := if w.aop = 1 ∨ w.aop = 2 ∨ w.aop = 12 then c else p.c }
    | none => p
  let p := if w.sw then
      { p with status := if w.stat = 0xFE then (p0.r 30).extractLsb' 0 8 else if w.stat = 0xFF then (p0.r 31).extractLsb' 0 8 else BitVec.ofNat 8 w.stat,
               ut := if w.stat = 0xFF then (p0.r 31).getLsbD 8 else p.ut, step := w.step }
    else p
  let seqn := p.ua.toNat + 1
  let tgt := w.next.toNat
  let (nx, jump, stack) : Nat × Bool × List (BitVec 15) := match w.sq with
    | 1 => (tgt, true, p.stack)
    | 2 => if taken then (tgt, true, p.stack) else (seqn, false, p.stack)
    | 3 => (tgt, true, BitVec.ofNat 15 seqn :: p.stack)
    | 4 => ((p.stack.headD 0).toNat, true, p.stack.drop 1)
    | 5 => (tgt + (match res with | some (r, _) => r.toNat % 16 | none => 0), true, p.stack)
    | 6 => (tgt, false, p.stack)
    | _ => (seqn, false, p.stack)
  let cyc := p.cycles + 1 + (if jump ∧ 0x4000 ≤ nx then 4 else 0)
  let p' : Prog := { p with stack := stack, fields := 0, alu := none, aluR := none, shf := none, movs := [], cycles := cyc }
  match w.sq with
  | 7 => (s.setRun e { p' with ending := true }).uFinish e
  | 6 =>
    if storeAddr nx then
      let pk : Prog := { p' with ua := BitVec.ofNat 15 nx }
      s.modEng e fun g => { g with run := none, parked := g.parked ++ [pk] }
    else (s.setRun e p').uFaultAt e p' 3
  | _ =>
    if storeAddr nx then s.setRun e { p' with ua := BitVec.ofNat 15 nx }
    else (s.setRun e p').uFaultAt e p' 3

/-- A section of an image (R385): what it writes. -/
inductive Sect where
  | words (priv : Bool) (mask base : Nat) (ws : List Mw)
  | table (ps : List (Nat × Word))
  | patch
deriving DecidableEq, Repr

/-- Words of 48 bits in lines. -/
def imgWord (bs : List Byte) (line w : Nat) : Word := lineWord ((bs.drop (96 * line)).take 96) w

/-- Microword j of packed lines (R385): five to a line, 18 bytes each. -/
def imgMw (bs : List Byte) (line j : Nat) : Mw :=
  BitVec.ofNat 144 (leNat ((bs.drop (96 * (line + j / 5) + 18 * (j % 5))).take 18))

/-- The sections of an image's lines after the header: none when malformed. -/
def imgSects (bs : List Byte) (total : Nat) : Nat → Nat → Option (List Sect)
  | 0, _ => some []
  | f + 1, l =>
    if total ≤ l then some []
    else
      let w0 := imgWord bs l 0
      let n := fld (imgWord bs l 1) 23 0
      match fld w0 47 40 with
      | 1 | 2 =>
        let ls := (n + 4) / 5
        (match imgSects bs total f (l + 1 + ls) with
        | some r => if total < l + 1 + ls then none else
            some (.words (decide (fld w0 47 40 = 1)) (fld w0 39 24) (fld w0 14 0) ((List.range n).map fun j => imgMw bs (l + 1) j) :: r)
        | none => none)
      | 3 =>
        let ls := (2 * n + 15) / 16
        (match imgSects bs total f (l + 1 + ls) with
        | some r => if total < l + 1 + ls then none else
            some (.table ((List.range n).map fun j =>
              ((imgWord bs (l + 1 + 2 * j / 16) (2 * j % 16)).toNat, imgWord bs (l + 1 + (2 * j + 1) / 16) ((2 * j + 1) % 16))) :: r)
        | none => none)
      | 4 => some [.patch]
      | _ => none

/-- Does a section hold word w of the store address a of engine e? -/
def Sect.holds (e a : Nat) (w : Mw) : Sect → Bool
  | .words priv mask base ws => (if priv then decide (a < 0x1000) && mask.testBit e else decide (0x1000 ≤ a)) && decide (base ≤ a) && ws[a - base]? == some w
  | _ => false

/-- Did the word at address a of engine e come from an installed channel image (R382, R386)? -/
def State.fromImage (s : State) (e a : Nat) : Bool :=
  s.images.any fun i => decide (i.typ = 1) &&
    match imgSects (i.lines.drop 96) (fld (lineWord i.lines 2) 23 0) (i.lines.length / 96) 0 with
    | some ss => ss.any (·.holds e a (s.uword e a))
    | none => false

/-- The check of the control-store word at UADDR (R485, R382): an injection of one bit is corrected and counted in UCE (R388), of more is
not. True when the word cannot be corrected; firmware rewrites it when it came from an installed image. -/
def State.wordCheck (s : State) (e : BitVec 4) (a : Nat) : Bool × State :=
  let n := e.toNat
  let ev (code sev cls : Nat) (more : List (Nat × Nat)) : Ev :=
    { code := code, sev := sev, cls := cls, blk := some (.chan e), master := 0x100 + n, space := 5,
      pay := [(5, if a < 0x1000 then n else 16), (15, a)] ++ more }
  match s.injHit (.chan e) 0 0 with
  | none => (false, s)
  | some (inv, s) =>
    let uce := aChan n 0x1038
    match popN (inv % 512) with
    | 0 => (false, s)
    | 1 => (false, (s.sg uce (BitVec.ofNat 48 (satAdd 32 (s.rg uce).toNat 1))).event (ev 0x0621 0 1 []))
    | _ => (true, s.event (ev 0x0622 3 3 [(1, if s.fromImage n a then 1 else 0)]))

/-- Act on the present word of an engine that runs a program, if `pick` names it. A program of the standard image runs by itself: its
words are not stated, what it does is (R334). -/
def State.uRow (s : State) (e : BitVec 4) (pick : Prog → Mw → Bool) (f : State → Prog → Mw → State) : Res :=
  .next (match (s.engine e.toNat).run with
    | none => s
    | some p =>
      if s.phase ≠ .run ∨ p.std.isSome then s else
      let w := s.uword e.toNat p.ua.toNat
      if !pick p w then s
      else
      let at_ : Bool := decide (p.ua.toNat = fld (s.rg (aChan e.toNat 0x1000)) 14 0)
      let (bad, s) := if at_ then s.wordCheck e p.ua.toNat else (false, s)
      if bad then s.uFaultAt e.toNat p 9
      else match s.uPre e.toNat p w with
        | .stop s' => s'
        | .stall => s
        | .go s p => f s p w)

/-- The command of one ALU operation: the field acts once. -/
def State.aluRow (s : State) (e : BitVec 4) (op : Nat) : Res :=
  s.uRow e (fun p w => decide (w.aop = op) && !p.fields.getLsbD 0) fun s p w => s.setRun e.toNat (p.doAlu w)

/-- The command of one shifter operation. -/
def State.shfRow (s : State) (e : BitVec 4) (op : Nat) : Res :=
  s.uRow e (fun p w => decide (w.sop = op) && !p.fields.getLsbD 1) fun s p w => s.setRun e.toNat (p.doShf w)

/-- The command of one mover operation. -/
def State.movRow (s : State) (e : BitVec 4) (op : Nat) : Res :=
  s.uRow e (fun p w => decide (w.mop = op) && !p.fields.getLsbD 2) fun s p w =>
    let (s, p) := s.doMov e.toNat p w
    s.setRun e.toNat p

/-- The command of one port operation. -/
def State.portRow (s : State) (e : BitVec 4) (op : Nat) : Res :=
  s.uRow e (fun p w => decide (w.xop = op) && !p.fields.getLsbD 3) fun s p w =>
    let (s, p) := s.doPort e.toNat p w
    s.modEng e.toNat fun g => { g with run := some (match g.run with
      | some r => { p with rpend := r.rpend, rord := r.rord }
      | none => p) }

/-- The command of one sequencing operation: what is left of the word, and its end. -/
def State.sqRow (s : State) (e : BitVec 4) (op : Nat) : Res :=
  s.uRow e (fun _ w => decide (w.sq = op)) fun s p w =>
    let p0 := p
    let p := (p.doAlu w).doShf w
    let (s, p) := s.doMov e.toNat p w
    let (s, p) := s.doPort e.toNat p w
    let rp := match (s.engine e.toNat).run with | some r => r.rpend | none => none
    s.uCommit e.toNat p0 { p with rpend := rp } w

def execSqNext (e : BitVec 4) (s : State) : Res := s.sqRow e 0
def execSqJump (e : BitVec 4) (s : State) : Res := s.sqRow e 1
def execSqBr (e : BitVec 4) (s : State) : Res := s.sqRow e 2
def execSqCall (e : BitVec 4) (s : State) : Res := s.sqRow e 3
def execSqRet (e : BitVec 4) (s : State) : Res := s.sqRow e 4
def execSqDisp (e : BitVec 4) (s : State) : Res := s.sqRow e 5
def execSqPark (e : BitVec 4) (s : State) : Res := s.sqRow e 6
def execSqEnd (e : BitVec 4) (s : State) : Res := s.sqRow e 7
def execAopAdd (e : BitVec 4) (s : State) : Res := s.aluRow e 1
def execAopSub (e : BitVec 4) (s : State) : Res := s.aluRow e 2
def execAopAnd (e : BitVec 4) (s : State) : Res := s.aluRow e 3
def execAopOr (e : BitVec 4) (s : State) : Res := s.aluRow e 4
def execAopXor (e : BitVec 4) (s : State) : Res := s.aluRow e 5
def execAopAndn (e : BitVec 4) (s : State) : Res := s.aluRow e 6
def execAopMin (e : BitVec 4) (s : State) : Res := s.aluRow e 7
def execAopMax (e : BitVec 4) (s : State) : Res := s.aluRow e 8
def execAopMove (e : BitVec 4) (s : State) : Res := s.aluRow e 9
def execAopShl (e : BitVec 4) (s : State) : Res := s.aluRow e 10
def execAopShr (e : BitVec 4) (s : State) : Res := s.aluRow e 11
def execAopCmp (e : BitVec 4) (s : State) : Res := s.aluRow e 12
def execSopExt (e : BitVec 4) (s : State) : Res := s.shfRow e 1
def execSopExts (e : BitVec 4) (s : State) : Res := s.shfRow e 2
def execSopIns (e : BitVec 4) (s : State) : Res := s.shfRow e 3
def execSopLit (e : BitVec 4) (s : State) : Res := s.shfRow e 4
def execMopRd (e : BitVec 4) (s : State) : Res := s.movRow e 1
def execMopWr (e : BitVec 4) (s : State) : Res := s.movRow e 2
def execMopFill (e : BitVec 4) (s : State) : Res := s.movRow e 3
def execMopWait (e : BitVec 4) (s : State) : Res := s.movRow e 4
def execXopResv (e : BitVec 4) (s : State) : Res := s.portRow e 1
def execXopCommit (e : BitVec 4) (s : State) : Res := s.portRow e 2
def execXopRead (e : BitVec 4) (s : State) : Res := s.portRow e 3
def execXopCmd (e : BitVec 4) (s : State) : Res := s.portRow e 4
def execXopQaddr (e : BitVec 4) (s : State) : Res := s.portRow e 5
def execXopCob (e : BitVec 4) (s : State) : Res := s.portRow e 6
def execXopZn (e : BitVec 4) (s : State) : Res := s.portRow e 7
def execXopPostc (e : BitVec 4) (s : State) : Res := s.portRow e 8
def execXopTime (e : BitVec 4) (s : State) : Res := s.portRow e 9

/-- Find a mover operation of the running program by its buffer. -/
def Prog.mopOf (p : Prog) (b : BitVec 2) : Option MOp := p.mops.find? fun m => m.buf = b

/-- A mover operation leaves the program; a failure sets V30 and voids the later ones (R376). -/
def Prog.mopEnd (p : Prog) (m : MOp) (code : Nat) : Prog :=
  let later := (p.mops.dropWhile fun x => x ≠ m).drop 1
  let before := p.mops.takeWhile fun x => x ≠ m
  let later := if code = 0 then later else later.map fun x => { x with void := true }
  let p : Prog := { p with mops := before ++ later }
  if code ≠ 0 ∧ p.r 30 = 0 then p.hw 30 (BitVec.ofNat 64 code) else p

/-- A mover operation finishes (R376, R377): reads into its buffer, writes from it, or fills it; `st` and `ext` are
the outcome and the bytes of host memory. An operation that must wait for a line or a grant stays. -/
def State.movDone (s : State) (e : Nat) (p : Prog) (m : MOp) (st : Nat) (ext : List Byte) : State :=
  let b := m.buf.toNat
  let x := s.adr m.addr
  let fin (s : State) (code : Nat) (buf : Option Buf) : State :=
    let s := s.modEng e fun g =>
      { g with run := some (p.mopEnd m code), bufs := match buf with | some v => spPut {} g.bufs b v | none => g.bufs }
    s.uFinish e
  if m.void then fin s 0 none
  else match m.kind.toNat with
  | 2 => fin s 0 (some { data := List.replicate m.n (BitVec.ofNat 8 m.addr.toNat) })
  | 0 =>
    let c := s.adrCheck (s.progInst p) x m.n false
    let bad : Buf := { bad := true }
    if c ≠ 0 then fin s c (some bad)
    else (match x.kind with
    | 0 =>
      (match s.uncRead x.a m.n (0x100 + BitVec.ofNat 12 e) with
      | (some (d, pz), s) => if pz then fin s 6 (some bad) else fin s 0 (some { data := d })
      | (none, s) => s)
    | 1 => fin s 0 (some { data := s.tungBytes x.a m.n ext })
    | 2 => if st ≠ 0 then fin s st (some bad) else fin s 0 (some { data := (List.range m.n).map fun i => ext.getD i 0 })
    | _ =>
      if m.left ≠ 0 then s
      else if m.rst ≠ 0 then fin s m.rst.toNat (some bad)
      else fin s 0 (some { data := (List.range m.n).map fun i => spGetD 0 m.rdat (x.a + i) }))
  | _ =>
    let buf := s.bufOf e b
    if buf.bad ∨ s.progGone p then fin s 0 none
    else
      let c := s.adrCheck (s.progInst p) x m.n true
      if c ≠ 0 then fin s c none
      else match x.kind with
      | 0 =>
        (match s.uncWrite x.a buf.data false (0x100 + BitVec.ofNat 12 e) with
        | (true, s) => fin s 0 none
        | (false, s) => s)
      | 2 => if st ≠ 0 then fin s st none
             else if s.cxl.gpf ∨ s.mstat 1 ∨ s.mstat 2 = false then fin s 8 none
             else fin (s.hostWrites x.a buf.data) 0 none
      | _ => if m.left ≠ 0 then s else fin s m.rst.toNat none

def execMoverOpComplete (e : BitVec 4) (b : BitVec 2) (st : BitVec 8) (ext : List Byte) (s : State) : Res :=
  .next (match (s.engine e.toNat).run with
    | none => s
    | some p => match p.mopOf b with
      | none => s
      | some m => if s.phase = .run then s.movDone e.toNat p m st.toNat ext else s)

/-- A port result arrives (R375, R378): the register it names and V31. -/
def Prog.portDone (p : Prog) (o : POp) : Prog :=
  let p := { p with pops := p.pops.erase o }
  let p := match o.val with | some v => p.w o.reg.toNat v | none => p
  let p := o.outs.foldl (fun p (d, v) => p.w d.toNat v) p
  p.hw 31 (o.st.zeroExtend 64)

/-- The result of the n-th pending port operation of the running program arrives. A Cobalt or Zinc piece arrives so
once the unit has answered and its remote writes have. -/
def execPortResultArrival (e : BitVec 4) (n : Nat) (s : State) : Res :=
  .next (match (s.engine e.toNat).run with
    | none => s
    | some p => match p.pops[n]? with
      | none => s
      | some o =>
        if o.unit ∧ o.req ≠ [] ∧ (o.ovr = false ∨ o.left ≠ 0) then s
        else
          let o := if o.left = 0 ∧ o.rst ≠ 0 then { o with st := o.rst.zeroExtend 9 } else o
          (s.setRun e.toNat (({ p with pops := listSet p.pops n o } : Prog).portDone o)).uFinish e.toNat)

/-- The reply of the n-th parked program, once it is committed, makes the program ready (R336, R378). -/
def execParkedProgramReply (e : BitVec 4) (n : Nat) (s : State) : Res :=
  .next (match (s.engine e.toNat).parked[n]? with
    | none => s
    | some p => match p.rpend with
      | none => s
      | some ws =>
        let p' : Prog := { p with reply := some ws, rpend := none }
        s.modEng e.toNat fun g => { g with parked := listSet g.parked n p' })

/-- The watchdog of block boundaries (R380). -/
def execBndWatchdogExpiry (e : BitVec 4) (s : State) : Res :=
  .next (match (s.engine e.toNat).run with
    | none => s
    | some p => if s.phase = .run ∧ p.std.isNone = true ∧ p.ending = false ∧ 32768 ≤ p.cycles then s.uFaultAt e.toNat p 8 else s)

/-- Does any engine run or hold the program of an entry? -/
def State.taken (s : State) (q seq : Nat) : Bool :=
  (List.range 16).any fun e =>
    let g := s.engine e
    (match g.run with | some p => decide (p.q.toNat = q ∧ p.seq = seq) | none => false) || g.parked.any fun p => decide (p.q.toNat = q ∧ p.seq = seq)

/-- Is the FENCE of a descriptor satisfied (R330)? -/
def State.fenceOk (s : State) (q seq : Nat) (e : LEnt) : Bool :=
  !descFence e.desc || !((s.entsOf q).any fun (n, x) => decide (n < seq) && (decide (x.st = .accepted) || decide (x.st = .started) || (decide (x.st = .done) && x.wait)))

/-- May engine e take a waiting descriptor (R333, R351, R428)? -/
def State.mayTake (s : State) (e q seq : Nat) (x : LEnt) : Bool :=
  x.waits && (s.rg (aChan e 0) 1).getLsbD 0 && (s.pt (descProg x.desc)).getLsbD (30 + e) && s.fenceOk q seq x && !s.taken q seq &&
  !(s.rp q).held.getLsbD 1 && !(s.rp q).held.getLsbD 2

/-- Does descriptor x come before y (R351, R355)? -/
def LEnt.before (x y : LEnt) : Bool :=
  if x.urg ∧ !y.urg then true
  else if y.urg ∧ !x.urg then false
  else if x.urg then decide (x.ord < y.ord)
  else decide (descPrio y.desc < descPrio x.desc) || (decide (descPrio x.desc = descPrio y.desc) && decide (x.ord < y.ord))

/-- The first waiting descriptor that engine e may take. -/
def State.firstDesc (s : State) (e : Nat) : Option (Nat × Nat × LEnt) :=
  s.led.foldl (fun best (k, x) =>
    if s.mayTake e (k / 2 ^ 48) (k % 2 ^ 48) x then
      match best with
      | none => some (k / 2 ^ 48, k % 2 ^ 48, x)
      | some (_, _, y) => if x.before y then some (k / 2 ^ 48, k % 2 ^ 48, x) else best
    else best) none

/-- The registers at dispatch (R370). -/
def dispatchRegs (q seq : Nat) (x : LEnt) : Sp (BitVec 64) :=
  let v := (List.range 8).foldl (fun v i => spPut 0 v (8 + i) (BitVec.ofNat 64 (leNat ((x.desc.drop (8 * i)).take 8)))) ([] : Sp (BitVec 64))
  let v := spPut 0 v 16 (BitVec.ofNat 64 seq)
  spPut 0 v 17 (BitVec.ofNat 64 (q + x.inst.toNat * 1024 + b2n x.idem * 65536))

/-- The programs of the standard image (R333 note a, R334), and whether each may run idempotent descriptors. -/
def stdProgs : List (Nat × Bool) := (List.range 9).map (fun n => (n, true)) ++ [(16, false)]

/-- The entry of a standard program in the standard region. -/
def stdUa (n : Nat) : Nat := 0x4000 + (Config.stdEntry n).toNat

/-- A descriptor's program, where its number is a standard one whose entry in the program table is the standard image's, in a standard
region that nobody has rewritten (R333, R383). -/
def State.stdOf (s : State) (x : LEnt) (ua : Nat) : Option StdRun :=
  let n := descProg x.desc
  if (stdProgs.any fun y => y.1 = n) && decide (ua = stdUa n) && s.ushare.all (fun (a, _) => decide (0x5000 ≤ a)) then
    some { prog := n, src := BitVec.ofNat 64 (leNat ((x.desc.drop 16).take 8)), dst := BitVec.ofNat 64 (leNat ((x.desc.drop 24).take 8)),
           left := leNat ((x.desc.drop 12).take 4) }
  else none

/-- The parked program with the earliest reply (R351). -/
def firstReply : List Prog → Option Prog
  | [] => none
  | p :: ps =>
    if p.reply.isNone then firstReply ps
    else match firstReply ps with
      | none => some p
      | some q => if p.rord < q.rord then some p else some q

/-- An idle engine resumes a parked program or takes a descriptor (R351). -/
def State.dispatch (s : State) (e : Nat) : State :=
  let g := s.engine e
  if g.run.isSome ∨ s.phase ≠ .run then s
  else match firstReply g.parked with
  | some p =>
    let ws := p.reply.getD []
    let p' := (List.range 4).foldl (fun (p : Prog) i => p.hw (22 + i) ((ws.getD i 0).zeroExtend 64)) p
    let p' : Prog := { p' with reply := none, mtch := none, cycles := p'.cycles + (if 0x4000 ≤ p'.ua.toNat then 4 else 0) }
    s.modEng e fun g => { g with run := some p', parked := g.parked.erase p }
  | none =>
    match s.firstDesc e with
    | none => s
    | some (q, seq, x) =>
      if (List.range e).any fun k => (s.engine k).run.isNone && (firstReply (s.engine k).parked).isNone && s.mayTake k q seq x then s
      else
        let ua := fld (s.pt (descProg x.desc)) 14 0
        let p : Prog := { q := BitVec.ofNat 10 q, seq := seq, v := dispatchRegs q seq x, ua := BitVec.ofNat 15 ua, std := s.stdOf x ua,
                          cycles := if 0x4000 ≤ ua then 4 else 0 }
        let s := if x.redo then s.setEnt q seq { x with redo := false, tacc := s.tb } else s
        let ok : Bool := !(x.redo && descDle x.desc) || s.timerFree x.inst
        if ok then
          let s := if x.redo && descDle x.desc then s.setEnt q seq { x with redo := false, tacc := s.tb, timer := true } else s
          s.modEng e fun g => { g with run := some p }
        else s.noTimer q seq x.inst

def execDispatch (e : BitVec 4) (s : State) : Res := .next (s.dispatch e.toNat)

/-- The abort of a descriptor (R345). -/
def State.abort (s : State) (q : Nat) : State :=
  if s.abt.isSome then s
  else
    let seq := (s.rg (aElc 0x10)).toNat
    match s.ent q seq with
    | none => s.abortEnd 3
    | some x =>
      match x.st with
      | .done | .abandoned => s.abortEnd 2
      | .accepted | .started =>
        let s := { s with abt := some (q, seq) }.sg (aElc 0x20) 4
        -- parked: at once
        match (List.range 16).find? fun e => (s.engine e).parked.any fun p => p.q.toNat = q ∧ p.seq = seq with
        | some e =>
          let pk := (s.engine e).parked.find? fun p => p.q.toNat = q ∧ p.seq = seq
          let s := (s.dropOps (BitVec.ofNat 10 q) seq).modEng e fun g =>
            { g with parked := g.parked.filter fun p => !(p.q.toNat = q ∧ p.seq = seq), done := satAdd 48 g.done 1 }
          (match pk with
          | some p => s.entDone q seq 0x0A p.step.toNat p.ut [p.r 18, p.r 19, p.r 20, p.r 21]
          | none => s)
        | none => if s.taken q seq then s else s.entDone q seq 0x0A 0 false []

def execAbort (a : Via) (q : BitVec 10) (s : State) : Res := s.onWrite a (aElc 0x18) fun s => s.abort q.toNat

/-- May a word be stored at an address through CHAN[e] (R384)? -/
def State.storeOk (s : State) (e a : Nat) : Bool :=
  let idle (e : Nat) : Bool := !(s.rg (aChan e 0) 1).getLsbD 0 && (s.engine e).run.isNone && (s.engine e).parked.isEmpty
  if a < 0x1000 then idle e
  else if 0x4000 ≤ a ∧ a < 0x8000 then
    decide (e = 0) && (List.range 16).all idle && !(decide (a < 0x5000) && (s.rg 0).getLsbD 0)
  else false

/-- Store a word (R383). -/
def State.storeWord (s : State) (e a : Nat) (w : Mw) : State :=
  if a < 0x1000 then s.modEng e fun g => { g with store := spPut emptyWord g.store a w }
  else { s with ushare := if 0x4000 ≤ a ∧ a < 0x5000 then spIns s.ushare a w else spPut emptyWord s.ushare a w }

/-- CHAN[e]_UCTL.ERR with ECODE (R388); the code stays until ERR is cleared. -/
def State.uctlErr (s : State) (e c : Nat) : State :=
  s.sg (aChan e 0x1020) (setFld (setBit (s.rg (aChan e 0x1020)) 9 true) 15 12 c)

/-- A write of UDATA2 (R384, R388). -/
def State.udata2 (s : State) (e : Nat) (v : Word) : State :=
  let s := s.sg (aChan e 0x1018) v
  let a := fld (s.rg (aChan e 0x1000)) 14 0
  let w : Mw := v ++ s.rg (aChan e 0x1010) ++ s.rg (aChan e 0x1008) 0x1FF
  let s := if s.storeOk e a then s.storeWord e a w else s.uctlErr e 1
  s.sg (aChan e 0x1000) (BitVec.ofNat 48 ((a + 1) % 2 ^ 15))

def execUdata2Write (a : Via) (e : BitVec 4) (v : BitVec 48) (s : State) : Res :=
  s.onWrite a (aChan e.toNat 0x1018) fun s => s.udata2 e.toNat v

/-- CMD READ (R388): UADDR's word goes to UDATA0 to UDATA2; in CHAN[0] while an image command runs it is ignored and sets ERR (R386). -/
def State.uctlRead (s : State) (e : Nat) : State :=
  if e = 0 ∧ s.imgW.isSome then s.sg (aChan 0 0x1020) (setBit (s.rg (aChan 0 0x1020)) 9 true) else
  let w := s.uword e (fld (s.rg (aChan e 0x1000)) 14 0)
  ((s.sg (aChan e 0x1008) (w.extractLsb' 0 48) 0x1FF).sg (aChan e 0x1010) (w.extractLsb' 48 48)).sg (aChan e 0x1018) (w.extractLsb' 96 48)

def execUctlRead (a : Via) (e : BitVec 4) (s : State) : Res := s.onWrite a (aChan e.toNat 0x1020) fun s => s.uctlRead e.toNat

/-- The check of a section (R386): 0, or its ECODE. -/
def State.sectCheck (s : State) : Sect → Nat
  | .words priv _ base ws =>
    let last := base + ws.length
    if priv then (if last ≤ 0x1000 then 0 else 4)
    else if base < 0x4000 ∨ last > 0x8000 then 4
    else if (s.rg 0).getLsbD 0 ∧ base < 0x5000 then 4 else 0
  | .table ps =>
    if ps.any fun (p, _) => decide (p > 255) then 4
    else if ps.any fun (_, v) => v.getLsbD 47 && !storeAddr (fld v 14 0) then 5 else 0
  | .patch => 0

/-- The conditions of R384 for everything a section writes. -/
def State.sectMay (s : State) : Sect → Bool
  | .words priv mask _ ws =>
    let idle (e : Nat) : Bool := !(s.rg (aChan e 0) 1).getLsbD 0 && (s.engine e).run.isNone && (s.engine e).parked.isEmpty
    if ws = [] then true else if priv then (List.range 16).all fun e => !mask.testBit e || idle e else (List.range 16).all idle
  | _ => true

/-- Write a section (R386). -/
def State.sectWrite (s : State) : Sect → State
  | .words priv mask base ws =>
    ws.zipIdx.foldl (fun s (w, i) =>
      if priv then (List.range 16).foldl (fun s e => if mask.testBit e then s.storeWord e (base + i) w else s) s
      else s.storeWord 0 (base + i) w) s
  | .table ps => ps.foldl (fun s (p, v) => s.sg (aChq (8 * p)) (v &&& 0xFFFFC0007FFF)) s
  | .patch => s

/-- An image whose lines have been read is rejected with an ECODE (R386): event 0x0624. -/
def State.imgBad (s : State) (id : Word) (c : Nat) : State :=
  (s.uctlErr 0 c).event { code := 0x0624, sev := 2, master := 0x603, pay := [(48, id.toNat), (4, c)] }

/-- LOADIMG and INSTALL once the image has been read (R386): firmware checks the whole image before it changes anything. -/
def State.imgTake (s : State) (install : Bool) (hdr bs : List Byte) : State :=
  let w0 := lineWord hdr 0
  let id := lineWord hdr 1
  let lines := fld (lineWord hdr 2) 23 0
  let typ := fld w0 47 32
  if (crc32c bs).toNat ≠ fld (lineWord hdr 3) 31 0 then s.imgBad id 3
  else match imgSects bs lines (lines + 1) 0 with
  | none => s.imgBad id 4
  | some ss =>
    match ss.find? fun x => s.sectCheck x ≠ 0 with
    | some x => s.imgBad id (s.sectCheck x)
    | none =>
      let others := s.images.filter fun i => decide (i.id ≠ id)
      let room := (others.map fun i => i.lines.length).foldl (· + ·) 0
      if install ∧ room + 96 * (lines + 1) > 16777216 then s.imgBad id 6
      else if typ = 1 ∧ !(ss.all fun x => s.sectMay x) then s.uctlErr 0 1
      else
        let s := if typ = 1 then ss.foldl (fun s x => s.sectWrite x) s else s
        let s := if install then { s with images := others ++ [⟨id, typ, hdr ++ bs⟩] } else s
        s.event { code := 0x0623, sev := 1, master := 0x603, pay := [(48, id.toNat), (3, if install then 3 else 2), (24, lines)] }

/-- CHAN[0]_UCTL.BUSY (R388). -/
def State.imgBusy (s : State) (b : Bool) : State := s.sg (aChan 0 0x1020) (setBit (s.rg (aChan 0 0x1020)) 8 b)

/-- An image command goes on once firmware has read the image's lines: first the header, then the others (R386). -/
def State.imgGo (s : State) : State :=
  match s.imgW with
  | none => s
  | some (install, a) =>
    let done (s : State) : State := State.imgBusy { s with imgW := none } false
    match s.uncRead a 96 0x603 with
    | (none, s) => s
    | (some (hdr, _), s) =>
      let w0 := lineWord hdr 0
      let id := lineWord hdr 1
      let n := 96 * fld (lineWord hdr 2) 23 0
      let typ := fld w0 47 32
      if fld w0 31 0 ≠ 0x495A444C ∨ !(typ = 1 ∨ (typ = 2 ∧ install)) then (done s).imgBad id 2
      else if a + 96 + n > s.part.msBytes then (done s).imgBad id 3
      else match s.uncRead (a + 96) n 0x603 with
        | (none, s) => s
        | (some (bs, _), s) => (done s).imgTake install hdr bs

/-- A write of a command to CHAN[0]_UCTL (R386): while one runs it is ignored and sets ERR. -/
def State.uctlCmd (s : State) (f : State → State) : State :=
  if s.imgW.isSome then s.sg (aChan 0 0x1020) (setBit (s.rg (aChan 0 0x1020)) 9 true) else f s

/-- LOADIMG (2) and INSTALL (3) begin. -/
def State.imgCmd (s : State) (install : Bool) : State :=
  s.uctlCmd fun s => (State.imgBusy { s with imgW := some (install, (s.rg (aChan 0 0x1028)).toNat) } true).imgGo

def execLoadimg (a : Via) (s : State) : Res := s.onWrite a (aChan 0 0x1020) fun s => s.imgCmd false
def execInstall (a : Via) (s : State) : Res := s.onWrite a (aChan 0 0x1020) fun s => s.imgCmd true

/-- REMOVE (R386): the installed image whose IMGID is in UIMG. -/
def execRemove (a : Via) (s : State) : Res :=
  s.onWrite a (aChan 0 0x1020) fun s => s.uctlCmd fun s => { s with images := s.images.filter fun i => decide (i.id ≠ s.rg (aChan 0 0x1028)) }

end Sys2Proof.Machine
end

