-- ==== Sys2Proof/Machine/CobZn.lean ====
section
/-!
DEFINITION. Cobalt and Zinc (spec 15): the pieces of their operations (R410 to R412), the checks of R392, key slots with
their counters and ceilings (R400 to R403), the random source (R398).
-/
namespace Sys2Proof.Machine

open Sys2Proof

/-- What a read for a piece delivers: it must wait, it fails with a status, or bytes. -/
inductive PRead where
  | wait
  | fail (c : Nat)
  | ok (bs : List Byte)

/-- The AES core that serves a request (R399): which core is free first is open. -/
def aesCore (o : POp) : BitVec 12 := 0x200 + (Config.aesCore o.id).zeroExtend 12

/-- Read `n` bytes for a piece of a program under the unit's master ID (R13, R331, R376). -/
def State.portRead (s : State) (p : Prog) (o : POp) (master : BitVec 12) (addr : BitVec 64) (n st : Nat) (ext : List Byte) : PRead × State :=
  let x := s.adr addr
  let c := s.adrCheck (s.progInst p) x n false
  if n = 0 then (.ok [], s)
  else if c ≠ 0 then (.fail c, s)
  else match x.kind with
  | 0 => (match s.uncRead x.a n master with
    | (some (d, z), s) => (if z then .fail 6 else .ok d, s)
    | (none, s) => (.wait, s))
  | 1 => (.ok (s.tungBytes x.a n ext), s)
  | 2 => (if st ≠ 0 then .fail st else .ok ((List.range n).map fun i => ext.getD i 0), s)
  | _ => (if o.left ≠ 0 then .wait else if o.rst ≠ 0 then .fail o.rst.toNat
         else .ok ((List.range n).map fun i => spGetD 0 o.rdat (x.a + i)), s)

/-- What a write for a piece does: it must wait, or it is made with a status and the remote writes it awaits. -/
inductive PWrite where
  | wait (s : State)
  | done (s : State) (c left : Nat)

/-- Write bytes for a piece of engine e's program. -/
def State.portWrite (s : State) (e : Nat) (p : Prog) (o : POp) (master : BitVec 12) (addr : BitVec 64) (bs : List Byte) (st : Nat) : PWrite :=
  let x := s.adr addr
  let n := bs.length
  let c := s.adrCheck (s.progInst p) x n true
  if n = 0 ∨ s.progGone p then .done s 0 0
  else if c ≠ 0 then .done s c 0
  else match x.kind with
  | 0 => (match s.uncWrite x.a bs false master with
    | (true, s) => .done s 0 0
    | (false, s) => .wait s)
  | 2 => if st ≠ 0 then .done s st 0
         else if s.cxl.gpf ∨ s.mstat 1 ∨ s.mstat 2 = false then .done s 8 0
         else .done (s.hostWrites x.a bs) 0 0
  | _ =>
    let (n, s) := s.putFar (.port (BitVec.ofNat 4 e) o.id) p e x bs
    .done s 0 n

/-- A piece is answered (R375, R410): its registers and V31, at once or when its remote writes have been. -/
def State.pieceEnd (s : State) (e : Nat) (o : POp) (st : BitVec 9) (left : Nat) (outs : List (Nat × Nat)) : State :=
  let outs' := outs.map fun (d, v) => (BitVec.ofNat 5 d, BitVec.ofNat 64 v)
  match (s.engine e).run with
  | none => s
  | some p =>
    let o' : POp := { o with st := st, outs := outs', ovr := true, left := left, rst := 0 }
    let p' : Prog := { p with pops := p.pops.map fun x => if x = o then o' else x }
    if left ≠ 0 then s.setRun e p' else (s.setRun e (p'.portDone o')).uFinish e

/-- Output of a piece placed at its destination (R412): the bytes placed, the bytes held back, and what the write did. A
buffer takes at most 6,144 bytes. -/
def State.pieceOut (s : State) (e : Nat) (p : Prog) (o : POp) (master : BitVec 12) (dsel : Nat) (addr : BitVec 64) (outp : List Byte) (st : Nat) :
    PWrite × List Byte × List Byte :=
  if dsel = 0 then (s.portWrite e p o master addr outp st, outp, [])
  else
    let now := outp.take 6144
    let b : Buf := { data := now }
    (.done (s.modEng e fun g => { g with bufs := spPut {} g.bufs (dsel - 4) b }) 0 0, now, outp.drop 6144)

/-- The source bytes of a piece: an address or a buffer (R410, R412). -/
def State.pieceIn (s : State) (e : Nat) (p : Prog) (o : POp) (master : BitVec 12) (ssel n st : Nat) (ext : List Byte) : PRead × State :=
  if ssel = 0 then s.portRead p o master (o.req.getD 1 0) n st ext
  else
    let b := s.bufOf e (ssel - 4)
    (if b.bad then .fail 6 else .ok ((List.range n).map fun i => b.data.getD i 0), s)

/-- Is the piece the oldest of its unit that the program waits for? -/
def Prog.firstPiece (p : Prog) (o : POp) : Bool := decide ((p.pops.find? fun x => x.op = o.op) = some o) && !o.ovr && decide (o.req ≠ [])

/-- Cobalt's STATUS bit with its interrupt (R414). -/
def State.cobStatus (s : State) (i : Nat) : State := (s.sg (aCob 0x88) (setBit (s.rg (aCob 0x88)) i true)).raise (aCob 0x80)

/-- Ciphertext absorbed block by block; less than a block stays (R394). -/
def CobOp.absorb (c : CobOp) (ct : List Byte) : CobOp :=
  let all := c.part ++ ct
  let full := all.length / 16 * 16
  { c with y := ghash (gcmH c.key) c.y (all.take full) (full / 16 + 1), part := all.drop full }

/-- The tag of the finished text (R394). -/
def CobOp.tag (c : CobOp) : List Byte :=
  gcmTag c.key c.iv (ghash (gcmH c.key) c.y c.part 2) c.aad c.len

/-- Replace or drop the Cobalt operation of a program. -/
def State.setCob (s : State) (p : Prog) (c : Option CobOp) : State :=
  let rest := s.cobs.filter fun x => !(x.q = p.q ∧ x.seq = p.seq)
  { s with cobs := match c with | some c => rest ++ [c] | none => rest }

/-- IV bytes as two register values (R396, R410 note b). -/
def ivRegs (r : Nat) (iv : List Byte) : List (Nat × Nat) := [(r + 5, leNat (iv.take 8)), (r + 6, leNat (iv.drop 8))]

/-- The text of a piece is processed: encrypted or decrypted, hashed; at the last piece the tag is made or checked. The
flag says that the tag failed. -/
def CobOp.run (c : CobOp) (inp : List Byte) (last : Bool) : CobOp × List Byte × Bool :=
  let text := if c.dec ∧ last then inp.take (inp.length - 16) else inp
  let outp := xorBytes text (gcmStream c.key c.iv c.len text.length)
  let c1 := c.absorb (if c.dec then text else outp)
  let c1 : CobOp := { c1 with len := c1.len + text.length, last := c1.last || last }
  if !last then (c1, outp, false)
  else if c.dec then (c1, outp, decide (c1.tag ≠ inp.drop (inp.length - 16)))
  else (c1, outp ++ c1.tag, false)

/-- A piece of an open Cobalt operation (R410, R412, R413); `iv` are the registers a FIRST piece returns its IV in. False where it must
wait. -/
def State.cobPiece (s : State) (e : Nat) (p : Prog) (o : POp) (c : CobOp) (st : Nat) (ext : List Byte) (iv : List (Nat × Nat)) : Bool × State :=
  let w := o.req.getD 0 0
  let last := w.getLsbD 31
  let n := (o.req.getD 3 0).toNat % 2 ^ 32
  let r := o.reg.toNat
  let ut (b : Bool) (code : Nat) : BitVec 9 := BitVec.ofNat 9 (code + 256 * b2n b)
  let fail (s : State) (code : Nat) (u : Bool) : State := (s.setCob p none).pieceEnd e o (ut u code) 0 ((r, 0) :: (r + 4, 0) :: iv)
  if (c.last ∧ n ≠ 0) ∨ (c.dec ∧ last ∧ c.last = false ∧ n < 16) then (true, fail s 4 false)
  else if c.len + n - (if c.dec ∧ last then 16 else 0) > 16777216 then (true, fail s 2 false)
  else match s.pieceIn e p o (aesCore o) (fld w 34 32) n st ext with
  | (.wait, s) => (false, s)
  | (.fail code, s) => (true, fail s code (c.dec && code = 6 || c.dec && c.wrote))
  | (.ok inp, s) =>
    let (c1, outp, badTag) := if c.last then (c, [], false) else c.run inp last
    let (pw, now, held) := s.pieceOut e p o (aesCore o) (fld w 37 35) (o.req.getD 2 0) (c.held ++ outp) st
    match pw with
    | .wait s => (false, s)
    | .done s code left =>
      if code ≠ 0 then (true, fail s code (c.dec && c.wrote))
      else
        let c2 : CobOp := { c1 with held := held, wrote := c1.wrote || !now.isEmpty }
        let s := { s with cobBytes := satAdd 48 s.cobBytes inp.length }
        let ev : Ev := { code := 0x0803, sev := 1, master := (aesCore o).toNat, inst := some (s.progInst p), pay := [(12, c.slot), (10, p.q.toNat), (48, p.seq)] }
        let s := if badTag then ({ s with authF := satAdd 32 s.authF 1 }).event ev else s
        let s := s.setCob p (if c2.last ∧ held = [] then none else some c2)
        let stt := if badTag then ut true 1 else c.st
        (true, s.pieceEnd e o stt left ((r, now.length) :: (r + 4, held.length) :: iv))

/-- A Cobalt piece finishes (R392, R395, R398, R410 to R413). -/
def State.cobDone (s : State) (e : Nat) (p : Prog) (o : POp) (st : Nat) (ext aad : List Byte) : State :=
  let w := o.req.getD 0 0
  let first := w.getLsbD 30
  let dec := w.getLsbD 12
  let slot := fld w 11 0
  let aadLen := fld w 29 13
  let ssel := fld w 34 32
  let dsel := fld w 37 35
  let n := (o.req.getD 3 0).toNat % 2 ^ 32
  let r := o.reg.toNat
  let cur := s.cobs.find? fun x => x.q = p.q ∧ x.seq = p.seq
  let ans (s : State) (code : Nat) : State := s.pieceEnd e o (BitVec.ofNat 9 code) 0 [(r, 0), (r + 4, 0)]
  if (s.rg (aCob 0)).getLsbD 0 then
    let u := match cur with | some c => c.wrote | none => false
    ans (s.setCob p none) (0x0C + 256 * b2n u)
  else if fld w 63 38 ≠ 0 ∨ (1 ≤ ssel ∧ ssel ≤ 3) ∨ (1 ≤ dsel ∧ dsel ≤ 3) ∨ o.req.getD 7 0 ≠ 0 ∨ (ssel ≠ 0 ∧ n > 6144) ∨ cur.isSome = first then
    ans s 4
  else match cur with
  | some c => (s.cobPiece e p o c st ext []).2
  | none =>
    if s.cobs.length ≥ 128 then s
    else if aadLen > 65536 ∨ n - (if dec then 16 else 0) > 16777216 then ans s 2
    else if (match s.kcmd with | some k => decide (k.slot = slot ∧ k.at_ ≤ o.n) | none => false) then s
    else match spGet s.kslots slot with
    | none => ans s 3
    | some k =>
      if k.inst.toNat ≠ s.progInst p then ans s 3
      else if !dec ∧ k.ctr = 2 ^ 64 - 1 then
        ans (s.event { code := 0x0804, sev := 2, master := (aesCore o).toNat, inst := some (s.progInst p), pay := [(12, slot)] }) 3
      else if !dec ∧ k.ceil ≤ k.ctr then s
      else
        let iv := if dec then natLe 8 (o.req.getD 5 0).toNat ++ natLe 4 ((o.req.getD 6 0).toNat % 2 ^ 32)
                  else natBe 4 k.pre.toNat ++ natBe 8 k.ctr
        let ivo := if dec then [] else ivRegs r iv
        let take (s : State) : State := if dec then s else { s with kslots := spIns s.kslots slot { k with ctr := k.ctr + 1 } }
        match s.portRead p o (aesCore o) (o.req.getD 4 0) aadLen st aad with
        | (.wait, s) => s
        | (.fail code, s) => (take s).pieceEnd e o (BitVec.ofNat 9 code) 0 ((r, 0) :: (r + 4, 0) :: ivo)
        | (.ok ad, s) =>
          let c : CobOp := { e := BitVec.ofNat 4 e, q := p.q, seq := p.seq, slot := slot, dec := dec, key := k.key, iv := iv,
                             y := ghash (gcmH k.key) 0 ad (ad.length / 16 + 2), aad := aadLen }
          -- a piece that must still wait has not begun: its IV is taken with its first input
          match (take s).cobPiece e p o c st ext ivo with
          | (true, t) => t
          | (false, t) => { t with kslots := s.kslots }

def execCobaltPieceComplete (e : BitVec 4) (n : Nat) (ext aad : List Byte) (st : BitVec 8) (s : State) : Res :=
  .next (match (s.engine e.toNat).run with
    | none => s
    | some p => match p.pops[n]? with
      | none => s
      | some o => if s.phase = .run ∧ o.op = 6 ∧ p.firstPiece o then s.cobDone e.toNat p o st.toNat ext aad else s)

/-- ZN_SHARE[i].CAP (R416). -/
def State.znCap (s : State) (i : Nat) : Nat := fld (s.rg (aZn (0x200 + 8 * i)) 4) 2 0

/-- Replace or drop the Zinc operation of a program. -/
def State.setZn (s : State) (p : Prog) (z : Option ZnOp) : State :=
  let rest := s.zns.filter fun x => !(x.q = p.q ∧ x.seq = p.seq)
  { s with zns := match z with | some z => rest ++ [z] | none => rest }

/-- What Zinc makes of the input so far (R404 to R408): the new output, the input bytes consumed in all, the status with
UT, and whether more output of the same input is still to come. -/
structure ZRes where
  new  : List Byte
  used : Nat
  st   : Nat
  ut   : Bool := false
  more : Bool := false
  adler : Bool := false

/-- Run an operation on all its input, for at most `cap` new output bytes. -/
def ZnOp.go (z : ZnOp) (inp : List Byte) (last : Bool) (cap : Nat) : ZRes :=
  if !z.dec then
    if z.fmt = 4 ∧ last ∧ inp.length % 6 ≠ 0 then { new := [], used := inp.length, st := 4 }
    else { new := (zEncode z.fmt z.sgn inp last).drop z.made, used := inp.length, st := 0 }
  else
    let r := zDecode z.fmt inp (z.made + cap)
    let new := r.out.drop z.made
    let ut := decide (z.fmt ≠ 4)
    match r.st with
    | .done => { new := new, used := r.used, st := 0 }
    | .edge => { new := new, used := r.used, st := 0 }
    | .more => if last then { new := new, used := inp.length, st := 4, ut := ut } else { new := new, used := inp.length, st := 0 }
    | .full => { new := new, used := r.used, st := 0, more := true }
    | .bad => { new := new, used := r.used, st := 4, ut := ut }
    | .adler => { new := new, used := r.used, st := 4, ut := ut, adler := true }

/-- A piece of an open Zinc operation (R406, R411, R412). -/
def State.znPiece (s : State) (e : Nat) (p : Prog) (o : POp) (z : ZnOp) (st : Nat) (ext : List Byte) : State :=
  let w := o.req.getD 0 0
  let me : BitVec 12 := 0x300 + BitVec.ofNat 12 z.eng
  let last := w.getLsbD 7 || z.last
  let dsel := fld w 13 11
  let n := (o.req.getD 3 0).toNat % 2 ^ 32
  let space := (o.req.getD 4 0).toNat
  let r := o.reg.toNat
  let fail (s : State) (code : Nat) (u : Bool) : State :=
    (s.setZn p none).pieceEnd e o (BitVec.ofNat 9 (code + 256 * b2n u)) 0 [(r, 0), (r + 3, 0), (r + 4, 0)]
  match s.pieceIn e p o me (fld w 10 8) n st ext with
  | (.wait, s) => s
  | (.fail code, s) => fail s code z.wrote
  | (.ok inp, s) =>
    let all := z.inp ++ inp
    let cap := if dsel = 0 then space else 12304
    let g := z.go all last cap
    let outp := z.held ++ g.new
    let ovr : Bool := decide (dsel = 0) && decide (space < outp.length)
    let outp' := if dsel = 0 then outp.take space else outp
    let (pw, now, held) := s.pieceOut e p o me dsel (o.req.getD 2 0) outp' st
    match pw with
    | .wait s => s
    | .done s code left =>
      if code ≠ 0 then fail s code z.wrote
      else
        let used := g.used - z.inp.length
        let s := { s with znIn := satAdd 48 s.znIn used, znOut := satAdd 48 s.znOut now.length }
        let ends : Bool := z.dec && decide (z.fmt = 2) && last && !g.more && decide (g.st = 0)
        let (inj, s) : Bool × State := if ends then (match s.injHit .zn 0 0 with | some (_, s) => (true, s) | none => (false, s)) else (false, s)
        let (stt, u) : Nat × Bool := if ovr then (5, false) else if inj then (4, true) else (g.st, g.ut)
        let s := if stt = 4 then
            let s := { s with znErr := satAdd 32 s.znErr 1 }
            if !z.dec then s
            else if g.adler || inj then s.event { code := 0x0902, sev := 2, master := me.toNat, inst := some z.inst.toNat, pay := [(10, p.q.toNat), (48, p.seq)] }
            else s.event { code := 0x0901, sev := 1, master := me.toNat, inst := some z.inst.toNat,
                           pay := [(4, z.fmt), (10, p.q.toNat), (48, p.seq), (32, g.used)] }
          else s
        let z' : ZnOp := { z with inp := all.take g.used, made := z.made + g.new.length, held := held, wrote := z.wrote || !now.isEmpty, last := last && !g.more }
        let close : Bool := decide (stt ≠ 0) || (last && !g.more && held.isEmpty)
        let s := s.setZn p (if close then none else some z')
        s.pieceEnd e o (BitVec.ofNat 9 (stt + 256 * b2n u)) left [(r, now.length), (r + 3, used), (r + 4, held.length)]

/-- Has a Zinc request a field that R411 or R412 does not allow? -/
def POp.znBad (o : POp) : Bool :=
  let w := o.req.getD 0 0
  let ssel := fld w 10 8
  let dsel := fld w 13 11
  decide (fld w 63 14 ≠ 0) || decide (1 ≤ ssel ∧ ssel ≤ 3) || decide (1 ≤ dsel ∧ dsel ≤ 3) ||
    ((List.range 3).any fun j => decide (o.req.getD (5 + j) 0 ≠ 0)) || (decide (ssel ≠ 0) && decide (6144 < (o.req.getD 3 0).toNat % 2 ^ 32))

/-- Has a FIRST Zinc request a FMT or SIGNED that R392 does not allow? -/
def POp.znFmtBad (o : POp) : Bool :=
  let w := o.req.getD 0 0
  decide (fld w 3 0 = 0) || decide (4 < fld w 3 0) || (w.getLsbD 4 && decide (fld w 3 0 ≠ 4))

/-- The instances of the Zinc operations that arrived before request `n` and have not started, in the order of their arrival (R409). -/
def State.znAhead (s : State) (n : Nat) : List Nat :=
  let all : List (Nat × Nat) := (List.range 16).flatMap fun e => match (s.engine e).run with
    | none => []
    | some p => (p.pops.filter fun o => decide (o.op = 7) && decide (o.n < n) && decide (o.req ≠ []) && !o.ovr && (o.req.getD 0 0).getLsbD 6 &&
        !o.znBad && !o.znFmtBad && !(s.zns.any fun z => z.q = p.q ∧ z.seq = p.seq)).map fun o => (o.n, s.progInst p)
  (all.foldl (fun (m : Sp Nat) (x : Nat × Nat) => spIns m x.1 x.2) []).map fun x => x.2

/-- The instances on Zinc's engines once those that wait in `ahead` have taken what is free to them (R409). -/
def State.znSeats (s : State) (used ahead : List Nat) : List Nat :=
  ahead.foldl (fun u i => if u.length < 4 ∧ u.count i < s.znCap i then u ++ [i] else u) used

/-- A Zinc piece finishes (R392, R409, R411, R412). A FIRST piece waits for an engine that neither an open operation nor one that came
before it has, and for its instance's share. -/
def State.znDone (s : State) (e : Nat) (p : Prog) (o : POp) (st : Nat) (ext : List Byte) : State :=
  let w := o.req.getD 0 0
  let first := w.getLsbD 6
  let r := o.reg.toNat
  let i := s.progInst p
  let cur := s.zns.find? fun x => x.q = p.q ∧ x.seq = p.seq
  let ans (s : State) (code : Nat) : State := s.pieceEnd e o (BitVec.ofNat 9 code) 0 [(r, 0), (r + 3, 0), (r + 4, 0)]
  if first ∧ s.znCap i = 0 then ans s 0x0C
  else if o.znBad ∨ cur.isSome = first then ans { s with znErr := satAdd 32 s.znErr 1 } 4
  else match cur with
  | some z => s.znPiece e p o z st ext
  | none =>
    if o.znFmtBad then ans { s with znErr := satAdd 32 s.znErr 1 } 4
    else
      let seats := s.znSeats (s.zns.map fun z => z.inst.toNat) (s.znAhead o.n)
      if 4 ≤ seats.length ∨ s.znCap i ≤ seats.count i then s
      else
        let eng := ((List.range 4).find? fun k => !(s.zns.any fun z => z.eng = k)).getD 0
        let z : ZnOp := { e := BitVec.ofNat 4 e, q := p.q, seq := p.seq, inst := BitVec.ofNat 6 i, eng := eng, fmt := fld w 3 0,
                          sgn := w.getLsbD 4, dec := w.getLsbD 5 }
        s.znPiece e p o z st ext

def execZincPieceComplete (e : BitVec 4) (n : Nat) (ext : List Byte) (st : BitVec 8) (s : State) : Res :=
  .next (match (s.engine e.toNat).run with
    | none => s
    | some p => match p.pops[n]? with
      | none => s
      | some o => if s.phase = .run ∧ o.op = 7 ∧ p.firstPiece o then s.znDone e.toNat p o st.toNat ext else s)

/-- A write of COB_KLOAD (R401): ignored with LOST while BUSY. -/
def State.kload (s : State) (v : Word) : State :=
  let cmd := fld v 1 0
  let ks := s.rg (aCob 0x68)
  if ks.getLsbD 0 then s.sg (aCob 0x68) (setBit ks 2 true)
  else if cmd = 1 ∨ cmd = 2 then
    let key := ((List.range 6).map fun i => wordLe (spGetD 0 s.kbuf i)).flatten.take (if v.getLsbD 2 then 32 else 16)
    let k : KCmd := { v := v, slot := fld (s.rg (aCob 0x10)) 11 0, key := key, at_ := s.ports }
    ({ s with kcmd := some k }).sg (aCob 0x68) (setBit ks 0 true)
  else s

def execKloadLoad (a : Via) (v : BitVec 48) (s : State) : Res := s.onWrite a (aCob 0x60) fun s => s.kload (setFld v 1 0 1)
def execKloadZero (a : Via) (v : BitVec 48) (s : State) : Res := s.onWrite a (aCob 0x60) fun s => s.kload (setFld v 1 0 2)

/-- Does a request accepted before the command still name the slot (R401)? -/
def State.slotBusy (s : State) (k : KCmd) : Bool :=
  (s.cobs.any fun c => c.slot = k.slot) ||
  (List.range 16).any fun e =>
    let ps := (match (s.engine e).run with | some p => p.pops | none => []) ++ ((s.engine e).parked.map fun p => p.pops).flatten
    ps.any fun o => decide (o.op = 6) && decide (o.n < k.at_) && (o.req.getD 0 0).getLsbD 30 && decide (fld (o.req.getD 0 0) 11 0 = k.slot) && !o.ovr

/-- Zero a slot (R401): event 0x0802. -/
def State.kzero (s : State) (slot : Nat) : State :=
  ({ s with kslots := spDel s.kslots slot }).event { code := 0x0802, sev := 1, master := 0x603, pay := [(12, slot)] }

/-- A slot command takes effect once earlier requests have finished (R401). -/
def State.kdone (s : State) : State :=
  match s.kcmd with
  | none => s
  | some k =>
    if s.slotBusy k then s
    else
      let s := ({ s with kcmd := none }).sg (aCob 0x68) (setBit (s.rg (aCob 0x68)) 0 false)
      let s :=
        if fld k.v 1 0 = 1 then
          let ks : KSlot := { key := k.key, big := k.v.getLsbD 2, pre := k.v.extractLsb' 9 32, inst := k.v.extractLsb' 3 6 }
          ({ s with kslots := spIns s.kslots k.slot ks, kbuf := [] }).event
            { code := 0x0801, sev := 1, master := 0x603, pay := [(12, k.slot), (6, ks.inst.toNat), (1, b2n ks.big), (32, ks.pre.toNat)] }
        else s.kzero k.slot
      s.cobStatus 1

def execKeySlotCommandComplete (s : State) : Res := .next (if s.phase = .run then s.kdone else s)

/-- The next ceiling of a slot is durable (R403). -/
def State.ceilUp (s : State) (slot : Nat) : State :=
  match spGet s.kslots slot with
  | none => s
  | some k =>
    if k.ceil < (k.ctr / 16777216 + 2) * 16777216 then
      { s with kslots := spIns s.kslots slot { k with ceil := min (k.ceil + 16777216) (2 ^ 64 - 1) } }
    else s

def execCeilingWriteComplete (slot : BitVec 12) (s : State) : Res := .next (s.ceilUp slot.toNat)

/-- The random source fails its health test (R398): event 0x0810; the result it carries is a free value. -/
def State.rngFail (s : State) : State :=
  if s.part.cobalt ∧ (s.rg (aCob 0)).getLsbD 0 = false then
    let v := Config.freeNat s.free
    ((s.tick1.sg (aCob 0) (setBit (s.rg (aCob 0)) 0 true)).cobStatus 0).event
      { code := 0x0810, sev := 3, cls := 4, blk := some .cob, master := 0x200, pay := [(48, v)] }
  else s

def execRngHealthFail (s : State) : Res := .next s.rngFail

/-- Requests for the snapshots of Cobalt and Zinc (R415, R416). -/
def execCobSnapReq (a : Via) (s : State) : Res := s.onWrite a (aCob 8) fun s => (s.sg (aCob 8) 0).snapReq .cob
def execZnSnapReq (a : Via) (s : State) : Res := s.onWrite a (aZn 8) fun s => (s.sg (aZn 8) 0).snapReq .zn

end Sys2Proof.Machine
end

