-- ==== Sys2Proof/Machine/Standard.lean ====
section
/-!
DEFINITION. The programs of the standard image (spec 13 R334 to R336, R362, spec 15 R390 to R393, R413): what they do, block by block, with
the mover operations, Cobalt and Zinc pieces and queue operations of an engine. Their words are not stated; their registers V22 to V29
take what a piece returns.
-/
namespace Sys2Proof.Machine

open Sys2Proof

/-- The parameters of a standard program (R390). -/
def Prog.fmt (p : Prog) : Nat := fld (p.r 12) 3 0
def Prog.signed (p : Prog) : Bool := (p.r 12).getLsbD 4
def Prog.slot (p : Prog) : Nat := fld (p.r 12) 16 5
def Prog.aadLen (p : Prog) : Nat := fld (p.r 12) 33 17
def Prog.outMax (p : Prog) : Nat := fld (p.r 12) 63 34

/-- The number a standard program uses of the units: Zinc, Cobalt, and whether Cobalt decrypts (R391). -/
def usesZn (n : Nat) : Bool := decide (5 ≤ n ∧ n ≤ 8)
def usesCob (n : Nat) : Bool := decide (n = 3 ∨ n = 4 ∨ n = 7 ∨ n = 8)
def decrypts (n : Nat) : Bool := decide (n = 4 ∨ n = 8)

/-- The steps of Zinc and of Cobalt in a program (R391 note a). -/
def znStep (n : Nat) : Nat := if n = 8 then 2 else 1
def cobStep (n : Nat) : Nat := if n = 7 then 2 else 1

/-- Is a field nonzero that the program does not use (R391)? -/
def Prog.stray (p : Prog) (n : Nat) : Bool :=
  (!usesZn n && (decide (p.fmt ≠ 0) || decide (p.outMax ≠ 0))) ||
  (p.signed && decide (n ≠ 5 ∧ n ≠ 7)) ||
  (!usesCob n && (decide (p.slot ≠ 0) || decide (p.aadLen ≠ 0) || decide (p.r 13 ≠ 0))) ||
  (!decrypts n && (decide (p.r 14 ≠ 0) || decide (p.r 15 ≠ 0))) || decide (fld (p.r 15) 63 32 ≠ 0)

/-- The checks of R392 in their order, for programs 0x03 to 0x08: the status of the first that fails, and the step it is a check of. -/
def State.stdCheck (s : State) (p : Prog) (n len : Nat) : Option (Nat × Nat) :=
  let i := s.progInst p
  let noZn : Bool := usesZn n && (!s.part.zinc || decide (s.znCap i = 0))
  let noCob : Bool := usesCob n && (!s.part.cobalt || (s.rg (aCob 0)).getLsbD 0)
  let text := if n = 7 then p.outMax - 16 else if decrypts n then len - 16 else len
  if noCob ∧ cobStep n = 1 then some (0x0C, 1)
  else if noZn then some (0x0C, znStep n)
  else if noCob then some (0x0C, 2)
  else if p.stray n ∨ (usesZn n ∧ (p.fmt = 0 ∨ 4 < p.fmt)) ∨ (p.signed ∧ p.fmt ≠ 4) ∨ (decrypts n ∧ len < 16) ∨
      ((n = 5 ∨ n = 7) ∧ p.fmt = 4 ∧ len % 6 ≠ 0) ∨ (n = 7 ∧ p.outMax < 16) then some (4, 1)
  else if !usesCob n then none
  else if 65536 < p.aadLen ∨ 16777216 < text then some (2, cobStep n)
  else match spGet s.kslots p.slot with
  | none => some (3, cobStep n)
  | some k => if k.inst.toNat ≠ i ∨ (!decrypts n ∧ k.ctr = 2 ^ 64 - 1) then some (3, cobStep n) else none

/-- A standard program ends with a status, its step and UT (R335, R337). -/
def State.stdEnd (s : State) (e : Nat) (p : Prog) (status step : Nat) (ut : Bool) : State :=
  (s.setRun e { p with status := BitVec.ofNat 8 status, step := BitVec.ofNat 4 step, ut := ut, ending := true }).uFinish e

/-- A standard program goes on. -/
def State.stdGo (s : State) (e : Nat) (p : Prog) (d : StdRun) : State := s.setRun e { p with std := some d }

/-- Add to a result register. -/
def Prog.count (p : Prog) (r n : Nat) : Prog := p.hw r (p.r r + BitVec.ofNat 64 n)

/-- What the last piece returned: output bytes, bytes that Zinc consumed, bytes held, status, UT (R410, R411). -/
def Prog.out (p : Prog) : Nat := (p.r 22).toNat
def Prog.took (p : Prog) : Nat := (p.r 25).toNat
def Prog.held (p : Prog) : Nat := (p.r 26).toNat
def Prog.code (p : Prog) : Nat := fld (p.r 31) 7 0
def Prog.utBit (p : Prog) : Bool := (p.r 31).getLsbD 8

/-- The IV that an encryption took goes into RESULT1 and RESULT2 (R391 note d, R396). -/
def Prog.ivOut (p : Prog) : Prog := (p.hw 19 (p.r 27)).hw 20 (p.r 28)

/-- Is the program's Zinc operation still open? -/
def State.znOpen (s : State) (p : Prog) : Bool := s.zns.any fun z => z.q = p.q ∧ z.seq = p.seq

/-- Submit a Cobalt piece of a standard program (R410): `n` input bytes from the selector `ssel`, output to `dsel`. -/
def State.stdCob (s : State) (e : Nat) (p : Prog) (d : StdRun) (n : Nat) (last : Bool) (ssel dsel : Nat) : State × Prog :=
  let w := p.slot + b2n (decrypts d.prog) * 2 ^ 12 + p.aadLen * 2 ^ 13 + b2n (!d.cobOn) * 2 ^ 30 + b2n last * 2 ^ 31 + ssel * 2 ^ 32 + dsel * 2 ^ 35
  s.unitIssue e p 6 22 [BitVec.ofNat 64 w, d.src, d.dst, BitVec.ofNat 64 n, p.r 13, p.r 14, p.r 15, 0]

/-- Submit a Zinc piece whose output goes to buffer B0 (R411). -/
def State.stdZn (s : State) (e : Nat) (p : Prog) (d : StdRun) (n : Nat) (last : Bool) (ssel : Nat) : State × Prog :=
  let w := p.fmt + b2n p.signed * 16 + b2n (decide (d.prog = 6 ∨ d.prog = 8)) * 32 + b2n (!d.znOn) * 64 + b2n last * 128 + ssel * 256 + 4 * 2048
  s.unitIssue e p 7 22 [BitVec.ofNat 64 w, d.src, 0, BitVec.ofNat 64 n, 6144, 0, 0, 0]

/-- Buffer b of an engine keeps what `f` makes of it. -/
def State.cutBuf (s : State) (e b : Nat) (f : List Byte → List Byte) : State :=
  s.modEng e fun g => { g with bufs := spPut {} g.bufs b { spGetD {} g.bufs b with data := f (spGetD {} g.bufs b).data } }

/-- COPY, FILL and the first step of POST (R334, R335): 1 the top of a block, 2 its bytes are in B0, 3 they are written. -/
def State.stdMove (s : State) (e : Nat) (p : Prog) (d : StdRun) : State :=
  match d.stage with
  | 1 =>
    (match s.uBound e p with
    | some s => s
    | none =>
      if d.left = 0 then
        if d.prog = 16 then s.stdGo e { p with step := 2, mtch := some ((p.r 12).extractLsb' 16 9) } { d with stage := 10 } else s.stdEnd e p 0 1 false
      else
        let n := min d.left 6144
        let (s, p) := if d.prog = 2 then s.movIssue e p 2 0 (p.r 12 &&& 0xFF) n else s.movIssue e p 0 0 d.src n
        s.stdGo e p { d with stage := 2, left := d.left - n, src := adrAdd d.src n, now := n })
  | 2 =>
    if p.r 30 ≠ 0 then s.stdEnd e p (p.r 30).toNat 1 false
    else
      let (s, p) := s.movIssue e p 1 0 d.dst d.now
      s.stdGo e p { d with stage := 3 }
  | _ =>
    if p.r 30 ≠ 0 then s.stdEnd e p (p.r 30).toNat 1 false
    else s.stdGo e (if d.prog = 16 then p else p.count 18 d.now) { d with stage := 1, dst := adrAdd d.dst d.now }

/-- The request packet of POST (R336). -/
def State.postPacket (s : State) (p : Prog) : List Byte :=
  let w1 := p.q.toNat + fld (p.r 12) 24 16 * 2 ^ 10 + s.progInst p * 2 ^ 19
  let dst := p.r 11
  natLe 6 p.seq ++ natLe 6 w1 ++ natLe 6 (fld (p.r 8) 63 32) ++ natLe 6 (if fld dst 63 62 = 0 then fld dst 47 0 else 0) ++
  natLe 6 (fld (p.r 9) 63 32) ++ (((List.range 4).map fun i => natLe 8 (p.r (12 + i)).toNat).flatten) ++ [0, 0, 0, 0]

/-- POST from its second step on (R336, R362, R378): 10 a slot is reserved, every 1 µs while the queue is full or disabled; 11 the packet is
written and committed; 12 the program parks; 13 its reply has come. -/
def State.stdPost (s : State) (e : Nat) (p : Prog) (d : StdRun) : State :=
  let q := fld (p.r 12) 8 0
  let m : BitVec 12 := 0x100 + BitVec.ofNat 12 e
  let again : StdRun := { d with stage := 10, tick := s.tb.toNat + 25 }
  let stop (s : State) : Option State := s.uBound e p
  match d.stage with
  | 10 =>
    (match stop s with
    | some s => s
    | none =>
      if s.tb.toNat < d.tick then s
      else if !s.qEn q then s.stdGo e p again
      else match s.qResv q m (some p.q) with
        | (0, s) => s.stdGo e p again
        | (v, s) => s.stdGo e p { d with stage := 11, slot := v % 65536 })
  | 11 =>
    if (stop s).isSome then
      let s := (s.qCommit q m (BitVec.ofNat 48 (d.slot + 2 ^ 23))).2
      (stop s).getD s
    else match s.uncWrite (s.qBase q + 96 * d.slot) (s.postPacket p) false m with
      | (false, s) => s
      | (true, s) =>
        let (ok, s) := s.qCommit q m (BitVec.ofNat 48 (d.slot + 10 * 2 ^ 16 + fld (p.r 8) 18 16 * 2 ^ 20))
        s.modEng e fun g => { g with run := g.run.map fun p =>
          if ok then { p with toq := some (BitVec.ofNat 9 q), step := 3, std := some { d with stage := 12 } } else { p with std := some again } }
  | 12 =>
    (match stop s with
    | some s => s
    | none =>
      if !s.qEng (fld (p.r 12) 24 16) then s.uFaultAt e p 6
      else if 64 ≤ (s.engine e).parked.length then s
      else s.modEng e fun g => { g with run := none, parked := g.parked ++ [{ p with std := some { d with stage := 13 } }] })
  | _ =>
    let w := p.r 23
    let p := (p.hw 18 (p.r 24)).hw 19 (p.r 25)
    if fld w 47 19 ≠ 0 ∨ 0x0B ≤ fld w 17 10 then s.stdEnd e p 4 3 (w.getLsbD 18) else s.stdEnd e p (fld w 17 10) 3 (w.getLsbD 18)

/-- Input bytes of the next Cobalt piece, and whether it is the last: that of a decryption holds the whole tag (R393, R410 note c). -/
def cobTake (dec : Bool) (left : Nat) : Nat × Bool := if left < (if dec then 6160 else 6145) then (left, true) else (6144, false)

/-- ENCRYPT and DECRYPT (R391, R393): 1 the top of a block, 2 its piece has been answered. -/
def State.stdCipher (s : State) (e : Nat) (p : Prog) (d : StdRun) : State :=
  match d.stage with
  | 1 =>
    (match s.uBound e p with
    | some s => s
    | none =>
      let (n, last) := cobTake (decrypts d.prog) d.left
      let (s, p) := s.stdCob e p d n last 0 0
      s.stdGo e p { d with stage := 2, cobOn := true, now := n, last := last })
  | _ =>
    let p := p.count 18 p.out
    let p := if decrypts d.prog then p else p.ivOut
    if p.code ≠ 0 then s.stdEnd e p p.code 1 (p.utBit || (decide (p.code = 0x0C) && decide (p.r 18 ≠ 0)))
    else if d.last then s.stdEnd e p 0 1 false
    else s.stdGo e p { d with stage := 1, src := adrAdd d.src d.now, dst := adrAdd d.dst p.out, left := d.left - d.now }

/-- The top of a block whose input Zinc takes from SRC (R393): a boundary after 6,144 bytes of input or 65,536 of output. -/
def State.stdZnTop (s : State) (e : Nat) (p : Prog) (d : StdRun) : State :=
  let edge : Bool := decide (d.bIn = 0) || decide (6144 ≤ d.bIn) || decide (65536 ≤ d.bOut)
  match (if edge then s.uBound e p else none) with
  | some s => s
  | none =>
    let d := if edge then { d with bIn := 0, bOut := 0 } else d
    let n := if d.fin then 0 else min d.left (6144 - d.bIn)
    let last := d.fin || decide (d.left = n)
    let (s, p) := s.stdZn e p d n last 0
    s.stdGo e p { d with stage := 2, znOn := true, now := n, last := last }

/-- What a Zinc piece from SRC took: the input moves on; nothing taken, made or held means that the stream has ended before its input
(R406). -/
def StdRun.zinced (d : StdRun) (p : Prog) : StdRun :=
  { d with src := adrAdd d.src p.took, left := d.left - p.took, bIn := d.bIn + p.took,
           fin := d.fin || (decide (p.took = 0 ∧ p.out = 0 ∧ p.held = 0)), code := p.code, ut := p.utBit }

/-- Zinc's output in B0 is written at DST, as much as `room` allows (R406): the write is issued. -/
def State.stdPut (s : State) (e : Nat) (p : Prog) (d : StdRun) (room stage : Nat) : State :=
  let w := min p.out room
  let s := s.cutBuf e 0 (fun b => b.take w)
  let d := { d with stage := stage, now := w, full := decide (room < p.out) }
  if w = 0 then s.stdGo e p d
  else
    let (s, p) := s.movIssue e p 1 0 d.dst w
    s.stdGo e p d

/-- What was put at DST counts. -/
def StdRun.wrote (d : StdRun) : StdRun := { d with dst := adrAdd d.dst d.now, bOut := d.bOut + d.now }

/-- COMPRESS and DECOMPRESS (R391, R393, R406): 2 a piece has been answered, 3 its output is written. -/
def State.stdZinc (s : State) (e : Nat) (p : Prog) (d : StdRun) : State :=
  match d.stage with
  | 1 => s.stdZnTop e p d
  | 2 => s.stdPut e (p.count 19 p.took) (d.zinced p) (p.outMax - (p.r 18).toNat) 3
  | _ =>
    if p.r 30 ≠ 0 then s.stdEnd e p (p.r 30).toNat 1 false
    else
      let p := p.count 18 d.now
      if d.full then s.stdEnd e p 5 1 false
      else if d.code ≠ 0 then s.stdEnd e p d.code 1 d.ut
      else if s.znOpen p then s.stdGo e p { d.wrote with stage := 1 } else s.stdEnd e p 0 1 false

/-- COMPRESS-ENCRYPT (R391 notes b to d): 2 Zinc's block is in B0 and goes to Cobalt, 3 Cobalt has answered. -/
def State.stdSeal (s : State) (e : Nat) (p : Prog) (d : StdRun) : State :=
  match d.stage with
  | 1 => s.stdZnTop e p d
  | 2 =>
    let d := d.zinced p
    let closed := !s.znOpen p
    let room := p.outMax - 16 - d.mid
    let w := min p.out room
    let full : Bool := decide (room < p.out)
    let p := p.count 21 p.took
    if d.code ≠ 0 then s.stdEnd e p d.code 1 d.ut
    else if w = 0 ∧ full then s.stdEnd e p 5 1 false
    else if w = 0 ∧ !closed then s.stdGo e p { d with stage := 1 }
    else
      let s := s.cutBuf e 0 (fun b => b.take w)
      let (s, p) := s.stdCob e p d w (closed && !full) 4 0
      s.stdGo e p { d with stage := 3, cobOn := true, mid := d.mid + w, bOut := d.bOut + w, full := full, last := closed }
  | _ =>
    let p := (p.count 18 p.out).ivOut
    if p.code ≠ 0 then s.stdEnd e p p.code 2 (p.utBit || (decide (p.code = 0x0C) && decide (p.r 18 ≠ 0)))
    else if d.full then s.stdEnd e p 5 1 false
    else if d.last then s.stdEnd e p 0 1 false
    else s.stdGo e p { d with stage := 1, dst := adrAdd d.dst p.out }

/-- DECRYPT-DECOMPRESS (R391, R413): 1 the top of a block, 2 its plaintext is in B1, 3 it goes to Zinc, 4 Zinc has answered, 5 what it made is
written. `mid` says that Zinc may make more of what it has taken. A tag that fails is told once the last block has been written. -/
def State.stdOpen (s : State) (e : Nat) (p : Prog) (d : StdRun) : State :=
  match d.stage with
  | 1 =>
    (match s.uBound e p with
    | some s => s
    | none =>
      let (n, last) := cobTake true d.left
      let (s, p) := s.stdCob e p d n last 0 5
      s.stdGo e p { d with stage := 2, cobOn := true, now := n, last := last })
  | 2 =>
    if p.code ≠ 0 ∧ p.code ≠ 1 then s.stdEnd e p p.code 1 (p.utBit || decide (p.r 18 ≠ 0))
    else s.stdGo e p { d with stage := 3, src := adrAdd d.src d.now, left := d.left - d.now, pend := p.out, tagBad := decide (p.code = 1), mid := 0 }
  | 3 =>
    if !d.last && (d.fin || (decide (d.pend = 0) && decide (d.mid = 0))) then s.stdGo e p { d with stage := 1, pend := 0 }
    else match (if 65536 ≤ d.bOut then s.uBound e p else none) with
    | some s => s
    | none =>
      let d := if 65536 ≤ d.bOut then { d with bOut := 0 } else d
      let (s, p) := s.stdZn e p d (if d.fin then 0 else d.pend) d.last 5
      s.stdGo e p { d with stage := 4, znOn := true }
  | 4 =>
    let d' : StdRun := { d with pend := d.pend - p.took, code := p.code, ut := p.utBit, mid := b2n (decide (p.out ≠ 0 ∨ p.held ≠ 0)),
                                fin := d.fin || (decide (d.pend ≠ 0 ∧ p.took = 0 ∧ p.out = 0 ∧ p.held = 0)) }
    (s.cutBuf e 1 (fun b => b.drop p.took)).stdPut e (p.count 19 p.took) d' (p.outMax - (p.r 18).toNat) 5
  | _ =>
    let early := !d.last
    if p.r 30 ≠ 0 then s.stdEnd e p (p.r 30).toNat 2 early
    else
      let p := p.count 18 d.now
      let ends : Bool := d.full || decide (d.code ≠ 0) || !s.znOpen p
      if !ends then s.stdGo e p { d.wrote with stage := 3 }
      else if d.tagBad then s.stdEnd e p 1 1 true
      else if d.full then s.stdEnd e p 5 2 early
      else s.stdEnd e p d.code 2 (decide (d.code ≠ 0) && (d.ut || early))

/-- The start of a standard program: the entry is STARTED, the checks of R392 are made before any effect. -/
def State.stdStart (s : State) (e : Nat) (p : Prog) (d : StdRun) : State :=
  let (s, p) := s.uStart e p
  if d.prog = 0 then s.stdEnd e p 0 1 false
  else if d.prog < 3 ∨ 8 < d.prog then s.stdGo e p { d with stage := 1 }
  else match s.stdCheck p d.prog d.left with
    | none => s.stdGo e p { d with stage := 1 }
    | some (c, step) =>
      let s := if c = 4 ∧ usesZn d.prog then { s with znErr := satAdd 32 s.znErr 1 } else s
      let spent : Bool := match spGet s.kslots p.slot with | some k => decide (k.inst.toNat = s.progInst p ∧ k.ctr = 2 ^ 64 - 1) | none => false
      let s := if c = 3 ∧ spent then s.event { code := 0x0804, sev := 2, master := 0x200, inst := some (s.progInst p), pay := [(12, p.slot)] } else s
      s.stdEnd e p c step false

/-- A standard program goes on as far as it can without an answer of a mover or a unit. -/
def State.stdStep (s : State) (e : Nat) : State :=
  match (s.engine e).run with
  | none => s
  | some p =>
    match p.std with
    | none => s
    | some d =>
      if p.ending || !p.mops.isEmpty || !p.pops.isEmpty then s
      else if d.stage = 0 then s.stdStart e p d
      else match d.prog with
      | 3 | 4 => s.stdCipher e p d
      | 5 | 6 => s.stdZinc e p d
      | 7 => s.stdSeal e p d
      | 8 => s.stdOpen e p d
      | 16 => if d.stage < 10 then s.stdMove e p d else s.stdPost e p d
      | _ => s.stdMove e p d

/-- Every engine's standard program. -/
def State.stdTick (s : State) : State := (List.range 16).foldl State.stdStep s

end Sys2Proof.Machine
end

