-- ==== Sys2Proof/Machine/Cxl.lean ====
section
/-!
DEFINITION. The host interface's commands (spec 12): ring pairs with their doorbells, fetches and completions, the host's
requests to the main store, the link, detach, attach and removal.
-/
namespace Sys2Proof.Machine

open Sys2Proof

/-- The ring pair behind a doorbell page of a function (R300, R302), for writes: the PF's take effect on rings of
instance 0 only. -/
def State.pageRing (s : State) (fn page : Nat) : Option Nat :=
  if s.phase ≠ .run then none
  else if fn = 0 then (if s.ringOwner page = some 0 then some page else none)
  else
    let c := s.inst fn
    if s.instState fn ≠ 0 ∧ page < c.rcount then some (c.rfirst + page) else none

/-- Act on the ring pair of a doorbell page. -/
def State.onPage (s : State) (fn : BitVec 6) (page : BitVec 10) (f : State → Nat → State) : Res :=
  .next (match s.pageRing fn.toNat page.toNat with
    | some q => f s q
    | none => s)

/-- Slots covered by SQPI and not accepted. -/
def RP.covered (r : RP) (idx : BitVec 32) : Bool := decide ((idx - r.acc).toNat < (r.sqpi - r.acc).toNat) && decide ((idx - r.sqfp).toNat < 32)

/-- May ring pair q fetch now (R298, R307, R322, R343)? -/
def State.mayFetch (s : State) (q : Nat) : Bool :=
  let r := s.rp q
  decide (s.phase = .run) && s.rpEn q && decide (r.held = 0) && !r.stopF && s.mstat 2 && !s.mstat 1 && decide (raSize (s.ra q) ≠ 0)

/-- A write of SQPI (R306). A ring pair without a ring area is recorded (R343). -/
def State.sqpiSet (s : State) (q : Nat) (v : BitVec 32) : State :=
  let r := s.rp q
  let size := ringSize (s.sqb q)
  if !s.rpEn q || decide (r.held ≠ 0) || (r.err && (decide (r.code = 1) || decide (r.code = 2))) then s
  else if (v - r.sqpi).toNat ≤ (r.sqfp + BitVec.ofNat 32 size - r.sqpi).toNat then
    let s := s.modRp q fun r => { r with sqpi := v, stopF := r.stopF && r.err, ftick := s.ticks }
    if v ≠ (s.rp q).sqfp ∧ raSize (s.ra q) = 0 then
      s.event { code := 0x0701, sev := 2, master := 0x702, inst := s.ringOwner q, pay := [(10, q)] }
    else s
  else s.ringError q 1 v

def execSqpi (fn : BitVec 6) (page : BitVec 10) (v : BitVec 32) (s : State) : Res := s.onPage fn page fun s q => s.sqpiSet q v

/-- A write of CQCI (R310): entries below it are RETIRED and HELD clears, but for a freeze or containment, whose rings
take no doorbell (R428). -/
def State.cqciSet (s : State) (q : Nat) (v : BitVec 32) : State :=
  let r := s.rp q
  if r.held.getLsbD 1 || r.held.getLsbD 2 then s
  else if (v - r.cqci).toNat ≤ (r.cqpi - r.cqci).toNat then
    (s.modRp q fun r => { r with cqci := v, held := setBit r.held 0 false }).ringWrite q
  else s.ringError q 3 v

def execCqci (fn : BitVec 6) (page : BitVec 10) (v : BitVec 32) (s : State) : Res := s.onPage fn page fun s q => s.cqciSet q v

/-- The host line of a submission slot. -/
def State.slotLine (s : State) (q : Nat) (idx : BitVec 32) : Nat := fld (s.sqb q) 39 0 * 64 + idx.toNat % ringSize (s.sqb q)

/-- Keep a line in the device cache of 4,096 host lines (R297); the oldest goes when it is full. -/
def State.dcFill (s : State) (h : Nat) (d : List Byte) : State :=
  let rest := s.cxl.dcache.filter fun (a, _) => decide (a ≠ h)
  let rest := if rest.length ≥ 4096 then rest.drop 1 else rest
  { s with cxl := { s.cxl with dcache := rest ++ [(h, d)] } }

/-- A submission slot's data arrives (R307): a line that the device cache holds is used as it stands there. Poisoned data
is ring error 2 (R312). -/
def State.fetched (s : State) (q : Nat) (idx : BitVec 32) (data : List Byte) (pois : Bool) : State :=
  let r := s.rp q
  if !s.mayFetch q || !r.covered idx || r.got.any (fun (i, _) => decide (i = idx)) then s
  else
    let h := s.slotLine q idx
    -- the device cache's parity (R485): the line is fetched again; the error carries no event code
    let (s, hit) : State × Bool := match (if s.cxl.dcache.any (fun (a, _) => a = h) then s.injHit .cxl 0 0 else none) with
      | some (inv, s) => if inv % 2 = 0 then (s, false) else (s.capture { code := 0, sev := 0, cls := 1, blk := some .cxl, master := 0x400, addr := 64 * h, acc := 1, space := 5 }, true)
      | none => (s, false)
    if hit then { s with cxl := { s.cxl with dcache := s.cxl.dcache.filter fun (a, _) => decide (a ≠ h) } } else
    match s.cxl.dcache.find? fun (a, _) => a = h with
    | some (_, d) => s.modRp q fun r => { r with got := r.got ++ [(idx, d)] }
    | none =>
      if pois then s.ringError q 2 idx
      else
        let d := (List.range 64).map fun i => data.getD i 0
        (s.dcFill h d).modRp q fun r => { r with got := r.got ++ [(idx, d)], ftick := s.ticks }

def execDescriptorFetchComplete (q : BitVec 10) (idx : BitVec 32) (data : List Byte) (pois : Bool) (s : State) : Res :=
  .next (s.fetched q.toNat idx data pois)

/-- A fetch unanswered for 2 µs (R312): the lowest slot awaited. -/
def State.fetchLate (s : State) (q : Nat) : State :=
  let r := s.rp q
  match (List.range 32).find? fun i =>
      let x := r.sqfp + BitVec.ofNat 32 i
      r.covered x && !(r.got.any fun (j, _) => decide (j = x)) with
  | some i => if s.mayFetch q ∧ r.ftick + 50 ≤ s.ticks then s.ringError q 2 (r.sqfp + BitVec.ofNat 32 i) else s
  | none => s

def execDescriptorFetchTimeout (q : BitVec 10) (s : State) : Res := .next (s.fetchLate q.toNat)

/-- May completions of ring pair q be posted now (R308, R321, R322)? -/
def State.mayPost (s : State) (q : Nat) : Bool :=
  let r := s.rp q
  decide (s.phase = .run) && s.rpEn q && decide (r.held = 0) && !r.stopP && s.mstat 2 && !s.mstat 1 && !s.cxl.gpf

/-- The lowest index from CQPI that is not being written. -/
def RP.nextWrite (r : RP) : Nat → BitVec 32 → BitVec 32
  | 0, v => v
  | n + 1, v => if r.wrs.any fun w => decide (w.idx = v) then r.nextWrite n (v + 1) else v

/-- A completion with its phase bit (R308). -/
def phased (bs : List Byte) (idx : BitVec 32) (size : Nat) : List Byte :=
  overlay 0 bs [(63, if idx.toNat / size % 2 = 0 then 0x80 else 0)]

/-- The next completion is written to its slot when the ring has room (R308, R309). -/
def State.compWrite (s : State) (q : Nat) : State :=
  let r := s.rp q
  let size := ringSize (s.cqb q)
  let idx := r.nextWrite r.wrs.length r.cqpi
  if !s.mayPost q || decide (size ≤ (idx - r.cqci).toNat) then s
  else match (s.entsOf q).find? fun (n, e) => e.st = .done ∧ e.cidx = idx ∧ r.enSeq ≤ n ∧ e.wait = false with
    | none => s
    | some (_, e) =>
      let a := fld (s.cqb q) 39 0 * 4096 + 64 * (idx.toNat % size)
      let w : CWr := { idx := idx, tick := s.ticks, go := false }
      (s.modRp q fun r => { r with wrs := r.wrs ++ [w] }).out (.hostWrite a (phased e.comp idx size))

def execCompletionWrite (q : BitVec 10) (s : State) : Res := .next (s.compWrite q.toNat)

/-- The host gives GO for a slot (R308). -/
def State.compGo (s : State) (q : Nat) (idx : BitVec 32) : State :=
  if (s.rp q).wrs.any fun w => w.idx = idx ∧ w.go = false then
    (s.modRp q fun r => { r with wrs := r.wrs.map fun w => if w.idx = idx then { w with go := true } else w }).cqpiAdvance q
  else s

def execCompletionGo (q : BitVec 10) (idx : BitVec 32) (s : State) : Res := .next (if s.phase = .run then s.compGo q.toNat idx else s)

/-- A completion write without GO for 2 µs (R312): the completion is kept and its slot is written again later. -/
def State.goLate (s : State) (q : Nat) : State :=
  match (s.rp q).wrs.find? fun w => w.go = false ∧ w.tick + 50 ≤ s.ticks with
  | none => s
  | some w => (s.modRp q fun r => { r with wrs := r.wrs.filter fun x => x.go || decide (x.idx ≠ w.idx) }).ringError q 4 w.idx

def execCompletionGoTimeout (q : BitVec 10) (s : State) : Res := .next (if s.phase = .run then s.goLate q.toNat else s)

/-- The time threshold of the completion interrupt (R311). -/
def execCompletionInterruptTimer (q : BitVec 10) (s : State) : Res := .next (if s.phase = .run then s.compSignal q.toNat else s)

/-- Does a report about ring pair q wait to be posted (R425)? -/
def State.reptWaits (s : State) (q : Nat) : Bool :=
  s.repts.any fun r => (decide (descB r.bytes 0 = 1) || decide (descB r.bytes 0 = 2)) && decide (leNat ((r.bytes.drop 2).take 2) % 1024 = q)

/-- A write of CXL_RP[q]_SQB (R304). -/
def State.sqbSet (s : State) (q : Nat) (v : Word) : State :=
  let old := s.sqb q
  let a := aCxl (0x10000 + 16 * q)
  if old.getLsbD 44 then
    if v.getLsbD 44 || s.unretired q then s else (s.sg a (setBit old 44 false)).ringWrite q
  else
    let n := setFld old 39 0 (fld v 39 0)
    let n := if fld v 43 40 ≤ 10 then setFld n 43 40 (fld v 43 40) else n
    if v.getLsbD 44 && !s.reptWaits q then
      let s := s.sg a (setBit n 44 true)
      let r := s.rp q
      -- the ABANDONED entries of earlier enables are free from here on, by ENSEQ (R342, R344)
      let r' : RP := { irq := r.irq, nextSeq := r.nextSeq, enSeq := r.nextSeq, sqfpEn := 0, held := r.held &&& 6 }
      (s.modRp q fun _ => r').ringWrite q
    else (s.sg a n).ringWrite q

/-- A write of CXL_RP[q]_CQB (R304). -/
def State.cqbSet (s : State) (q : Nat) (v : Word) : State :=
  if s.rpEn q then s
  else
    let n := setFld (s.cqb q) 39 0 (fld v 39 0)
    let n := if fld v 43 40 ≤ 10 then setFld n 43 40 (fld v 43 40) else n
    (s.sg (aCxl (0x10008 + 16 * q)) n).ringWrite q

/-- Only the manager reaches the ring registers, through PF BAR0 (R304 note d). -/
def State.onRing (s : State) (a : Via) (q : BitVec 10) (f : State → State) : Res :=
  .next (if a = .pf ∧ s.viaReach a (aCxl (0x10000 + 16 * q.toNat)) = true then f s else s)

def execRingPairEnable (a : Via) (q : BitVec 10) (v : BitVec 48) (s : State) : Res :=
  s.onRing a q fun s => s.sqbSet q.toNat (setBit v 44 true)
def execRingPairDisable (a : Via) (q : BitVec 10) (v : BitVec 48) (s : State) : Res :=
  s.onRing a q fun s => s.sqbSet q.toNat (setBit v 44 false)

/-- A request of the host to the main store (R213, R317): `acts` says what each module line gets; responses as in
`hostAnswer`. -/
def State.hostReq (s : State) (h : Nat) (kind : Nat → State → MK) (resp : Nat) (bytes : List Host.Cell) (pois : Bool) : State :=
  if s.phase ≠ .run ∨ s.mstat 2 = false ∨ s.mstat 1 = true then s
  else match s.hdmLine h with
  | none => s
  | some r =>
    let q : HReq := { h := r, kind := kind r s, todo := hostLines r, resp := resp, bytes := bytes.map (fun (i, b) => (64 * r + i, b)), pois := pois }
    let s := { s with cxl := { s.cxl with reqs := s.cxl.reqs ++ [q] } }
    s.hostNext q

/-- MetaField or MetaValue without an action of its own (R317): Cmp and event 0x0512. -/
def State.memBad (s : State) (op h : Nat) : State :=
  if s.phase ≠ .run ∨ s.mstat 2 = false ∨ s.mstat 1 = true then s
  else (s.out (.memAnswer h 0 [] false)).event { code := 0x0512, sev := 2, master := 0x400, pay := (8, op) :: hostPay (64 * h) }

def execMemrd (h : Nat) (mv : Meta) (s : State) : Res :=
  .next (match mv with
    | .noop | .i => s.hostReq h (fun _ _ => .rdU) 1 [] false
    | .s => s.hostReq h (fun _ _ => .rdS) 2 [] false
    | .a => s.hostReq h (fun _ _ => .rdX) 3 [] false)

def execMemrddata (h : Nat) (mv : Meta) (s : State) : Res :=
  .next (match mv with
    | .noop | .s => s.hostReq h (fun _ _ => .rdS) 2 [] false
    | _ => s.memBad 2 h)

def execMeminv (h : Nat) (mv : Meta) (s : State) : Res :=
  .next (match mv with
    | .a => s.hostReq h (fun _ _ => .rdX) 4 [] false
    | .i => s.hostReq h (fun _ _ => .evC) 0 [] false
    | _ => s.memBad 0 h)

def execMemclnevct (h : Nat) (s : State) : Res := .next (s.hostReq h (fun _ _ => .evC) 0 [] false)
/-- MemSpecRd does nothing (R317). -/
def execMemspecrd (_h : Nat) (s : State) : Res := .next s

/-- What a host write gets (R317): WB with the retain value of its MetaValue when the host owns every line it touches
(3 I, 1 S, 2 A), WrP otherwise. -/
def hostWriteKind (mv : Meta) (r : Nat) (s : State) : MK :=
  let own : Bool := (hostLines r).all fun l => decide ((s.dirOf l).owner = .host)
  match mv with
  | .a => if own then .wb 2 else .wrP
  | .s => if own then .wb 1 else .wrP
  | .i => if own then .wb 3 else .wrP
  | .noop => .wrP

def execMemwr (h : Nat) (mv : Meta) (data : List Byte) (pois : Bool) (s : State) : Res :=
  .next (s.hostReq h (hostWriteKind mv) 0 ((List.range 64).map fun i => (i, data.getD i 0)) pois)

def execMemwrptl (h : Nat) (mv : Meta) (data : List Byte) (mask : BitVec 64) (pois : Bool) (s : State) : Res :=
  .next (s.hostReq h (hostWriteKind mv) 0 (((List.range 64).filter fun i => mask.getLsbD i).map fun i => (i, data.getD i 0)) pois)

def execUnsupportedMemRequest (op : BitVec 8) (h : Nat) (s : State) : Res := .next (s.memBad op.toNat h)

/-- A DVSEC of the PF's configuration space (R299, R321). -/
inductive Dvsec where
  | device (cacheCapable memCapable : Bool) (hdmCount : Nat)
  | registerLocator (bar offset : Nat)
  | gpf (phase2Us : Nat)
deriving DecidableEq, Repr

/-- What a function's configuration space says of it (R299): vendor, device ID, class code (the spec gives a VF none of its own) and
DVSECs. -/
structure PciFn where
  vendor : BitVec 16
  device : BitVec 16
  cls    : Option (BitVec 24)
  dvsecs : List Dvsec
deriving DecidableEq, Repr

/-- The device ID of the PF of each part (R299). -/
def Part.deviceId : Part → BitVec 16
  | .ax => 0x4816
  | .sx => 0x4817
  | .cx => 0x4812

/-- The configuration space of function fn (R299): 0 the PF, 1 to 63 the VFs. The component registers stand at 0x10000 in BAR4
(R300); the GPF DVSEC reports a phase 2 time of 0 (R321). -/
def State.pciFn (s : State) (fn : BitVec 6) : PciFn :=
  if fn = 0 then
    { vendor := Config.vendorId, device := s.part.deviceId, cls := some 0x120000,
      dvsecs := [.device true true 1, .registerLocator 4 0x10000, .gpf 0] }
  else { vendor := Config.vendorId, device := 0x4818, cls := none, dvsecs := [] }

/-- A host snoop of the device cache (R297, R307): SnpInv drops the line, the others leave it; what is held is clean. -/
def execHostSnoop (kind : Snoop) (h : Nat) (s : State) : Res :=
  .next (match s.cxl.dcache.find? fun (a, _) => a = h with
    | none => s.out (.memAnswer h 16 [] false)
    | some (_, d) =>
      match kind with
      | .inv => ({ s with cxl := { s.cxl with dcache := s.cxl.dcache.filter fun (a, _) => decide (a ≠ h) } }).out (.memAnswer h 17 [] false)
      | .data => s.out (.memAnswer h 18 [] false)
      | .cur => s.out (.memAnswer h 19 d false))

/-- The host commits HDM decoder 0 (R316): refused when the base is misaligned, before RUN and while detached. -/
def execHdmCommit (base : Nat) (s : State) : Res :=
  let s : State := { s with cxl := { s.cxl with base := base } }
  .next (if base % 2 ^ 28 ≠ 0 ∨ s.mstat 0 = false ∨ s.mstat 1 = true ∨ s.phase ≠ .run then s.out (.value 2 0)
    else (({ s with cxl := { s.cxl with hdm := base / 2 ^ 28 } }).setMstat 3 true).out (.value 2 1))

/-- Does a write over CXL.cache that was issued by tick t still await GO: a completion, a report, a processor's store? -/
def State.goAwaited (s : State) (t : Nat) : Bool :=
  (s.rps.any fun (_, r) => r.wrs.any fun w => !w.go && decide (w.tick ≤ t)) || (s.rptW.any fun w => decide (w ≤ t)) ||
  (s.procs.any fun (_, q) => q.slots.any fun x => x.ents.any fun y => decide (y.e.space = 3 ∧ y.st = .sent ∧ y.tick ≤ t))

/-- GPF phase 1 is answered once every write already issued has its GO (R321). -/
def State.gpfTick (s : State) : State :=
  match s.cxl.gpfW with
  | some t => if s.goAwaited t then s else ({ s with cxl := { s.cxl with gpfW := none } } : State).out (.value 3 1)
  | none => s

/-- GPF phase 1 (R321): no CXL.cache write issues until the link next trains. -/
def execGpfPhase1 (s : State) : Res :=
  .next (if s.phase = .run ∧ s.mstat 2 = true then ({ s with cxl := { s.cxl with gpf := true, gpfW := some s.ticks } } : State).gpfTick else s)

/-- GPF phase 2 (R321): no action. -/
def execGpfPhase2 (s : State) : Res := .next s

/-- Hold every enabled ring pair (R322, R324, R325). -/
def State.holdRings (s : State) : State :=
  (List.range 1024).foldl (fun s q =>
    if s.rpEn q then s.modRp q fun r => { r with held := setBit r.held 0 true } else s) s

/-- The part of resume and attach that concerns the rings (R322): SQPI := SQFP, HELD and RESUMED set, RUN, RESGEN,
EVT.RESUMED, and the event vector of every function that owns such a ring. -/
def State.ringsBack (s : State) : State :=
  let on := (List.range 1024).filter fun q => s.rpEn q
  let s := on.foldl (fun s q => s.modRp q fun r =>
    { r with sqpi := r.sqfp, acc := if idxBefore r.sqfp r.acc then r.acc else r.sqfp, got := [], wrs := [], cqpiW := none, visN := 0,
             held := setBit r.held 0 true, resumed := true }) s
  let s := s.setMstat 0 true
  let g := (fld (s.rg (aCxl 8)) 31 16 + 1) % 65536
  let s := (s.sg (aCxl 8) (setFld (s.rg (aCxl 8)) 31 16 g)).cxlEvt 5
  ((List.range 64).filter fun i => on.any fun q => s.ringOwner q = some i).foldl (fun s i => s.msix i 0) s

/-- An attach (R322). -/
def State.attach (s : State) : State := (s.setMstat 1 false).ringsBack

/-- Nominal frequencies of the reference clocks in kHz, and their codes: the bits of CLK_STAT (R497, R518). -/
def refNominal : RefClk → Nat × Nat
  | .cxl => (100000, 0)
  | .mbv => (156250, 1)
  | .svc => (25000, 2)

/-- Is a reference locked (R498, R519)? Without it nothing trains. -/
def State.refOk (s : State) (r : RefClk) : Bool := (s.rg (aClk 0)).getLsbD (refNominal r).2

/-- The link trains (R298): LINK and LINKUP, events 0x0501 and 0x0502, an attach if the module was detached. -/
def execLinkTrained (width : BitVec 5) (rate : BitVec 3) (flit : BitVec 2) (s : State) : Res :=
  let ready : Bool := decide (s.phase = .run) || decide (fld (s.rg 0x10) 3 0 ≥ 3)
  .next (if !ready ∨ s.refOk .cxl = false ∨ width = 0 ∨ rate = 0 ∨ s.phase = .fatal ∨ s.phase = .flush ∨ s.phase = .flushed ∨ s.phase = .off then s
  else
    let cm : Bool := decide (8 ≤ width.toNat ∧ 5 ≤ rate.toNat)
    let degr : Bool := cm && (decide (width.toNat < 16) || decide (rate.toNat = 5))
    let v := b2n cm * 2 ^ 11 + b2n degr * 2 ^ 10 + flit.toNat * 2 ^ 8 + rate.toNat * 32 + width.toNat
    let s := (s.sg (aCxl 0x10) (BitVec.ofNat 48 v)).setMstat 2 cm
    let s := { s with cxl := { s.cxl with gpf := false, gpfW := none } }
    let s := s.event { code := 0x0501, sev := 0, master := 0x400, pay := [(5, width.toNat), (3, rate.toNat), (2, flit.toNat)] }
    let s := if degr then
        (s.cxlEvt 1).event { code := 0x0502, sev := 2, cls := 2, blk := some .cxl, master := 0x400, pay := [(5, width.toNat), (3, rate.toNat)] }
      else s
    if cm ∧ s.mstat 1 = true ∧ s.phase = .run then s.attach else s)

/-- Lines of the main store that the host holds. -/
def State.hostHeld (s : State) : List Nat := (s.dir.filter fun (_, d) => d.h || decide (d.owner = .host)).map fun (l, _) => l

/-- A managed detach goes on (R324): GO is awaited for every write already issued, then the lines of the host are taken back, and
when it holds none the module is detached. -/
def State.detachTick (s : State) : State :=
  match s.cxl.detach with
  | none => s
  | some (t, n) =>
    let ls := s.hostHeld
    if n.isNone && s.goAwaited t then s
    else
      let n := n.getD ls.length
      let s := { s with cxl := { s.cxl with detach := some (t, some n) } }
      if ls.isEmpty then
        let s := ({ s with cxl := { s.cxl with detach := none } }).setMstat 1 true
        ((s.cxlEvt 4).msix 0 0).event { code := 0x0520, sev := 1, master := 0x400, pay := [(28, n), (32, (s.ticks - t) / 25)] }
      else ls.foldl (fun s l => s.biStart l) s

/-- A write of CXL_CTL.DETACH (R324): rings are held; the rest follows (`detachTick`). -/
def State.detachGo (s : State) : State :=
  if s.mstat 1 ∨ s.cxl.detach.isSome then s
  else
    let s := s.holdRings
    { s with cxl := { s.cxl with detach := some (s.ticks, none) } }

def execDetach (a : Via) (s : State) : Res := s.onWrite a (aCxl 0) fun s => s.detachGo

/-- A write of CXL_CTL.ATTACH (R322, R327). -/
def execAttach (a : Via) (s : State) : Res :=
  s.onWrite a (aCxl 0) fun s => if s.mstat 1 ∧ s.mstat 2 then s.attach else s

/-- Link loss, or viral from the host (R325). -/
def State.removal (s : State) (viral : Bool) : State :=
  let s := if viral then s else (s.sg (aCxl 0x10) 0).setMstat 2 false
  if s.mstat 1 then s
  else
    let held := ((List.range 1024).filter fun q => s.rpEn q).length
    let s := { (s.holdRings.setMstat 1 true) with cxl := { s.cxl with detach := none } }
    let s := s.event { code := 0x0503, sev := 3, master := 0x400, pay := [(11, held), (28, s.hostHeld.length)] }
    let s := s.cxlEvt 0
    let s := s.msix 0 0
    s.bisnp.foldl (fun s b => (s.biFinish b true).event { code := 0x0521, sev := 3, cls := 3, blk := some .cxl, master := 0x400, addr := 96 * b.line, acc := 5, space := 0, pay := [(48, 96 * b.line)] }) s

/-- Does the link run now: from its training in a boot until a trip or FATAL? -/
def State.cxlLive (s : State) : Bool := match s.phase with | .run | .boot | .nores => true | _ => false

/-- The link goes away, if it was there (R325, R498, R505). -/
def State.linkLost (s : State) : State := if s.cxlLive = true ∧ fld (s.rg (aCxl 0x10)) 4 0 ≠ 0 then s.removal false else s

def execSurpriseRemoval (viral : Bool) (s : State) : Res := .next (if viral ∧ s.cxlLive = true then s.removal true else if viral then s else s.linkLost)

end Sys2Proof.Machine
end

