-- ==== Sys2Proof/Machine/Inst.lean ====
section
/-!
DEFINITION. Virtual instances (spec 16): the checks and effects of CREATE, APPLY and DESTROY (R420 to R422), PCTL (R423),
mailboxes (R424), reports to the manager (R425, R426), RESET (R427), FREEZE and THAW (R428).
-/
namespace Sys2Proof.Machine

open Sys2Proof

/-- The staged configuration of instance i (R420). -/
def State.staged (s : State) (i : Nat) : Inst :=
  let r (o : Nat) : Word := s.rgVi i o
  { procs := BitVec.ofNat 64 (fld (r 0) 31 0 + fld (r 8) 31 0 * 2 ^ 32),
    wbase := fld (r 0x10) 9 0, wcount := fld (r 0x10) 20 10,
    hen := (r 0x18).getLsbD 40, hbase := fld (r 0x18) 39 0, hlim := fld (r 0x20) 39 0,
    rfirst := fld (r 0x28) 9 0, rcount := fld (r 0x28) 20 10,
    qfirst := fld (r 0x30) 8 0, qcount := fld (r 0x30) 18 9,
    lgbase := fld (r 0x38) 13 0, lgcount := fld (r 0x38) 27 14,
    clu := (r 0x40).extractLsb' 1 8, sysr := (r 0x40).getLsbD 0,
    mbcfg := (r 0x48).extractLsb' 0 18, bootd := r 0x50, bootip := r 0x58 }

/-- Do two ranges of `n` and `m` share an element? -/
def overlaps (a n b m : Nat) : Bool := decide (a < b + m ∧ b < a + n ∧ n ≠ 0 ∧ m ≠ 0)

/-- Pages of a host-memory grant. -/
def Inst.pages (c : Inst) : Nat := if c.hen then c.hlim + 1 - c.hbase else 0

/-- Do two configurations hold a resource of R418 in common? -/
def Inst.shares (c d : Inst) : Bool :=
  decide (c.procs &&& d.procs ≠ 0) || overlaps c.wbase c.wcount d.wbase d.wcount || overlaps c.hbase c.pages d.hbase d.pages ||
  overlaps c.rfirst c.rcount d.rfirst d.rcount || overlaps c.qfirst c.qcount d.qfirst d.qcount ||
  overlaps c.lgbase c.lgcount d.lgbase d.lgcount || decide (c.clu &&& d.clu ≠ 0) || (c.sysr && d.sysr)

/-- Is a processor running, in WAIT or paused included (R35)? -/
def Proc.runs (q : Proc) : Bool := match q.run with | .running | .waiting => true | _ => false

/-- Does processor p run? -/
def State.procRuns (s : State) (p : Nat) : Bool := (s.proc (BitVec.ofNat 6 p)).runs

/-- Processor numbers of a set. -/
def procList (m : BitVec 64) : List Nat := (List.range 64).filter fun p => m.getLsbD p

/-- The checks of R421 on the staged configuration of instance i, in the order of its table: 0, or the REASON. -/
def State.instCheck (s : State) (i : Nat) (create : Bool) : Nat :=
  let c := s.staged i
  let o := s.inst i
  let old : Inst := if s.instState i = 0 then {} else o
  let changed : Bool := decide (c.wbase ≠ old.wbase ∨ c.wcount ≠ old.wcount ∨ c.hen ≠ old.hen ∨ c.hbase ≠ old.hbase ∨
    c.hlim ≠ old.hlim ∨ c.clu ≠ old.clu ∨ c.sysr ≠ old.sysr)
  let leavesR (q : Nat) : Bool := decide (old.rfirst ≤ q ∧ q < old.rfirst + old.rcount) && !decide (c.rfirst ≤ q ∧ q < c.rfirst + c.rcount)
  let leavesQ (q : Nat) : Bool := decide (old.qfirst ≤ q ∧ q < old.qfirst + old.qcount) && !decide (c.qfirst ≤ q ∧ q < c.qfirst + c.qcount)
  let staysR (q : Nat) : Bool := decide (old.rfirst ≤ q ∧ q < old.rfirst + old.rcount) && decide (c.rfirst ≤ q ∧ q < c.rfirst + c.rcount)
  let leavesG (g : Nat) : Bool := decide (old.lgbase ≤ g ∧ g < old.lgbase + old.lgcount) && !decide (c.lgbase ≤ g ∧ g < c.lgbase + c.lgcount)
  let areaLeaves (q : Nat) : Bool := (List.range (fld (s.ra q) 27 14)).any fun j => leavesG (fld (s.ra q) 13 0 + j)
  if (List.range 64).any fun j => decide (j ≠ i) && decide (s.instState j ≠ 0) && c.shares (s.inst j) then 1
  else if (procList (c.procs ^^^ old.procs)).any s.procRuns then 2
  else if !create && changed && (procList (c.procs ||| old.procs)).any s.procRuns then 2
  else if (List.range 1024).any fun q => leavesR q && s.rpEn q then 3
  else if (List.range 512).any fun q => leavesQ q && s.qEn q then 3
  else if (List.range 1024).any fun q => staysR q && areaLeaves q then 3
  else if (c.wbase + c.wcount) * 25165824 > s.part.msBytes ∨ (c.hen = true ∧ c.hlim < c.hbase) ∨ (i ≠ 0 ∧ c.rcount > 256) ∨
      c.rfirst + c.rcount > 1024 ∨ c.qfirst + c.qcount > 512 ∨ c.lgbase + c.lgcount > 10920 ∨
      (c.mbcfg.getLsbD 17 = true ∧ msixSize i ≤ fld c.mbcfg 16 6) then 4
  else if (procList c.procs).any fun p => !s.hasProc (BitVec.ofNat 6 p) || decide ((s.proc (BitVec.ofNat 6 p)).run = .dead) then 5
  else if (List.range 8).any fun k => c.clu.getLsbD k && !s.hasClu k then 5
  else if c.mbcfg.getLsbD 17 && !c.procs.getLsbD (fld c.mbcfg 5 0) then 5
  else if (if create then decide (i = 0 ∨ s.instState i ≠ 0) else decide (s.instState i ≠ 1)) then 6
  else 0

/-- What a processor keeps when its registers start afresh: its control registers, the stores on their way to memory,
the counters of its retry logic (R423). -/
def Proc.blank (q : Proc) : Proc :=
  { run := q.run, cr := q.cr, cmos := q.cmos, sn := q.sn, sb := q.sb, slots := q.slots, comb := q.comb, drops := q.drops,
    drop1 := q.drop1, dropP := q.dropP, lfsr := q.lfsr, mism := q.mism, par := q.par, subs := q.subs, pauseUs := q.pauseUs,
    cpf := q.cpf, inj := q.inj, unclosed := q.unclosed, retryOks := q.retryOks, relock := q.relock }

/-- A processor becomes reset-stopped (R421, R423, R427): its control registers return to their reset values. -/
def State.resetStop (s : State) (p : Nat) : State :=
  s.modProc (BitVec.ofNat 6 p) fun q => if q.run = .dead then q else { q.blank with run := .resetStopped, cr := [] }

/-- Set INST[i]_STAT.LOST (R419). -/
def State.viLost (s : State) (i : Nat) : State := s.sgVi i 0x88 (setBit (s.rgVi i 0x88) 16 true)

/-- Set INST[i]_STAT.STATE. -/
def State.setInstState (s : State) (i st : Nat) : State := s.sgVi i 0x88 (setFld (s.rgVi i 0x88) 1 0 st)

/-- Set or clear a bit of a set of instances. -/
def setIn (m : BitVec 64) (i : Nat) (b : Bool) : BitVec 64 := setBit m i b

/-- Is a command of instance i under way? -/
def State.instBusy (s : State) (i : Nat) : Bool := (spGet s.icmd i).isSome

/-- A command ends (R420): RESULT, REASON, a type-5 report, and event 0x0A06 when it failed. -/
def State.instEnd (s : State) (i op result reason : Nat) : State :=
  let s := { s with icmd := spDel s.icmd i }
  let s := s.sgVi i 0x88 (setFld (setFld (s.rgVi i 0x88) 11 4 result) 15 12 (if result = 4 then reason else 0))
  let s := if result = 0 then (if op = 1 ∨ op = 2 then { s with ifail := setIn s.ifail i false } else s)
    else ({ s with ifail := setIn s.ifail i true } : State).event
      { code := 0x0A06, sev := 2, master := 0x603, inst := some i, pay := [(6, i), (4, op), (8, result), (4, reason)] }
  s.report 5 i 0 0 result 0 op 0 0

/-- A write of INST[i]_CMD (R419, R420): from PF BAR0 or a processor with system-register access, and not while BUSY. -/
def State.instCmd (s : State) (a : Via) (i : BitVec 6) (f : State → State) : Res :=
  let may : Bool := match a with
    | .pf => true
    | .proc p => (match s.instOfProc p with | some j => (s.inst j).sysr | none => false)
    | .vf _ => false
  .next (if !s.viaReach a (aVi i.toNat 0x80) then s
    else if !may || s.instBusy i.toNat then s.viLost i.toNat else f s)

/-- The staged configuration comes into force (R420, R421): processors that are added become reset-stopped. -/
def State.inForce (s : State) (i : Nat) : State :=
  let c := s.staged i
  let old : BitVec 64 := if s.instState i = 0 then 0 else (s.inst i).procs
  let s := (s.setInst i c).seenFall
  (procList (c.procs &&& ~~~old)).foldl State.resetStop s

/-- Processors of a set. -/
def popProcs (m : BitVec 64) : Nat := (procList m).length

/-- CREATE (R421). -/
def State.create (s : State) (i : Nat) : State :=
  match s.instCheck i true with
  | 0 =>
    let s := (s.inForce i).setInstState i 1
    (s.event { code := 0x0A01, sev := 1, master := 0x603, inst := some i, pay := [(6, i), (4, 1), (7, popProcs (s.inst i).procs)] }).instEnd i 1 0 0
  | r => s.instEnd i 1 4 r

def execCreate (a : Via) (i : BitVec 6) (s : State) : Res := s.instCmd a i fun s => s.create i.toNat

/-- APPLY (R421). -/
def State.applyCmd (s : State) (i : Nat) : State :=
  match s.instCheck i false with
  | 0 => (s.inForce i).instEnd i 2 0 0
  | r => s.instEnd i 2 4 r

def execApply (a : Via) (i : BitVec 6) (s : State) : Res := s.instCmd a i fun s => s.applyCmd i.toNat

/-- A stop that is asked for takes effect at a boundary where the processor could take an interrupt (R423): its combining
buffer drains, its state is kept. A pause of the sparing controller ends first (R289). -/
def State.tryStop (s : State) (p : Nat) : State :=
  let p6 : BitVec 6 := BitVec.ofNat 6 p
  let q := s.proc p6
  match q.stopReq with
  | none => s
  | some r =>
    if !q.runs then s.setProc p6 { q with stopReq := none }
    else if q.paused.isSome || q.relock.isSome || !q.interruptible then s
    else match q.drainComb fun _ => true with
      | none => s
      | some q => s.setProc p6 { q with run := r, stopReq := none, bar := none }

/-- Ask a processor to stop. -/
def State.askStop (s : State) (p : Nat) (r : Run) : State :=
  (s.modProc (BitVec.ofNat 6 p) fun q => if q.runs then { q with stopReq := some r } else q).tryStop p

/-- Ring pairs of instance i. -/
def State.instRings (s : State) (i : Nat) : List Nat := (List.range 1024).filter fun q => s.ringOwner q = some i

/-- Does a ring pair belong to instance i? -/
def State.ringIn (s : State) (i q : Nat) : Bool := let c := s.inst i; decide (c.rfirst ≤ q ∧ q < c.rfirst + c.rcount)

/-- Is the queue slot of a master that instance i's work reserved (R354)? -/
def State.resvOf (s : State) (i : Nat) (r : QResv) : Bool :=
  (decide (r.master.toNat < 64) && (s.inst i).procs.getLsbD r.master.toNat) ||
  (match r.ring with | some q => s.ringIn i q.toNat | none => false)

/-- The fence (R427 step 3): parked programs of the instance end, running ones lose their Cobalt and Zinc operations and
end at their next block boundary; a parked program that it served completes with INSTANCE_RESET (R362); a range job or the
disabling of an L1 data cache that one of its processors started ends (R186). A job on the cluster's own cache acts at one moment
here and so has no line boundary to stop at. -/
def State.fenceInst (s : State) (i : Nat) : State :=
  let mine (p : Prog) : Bool := s.ringIn i p.q.toNat
  let served (p : Prog) : Bool := !mine p && (match p.toq with
    | some k => let c := s.inst i; decide (c.qfirst ≤ k.toNat ∧ k.toNat < c.qfirst + c.qcount)
    | none => false)
  let s := (List.range 16).foldl (fun s e =>
    let g := s.engine e
    let out := g.parked.filter fun p => served p && p.reply.isNone && p.rpend.isNone
    let s := out.foldl (fun (s : State) p => (s.dropOps p.q p.seq).entDone p.q.toNat p.seq 9 p.step.toNat p.ut [p.r 18, p.r 19, p.r 20, p.r 21]) s
    s.modEng e fun g =>
      { g with parked := g.parked.filter fun p => !mine p && !out.contains p, done := satAdd 48 g.done out.length,
               run := g.run.map fun p => if mine p then { p with pops := p.pops.filter fun o => !o.unit } else p }) s
  let s := { s with cobs := s.cobs.filter fun c => !s.ringIn i c.q.toNat, zns := s.zns.filter fun z => !s.ringIn i z.q.toNat }
  let its (j : Job) : Bool := j.byProc && decide (j.master.toNat < 64) && (s.inst i).procs.getLsbD j.master.toNat &&
    (match j.k with | .range _ _ _ | .l1 _ => true | _ => false)
  (List.range 8).foldl (fun s k =>
    let s := s.modClu k fun c => { c with ctlq := c.ctlq.filter fun j => !its j }
    match (s.clu k).job with
    | some j => if its j then s.jobEnd k j 9 else s
    | none => s) s

/-- PROG and TAG of an entry: of its descriptor, or of the completion that stands in its place (R337, R341). -/
def LEnt.prog (e : LEnt) : Nat := if e.desc.isEmpty then descB e.comp 2 else descProg e.desc
def LEnt.tag (e : LEnt) : Nat := if e.desc.isEmpty then descTag e.comp else descTag e.desc

/-- The ledger's part of a reset (R427 step 4): ACCEPTED and STARTED entries become ABANDONED, DONE and POSTED ones
RETIRED, each with its report; then event 0x0740 and the type-3 report. -/
def State.ledgerReset (s : State) (i : Nat) : State × Nat × Nat :=
  let (s, na, nr) := (s.instRings i).foldl (fun (acc : State × Nat × Nat) q =>
    let (s, na, nr) := acc
    let r := s.rp q
    let (s, na, nr) := (s.entsOf q).foldl (fun (acc : State × Nat × Nat) (seq, e) =>
      let (s, na, nr) := acc
      if e.st = .accepted ∨ e.st = .started then
        let s := s.entWrite q seq { e with st := .abandoned, timer := false }
        let s := if s.abt = some (q, seq) then s.abortEnd 2 else s
        (s.report 1 i q seq 0 (2 * b2n e.idem) 0 e.prog e.tag, na + 1, nr)
      else if r.open seq e then
        (s.report 2 i q seq (descB e.comp 0) (b2n (r.posted seq e) + 2 * b2n e.idem) 0 e.prog e.tag, na, nr + 1)
      else acc) (s, na, nr)
    let s := s.modRp q fun r => { r with cqpi := r.nidx, cqci := r.nidx, wrs := [], cqpiW := none, visN := 0, got := [] }
    (s.ringWrite q, na, nr)) (s, 0, 0)
  let s := s.event { code := 0x0740, sev := 2, cls := 4, blk := some .elc, master := 0x702, inst := some i, claimed := true,
                     pay := [(6, i), (28, na)] }
  (s.report 3 i 0 0 0 0 na 0 0, na, nr)

/-- Clear both mailboxes of instance i (R427 step 5). -/
def State.clearMail (s : State) (i : Nat) : State :=
  let s := (List.range 11).foldl (fun (s : State) k => (s.sgVi i (0x100 + 8 * k) 0).sgVi i (0x180 + 8 * k) 0) s
  (s.sgVi i 0x1E8 0).seenFall

/-- Zero the key slots of instance i (R401, R427). -/
def State.zeroKeys (s : State) (i : Nat) : State :=
  (s.kslots.filter fun (_, (k : KSlot)) => decide (k.inst.toNat = i)).foldl (fun s (n, _) => s.kzero n) s

/-- Disable the queues and ring pairs of instance i. -/
def State.closeInst (s : State) (i : Nat) : State :=
  let c := s.inst i
  let s := (List.range c.qcount).foldl (fun (s : State) j =>
    if s.qEn (c.qfirst + j) then s.qCfgSet (c.qfirst + j) (setBit (s.qCfg (c.qfirst + j)) 5 false) else s) s
  (s.instRings i).foldl (fun (s : State) q =>
    let a := aCxl (0x10000 + 16 * q)
    if s.rpEn q then (s.sg a (setBit (s.rg a) 44 false)).ringWrite q else s) s

/-- Steps 3 to 5 of R427; containment of the instance ends too (R482). -/
def State.resetFinish (s : State) (i : Nat) : State :=
  let s := s.fenceInst i
  let bad := s.resvOf i
  let (s, na, nr) := s.ledgerReset i
  let s := ((s.badSlots bad).closeInst i)
  let s := (s.zeroKeys i).clearMail i
  let s := (procList (s.inst i).procs).foldl State.resetStop s
  let s := (s.instRings i).foldl (fun (s : State) q => s.modRp q fun r => { r with held := 0 }) s
  let s := { s with isaved := setIn s.isaved i false, irest := setIn s.irest i false, icont := setIn s.icont i false }
  (s.setInstState i 1).event { code := 0x0A03, sev := 2, cls := 4, master := 0x603, inst := some i, pay := [(6, i), (16, na), (16, nr)] }

/-- Have all processors of instance i stopped? -/
def State.allStopped (s : State) (i : Nat) : Bool := (procList (s.inst i).procs).all fun p => !s.procRuns p

/-- The end of a DESTROY (R422): key slots, the Zinc share, the timer limit and every resource are given up. -/
def State.destroyFinish (s : State) (i : Nat) : State :=
  let s := s.zeroKeys i
  let s := (s.sg (aZn (0x200 + 8 * i)) 4 4).sg (aElc (0x3000 + 8 * i)) 4096 4096
  let rings := s.instRings i
  let s := (s.closeInst i).setInstState i 0
  let s := rings.foldl (fun (s : State) q => s.modRp q fun r => { r with held := 0 }) s
  let s := { (s.setInst i {}).seenFall with isaved := setIn s.isaved i false, irest := setIn s.irest i false, icont := setIn s.icont i false }
  (s.event { code := 0x0A02, sev := 1, master := 0x603, inst := some i, pay := [(6, i)] }).instEnd i 3 0 0

/-- RESET, or the reset of a DESTROY, goes on once every processor has stopped (R427); it is BUSY until then. -/
def State.resetTry (s : State) (i op : Nat) : State :=
  if s.allStopped i then
    let s := s.resetFinish i
    if op = 3 then s.destroyFinish i else s.instEnd i 4 0 0
  else { s with icmd := spIns s.icmd i op }

/-- Steps 1 and 2 of R427: fetching stops, doorbells are discarded, running processors are asked to stop. An instance
that is FROZEN goes on with step 3 (R432). -/
def State.resetBegin (s : State) (i op : Nat) : State :=
  if s.instState i = 2 then s.resetTry i op
  else
    let s := (s.instRings i).foldl (fun (s : State) q => s.modRp q fun r => { r with held := setBit r.held 1 true, got := [] }) s
    let s := (procList (s.inst i).procs).foldl (fun (s : State) p => s.askStop p .stopped) s
    s.resetTry i op

/-- RESET (R427). -/
def State.instReset (s : State) (i : Nat) : State :=
  if s.instState i = 0 then s.instEnd i 4 4 6 else s.resetBegin i 4

def execReset (a : Via) (i : BitVec 6) (s : State) : Res := s.instCmd a i fun s => s.instReset i.toNat

/-- DESTROY (R422): without a reset when the instance is FROZEN and was saved. -/
def State.destroy (s : State) (i : Nat) : State :=
  if i = 0 ∨ s.instState i = 0 then s.instEnd i 3 4 6
  else if s.instState i = 2 ∧ s.isaved.getLsbD i = true then
    let s := { s with led := s.led.filter fun (k, _) => !s.ringIn i (k / 2 ^ 48) }
    s.destroyFinish i
  else s.resetBegin i 3

def execDestroy (a : Via) (i : BitVec 6) (s : State) : Res := s.instCmd a i fun s => s.destroy i.toNat

/-- Does a program of the instance's descriptors run or wait parked? -/
def State.progsLeft (s : State) (i : Nat) : Bool :=
  (List.range 16).any fun e =>
    (match (s.engine e).run with | some p => s.ringIn i p.q.toNat | none => false) || (s.engine e).parked.any fun p => s.ringIn i p.q.toNat

/-- The last step of FREEZE, once the processors have stopped (R428). -/
def State.freezeTry (s : State) (i : Nat) : State :=
  if s.allStopped i then
    let s := { s with frzTb := spIns s.frzTb i s.tb, isaved := setIn s.isaved i false }
    ((s.setInstState i 2).event { code := 0x0A04, sev := 1, master := 0x603, inst := some i, pay := [(6, i), (4, 5)] }).instEnd i 5 0 0
  else s

/-- FREEZE (R428 step 1): fetching, dispatch and posting stop with HELD set. -/
def State.freeze (s : State) (i : Nat) : State :=
  if i = 0 ∨ s.instState i ≠ 1 then s.instEnd i 5 4 6
  else
    let s := (s.instRings i).foldl (fun (s : State) q => s.modRp q fun r => { r with held := setBit r.held 1 true }) s
    { s with icmd := spIns s.icmd i 5 }

def execFreeze (a : Via) (i : BitVec 6) (s : State) : Res := s.instCmd a i fun s => s.freeze i.toNat

/-- No program of the instance is left (R428 steps 2 and 3): the processors that run are remembered and stop. -/
def State.freezeDrained (s : State) (i : Nat) : State :=
  if spGet s.icmd i = some 5 ∧ s.progsLeft i = false ∧ s.phase = .run then
    let s := { s with icmd := spIns s.icmd i 0x15 }
    let s := (procList (s.inst i).procs).foldl (fun (s : State) p =>
      (s.modProc (BitVec.ofNat 6 p) fun q => { q with frz := q.runs }).askStop p .stopped) s
    s.freezeTry i
  else s

def execFreezeDrainComplete (i : BitVec 6) (s : State) : Res := .next (s.freezeDrained i.toNat)

/-- THAW (R428): what ran at the freeze goes on; after a RESTORE the ring pairs stay HELD and RESUMED (R322). -/
def State.thaw (s : State) (i : Nat) : State :=
  if s.instState i ≠ 2 then s.instEnd i 6 4 6
  else
    let rest := s.irest.getLsbD i
    let s := (procList (s.inst i).procs).foldl (fun (s : State) p =>
      s.modProc (BitVec.ofNat 6 p) fun q => { q with run := if q.frz && decide (q.run = .stopped) then .running else q.run, frz := false }) s
    let s := (s.instRings i).foldl (fun (s : State) q => s.modRp q fun r =>
      { r with held := setBit (if rest then setBit r.held 0 true else r.held) 1 false, resumed := r.resumed || rest, ftick := s.ticks }) s
    let s := { s with isaved := setIn s.isaved i false, irest := setIn s.irest i false }
    ((s.setInstState i 1).event { code := 0x0A04, sev := 1, master := 0x603, inst := some i, pay := [(6, i), (4, 6)] }).instEnd i 6 0 0

def execThaw (a : Via) (i : BitVec 6) (s : State) : Res := s.instCmd a i fun s => s.thaw i.toNat

/-- A boot start waits until its descriptor can be read, then starts the processor or fails (R423). -/
def State.bootTry (s : State) (p : Nat) : State :=
  let p6 : BitVec 6 := BitVec.ofNat 6 p
  let q := s.proc p6
  if !q.bootReq then s
  else
    let i := (s.instOfProc p6).getD 0
    let c := s.inst i
    let a := c.bootd.toNat
    let fail (s : State) : State :=
      (s.modProc p6 fun q => { q with bootReq := false }).sgVi i 0x88 (setFld (setFld (s.rgVi i 0x88) 11 4 4) 15 12 4)
    if q.run ≠ .resetStopped then s.setProc p6 { q with bootReq := false }
    else if a % 24 ≠ 0 ∨ s.inWindow p6 a 24 = false then fail s
    else match s.uncRead a 24 0x603 with
    | (none, s) => s
    | (some (bs, pz), s) =>
      let sg : Seg := { w0 := lineWord bs 0, w1 := lineWord bs 1, w2 := lineWord bs 2, w3 := lineWord bs 3 }
      if pz || !sg.present || decide (sg.space ≠ 0) || !sg.w2.getLsbD 19 || (descCheck sg.w0 sg.w1 sg.w2).isSome then fail s
      else s.setProc p6 (({ q.blank with run := .running, ip := c.bootip } : Proc).setSeg 15 sg)

/-- PCTL START (R423): nothing for a processor that runs. -/
def State.startProc (s : State) (p : Nat) : State :=
  let p6 : BitVec 6 := BitVec.ofNat 6 p
  let q := s.proc p6
  match q.run with
  | .resetStopped => (s.setProc p6 { q with bootReq := true }).bootTry p
  | .stopped | .halted => s.setProc p6 { q with run := .running }
  | _ => s

/-- A write of INST[i]_PCTL (R419, R423): ignored with LOST while BUSY or FROZEN and for another instance's processor. -/
def State.pctl (s : State) (a : Via) (i p : BitVec 6) (f : State → State) : Res :=
  let i := i.toNat
  let may : Bool := match a with
    | .pf => true
    | .proc x => (match s.instOfProc x with | some j => (s.inst j).sysr | none => false)
    | .vf _ => false
  .next (if !s.viaReach a (aVi i 0x90) then s
    else if !may || s.instBusy i || decide (s.instState i ≠ 1) || !(s.inst i).procs.getLsbD p.toNat then s.viLost i else f s)

def execStart (a : Via) (i p : BitVec 6) (s : State) : Res := s.pctl a i p fun s => s.startProc p.toNat
def execStop (a : Via) (i p : BitVec 6) (s : State) : Res := s.pctl a i p fun s => s.askStop p.toNat .stopped

/-- Who writes a mailbox register (R419 note b): the host through PF or VF i BAR0, or processors of instance i. -/
def State.mailMay (s : State) (a : Via) (i : Nat) (host : Bool) : Bool :=
  match a with
  | .pf => host
  | .vf j => host && decide (j.toNat = i)
  | .proc p => !host && (s.inst i).procs.getLsbD p.toNat && decide (s.instState i ≠ 0)

/-- An ignored mailbox write sets LOST, and ILOST or OLOST (R419 note b). -/
def State.mailLost (s : State) (i : Nat) (inb : Bool) : State :=
  (s.viLost i).sgVi i 0x1E8 (setBit (s.rgVi i 0x1E8) (if inb then 2 else 3) true)

/-- Act on a mailbox register at offset o of instance i's block. -/
def State.mail (s : State) (a : Via) (i : BitVec 6) (o : Nat) (host inb full : Bool) (f : State → State) : Res :=
  .next (if !s.viaReach a (aVi i.toNat o) then s
    else if !s.mailMay a i.toNat host || (full && (s.rgVi i.toNat 0x1E8).getLsbD (if inb then 0 else 1)) then s.mailLost i.toNat inb
    else f s)

/-- Set IFULL (bit 0) or OFULL (bit 1). -/
def State.mailFull (s : State) (i b : Nat) (v : Bool) : State := (s.sgVi i 0x1E8 (setBit (s.rgVi i 0x1E8) b v)).seenFall

/-- MBODB sets OFULL and signals VEC while EN is 1 (R424). -/
def State.mailOut (s : State) (i : Nat) : State :=
  let s := s.mailFull i 1 true
  let c := (s.inst i).mbcfg
  if c.getLsbD 17 then s.msix i (fld c 16 6) else s

def execMbidb (a : Via) (i : BitVec 6) (s : State) : Res := s.mail a i 0x158 true true true fun s => s.mailFull i.toNat 0 true
def execMbiack (a : Via) (i : BitVec 6) (s : State) : Res := s.mail a i 0x160 false true false fun s => s.mailFull i.toNat 0 false
def execMbodb (a : Via) (i : BitVec 6) (s : State) : Res := s.mail a i 0x1D8 false false true fun s => s.mailOut i.toNat
def execMboack (a : Via) (i : BitVec 6) (s : State) : Res := s.mail a i 0x1E0 true false false fun s => s.mailFull i.toNat 1 false

/-- INSTM_RPTB, RPTPI, RPTCI (R425). -/
def State.rptb (s : State) : Word := s.rg (aInstm 0)
def State.rptPi (s : State) : Nat := (s.rg (aInstm 8)).toNat
def State.rptCi (s : State) : Nat := (s.rg (aInstm 0x10)).toNat

/-- The slot address of a report index. -/
def State.rptAddr (s : State) (pi : Nat) : Nat := fld s.rptb 39 0 * 4096 + 64 * (pi % ringSize s.rptb)

/-- May the next report be written now (R308, R425)? -/
def State.mayReport (s : State) : Bool :=
  decide (s.phase = .run) && s.rptb.getLsbD 44 && s.rptW.isNone && !(s.rg (aInstm 0x20)).getLsbD 32 && s.mstat 2 && !s.mstat 1 && !s.cxl.gpf &&
  decide ((s.rptPi + 2 ^ 32 - s.rptCi) % 2 ^ 32 < ringSize s.rptb)

/-- The oldest report is written to its slot with its phase bit (R308, R425). -/
def State.rptPost (s : State) : State :=
  match s.repts with
  | [] => s
  | r :: _ =>
    if s.mayReport then
      ({ s with rptW := some s.ticks }).out (.hostWrite (s.rptAddr s.rptPi) (phased r.bytes (BitVec.ofNat 32 s.rptPi) (ringSize s.rptb)))
    else s

def execReportPost (s : State) : Res := .next s.rptPost

/-- GO for the report write (R308, R425): RPTPI moves on and the PF vector of RPTIRQ is signalled. -/
def State.rptGo (s : State) : State :=
  if s.rptW.isNone then s
  else
    let s := { s with rptW := none, repts := s.repts.drop 1, rptLate := false }
    let s := s.sg (aInstm 8) (BitVec.ofNat 48 ((s.rptPi + 1) % 2 ^ 32))
    let v := s.rg (aInstm 0x18)
    if v.getLsbD 11 && decide (fld v 10 0 ≠ 0) then s.msix 0 (fld v 10 0) else s

def execReportGo (s : State) : Res := .next (if s.phase = .run then s.rptGo else s)

/-- No GO for 2 µs (R425): the report is kept, NOGO sets, PF vector 0, event 0x0A08. -/
def State.rptNoGo (s : State) : State :=
  match s.rptW with
  | none => s
  | some t =>
    if t + 50 ≤ s.ticks then
      let a := s.rptAddr s.rptPi
      ((({ s with rptW := none }).sg (aInstm 0x20) (setBit (s.rg (aInstm 0x20)) 32 true)).msix 0 0).event
        { code := 0x0A08, sev := 2, master := 0x603, pay := (32, s.rptPi) :: hostPay a }
    else s

def execReportGoTimeout (s : State) : Res := .next (if s.phase = .run then s.rptNoGo else s)

/-- Reports that have waited over 1 s (R433): event 0x0A07, once until one is posted. -/
def execReportsWaitingOver1s (s : State) : Res :=
  .next (match s.repts with
    | [] => s
    | r :: _ =>
      if r.tick + 25000000 < s.ticks ∧ s.rptLate = false ∧ s.phase = .run then
        let e : Ev := { code := 0x0A07, sev := 2, master := 0x603, pay := [(32, s.repts.length), (1, b2n ((s.rg (aInstm 0x20)).getLsbD 32))] }
        ({ s with rptLate := true }).event e
      else s)

/-- A write of INSTM_RPTCI (R310, R425): accepted, it clears NOGO. -/
def State.rptciSet (s : State) (v : Word) : State :=
  let x := fld v 31 0
  if (x + 2 ^ 32 - s.rptCi) % 2 ^ 32 ≤ (s.rptPi + 2 ^ 32 - s.rptCi) % 2 ^ 32 then
    (s.sg (aInstm 0x10) (BitVec.ofNat 48 x)).sg (aInstm 0x20) (setBit (s.rg (aInstm 0x20)) 32 false)
  else s

def execRptci (a : Via) (v : BitVec 48) (s : State) : Res := s.onWrite a (aInstm 0x10) fun s => s.rptciSet v

/-- A write of INSTM_RPTB (R304 notes a and b, R425). -/
def State.rptbSet (s : State) (v : Word) : State :=
  let old := s.rptb
  if old.getLsbD 44 then s.sg (aInstm 0) (setBit old 44 (v.getLsbD 44))
  else
    let n := setFld old 39 0 (fld v 39 0)
    let n := if fld v 43 40 ≤ 10 then setFld n 43 40 (fld v 43 40) else n
    let s := s.sg (aInstm 0) (setBit n 44 (v.getLsbD 44))
    if v.getLsbD 44 then { ((s.sg (aInstm 8) 0).sg (aInstm 0x10) 0) with rptW := none } else s

/-- A function-level reset of VF i resets the instance (R505). -/
def execFunctionLevelReset (i : BitVec 6) (s : State) : Res :=
  .next (if i ≠ 0 ∧ s.phase = .run ∧ s.instState i.toNat ≠ 0 ∧ s.instBusy i.toNat = false then s.instReset i.toNat else s)

end Sys2Proof.Machine
end

