-- ==== Sys2Proof/Machine/InstImage.lean ====
section
/-!
DEFINITION. The instance image (spec 16): SAVE (R429, R430) and RESTORE (R431).
-/
namespace Sys2Proof.Machine

open Sys2Proof

/-- Bytes padded with zeros to whole lines. -/
def padLines (bs : List Byte) : List Byte := bs ++ List.replicate ((96 - bs.length % 96) % 96) 0

/-- Words as bytes. -/
def wordsLe (ws : List Word) : List Byte := (ws.map wordLe).flatten

/-- A section: its header line and its body (R429). -/
def section_ (n count : Nat) (body : List Byte) : List Byte :=
  padLines (natLe 6 (n * 2 ^ 40 + count)) ++ (if count = 0 then [] else padLines body)

/-- A processor's state code in an image (R430): what ran at the freeze counts as running. -/
def Proc.imgState (q : Proc) : Nat :=
  match q.run with
  | .resetStopped => 0
  | .halted => 3
  | _ => if q.frz || q.runs then 1 else 2

/-- A processor record (R430). -/
def State.procRec (s : State) (p : Nat) : List Byte :=
  let p6 : BitVec 6 := BitVec.ofNat 6 p
  let q := s.proc p6
  let segs := (List.range 16).map fun n =>
    let d := q.seg n
    wordsLe [d.w0, d.w1, d.w2, d.w3, BitVec.ofNat 48 (b2n d.present * 2 ^ 24 + d.index.toNat)]
  wordsLe ((List.range 32).map fun n => q.gR (BitVec.ofNat 5 n)) ++
  ((List.range 32).map fun n => natLe 8 (q.fR (BitVec.ofNat 5 n)).toNat).flatten ++
  wordsLe [q.ip, q.psw, q.fpsw] ++ (segs.map fun b => b.take 30).flatten ++
  wordsLe ((List.range 128).map fun c => (s.crRead p6 c).1) ++ natLe 6 (p * 4 + q.imgState) ++ List.replicate 8 0

/-- A queue slot record (R430). -/
def State.slotRec (s : State) (held after : Bool) (x : QItem) : Word :=
  BitVec.ofNat 48 (x.slot + x.prio.toNat * 2 ^ 16 + x.lenm1.toNat * 2 ^ 19 + b2n held * 2 ^ 23 + b2n after * 2 ^ 24 + b2n x.urg * 2 ^ 25 +
    s.ageUs x.tick * 2 ^ 26)

/-- Items in commit order. -/
def byCommit (l : List QItem) : List QItem := l.foldl (fun acc x => insItem x acc) []

/-- A queue's part of section 5 (R429, R430). -/
def State.queueRec (s : State) (j : Nat) : List Byte :=
  let k := s.queue j
  let hs := k.held.zipIdx.map fun (x, n) => s.slotRec true (decide (k.mark ≤ n)) x
  let rs := hs ++ (byCommit k.items).map (s.slotRec false false)
  padLines (wordsLe [s.rg (aQ j 0), s.qCfg j, BitVec.ofNat 48 rs.length]) ++ padLines (wordsLe rs)

/-- The words of section 7 (R429). -/
def State.instWords (s : State) (i : Nat) : List Word :=
  let c := s.inst i
  [BitVec.ofNat 48 (c.wbase + c.wcount * 1024), BitVec.ofNat 48 (c.hbase + b2n c.hen * 2 ^ 40), BitVec.ofNat 48 c.hlim,
   BitVec.ofNat 48 (c.rfirst + c.rcount * 1024), BitVec.ofNat 48 (c.qfirst + c.qcount * 512),
   BitVec.ofNat 48 (c.lgbase + c.lgcount * 16384), BitVec.ofNat 48 (b2n c.sysr + c.clu.toNat * 2), c.mbcfg.zeroExtend 48,
   s.rg (aZn (0x200 + 8 * i)) 4, s.rg (aElc (0x3000 + 8 * i)) 4096]

/-- Unretired entries of instance i, in ascending ring pair and sequence number. -/
def State.instEnts (s : State) (i : Nat) : List (Nat × Nat × LEnt) :=
  ((s.instRings i).map fun q => ((s.entsOf q).filter fun (n, e) => (s.rp q).open n e).map fun (n, e) => (q, n, e)).flatten

/-- The lines of an instance's window. -/
def State.winLines (s : State) (i : Nat) : List Nat :=
  let c := s.inst i
  (List.range (c.wcount * 262144)).map (c.wbase * 262144 + ·)

/-- The window's lines with their poison, once an uncached agent, Brass, can read them all (R429). -/
def State.winRead (s : State) (i : Nat) : Option (List (List Byte × Bool)) × State :=
  let me : Agent := .unc 0x603
  let ls := s.winLines i
  if ls.all fun l => s.lineHere l me then
    let (d, s) := ls.foldl (fun (d, s) l => match State.lineRead s l me with
      | (some x, s) => (d ++ [x], s)
      | (none, s) => (d, s)) (([] : List (List Byte × Bool)), s)
    (some d, s)
  else (none, ls.foldl (fun s l => s.lineAsk l me) s)

/-- The instance image (R429), with the window's lines as they were read. -/
def State.instImage (s : State) (i : Nat) (win : List (List Byte × Bool)) : List Byte :=
  let c := s.inst i
  let ps := procList c.procs
  let es := s.instEnts i
  let poisoned := ((s.winLines i).zip win).filterMap fun (l, _, z) => if z then some l else none
  let mail := wordsLe ((List.range 11).map (fun k => s.rgVi i (0x100 + 8 * k)) ++ (List.range 11).map (fun k => s.rgVi i (0x180 + 8 * k)) ++ [s.rgVi i 0x1E8])
  let keys := s.kslots.filter fun (_, (k : KSlot)) => decide (k.inst.toNat = i)
  let body :=
    section_ 1 ps.length (ps.map s.procRec).flatten ++ section_ 2 23 mail ++
    section_ 3 c.rcount ((s.instRings i).map fun q => s.ringRec q (s.ra q)).flatten ++
    section_ 4 es.length (es.map fun (q, n, e) => entBytes q n e).flatten ++
    section_ 5 c.qcount ((List.range c.qcount).map fun j => s.queueRec (c.qfirst + j)).flatten ++
    section_ 6 keys.length (wordsLe (keys.map fun (n, (k : KSlot)) => BitVec.ofNat 48 (k.pre.toNat * 2 ^ 13 + b2n k.big * 4096 + n))) ++
    section_ 7 10 (wordsLe (s.instWords i)) ++
    section_ 8 win.length (win.map fun (d, z) => if z then List.replicate 96 0 else d).flatten ++
    section_ 9 poisoned.length (poisoned.map fun l => natLe 4 l).flatten
  let hdr := wordsLe [BitVec.ofNat 48 (3 * 2 ^ 32 + 0x494E5354), BitVec.ofNat 48 (i * 2 ^ 14 + s.node.toNat), BitVec.ofNat 48 (body.length / 96),
    (crc32c body).zeroExtend 48, spGetD 0 s.frzTb i, BitVec.ofNat 48 (c.qcount * 2 ^ 27 + c.rcount * 2 ^ 16 + ps.length),
    BitVec.ofNat 48 (c.wbase + c.wcount * 1024), BitVec.ofNat 48 es.length]
  padLines hdr ++ body

/-- The image address of IMGLO and IMGHI (R419): KIND, node, address. -/
def State.imgAddr (s : State) (i : Nat) : Nat × BitVec 14 × Nat :=
  let lo := (s.rgVi i 0xA8).toNat
  let hi := s.rgVi i 0xB0
  (fld hi 1 0, hi.extractLsb' 6 14, if fld hi 1 0 = 2 then lo + fld hi 5 2 * 2 ^ 48 else lo)

/-- SAVE ends (R429, R433): event 0x0A05; a successful one is remembered. -/
def State.saveEnd (s : State) (i len result : Nat) : State :=
  let s := if result = 0 then { s with isaved := setIn s.isaved i true } else s
  (s.event { code := 0x0A05, sev := 1, master := 0x603, inst := some i, pay := [(6, i), (48, len), (8, result)] }).instEnd i 7 result 0

/-- SAVE goes on (R429): once its window is read the image leaves, and what the target answered ends it. -/
def State.saveTry (s : State) (i st : Nat) : State :=
  let (k, n, a) := s.imgAddr i
  let top := if k = 2 then 2 ^ 52 else 2 ^ 48
  match s.winRead i with
  | (none, s) => { s with icmd := spIns s.icmd i (7 + 32 * st) }
  | (some win, s) =>
    let img := s.instImage i win
    if top < a + img.length then s.saveEnd i 0 7
    else if st ≠ 0 then s.saveEnd i 0 st
    else ((s.out (.image k n a img)).sgVi i 0xB8 (BitVec.ofNat 48 img.length)).saveEnd i img.length 0

/-- SAVE (R429): to host memory or a remote main store; `st` is what the target answered. -/
def State.save (s : State) (i st : Nat) : State :=
  if i = 0 ∨ s.instState i ≠ 2 then s.instEnd i 7 4 6
  else
    let k := (s.imgAddr i).1
    if k = 2 ∨ k = 3 then s.saveTry i st else s.saveEnd i 0 7

def execSave (a : Via) (i : BitVec 6) (st : BitVec 8) (s : State) : Res := s.instCmd a i fun s => s.save i.toNat st.toNat

/-- Bytes at an offset. -/
def cut (bs : List Byte) (o n : Nat) : List Byte := (bs.drop o).take n

/-- The lines that a queue's part of section 5 takes: one, and its slot records. -/
def queueLines (bs : List Byte) : Nat → Nat → Nat
  | 0, o => o
  | n + 1, o => queueLines bs n (o + 96 + (6 * (lineWord (cut bs o 96) 2).toNat + 95) / 96 * 96)

/-- The sections of an image body (R429): number, count, body; none when malformed. -/
def sections (bs : List Byte) : Nat → Nat → Option (List (Nat × Nat × List Byte))
  | 0, _ => none
  | f + 1, o =>
    if bs.length ≤ o then some []
    else
      let w := lineWord (cut bs o 96) 0
      let n := fld w 47 40
      let c := fld w 31 0
      let ls (x : Nat) : Nat := (x + 95) / 96 * 96
      let len := if c = 0 then 0 else match n with
        | 1 => 1728 * c
        | 2 | 6 | 7 => ls (6 * c)
        | 3 | 4 | 8 => 96 * c
        | 5 => queueLines bs c (o + 96) - (o + 96)
        | _ => ls (4 * c)
      if n = 0 ∨ n > 9 ∨ bs.length < o + 96 + len then none
      else (sections bs f (o + 96 + len)).map fun r => (n, c, cut bs (o + 96) len) :: r

/-- A section of a list: its count and body. -/
def secOf (l : List (Nat × Nat × List Byte)) (n : Nat) : Nat × List Byte :=
  match l.find? fun x => x.1 = n with
  | some (_, c, b) => (c, b)
  | none => (0, [])

/-- Word w of bytes. -/
def bWord (bs : List Byte) (w : Nat) : Word := leWord (cut bs (6 * w) 6)

/-- A control register takes an image's value in the bits that can be written (R431). -/
def Proc.crLoad (q : Proc) (c : Nat) (v : Word) : Proc :=
  match crReg c with
  | some d => if d.flds.isEmpty then (if c = 96 then q.crSet 96 (v &&& 0xF) else q)
      else q.crSet c (d.flds.foldl (fun w f => setFld w f.hi f.lo (fld v f.hi f.lo)) (q.crGet c))
  | none => q

/-- Processor p takes a record (R430, R431); `dt` moves its timer. -/
def State.procLoad (s : State) (p : Nat) (rec : List Byte) (dt : Word) : State :=
  let st := fld (leWord (cut rec 1714 6)) 1 0
  s.modProc (BitVec.ofNat 6 p) fun q =>
    let q : Proc := q.blank
    let q : Proc := { q with cr := [], run := if st = 0 then Run.resetStopped else if st = 3 then Run.halted else Run.stopped, frz := decide (st = 1) }
    let q := (List.range 32).foldl (fun (q : Proc) n => if n = 0 then q else { q with g := spPut 0 q.g n (bWord rec n) }) q
    let q := (List.range 32).foldl (fun (q : Proc) n => { q with f := spPut 0 q.f n (BitVec.ofNat 64 (leNat (cut rec (192 + 8 * n) 8))) }) q
    let w (o : Nat) : Word := leWord (cut rec o 6)
    let q : Proc := { q with ip := w 448, psw := w 454 &&& 0x7F, fpsw := w 460 &&& 0x3FFFF }
    let q := (List.range 16).foldl (fun (q : Proc) n =>
      let o := 466 + 30 * n
      let d : Seg := { w0 := w o, w1 := w (o + 6), w2 := setBit (w (o + 12)) 21 ((w (o + 24)).getLsbD 24), w3 := w (o + 18), index := (w (o + 24)).extractLsb' 0 24 }
      q.setSeg n d) q
    let q := (List.range 128).foldl (fun (q : Proc) c => q.crLoad c (w (946 + 6 * c))) q
    q.crSet 40 (q.crGet 40 + dt)

/-- A ring pair takes a ring record (R342, R431): enabled and HELD, with its ring area moved into the local partition. -/
def State.ringLoad (s : State) (q : Nat) (rec : List Byte) (lgOld lgNew : Nat) : State :=
  let w (o : Nat) : Word := leWord (cut rec o 6)
  let n4 (o : Nat) : BitVec 32 := BitVec.ofNat 32 (leNat (cut rec o 4))
  let next := (w 26).toNat
  let enS := (w 42).toNat
  let sqfp := n4 32 + BitVec.ofNat 32 (next - enS)
  let ra := w 36
  let s := (s.sg (aCxl (0x10000 + 16 * q)) (setBit (w 0 &&& 0x1FFFFFFFFFFF) 44 true)).sg (aCxl (0x10008 + 16 * q)) (w 6 &&& 0xFFFFFFFFFFF)
  let s := s.sg (aElc (0x1000 + 8 * q)) (setFld ra 13 0 (fld ra 13 0 - lgOld + lgNew))
  let r : RP := { sqpi := sqfp, sqfp := sqfp, acc := sqfp, cqpi := n4 18, cqci := n4 22, nidx := n4 18, irq := w 12, held := 2,
                  nextSeq := next, enSeq := enS, sqfpEn := n4 32 }
  (s.modRp q fun _ => r).ringWrite q

/-- An entry of an image (R341, R431): it belongs to instance i now; an ACCEPTED one takes a new timer at dispatch. -/
def State.entLoad (s : State) (i : Nat) (rec : List Byte) : State :=
  let w0 := leWord (cut rec 0 6)
  let q := fld w0 37 28
  let seq := (leWord (cut rec 6 6)).toNat
  let n4 (o : Nat) : BitVec 32 := BitVec.ofNat 32 (leNat (cut rec o 4))
  let body := cut rec 32 64
  let done : Bool := decide (fld w0 47 46 = 2)
  let e : LEnt := { st := if done then .done else .accepted, idem := w0.getLsbD 45, dlm := w0.getLsbD 44, inst := BitVec.ofNat 6 i,
                    sidx := n4 12, cidx := n4 16, tacc := leWord (cut rec 20 6), desc := if done then [] else body,
                    comp := if done then body else [], addr := s.slotAddr q seq, ord := s.accs, redo := !done }
  let s := { s with accs := s.accs + 1 }
  let s := if done then s.modRp q fun r => { r with nidx := if idxBefore r.nidx (n4 16 + 1) then n4 16 + 1 else r.nidx } else s
  s.entWrite q seq e

/-- The items of a queue from its slot records (R430, R431): held ones first, in read order, then in commit order. -/
def State.itemsLoad (s : State) (j : Nat) : List Word → State
  | [] => s
  | v :: vs =>
    let x : QItem := { slot := fld v 15 0, prio := v.extractLsb' 16 3, lenm1 := v.extractLsb' 19 4,
                       tick := s.tb.toNat - 25 * fld v 46 26, ord := s.commits, urg := v.getLsbD 25 }
    let s := { s with commits := s.commits + 1 }
    let s := s.modQ j fun k =>
      if v.getLsbD 23 then { k with held := k.held ++ [x], mark := if v.getLsbD 24 then k.mark else k.held.length + 1 }
      else { k with items := k.items ++ [x] }
    s.itemsLoad j vs

/-- The queues of section 5. -/
def State.queuesLoad (s : State) (j : Nat) (bs : List Byte) : Nat → Nat → State
  | 0, _ => s
  | n + 1, o =>
    let c := (bWord (cut bs o 96) 2).toNat
    let ws := (List.range c).map fun x => leWord (cut bs (o + 96 + 6 * x) 6)
    let s := (s.sg (aQ j 0) (bWord (cut bs o 96) 0)).sg (aQ j 8) (bWord (cut bs o 96) 1)
    let s := (s.modQ j fun _ => {}).itemsLoad j ws
    s.queuesLoad (j + 1) bs n (o + 96 + (6 * c + 95) / 96 * 96)

/-- The effects of a RESTORE once its window is written (R431 steps 3 to 6). -/
def State.restoreGo (s : State) (i : Nat) (hdr : List Byte) (secs : List (Nat × Nat × List Byte)) : State :=
  let c := s.inst i
  let (_, mail) := secOf secs 2
  let s := (List.range 11).foldl (fun (s : State) k => (s.sgVi i (0x100 + 8 * k) (bWord mail k)).sgVi i (0x180 + 8 * k) (bWord mail (11 + k))) s
  let s := (s.sgVi i 0x1E8 (bWord mail 22)).seenFall
  let dt := s.tb - bWord hdr 4
  let (_, recs) := secOf secs 1
  let s := (procList c.procs).zipIdx.foldl (fun (s : State) (p, j) => s.procLoad p (cut recs (1728 * j) 1728) dt) s
  let (nr, rings) := secOf secs 3
  let lgOld := fld (bWord (secOf secs 7).2 5) 13 0
  let s := (List.range nr).foldl (fun (s : State) j => s.ringLoad (c.rfirst + j) (cut rings (96 * j) 96) lgOld c.lgbase) s
  let (ne, ents) := secOf secs 4
  let s := (List.range ne).foldl (fun (s : State) j => s.entLoad i (cut ents (96 * j) 96)) s
  let (nq, qs) := secOf secs 5
  let s := s.queuesLoad c.qfirst qs nq 0
  let s := { s with irest := setIn s.irest i true, frzTb := spIns s.frzTb i s.tb }
  (s.event { code := 0x0A01, sev := 1, master := 0x603, inst := some i, pay := [(6, i), (4, 8), (7, popProcs c.procs)] }).instEnd i 8 0 0

/-- The window's lines are written from `pos` on, as their grants allow (R255, R431 step 2): how far it got. -/
def State.restoreLines (s : State) (l0 : Nat) (win : List Byte) (bad : Nat → Bool) (pos : Nat) : Nat → Nat × State
  | 0 => (pos, s)
  | n + 1 =>
    match s.uncWrite (96 * (l0 + pos)) (cut win (96 * pos) 96) (bad (l0 + pos)) 0x603 with
    | (true, s) => s.restoreLines l0 win bad (pos + 1) n
    | (false, s) => (pos, s)

/-- A RESTORE goes on (R431 step 2), and ends once its window is written. Section 9 names lines of the saved window, which is the
staged one. -/
def State.restoreStep (s : State) (i : Nat) : State :=
  match spGet s.rests i with
  | none => s
  | some w =>
    match sections w.body (w.body.length / 96 + 1) 0 with
    | none => s
    | some secs =>
      let (nl, win) := secOf secs 8
      let (np, poi) := secOf secs 9
      let bad := (List.range np).map fun j => leNat (cut poi (4 * j) 4)
      let (pos, s) := s.restoreLines ((s.inst i).wbase * 262144) win bad.contains w.pos (nl - w.pos)
      if pos = nl then ({ s with rests := spDel s.rests i } : State).restoreGo i w.hdr secs
      else { s with rests := spIns s.rests i { w with pos := pos } }

/-- The checks of a RESTORE whose image is read (R431); when they pass the instance is created and its window written. -/
def State.restoreCheck (s : State) (i : Nat) (hdr body : List Byte) : State :=
  let s := s.sgVi i 0xB8 (BitVec.ofNat 48 (96 + body.length))
  if (crc32c body).toNat ≠ fld (bWord hdr 3) 31 0 then s.instEnd i 8 4 4
  else match sections body (body.length / 96 + 1) 0 with
  | none => s.instEnd i 8 4 4
  | some secs =>
    let c := s.staged i
    let cfg := (secOf secs 7).2
    if (secOf secs 1).1 ≠ popProcs c.procs then s.instEnd i 8 4 5
    else if s.rgVi i 0x10 ≠ bWord cfg 0 ∨ s.rgVi i 0x28 ≠ bWord cfg 3 ∨ s.rgVi i 0x30 ≠ bWord cfg 4 ∨ c.lgcount ≠ fld (bWord cfg 5) 27 14 then
      s.instEnd i 8 4 4
    else match s.instCheck i true with
      | 0 =>
        let s := (s.inForce i).setInstState i 2
        ({ s with icmd := spIns s.icmd i 8, rests := spIns s.rests i { hdr := hdr, body := body } } : State).restoreStep i
      | r => s.instEnd i 8 4 r

/-- Is the header line an instance image's (R429)? -/
def imgHdrOk (hdr : List Byte) : Bool := decide (fld (bWord hdr 0) 31 0 = 0x494E5354 ∧ fld (bWord hdr 0) 47 32 = 3)

/-- RESTORE reads its image in the local main store (R431), as far as the lines can be read; poison ends it with POISON. -/
def State.restoreRead (s : State) (i a : Nat) : State :=
  match s.uncRead a 96 0x603 with
  | (none, s) => { s with icmd := spIns s.icmd i 8 }
  | (some (hdr, z), s) =>
    let n := 96 * fld (bWord hdr 2) 31 0
    if z then s.instEnd i 8 6 0
    else if !imgHdrOk hdr then s.instEnd i 8 4 4
    else if s.part.msBytes < a + 96 + n then s.instEnd i 8 7 0
    else match s.uncRead (a + 96) n 0x603 with
      | (none, s) => { s with icmd := spIns s.icmd i 8 }
      | (some (body, z), s) => if z then s.instEnd i 8 6 0 else s.restoreCheck i hdr body

/-- RESTORE (R431): the image stands in the local main store, or `ext` brings it from host memory; `st` is what the host
answered. -/
def State.restore (s : State) (i : Nat) (ext : List Byte) (st : Nat) : State :=
  if i = 0 ∨ s.instState i ≠ 0 then s.instEnd i 8 4 6
  else
    let (k, _, a) := s.imgAddr i
    if k = 0 then (if s.part.msBytes < a + 96 then s.instEnd i 8 7 0 else s.restoreRead i a)
    else if k ≠ 2 then s.instEnd i 8 7 0
    else if st ≠ 0 then s.instEnd i 8 st 0
    else
      let rd (o n : Nat) : List Byte := (List.range n).map fun j => ext.getD (o + j) 0
      let hdr := rd 0 96
      if imgHdrOk hdr then s.restoreCheck i hdr (rd 96 (96 * fld (bWord hdr 2) 31 0)) else s.instEnd i 8 4 4

def execRestore (a : Via) (i : BitVec 6) (ext : List Byte) (st : BitVec 8) (s : State) : Res :=
  s.instCmd a i fun s => s.restore i.toNat ext st.toNat

/-- A command of an instance that waits goes on (R427 to R431). -/
def State.cmdStep (s : State) (i op : Nat) : State :=
  match op % 32 with
  | 3 => s.resetTry i 3
  | 4 => s.resetTry i 4
  | 0x15 => s.freezeTry i
  | 7 => s.saveTry i (op / 32)
  | 8 => if (spGet s.rests i).isSome then s.restoreStep i else s.restoreRead i (s.imgAddr i).2.2
  | _ => s

/-- Commands of instances that wait go on with time, and stops and boot starts that wait (R423). -/
def State.instTick (s : State) : State :=
  let s := (s.procs.map fun x => x.1).foldl (fun (s : State) p => (s.tryStop p).bootTry p) s
  s.icmd.foldl (fun (s : State) (i, op) => s.cmdStep i op) s

end Sys2Proof.Machine
end

