-- ==== Sys2Proof/Machine/Mbova.lean ====
section
/-!
DEFINITION. The Mbova links and router (spec 17): flits with their check, sequence numbers and credits (R437 to R439), training
and the handshake (R435, R436, R456), routes with detours (R441 to R443), what is discarded (R444).
-/
namespace Sys2Proof.Machine

open Sys2Proof

/-- Link l. -/
def State.lnk (s : State) (l : Nat) : Lnk := spGetD {} s.links l

/-- Do the Mbova links work: no message passes from a trip to the next resume, nor in FATAL (R261, R459, R483)? -/
def State.mbvLive (s : State) : Bool := match s.phase with
  | .boot | .nores | .run => true
  | _ => false

/-- Change link l. -/
def State.modLnk (s : State) (l : Nat) (f : Lnk → Lnk) : State := { s with links := spPut {} s.links l (f (s.lnk l)) }

/-- MBV[l]_STAT and its STATE: 0 down, 1 training, 2 trained and rejected, 3 active (R462). -/
def State.mbvStat (s : State) (l : Nat) : Word := s.rg (aMbv l 8)
def State.linkState (s : State) (l : Nat) : Nat := fld (s.mbvStat l) 2 0
def State.setLinkState (s : State) (l n : Nat) : State := s.sg (aMbv l 8) (setFld (s.mbvStat l) 2 0 n)

/-- Is a link active (R456)? -/
def State.active (s : State) (l : Nat) : Bool := decide (l < s.part.links ∧ s.linkState l = 3)

/-- Reset values of MBG_SHAPE, PORT and DTR: SHAPE names no size a module can know (R464: var.), so sizes of one node; the
default links (R463 note a); no alternates. -/
def shapeReset (p : Part) : Word := BitVec.ofNat 48 ((if p.links = 4 then 2 ^ 24 else 0) + 0x10101)
def portReset (p : Part) : Word := if p.links = 4 then 0x3F688 else 0x2C688
def dtrReset : Word := 0x3FFFF

/-- MBG_SHAPE, MBG_PORT, MBG_DTR. -/
def State.shape (s : State) : Word := s.rg (aMbg 8) (shapeReset s.part)
def State.port (s : State) (d : Nat) : Nat := fld (s.rg (aMbg 0x10) (portReset s.part)) (3 * d + 2) (3 * d)
def State.dtr (s : State) (d : Nat) : Nat := fld (s.rg (aMbg 0x18) dtrReset) (3 * d + 2) (3 * d)

/-- Size of a dimension (R464). -/
def dimSize (sh : Word) (x : Nat) : Nat := fld sh (8 * x + 7) (8 * x)

/-- A node's coordinate in a dimension (R441). -/
def coord (sh : Word) (n : BitVec 14) (x : Nat) : Nat :=
  if sh.getLsbD 24 then (if x = 0 then fld n 6 0 else if x = 1 then fld n 13 7 else 0)
  else (if x = 0 then fld n 3 0 else if x = 1 then fld n 8 4 else fld n 13 9)

/-- Does a node exist (R441)? -/
def nodeExists (sh : Word) (n : BitVec 14) : Bool := (List.range 3).all fun x => decide (coord sh n x < dimSize sh x)

/-- The direction of dimension order for a destination (R442): 0 X+, 1 X−, 2 Y+ … -/
def direction (sh : Word) (own dst : BitVec 14) : Option Nat :=
  ((List.range 3).find? fun x => coord sh own x ≠ coord sh dst x).map fun x =>
    let d := (coord sh dst x + dimSize sh x - coord sh own x) % dimSize sh x
    if 2 * d ≤ dimSize sh x then 2 * x else 2 * x + 1

/-- Does a step in a direction cross the wrap link of its dimension (R442)? -/
def wraps (sh : Word) (own : BitVec 14) (d : Nat) : Bool :=
  if d % 2 = 0 then decide (coord sh own (d / 2) + 1 = dimSize sh (d / 2)) else decide (coord sh own (d / 2) = 0)

/-- The default alternates (R443): the + direction of the next dimension whose size is above 1. -/
def dtrDefault (sh : Word) : Word :=
  BitVec.ofNat 48 ((List.range 6).foldl (fun a d =>
    let nx := (List.range 2).find? fun j => dimSize sh ((d / 2 + 1 + j) % 3) > 1
    a + (match nx with | some j => 2 * ((d / 2 + 1 + j) % 3) | none => 7) * 2 ^ (3 * d)) 0)

/-- The virtual channel of a message type (R445). -/
def vcOf (t : BitVec 6) : Nat :=
  match t.toNat with
  | 1 | 2 | 3 | 8 | 0x14 => 0
  | 4 | 5 | 9 => 1
  | 0x10 | 0x11 => 2
  | _ => 3

/-- Is a type defined (R445)? -/
def typOk (t : BitVec 6) : Bool := [1, 2, 3, 4, 5, 8, 9, 0x10, 0x11, 0x14, 0x18, 0x19, 0x1C].contains t.toNat

/-- A request whose discard is answered (R444). -/
def isRequest (t : BitVec 6) : Bool := decide (vcOf t = 0) && typOk t

/-- Buffers of a link input (R438). -/
def bufSize (vc : Nat) : Nat := match vc with | 0 => 16 | 1 => 32 | 2 => 8 | _ => 4

/-- A STATUS bit of the fabric block with its interrupt (R463). -/
def State.mbgStatus (s : State) (i : Nat) : State := (s.sg (aMbg 0x48) (setBit (s.rg (aMbg 0x48)) i true)).raise (aMbg 0x40)

/-- The bytes of a flit (R437). -/
def flitBytes (lseq lack : BitVec 8) (nak : Bool) (ret : Option (Nat × Nat)) (f : Option Flit) : List Byte :=
  let cr : Nat := match ret with | some (b, n) => (b % 4) * 2 ^ 17 + (b / 4) * 2 ^ 19 + n * 2 ^ 20 | none => 0
  let body : Nat := match f with
    | none => 0
    | some f => vcOf f.m.typ * 2 ^ 26 + b2n f.cl * 2 ^ 28 + (f.dtr % 8) * 2 ^ 29 + f.m.typ.toNat * 2 ^ 32 + f.m.dst.toNat * 2 ^ 38 +
        f.m.src.toNat * 2 ^ 52 + f.m.tag.toNat * 2 ^ 66 + (f.m.words.length % 32) * 2 ^ 82 + b2n f.m.pois * 2 ^ 87 + f.m.status.toNat * 2 ^ 88
  let hdr := natLe 12 (lseq.toNat + lack.toNat * 256 + b2n nak * 2 ^ 16 + cr + body)
  let ws := match f with | some f => f.m.words | none => []
  let pl := ((List.range 24).map fun w => wordLe (ws.getD w 0)).flatten
  hdr ++ natLe 4 (crc32c (hdr ++ pl)).toNat ++ pl

/-- Take a group of credits to return from a link's list: buffer and number (R437, R438). -/
def takeRet (l : List Nat) : Option (Nat × Nat) × List Nat :=
  match l with
  | [] => (none, [])
  | b :: _ =>
    let n := min 63 (l.filter fun x => x = b).length
    (some (b, n), (l.filter fun x => x ≠ b) ++ List.replicate ((l.filter fun x => x = b).length - n) b)

/-- Send a NULL flit with what a link must return (R437): credits, LACK, NAK. -/
def State.sendNull (s : State) (l : Nat) (nak : Bool) : State :=
  let k := s.lnk l
  let (r, rest) := takeRet k.ret
  (s.modLnk l fun k => { k with ret := rest }).out (.flit (BitVec.ofNat 3 l) (flitBytes 0 k.rx nak r none))

/-- Send a flit of the replay buffer over link l; an injection inverts bits of its LCRC (R485). -/
def State.sendSeq (s : State) (l : Nat) (q : BitVec 8) (f : Flit) : State :=
  let k := s.lnk l
  let (r, rest) := takeRet k.ret
  let (inv, s) : Nat × State := match s.injHit (.mbv (BitVec.ofNat 3 l)) 0 0 with | some x => x | none => (0, s)
  let bs := flitBytes q k.rx false r (some f)
  let bs := overlay 0 bs (cellsAt 12 (natLe 4 (leNat ((bs.drop 12).take 4) ^^^ inv)))
  (s.modLnk l fun k => { k with ret := rest, flits := satAdd 48 k.flits 1 }).out (.flit (BitVec.ofNat 3 l) bs)

/-- The input buffer that a flit filled is free again (R438). -/
def State.freeInp (s : State) (f : Flit) : State :=
  match f.inp with
  | some (l, b) => s.modLnk l fun k => { k with ret := k.ret ++ [b] }
  | none => s

/-- May a link take a flit now (R435, R438, R439): flit lock, a credit for its channel and class, room in the replay buffer;
beside management only while it is active and the processors are released? -/
def State.linkTakes (s : State) (l : Nat) (f : Flit) : Bool :=
  let k := s.lnk l
  let vc := vcOf f.m.typ
  k.up && !k.retr && decide (k.replay.length < 64) && decide (spGetD 0 k.used (vc + 4 * b2n f.cl) < bufSize vc) &&
  (decide (vc = 3) || (s.active l && decide (s.phase = .run)))

/-- Hand a flit to a link: it takes the next LSEQ and a credit and stays in the replay buffer (R438, R439). -/
def State.linkSend (s : State) (l : Nat) (f : Flit) : State :=
  let k := s.lnk l
  let b := vcOf f.m.typ + 4 * b2n f.cl
  let s := (s.freeInp f).modLnk l fun k =>
    { k with tx := k.tx + 1, used := spPut 0 k.used b (spGetD 0 k.used b + 1), replay := k.replay ++ [(k.tx, { f with inp := none })],
             ackT := if k.replay.isEmpty then s.ticks else k.ackT }
  s.sendSeq l k.tx f

/-- The flits of the replay buffer after a LACK value, sent again in order (R439). -/
def State.resendAll (s : State) (l : Nat) : State :=
  let k := s.lnk l
  k.replay.foldl (fun (s : State) (q, f) => s.sendSeq l q f) s

/-- LACK covers flits of the replay buffer (R439). -/
def State.lackTo (s : State) (l : Nat) (lack : BitVec 8) : State :=
  s.modLnk l fun k =>
    let rest := match k.replay.findIdx? fun (q, _) => q = lack with
      | some i => k.replay.drop (i + 1)
      | none => k.replay
    if rest.length < k.replay.length then { k with replay := rest, ackT := s.ticks, reps := 0 } else k

/-- A retrain begins (R439): event 0x0B04; replay buffer and credits are kept. -/
def State.retrain (s : State) (l : Nat) : State :=
  if (s.lnk l).up ∧ (s.lnk l).retr = false then
    (s.modLnk l fun k => { k with retr := true, rtN := satAdd 24 k.rtN 1 }).event
      { code := 0x0B04, sev := 1, cls := 1, blk := some (.mbv (BitVec.ofNat 3 l)), master := 0x500, pay := [(3, l)] }
  else s

/-- A replay (R439): what LACK does not cover is sent again; after eight without an advance the link retrains. -/
def State.replayGo (s : State) (l : Nat) : State :=
  let k := s.lnk l
  if !k.up || k.retr || k.replay.isEmpty then s
  else if 8 ≤ k.reps then s.retrain l
  else (s.modLnk l fun k => { k with reps := k.reps + 1, reN := satAdd 24 k.reN 1, ackT := s.ticks }).resendAll l

def execNak (l : BitVec 3) (lack : BitVec 8) (s : State) : Res :=
  .next (if s.mbvLive then (s.lackTo l.toNat lack).replayGo l.toNat else s)

def execReplayTimeout (l : BitVec 3) (s : State) : Res :=
  .next (if s.mbvLive = true ∧ (s.lnk l.toNat).replay ≠ [] ∧ (s.lnk l.toNat).ackT + 25 ≤ s.ticks then s.replayGo l.toNat else s)

/-- A link change (R440, R443): firmware writes the default alternates. -/
def State.linkChanged (s : State) : State := s.sg (aMbg 0x18) (dtrDefault s.shape) dtrReset

/-- A link goes down (R440): its replay buffer is discarded; flits that wait are routed again, and those that came in by it hold no
buffer of it any more. -/
def State.linkDown (s : State) (l : Nat) : State :=
  let n := (s.lnk l).replay.length
  let k := s.lnk l
  let s : State := s.modLnk l fun _ => { flits := k.flits, reN := k.reN, rtN := k.rtN, crcN := k.crcN, tryT := k.tryT, half := k.half }
  let s : State := { s with fabq := s.fabq.map fun (f : Flit) => if f.inp.any (fun x => x.1 = l) then { f with inp := none } else f }
  let s := (s.sg (aMbv l 8) 0).linkChanged
  (s.mbgStatus 0).event { code := 0x0B03, sev := 2, master := 0x500, pay := [(3, l), (7, n)] }

def execLinkDown (l : BitVec 3) (s : State) : Res :=
  .next (if s.mbvLive && (s.lnk l.toNat).retr then s.linkDown l.toNat else s)

/-- A lane fails in service: the link retrains (R436, R439). -/
def execLinkRetrain (l : BitVec 3) (s : State) : Res := .next (if s.mbvLive then s.retrain l.toNat else s)

/-- The width that trained lanes give (R436): 0 none, 1 half, 2 full; which lanes carry it. -/
def laneWidth (rx tx : BitVec 8) (half : Bool) : Nat × Nat :=
  let b := rx.toNat &&& tx.toNat
  if b = 0xFF then (2, 0xFF)
  else if half ∧ b &&& 0xF = 0xF then (1, 0x0F)
  else if half ∧ b &&& 0xF0 = 0xF0 then (1, 0xF0)
  else (0, 0)

/-- The width of a link by its lanes: once it has run at half width it returns to full width only after EN was written from 0 to 1
(R436). -/
def State.linkWidth (s : State) (l : Nat) (rx tx : BitVec 8) : Nat × Nat :=
  let allow := (s.rg (aMbv l 0) 3).getLsbD 1
  match laneWidth rx tx allow with
  | (2, m) => if (s.lnk l).half then (if allow then (1, 0x0F) else (0, 0)) else (2, m)
  | x => x

/-- Has the module left the fabric, or is it leaving (R458)? -/
def State.away (s : State) : Bool := s.leaving.isSome || (s.rg (aMbg 0x28)).getLsbD 0

/-- A training attempt (R435): while EN is 1 and the link is down, every 100 ms. A module that has left the fabric trains no link
until EN is written (DEDUCED from R458, log 89). -/
def execLinkTrainingAttempt (l : BitVec 3) (rx tx : BitVec 8) (s : State) : Res :=
  let n := l.toNat
  let due : Bool := match (s.lnk n).tryT with | none => true | some t => decide (t + 2500000 ≤ s.ticks)
  .next (if n < s.part.links ∧ (s.rg (aMbv n 0) 3).getLsbD 0 = true ∧ (s.linkState n = 0 ∨ s.linkState n = 1 ∧ (s.lnk n).up = false) ∧ due = true ∧ s.mbvLive = true ∧ s.refOk .mbv = true ∧ s.away = false ∧
      (s.phase = .boot → 3 ≤ fld (s.rg 0x10) 3 0) then
    let s := s.modLnk n fun k => { k with tryT := some s.ticks }
    s.setLinkState n (if (s.linkWidth n rx tx).1 = 0 then 0 else 1)
  else s)

/-- Send MGT over one link (R456): the first word is the kind, 1 HELLO, 2 ACCEPT, 3 REJECT, 4 GONE, 5 LEAVE (DESIGN CHOICE: the
spec gives no codes). -/
def State.sendMgt (s : State) (l : Nat) (ws : List Word) : State :=
  let f : Flit := { m := { typ := 0x1C, dst := 0, src := s.node, words := ws } }
  if s.linkTakes l f then s.linkSend l f else s

/-- The direction a link serves (R441). -/
def State.linkDir (s : State) (l : Nat) : Option Nat := (List.range 6).find? fun d => s.port d = l

/-- HELLO of this end (R456): node, SHAPE, direction, FEAT0. -/
def State.sendHello (s : State) (l : Nat) : State :=
  let feat := match sysReg s.part 0x100 with | some d => d.reset | none => 0
  s.sendMgt l [1, s.node.zeroExtend 48, s.shape, BitVec.ofNat 48 ((s.linkDir l).getD 7), feat]

/-- A link reaches flit lock (R436, R439, R456): after training it starts afresh and sends HELLO; after a retrain it resends its
replay buffer. With too few lanes an attempt has failed, and a
retrain goes on until it fails (R440). -/
def execMbovaTrainingComplete (l : BitVec 3) (rx tx : BitVec 8) (s : State) : Res :=
  let n := l.toNat
  let (w, lanes) := s.linkWidth n rx tx
  let training : Bool := decide (s.linkState n = 1) && !(s.lnk n).up
  .next (if n ≥ s.part.links ∨ !(training || (s.lnk n).retr) ∨ s.mbvLive = false ∨ s.refOk .mbv = false then s
  else if w = 0 then (if training then s.setLinkState n 0 else s)
  else
    let s := (s.sg (aMbv n 8) (setBit (setFld (s.mbvStat n) 13 6 lanes) 5 (decide (w = 1)))).modLnk n fun k =>
      { k with half := k.half || decide (w = 1) }
    let s := if w = 1 then s.event { code := 0x0B02, sev := 2, cls := 2, blk := some (.mbv l), master := 0x500, pay := [(3, n), (8, lanes)] } else s
    if (s.lnk n).retr then (s.modLnk n fun k => { k with retr := false, reps := 0, ackT := s.ticks }).resendAll n
    else
      let s := s.modLnk n fun k => { up := true, flits := k.flits, reN := k.reN, rtN := k.rtN, crcN := k.crcN, tryT := k.tryT, half := k.half }
      s.sendHello n)

/-- A link becomes active when both ends accept (R456): event 0x0B01. -/
def State.linkActive (s : State) (l : Nat) : State :=
  let k := s.lnk l
  if k.up && k.mine && k.peer && decide (s.linkState l ≠ 3) then
    let pay : List (Nat × Nat) := [(3, l), (14, fld (s.mbvStat l) 27 14), (1, b2n ((s.mbvStat l).getLsbD 5))]
    (s.setLinkState l 3).linkChanged.event { code := 0x0B01, sev := 0, master := 0x500, pay := pay }
  else s

/-- The handshake is rejected at this end (R456): REJECT is sent, event 0x0B05. -/
def State.linkReject (s : State) (l : Nat) : State :=
  if (s.lnk l).up ∧ s.linkState l ≠ 2 then
    let pay : List (Nat × Nat) := [(3, l), (14, fld (s.mbvStat l) 27 14), (3, fld (s.mbvStat l) 30 28)]
    (((s.sendMgt l [3]).setLinkState l 2).modLnk l fun (k : Lnk) => { k with mine := false }).event { code := 0x0B05, sev := 2, master := 0x500, pay := pay }
  else s

/-- HELLO of the peer (R456): it is checked; ACCEPT or REJECT is sent. -/
def State.helloAt (s : State) (l : Nat) (node : BitVec 14) (shape : Word) (dir : BitVec 3) : State :=
  if !(s.lnk l).up then s
  else
    let v := setFld (setFld (s.mbvStat l) 30 28 dir.toNat) 27 14 node.toNat
    let s := s.sg (aMbv l 8) v
    let sh := s.shape
    let ok : Bool := match s.linkDir l with
      | none => false
      | some d =>
        let x := d / 2
        let n := dimSize sh x
        let step := if d % 2 = 0 then (coord sh s.node x + 1) % n else (coord sh s.node x + n - 1) % n
        decide (shape = sh) && decide (n ≠ 0) && decide (dir.toNat = (if d % 2 = 0 then d + 1 else d - 1)) &&
        (List.range 3).all fun y => decide (coord sh node y = if y = x then step else coord sh s.node y)
    if ok then ((s.modLnk l fun k => { k with mine := true }).sendMgt l [2]).linkActive l
    else s.linkReject l

def execHello (l : BitVec 3) (node : BitVec 14) (shape : BitVec 48) (dir : BitVec 3) (_feat0 : BitVec 48) (s : State) : Res :=
  .next (if s.mbvLive then s.helloAt l.toNat node shape dir else s)

/-- ACCEPT of the peer. -/
def State.acceptAt (s : State) (l : Nat) : State :=
  if (s.lnk l).up then (s.modLnk l fun k => { k with peer := true }).linkActive l else s

def execAccept (l : BitVec 3) (s : State) : Res := .next (if s.mbvLive then s.acceptAt l.toNat else s)
def execReject (l : BitVec 3) (s : State) : Res := .next (if s.mbvLive then s.linkReject l.toNat else s)

/-- A neighbour's GONE (R459) or LEAVE (R458) takes the link down. -/
def execGone (l : BitVec 3) (s : State) : Res := .next (if s.mbvLive && (s.lnk l.toNat).up then s.linkDown l.toNat else s)
def execLeaveMessage (l : BitVec 3) (s : State) : Res := .next (if s.mbvLive && (s.lnk l.toNat).up then s.linkDown l.toNat else s)

/-- A discarded flit (R444): event 0x0B12; a request is answered to its source with TARGET_DEAD. Reasons: 1 no link, 2 no such
node, 3 reserved type, 4 a sender outside the group (DESIGN CHOICE: the spec gives no codes). -/
def State.discard (s : State) (f : Flit) (reason : Nat) : State :=
  let s := (s.freeInp f).event { code := 0x0B12, sev := 1, master := 0x500, pay := [(3, reason), (14, f.m.dst.toNat), (6, f.m.typ.toNat)] }
  if isRequest f.m.typ then
    let m : FMsg := { typ := 4, dst := f.m.src, src := s.node, tag := f.m.tag, status := 8 }
    let g : Flit := { m := m }
    { s with fabq := s.fabq ++ [g] }
  else s

/-- What the router does with a flit that is not for this node (R442 to R444): keep it waiting, discard it with a reason, or send
it over a link. -/
inductive RouteTo where
  | wait | drop (reason : Nat) | link (l : Nat) (f : Flit)

/-- Route a flit (R442, R443). -/
def State.route (s : State) (f : Flit) : RouteTo :=
  let sh := s.shape
  if !typOk f.m.typ then .drop 3
  else if !nodeExists sh f.m.dst then .drop 2
  else match direction sh s.node f.m.dst with
  | none => .drop 2
  | some d =>
    let inDim : Option Nat := match f.inp with
      | some (l, _) => (s.linkDir l).map fun x => x / 2
      | none => none
    let cl : Bool := decide (f.dtr > 0) || wraps sh s.node d || (f.cl && decide (inDim = some (d / 2)))
    let l := s.port d
    if s.active l then
      let g : Flit := { f with cl := cl }
      if s.linkTakes l g then .link l g else .wait
    else
      let a := s.dtr d
      let l2 := s.port a
      if a < 6 ∧ f.dtr < 3 ∧ s.active l2 = true then
        let g : Flit := { f with cl := true, dtr := f.dtr + 1 }
        if s.linkTakes l2 g then .link l2 g else .wait
      else .drop 1

/-- Requests for the snapshots of a link and of the fabric (R461, R463). -/
def execMbvSnapReq (a : Via) (l : BitVec 3) (s : State) : Res :=
  s.onWrite a (aMbv l.toNat 0x10) fun s => (s.sg (aMbv l.toNat 0x10) 0).snapReq (.mbv l)
def execMbgSnapReq (a : Via) (s : State) : Res := s.onWrite a (aMbg 0x30) fun s => (s.sg (aMbg 0x30) 0).snapReq .mbg

end Sys2Proof.Machine
end

