-- ==== Sys2Proof/Machine/MbovaOps.lean ====
section
/-!
DEFINITION. What the Mbova block does with messages (spec 17 R445 to R458): remote requests of this module and their ends, the
home service with its export windows, doorbells, coherence messages between members, mirror writes, system barriers, operation
slots, leaving the fabric.
-/
namespace Sys2Proof.Machine

open Sys2Proof

/-- Registers of operation slot i and of barrier context c (R463). -/
def aOp (i o : Nat) : Nat := aMbg (0x400 + 0x40 * i + o)
def aSb (c o : Nat) : Nat := aMbg (0x1800 + 0x20 * c + o)

/-- MBG_SB[c]_STAT and GEN (R464). -/
def State.sbStat (s : State) (c : Nat) : Word := s.rg (aSb c 0x10)
def State.sbGen (s : State) (c : Nat) : BitVec 16 := (s.sbStat c).extractLsb' 8 16

/-- The node where a message is to be sent takes it at once when it is this one. -/
def State.sba (s : State) (c : Nat) : State :=
  let root : BitVec 14 := (s.rg (aSb c 0)).extractLsb' 0 14
  s.fab { typ := 0x18, dst := root, words := [BitVec.ofNat 48 (c + (s.sbGen c).toNat * 256)] }

/-- A covered remote write of a barrier has ended (R455): the arrival is sent when none is left. -/
def State.barTag (s : State) (tag : BitVec 16) (bad : Bool) : State :=
  s.sbWait.foldl (fun (s : State) (c, tags) =>
    if tags.contains tag then
      let s := if bad then s.sg (aSb c 0x10) (setBit (s.sbStat c) 3 true) else s
      let rest := tags.erase tag
      if rest.isEmpty then ({ s with sbWait := spDel s.sbWait c }).sba c else { s with sbWait := spIns s.sbWait c rest }
    else s) s

/-- Bytes of the payload's line (R446). -/
def lineBytes (ws : List Word) : List Byte := (ws.map wordLe).flatten

/-- An operation slot completes (R451). -/
def State.opDone (s : State) (i : Nat) (status : Nat) (res : Option Word) : State :=
  let v := s.rg (aOp i 0x28)
  let s := s.sg (aOp i 0x28) (setBit (setFld v 15 8 status) 0 false)
  let s := match res with | some w => s.sg (aOp i 0x20) w | none => s
  if v.getLsbD 16 then s.mbgStatus 2 else s

/-- A remote request ends with a status and what came back (R447): a load takes its bytes or is lost, a store's slot is free or
dropped, a mover's or a port's piece takes bytes or status, an operation slot completes. -/
def State.ropEnd (s : State) (r : ROp) (status : BitVec 8) (pois : Bool) (ws : List Word) : State :=
  let s : State := { s with rops := s.rops.filter fun x => x.tag ≠ r.tag }
  let s := if r.msg.typ = 1 then s else s.barTag r.tag (decide (status ≠ 0))
  let bs := lineBytes (ws.take 16)
  let st : BitVec 8 := if status ≠ 0 then status else if pois then 6 else 0
  let first (a : BitVec 8) : BitVec 8 := if a = 0 then st else a
  let cells : List Host.Cell := if r.msg.typ = 1 ∧ st = 0 then cellsAt (96 * (((r.msg.words.getD 0 0).toNat) / 96)) bs else []
  let s := match r.who with
    | .load p sn =>
      (match (s.proc p).loads.findIdx? fun (l : Load) => l.sn = sn ∧ l.data.isNone with
      | none => s
      | some n => match (s.proc p).loads[n]? with
        | none => s
        | some l =>
          if status ≠ 0 then s.loadLost p n l
          else s.loadGets p n l ((bs.drop (l.addr % 96)).take l.kind.size) pois)
    | .store p i =>
      (match (s.proc p).slots.find? fun (x : Slot) => x.id = i with
      | none => s
      | some x =>
        if status ≠ 0 then s.dropStores p x fun y => decide (y.st = SlotStage.sent)
        else s.modProc p fun (q : Proc) => q.setEnts i (x.ents.filter fun y => y.st ≠ SlotStage.sent))
    | .mov e b =>
      s.modEng e.toNat fun (g : Engine) => { g with run := g.run.map fun (p : Prog) =>
        { p with mops := p.mops.map fun (m : MOp) =>
          if m.buf = b ∧ m.left ≠ 0 then { m with left := m.left - 1, rst := first m.rst, rdat := mergeCells m.rdat cells } else m } }
    | .port e id =>
      s.modEng e.toNat fun (g : Engine) => { g with run := g.run.map fun (p : Prog) =>
        { p with pops := p.pops.map fun (o : POp) =>
          if o.id = id ∧ o.left ≠ 0 then { o with left := o.left - 1, rst := first o.rst, rdat := mergeCells o.rdat cells } else o } }
    | .routine p isA =>
      let l := r.line
      let s := s.modProc p fun (q : Proc) => { q with routine := q.routine.map fun (x : Routine) =>
        { x with far := x.far.map fun (y : Bool × Nat × Option (List Byte × Bool)) =>
          if y.1 = isA ∧ y.2.1 = l then (isA, l, some (if status ≠ 0 then ([], true) else (bs, pois))) else y } }
      if status ≠ 0 then s.readLost p (96 * l) 4 else s
    | .ops i => s.opDone i st.toNat (if r.msg.typ = 3 ∧ status = 0 then some (ws.getD 0 0) else none)
  s.rPump

/-- A request of this module to a line's remote home has its answer without a copy to keep (R204, R444, R449): the local requester
gets the line, uncached or poisoned; nothing stays recorded. -/
def State.remoteOver (s : State) (key : Nat) (t : Txn) (d : List Byte) (pois : Bool) : State :=
  let grants : Bool := match t.msg.kind with | .rdS | .rdX | .upg => true | _ => false
  let e := s.dirOf key
  -- a cluster sends its completion message for what it is granted (R208)
  let s := s.setDir key { e with txn := none, opens := e.opens + b2n grants }
  let g : Grant := match t.msg.kind with | .rdS => .s | .rdX | .upg => .m | _ => .none
  let s := match t.msg.kind with
    | .rdU | .rdS | .rdX | .upg =>
      s.send { src := s.homeNode key, dst := .ag t.msg.req, kind := .data g, line := key, req := t.msg.req, data := d, pois := pois, tag := t.msg.tag }
    | _ => s.homeDone t.msg
  s.drainQueue key 64

/-- RSP reaches the requester (R447); that a router gives to a discarded request comes from another node than the home (R444). An
answer to nothing outstanding does nothing. -/
def State.rspAt (s : State) (m : FMsg) : State :=
  match s.rops.find? fun r => r.tag = m.tag ∧ r.sent = true with
  | some r => s.ropEnd r m.status m.pois m.words
  | none =>
    match s.dir.find? fun (l, d) => 2 ^ 44 ≤ l ∧ (d.txn.any fun t => t.remote && decide (t.rtag = m.tag)) = true with
    | some (l, d) => (match d.txn with
      | some t => if m.status = 0 then s else s.remoteOver l t (List.replicate 96 0) true
      | none => s)
    | none => s

/-- PND keeps a request alive (R447). -/
def State.pndAt (s : State) (m : FMsg) : State :=
  { s with rops := s.rops.map fun (r : ROp) => if r.tag = m.tag ∧ r.msg.dst = m.src ∧ r.sent then { r with tick := s.ticks } else r }

/-- Which right a request needs of an export window (R449); EvC and Cln neither read nor write nor take ownership. -/
inductive ExpRight where
  | r | w | db | none
deriving DecidableEq, Repr

/-- Does an export window let a node do this to a line (R449)? -/
def State.exported (s : State) (src : BitVec 14) (l : Nat) (need : ExpRight) : Bool :=
  (List.range 16).any fun x =>
    let a := s.rg (aMbg (0x200 + 16 * x))
    let b := s.rg (aMbg (0x208 + 16 * x))
    let base := fld a 9 0 * 262144
    let mask : BitVec 14 := b.extractLsb' 14 14
    a.getLsbD 24 && decide (base ≤ l ∧ l < base + fld a 20 10 * 262144) && decide (src &&& mask = b.extractLsb' 0 14 &&& mask) &&
    (match need with | .r => a.getLsbD 21 | .w => a.getLsbD 22 | .db => a.getLsbD 23 | .none => true)

/-- Answer a request (R446). -/
def State.answer (s : State) (m : FMsg) (status : BitVec 8) (pois : Bool) (ws : List Word) : State :=
  s.fab { typ := 4, dst := m.src, tag := m.tag, status := status, pois := pois, words := ws }

/-- A request refused by the export check (R449): event 0x0B11. -/
def State.refused (s : State) (m : FMsg) (a : Nat) : State :=
  s.event { code := 0x0B11, sev := 1, master := 0x500, pay := [(14, m.src.toNat), (48, a), (6, m.typ.toNat)] }

/-- The words of 96 bytes. -/
def toWords (bs : List Byte) : List Word := (List.range 16).map fun w => lineWord bs w

/-- A doorbell's first word (R452): queue and the value of a commit of its slot. -/
def dblCommit (w : Word) (slot : Nat) : Nat × Word :=
  (fld w 8 0, BitVec.ofNat 48 (slot + fld w 12 12 * 65536 + fld w 11 9 * 2 ^ 20))

/-- The Mbova block as an agent at its home (R448): master ID class 5, index 0. -/
def mbvMaster : BitVec 12 := 0x500

/-- The home carries out a doorbell (R452): the slot is reserved, its words are written, it is committed. A status when it is over;
none while the queue is full or its line cannot be written yet, and then no slot stays reserved. -/
def State.doorbell (s : State) (m : FMsg) : Option (BitVec 8) × State :=
  let w0 := m.words.getD 0 0
  let q := fld w0 8 0
  if !s.qEn q then (some 4, s)
  else
    let v := (s.qResv q mbvMaster none).1
    if v = 0 then (none, s)
    else
      let slot := v % 65536
      let ws := (m.words.drop 1).take (fld w0 12 12 + 1)
      match s.uncWrite (s.qBase q + 96 * slot) (lineBytes ws) false mbvMaster with
      | (true, s) => (some 0, ((s.qResv q mbvMaster none).2.qCommit q mbvMaster (dblCommit w0 slot).2).2)
      | (false, s) => (none, s)

/-- The home writes a line for a remote request once the line can be written and its persist grant is held (R448, R254). -/
def State.homePut (s : State) (l : Nat) (go : State → State) : Bool × State :=
  if s.writeNow l then
    match s.grantOr l (.unc mbvMaster) with
    | (true, s) => (true, go s)
    | (false, s) => (false, s)
  else (false, s.lineClear l (.unc mbvMaster))

/-- The new word of a remote atomic (R446, R448): FADD modulo 2⁴⁸, SWAP, CAS. -/
def ratWord (op : Nat) (old x cmp : Word) : Word :=
  match op with
  | 1 => old + x
  | 2 => x
  | _ => if old = cmp then x else old

/-- The home performs a request that has passed its checks, if its line is at rest (R448): RRD as RdU, RWR as WrF or WrP, RAT
within one transaction, DBL by R452. True once it is answered. -/
def State.serveReq (s : State) (m : FMsg) : Bool × State :=
  let a := (m.words.getD 0 0).toNat
  let l := a / 96
  match m.typ.toNat with
  | 1 =>
    (match s.uncRead (96 * l) 96 mbvMaster with
    | (some (d, p), s) => (true, s.answer m 0 p (toWords d))
    | (none, s) => (false, s))
  | 2 =>
    let mask (i : Nat) : Bool := if i < 48 then (m.words.getD 2 0).getLsbD i else (m.words.getD 3 0).getLsbD (i - 48)
    let cells := (cellsAt 0 (lineBytes ((m.words.drop 4).take 16))).filter fun (o, _) => mask o
    s.homePut l fun s => (s.pokeLine l cells m.pois mbvMaster.toNat).answer m 0 false []
  | 3 =>
    s.homePut l fun s =>
      let (d, p, s) := s.readLine l mbvMaster.toNat
      let old := leWord ((d.drop (a % 96)).take 6)
      let new := ratWord (fld (m.words.getD 1 0) 21 18) old (m.words.getD 2 0) (m.words.getD 3 0)
      (s.pokeLine l (cellsAt (a % 96) (wordLe new)) p mbvMaster.toNat).answer m 0 p [old]
  | _ =>
    match s.doorbell m with
    | (some st, s) => (true, s.answer m st false [])
    | (none, s) => (false, s)

/-- A remote request reaches its home (R448, R449, R452): a leaving module refuses, the export windows decide, an address the
module does not have or a reserved atomic is refused; what cannot be done yet waits with PND. -/
def State.homeReq (s : State) (m : FMsg) : State :=
  let a := (m.words.getD 0 0).toNat
  let own : Bool := decide (m.src = s.node)
  if s.away then s.answer m 8 false []
  else if m.typ = 0x14 then
    let q := fld (m.words.getD 0 0) 8 0
    if !own && !s.exported m.src (s.qBase q / 96) .db then (s.answer m 7 false []).refused m (s.qBase q)
    else match s.serveReq m with
      | (true, s) => s
      | (false, s) =>
        if (s.inq.filter fun x => x.db).length < 64 then { s with inq := s.inq ++ [⟨m, s.ticks, true⟩] } else s.answer m 5 false []
  else
    let l := a / 96
    let need : ExpRight := if m.typ = 1 then .r else .w
    if (!own && !s.exported m.src l need) || decide (s.part.msLines ≤ l) then (s.answer m 7 false []).refused m a
    else if m.typ = 3 ∧ (a % 6 ≠ 0 ∨ fld (m.words.getD 1 0) 21 18 = 0 ∨ 3 < fld (m.words.getD 1 0) 21 18) then s.answer m 4 false []
    else match s.serveReq m with
      | (true, s) => s
      | (false, s) => { s with inq := s.inq ++ [⟨m, s.ticks, false⟩] }

/-- Requests that wait at the home try again; those that waited for another 1 µs get PND (R448, R452). -/
def State.inqGo (s : State) (db : Bool) : State :=
  s.inq.foldl (fun (s : State) x =>
    if x.db ≠ db then s
    else match s.serveReq x.m with
      | (true, s) => { s with inq := s.inq.erase x }
      | (false, s) =>
        if x.tick + 25 ≤ s.ticks then
          ({ s with inq := s.inq.map fun (y : HomeQ) => if y = x then { y with tick := s.ticks } else y }).fab { typ := 5, dst := x.m.src, tag := x.m.tag }
        else s) s

/-- The member of the group that a node is (R454): listed in MS_CGMEM. -/
def State.listed (s : State) (n : BitVec 14) : Option Nat :=
  (List.range 16).find? fun i =>
    let m := s.rg (aMs (0xC008 + 8 * i))
    m.getLsbD 14 && decide (m.extractLsb' 0 14 = n)

/-- The line of a coherence message. -/
def cohData (m : FMsg) : List Byte := if m.words.length ≤ 2 then [] else lineBytes ((m.words.drop 2).take 16)

/-- A coherence request of member i reaches this home (R454, R449): it joins the messages its home acts on. A refusal names the
request's code where an answer has its acknowledgement count (DESIGN CHOICE, log 45: the spec gives no code for it). -/
def State.crqTake (s : State) (m : FMsg) (i : BitVec 4) : State :=
  let a := (m.words.getD 0 0).toNat
  let l := a / 96
  let code := fld (m.words.getD 1 0) 3 0
  let d := cohData m
  let need : ExpRight := if code = 0 ∨ code = 5 then .r else if code = 4 ∨ code = 8 then .none else .w
  let kind : Option MK := match code with
    | 0 => some .rdS | 1 => some .rdX | 2 => some .upg | 3 => some (.wb 0) | 4 => some .evC | 5 => some .rdU | 6 => some .wrF
    | 7 => some .wrP | 8 => some .cln | 9 => some .clInv | _ => none
  let opens : Bool := decide (code ≤ 2) || decide (code = 5)
  let no (status : BitVec 8) : State :=
    (if opens then s.unopened l (.member i) else s).coh m.src false 5 a code (List.replicate 96 0) true status
  if s.away then no 8
  else if decide (s.part.msLines ≤ l) || !s.exported m.src l need then (no 7).refused m a
  else match kind with
    | none => s
    | some k => s.send { src := .ag (.member i), dst := s.homeNode l, kind := k, line := l, req := .member i, data := d,
                         bytes := if k = .wrP then cellsAt 0 d else [], pois := m.pois, sticky := decide (fld (m.words.getD 1 0) 13 8 = 1) }

/-- What an answer of member i to a forward, an invalidation or a recall does here (R205): passed on to where it goes. -/
def State.memAnswer (s : State) (w : Msg) (d : List Byte) (pois : Bool) : State :=
  let l := w.line
  let s : State := { s with memWait := s.memWait.erase w }
  match w.kind with
  | .inv => s.send { src := w.dst, dst := s.ackTo l w.req, kind := .invAck, line := l, req := w.req }
  | .recall | .down => s.homeBack l (if d.isEmpty then none else some (d, pois))
  | .fwdS | .fwdX | .fwdU =>
    let g : Grant := match w.kind with | .fwdS => .s | .fwdX => .m | _ => .none
    let (d, pois) := if d.isEmpty then (s.msLine l, true) else (d, pois)
    s.send { src := s.homeNode l, dst := .ag w.req, kind := .data g, line := l, req := w.req, data := d, pois := pois, acks := w.acks, tag := w.tag, op := w.op }
  | _ => s

/-- The remote home's answer ends what a member's line waited for here (R217). -/
def State.remoteEnd (s : State) (l : Nat) (f : Dir → Dir) : State :=
  let d := s.dirOf l
  match d.txn with
  | none => s
  | some t => (({ s with dir := spIns s.dir l (f { d with txn := none }) }).homeAct t.msg).drainQueue l 64

/-- Close the transaction at the remote home (R208). -/
def State.remoteCmp (s : State) (l : Nat) : State := s.coh (s.memNode (l / 2 ^ 44 - 1)) false 10 (96 * (l % 2 ^ 44)) 0 [] false 0

/-- Data and acknowledgements for a request to a remote home (R205, R217): with all of them the module holds the line. -/
def State.remoteGot (s : State) (l : Nat) (t : Txn) (st : DS) : State :=
  match t.data with
  | none => s
  | some x => if t.acks ≠ 0 then s else (s.remoteCmp l).remoteEnd l fun (d : Dir) => { d with rem := st, rdat := some x }

/-- Is a member's line free of local traffic, but for a request of this module to its home (R217)? -/
def State.remQuiet (s : State) (l : Nat) : Bool :=
  decide ((s.dirOf l).opens = 0) && (match (s.dirOf l).txn with | some t => t.remote | none => true) && !(s.net.any fun m => m.line = l)

/-- The module gives a member's line up to its home's order: readable copies go, a copy whose ownership is asked for waits for data
(R205 note a). -/
def State.remDrop (s : State) (l : Nat) : State :=
  let s := (List.range 8).foldl (fun (s : State) k =>
    match s.cline k l with
    | none => s
    | some c => match c.st with
      | .m | .o | .e | .s => s.giveUp k l
      | .sm | .om => (((s.dropL1D k l none).dropL1I k l).killResvClu k l).setLine k l { c with st := .im, data := [], pg := false }
      | .eb => s.setLine k l { c with st := .sb, data := [] }
      | _ => s) s
  let d := s.dirOf l
  s.setDir l { d with st := .free, owner := .none, shr := 0, rem := .free, rdat := none }

/-- What the module holds of a member's line: the owner cluster's copy or what came from the home. -/
def State.remData (s : State) (l : Nat) : List Byte × Bool :=
  match s.ownerClu l with
  | some k => (match s.cline k l with | some c => (c.data, c.pois) | none => ([], false))
  | none => (match (s.dirOf l).rdat with | some x => x | none => ([], false))

/-- A forward, an invalidation or a recall of the remote home is obeyed (R205, R217). -/
def State.remObey (s : State) (m : Msg) : State :=
  let l := m.line
  let node := s.memNode (l / 2 ^ 44 - 1)
  let a := 96 * (l % 2 ^ 44)
  let (d, p) := s.remData l
  let d0 := s.dirOf l
  let own : Bool := decide (d0.rem = .em) || decide (d0.rem = .o)
  let back (s : State) (code : Nat) : State := s.coh node false code a 0 d p 0
  let keep (s : State) (m2e : Bool) : State := match s.ownerClu l with
    | some k => (match s.cline k l with
      | some c =>
        let st : LS := if m2e then (match c.st with | .m => .e | .o => .s | x => x) else (match c.st with | .m | .e => .o | x => x)
        let s := s.setLine k l { c with st := st }
        let s := if m2e then s else (List.range 9).foldl (fun (s : State) i => s.modCore (9 * k + i) fun (q : CoreS) =>
          { q with dc := (match spGet q.dc l with | some x => spIns q.dc l { x with st := .s } | none => q.dc) }) s
        let dd := s.dirOf l
        if m2e && decide (dd.st = .o) then s.setDir l { (dd.share (cluAg k) true) with st := .s, owner := .none, rdat := some (d, p) }
        else if m2e then s else s.setDir l { dd with st := .o }
      | none => s)
    | none => s
  match m.kind with
  | .fwdS => let s := keep (back s 6) false; s.setDir l { s.dirOf l with rem := .o }
  | .fwdU => back s 5
  | .fwdX => (back s 8).remDrop l
  | .inv => (s.coh node false 9 a 0 [] false 0).remDrop l
  | .recall => (if own then back s 8 else s.coh node false 9 a 0 [] false 0).remDrop l
  | _ =>
    let s := keep (if own then back s 8 else s.coh node false 9 a 0 [] false 0) true
    let dd := s.dirOf l
    if dd.rem = .o then s.setDir l { dd with rem := .s } else s

/-- Orders of remote homes that waited for their line (R217). -/
def State.fwdInGo (s : State) : State :=
  s.fwdIn.foldl (fun (s : State) m => if s.remQuiet m.line then ({ s with fwdIn := s.fwdIn.erase m }).remObey m else s) s

/-- A coherence response of member i reaches this module (R454): an order of the remote home, an answer to an order of this home,
or an answer to a request of this module. -/
def State.crsTake (s : State) (m : FMsg) (i : BitVec 4) : State :=
  let a := (m.words.getD 0 0).toNat
  let w1 := m.words.getD 1 0
  let code := fld w1 3 0
  let acks := fld w1 13 8
  let d := cohData m
  let key := (i.toNat + 1) * 2 ^ 44 + a / 96
  let ours := s.memWait.find? fun x => x.line = a / 96 ∧ x.dst = Node.ag (.member i)
  let order (k : MK) : State :=
    let o : Msg := { src := .ag (.member i), dst := s.homeNode key, kind := k, line := key, req := .member i }
    State.fwdInGo { s with fwdIn := s.fwdIn ++ [o] }
  let got (st : DS) : State :=
    match ours, (s.dirOf key).txn with
    | some w, _ => s.memAnswer w d m.pois
    | none, some t =>
      if !t.remote then s
      else if st = .free then
        -- an uncached copy, or a refusal: the requester is answered and nothing is recorded
        let sent := crqCode (remoteKind t.msg.kind)
        if m.status = 7 ∧ acks ≠ sent then s
        else
          let s := if sent ≤ 2 ∨ sent = 5 then s.remoteCmp key else s
          s.remoteOver key t d m.pois
      else
        let old := match (s.dirOf key).rdat with | some x => some x | none => none
        let x := if d.isEmpty then old.getD (List.replicate 96 0, false) else (d, m.pois)
        let t' : Txn := { t with data := some x, acks := acks - t.acks }
        let s : State := { s with dir := spIns s.dir key { s.dirOf key with txn := some t' } }
        s.remoteGot key t' st
    | none, none => s
  match code with
  | 0 => order .fwdS
  | 1 => order .fwdX
  | 2 => order .fwdU
  | 3 => order .inv
  | 4 => order (if acks = 1 then .down else .recall)
  | 5 => got .free
  | 6 => got .s
  | 7 | 8 => got .em
  | 9 =>
    (match ours, (s.dirOf key).txn with
    | some w, _ => s.memAnswer w [] false
    | none, some t =>
      if !t.remote then s
      else
        let t' : Txn := if t.data.isSome then { t with acks := t.acks - 1 } else { t with acks := t.acks + 1 }
        let s : State := { s with dir := spIns s.dir key { s.dirOf key with txn := some t' } }
        s.remoteGot key t' .em
    | none, none => s)
  | 10 => s.send { src := .ag (.member i), dst := s.homeNode (a / 96), kind := .cmp, line := a / 96, req := .member i }
  | 13 =>
    (match (s.dirOf key).txn with
    | some t =>
      if !t.remote then s
      else
        -- the back-off of R209, after which `resend` sends the request again
        let x : Msg := { src := s.homeNode key, dst := .ag (.member i), kind := .retry 0, line := key, req := .member i,
                         orig := some (remoteKind t.msg.kind), tries := t.msg.tries + 1 }
        { s.modTxn key (fun t => { t with msg := { t.msg with tries := t.msg.tries + 1 } }) with parked := s.parked ++ [x] }
    | none => s)
  | 14 =>
    (match (s.dirOf key).txn with
    | some t => s.send { src := s.homeNode key, dst := .ag t.msg.req, kind := .pend, line := key, req := t.msg.req }
    | none => s)
  | 15 =>
    (match (s.dirOf key).txn with
    | some t =>
      if !t.remote then s
      else (({ s with dir := spIns s.dir key { s.dirOf key with txn := none } }).homeDone t.msg).drainQueue key 64
    | none => s)
  | _ => s

/-- A coherence message is taken (R454). -/
def State.cohTake (s : State) (m : FMsg) (i : BitVec 4) : State := if m.typ = 8 then s.crqTake m i else s.crsTake m i

/-- CSEQ of a coherence message. -/
def cseqOf (m : FMsg) : Nat := fld (m.words.getD 1 0) 47 32

/-- Messages held back are taken as their turn comes (R454). -/
def State.cohNext (s : State) (src : BitVec 14) (i : BitVec 4) : Nat → State
  | 0 => s
  | n + 1 =>
    let want := spGetD 0 s.cseqRx src.toNat
    match s.cheld.find? fun m => m.src = src ∧ cseqOf m = want with
    | none => s
    | some m =>
      let s : State := { s with cheld := s.cheld.erase m, cseqRx := spPut 0 s.cseqRx src.toNat ((want + 1) % 65536) }
      (s.cohTake m i).cohNext src i n

/-- CRQ and CRS arrive (R454): in CSEQ order of their source; from a node outside the group they are discarded. The answer a router
gives to a discarded request carries no number. -/
def State.cohAt (s : State) (m : FMsg) : State :=
  match s.listed m.src with
  | none => s.event { code := 0x0B12, sev := 1, master := 0x500, pay := [(3, 4), (14, m.dst.toNat), (6, m.typ.toNat)] }
  | some i =>
    let s : State := { s with cheld := s.cheld ++ [m] }
    s.cohNext m.src (BitVec.ofNat 4 i) s.cheld.length

/-- LMW arrives (R453, R348): the line is stored while MIRIN accepts it from this node, and acknowledged. -/
def State.lmwAt (s : State) (m : FMsg) : State :=
  let v := s.rg (aElc 8)
  let o := (m.words.getD 0 0).toNat
  let d := lineBytes ((m.words.drop 2).take 16)
  let base := 0x900000000
  let place : Option Nat :=
    if o < 0x18000 then some (base + o + 0x18000)
    else if o < 0x100000 then none
    else
      let g := (o - 0x100000) / 0x60000
      if g < fld v 43 30 then some (base + 0x100000 + 0x60000 * (fld v 29 16 + g) + (o - 0x100000) % 0x60000) else none
  match place with
  | none => s
  | some a =>
    if v.getLsbD 14 ∧ v.extractLsb' 0 14 = m.src then
      ({ s with mirIn := spIns s.mirIn a d }).fab { typ := 0x11, dst := m.src, tag := m.tag }
    else s

/-- SBA reaches the root (R455): it counts arrivals for GEN and releases every node at COUNT. -/
def State.sbaAt (s : State) (m : FMsg) : State :=
  let w := m.words.getD 0 0
  let c := fld w 1 0
  let gen : BitVec 16 := w.extractLsb' 8 16
  let l := spGetD [] s.sbArr c ++ [(m.src, gen)]
  let here := l.filter fun (_, g) => g = gen
  if here.length = fld (s.rg (aSb c 0)) 28 14 then
    here.foldl (fun (s : State) (n, _) => let m : FMsg := { typ := 0x19, dst := n, words := [BitVec.ofNat 48 (c + gen.toNat * 256)] }; s.fab m)
      { s with sbArr := spPut [] s.sbArr c (l.filter fun (_, g) => g ≠ gen) }
  else { s with sbArr := spPut [] s.sbArr c l }

/-- SBR reaches a node (R455): WAIT clears, DONE sets, GEN counts. -/
def State.sbrAt (s : State) (c : Nat) (gen : BitVec 16) (aborted : Bool) : State :=
  let v := s.sbStat c
  if v.getLsbD 0 ∧ s.sbGen c = gen then
    let v := setFld (setBit v 4 aborted) 23 8 ((gen.toNat + 1) % 65536)
    (s.sg (aSb c 0x10) (setBit (setBit v 1 true) 0 false)).mbgStatus 1
  else s

/-- Management messages over a link (R456, R458, R459). -/
def State.mgtAt (s : State) (l : Nat) (m : FMsg) : State :=
  let w (i : Nat) : Word := m.words.getD i 0
  match (w 0).toNat with
  | 1 => s.helloAt l ((w 1).extractLsb' 0 14) (w 2) ((w 3).extractLsb' 0 3)
  | 2 => s.acceptAt l
  | 3 => s.linkReject l
  | 4 | 5 => if (s.lnk l).up then s.linkDown l else s
  | _ => s

/-- A message for this node is delivered (R445). -/
def State.deliver (s : State) (m : FMsg) : State :=
  match m.typ.toNat with
  | 1 | 2 | 3 | 0x14 => s.homeReq m
  | 4 => s.rspAt m
  | 5 => s.pndAt m
  | 8 | 9 => s.cohAt m
  | 0x10 => s.lmwAt m
  | 0x11 => s.mirAck m.tag
  | 0x18 => s.sbaAt m
  | 0x19 => let w := m.words.getD 0 0; s.sbrAt (fld w 1 0) (w.extractLsb' 8 16) (w.getLsbD 4)
  | _ => s

/-- Message commands bring one message to this node, its way over the links left out. -/
def State.fabRow (s : State) (typ : BitVec 6) (m : RMsg) : Res :=
  .next (if s.phase = .run then s.deliver { typ := typ, dst := s.node, src := m.src, tag := m.tag, status := m.status, pois := m.pois, words := m.words } else s)

def execRrd (m : RMsg) (s : State) : Res := s.fabRow 1 m
def execRwr (m : RMsg) (s : State) : Res := s.fabRow 2 m
def execRat (m : RMsg) (s : State) : Res := s.fabRow 3 m
def execRsp (m : RMsg) (s : State) : Res := s.fabRow 4 m
def execPnd (m : RMsg) (s : State) : Res := s.fabRow 5 m
def execCrq (m : RMsg) (s : State) : Res := s.fabRow 8 m
def execCrs (m : RMsg) (s : State) : Res := s.fabRow 9 m
def execLmw (m : RMsg) (s : State) : Res := s.fabRow 0x10 m
def execDbl (m : RMsg) (s : State) : Res := s.fabRow 0x14 m
def execSba (m : RMsg) (s : State) : Res := s.fabRow 0x18 m
def execSbr (c : BitVec 2) (gen : BitVec 16) (aborted : Bool) (s : State) : Res :=
  .next (if s.phase = .run then s.sbrAt c.toNat gen aborted else s)

/-- Buffered doorbells try to reserve again (R452). -/
def execDoorbellRetry (s : State) : Res := .next (if s.phase = .run then s.inqGo true else s)

/-- A flit arrives over a link (R437 to R439): its check, credits and LACK it brings, then its order; a sequenced flit is
delivered here, routed on, or handled as management of the link. -/
def State.flitAt (s : State) (l : Nat) (bs : List Byte) : State :=
  let hdr := leNat (bs.take 16)
  let h : BitVec 128 := BitVec.ofNat 128 hdr
  let okCrc : Bool := decide (leNat ((bs.drop 12).take 4) = (crc32c (bs.take 12 ++ bs.drop 16)).toNat)
  let nak (s : State) : State :=
    if (s.lnk l).nakW then s else (s.modLnk l fun (k : Lnk) => { k with nakW := true }).sendNull l true
  if !okCrc then nak (s.modLnk l fun (k : Lnk) => { k with crcN := satAdd 32 k.crcN 1 })
  else
    let typ : BitVec 6 := h.extractLsb' 32 6
    let lseq : BitVec 8 := h.extractLsb' 0 8
    let b := fld h 18 17 + 4 * fld h 19 19
    let s := (s.lackTo l (h.extractLsb' 8 8)).modLnk l fun (k : Lnk) => { k with used := spPut 0 k.used b (spGetD 0 k.used b - fld h 25 20) }
    let s := if h.getLsbD 16 then s.replayGo l else s
    if typ = 0 then s
    else if lseq ≠ (s.lnk l).rx + 1 then nak s
    else
      let s := s.modLnk l fun (k : Lnk) => { k with rx := lseq, nakW := false }
      let n := min (fld h 86 82) 24
      let ws := (List.range n).map fun w => leWord ((bs.drop (16 + 6 * w)).take 6)
      let m : FMsg := { typ := typ, dst := h.extractLsb' 38 14, src := h.extractLsb' 52 14, tag := h.extractLsb' 66 16,
                        status := h.extractLsb' 88 8, pois := h.getLsbD 87, words := ws }
      let f : Flit := { m := m, cl := h.getLsbD 28, dtr := fld h 31 29, inp := some (l, fld h 27 26 + 4 * b2n (h.getLsbD 28)) }
      if typ = 0x1C then (s.freeInp f).mgtAt l m
      else if fld h 27 26 ≠ 3 ∧ s.active l = false then s.freeInp f
      else { s with fabq := s.fabq ++ [f] }

def execFlitReceive (l : BitVec 3) (flit : List Byte) (s : State) : Res :=
  .next (if s.mbvLive = true ∧ (s.lnk l.toNat).up = true ∧ (s.lnk l.toNat).retr = false ∧ flit.length = 160 then s.flitAt l.toNat flit else s)

/-- One flit of the router moves, if it can (R442 to R444): to its destination here, over a link, or out. -/
def State.routeOne (s : State) (f : Flit) : State :=
  let gone : State := { s with fabq := s.fabq.erase f }
  if f.m.dst = s.node ∧ typOk f.m.typ then
    -- requests stay while too many wait at the home
    if isRequest f.m.typ ∧ f.m.typ ≠ 8 ∧ 64 ≤ (s.inq.filter fun x => !x.db).length then s
    else (gone.freeInp f).deliver f.m
  else match s.route f with
    | .wait => s
    | .drop r => gone.discard f r
    | .link l g => gone.linkSend l g

/-- The router moves every flit that can move, oldest first. -/
def State.routePump (s : State) : State := s.fabq.foldl (fun (s : State) f => if s.fabq.contains f then s.routeOne f else s) s

/-- MBG_STAT bits computed at a read (R463, R457): no link active; a disabled group still holds or lends lines. -/
def State.isolated (s : State) : Bool := (List.range s.part.links).all fun l => !s.active l
def State.draining (s : State) : Bool :=
  !(s.rg (aMs 0xC000)).getLsbD 4 &&
  s.dir.any fun (l, d) => decide (2 ^ 44 ≤ l) || decide (d.grp ≠ 0) || (match d.owner with | .member _ => true | _ => false)

/-- The Mbova block takes a line back from every local holder, and gives a member's line up to its home with it (R217). -/
def State.mbvRecall (s : State) (l : Nat) : State :=
  let m : Msg := { src := .ag (.unc mbvMaster), dst := s.homeNode l, kind := .clInv, line := l, req := .unc mbvMaster }
  if 2 ^ 44 ≤ l then s.startTxn m (s.dirOf l) true else s.homeAct m

/-- A disabled group's lines go home (R457): those of other members held here, and those they hold of this home. -/
def State.drainGroup (s : State) : State :=
  if (s.rg (aMs 0xC000)).getLsbD 4 then s
  else s.dir.foldl (fun (s : State) (l, d) =>
    let away := decide (2 ^ 44 ≤ l) || decide (d.grp ≠ 0) || (match d.owner with | .member _ => true | _ => false)
    if away && d.txn.isNone && decide (d.opens = 0) && s.quietLine l then s.mbvRecall l else s) s

/-- Leaving ends when every request has ended (R458): LEAVE goes out, the links go down, LEFT sets, event 0x0B30. -/
def State.leaveGo (s : State) : State :=
  match s.leaving with
  | none => s
  | some n0 =>
    if !s.rops.isEmpty then s
    else
      let up := (List.range s.part.links).filter fun l => s.active l
      let s := up.foldl (fun (s : State) l => (s.sendMgt l [5]).linkDown l) s
      let s : State := { s with leaving := none }
      (s.sg (aMbg 0x28) (setBit (s.rg (aMbg 0x28)) 0 true)).event { code := 0x0B30, sev := 1, master := 0x500, pay := [(24, s.ftos - n0)] }

/-- The tag parity of the remote-line directory (R485): an injection has an entry's lines recalled; no event is named. -/
def State.dirParity (s : State) : State :=
  match s.dir.find? fun (l, d) => 2 ^ 44 ≤ l ∧ d.txn = none ∧ d.opens = 0 ∧ s.quietLine l = true with
  | none => s
  | some (l, _) =>
    match s.injHit .mbg 0 0 with
    | none => s
    | some (inv, s) =>
      if inv % 2 = 0 then s
      else (s.capture { code := 0, sev := 0, cls := 1, blk := some .mbg, master := 0x500, acc := 5 }).mbvRecall l

/-- What the Mbova block does in a tick. -/
def State.mbovaTick (s : State) : State :=
  let s := if s.away then (s.rops.filter fun r => !r.sent).foldl (fun (s : State) r => s.ropEnd r 8 false []) s else s
  (((((s.dirParity).fwdInGo.inqGo false).drainGroup).rPump).routePump).leaveGo

/-- A remote requester is told Pending every 1 µs (R447), so its own time-out does not act. -/
def execRemotePendingTick (tag : BitVec 16) (s : State) : Res :=
  .next (match s.rops.find? fun r => r.tag = tag with
    | none => s
    | some r =>
      if s.ticks < r.pt + 25 ∨ (r.sent = true ∧ r.tick + 2500 ≤ s.ticks) then s
      else
        let s : State := { s with rops := s.rops.map fun (x : ROp) => if x.tag = tag then { x with pt := s.ticks } else x }
        match r.who with
        | .load p sn => s.modProc p fun (q : Proc) => { q with loads := q.loads.map fun (l : Load) => if l.sn = sn then { l with tick := s.ticks } else l }
        | .store p i => s.modProc p fun (q : Proc) => { q with slots := q.slots.map fun (x : Slot) =>
            if x.id = i then { x with ents := x.ents.map fun y => { y with tick := s.ticks } } else x }
        | _ => s)

/-- The master ID of a remote request's agent (R13); slot 64 is the manager's. -/
def RWho.master : RWho → Nat
  | .ops i => if i < 64 then i else 0x400
  | w => w.agent

/-- The fabric time-out (R447): event 0x0B10. A processor's access is left to its own time-out, everything else ends with
TARGET_DEAD. -/
def execFabricTimeout (tag : BitVec 16) (s : State) : Res :=
  .next (match s.rops.find? fun r => r.tag = tag with
    | none => s
    | some r =>
      if r.sent = false ∨ s.ticks < r.tick + 2500 then s
      else
        let s := ({ s with ftos := satAdd 24 s.ftos 1 }).event
          { code := 0x0B10, sev := 2, cls := 3, blk := some .mbg, master := 0x501, pay := [(14, r.msg.dst.toNat), (6, r.msg.typ.toNat), (12, r.who.master)] }
        match r.who with
        | .load _ _ | .store _ _ => (({ s with rops := s.rops.filter fun x => x.tag ≠ tag }).barTag tag true).rPump
        | _ => s.ropEnd r 8 false [])

/-- An operation slot's CMD (R451): while BUSY it is ignored and sets LOST; a bad address or a reserved OP completes at once. -/
def State.opCmd (s : State) (i : Nat) (node : BitVec 14) (op : Nat) : State :=
  let v := s.rg (aOp i 0x28)
  if v.getLsbD 0 then s.sg (aOp i 0x28) (setBit v 1 true)
  else
    let addr := s.rg (aOp i 0)
    let x := s.rg (aOp i 0x10)
    let c := s.rg (aOp i 0x18)
    let s := s.sg (aOp i 0x28) (setBit v 0 true)
    if op = 0 ∨ 4 < op ∨ (op ≠ 4 ∧ addr.toNat % 6 ≠ 0) then s.opDone i 4 none
    else if s.away then s.opDone i 8 none
    else if op = 4 then s.rIssue (.ops i) node 0x14 (2 ^ 48 + fld addr 8 0) [addr &&& 0x1FFF, x, c]
    else
      let inst := if i < 64 then (s.instOfProc (BitVec.ofNat 6 i)).getD 0 else 0
      s.rIssue (.ops i) node 3 (addr.toNat / 96) [addr, metaWord inst (if i < 64 then i else 0x400) op, x, c]

def State.opRow (s : State) (a : Via) (slot : BitVec 7) (node : BitVec 14) (op : Nat) : Res :=
  if slot.toNat ≤ 64 then s.onWrite a (aOp slot.toNat 8) fun s => s.opCmd slot.toNat node op else .next s

def execOpFadd (a : Via) (slot : BitVec 7) (node : BitVec 14) (s : State) : Res := s.opRow a slot node 1
def execOpSwap (a : Via) (slot : BitVec 7) (node : BitVec 14) (s : State) : Res := s.opRow a slot node 2
def execOpCas (a : Via) (slot : BitVec 7) (node : BitVec 14) (s : State) : Res := s.opRow a slot node 3
def execOpDoorbell (a : Via) (slot : BitVec 7) (node : BitVec 14) (s : State) : Res := s.opRow a slot node 4

/-- A write of ARRIVE (R455): the remote writes issued before it are waited for, then the root is told. -/
def State.sbArrive (s : State) (c : Nat) : State :=
  let v := s.sbStat c
  if v.getLsbD 0 then s.sg (aSb c 0x10) (setBit v 2 true)
  else
    let s := s.sg (aSb c 0x10) (setBit v 0 true)
    let tags := (s.rops.filter fun r => r.msg.typ ≠ 1).map fun r => r.tag
    if tags.isEmpty then s.sba c else { s with sbWait := spIns s.sbWait c tags }

def execArrive (a : Via) (c : BitVec 2) (s : State) : Res := s.onWrite a (aSb c.toNat 8) fun s => s.sbArrive c.toNat

/-- A write of ABORT at the root (R455): event 0x0B20. -/
def State.sbAbort (s : State) (c : Nat) : State :=
  if (s.rg (aSb c 0)).extractLsb' 0 14 ≠ s.node then s
  else
    let l := spGetD [] s.sbArr c
    let s := l.foldl (fun (s : State) (n, g) => let m : FMsg := { typ := 0x19, dst := n, words := [BitVec.ofNat 48 (c + 16 + g.toNat * 256)] }; s.fab m)
      { s with sbArr := spPut [] s.sbArr c [] }
    s.event { code := 0x0B20, sev := 2, master := 0x500, pay := [(2, c), (16, (s.sbGen c).toNat), (15, l.length)] }

def execSbAbort (a : Via) (c : BitVec 2) (s : State) : Res := s.onWrite a (aSb c.toNat 0x18) fun s => s.sbAbort c.toNat

/-- A write of 1 to MBG_CTL.LEAVE (R458): requests that have not left complete with TARGET_DEAD. -/
def State.leaveSet (s : State) : State :=
  if s.away then s
  else
    let s : State := { s with leaving := some s.ftos }
    (s.rops.filter fun r => !r.sent).foldl (fun (s : State) r => s.ropEnd r 8 false []) s

def execLeave (a : Via) (s : State) : Res := s.onWrite a (aMbg 0x20) fun s => s.leaveSet

end Sys2Proof.Machine
end

