-- ==== Sys2Proof/Machine/Tungsten.lean ====
section
/-!
DEFINITION. Tungsten persistence and the flush (spec 10): epochs (R258), the budget (R257), trips (R261, R532, R533), the
drain and the flush (R262 to R265), the hold-up check (R247, R248), block relocation (R253).
-/
namespace Sys2Proof.Machine

open Sys2Proof

/-- The imager's master ID, and that of the flusher and restorer (R13). -/
def imagerId : Nat := 0x700
def flusherId : Nat := 0x701

/-- Change Tungsten's books. -/
def State.modTun (s : State) (f : Tun → Tun) : State := { s with tun := f s.tun }

/-- EPOCH_MS in ticks (R273). -/
def State.epochTicks (s : State) : Nat := 25000 * fld (s.rg (aTun 0) 2) 9 0

/-- The next line of a stack that its sweep reaches with D set: its r and its index (R258). -/
def State.nextDirty (s : State) (st : Nat) : Option (Nat × Nat) :=
  s.dbits.foldl (fun (b : Option (Nat × Nat)) l =>
    let (h, r) := homeR s.part l
    let first : Bool := match b with | some (r', _) => decide (r < r') | none => true
    if decide (h = st) && decide ((s.stack st).sweep ≤ r) && first then some (r, l) else b) none

/-- The cut of the next epoch (R258): every sweep returns to line 0. -/
def State.cutEpoch (s : State) : State :=
  let e : Epoch := { n := s.tun.closed + 1, tick := s.ticks, ms := s.pew.ms, tbase := s.tb, dirty := s.dbits.length }
  let s := s.modTun fun t => { t with opened := some e, lastCut := some s.ticks, cutNow := false }
  (List.range s.part.stks).foldl (fun (s : State) st => s.modStack st fun k => { k with sweep := 0, sweeping := true }) s

/-- Does every processor stand at a boundary where it could take an interrupt (R154)? -/
def State.procsStopped (s : State) : Bool := (List.range 64).all fun p => !s.runs (BitVec.ofNat 6 p)

/-- May the next epoch be cut now (R258)? In FATAL only the final one, once the processors have stopped (R483). -/
def State.mayCut (s : State) : Bool :=
  s.tun.opened.isNone && (match s.phase with
    | .run => s.tun.cutNow || (match s.tun.lastCut with | some t => decide (t + s.epochTicks ≤ s.ticks) | none => true)
    | .fatal => (match s.tun.final with | some n => decide (s.tun.closed < n) && s.procsStopped | none => false)
    | _ => false)

/-- Does the imager work (R262: a flush stops it)? -/
def State.imagerOn (s : State) : Bool := decide (s.phase = .run ∨ s.phase = .fatal)

/-- The imager's request for a line reaches its home (R258): D and every PG of the line clear, and a store that waits with a
grant needs another one (R255). -/
def State.captureMark (s : State) (l : Nat) : State :=
  let s := (List.range 8).foldl (fun (s : State) k => match s.cline k l with
    | some c => if c.pg then s.setLine k l { c with pg := false } else s
    | none => s) s
  let waits (x : Slot) : Bool := x.granted && x.ents.any fun y => y.e.persist && decide (y.st = .waiting) && decide (s.entryLine y.e = some l)
  { s with dbits := s.dbits.erase l, procs := s.procs.map fun (n, (q : Proc)) =>
      (n, { q with unclosed := if q.unclosed.contains l then insNat (q.unclosed.erase l) (l + 2 ^ 60) else q.unclosed,
                   slots := q.slots.map fun x => if waits x then { x with granted := false } else x }) }

/-- The captured data goes into a fresh block of the open epoch (R258 step 3). -/
def State.captured (s : State) (st l : Nat) (d : List Byte) (p : Bool) : State :=
  let (bad, s) := s.tungInj
  (s.modTun fun t => { t with opened := t.opened.map fun e =>
    { e with lines := spIns e.lines l (d, p), unc := if bad then insNat e.unc l else e.unc.erase l } }).modStack st fun k => { k with capt := none }

/-- The imager captures the next dirty line of a stack (R258): its RdU reads the line where it is, from a cluster, the host or a member
that owns it too. -/
def State.capture1 (s : State) (st : Nat) : State :=
  let me : Agent := .unc (BitVec.ofNat 12 imagerId)
  let take (s : State) (l : Nat) : State := match s.lineRead l me with
    | (some (d, p), s) => s.captured st l d p
    | (none, s) => s
  if s.tun.opened.isNone then s
  else match (s.stack st).capt, s.nextDirty st with
  | some l, _ => take s l
  | none, some (r, l) => take ((s.captureMark l).modStack st fun k => { k with sweep := r + 1, capt := some l }) l
  | none, none => s

def execImagerCapture (st : BitVec 3) (s : State) : Res := .next (if s.imagerOn ∧ st.toNat < s.part.stks then s.capture1 st.toNat else s)

/-- Lines replace their image copies (R258 step 4). -/
def Tun.write (t : Tun) (ls : Sp (List Byte × Bool)) (unc : List Nat) : Tun :=
  ls.foldl (fun (t : Tun) (l, d, p) =>
    { t with img := spPutBytes 0 t.img (96 * l) d, imgP := if p then insNat t.imgP l else t.imgP.erase l,
             imgU := if unc.contains l then insNat t.imgU l else t.imgU.erase l }) t

/-- An epoch closes with its commit record (R258 step 4, R259). -/
def State.commitEpoch (s : State) (e : Epoch) : State :=
  let (bad, s) := s.tungInj
  let c : Commit := { seq := e.n, ms := e.ms, pcyc := s.pew.pcyc, tbase := e.tbase, base := e.lines.length, groups := e.dirty, lines := mibLines s.effMib, mapver := s.tun.mapver + 1, ok := !bad }
  s.modTun fun t => { (t.write e.lines e.unc) with ring := spIns t.ring (e.n % 1024) c, closed := e.n, mapver := t.mapver + 1, opened := none }

/-- The epoch closes once every sweep has ended. -/
def State.closeEpoch (s : State) : State :=
  match s.tun.opened with
  | none => s
  | some e =>
    if (List.range s.part.stks).any fun st => (s.nextDirty st).isSome || (s.stack st).capt.isSome then s
    else
      let s := (List.range s.part.stks).foldl (fun (s : State) st => s.modStack st fun k => { k with sweeping := false }) (s.commitEpoch e)
      { s with procs := s.procs.map fun (n, (q : Proc)) => (n, { q with unclosed := q.unclosed.filter fun l => l < 2 ^ 60 }) }

def execEpochClose (s : State) : Res := .next (if s.imagerOn then s.closeEpoch else s)

/-- A write of TUN_CTL.CUT (R273). -/
def State.tunCut (s : State) : State := if s.phase = .run then s.modTun fun t => { t with cutNow := true } else s

def execTunCut (a : Via) (s : State) : Res := s.onWrite a (aTun 0) fun s => s.tunCut

/-- TUN_PSTAT (R273). -/
def State.pstat (s : State) : Word := s.rg (aTun 0x40)

/-- Class maximum budgets in MiB (R246). -/
def classMax (c : Nat) : Nat := [48, 48, 96, 192, 384, 512, 640, 768].getD c 48

/-- The effective budget follows HUP, MIB and MAX (R247); STATUS.BUDGET tells a change (R273). -/
def State.setEff (s : State) : State :=
  let v := s.rg (aTun 8) budgetReset
  let e := if s.pstat.getLsbD 3 then min (fld v 9 0) (fld v 25 16) else 48
  if e = fld v 41 32 then s else (s.sg (aTun 8) (setFld v 41 32 e) budgetReset).tunStatus 2

/-- A write of TUN_BUDGET (R257). -/
def State.budgetWrite (s : State) (v : Word) : State :=
  (s.sg (aTun 8) (writeFlds false (s.rg (aTun 8) budgetReset) v [rwIn 9 0 48 768]) budgetReset).setEff

def execTunBudgetWrite (a : Via) (v : BitVec 48) (s : State) : Res := s.onWrite a (aTun 8) fun s => s.budgetWrite v

def execTunSnapReq (a : Via) (s : State) : Res := s.onWrite a (aTun 0x10) fun s => (s.sg (aTun 0x10) 0).snapReq .tun

/-- TUN_WEAR as it stands (R253, R273): the mean is open, the highest block count exceeds it by less than 2¹⁶ writes, so by at most
one unit. -/
def State.wearNow (s : State) : Nat :=
  let x := (Config.freeWord s.free).toNat
  let mean := x % (2 ^ 24 - 1)
  mean * 2 ^ 24 + mean + x / 2 ^ 24 % 2

/-- FLUSH_DONE rises with a progress code (R262, R530). -/
def State.flushSignal (s : State) (code : Nat) : State :=
  (s.modTun fun t => { t with pcode := BitVec.ofNat 3 code, done := true }).out (.value 5 (code + 8))

/-- A trip (R261, R533): from Run the flush header is written, with the version that the open epoch's writes would have (R259) and a size
of the machine-state section that is firmware's own (a free value within its room, R264), and the neighbours hear GONE (R459); before the release no flush is
needed; in FATAL code 7 comes at once (R483); a flush under way goes on (R539). -/
def State.trip (s : State) (trig : Nat) : State :=
  match s.phase with
  | .run =>
    let f : FlushRec := { seq := s.tun.flushSeq + 1, ms := s.pew.ms, pcyc := s.pew.pcyc, tbase := s.tb, base := s.tun.closed, trig := trig,
                            mapver := s.tun.mapver + 1, state := Config.freeNat s.free % 0xFFF41 }
    let s := (List.range s.part.links).foldl (fun (s : State) l => if s.active l then s.sendMgt l [4] else s) s
    let s : State := { s.tick1 with phase := .flush }
    (s.modTun fun t => { t with flush := some f, flushSeq := f.seq, flushAt := s.ticks, pcode := 1, done := false, checking := false }).out (.value 5 1)
  | .boot | .nores => ({ s with phase := .flushed } : State).flushSignal 0
  | .fatal => s.flushSignal 7
  | _ => s

/-- PFAIL_N low (R532): from 80 ns a trip, below 40 ns none, between the two either. -/
def execPfailTrip (ns : Nat) (s : State) : Res :=
  .next (if 80 ≤ ns then s.trip 1
    else if ns < 40 then s
    else if Config.freeNat s.free % 2 = 0 then s.tick1.trip 1 else s.tick1)

/-- VHOLD below 11.0 V (R261). -/
def execVholdTrip (mv : Nat) (s : State) : Res := .next (if mv < 11000 then s.trip 2 else s)

/-- A write of TUN_CTL.PFLUSH (R266); before RUN the write is discarded (R301). -/
def execTunPflush (a : Via) (s : State) : Res := s.onWrite a (aTun 0) fun s => if s.phase = .run then s.trip 3 else s

/-- The largest time from trip to commit in µs (R265). -/
def flushLimit (n : Nat) : Nat := 300 + n * 100 / 48000

/-- A flush still running at T_F (R265). -/
def execFlushDeadlineMiss (s : State) : Res :=
  .next (if s.phase = .flush then s.modTun fun t => { t with flush := t.flush.map fun f => { f with missed := true } } else s)

/-- A flush that cannot go on (R265, R532): code 7. -/
def State.flushAbort (s : State) : State := if s.phase = .flush then ({ s with phase := .flushed } : State).flushSignal 7 else s

/-- Bytes that are still on their way to the main store merge into their line. -/
def State.land (s : State) (l : Nat) (bs : List Host.Cell) (pois : Bool) : State :=
  if s.part.msLines ≤ l then s else s.pokeLine l bs pois

/-- A processor's stores that have not reached a cache or their home do so, in order (R262); a persist-class one sets D, every held grant
being given (R263). Stores under way to other targets are dropped and counted (R459). -/
def State.drainProc (s : State) (p : BitVec 6) : State :=
  let q := s.proc p
  let ofSb := q.sb.filterMap fun x => match x with | .entry e => some e | .marker _ _ => none
  let ofComb := q.comb.map fun c =>
    let e : Entry := { sn := c.sn, space := 0, node := 0, seg := c.seg, acc := 2, persist := c.persist, comb := true, bytes := c.bytes }
    e
  let waiting : List Entry := q.slots.flatMap fun x => (x.ents.filter fun y => y.st = .waiting).map fun y => y.e
  let s := ((waiting ++ ofSb ++ ofComb).filter fun e => e.space = 0).foldl (fun (s : State) e =>
    let l := e.at_ / 96
    let s : State := if e.persist then { s with dbits := insNat s.dbits l } else s
    s.land l e.rel false) s
  let s := (q.slots.filter fun x => x.entries.any fun e => e.space ≠ 0).foldl (fun (s : State) x => s.dropSlot p x) s
  let keep (x : SbItem) : Bool := match x with | .entry e => decide (e.space ≠ 0) | .marker _ _ => true
  s.modProc p fun q => { q with slots := [], comb := [], sb := q.sb.filter keep, resv := none, resvFor := none, backoff := none, cmos := 0 }

/-- A message that carries a copy on its way back to the main store: a write-back that the home will accept (R205), the data a recall
brought. -/
def State.drainBack (s : State) (m : Msg) : State :=
  let go : State := if m.data = [] then s.land m.line m.bytes m.pois else s.land m.line (cellsAt 0 m.data) m.pois
  match m.kind with
  | .wb _ => if (s.dirOf m.line).owns m.req then go else s
  | .back => go
  | _ => s

/-- A write that stands before its home reaches the main store after what its transaction collects (R205); it is a persist write
(R254). -/
def State.drainWrite (s : State) (m : Msg) : State :=
  match m.kind with
  | .wrF | .wrP =>
    ({ s with dbits := if m.line < s.part.msLines then insNat s.dbits m.line else s.dbits } : State).land m.line
      (if m.data = [] then m.bytes else cellsAt 0 m.data) m.pois
  | _ => s

/-- Messages under way, in the order in which their homes would meet them. -/
def State.onTheWay (s : State) : List Msg :=
  s.dir.filterMap (fun (_, d) => d.txn.map fun t => t.msg) ++ (List.range 9).flatMap (fun st => (s.stack st).queue) ++ s.net ++ s.parked

/-- Every cache drains to the main store, carrying poison (R198, R262), and is empty afterwards; open transactions end with it. A copy
in flight goes first: what stands in a cache is newer (R205). -/
def State.drainCaches (s : State) : State :=
  let late := s.onTheWay
  let s := late.foldl State.drainBack s
  let moving := s.net.filter fun m => (m.kind = .data .m ∨ m.kind = .data .e) ∧ m.data ≠ []
  let s := moving.foldl (fun (s : State) m => if m.line < s.part.msLines then s.arrayLine m.line m.data m.pois else s) s
  let dirty (c : CLine) : Bool := match c.st with | .m | .o | .sm | .om | .ma => decide (c.data ≠ []) | _ => false
  let s := (List.range 8).foldl (fun (s : State) k => (s.clu k).lines.foldl (fun (s : State) (l, _) =>
    if decide (s.ownerClu l = some k) && decide (l < s.part.msLines) then
      let s := s.checkLine k l
      (match s.cline k l with
      | some c => if dirty c then s.arrayLine l c.data c.pois else s
      | none => s)
    else s) s) s
  let clear (q : Clu) : Clu := { q with lines := [], search := none }
  let s : State := { s with clus := s.clus.map fun (k, q) => (k, clear q), cores := [], net := [], parked := [], memWait := [], noCmp := [], dir := [],
                            bisnp := [], fwdIn := [], stks := s.stks.map fun (n, (k : Stack)) => (n, { k with queue := [], resv := [] }) }
  late.foldl State.drainWrite s

/-- Writes of the host that its link has delivered and no home has met (R263, R318). -/
def State.drainHost (s : State) : State :=
  s.cxl.reqs.foldl (fun (s : State) (r : HReq) =>
    let left := r.todo ++ (if r.held then r.cur.toList else [])
    if !r.writes then s
    else left.foldl (fun (s : State) l =>
      ({ s with dbits := if l < s.part.msLines then insNat s.dbits l else s.dbits } : State).land l
        ((r.bytes.filter fun (a, _) => a / 96 = l).map fun (a, b) => (a % 96, b)) r.pois) s) s

/-- Waiting control jobs of a cluster end with the caches empty (R198); a stopped range job runs again from the start of its range after
the resume. -/
def State.settleJobs (s : State) (k : Nat) : State :=
  let range : Option Job := match (s.clu k).job with
    | some j => (match j.k with
      | .range _ _ _ => some { k := j.k, master := j.master, byProc := j.byProc }
      | _ => none)
    | none => none
  let s := if range.isSome then s.modClu k fun q => { q with job := none } else s.maintEnd k
  let s := (s.clu k).ctlq.foldl (fun (s : State) _ => (s.ctlStart k).maintEnd k) s
  s.modClu k fun q => { q with job := range }

/-- The drain of a flush or of FATAL (R262 steps 1 and 2, R483 step 3): held grants are granted, a capture that has no data yet is undone,
what is in flight, every cache and the processors' stores reach the main store; engines, their operations and what moved on the links
end. -/
def State.drainAll (s : State) : State :=
  let held := (List.range 8).flatMap fun st => (s.stack st).held
  let capt := (List.range 8).filterMap fun st => (s.stack st).capt
  let s : State := { s with dbits := (held.map (fun x => x.1) ++ capt).foldl (fun m l => if l < s.part.msLines then insNat m l else m) s.dbits,
                            stks := s.stks.map fun (n, (k : Stack)) => (n, { k with held := [], capt := none }) }
  let s := ((s.stallEnd).drainCaches).drainHost
  let s := (List.range 64).foldl (fun (s : State) p => if s.hasProc (BitVec.ofNat 6 p) then s.drainProc (BitVec.ofNat 6 p) else s) s
  let s := (List.range 8).foldl State.settleJobs s
  let s : State := { s with eng := s.eng.map fun (n, (g : Engine)) => (n, { g with run := none, parked := [], bufs := [] }),
                            cobs := [], zns := [], kcmd := none, rops := [], inq := [], fabq := [], mirw := [], abt := none,
                            imgW := none, bpW := none, snaps := [], sbWait := [] }
  let t : Cxl := { s.cxl with reqs := [], dcache := [] }
  { s with cxl := t }

/-- Registers that the machine-state section keeps (R155, R198, R499, R245): lines, CC[k], the routing fields of R139, mailboxes,
clock settings. -/
def machReg (a : Nat) : Bool :=
  match locate a with
  | .clu _ o => decide (0x100 ≤ o ∧ o < 0x280) || decide (o = 0x428)
  | .cc _ o => decide (o < 0x100)
  | .tun o => decide (o = 0x50)
  | .cxl o => decide (o = 0x20)
  | .chq o => decide (0x1000 ≤ o ∧ o % 0x40 = 0x38)
  | .elc o => decide (o = 0x50)
  | .cob o => decide (o = 0x80)
  | .mbg o => decide (o = 0x40)
  | .brs o => decide (o = 0x818)
  | .pew o => decide (o = 8)
  | .vi _ o => decide (0x100 ≤ o ∧ o < 0x158) || decide (0x180 ≤ o ∧ o < 0x1D8) || decide (o = 0x1E8)
  | .clk o => decide (0x1000 ≤ o)
  | _ => false

/-- Of a routing register only the line, cluster and enable fields are kept (R155): FLT_INT has a second enable, MEN (R487), TUN_INT one
for each STATUS bit, SRC (R273). -/
def machMask (a : Nat) : Word :=
  match locate a with
  | .brs 0x818 => 0x2003FF
  | .tun 0x50 => 0x703FF
  | .tun _ | .cxl _ | .chq _ | .elc _ | .cob _ | .mbg _ | .brs _ | .pew _ => 0x3FF
  | _ => 0xFFFFFFFFFFFF

/-- A processor as the machine-state section keeps it (R153, R154): one that ran or waited is to take the resume notice; a pause of the
sparing controller is kept with it (R289). A load without data asks its target again after the resume. -/
def Proc.forFlush (q : Proc) : Proc :=
  let q : Proc := { q with bar := none, loads := q.loads.map fun x => { x with asked := false, ans := false },
                           routine := q.routine.map fun r => { r with far := [] } }
  match q.run with
  | .running | .waiting | .halted => { q with resume := some 0, resumeMr := q.routine.any fun r => r.started }
  | _ => q

/-- The machine-state section (R262, R488). -/
def State.save0 (s : State) : Saved :=
  { tick := s.ticks, tb := s.tb, procs := s.procs.map fun (n, q) => (n, q.forFlush), clus := s.clus,
    dev := (s.dev.filter fun (a, _) => machReg a).map fun (a, v) => (a, v &&& machMask a),
    qs := s.qs, fe := s.fe, pewq := s.pew.queue, buckets := s.pew.buckets, icont := s.icont }

/-- A progress code of the flush on the sideband lines (R262). -/
def State.progress (s : State) (code : Nat) : State :=
  (s.modTun fun t => { t with pcode := BitVec.ofNat 3 code }).out (.value 5 code)

/-- The drain of FATAL (R483 step 3), after which no processor runs. -/
def State.fatalDrain (s : State) : State :=
  let s := s.drainAll
  { s with procs := s.procs.map fun (n, (q : Proc)) => (n, if q.runs then { q with run := .stopped, stopReq := none } else q) }

/-- The cut that is due (R258): in FATAL it is that of the final epoch, which follows the drain (R483 step 4). -/
def State.cutDue (s : State) : State :=
  if s.phase = .fatal then s.fatalDrain.cutEpoch else s.cutEpoch

def execEpochCut (s : State) : Res := .next (if s.mayCut then s.cutDue else s)

/-- The flush commits (R262 to R265) once the processors have stopped: the drain, the machine-state section, the groups, the commit record,
each with its progress code; then FLUSH_DONE. -/
def State.flushCommit (s : State) (us : Nat) : State :=
  match s.phase, s.tun.flush with
  | .flush, some f =>
    if !s.procsStopped then s
    else
    let s := ((((s.progress 2).drainAll).progress 3).progress 4).progress 5
    let n := s.dbits.length
    let ls : Sp (List Byte × Bool) := s.dbits.map fun l => (l, s.msLine l, s.linePois l)
    let (bad, s) := s.tungInj
    let f : FlushRec := { f with committed := true, unc := if bad then s.dbits.take 1 else [], ok := !bad || !s.dbits.isEmpty, fus := us, missed := f.missed || decide (flushLimit n < us), lines := ls, tbase := s.tb }
    let m := s.save0
    let s : State := { s with saved := some m, phase := .flushed }
    (s.modTun fun t => { t with flush := some f }).flushSignal 6
  | _, _ => s

/-- A write of TUN_CTL.RECHECK (R248): one check at a time. -/
def execTunRecheck (a : Via) (s : State) : Res :=
  s.onWrite a (aTun 0) fun s => if s.phase = .run then s.modTun fun t => { t with checking := true } else s

/-- The hold-up check (R247): the class, VHOLD, the rehearsal's time; HUP, HFAIL and the effective budget follow, a failure is event
0x0413. A rehearsal, which a check makes once class and VHOLD are good, leaves the flush area full of fill. -/
def State.holdUp (s : State) (mv us : Nat) : State :=
  let hf := if fld s.pstat 2 0 = 0 then 1 else if mv < 11400 then 2 else if 22400 < us then 3 else 0
  let s := s.sg (aTun 0x40) (setBit (setFld s.pstat 6 4 hf) 3 (decide (hf = 0)))
  let fill : Bool := decide (hf = 0 ∨ hf = 3)
  let s := (s.modTun fun t => { t with checking := false, flush := if fill then none else t.flush }).setEff
  if hf = 0 then s
  else s.event { code := 0x0413, sev := 3, blk := some .tun, master := 0x603, pay := [(3, hf), (16, mv)] }

def execHoldUpCheck (mv us : Nat) (s : State) : Res :=
  .next (if (s.phase = .boot ∨ s.phase = .run) ∧ s.tun.checking = true then s.holdUp mv us else s)

/-- A physical block is rewritten (R253): the remapping changes, loads of space 1 behind it hear Pending (R251). How many spare blocks
are left is open; fewer than 1 % set WEARWARN and are event 0x0415. -/
def State.relocate (s : State) : State :=
  let x := Config.freeNat s.free
  let s := (s.tick1).modTun fun t => { t with mapver := t.mapver + 1 }
  let wait (l : Load) : Load := if l.space = 1 ∧ l.asked = true then { l with ans := true } else l
  let s : State := { s with procs := s.procs.map fun (n, (q : Proc)) => (n, { q with loads := q.loads.map wait }) }
  let spares := (if s.part = .cx then 13245 else 19389) * 16
  if 100 * x < spares ∧ (s.rg (aTun 0x58)).getLsbD 1 = false then
    (s.tunStatus 1).event { code := 0x0415, sev := 2, master := 0x603, pay := [(24, x)] }
  else s

def execBlockRelocation (_unit : Nat) (s : State) : Res := .next (if s.phase = .run then s.relocate else s)

end Sys2Proof.Machine
end

