-- ==== Sys2Proof/Machine/Faults.lean ====
section
/-!
DEFINITION. The Brass triad and the fault machinery (spec 18): votes and rotations (R466 to R471), claims (R479), escalation and
containment (R477, R480, R481), FATAL (R483), quiet exits (R484), injections (R485).
-/
namespace Sys2Proof.Machine

open Sys2Proof

/-- BRS_STAT and BRS_CLAIM (R486, R487). -/
def State.brsStat (s : State) : Word := s.rg (aBrs 0) 0x1C0
def State.setBrs (s : State) (v : Word) : State := s.sg (aBrs 0) v 0x1C0
def State.brsClaim (s : State) : Word := s.rg (aBrs 8) 0xFEFDFC

/-- The claim number of a unit (R467). -/
def State.claimOf (s : State) (u : Nat) : Nat := fld s.brsClaim (8 * u + 7) (8 * u)

/-- Is unit u voting, standby, failed (R487)? -/
def State.votes (s : State) (u : Nat) : Bool := decide (u < 3) && s.brsStat.getLsbD (6 + u)
def State.standby (s : State) (u : Nat) : Bool := decide (u < 3) && s.brsStat.getLsbD (9 + u)
def State.voters (s : State) : List Nat := (List.range 3).filter s.votes

/-- CFG of a number of voting units (R466). -/
def cfgOf (n : Nat) : Nat := 3 - n

/-- Change bit u of a field of BRS_STAT; CFG follows the vote. -/
def State.brsBit (s : State) (lo u : Nat) (b : Bool) : State :=
  let v := setBit s.brsStat (lo + u) b
  s.setBrs (setFld v 5 4 (cfgOf (popFld v 8 6)))

/-- Change the triad's books. -/
def State.modBrs (s : State) (f : Brass → Brass) : State := { s with brs := f s.brs }

/-- A unit leaves the vote (R468): a switch-over. -/
def State.stepOut (s : State) (u : Nat) : State := (s.brsBit 6 u false).modBrs fun b => { b with switches := satAdd 16 b.switches 1 }

/-- A unit that was voted out is tested by the voting units (R469). -/
def State.votedOut (s : State) (u : Nat) : State := (s.stepOut u).modBrs fun b => { b with test := setBit b.test u true }

/-- The module enters FATAL (R483 steps 1 to 3): event 0x0C08, viral and GONE leave, each processor stops at its next interruptible
boundary, the final epoch is to be cut after the drain; a rotation is abandoned (R488). -/
def State.enterFatal (s : State) (cause code : Nat) : State :=
  if s.phase = .fatal then s
  else
    let fin := (match s.tun.opened with | some e => e.n | none => s.tun.closed) + 1
    let s := s.event { code := 0x0C08, sev := 3, cls := 5, blk := some .brs, master := 0x603, pay := [(4, cause), (16, code), (48, fin)] }
    let s := s.sg (aBrs 0x838) (BitVec.ofNat 48 (code * 2 ^ 32 + cause))
    let s := (s.setBrs (setBit s.brsStat 3 false)).modBrs fun b => { b with rot := none, out := none }
    let s := (s.out (.value 6 1))
    let s := (List.range s.part.links).foldl (fun (s : State) l => if s.active l then s.sendMgt l [4] else s) s
    ({ s with phase := .fatal } : State).modTun fun t => { t with final := some fin, checking := false }

/-- A duplex disagreement (R468): the lower claim number is voted out, a standby unit joins, or the triad is simplex. -/
def State.duplexSettle (s : State) (a b : Nat) : State :=
  let (win, lose) := if s.claimOf a < s.claimOf b then (b, a) else (a, b)
  let s := (s.votedOut lose).modBrs fun x => { x with disag := satAdd 16 x.disag 1 }
  let s := s.event { code := 0x0C02, sev := 3, cls := 2, blk := some .brs, master := 0x600 + win, pay := [(2, win), (2, lose), (24, s.brsClaim.toNat)] }
  match (List.range 3).find? s.standby with
  | some u => (s.brsBit 9 u false).brsBit 6 u true
  | none => s.event { code := 0x0C03, sev := 3, cls := 2, blk := some .brs, master := 0x600 + win, pay := [(2, win)] }

/-- Do the voters and their outputs act now: the triad runs from PWROK until power goes? -/
def State.brassOn (s : State) : Bool := match s.phase with | .boot | .run | .nores | .flush | .fatal => true | _ => false

/-- The voters compare the outputs of the voting units (R468). -/
def State.compareVotes (s : State) (vs : List Nat) : State :=
  let v (u : Nat) : Nat := vs.getD u 0
  match s.voters with
  | [a, b, c] =>
    let odd (u : Nat) : State :=
      let s := s.votedOut u
      s.event { code := 0x0C01, sev := 2, cls := 2, blk := some .brs, master := 0x603, pay := [(2, u), (8, v u), (2, 1)] }
    if v a = v b ∧ v b = v c then s
    else if v a = v b then odd c
    else if v a = v c then odd b
    else if v b = v c then odd a
    else s.enterFatal 2 0x0C08
  | [a, b] => if v a = v b then s else s.duplexSettle a b
  | _ => s

def execVoterDisagreement (v0 v1 v2 : BitVec 8) (s : State) : Res :=
  .next (if s.brassOn then s.compareVotes [v0.toNat, v1.toNat, v2.toNat] else s)

/-- An injection on a unit's output acts at the next comparison that sees it (R485): voted as in R468. -/
def State.brassInj (s : State) : State :=
  (List.range 3).foldl (fun (s : State) u =>
    if s.votes u then
      match s.injHit .brs 0 u with
      | some (_, s) => s.compareVotes ((List.range 3).map fun x => b2n (x = u))
      | none => s
    else s) s

/-- A unit's internal check fires (R467, R468). -/
def State.brassCheck (s : State) (u : Nat) : State :=
  let c := s.claimOf u
  let s := s.sg (aBrs 8) (setFld s.brsClaim (8 * u + 7) (8 * u) (if 4 ≤ c then c - 4 else c)) 0xFEFDFC
  if s.voters = [u] then s.enterFatal 3 0x0C08 else s

def execBrassInternalCheck (u : BitVec 2) (s : State) : Res := .next (if u.toNat < 3 ∧ s.brassOn = true then s.brassCheck u.toNat else s)

/-- A rotation ends (R470). -/
def State.rotEnd (s : State) : State :=
  let b := s.brs
  let s := s.setBrs (setFld (setBit s.brsStat 3 false) 47 40 0)
  let s := s.modBrs fun b => { b with rot := none, out := none, hours := 0, hourT := s.ticks, rots := satAdd 16 b.rots 1 }
  s.event { code := 0x0C06, sev := 1, master := 0x603, pay := [(2, b.tested), (2, b.failed)] }

/-- The rotation goes on to the next unit, or ends. -/
def State.rotNext (s : State) (u : Nat) : State :=
  let s := s.modBrs fun b => { b with out := none, rot := some (u + 1) }
  if u = 2 then s.rotEnd else s

/-- A unit's self-test ends (R469, R470): within a rotation it rejoins the vote, otherwise it becomes standby; or it failed. A
unit that passes is resynchronised, event 0x0C04, in both cases (DEDUCED, log 101). -/
def State.brassTested (s : State) (u : Nat) (pass : Bool) : State :=
  let back (s : State) : State := s.event { code := 0x0C04, sev := 1, master := 0x603, pay := [(2, u)] }
  let fail (s : State) : State :=
    ((s.brsBit 12 u true).brsBit 9 u false).event { code := 0x0C05, sev := 2, master := 0x603, pay := [(2, u), (1, b2n pass)] }
  if s.brs.out = some (BitVec.ofNat 2 u) then
    let s := s.modBrs fun b => { b with tested := b.tested + 1, failed := b.failed + b2n (!pass) }
    let s := if pass then back (((s.brsBit 12 u false).brsBit 9 u false).brsBit 6 u true).brassInj else fail s
    s.rotNext u
  else if s.brs.test.getLsbD u then
    let s := s.modBrs fun b => { b with test := setBit b.test u false }
    if pass then back ((s.brsBit 12 u false).brsBit 9 u true) else fail s
  else s

def execUnitSelfTestComplete (u : BitVec 2) (pass : Bool) (s : State) : Res :=
  .next (if u.toNat < 3 ∧ s.brassOn = true then s.brassTested u.toNat pass else s)

/-- Who reaches FE_CLAIM, FE_STAT, FE_INJ and the FLT and BRS blocks (R478): the manager, or a processor with system-register
access. -/
def State.feMay (s : State) (a : Via) (off : Nat) : Bool :=
  s.viaReach a off && (match a with
    | .pf => true
    | .proc p => (match s.instOfProc p with | some i => (s.inst i).sysr | none => false)
    | .vf _ => false)

/-- Act on a register that R478 guards. -/
def State.onFlt (s : State) (a : Via) (off : Nat) (f : State → State) : Res := .next (if s.feMay a off then f s else s)

/-- A write of BRS_ROTATE (R470, R488). -/
def State.rotate (s : State) : State :=
  if s.brsStat.getLsbD 3 then s.setBrs (setBit s.brsStat 15 true)
  else (s.setBrs (setBit s.brsStat 3 true)).modBrs fun b => { b with rot := some 0, out := none, tested := 0, failed := 0 }

def execRotate (a : Via) (v : BitVec 48) (s : State) : Res := s.onFlt a (aBrs 0x10) fun s => if v.getLsbD 0 then s.rotate else s

/-- Does a sequence run that defers a step of the rotation (R470)? -/
def State.sparingRuns (s : State) : Bool := (List.range 8).any fun k => (s.clu k).sparing.any fun t => !t.bg

/-- The next unit steps out for its test (R470). The only voting unit stays: it could not be tested without leaving no vote. -/
def State.rotStep (s : State) : State :=
  match s.brs.rot with
  | none => s
  | some u =>
    if s.phase ≠ .run ∨ s.brs.out.isSome = true ∨ s.sparingRuns = true then s
    else if s.voters = [u] then s.rotNext u
    else
      let s := if s.votes u then s.stepOut u else s
      (s.brsBit 9 u false).modBrs fun b => { b with out := some (BitVec.ofNat 2 u), test := setBit b.test u false }

def execRotationStep (s : State) : Res := .next s.rotStep

/-- An hour of powered operation has passed (R471): 3,600 s of ticks. -/
def State.ageHour (s : State) : State :=
  if s.brassOn = false ∨ s.ticks < s.brs.hourT + 90000000000 then s
  else
    let h := s.brs.hours + 1
    let s := s.modBrs fun b => { b with hours := h, hourT := b.hourT + 90000000000 }
    let s := s.setBrs (setFld s.brsStat 47 40 (min h 255))
    if 48 ≤ h ∧ (h - 48) % 24 = 0 then s.event { code := 0x0C07, sev := 2, master := 0x603, pay := [(8, min h 255)] } else s

def execRotationAgeHour (s : State) : Res := .next s.ageHour

/-- A write of FE_CLAIM (R479). -/
def State.feClaim (s : State) (b : Nat) (v : Word) : State :=
  let f := s.feAt b
  if f.stat.getLsbD 0 ∧ f.stat.getLsbD 5 ∧ fld v 23 0 = fld f.time 23 0 then s.setFe b { f with stat := setBit f.stat 4 true, timer := none }
  else s.setFe b { f with stat := setBit f.stat 11 true }

def execFeClaim (a : Via) (b : Blk) (v : BitVec 48) (s : State) : Res := s.onFlt a (feBase b + 0x20) fun s => s.feClaim (feBase b) v

/-- A write of FE_STAT (R475): CLOST and OVF clear on one; VALID frees the capture unless a claim is missing. -/
def State.feStatWrite (s : State) (b : Nat) (v : Word) : State :=
  let f := s.feAt b
  let st := f.stat &&& ~~~(v &&& 0xC00)
  if v.getLsbD 0 ∧ f.stat.getLsbD 0 ∧ f.wants = false then s.setFe b { f with stat := setBit st 0 false, timer := none }
  else s.setFe b { f with stat := st }

def execFeStatFree (a : Via) (b : Blk) (v : BitVec 48) (s : State) : Res := s.onFlt a (feBase b) fun s => s.feStatWrite (feBase b) v

/-- The units a checker of a block names (R485): none where the block lacks the checker. -/
def injUnits : Blk → Nat → Nat
  | .clu _, 3 => 8
  | .clu _, c => if c < 3 then 9 else 0
  | .cc _, c => if c < 2 then 1 else 0
  | .ms _, _ => 0
  | .brs, 0 => 3
  | _, c => if c = 0 then 1 else 0

/-- A write of FE_INJ (R485): a reserved CHECKER or UNIT keeps its old value (R12). Cobalt's test and the voters check at once. -/
def State.injWrite (s : State) (b : Blk) (v : Word) : State :=
  let f := s.feAt (feBase b)
  let c := if 0 < injUnits b (fld v 27 24) then fld v 27 24 else fld f.inj 27 24
  let u := if fld v 19 16 < injUnits b c then fld v 19 16 else fld f.inj 19 16
  let w : Word := BitVec.ofNat 48 (b2n (v.getLsbD 32) * 2 ^ 32 + c * 2 ^ 24 + u * 2 ^ 16 + fld v 15 0)
  let s := s.setFe (feBase b) { f with inj := w }
  match b with
  | .cob => (match s.injHit .cob 0 0 with | some (_, s) => s.rngFail | none => s)
  | .brs => s.brassInj
  | _ => s

def execFeInjArm (a : Via) (b : Blk) (v : BitVec 48) (s : State) : Res := s.onFlt a (feBase b + 0x38) fun s => s.injWrite b v

/-- Containment (R480): a processor, or an instance, or nothing; with the number that the record carries. -/
def State.contain (s : State) (info : Word) : State × Nat :=
  if fld info 27 24 = 0 then
    let p := fld info 21 16
    ((s.modProc (BitVec.ofNat 6 p) fun q => { q with contd := q.contd || q.runs }).askStop p .contained, p)
  else if info.getLsbD 2 then
    let i := fld info 8 3
    let s := (procList (s.inst i).procs).foldl (fun (s : State) p =>
      if s.procRuns p then (s.modProc (BitVec.ofNat 6 p) fun q => { q with contd := true }).askStop p .contained else s) s
    let s := (s.instRings i).foldl (fun (s : State) q => s.modRp q fun r => { r with held := setBit r.held 2 true }) s
    ({ s with icont := setIn s.icont i true }, i)
  else (s, 0)

/-- The escalation timer of an unclaimed capture expires (R477, R488): DEFERRED becomes CONTAINED, CONTAINED is FATAL. -/
def State.escalate (s : State) (b : Nat) : State :=
  let f := s.feAt b
  match f.timer with
  | none => s
  | some t =>
    if s.phase ≠ .run ∨ f.wants = false ∨ s.ticks < t + 25 * fld (s.rg (aBrs 0x800) 0x3E8000A) 35 16 then s
    else
      let c := fld f.stat 8 6 + 1
      let st := setBit (setBit (setFld f.stat 8 6 c) 9 true) (39 + c) true
      let s := s.setFe b { f with stat := st, escs := satAdd 16 f.escs 1, quiet := spIns f.quiet c s.ticks, timer := if c = 4 then some s.ticks else none }
      let (s, who) := if c = 4 then s.contain f.info else (s, 0)
      let s := s.raiseFlt
      let s := s.event { code := 0x0C0A, sev := 2, cls := c, master := 0x603, pay := [(24, b), (16, fld f.info 43 28), (6, who)] }
      if c = 4 then s else s.enterFatal 1 (fld f.info 43 28)

def execEscalationTimerExpiry (b : Blk) (s : State) : Res := .next (s.escalate (feBase b))

/-- A block leaves the fault state of a class (R484). -/
def State.quietExit (s : State) (b c : Nat) : State :=
  let f := s.feAt b
  if c = 0 ∨ 6 < c ∨ f.stat.getLsbD (39 + c) = false ∨ s.phase ≠ .run ∨
      s.ticks < spGetD 0 f.quiet c + 25000000 * fld (s.rg (aBrs 0x800) 0x3E8000A) 15 0 then s
  else
    let st := setBit f.stat (39 + c) false
    let frees : Bool := st.getLsbD 0 && decide (fld st 8 6 = c) && !f.wants
    let f := { f with stat := if frees then setBit st 0 false else st, recov := satAdd 16 f.recov 1, timer := if frees then none else f.timer }
    (s.setFe b f).event { code := 0x0C0B, sev := 0, master := 0x603, pay := [(24, b), (3, c), (16, f.recov)] }

def execQuietPeriodExpiry (b : Blk) (c : BitVec 3) (s : State) : Res := .next (s.quietExit (feBase b) c.toNat)

/-- A processor that containment stopped goes on (R481). -/
def State.uncontain (s : State) (p : Nat) : State :=
  s.modProc (BitVec.ofNat 6 p) fun q =>
    { q with run := if q.run = .contained then .running else q.run, contd := false, stopReq := if q.stopReq = some Run.contained then none else q.stopReq }

/-- A write of FLT_CREL (R481). -/
def State.crel (s : State) (v : Word) : State :=
  let n := fld v 5 0
  if v.getLsbD 7 then s.uncontain n
  else if s.icont.getLsbD n then
    let s := ((procList (s.inst n).procs).filter fun p => (s.proc (BitVec.ofNat 6 p)).contd).foldl State.uncontain s
    let s := (s.instRings n).foldl (fun (s : State) q => s.modRp q fun r => { r with held := setBit r.held 2 false, ftick := s.ticks }) s
    { s with icont := setIn s.icont n false }
  else s

def execCrel (a : Via) (v : BitVec 48) (s : State) : Res := s.onFlt a (aBrs 0x820) fun s => s.crel v

def execFltSnapReq (a : Via) (s : State) : Res := s.onFlt a (aBrs 0x840) fun s => (s.sg (aBrs 0x840) 0).snapReq .flt

/-- The blocks with a capture that stand in FLT_SUM (bits 0 to 32) and FLT_SUM2 (100 and above: bits 0 to 21), with their bits. -/
def sumBlks : List (Blk × Nat) :=
  (List.range 8).map (fun k => (Blk.clu (BitVec.ofNat 3 k), k)) ++ (List.range 8).map (fun k => (Blk.cc (BitVec.ofNat 3 k), 8 + k)) ++
  (List.range 8).map (fun k => (Blk.ms (BitVec.ofNat 3 k), 16 + k)) ++
  [(.tun, 25), (.cxl, 26), (.elc, 27), (.cob, 28), (.zn, 29), (.mbg, 30), (.brs, 31), (.pew, 32)] ++
  (List.range 16).map (fun e => (Blk.chan (BitVec.ofNat 4 e), 100 + e)) ++ (List.range 6).map fun l => (Blk.mbv (BitVec.ofNat 3 l), 116 + l)

/-- FLT_SUM (from bit 0) and FLT_SUM2 (from 100) as they read (R477, R487). -/
def State.fltSum (s : State) (from_ : Nat) : Word :=
  sumBlks.foldl (fun (v : Word) (b, i) => if from_ ≤ i ∧ i < from_ + 100 ∧ (s.feAt (feBase b)).wants = true then setBit v (i - from_) true else v) 0

/-- Does the claim line assert (R477)? -/
def State.claimLine (s : State) : Bool := s.fe.any fun (_, f) => f.wants

end Sys2Proof.Machine
end

