-- ==== Sys2Proof/Machine/Pewter.lean ====
section
/-!
DEFINITION. The Pewter recorder (spec 18): records into Tungsten (R489, R493), token buckets (R492), checkpoints (R490), anchors and
notes (R491), reading a slot (R494), the trace queue (R529).
-/
namespace Sys2Proof.Machine

open Sys2Proof

/-- Change the recorder. -/
def State.modPew (s : State) (f : Pewter → Pewter) : State := { s with pew := f s.pew }

/-- Change the management space. -/
def State.modMgmt (s : State) (f : Mgmt → Mgmt) : State := { s with mgmt := f s.mgmt }

/-- The first key at or above k that a rising table does not list. -/
def firstGap {α : Type} : Sp α → Nat → Nat
  | [], k => k
  | (j, _) :: m, k => if j = k then firstGap m (k + 1) else k

/-- The slot for a record (R493): the lowest free one, otherwise that of the lowest SEQ of severity not above its own. -/
def Pewter.slotFor (w : Pewter) (sev : BitVec 2) : Option Nat :=
  let g := firstGap w.log 0
  if g < 65536 then some g
  else (w.log.foldl (fun (b : Option (Nat × Nat)) (k, (r : PRec)) =>
    let lower : Bool := match b with | some (_, n) => decide (r.seq < n) | none => true
    if decide (r.sev ≤ sev) && lower then some (k, r.seq) else b) none).map fun x => x.1

/-- A written record is queued for trace (R529): a full queue opens a gap and sets ALERT bit 4. -/
def State.traceRec (s : State) (r : PRec) : State :=
  let m := s.mgmt
  if m.trctl.getLsbD 0 = false ∨ r.sev.toNat < fld m.trctl 2 1 ∨ s.phase = .fatal then s
  else if m.trq.length < 64 then s.modMgmt fun m => { m with trq := m.trq ++ [r] }
  else s.modMgmt fun m => { m with alert := setBit m.alert 4 true, gap := some (match m.gap with | some (n, t) => (n + 1, t) | none => (1, s.pew.ms)) }

/-- The oldest queued record goes to its slot (R489, R493), or is dropped; an injection inverts bits of its CRC (R485). -/
def State.pewWrite (s : State) (ok : Bool) : State :=
  match s.pew.queue with
  | [] => s
  | r :: rest =>
    let drop : State := s.modPew fun w => { w with queue := rest, dropped := satAdd 24 w.dropped 1 }
    match (if ok then s.pew.slotFor r.sev else none) with
    | none => drop
    | some k =>
      let (inv, s) : Nat × State := match s.injHit .pew 0 0 with | some x => x | none => (0, s)
      let (bad, s) := s.tungInj
      let n := s.pew.seq + 1
      let r : PRec := { r with seq := n, inv := BitVec.ofNat 16 (if bad then inv ||| 1 else inv) }
      let s := s.modPew fun w => { w with queue := rest, log := spIns w.log k r, seq := n, newest := n, nslot := k, written := satAdd 24 w.written 1 }
      let s := if fld (s.rg (aPew 8)) 11 10 ≤ r.sev.toNat then s.raise (aPew 8) else s
      s.traceRec r

/-- Does Pewter work: from PWROK to FLUSH_DONE or the loss of power (R490), less the flush (R493)? -/
def State.pewOn (s : State) : Bool := match s.phase with | .boot | .run | .nores | .fatal => true | _ => false

def execPewterRecordWrite (ok : Bool) (s : State) : Res := .next (if s.pewOn then s.pewWrite ok else s)

/-- A bucket gains a token (R492); full again with suppressed events, Pewter records a SUMMARY. -/
def State.refill (s : State) (code : Nat) : State :=
  match spGet s.pew.buckets code with
  | none => s
  | some b =>
    let t := b.tick + 25000 * (s.rate code).2
    if b.spent = 0 ∨ s.ticks < t ∨ (b.spent = 1 ∧ b.supp ≠ 0 ∧ 256 ≤ s.pew.queue.length) then s
    else if b.spent = 1 ∧ b.supp ≠ 0 then
      let r : PRec := { (s.mkRec { code := code, sev := b.sev.toNat, flags := 2 } b.supp) with payload := b.payload }
      s.modPew fun w => { w with queue := w.queue ++ [r], buckets := spDel w.buckets code }
    else if b.spent = 1 then s.modPew fun w => { w with buckets := spDel w.buckets code }
    else s.modPew fun w => { w with buckets := spIns w.buckets code { b with spent := b.spent - 1, tick := t } }

def execTokenBucketRefill (code : BitVec 16) (s : State) : Res := .next (if s.pewOn then s.refill code.toNat else s)

/-- A write of PEW_ANCW records a calendar anchor (R491). -/
def State.anchor (s : State) : State :=
  let t := s.rg (aPew 0x50)
  let prev := s.pew.lastAnchor
  let back := decide (t.toNat < prev.toNat)
  let s := s.event { code := 0x0E01, sev := if back then 2 else 1, master := 0x603, flags := b2n back,
                     pay := [(48, t.toNat), (48, (s.rg (aPew 0x58)).toNat), (48, prev.toNat)] }
  s.modPew fun w => { w with lastAnchor := t }

def execAncw (a : Via) (_v : BitVec 48) (s : State) : Res := s.onWrite a (aPew 0x60) fun s => s.anchor

/-- A write of PEW_NOTEW records a host note (R491). -/
def State.note (s : State) (v : Word) : State :=
  if fld v 7 0 < 2 then s
  else s.event { code := 0x0E00 + fld v 7 0, sev := fld v 9 8, master := 0x603,
                 pay := (List.range 3).map fun i => (48, (s.rg (aPew (0x68 + 8 * i))).toNat) }

def execNotew (a : Via) (v : BitVec 48) (s : State) : Res := s.onWrite a (aPew 0x80) fun s => s.note v

/-- PEW_RCMD reads a slot into RDATA (R494). -/
def State.pewRead (s : State) (v : Word) : State :=
  if v.getLsbD 0 = false then s
  else
    let bs := match spGet s.pew.log (fld (s.rg (aPew 0x88)) 15 0) with | some r => r.bytes | none => List.replicate 48 0
    (List.range 8).foldl (fun (s : State) i => s.sg (aPew (0x140 + 8 * i)) (leWord ((bs.drop (6 * i)).take 6))) s

def execRcmd (a : Via) (v : BitVec 48) (s : State) : Res := s.onWrite a (aPew 0x90) fun s => s.pewRead v

def execPewSnapReq (a : Via) (s : State) : Res := s.onWrite a (aPew 0x10) fun s => (s.sg (aPew 0x10) 0).snapReq .pew

/-- Firmware checkpoints MS, PCYC and SEQ every 1,000 ms (R490). -/
def execCheckpointTick (s : State) : Res :=
  .next (if s.pewOn ∧ s.pew.ck.1 + 1000 ≤ s.pew.ms then s.modPew fun w => { w with ck := (w.ms, w.pcyc, w.seq) } else s)

/-- A millisecond count follows the ticks while the module is powered and FLUSH_DONE is low (R490). -/
def State.pewTick (s : State) : State :=
  match s.phase with
  | .boot | .run | .nores | .fatal | .flush =>
    s.modPew fun w => if w.subms + 1 < 25000 then { w with subms := w.subms + 1 } else { w with subms := 0, ms := w.ms + 1 }
  | _ => s

end Sys2Proof.Machine
end

