-- ==== Sys2Proof/Machine/Boot.lean ====
section
/-!
DEFINITION. Clocks, crossings and snapshots (spec 19: R498, R499, R502 to R504, R518), and the start of a boot: straps (R508), the
boot configuration (R275, R277, R514), channels (R510), what survives the loss of power (R268, R366, R513), the choice of the
source (R267).
-/
namespace Sys2Proof.Machine

open Sys2Proof

/-- CLK_PROC[p] (R518). -/
def State.clkReg (s : State) (p : Nat) : Word := s.rg (aClk (0x1000 + 8 * p)) 0x2828
def State.setClk (s : State) (p : Nat) (v : Word) : State := s.sg (aClk (0x1000 + 8 * p)) v 0x2828

/-- The throttle limit of a processor's compute die (R537), in units of 100 MHz: clusters 0 to 3 lie on die 0. -/
def State.thrLimit (s : State) (p : Nat) : Nat := match spGet s.mgmt.thr (p / 32) with | some (l, _) => l | none => 40

/-- CUR takes the lower of the setting and the throttle limit (R539); the change is event 0x0D03. -/
def State.clkTake (s : State) (p set : Nat) : State :=
  let v := s.clkReg p
  let old := fld v 13 8
  let s := (s.setClk p (setBit (setFld v 13 8 (min set (s.thrLimit p))) 16 false)).modProc (BitVec.ofNat 6 p) fun q => { q with relock := none }
  s.event { code := 0x0D03, sev := 0, master := 0x603, pay := [(6, p), (6, old), (6, set)] }

/-- A pending change starts at the processor's next interruptible boundary (R499); a sparing pause defers it (R519). -/
def State.relockStart (s : State) (p : Nat) : State :=
  let p6 : BitVec 6 := BitVec.ofNat 6 p
  let q := s.proc p6
  let v := s.clkReg p
  if v.getLsbD 16 ∧ q.relock.isNone = true ∧ q.paused.isNone = true ∧ q.interruptible = true then s.setProc p6 { q with relock := some (v.extractLsb' 0 6) } else s

/-- A write of CLK_PROC[p] (R499, R518): SET takes 10 to 40; a processor that does not run changes at once. -/
def State.clkSet (s : State) (p : BitVec 6) (v : Word) : State :=
  let set := fld v 5 0
  if s.hasProc p = false ∨ set < 10 ∨ 40 < set then s
  else
    let q := s.proc p
    let s := s.setClk p.toNat (setBit (setFld (s.clkReg p.toNat) 5 0 set) 16 true)
    match q.run with
    | .running => if q.relock.isSome then s.setProc p { q with relock := some (BitVec.ofNat 6 set) } else s.relockStart p.toNat
    | _ => s.clkTake p.toNat set

def execClkProcSet (a : Via) (p : BitVec 6) (v : BitVec 48) (s : State) : Res :=
  s.onWrite a (aClk (0x1000 + 8 * p.toNat)) fun s => s.clkSet p v

/-- The island has relocked (R499): the processor goes on. -/
def execClockRelockComplete (p : BitVec 6) (s : State) : Res :=
  .next (let s := s.relockStart p.toNat
    match (s.proc p).relock with
    | some v => s.clkTake p.toNat v.toNat
    | none => s)

/-- A reference is lost (R498): it stops, or strays by more than 0.1 %. -/
def State.refLose (s : State) (r : RefClk) (khz : Nat) : State :=
  let (_, i) := refNominal r
  let s : State := { s with refLost := satAdd 24 s.refLost 1 }
  let s := (s.sg (aClk 0) (setBit (s.rg (aClk 0)) i false)).event { code := 0x0D01, sev := 3, master := 0x603, pay := [(2, i), (24, khz)] }
  match r with
  | .cxl => s.linkLost
  | .mbv => (List.range s.part.links).foldl (fun (s : State) l => if (s.lnk l).up || decide (s.linkState l ≠ 0) then s.linkDown l else s) s
  | .svc => (s.sg (aClk 0) (setBit (s.rg (aClk 0)) 3 true)).event { code := 0x0D02, sev := 3, cls := 2, blk := some .brs, master := 0x603 }

def execReferenceClockLoss (r : RefClk) (khz : Nat) (s : State) : Res :=
  .next (let (nom, i) := refNominal r
    let strays : Bool := decide (khz = 0) || decide (nom < (khz - nom) * 1000) || decide (nom < (nom - khz) * 1000)
    if s.phase ≠ .off ∧ strays = true ∧ (s.rg (aClk 0)).getLsbD i = true then s.refLose r khz else s)

/-- A request for CLK_XSTAT's capture (R518). -/
def execClkSnapReq (a : Via) (s : State) : Res := s.onWrite a (aClk 8) fun s => (s.sg (aClk 8) 0).snapReq .clk

/-- FE_CNT and FE_REC as a capture takes them (R475). -/
def Fe.cntWord (f : Fe) : Word := BitVec.ofNat 48 (leNat ((List.range 6).map fun i => BitVec.ofNat 8 (f.cnt.getD i 0)))
def Fe.recWord (f : Fe) : Word := BitVec.ofNat 48 (f.ovfs * 2 ^ 32 + f.escs * 2 ^ 16 + f.recov)

/-- Set registers together: (offset, value) pairs whose reset value is 0. -/
def State.sgs (s : State) (l : List (Nat × Nat)) : State := l.foldl (fun (s : State) (a, v) => s.sg a (BitVec.ofNat 48 v)) s

/-- The counters of one block as they stand, for its readable registers (R502): RDY, bit 1 of SNAP, sets with them. -/
def State.snapRegs (s : State) : SnapBlk → List (Nat × Nat)
  | .dir => (List.range s.part.stks).map (fun i => (aMs (0xC100 + 8 * i), (s.stack i).recalls * 2 ^ 24 + (s.stack i).retries)) ++ [(aMs 0xC0F8, 2)]
  | .err => (List.range s.part.stks).flatMap (fun i =>
      let k := s.stack i
      [(aStk i 8, k.passes * 2 ^ 32 + k.scrubR), (aStk i 0x10, k.ce), (aStk i 0x18, k.amm * 2 ^ 24 + k.ue),
       (aStk i 0x20, k.served * 2 ^ 24 + k.made), (aStk i 0x28, k.last.toNat)]) ++ [(aMs 8, 2)]
  | .tun =>
    let now := match s.tun.stall with | some t => (s.ticks - t) / 25 | none => 0
    [(aTun 0x18, s.peakD * 2 ^ 24 + s.dbits.length), (aTun 0x20, s.tun.epis * 2 ^ 32 + satAdd 32 s.tun.stallT now),
     (aTun 0x28, s.tun.closed), (aTun 0x48, s.wearNow), (aTun 0x10, 2)]
  | .chq => (List.range 512).map (fun i =>
      let k := s.queue i
      (aQ i 0x30, k.starv * 2 ^ 34 + k.held.length * 2 ^ 17 + k.items.length)) ++
    (List.range 16).map (fun e => (aChan e 0x18, (s.engine e).done)) ++
    [(aChq 0x810, s.promos * 2 ^ 16 + min 0xFFFF (s.led.filter fun (_, e) => e.waits).length), (aChq 0x808, 2)]
  | .elc => [(aElc 0x30, s.acnt), (aElc 0x40, min 8191 s.mirw.length), (aElc 0x48, s.exh * 2 ^ 24 + s.timers none), (aElc 0x28, 2)]
  | .cob =>
    let k := spGet s.kslots (fld (s.rg (aCob 0x10)) 11 0)
    let info := match k with
      | some k => b2n (k.ctr = 2 ^ 64 - 1) * 2 ^ 40 + 2 ^ 39 + b2n k.big * 2 ^ 38 + k.inst.toNat * 2 ^ 32 + k.pre.toNat
      | none => 0
    let c := match k with | some k => k.ctr | none => 0
    [(aCob 0x18, info), (aCob 0x20, c % 2 ^ 48), (aCob 0x28, c / 2 ^ 48), (aCob 0x70, s.cobBytes), (aCob 0x78, s.authF), (aCob 8, 2)]
  | .zn => [(aZn 0x10, s.znIn), (aZn 0x18, s.znOut), (aZn 0x20, s.znErr), (aZn 8, 2)]
  | .mbg => [(aMbg 0x38, s.ftos * 2 ^ 24 + min 4095 s.rops.length), (aMbg 0x30, 2)]
  | .flt => s.fe.flatMap (fun (b, f) => [(b + 0x28, f.cntWord.toNat), (b + 0x30, f.recWord.toNat)]) ++
    [(aBrs 0x20, s.brs.switches * 2 ^ 32 + s.brs.rots * 2 ^ 16 + s.brs.disag), (aBrs 0x840, 2)]
  | .pew => [(aPew 0x18, s.pew.written * 2 ^ 24 + s.pew.dropped), (aPew 0x20, s.pew.supp), (aPew 0x28, s.pew.newest), (aPew 0x30, s.pew.nslot),
             (aPew 0x38, s.pew.ms), (aPew 0x40, s.pew.pcyc), (aPew 0x10, 2)]
  | .clk => [(aClk 0x10, s.rearms * 2 ^ 24 + s.refLost), (aClk 8, 2)]
  | .mbv l =>
    let k := s.lnk l.toNat
    [(aMbv l.toNat 0x18, k.flits), (aMbv l.toNat 0x20, k.rtN * 2 ^ 24 + k.reN), (aMbv l.toNat 0x28, k.crcN), (aMbv l.toNat 0x10, 2)]
  | .core _ => []

/-- A requested capture is made (R502). -/
def State.snap (s : State) (b : SnapBlk) : State :=
  let s : State := { (s.sgs (s.snapRegs b)) with snaps := s.snaps.erase b }
  match b with
  | .core p => s.modProc p fun q => (q.crSet 65 q.rcnt).crSet 64 2
  | .tun => s.tick1
  | _ => s

def execSnapshotCapture (b : SnapBlk) (s : State) : Res := .next (if s.snaps.contains b ∧ s.phase = .run then s.snap b else s)

/-- A number for an island in a record (the model's own: R520 gives no format): kind in the upper digits. -/
def islandNo : Island → Nat
  | .core n => n
  | .hub k => 256 + k.toNat
  | .network d => 512 + d
  | .memctl i => 768 + i.toNat
  | .engines g => 1024 + g.toNat
  | .io => 1280
  | .cxl => 1281
  | .mbova => 1282
  | .brass => 1283

/-- An island is reset and its crossings re-armed (R503): what its FIFOs held is discarded; a core's L1 caches start empty. -/
def State.islandReset (s : State) (i : Island) : State :=
  let s : State := { s with rearms := satAdd 24 s.rearms 1 }
  match i with
  | .core n => if n < 9 * s.part.clusters then s.clearL1 n else s
  | _ => s

def execIslandReset (isl : Island) (s : State) : Res := .next (if s.brassOn then s.islandReset isl else s)

/-- A core that counts as failed in its self-test (R504, R285): a pair goes on without it; in split mode the spare takes its place,
or the processor stops; a core that hosts none is retired. -/
def State.coreFailed (s : State) (k c : Nat) : State :=
  match (List.range 8).find? fun t => mapAt (s.map k) t = c with
  | none =>
    let s := s.setRetired k c true
    if s.spare k = c then s.setSpareIdx k 0xF else s
  | some t =>
    if s.checked k then
      let p : BitVec 6 := BitVec.ofNat 6 (8 * k + t % 4)
      let x : SelfTest := { p := p, core := BitVec.ofNat 4 c, bg := false, kind := 0 }
      (s.modClu k fun q => { q with sparing := x :: q.sparing }).selfTest k (decide (4 ≤ t)) (decide (t < 4))
    else
      let p : BitVec 6 := BitVec.ofNat 6 (8 * k + t)
      let sp := s.spare k
      let s := s.setRetired k c true
      if sp < 9 then
        let s := (((s.clearL1 (9 * k + c)).clearL1 (9 * k + sp)).setMap k t sp).setSpareIdx k 0xF
        (((s.unpause p (Config.freeNat s.free % 31) true).tick1).spEvent p 0x0142 2 2 c sp 0).raiseSp k
      else
        let s := (s.setMap k t 0xF).loseProc p
        (s.spEvent p 0x0145 3 4 c 15 0).raiseSp k

/-- A crossing of an island did not clear within 10 µs (R504). -/
def State.crossingFail (s : State) (i : Island) : State :=
  let s := s.tick1
  let ev (cls : Nat) : Ev := { code := 0x0D10, sev := 3, cls := cls, blk := some .brs, master := 0x603, pay := [(12, islandNo i), (12, Config.freeNat (s.free - 1))], claimed := false }
  match i with
  | .core n => (s.event (ev 4)).coreFailed (n / 9) (n % 9)
  | _ => (s.event (ev 5)).enterFatal 1 0x0D10

def execCrossingRearmTimeout (isl : Island) (s : State) : Res :=
  .next (let present : Bool := match isl with | .core n => decide (n < 9 * s.part.clusters) | .hub k => decide (k.toNat < s.part.clusters) | .memctl k => decide (k.toNat < s.part.stks) | _ => true
    if s.cxlLive = true ∧ present = true then s.crossingFail isl else s)

/-- Registers kept with the ledger or in the configuration region, which every resume but a cold start restores (R322, R358, R366, R386,
R432): ring registers, queue registers, the program table, the ledger's registers, the instances' STATE and configuration. -/
def keptReg (a : Nat) : Bool :=
  match locate a with
  | .cxl o => decide (0x10000 ≤ o)
  | .chq o => decide (o ≤ 0x800) || (decide (0x1000 ≤ o) && decide (o % 0x40 < 0x10))
  | .elc o => decide (o ≤ 8) || decide (0x1000 ≤ o)
  | .vi _ o => decide (o < 0x60) || decide (o = 0x88)
  | _ => false

/-- A ring pair as its ring record keeps it (R342): SQFP follows from ENSEQ and NEXTSEQ (R19). -/
def RP.kept (r : RP) : RP :=
  let fp := r.sqfpEn + BitVec.ofNat 32 (r.nextSeq - r.enSeq)
  { irq := r.irq, cqpi := r.cqpi, cqci := r.cqci, nextSeq := r.nextSeq, enSeq := r.enSeq, sqfpEn := r.sqfpEn, sqfp := fp, sqpi := fp, acc := fp, nidx := r.cqpi, bad := r.bad }

/-- The registers of a configuration in force (R419). -/
def Inst.regs (c : Inst) : List (Nat × Nat) :=
  [(0, c.procs.toNat % 2 ^ 32), (8, c.procs.toNat / 2 ^ 32), (0x10, c.wbase + c.wcount * 2 ^ 10), (0x18, c.hbase + b2n c.hen * 2 ^ 40), (0x20, c.hlim),
   (0x28, c.rfirst + c.rcount * 2 ^ 10), (0x30, c.qfirst + c.qcount * 2 ^ 9), (0x38, c.lgbase + c.lgcount * 2 ^ 14),
   (0x40, b2n c.sysr + c.clu.toNat * 2), (0x48, c.mbcfg.toNat), (0x50, c.bootd.toNat), (0x58, c.bootip.toNat)]

/-- What is left of the management space: TRCTL, kept with the checkpoints, and with trace on the gap that its next marker tells (R528,
R531). -/
def Mgmt.offed (m : Mgmt) (ms : Nat) : Mgmt :=
  { trctl := m.trctl, gap := if m.trctl.getLsbD 0 then some (match m.gap with | some (n, t) => (n + m.trq.length, t) | none => (m.trq.length, ms)) else none }

/-- What a resume may change of Tungsten and of Electrum's books, as it stands when the resume begins (R22). -/
def State.keep (s : State) : Kept :=
  { tun := s.tun, dev := s.dev, led := s.led, accs := s.accs, rps := s.rps, insts := s.insts, kslots := s.kslots, repts := s.repts,
    icmd := s.icmd, ifail := s.ifail, isaved := s.isaved, irest := s.irest, icont := s.icont, frzTb := s.frzTb, mirIn := s.mirIn,
    saved := s.saved, trctl := s.mgmt.trctl }

/-- A resume that power loss cuts off before the release leaves all that as if it had never begun (R22). -/
def State.rolledBack (s : State) : State :=
  match s.kept with
  | none => s
  | some k => { s with tun := k.tun, dev := k.dev, led := k.led, accs := k.accs, rps := k.rps, insts := k.insts, kslots := k.kslots, repts := k.repts,
                       icmd := k.icmd, ifail := k.ifail, isaved := k.isaved, irest := k.irest, icont := k.icont, frzTb := k.frzTb, mirIn := k.mirIn,
                       saved := k.saved, mgmt := { s.mgmt with trctl := k.trctl }, kept := none }

/-- Power goes (R505, R506, R533): what stands in Tungsten and the board's own state remain, every other field is as after module
reset. The staged configuration of an instance becomes that in force. -/
def State.powerOff (s : State) : State :=
  let s : State := s.rolledBack
  let tun : Tun := { img := s.tun.img, imgP := s.tun.imgP, imgU := s.tun.imgU, opened := s.tun.opened, closed := s.tun.closed, ring := s.tun.ring, flush := s.tun.flush, flushSeq := s.tun.flushSeq,
                     mapver := s.tun.mapver, lastMax := s.tun.lastMax, thermal := s.tun.thermal }
  let pew : Pewter := { log := s.pew.log, seq := s.pew.seq, newest := s.pew.newest, nslot := s.pew.nslot, lastAnchor := s.pew.lastAnchor, ck := s.pew.ck, pcyc := s.pew.pcyc, ms := s.pew.ms }
  let s' : State := { State.reset with pending := s.pending, free := s.free, part := s.part, ticks := s.ticks, outbox := s.outbox, tun := tun, pew := pew }
  let s' : State := { s' with dev := s.dev.filter (fun (a, _) => keptReg a), led := s.led, accs := s.accs, rps := s.rps.map (fun (n, r) => (n, r.kept)), insts := s.insts,
                              kslots := s.kslots, images := s.images, repts := s.repts, icmd := s.icmd, ifail := s.ifail, isaved := s.isaved, irest := s.irest, frzTb := s.frzTb }
  let s' : State := { s' with mirIn := s.mirIn, saved := s.saved, bcfg := s.bcfg, bprog := s.bprog, vaux := s.vaux, sel := s.sel, boot := s.boot, mgmt := s.mgmt.offed s.pew.ms }
  s.insts.foldl (fun (s' : State) (i, (c : Inst)) => c.regs.foldl (fun (s' : State) (o, v) => s'.sgVi i o (BitVec.ofNat 48 v)) (s'.sgVi i 0x88 (BitVec.ofNat 48 (s.instState i)))) s'

/-- Without PWROK the fault line of a triad that no unit of passed goes too (R472, R524). -/
def State.unassert (s : State) : State := if s.boot.any fun b => b.brassOk = 0 then { s with boot := none } else s

/-- A fall of PWROK is a module reset at any moment (R533). -/
def execPwrokFall (s : State) : Res := .next (if s.phase = .off then s.unassert else s.powerOff)

/-- Do the sampled straps fail their check (R508, R525): no stable value, odd parity, a reserved bit? -/
def bootBad (b : Boot) : Bool :=
  !b.stable || decide (((List.range 24).filter fun i => b.straps.getLsbD i).length % 2 = 1) || decide (fld b.straps 22 20 ≠ 0)

/-- The boot source in use (R508, R509). -/
def bootSrc (b : Boot) : Nat := if (bootBad b) then 2 else fld b.straps 19 18

/-- Does recovery ignore the MODE byte, the images and the boot program (R509)? -/
def bootRecovery (b : Boot) : Bool := decide (2 ≤ (bootSrc b))

/-- The good cores of a cluster, and its assignment (R277): MAP and the index of the spare. -/
def assign (ret chk : Nat) (chked : Bool) : Word × Nat :=
  let good := (List.range 9).filter fun c => !ret.testBit c
  if chked then
    let (m, left) := (List.range 4).foldl (fun (x : Word × List Nat) t =>
      let (m, left) := x
      match left with
      | [] => (setFld (setFld m (4 * t + 3) (4 * t) 0xF) (4 * t + 19) (4 * t + 16) 0xF, [])
      | l :: rest =>
        match rest.find? fun c => !chk.testBit c with
        | some c => (setFld (setFld m (4 * t + 3) (4 * t) l) (4 * t + 19) (4 * t + 16) c, rest.erase c)
        | none => (setFld (setFld m (4 * t + 3) (4 * t) 0xF) (4 * t + 19) (4 * t + 16) 0xF, left)) (0, good)
    (m, left.headD 0xF)
  else
    ((List.range 8).foldl (fun (m : Word) t => setFld m (4 * t + 3) (4 * t) (good.getD t 0xF)) 0, good.getD 8 0xF)

/-- Cluster k at boot (R275, R277): its mode and the marks of the boot configuration. -/
def State.bootMarks (s : State) (b : Boot) (cfg : Option BootCfg) (k : Nat) : State :=
  let chked : Bool := match cfg with
    | some c => if (bootRecovery b) then b.straps.getLsbD 17 else c.mode.getLsbD k
    | none => b.straps.getLsbD 17
  let next : Bool := match cfg with | some c => c.mode.getLsbD k | none => chked
  let marks := match cfg with | some c => c.spare.getD k 0 | none => 0
  let s := s.sg (aClu k 0x400) (BitVec.ofNat 48 (b2n chked + 2 * b2n next + 4 * b2n (cfg.isSome && !(bootRecovery b))))
  s.sg (aClu k 0x410) (BitVec.ofNat 48 (marks * 16 + 8)) 8

/-- The comparator self-test of cluster k (R290), then its assignment (R277). -/
def State.bootAssign (s : State) (b : Boot) (k : Nat) : State :=
  let s := (List.range 9).foldl (fun (s : State) c =>
    if b.cmpBad.getLsbD (9 * k + c) then (s.setChkBad k c).spEvent (BitVec.ofNat 6 (8 * k)) 0x0146 2 0 c 15 0 else s) s
  let v := s.spareReg k
  let (m, sp) := assign (fld v 12 4) (fld v 21 13) (s.checked k)
  (s.sg (aClu k 0x408) m mapReset).setSpareIdx k sp

/-- Channels that fail training are fenced (R510, R239). -/
def State.bootChan (s : State) (b : Boot) : State :=
  (List.range (8 * s.part.stks)).foldl (fun (s : State) i =>
    if b.chanBad.getLsbD i then
      let st := i / 8
      let s := s.modStack st fun k => { k with fenced := setBit k.fenced (i % 8) true }
      let s := s.sg (aStk st 0) (setBit (s.rg (aStk st 0)) (i % 8) true)
      s.event { code := 0x0308, sev := 3, cls := 3, blk := some (.ms (BitVec.ofNat 3 st)), master := 0x701, acc := 1, space := 0, pay := [(3, st), (3, i % 8)] }
    else s) s

/-- The standard image's entries of CHQ_PT (R333 note a, R334). -/
def State.stdTable (s : State) : State :=
  [(0, true), (1, true), (2, true), (3, true), (4, true), (5, true), (6, true), (7, true), (8, true), (16, false)].foldl (fun (s : State) (p, idok) =>
    s.sg (aChq (8 * p)) (BitVec.ofNat 48 (2 ^ 47 + b2n idok * 2 ^ 46 + 0xFFFF * 2 ^ 30 + 0x4000 + (Config.stdEntry p).toNat))) s

/-- What an installed image's lines hold after their header. -/
def Image.sects (i : Image) : List Sect := (imgSects (i.lines.drop 96) (i.lines.length / 96 - 1) (i.lines.length / 96) 0).getD []

/-- Installed channel images are loaded in the order of installation (R386). -/
def State.loadImages (s : State) : State := s.images.foldl (fun (s : State) i => if i.typ = 1 then i.sects.foldl State.sectWrite s else s) s

/-- The patch image (R387) shows in BRS_VER; how many words and match registers it fills is open. -/
def State.loadPatch (s : State) : State :=
  match (s.images.filter fun i => i.typ = 2).getLast? with
  | some i => (s.sg (aBrs 0x18) (BitVec.ofNat 48 ((Config.freeNat s.free % 2 ^ 16) * 2 ^ 32 + i.id.toNat % 2 ^ 32))).tick1
  | none => s

/-- The source a start takes (R267): none when records exist and none is valid; otherwise the source, the last closed epoch, the
cause. -/
def State.source (s : State) : Option Source :=
  if s.tun.cold ∨ s.tun.ring = [] then some { src := 0 }
  else
    match s.tun.ring.foldl (fun (b : Option Commit) (_, c) => if c.ok && (match b with | some x => decide (x.seq < c.seq) | none => true) then some c else b) none with
    | none => none
    | some c =>
      let back (cause : Nat) : Option Source := some { src := 2, epoch := c.seq, cause := cause }
      match s.tun.flush with
      | none => back 4
      | some f =>
        if f.base = c.seq then
          if f.committed then
            (if f.ok then some { src := 1, epoch := c.seq, fdl := f.missed, plan := decide (f.trig = 3) } else back 2)
          else back 1
        else if f.base < c.seq then back 4 else back 3

/-- SYS_BOOT.PHASE (R510). -/
def State.setPhase (s : State) (n : Nat) : State := s.sg 0x10 (setFld (s.rg 0x10) 3 0 n)

/-- PHASE 1 of a boot (R508 to R510): straps, Brass's self-test, the checkpoints, the hold-up class, the boot configuration. -/
def State.bootGo (s : State) (b : Boot) : State :=
  let keep := s.keep
  let cls := if (bootBad b) then 0 else fld b.straps 16 14
  let w := s.pew
  let pew : Pewter := { w with pcyc := satAdd 24 w.pcyc 1, ms := max (w.ck.1 + 1000) ((w.log.map fun (_, (r : PRec)) => r.ms).foldl max 0),
                               seq := max w.ck.2.2 ((w.log.map fun (_, (r : PRec)) => r.seq).foldl max 0), subms := 0 }
  let s : State := { s with phase := .boot, boot := some b, pew := pew, brs := { hourT := s.ticks } }
  let s := s.setBrs (BitVec.ofNat 48 (b.brassOk.toNat * 64 + (7 - b.brassOk.toNat) * 4096 + cfgOf (popFld (b.brassOk.zeroExtend 48) 2 0) * 16))
  let s := (s.sg 0x18 (b.straps.zeroExtend 48)).sg 0x10 (BitVec.ofNat 48 ((bootSrc b) * 256))
  let s := (s.sg (aMbg 0) (b.straps.extractLsb' 0 14 |>.zeroExtend 48)).sg (aClk 0) 7
  let s := s.sg 0x28 (BitVec.ofNat 48 (match s.bprog with | some p => p.lines | none => 0))
  let s := if (bootBad b) then
      let s := s.event { code := 0x0D20, sev := 3, master := 0x603, pay := [(24, b.straps.toNat)] }
      (List.range s.part.links).foldl (fun (s : State) l => s.sg (aMbv l 0) 2 3) s
    else s
  let s := if s.bcfg.isEmpty then s.event { code := 0x0D21, sev := 2, master := 0x603, pay := [(2, 0), (48, 0)] } else s
  let mx := classMax cls
  let s := s.sg (aTun 8) (BitVec.ofNat 48 (48 * 2 ^ 32 + mx * 2 ^ 16 + 384)) budgetReset
  let s := s.sg (aTun 0x40) (BitVec.ofNat 48 cls)
  ({ s with kept := some keep } : State).setPhase 1

/-- PHASE 2 (R275, R277, R290, R387): every cluster's mode and marks, then the comparator self-test and the assignment of each, and the
patch image. -/
def State.bootCores (s : State) (b : Boot) : State :=
  let cfg := s.bcfg.head?
  let ks := List.range s.part.clusters
  let s := ks.foldl (fun (s : State) k => s.bootMarks b cfg k) s
  let s := ks.foldl (fun (s : State) k => s.bootAssign b k) s
  (if bootRecovery b then s else s.loadPatch).setPhase 2

/-- PHASE 4 (R267): the source, or none. -/
def State.bootSource (s : State) : State :=
  match s.source with
  | none => ({ (s.sg (aTun 0x40) (setBit s.pstat 7 true)) with phase := .nores } : State).setPhase 4
  | some x => (s.modTun fun t => { t with src := some x }).setPhase 4

/-- A slot for which no core, or no checker, remains (R277 step 4, R285 note b). -/
def State.bootLost (s : State) : State :=
  (List.range s.part.clusters).foldl (fun (s : State) k =>
    (List.range (if s.checked k then 4 else 8)).foldl (fun (s : State) t =>
      if mapAt (s.map k) t = 0xF then s.loseProc (BitVec.ofNat 6 (8 * k + t)) else s) s) s

/-- PWROK rises (R510): the boot begins; when no Brass unit passes its self-test, nothing is released (R472). -/
def State.powerOn (s : State) (b : Boot) : State :=
  if b.brassOk = 0 then { s with boot := some b } else s.bootGo b

def execPwrokRise (b : Boot) (s : State) : Res := .next (if s.phase = .off ∧ s.vaux = true then s.powerOn b else s)

/-- A write of TUN_CTL.FORMAT (R267): taken only while NORES is 1. -/
def State.format (s : State) : State :=
  if s.phase = .nores then
    let s : State := { s with phase := .boot }
    (s.modTun fun t => { t with cold := true, src := some { src := 0 } }).sg (aTun 0x40) (setBit s.pstat 7 false)
  else s

def execTunFormat (a : Via) (s : State) : Res := s.onWrite a (aTun 0) fun s => s.format

/-- After FLUSH_DONE a restart, if one was asked for, goes on as if PWROK had fallen and risen (R507). -/
def State.restarted (s : State) (asked : Bool) : State :=
  if asked = true ∧ s.phase = .flushed then
    match s.boot with
    | some b => s.powerOff.powerOn b
    | none => s
  else s

/-- A write of SYS_RESET (R507): KEY 0x5A7 and KIND 1 start a planned flush and then a boot; anything else sets LOST. Before the release
there is nothing to flush (R533), and the boot begins again at once. -/
def State.sysReset (s : State) (v : Word) : State :=
  if fld v 47 36 = 0x5A7 ∧ fld v 3 0 = 1 then ((s.trip 3).modTun fun t => { t with restart := true }).restarted true
  else s.sg 0x10 (setBit (s.rg 0x10) 15 true)

def execSysResetRestart (a : Via) (v : BitVec 48) (s : State) : Res := s.onWrite a 8 fun s => s.sysReset v

/-- A write of SYS_LOCK (R516): LOCK sets and stays. -/
def execSysLock (a : Via) (v : BitVec 48) (s : State) : Res := s.onWrite a 0 fun s => if v.getLsbD 0 then s.sg 0 1 else s

/-- The copy of a boot program goes on (R512): it ends once every line can be read. A program with a poisoned line counts as one that
fails its CRC (DEDUCED, log 92). -/
def State.bpGo (s : State) : State :=
  match s.bpW with
  | none => s
  | some (a, n) =>
    match s.uncRead a (96 * n) 0x603 with
    | (none, s) => s
    | (some (d, z), s) =>
      let (bad, s) := s.tungInj
      ({ s with bpW := none, bprog := some { lines := n, data := d, ok := !bad && !z } } : State).sg 0x28
        (setBit (setFld (s.rg 0x28) 13 0 n) 16 false)

/-- A write of SYS_BPCTL (R512): 1 to 10,922 lines are copied into the configuration region with their CRC, 0 removes the boot program,
any other count, or a write while BUSY is 1, sets ERR. A write of ERR clears it. -/
def State.bpWrite (s : State) (v : Word) : State :=
  let n := fld v 13 0
  let s := if v.getLsbD 17 then s.sg 0x28 (setBit (s.rg 0x28) 17 false) else s
  let a := (s.rg 0x20).toNat
  if s.bpW.isSome then s.sg 0x28 (setBit (s.rg 0x28) 17 true)
  else if n = 0 then ({ s with bprog := none } : State).sg 0x28 (setFld (s.rg 0x28) 13 0 0)
  else if 10922 < n ∨ a % 96 ≠ 0 ∨ s.part.msBytes < a + 96 * n then s.sg 0x28 (setBit (s.rg 0x28) 17 true)
  else (({ s with bpW := some (a, n) } : State).sg 0x28 (setBit (s.rg 0x28) 16 true)).bpGo

def execBootProgramInstall (a : Via) (v : BitVec 48) (s : State) : Res :=
  s.onWrite a 0x28 fun s => if fld v 13 0 = 0 then s else s.bpWrite v
def execBootProgramRemove (a : Via) (v : BitVec 48) (s : State) : Res :=
  s.onWrite a 0x28 fun s => if fld v 13 0 = 0 then s.bpWrite v else s

/-- VAUX comes and goes (R538): Off and Auxiliary. Without VAUX nothing runs. -/
def execVauxPresent (s : State) : Res := .next (if s.vaux then s else { s with vaux := true, sel := 0 })
def execVauxAbsent (s : State) : Res :=
  .next (let s := if s.phase = .off then s.unassert else s.powerOff
    { s with vaux := false, sel := 0 })

/-- PERST_N low is a link reset (R505): a surprise removal while the link is up and not detached. -/
def execPerst (s : State) : Res := .next s.linkLost

end Sys2Proof.Machine
end

