-- ==== Sys2Proof/Machine/Resume.lean ====
section
/-!
DEFINITION. The end of a flush (R262, R507) and the resume (spec 10, 13, 19): the restore (R268), ledger resolution (R346, R347), the
machine-state section (R153 to R155, R198, R488, R493), the release with its resume code (R270, R511).
-/
namespace Sys2Proof.Machine

open Sys2Proof

/-- The end of a flush (R262), and the restart that asked for it (R507). -/
def execFlushDone (us : Nat) (s : State) : Res := .next ((s.flushCommit us).restarted s.tun.restart)
def execFlushAbort (s : State) : Res := .next (s.flushAbort.restarted s.tun.restart)
def execHuokFall (s : State) : Res := .next (s.flushAbort.restarted s.tun.restart)

/-- An event of the flush, or one that waited for the resume: its record carries LATE with the time of the event (R274, R493). -/
def State.lateRec (s : State) (e : Ev) (ms pcyc : Nat) : State :=
  let n := s.pew.queue.length
  let s := s.event { e with flags := 8 }
  s.modPew fun w => { w with queue := w.queue.zipIdx.map fun (r, i) => if i = n then { r with ms := ms, pcyc := pcyc } else r }

/-- Source 0 (R267, R432): the main store, the image, the ledger and Pewter are empty, only instance 0 exists. -/
def State.coldStart (s : State) : State :=
  let w := s.pew
  let pew : Pewter := { w with log := [], queue := w.queue, newest := 0, nslot := 0 }
  let s : State := { s with dev := s.dev.filter (fun (a, _) => !keptReg a), led := [], accs := 0, rps := [], insts := [], kslots := [], repts := [],
                            icmd := [], ifail := 0, isaved := 0, irest := 0, icont := 0, frzTb := [], mirIn := [], saved := none, pew := pew, mgmt := { s.mgmt with trctl := 0, gap := none } }
  let s : State := { s with ms := [], flips := [], dbits := [], tb := 0 }
  s.modTun fun t => { t with img := [], imgP := [], imgU := [], opened := none, closed := 0, ring := [], flush := none, cold := false }

/-- The image goes into the main store with fresh check bits; poisoned and uncorrectable lines are poisoned (R268 steps 1 and 2). -/
def State.imageBack (s : State) : State :=
  let s : State := { s with ms := s.tun.img, flips := [], dbits := [] }
  (s.tun.imgU.foldl insNat s.tun.imgP).foldl State.poisonLine s

/-- Event 0x0414 for a line that Tungsten could not correct: its region is 0 in the image, 1 in the flush area. -/
def State.lostLine (s : State) (l region : Nat) : State :=
  s.event { code := 0x0414, sev := 2, cls := 3, blk := some .tun, master := 0x701, addr := 96 * l, acc := 1, space := 0, pay := [(28, l), (2, region)] }

/-- Source 1 (R268 steps 1 to 3): the open epoch's lines and the groups are applied and consolidated into epoch E + 1. -/
def State.applyFlush (s : State) (e : Nat) (f : FlushRec) : State :=
  let mark (unc : List Nat) (ls : Sp (List Byte × Bool)) : Sp (List Byte × Bool) := ls.map fun (l, d, p) => (l, d, p || unc.contains l)
  let o : Sp (List Byte × Bool) := match s.tun.opened with | some x => mark x.unc x.lines | none => []
  let ls := (mark f.unc f.lines).foldl (fun (m : Sp (List Byte × Bool)) (l, x) => spIns m l x) o
  let bad := (match s.tun.opened with | some x => x.unc | none => []).map (fun l => (l, 0)) ++ s.tun.imgU.map (fun l => (l, 0)) ++ f.unc.map (fun l => (l, 1))
  let ep : Epoch := { n := e + 1, tick := s.ticks, ms := s.pew.ms, tbase := s.tb, dirty := ls.length, lines := ls }
  bad.foldl (fun (s : State) (l, r) => s.lostLine l r) ((s.commitEpoch ep).imageBack)

/-- Source 2 (R268, R358): the image as the last closed epoch left it; every queue is disabled and empty. -/
def State.fallBack (s : State) (e cause : Nat) : State :=
  let s := s.modTun fun t => { t with opened := none, closed := e }
  let s := s.imageBack
  let s := s.tun.imgU.foldl (fun (s : State) l => s.lostLine l 0) s
  let s := (List.range 512).foldl (fun (s : State) i => if s.qEn i then s.sg (aQ i 8) (setBit (s.qCfg i) 5 false) else s) s
  let cut := match spGet s.tun.ring (e % 1024) with | some c => c.ms | none => 0
  let s := s.sg (aTun 0x38) (BitVec.ofNat 48 cut)
  ({ s with qs := [] } : State).event { code := 0x0411, sev := 3, cls := 5, blk := some .tun, master := 0x701, pay := [(4, cause), (48, e)] }

/-- The time base after a fallback (R245). -/
def State.oldTb (s : State) (e : Nat) : Word :=
  match s.tun.flush with
  | some f => f.tbase
  | none => match spGet s.tun.ring (e % 1024) with | some c => c.tbase | none => 0

/-- A processor as the machine-state section brings it back (R153): the resume notice carries RCODE; a pause of the clock has ended. -/
def Proc.back (q : Proc) (tick : Nat) (code : Word) : Proc :=
  { q with resume := q.resume.map fun _ => code.extractLsb' 0 16, loads := q.loads.map fun x => { x with tick := tick }, relock := none }

/-- The machine-state section comes back (R155, R198, R358, R493, R499). Its escalation timers stay stopped until the release (R488). -/
def State.machineBack (s : State) (m : Saved) : State :=
  let dt := s.ticks - m.tick
  let fe : Sp Fe := m.fe.map fun (n, (f : Fe)) => (n, { f with timer := none, quiet := f.quiet.map fun (c, t) => (c, t + dt), capTick := f.capTick + dt })
  let late (r : PRec) : PRec := { r with flags := r.flags ||| 8 }
  let s := s.fe.foldl (fun (s : State) (n, (f : Fe)) => if f.stat.getLsbD 0 ∧ (s.feAt n).stat.getLsbD 0 = false then s.setFe n f else s) { s with fe := fe }
  let s := m.dev.foldl (fun (s : State) (a, v) => if machMask a = 0xFFFFFFFFFFFF then { s with dev := spIns s.dev a v } else s.sg a v) s
  let s : State := { s with procs := m.procs, clus := m.clus, qs := m.qs, tb := m.tb, icont := m.icont }
  let s := s.modPew fun w =>
    { w with queue := m.pewq.map late ++ w.queue,
             buckets := m.buckets.foldl (fun (t : Sp Bucket) (c, (b : Bucket)) => if (spGet t c).isSome then t else spIns t c { b with tick := b.tick + dt }) w.buckets }
  (List.range 64).foldl (fun (s : State) p =>
    match (s.proc (BitVec.ofNat 6 p)).relock with
    | some v => s.clkTake p v.toNat
    | none =>
      let v := s.clkReg p
      if v.getLsbD 16 then s else s.setClk p (setFld v 13 8 (fld v 5 0))) s

/-- An entry gets a completion that resume makes: the next completion index, the entry written again (R346). -/
def State.repost (s : State) (q seq : Nat) (e : LEnt) (comp : List Byte) : State :=
  let i := (s.rp q).nidx
  let e : LEnt := { e with st := .done, cidx := i, comp := comp, timer := false, wait := false }
  (s.modRp q fun r => { r with nidx := r.nidx + 1 }).entWrite q seq e

/-- Resolve one entry (R346, R347); true when a completion is posted. -/
def State.resolveEnt (s : State) (q seq : Nat) (e : LEnt) : Bool × State :=
  let r := s.rp q
  let own := (s.ringOwner q).getD 0
  if e.addr ≠ s.slotAddr q seq ∨ seq < r.enSeq then (false, s)
  else if e.inv ≠ 0 then
    let s := s.repost q seq { e with idem := false, dlm := false, inst := BitVec.ofNat 6 own } (compBytes 0x0B 4 0 0 0 seq q own [] s.tb)
    (true, s.event { code := 0x0702, sev := 3, cls := 3, blk := some .elc, master := 0x110, inst := some own, addr := e.addr, acc := 1, space := 1,
                     pay := [(10, q), (26, seq % raSize (s.ra q)), (48, seq)] })
  else match e.st with
  | .abandoned => (false, s)
  | .done =>
    if (e.cidx - r.cqci).toNat < 2 ^ 31 then
      (true, s.repost q seq e (overlay 0 e.comp [(1, (e.comp.getD 1 0) ||| 2)]))
    else (false, s)
  | _ =>
    if e.idem then (false, s.setEnt q seq { e with st := .accepted, redo := true, timer := false, late := false, wait := false, urg := false })
    else (true, s.repost q seq { e with dlm := false } (compBytes 0x0B 0 (descProg e.desc) 0 (descTag e.desc) seq q e.inst.toNat [] s.tb))

/-- A ring record that fails its CRC (R347): the ring pair stays disabled, its entries are reported to the manager. -/
def State.resolveBad (s : State) (q : Nat) : State :=
  let n := raSize (s.ra q)
  let a0 := s.slotAddr q 0
  let es := (s.entsOf q).filter fun (_, e) => decide (a0 ≤ e.addr ∧ e.addr < a0 + 96 * n) && decide (e.inv = 0)
  let gone := es.filter fun (_, (e : LEnt)) => decide (e.st = .accepted) || decide (e.st = .started)
  let s := (s.modRp q fun _ => {}).sg (aCxl (0x10000 + 16 * q)) 0
  let s := s.sg (aCxl (0x10008 + 16 * q)) 0
  let s := es.foldl (fun (s : State) (seq, (e : LEnt)) =>
    let fl := 4 + 2 * b2n e.idem
    match e.st with
    | .abandoned => s
    | .done => s.report 2 e.inst.toNat q seq (descB e.comp 0) fl 0 (descB e.comp 2) (leNat ((e.comp.drop 4).take 4))
    | _ => (s.entWrite q seq { e with st := .abandoned, timer := false, wait := false }).report 1 e.inst.toNat q seq 0 fl 0 (descProg e.desc) (descTag e.desc)) s
  s.event { code := 0x0703, sev := 3, cls := 3, blk := some .elc, master := 0x110, inst := s.ringOwner q, pay := [(10, q), (26, gone.length)] }

/-- Ledger resolution (R346, R347, R349): of each enabled ring pair, the entries of its last N sequence numbers. -/
def State.resolve (s : State) : Bool × State :=
  let s := if s.mirMode ≠ 0 then s.resync else s
  let (p, s) := (List.range 1024).foldl (fun (x : Bool × State) q =>
    let (p, s) := x
    if (s.rp q).bad then (p, s.resolveBad q)
    else if s.rpEn q then
      let r := s.rp q
      ((s.entsOf q).filter fun (n, _) => decide (r.nextSeq ≤ n + raSize (s.ra q) ∧ n < r.nextSeq)).foldl (fun (x : Bool × State) (n, e) =>
        let (p, s) := x
        let (p', s) := s.resolveEnt q n e
        (p || p', s)) (p, s)
    else (p, s)) (false, s)
  (p, s.elcStatus 3)

/-- A command of an instance that the trip cut off (R432): RESET, DESTROY and FREEZE repeat from the start; a SAVE is abandoned and the
instance stays FROZEN, a RESTORE leaves none. -/
def State.cmdAgain (s : State) (i op : Nat) : State :=
  match op % 32 with
  | 3 | 4 => s.resetBegin i (op % 32)
  | 7 => s.instEnd i 7 0x0B 0
  | 8 => ((s.setInst i {}).setInstState i 0).instEnd i 8 0x0B 0
  | _ => (s.freeze i).freezeDrained i

/-- The commands that the trip cut off. -/
def State.cmdsAgain (s : State) : State :=
  s.icmd.foldl (fun (s : State) (i, op) => s.cmdAgain i op) { s with icmd := [] }

/-- The reset entry point of instance 0 (R511). -/
def State.resetEntry (s : State) (p : Nat) : State :=
  let c := s.inst 0
  if s.hasProc (BitVec.ofNat 6 p) then
    s.setProc (BitVec.ofNat 6 p) (({ procInit s.part p with run := .running } : Proc).setSeg 15 (entrySeg (c.wbase * 25165824) (c.wcount * 25165824)))
  else s

/-- The release of a start that is not source 1 (R21, R511). -/
def State.bootRelease (s : State) : State :=
  if fld (s.rg 0x10) 9 8 ≠ 1 then s
  else
    let go (s : State) : State := (procList (s.inst 0).procs).foldl State.resetEntry s
    match s.bprog with
    | none => go s
    | some b =>
      if b.ok then
        let l0 := (s.inst 0).wbase * 262144
        go ((List.range b.lines).foldl (fun (s : State) j => (s.uncWrite (96 * (l0 + j)) ((b.data.drop (96 * j)).take 96) false 0x603).2) s)
      else s.event { code := 0x0D22, sev := 2, master := 0x603, pay := [(14, b.lines), (32, (crc32c b.data).toNat)] }

/-- Is a restored line poisoned: by its entry, by Tungsten, or on a fenced channel (R268, R510)? -/
def State.poisonBack (s : State) : Bool :=
  !s.tun.imgP.isEmpty || !s.tun.imgU.isEmpty || (List.range s.part.stks).any fun st => decide ((s.stack st).fenced ≠ 0)

/-- What is recorded of the flush (R265, R274) and of a thermal trip (R537). -/
def State.flushEvents (s : State) (f : FlushRec) : State :=
  let n := f.lines.length
  let s := s.lateRec { code := 0x0410, sev := 1, master := 0x701, pay := [(48, f.seq), (24, n), (24, f.fus)] } f.ms f.pcyc
  if f.missed then
    s.lateRec { code := 0x0412, sev := 2, cls := 6, blk := some .tun, master := 0x701, pay := [(24, flushLimit n), (24, f.fus)] } f.ms f.pcyc
  else s

/-- PHASE 5 (R268 steps 1 to 4): the records of the flush, the main store, the machine-state section; what is late to tell of a thermal trip
(R537); processors that have no core. -/
def State.bootRestore (s : State) (x : Source) : State :=
  let flush := s.tun.flush
  let saved := s.saved
  let (ms, pcyc) := match flush with | some f => (f.ms, f.pcyc) | none => (s.pew.ms, s.pew.pcyc)
  let s := match x.src, flush with
    | 0, _ => s.coldStart
    | 1, some f => ({ s.flushEvents f with tb := f.tbase } : State).applyFlush x.epoch f
    | _, _ => ({ s with tb := s.oldTb x.epoch } : State).fallBack x.epoch x.cause
  let s := match x.src, saved with
    | 1, some m => s.machineBack m
    | _, _ => s
  let s := match s.tun.thermal with
    | some (d, t) =>
      (s.lateRec { code := 0x0D32, sev := 3, master := 0x603, pay := [(8, d), (16, (BitVec.ofInt 16 t).toNat)] } ms pcyc).modTun fun t => { t with thermal := none }
    | none => s
  s.bootLost.setPhase 5

/-- PHASE 6 (R386, R509): the standard image's program table after a cold start, then the installed images. -/
def State.bootImages (s : State) (x : Source) : State :=
  let s := if x.src = 0 then s.stdTable else s
  (if 2 ≤ fld (s.rg 0x10) 9 8 then s else s.loadImages).setPhase 6

/-- PHASE 7 (R268 step 5, R346): the ledger; the counters of the key slots start at their ceilings (R403). -/
def State.bootLedger (s : State) (x : Source) : State :=
  let s : State := { s with kslots := s.kslots.map fun (n, (k : KSlot)) => (n, { k with ctr := k.ceil }) }
  let (ledg, s) : Bool × State := if x.src = 0 then (false, s) else s.resolve
  (s.modTun fun t => { t with ledg := ledg }).setPhase 7

/-- Does a pair's self-test run that a trip interrupted (R289)? -/
def State.pairTests (s : State) : Bool := s.clus.any fun (_, (c : Clu)) => c.sparing.any fun t => !t.bg

/-- The boot goes on (R269, R510), a phase in a tick: what each phase's time is, no rule of the model says. An interrupted self-test ends
within PHASE 5 (R289), and PHASE 8 waits for the hold-up check. -/
def State.bootTick (s : State) : State :=
  if s.phase ≠ .boot then s
  else match fld (s.rg 0x10) 3 0, s.boot, s.tun.src with
  | 1, some b, _ => s.bootCores b
  | 2, some b, _ => (s.bootChan b).setPhase 3
  | 3, _, _ => s.bootSource
  | 4, _, some x => s.bootRestore x
  | 5, _, some x => if s.pairTests then s else s.bootImages x
  | 6, _, some x => s.bootLedger x
  | 7, _, _ => (s.modTun fun t => { t with checking := true }).setPhase 8
  | _, _, _ => s

/-- The resume code (R270). -/
def State.resumeCode (s : State) (x : Source) : Word :=
  let mx := fld (s.rg (aTun 8) budgetReset) 25 16
  let budg : Bool := match s.tun.lastMax with | some m => decide (m ≠ mx) | none => false
  BitVec.ofNat 48 (x.src + 16 * b2n (s.pstat.getLsbD 3) + 32 * b2n x.fdl + 64 * b2n (s.poisonBack && decide (x.src ≠ 0)) + 128 * b2n s.tun.ledg +
    256 * b2n budg + 512 * b2n x.plan + 4096 * x.cause)

/-- Ring pairs of contained and of frozen instances stay HELD (R428, R480). -/
def State.heldBack (s : State) : State :=
  (List.range 1024).foldl (fun (s : State) q => match s.ringOwner q with
    | some i => if s.icont.getLsbD i ∧ s.rpEn q then s.modRp q fun r => { r with held := setBit r.held 2 true }
        else if s.instState i = 2 ∧ s.rpEn q then s.modRp q fun r => { r with held := setBit r.held 1 true } else s
    | none => s) s

/-- The escalation timers that the trip stopped resume with their remaining time (R488). -/
def State.timersBack (s : State) (m : Saved) : State :=
  { s with fe := s.fe.map fun (n, (f : Fe)) =>
      (n, if f.wants && f.timer.isNone then { f with timer := ((spGetD {} m.fe n).timer).map (· + (s.ticks - m.tick)) } else f) }

/-- PHASE 9: the processors are released (R268 step 7, R270, R510). A link that trained again since a removal in this boot is attached
(R322). -/
def State.release (s : State) (x : Source) : State :=
  let code := s.resumeCode x
  let s := match x.src, s.saved with
    | 1, some m => s.timersBack m
    | _, _ => s
  let s := if s.mstat 1 && s.mstat 2 then s.setMstat 1 false else s
  let mx := fld (s.rg (aTun 8) budgetReset) 25 16
  let s : State := { s with procs := s.procs.map fun (n, (q : Proc)) => (n, q.back s.ticks code), phase := .run, saved := none, kept := none }
  let s := s.modTun fun t => { t with lastMax := some mx, opened := none, src := none, ledg := false }
  let s := (s.sg (aTun 0x30) code).setPhase 9
  let s := if x.src = 0 then s.setMstat 0 true else s.ringsBack
  let s := (s.heldBack).cmdsAgain
  let s := if x.src = 1 then s else s.bootRelease
  s.tick1.event { code := 0x0416, sev := 1, master := 0x701, pay := [(16, code.toNat), (48, Config.freeNat s.free)] }

def execProcessorsReleased (s : State) : Res :=
  .next (match s.tun.src with
    | some x => if s.phase = .boot ∧ fld (s.rg 0x10) 3 0 = 8 ∧ s.tun.checking = false then s.release x else s
    | none => s)

end Sys2Proof.Machine
end

