-- ==== Sys2Proof/Machine/Mgmt.lean ====
section
/-!
DEFINITION. The sideband (spec 20): its lines (R524, R526, R530), the management space (R527, R528), trace frames (R529, R531), the
sensors (R537) and the rails (R534, R535).
-/
namespace Sys2Proof.Machine

open Sys2Proof

/-- The power state that MSTATE reports (R538). -/
def State.powerState (s : State) : Nat :=
  match s.phase with
  | .off => if s.vaux then 1 else 0
  | .boot | .nores => 2
  | .run => 3
  | .flush => 4
  | .flushed => 5
  | .fatal => 6

/-- Does the sideband stand in its flush phase (R524, R531)? -/
def State.flushLines (s : State) : Bool := decide (s.phase = .flush ∨ s.phase = .flushed) || s.tun.done

/-- STRAP_SEL (R525): high in the second half of its period of 500 cycles, from VAUX. -/
def State.strapSel (s : State) : Option Bool := if s.vaux then some (decide (250 ≤ s.sel)) else none

/-- The level the module gives an SBL line, none where it drives none or releases an open drain (R524, R526, R530). MDIO and, while
trace is on, its lines are told by their frames. -/
def State.sbl (s : State) (i : Nat) : Option Bool :=
  let low (b : Bool) : Option Bool := if b then some false else none
  if s.flushLines then
    match i with
    | 0 | 1 | 2 => some (s.tun.pcode.getLsbD i)
    | 3 => some s.tun.done
    | 4 => none
    | 5 => some (!s.tun.done)
    | _ => if i < 12 then some false else none
  else if s.phase = .off then (if i = 0 then low (match s.boot with | some b => decide (b.brassOk = 0) | none => false) else none)
  else match i with
    | 0 => low (decide (s.phase = .fatal))
    | 1 => low (s.fe.any fun (_, f) => f.wants)
    | 4 => low (decide (s.mgmt.alert.toNat &&& (65535 - s.mgmt.almask.toNat) ≠ 0))
    | 5 => some (s.mstat 0)
    | _ => if 6 ≤ i ∧ i < 12 ∧ s.mgmt.trctl.getLsbD 0 = false then some false else none

/-- Does the management channel work (R527)? -/
def State.mdioOn (s : State) : Bool := (match s.phase with | .boot | .nores | .run | .fatal => true | _ => false) && !s.tun.done

/-- A read of the management space (R528). -/
def State.mgmtGet (s : State) (a : Nat) : BitVec 16 :=
  if a = 0 then BitVec.ofNat 16 (s.powerState + 8 * b2n (s.pstat.getLsbD 3) + 16 * fld s.pstat 2 0)
  else if a ≤ 3 then Config.serial.extractLsb' (16 * (a - 1)) 16
  else if 0x10 ≤ a ∧ a < 0x1C then (if 3 + s.part.stks ≤ a - 0x10 ∧ a < 0x1B then 0 else BitVec.ofInt 16 (s.mgmt.temp.getD (a - 0x10) 0))
  else if 0x20 ≤ a ∧ a < 0x26 then BitVec.ofNat 16 (s.mgmt.volt.getD (a - 0x20) 0)
  else if 0x30 ≤ a ∧ a < 0x35 then BitVec.ofNat 16 (s.mgmt.curr.getD (a - 0x30) 0)
  else if a = 0x40 then s.mgmt.trctl.zeroExtend 16
  else if a = 0x41 then s.mgmt.alert.zeroExtend 16
  else if a = 0x42 then s.mgmt.almask
  else 0

def execManagementRead (addr : BitVec 12) (s : State) : Res :=
  .next (if s.mdioOn then s.out (.value 4 (s.mgmtGet addr.toNat).toNat) else s)

/-- A write of the management space (R527, R528); trace that goes off sends nothing more; ALERT bit 1 stands while a core is throttled
(R537). -/
def State.mgmtSet (s : State) (a : Nat) (v : BitVec 16) : State :=
  if a = 0x40 then
    s.modMgmt fun m => if v.getLsbD 0 then { m with trctl := v.extractLsb' 0 3 } else { m with trctl := v.extractLsb' 0 3, trq := [], gap := none }
  else if a = 0x41 then s.modMgmt fun m => { m with alert := setBit (m.alert &&& ~~~(v.extractLsb' 0 5)) 1 (m.alert.getLsbD 1 && (!v.getLsbD 1 || !m.thr.isEmpty)) }
  else if a = 0x42 then s.modMgmt fun m => { m with almask := v }
  else s

def execManagementWrite (addr : BitVec 12) (v : BitVec 16) (s : State) : Res :=
  .next (if s.mdioOn ∧ s.phase ≠ .fatal then s.mgmtSet addr.toNat v else s)

/-- One bit of CRC-8 with x^8 + x^2 + x + 1 (R529). -/
def crc8Bit (c : Byte) (b : Bool) : Byte :=
  let t := Bool.xor (c.getLsbD 7) b
  if t then (c <<< 1) ^^^ 0x07 else c <<< 1

/-- CRC-8 over bytes, bit 0 of the frame first. -/
def crc8 (bs : List Byte) : Byte :=
  bs.foldl (fun (c : Byte) x => (List.range 8).foldl (fun (c : Byte) i => crc8Bit c (x.getLsbD i)) c) 0

/-- The 50 bytes of a frame (R529). -/
def frame (typ : Nat) (pay : List Byte) : List Byte :=
  let bs := BitVec.ofNat 8 typ :: (List.range 48).map fun i => pay.getD i 0
  bs ++ [crc8 bs]

/-- The 5 bits of beat b of a frame (R529). -/
def frameBeat (f : List Byte) (b : Nat) : BitVec 5 :=
  BitVec.ofNat 5 ((leNat f >>> (5 * b)) % 32)

/-- The next trace frame (R529, R531): a fault frame in FATAL, a gap marker once there is room again, the oldest record, or idle. -/
def State.traceNext (s : State) : State :=
  let m := s.mgmt
  if s.phase = .fatal then s.out (.trace (frame 3 (wordLe (s.rg (aBrs 0x838)) ++ wordLe s.tb)))
  else match m.gap, m.trq with
  | some (n, t), q =>
    if q.length < 64 then (s.modMgmt fun m => { m with gap := none }).out (.trace (frame 2 (natLe 6 n ++ natLe 6 t ++ natLe 6 s.pew.ms)))
    else (match q with
      | r :: rest => (s.modMgmt fun m => { m with trq := rest }).out (.trace (frame 1 r.bytes))
      | [] => s)
  | none, r :: rest => (s.modMgmt fun m => { m with trq := rest }).out (.trace (frame 1 r.bytes))
  | none, [] => s.out (.trace (frame 0 []))

def execTraceFrame (s : State) : Res := .next (if s.mdioOn ∧ s.mgmt.trctl.getLsbD 0 = true then s.traceNext else s)

/-- The warning, throttle and trip thresholds of a sensor group in quarter degrees (R537); no throttle but for compute dies. -/
def tempLimits (g : Nat) : Int × Option Int × Int :=
  if g < 2 then (400, some 412, 440)
  else if g = 2 then (400, none, 440)
  else if g < 11 then (360, none, 400)
  else (320, none, 360)

/-- A die of a sensor group (R515); which one of a stack or of Tungsten was hottest is open. -/
def State.groupDie (s : State) (g : Nat) : Nat :=
  if g < 3 then g
  else if g < 11 then 3 + 17 * (g - 3) + Config.freeNat s.free % 17
  else 139 + Config.freeNat s.free % (if s.part = .cx then 9 else 12)

/-- CUR of every processor on a compute die follows the throttle limit (R539). -/
def State.throttleClocks (s : State) (d : Nat) : State :=
  ((List.range 32).map (32 * d + ·)).foldl (fun (s : State) p =>
    let v := s.clkReg p
    if s.hasProc (BitVec.ofNat 6 p) then s.setClk p (setFld v 13 8 (min (if v.getLsbD 16 then fld v 13 8 else fld v 5 0) (s.thrLimit p))) else s) s

/-- The throttle of a compute die at a reading (R537): 400 MHz down each ms to 1.0 GHz, 100 MHz up each ms below 98 °C. -/
def State.throttle (s : State) (d : Nat) (t : Int) : State :=
  let ev (low dur : Nat) : Ev := { code := 0x0D31, sev := 2, master := 0x603, pay := [(8, d), (6, low), (32, dur)] }
  let s := match spGet s.mgmt.thr d with
    | none =>
      if 412 ≤ t then ((s.modMgmt fun m => { m with thr := spIns m.thr d (36, s.ticks, 36) }).throttleClocks d).event (ev 36 0) else s
    | some (l, t0, low) =>
      if 412 ≤ t then
        let l := max 10 (l - 4)
        (s.modMgmt fun m => { m with thr := spIns m.thr d (l, t0, min low l) }).throttleClocks d
      else if t < 392 then
        if 40 ≤ l + 1 then ((s.modMgmt fun m => { m with thr := spDel m.thr d }).throttleClocks d).event (ev low ((s.ticks - t0) / 25))
        else (s.modMgmt fun m => { m with thr := spIns m.thr d (l + 1, t0, low) }).throttleClocks d
      else s
  if s.mgmt.thr.isEmpty then s else s.modMgmt fun m => { m with alert := setBit m.alert 1 true }

/-- One group's reading (R537): warning when it reaches the threshold, throttle, trip. -/
def State.sensorGroup (s : State) (g : Nat) (t : Int) : State :=
  let (w, _, x) := tempLimits g
  let s :=
    if t < w then s.modMgmt fun m => { m with warm := m.warm.erase g }
    else if s.mgmt.warm.contains g then s
    else
      let d := s.groupDie g
      ((s.tick1).modMgmt fun m => { m with warm := insNat m.warm g, alert := setBit m.alert 0 true }).event
        { code := 0x0D30, sev := 2, master := 0x603, pay := [(8, d), (16, (BitVec.ofInt 16 t).toNat)] }
  let s := if g < 2 then s.throttle g t else s
  if x ≤ t then
    let d := s.groupDie g
    let run : Bool := decide (s.phase = .run ∨ s.phase = .boot ∨ s.phase = .nores)
    let s := (s.tick1).trip 3
    if run then s.modTun fun y => { y with thermal := some (d, t) } else s
  else s

/-- Brass reads every sensor (R528, R537); VHOLD below 11.4 V sets ALERT bit 3. -/
def State.sensors (s : State) (r : Sensors) : State :=
  let s := s.modMgmt fun m => { m with temp := r.temp, volt := r.volt, curr := r.curr }
  let s := if r.volt.getD 5 0 < 11400 then s.modMgmt fun m => { m with alert := setBit m.alert 3 true } else s
  (List.range 12).foldl (fun (s : State) g => if 3 + s.part.stks ≤ g ∧ g < 11 then s else s.sensorGroup g (r.temp.getD g 0)) s

def execSensorRead (r : Sensors) (s : State) : Res := .next (if s.mdioOn then s.sensors r else s)

/-- Nominal voltage in mV and tolerance in percent of the rails (R534). -/
def railNominal : Nat → Option (Nat × Nat)
  | 0 => some (720, 3)
  | 1 => some (800, 3)
  | 2 => some (900, 3)
  | 3 => some (1200, 5)
  | 4 => some (3300, 5)
  | _ => none

/-- A rail leaves tolerance (R535): ALERT bit 2 and event 0x0D33; once VHOLD is below 9.0 V during a flush, which ends it with code 7
(R265), only VAUX counts. -/
def execRailOutOfTolerance (rail : BitVec 3) (mv us : Nat) (s : State) : Res :=
  .next (match railNominal rail.toNat with
    | none => s
    | some (nom, tol) =>
      let outside : Bool := decide (nom * tol < 100 * (mv - nom)) || decide (nom * tol < 100 * (nom - mv))
      let counts : Bool := match s.phase with | .boot | .nores | .run | .fatal => true | .flush => true | .flushed => decide (rail = 4 ∨ s.tun.pcode ≠ 7) | .off => false
      if outside && counts then
        (s.modMgmt fun m => { m with alert := setBit m.alert 2 true }).event { code := 0x0D33, sev := 3, master := 0x603, pay := [(3, rail.toNat), (16, mv), (32, us)] }
      else s)

end Sys2Proof.Machine
end

