-- ==== Sys2Proof/Machine/Dev.lean ====
section
/-!
DEFINITION. Device space as its agents use it (spec 02 R39, R52, spec 12 R301, R305, spec 21): what each register reads, what a
write of it does, and with them the arrival of load data and the acknowledgement of posted writes (R61, R158 to R160).
-/
namespace Sys2Proof.Machine

open Sys2Proof

/-- `CXL` (R327, R328) less CTL and its capture; the ring registers act by rules of their own (R304). -/
def cxlReg (nclu : Nat) (o : Nat) : Option RegD :=
  if 0x10000 ≤ o ∧ o < 0x14000 ∧ o % 8 = 0 then some (roReg 0)
  else match o with
  | 0x08 => some (roReg 0)
  | 0x10 => some (roReg 0)
  | 0x18 => some ⟨0, [w1c 5 0]⟩
  | 0x20 => some ⟨0, routeFlds nclu 9 7⟩
  | _ => none

/-- `CHAN[e]` (R363, R388) less its capture. -/
def chanReg (o : Nat) : Option RegD :=
  match o with
  | 0x000 => some ⟨1, [rw 0 0]⟩
  | 0x018 => some (roReg 0)
  | 0x1000 => some ⟨0, [rw 14 0]⟩
  | 0x1008 => some ⟨0x1FF, [rw 47 0]⟩
  | 0x1010 => some ⟨0, [rw 47 0]⟩
  | 0x1018 => some (roReg 0)
  | 0x1020 => some (roReg 0)
  | 0x1028 => some ⟨0, [rw 47 0]⟩
  | 0x1030 => some (roReg 0)
  | 0x1038 => some (roReg 0)
  | _ => none

/-- `CHQ` (R333, R364, R365): RESV, COMMIT, READ and CMD hold nothing. -/
def chqReg (nclu : Nat) (o : Nat) : Option RegD :=
  if o < 0x800 ∧ o % 8 = 0 then some ⟨0, [rw 47 30, rw 14 0]⟩
  else if 0x1000 ≤ o ∧ o < 0x9000 then
    match (o - 0x1000) % 0x40 with
    | 0x00 => some (roReg 0)
    | 0x08 => some (roReg 0)
    | 0x30 => some (roReg 0)
    | 0x38 => some ⟨0, routeFlds nclu 9 7⟩
    | _ => none
  else match o with
  | 0x800 => some ⟨1000, [rw 19 0]⟩
  | 0x808 => some (roReg 0)
  | 0x810 => some (roReg 0)
  | _ => none

/-- `ELC` (R366, R367) less its capture: MIR and RA act by rules of their own. -/
def elcReg (nclu : Nat) (o : Nat) : Option RegD :=
  if 0x1000 ≤ o ∧ o < 0x3000 ∧ o % 8 = 0 then some (roReg 0)
  else if 0x3000 ≤ o ∧ o < 0x3200 ∧ o % 8 = 0 then some ⟨4096, [rw 12 0]⟩
  else match o with
  | 0x00 => some (roReg 0)
  | 0x08 => some ⟨0, [rw 43 30, rw 29 16, rw 14 14, rw 13 0]⟩
  | 0x10 => some ⟨0, [rw 47 0]⟩
  | 0x20 => some (roReg 0)
  | 0x28 => some (roReg 0)
  | 0x30 => some (roReg 0)
  | 0x38 => some (roReg 0)
  | 0x40 => some (roReg 0)
  | 0x48 => some (roReg 0)
  | 0x50 => some ⟨0, routeFlds nclu 9 7⟩
  | 0x58 => some ⟨0, [w1c 3 0]⟩
  | _ => none

/-- `COB` (R414, R415) less its capture, KEY0 to KEY5 and KLOAD. -/
def cobReg (nclu : Nat) (o : Nat) : Option RegD :=
  match o with
  | 0x00 => some (roReg 0)
  | 0x08 => some (roReg 0)
  | 0x10 => some ⟨0, [rw 11 0]⟩
  | 0x18 => some (roReg 0)
  | 0x20 => some (roReg 0)
  | 0x28 => some (roReg 0)
  | 0x68 => some ⟨0, [w1c 2 2]⟩
  | 0x70 => some (roReg 0)
  | 0x78 => some (roReg 0)
  | 0x80 => some ⟨0, routeFlds nclu 9 7⟩
  | 0x88 => some ⟨0, [w1c 1 0]⟩
  | _ => none

/-- `ZN` (R416) less its capture. -/
def znReg (o : Nat) : Option RegD :=
  if 0x200 ≤ o ∧ o < 0x400 ∧ o % 8 = 0 then some ⟨4, [rwIn 2 0 0 4]⟩
  else match o with
  | 0x08 => some (roReg 0)
  | 0x10 => some (roReg 0)
  | 0x18 => some (roReg 0)
  | 0x20 => some (roReg 0)
  | _ => none

/-- `INSTM` (R425): RPTB and RPTCI act by rules of their own. -/
def instmReg (o : Nat) : Option RegD :=
  match o with
  | 0x00 => some (roReg 0)
  | 0x08 => some (roReg 0)
  | 0x10 => some (roReg 0)
  | 0x18 => some ⟨0, [rw 11 0]⟩
  | _ => none

/-- `MBV[l]` (R461, R462) less its capture: CTL acts by a rule of its own. -/
def mbvReg (o : Nat) : Option RegD :=
  match o with
  | 0x00 => some ⟨3, []⟩
  | 0x08 => some (roReg 0)
  | 0x10 => some (roReg 0)
  | 0x18 => some (roReg 0)
  | 0x20 => some (roReg 0)
  | 0x28 => some (roReg 0)
  | _ => none

/-- `MBG` (R463, R464) less its capture: SHAPE and DTR act by rules of their own. -/
def mbgReg (p : Part) (o : Nat) : Option RegD :=
  if 0x200 ≤ o ∧ o < 0x300 ∧ o % 8 = 0 then some ⟨0, if o % 16 = 0 then [rw 24 0] else [rw 27 0]⟩
  else if 0x400 ≤ o ∧ o < 0x1440 then
    match (o - 0x400) % 0x40 with
    | 0x00 => some ⟨0, [rw 47 0]⟩
    | 0x10 => some ⟨0, [rw 47 0]⟩
    | 0x18 => some ⟨0, [rw 47 0]⟩
    | 0x20 => some (roReg 0)
    | 0x28 => some ⟨0, [rw 16 16, w1c 1 1]⟩
    | _ => none
  else if 0x1800 ≤ o ∧ o < 0x1880 then
    match (o - 0x1800) % 0x20 with
    | 0x00 => some ⟨0, [rw 13 0, rwIn 28 14 1 16384]⟩
    | 0x10 => some ⟨0, [w1c 3 1]⟩
    | _ => none
  else match o with
  | 0x00 => some (roReg 0)
  | 0x08 => some (roReg (shapeReset p))
  | 0x10 => some ⟨portReset p, [rw 17 0]⟩
  | 0x18 => some (roReg dtrReset)
  | 0x28 => some (roReg 0)
  | 0x30 => some (roReg 0)
  | 0x38 => some (roReg 0)
  | 0x40 => some ⟨0, routeFlds p.clusters 9 7⟩
  | 0x48 => some ⟨0, [w1c 2 0]⟩
  | _ => none

/-- The stored registers of device space: reset value and plainly written fields. -/
def regOf (p : Part) : Loc → Option RegD
  | .sys o => sysReg p o
  | .clk o => clkReg p o
  | .clu _ o => cluReg o
  | .cc _ o => ccReg o
  | .ms o => msReg p o
  | .tun o => tunReg p.clusters o
  | .cxl o => cxlReg p.clusters o
  | .chan _ o => chanReg o
  | .chq o => chqReg p.clusters o
  | .elc o => elcReg p.clusters o
  | .cob o => cobReg p.clusters o
  | .zn o => znReg o
  | .vi i o => viReg p i o
  | .instm o => instmReg o
  | .mbv _ o => mbvReg o
  | .mbg o => mbgReg p o
  | .brs o => brsReg p.clusters o
  | .pew o => pewReg p.clusters o
  | _ => Option.none

/-- The kind of a die (R515, R517), for those that a part has. -/
def dieKind (p : Part) (d : Nat) : Option Nat :=
  if d < 2 then some 0
  else if d = 2 then some 1
  else if d < 139 then (if (d - 3) / 17 < p.stks then some (if (d - 3) % 17 = 0 then 2 else 3) else none)
  else if d < (if p.stks = 6 then 148 else 151) then some 4
  else none

/-- The identity registers (R516, R517): their contents are fixed in each module. -/
def idReg (p : Part) (o : Nat) : Option Word :=
  if 0x1000 ≤ o ∧ o % 8 = 0 then
    let d := (o - 0x1000) / 16
    match dieKind p d with
    | none => none
    | some k =>
      if o % 16 = 0 then some (Config.dieLot d)
      else some (BitVec.ofNat 48 (k * 2 ^ 25 + 2 ^ 24 + (Config.dieWafer d % 25 + 1) * 2 ^ 16 + (Config.dieXY d).toNat))
  else match o with
  | 0x200 => some Config.serial
  | 0x208 => some (BitVec.ofNat 48 (Config.dateYear.toNat * 2 ^ 16 + (Config.dateWeek % 53 + 1)))
  | 0x210 => some (Config.step.zeroExtend 48)
  | _ => none

/-- A capture's register as it reads (R475): FE_CLAIM reads zero; FE_CNT and FE_REC as FLT_SNAP last captured them. -/
def State.feRead (s : State) (b o : Nat) : Word :=
  let f := s.feAt b
  match o with
  | 0x00 => f.stat
  | 0x08 => f.addr
  | 0x10 => f.info
  | 0x18 => f.time
  | 0x28 => s.rg (b + 0x28)
  | 0x30 => s.rg (b + 0x30)
  | 0x38 => f.inj
  | _ => 0

/-- RUNLO (from 0) and RUNHI (from 32) of instance i (R419). -/
def State.runBits (s : State) (i from_ : Nat) : Word :=
  (List.range 32).foldl (fun (v : Word) j => setBit v j ((s.inst i).procs.getLsbD (from_ + j) && s.procRuns (from_ + j))) 0

/-- STALE (R420): the staged configuration is not the one in force, or the last command failed. -/
def State.stale (s : State) (i : Nat) : Bool := s.ifail.getLsbD i || decide (s.staged i ≠ s.inst i)

/-- Credits that link l holds, by virtual channel and class (R461). -/
def State.credits (s : State) (l : Nat) : Word :=
  let k := s.lnk l
  if k.up then
    (List.range 4).foldl (fun (v : Word) vc =>
      let h (c : Nat) : Nat := bufSize vc - spGetD 0 k.used (vc + 4 * c)
      setFld (setFld v (12 * vc + 5) (12 * vc) (h 0)) (12 * vc + 11) (12 * vc + 6) (h 1)) 0
  else 0

/-- Requests that wait in Cobalt's queue (R399, R415): those beyond the eight that its cores serve, of programs whose operation is open
and of programs whose first piece waits for its data. -/
def State.cobWaits (s : State) : Nat :=
  let progs := (List.range 16).flatMap fun e => (s.engine e).run.toList ++ (s.engine e).parked
  let fresh (p : Prog) : Bool := (p.pops.any fun o => decide (o.op = 6) && !o.ovr) && !s.cobs.any fun c => decide (c.q = p.q ∧ c.seq = p.seq)
  s.cobs.length + (progs.filter fresh).length - 8

/-- What a register of device space reads (R10, R541, R542), reads that act apart: an absent unit and an unlisted offset read zero. -/
def State.devGet (s : State) (off : Nat) : Word :=
  let l := locate off
  if locPresent s.part l = false ∨ off % 8 ≠ 0 then 0
  else match feOff l with
  | some (b, o) => s.feRead b o
  | none =>
    let v : Word := match regOf s.part l with | some d => s.rg off d.reset | none => 0
    match l with
    | .sys o => (match idReg s.part o with | some w => w | none => v)
    | .clk o => if 0x1000 ≤ o ∧ s.hasProc (BitVec.ofNat 6 ((o - 0x1000) / 8)) = false then 0 else v
    | .core n o => (match s.procOn n with | some p => (s.crRead p (o / 8)).1 | none => 0)
    | .cc k 0x038 =>
      let q := s.clu k
      let ctl : Bool := !q.ctlq.isEmpty || q.job.any fun j => match j.k with | .range _ _ _ => false | _ => true
      setBit (setBit v 1 ctl) 0 q.engineBusy
    | .ms o => if 0x1000 ≤ o ∧ o < 0x9000 ∧ o % 0x1000 = 0 then setBit v 8 (s.stack ((o - 0x1000) / 0x1000)).scrubbing else v
    | .chan e 0x008 =>
      let g := s.engine e
      BitVec.ofNat 48 (b2n g.run.isSome + min 127 g.parked.length * 2 + (match g.run with | some p => p.q.toNat | none => 0) * 2 ^ 8)
    | .chan e 0x010 => (match (s.engine e).run with | some p => BitVec.ofNat 48 p.seq | none => 0)
    | .cob 0x000 => setFld v 7 1 (min 127 s.cobWaits)
    | .zn 0x000 => (s.zns.foldl (fun (v : Word) z => setBit v z.eng true) 0)
    | .vi i 0x088 => setBit (setBit v 3 (s.stale i)) 2 (s.instBusy i)
    | .vi i 0x098 => s.runBits i 0
    | .vi i 0x0A0 => s.runBits i 32
    | .instm 0x020 => setFld (s.rg off) 31 0 s.repts.length
    | .mbv l 0x030 => s.credits l
    | .mbg 0x028 => setBit (setBit v 2 s.isolated) 1 s.draining
    | .brs 0x808 => s.fltSum 0
    | .brs 0x810 => s.fltSum 100
    | .brs 0x828 => BitVec.ofNat 48 (s.icont.toNat % 2 ^ 32)
    | .brs 0x830 => BitVec.ofNat 48 (s.icont.toNat / 2 ^ 32)
    | .pew 0x048 => s.pew.lastAnchor
    | _ => v

/-- A read of a register by processor p: IACK claims (R141), RESV reserves (R353), READ takes an item (R355). -/
def State.devRead (s : State) (p : BitVec 6) (off : Nat) : Word × State :=
  match locate off with
  | .core n 0x108 => (match s.procOn n with
      | some q => if locPresent s.part (.core n 0x108) then s.crRead q 33 else (0, s)
      | none => (0, s))
  | .chq o =>
    if 0x1000 ≤ o then
      let i := (o - 0x1000) / 0x40
      match (o - 0x1000) % 0x40 with
      | 0x10 => let (v, s) := s.qResv i (p.zeroExtend 12) none; (BitVec.ofNat 48 v, s)
      | 0x20 => let (v, s) := s.qRead i; (BitVec.ofNat 48 v, s)
      | _ => (s.devGet off, s)
    else (s.devGet off, s)
  | _ => (s.devGet off, s)

/-- A plain write (R10, R12). -/
def State.plain (s : State) (off : Nat) (v : Word) : State :=
  match regOf s.part (locate off) with
  | some d => s.sg off (writeFlds ((s.rg 0).getLsbD 0) (s.rg off d.reset) v d.flds) d.reset
  | none => s

/-- A request for a snapshot through its register (R502). -/
def State.snapWrite (s : State) (off : Nat) (v : Word) (b : SnapBlk) : State := if v.getLsbD 0 then (s.sg off 0).snapReq b else s

/-- The state an answer holds, where it is a next state. -/
def nextOf (s : State) (r : Res) : State := match r with | .next t => t | _ => s

/-- A write of a capture's register (R475, R478, R479, R485). -/
def State.feWrite (s : State) (a : Via) (off b o : Nat) (v : Word) : State :=
  if s.feMay a off then
    match o with
    | 0x00 => s.feStatWrite b v
    | 0x20 => s.feClaim b v
    | 0x38 => (match sumBlks.find? fun (x, _) => feBase x = b with | some (x, _) => s.injWrite x v | none => s)
    | _ => s
  else s

/-- A write of TUN_CTL (R273, R301): before RUN it takes only FORMAT. -/
def State.tunCtl (s : State) (v : Word) : State :=
  if s.phase = .run then
    let s := s.plain (aTun 0) v
    let s := if v.getLsbD 18 then s.modTun fun t => { t with checking := true } else s
    let s := if v.getLsbD 17 then s.tunCut else s
    if v.getLsbD 16 then s.trip 3 else s
  else if v.getLsbD 19 then s.format else s

/-- A write of CHAN[e]_UCTL (R386, R388). -/
def State.uctlWrite (s : State) (e : Nat) (v : Word) : State :=
  let a := aChan e 0x1020
  let s := if v.getLsbD 9 then s.sg a (setFld (setBit (s.rg a) 9 false) 15 12 0) else s
  match fld v 2 0 with
  | 1 => s.uctlRead e
  | 2 => if e = 0 then s.imgCmd false else s
  | 3 => if e = 0 then s.imgCmd true else s
  | 4 => if e = 0 then nextOf s (execRemove .pf s) else s
  | _ => s

/-- A write of ELC_RA[q] (R366, R418 note b): ignored while the pair is enabled, and unless the granules lie in the ledger partition
in force of the instance that holds it. -/
def State.raWrite (s : State) (q : Nat) (v : Word) : State :=
  match s.ringOwner q with
  | none => s
  | some i =>
    let c := s.inst i
    let b := fld v 13 0
    let n := fld v 27 14
    if s.rpEn q ∨ ¬(n = 0 ∨ (c.lgbase ≤ b ∧ b + n ≤ c.lgbase + c.lgcount)) then s
    else s.sg (aElc (0x1000 + 8 * q)) (BitVec.ofNat 48 (b + n * 2 ^ 14))

/-- A write of MBV[l]_CTL (R436, R458, R461): EN stays 0 while the straps are bad (R508); EN written to 1 ends LEFT; EN cleared takes
the link down, EN written from 0 to 1 lets it train at full width again. -/
def State.mbvCtl (s : State) (l : Nat) (v : Word) : State :=
  let held : Bool := match s.boot with | some b => bootBad b | none => false
  let en := v.getLsbD 0 && !held
  let old := s.rg (aMbv l 0) 3
  let s := s.sg (aMbv l 0) (BitVec.ofNat 48 (b2n en + 2 * b2n (v.getLsbD 1))) 3
  if en then
    let s : State := { s with leaving := none }
    let s := if old.getLsbD 0 then s else s.modLnk l fun k => { k with half := false }
    s.sg (aMbg 0x28) (setBit (s.rg (aMbg 0x28)) 0 false)
  else if old.getLsbD 0 && s.linkState l != 0 then s.linkDown l else s

/-- A write of MBG_SHAPE (R463, R464): ignored while a link is not down; a size out of its range leaves that size unchanged (R12), and
DZ is 1 in two dimensions. -/
def State.shapeWrite (s : State) (v : Word) : State :=
  if (List.range s.part.links).any fun l => s.linkState l != 0 then s
  else
    let d2 := v.getLsbD 24 || decide (s.part = .cx)
    let size (w : Word) (hi lo top : Nat) : Word := if 1 ≤ fld v hi lo ∧ fld v hi lo ≤ top then setFld w hi lo (fld v hi lo) else w
    let w := setBit (setFld s.shape 40 25 (fld v 40 25)) 24 d2
    let w := size (size w 7 0 (if d2 then 128 else 16)) 15 8 (if d2 then 128 else 32)
    s.sg (aMbg 8) (if d2 then setFld w 23 16 1 else size w 23 16 32) (shapeReset s.part)

/-- A write of MBG_DTR (R443): an alternate in its direction's own dimension, or one that names no direction, is a reserved encoding;
7 means none (R463). -/
def State.dtrWrite (s : State) (v : Word) : State :=
  s.sg (aMbg 0x18) ((List.range 6).foldl (fun (w : Word) d =>
    let x := fld v (3 * d + 2) (3 * d)
    if x / 2 = d / 2 ∨ x = 6 then w else setFld w (3 * d + 2) (3 * d) x) (s.rg (aMbg 0x18) dtrReset)) dtrReset

/-- A write of INST[i]_CMD (R419, R420). The bytes that a RESTORE reads outside the main store, and what the image's target answers a
SAVE, are free here; the SAVE and RESTORE rows bring them. -/
def State.instCmdWrite (s : State) (a : Via) (i : BitVec 6) (op : Nat) : State :=
  let n := i.toNat
  if op = 0 ∨ 8 < op then s
  else nextOf s (s.instCmd a i fun s => match op with
    | 1 => s.create n
    | 2 => s.applyCmd n
    | 3 => s.destroy n
    | 4 => s.instReset n
    | 5 => s.freeze n
    | 6 => s.thaw n
    | 7 => s.tick1.save n (Config.freeNat s.free % 256)
    | _ => s.tick1.restore n (Config.freeBytes s.free (2 ^ 40)) (Config.freeNat s.free % 256))

/-- A write of a register of INST[i] (R419). -/
def State.viWrite (s : State) (a : Via) (i : BitVec 6) (o : Nat) (v : Word) : State :=
  let n := i.toNat
  let off := aVi n o
  let mbox (host inb full : Bool) (f : State → State) : State := nextOf s (s.mail a i o host inb full f)
  let staged : Bool := match a with
    | .pf => true
    | .proc x => (match s.instOfProc x with | some j => (s.inst j).sysr | none => false)
    | .vf _ => false
  if 0x100 ≤ o ∧ o < 0x158 then mbox true true true fun s => s.plain off v
  else if 0x180 ≤ o ∧ o < 0x1D8 then mbox false false true fun s => s.plain off v
  else match o with
  | 0x080 => s.instCmdWrite a i (fld v 3 0)
  | 0x090 =>
    let p : BitVec 6 := v.extractLsb' 0 6
    (match fld v 7 6 with
    | 1 => nextOf s (s.pctl a i p fun s => s.startProc p.toNat)
    | 2 => nextOf s (s.pctl a i p fun s => s.askStop p.toNat .stopped)
    | _ => s)
  | 0x158 => mbox true true true fun s => s.mailFull n 0 true
  | 0x160 => mbox false true false fun s => s.mailFull n 0 false
  | 0x1D8 => mbox false false true fun s => s.mailOut n
  | 0x1E0 => mbox true false false fun s => s.mailFull n 1 false
  | 0x1E8 => mbox true true false fun s => s.plain off v
  | _ => if (viReg s.part n o).isNone then s else if staged then s.plain off v else s.viLost n

/-- A write of a register of a queue (R353 to R356, R365). -/
def State.queueWrite (s : State) (a : Via) (i o : Nat) (v : Word) : State :=
  match o with
  | 0x00 => s.qBaseSet i v
  | 0x08 => s.qCfgSet i v
  | 0x18 => (s.qCommit i (BitVec.ofNat 12 (viaMaster a)) v).2
  | 0x28 => s.qCmd i (fld v 1 0)
  | 0x38 => s.plain (aQ i 0x38) v
  | _ => s

/-- A write of MBG (R443, R451, R455, R458, R463). -/
def State.mbgWrite (s : State) (o : Nat) (v : Word) : State :=
  if 0x400 ≤ o ∧ o < 0x1440 ∧ (o - 0x400) % 0x40 = 8 then s.opCmd ((o - 0x400) / 0x40) (v.extractLsb' 0 14) (fld v 16 14)
  else if 0x1800 ≤ o ∧ o < 0x1880 ∧ (o - 0x1800) % 0x20 = 8 then s.sbArrive ((o - 0x1800) / 0x20)
  else if 0x1800 ≤ o ∧ o < 0x1880 ∧ (o - 0x1800) % 0x20 = 0x18 then s.sbAbort ((o - 0x1800) / 0x20)
  else match o with
  | 0x08 => s.shapeWrite v
  | 0x18 => s.dtrWrite v
  | 0x20 => if v.getLsbD 0 then s.leaveSet else s
  | 0x30 => s.snapWrite (aMbg 0x30) v .mbg
  | _ => s.plain (aMbg o) v

/-- A write of BRS or FLT (R470, R481, R486), which R478 guards. -/
def State.brsWrite (s : State) (a : Via) (o : Nat) (v : Word) : State :=
  if s.feMay a (aBrs o) then
    match o with
    | 0x010 => if v.getLsbD 0 then s.rotate else s
    | 0x820 => s.crel v
    | 0x840 => s.snapWrite (aBrs 0x840) v .flt
    | _ => s.plain (aBrs o) v
  else s

/-- A write of CLU[k] (R138, R142, R276, R291, R295): a RETEST's outcome is free here; its own row brings it. A reserved OP completes with
FORMAT_ERROR (R12). -/
def State.cluWr (s : State) (k o : Nat) (v : Word) : State :=
  match o with
  | 0x300 => s.ipiWrite k v
  | 0x400 => (s.plain (aClu k 0x400) v).bootWrite
  | 0x418 => (match fld v 9 7 with
      | 1 => s.spMove k (fld v 2 0)
      | 2 => s.tick1.spRetest k (fld v 6 3) (decide (Config.freeNat s.free % 2 = 0))
      | _ => s.spBusy k fun s => s.spStatus k 4)
  | _ => s.plain (aClu k o) v

/-- A write of CC[k] (R182 to R193). -/
def State.ccWrite (s : State) (a : Via) (k o : Nat) (v : Word) : State :=
  match o with
  | 0x00 => s.ccCtlWrite a k (fld v 1 0)
  | 0x10 => s.lockWrite k v
  | 0x18 => s.pwrWrite a k v
  | 0x30 => s.mopWrite a k (fld v 3 0)
  | _ => s.plain (aCc k o) v

/-- The effect of a write of a register of device space (R10 to R12, R541). -/
def State.devEffect (s : State) (a : Via) (off : Nat) (v : Word) : State :=
  let l := locate off
  if locPresent s.part l = false ∨ off % 8 ≠ 0 then s
  else match feOff l with
  | some (b, o) => s.feWrite a off b o v
  | none =>
    match l with
    | .sys 0x00 => if v.getLsbD 0 then s.sg 0 1 else s
    | .sys 0x08 => s.sysReset v
    | .sys 0x28 => s.bpWrite v
    | .clk 0x08 => s.snapWrite off v .clk
    | .clk o => if 0x1000 ≤ o ∧ o < 0x1200 then s.clkSet (BitVec.ofNat 6 ((o - 0x1000) / 8)) v else s
    | .core n o => (match s.procOn n with | some p => s.crWrite a p (o / 8) v | none => s)
    | .clu k o => s.cluWr k o v
    | .cc k o => s.ccWrite a k o v
    | .ms 0x0008 => s.snapWrite off v .err
    | .ms 0xC000 => s.cgctlSet v
    | .ms 0xC0F8 => s.snapWrite off v .dir
    | .ms o => if 0xC008 ≤ o ∧ o < 0xC088 ∧ (s.rg (aMs 0xC000)).getLsbD 4 = true then s else s.plain off v
    | .tun 0x00 => s.tunCtl v
    | .tun 0x08 => s.budgetWrite v
    | .tun 0x10 => s.snapWrite off v .tun
    | .cxl 0x00 =>
      let s := if v.getLsbD 0 then s.detachGo else s
      if v.getLsbD 1 && s.mstat 1 && s.mstat 2 then s.attach else s
    | .cxl o =>
      if 0x10000 ≤ o then
        (if a = .pf then (if o % 16 = 0 then s.sqbSet ((o - 0x10000) / 16) v else s.cqbSet ((o - 0x10000) / 16) v) else s)
      else s.plain off v
    | .chan e 0x1018 => s.udata2 e v
    | .chan e 0x1020 => s.uctlWrite e v
    | .chq 0x808 => s.snapWrite off v .chq
    | .chq o => if 0x1000 ≤ o then s.queueWrite a ((o - 0x1000) / 0x40) ((o - 0x1000) % 0x40) v else s.plain off v
    | .elc 0x00 => s.mirSet v
    | .elc 0x18 => s.abort (fld v 9 0)
    | .elc 0x28 => s.snapWrite off v .elc
    | .elc o => if 0x1000 ≤ o ∧ o < 0x3000 then s.raWrite ((o - 0x1000) / 8) v else s.plain off v
    | .cob 0x08 => s.snapWrite off v .cob
    | .cob 0x60 => s.kload v
    | .cob o => if 0x30 ≤ o ∧ o < 0x60 then { s with kbuf := spPut 0 s.kbuf ((o - 0x30) / 8) v } else s.plain off v
    | .zn 0x08 => s.snapWrite off v .zn
    | .vi i o => s.viWrite a (BitVec.ofNat 6 i) o v
    | .instm 0x00 => s.rptbSet v
    | .instm 0x10 => s.rptciSet v
    | .mbv l 0x00 => s.mbvCtl l v
    | .mbv l 0x10 => s.snapWrite off v (.mbv (BitVec.ofNat 3 l))
    | .mbg o => s.mbgWrite o v
    | .brs o => s.brsWrite a o v
    | .pew 0x10 => s.snapWrite off v .pew
    | .pew 0x60 => s.anchor
    | .pew 0x80 => s.note v
    | .pew 0x90 => s.pewRead v
    | _ => s.plain off v

/-- A write of a register of device space by an agent that reaches it: its effect, after which an interrupt that it took back must pass
the agreement exchange again (R145, R283). -/
def State.devWrite (s : State) (a : Via) (off : Nat) (v : Word) : State := (s.devEffect a off v).seenFall

/-- A write of DB[q]_IRQ (R305 note a), which Electrum keeps with the ledger (R322). -/
def State.irqSet (s : State) (q : Nat) (v : Word) : State :=
  if fld v 10 0 ≥ msixSize ((s.ringOwner q).getD 0) ∨ (fld v 19 12 > 1 ∧ fld v 31 20 = 0) then s
  else (s.modRp q fun r => { r with irq := v &&& 0xFFFFFFFF }).ringWrite q

/-- A write of DB[q]_STAT (R305, R312): clearing ERR clears CODE and lets posting go on; fetching waits for SQPI (R306). -/
def State.rstatSet (s : State) (q : Nat) (v : Word) : State :=
  s.modRp q fun r =>
    let r := if v.getLsbD 1 then { r with resumed := false } else r
    if v.getLsbD 3 && r.err then { r with err := false, code := 0, stopP := false } else r

/-- An access of a shape that R301 refuses: event 0x0513 with BAR, offset and size (widths of 3, 24 and 4 bits are the model's). -/
def State.barRefused (s : State) (a : Via) (bar off size : Nat) : State :=
  if s.pewOn ∧ (a = .pf ∨ s.phase = .run) then
    s.event { code := 0x0513, sev := 1, master := viaMaster a, pay := [(3, bar), (24, off), (4, size)] }
  else s

/-- A write of a location of a doorbell page (R301, R305). -/
def State.dbWrite (s : State) (a : Via) (fn page off size : Nat) (v : BitVec 64) : State :=
  if size = 4 ∧ off % 8 = 4 then s
  else if off % 8 ≠ 0 ∨ (size ≠ 8 ∧ size ≠ 4) then s.barRefused a 2 (4096 * page + off) size
  else match s.pageRing fn page with
    | none => s
    | some q =>
      let w : Word := if size = 8 then v.setWidth 48 else (v.extractLsb' 0 32).zeroExtend 48
      match off with
      | 0x000 => s.sqpiSet q (v.extractLsb' 0 32)
      | 0x008 => s.cqciSet q (v.extractLsb' 0 32)
      | 0x020 => s.irqSet q w
      | 0x028 => s.rstatSet q w
      | _ => s

/-- The mask bit of a vector's control word in the MSI-X table (R300, R303): an unmasked vector whose pending bit is set is signalled. -/
def State.msixMask (s : State) (fn vec : Nat) (mask : Bool) : State :=
  let k := fn * 2048 + vec
  if vec ≥ msixSize fn then s
  else if mask then { s with cxl := { s.cxl with on := s.cxl.on.erase k } }
  else
    let s : State := { s with cxl := { s.cxl with on := insNat (s.cxl.on.erase k) k } }
    if s.cxl.pend.contains k then ({ s with cxl := { s.cxl with pend := s.cxl.pend.erase k } } : State).msix fn vec else s

/-- A register write of an agent (R10, R39, R301): BAR0 takes aligned 8-byte writes. A module that is off takes none. -/
def execRegisterWrite (a : Via) (x : RegAddr) (size : Nat) (v : BitVec 64) (s : State) : Res :=
  .next (match x with
    | .dev off =>
      (match a with
      | .proc _ => if off % 8 = 0 ∧ s.viaReach a off = true then s.devWrite a off (v.setWidth 48) else s
      | _ =>
        if size ≠ 8 ∨ off % 8 ≠ 0 then s.barRefused a 0 (match a with | .vf _ => off % 4096 | _ => off) size
        else if s.viaReach a off then s.devWrite a off (v.setWidth 48) else s)
    | .db page off =>
      (match a with
      | .pf => s.dbWrite a 0 page.toNat off size v
      | .vf i => s.dbWrite a i.toNat page.toNat off size v
      | .proc _ => s)
    | .msix vec =>
      (match a with
      | .pf => if s.pewOn ∧ s.phase ≠ .fatal then s.msixMask 0 vec.toNat (v.getLsbD 0) else s
      | .vf i => if s.phase = .run ∧ s.instState i.toNat ≠ 0 then s.msixMask i.toNat vec.toNat (v.getLsbD 0) else s
      | .proc _ => s))

/-- The register block of an offset, by its base (R159). -/
def blockOf (off : Nat) : Nat :=
  match locate off with
  | .sys o | .clk o | .core _ o | .clu _ o | .cc _ o | .ms o | .tun o | .cxl o | .chan _ o | .chq o | .elc o | .cob o | .zn o
  | .vi _ o | .instm o | .mbv _ o | .mbg o | .brs o | .pew o => off - o
  | .none => off / 4096 * 4096 + 1

/-- A device access of processor p with place `sn` in program order is its turn (R159, R160): no earlier load or store of its own to
the same register block is under way. -/
def Proc.devTurn (q : Proc) (sn off : Nat) : Bool :=
  !(q.loads.any fun l => decide (l.space = 2) && l.data.isNone && decide (l.sn < sn) && decide (blockOf l.addr = blockOf off)) &&
  !(q.ownStores.any fun e => decide (e.space = 2) && decide (e.sn < sn) && decide (blockOf e.at_ = blockOf off))

/-- The target of a posted write acknowledges it (R158, R159): a register block acts on the write then, in program order; host memory
acknowledges what the link carried; the home's answer ends a posted line's slot. A write to another node is acknowledged by its RSP. -/
def State.postedAck (s : State) (p : BitVec 6) (n : Nat) : State :=
  let q := s.proc p
  match q.slots.find? fun x => x.id = n with
  | none => s
  | some x =>
    match x.ents with
    | [] => s
    | y :: rest =>
      let freed := s.modProc p fun q => q.setEnts n rest
      match y.e.space.toNat with
      | 2 => if s.phase = .run ∧ q.devTurn y.e.sn y.e.at_ = true then
          freed.devWrite (.proc p) y.e.at_ (leWord (y.e.bytes.map fun z => z.2)) else s
      | 3 => freed
      | _ => if y.st = .sent then s.slotGo p n else s

/-- Does the module still bring to an end what its processors have begun: in Run, and until they have stopped in a flush or in FATAL
(R262, R483)? -/
def State.finishing (s : State) : Bool := match s.phase with | .run | .flush | .fatal => true | _ => false

def execPostedWriteAck (p : BitVec 6) (n : Nat) (s : State) : Res := .next (if s.finishing then s.postedAck p n else s)

/-- A load fills its line into the core's L1 data cache (R175, R177): exclusive where the cluster owns the line and no other core
holds it, otherwise shared by all. -/
def State.fillLoad (s : State) (n l : Nat) : State :=
  let k := n / 9
  let cs := (List.range 9).map fun c => 9 * k + c
  let others := cs.filter fun c => decide (c ≠ n) && (spGet (s.core c).dc l).isSome
  let own : Bool := match s.cline k l with | some c => decide (c.st = .m ∨ c.st = .e) | none => false
  let s := others.foldl (fun (s : State) c => s.modCore c fun (q : CoreS) =>
    { q with dc := match spGet q.dc l with | some x => spIns q.dc l { x with st := .s } | none => q.dc }) s
  s.fillL1D n l (if own && others.isEmpty then .e else .s)

/-- Has an earlier load of the same processor that waits for its data a byte in common with this one (R159: a load never returns a
value older than an earlier one did)? -/
def Proc.loadTurn (q : Proc) (l : Load) : Bool :=
  !q.loads.any fun y => decide (y.sn < l.sn) && y.data.isNone && y.fwd.isNone && decide (y.space = l.space) &&
    (decide (l.space ≠ 4) || decide (y.node = l.node)) && decide (y.addr < l.addr + l.kind.size ∧ l.addr < y.addr + y.kind.size)

/-- A load takes its bytes from the caches (R61, R175, R178, R189, R194): from the core's L1 data cache, which is checked; from the
cluster's line, which is read and filled into it; uncached where the cluster cannot hold the line. LLW takes forwarded bytes once its
cluster owns the line (R160, R172). -/
def State.loadCached (s : State) (p : BitVec 6) (n : Nat) (l : Load) (key : Nat) : State :=
  let c := s.hostCore p
  let llw : Bool := decide (l.kind = .llw)
  let cut (d : List Byte) : List Byte := (d.drop (l.addr % 96)).take l.kind.size
  let s := if llw then s else s.l1dCheck c key
  match s.wantLine (cluOf p) key llw false p.toNat with
  | (.waiting, s) => s
  | (.uncached, s) =>
    (match s.lineRead key (.unc (p.zeroExtend 12)) with
    | (some (d, z), s) => s.loadGets p n l (cut d) z
    | (none, s) => s)
  | (.ready, s) =>
    if s.l1dWait c key then s
    else
      let s := if (spGet (s.core c).dc key).isSome then s else (s.ccRead (cluOf p) key).fillLoad c key
      match s.cline (cluOf p) key with
      | some x => s.loadGets p n l (l.fwd.getD (cut x.data)) (x.pois && l.fwd.isNone)
      | none => s

/-- The data of a load arrives (R61, R86, R88, R158 to R160, R172, R251): forwarded bytes, the cache's line, Tungsten's bytes, a
register, or what the host brings with `ext` and `pois`. A load that its own earlier stores touch in part waits for them; one whose
request has not left asks first. -/
def State.loadArrives (s : State) (p : BitVec 6) (n : Nat) (ext : List Byte) (pois : Bool) : State :=
  let q := s.proc p
  match q.loads[n]? with
  | none => s
  | some l =>
    if l.data.isSome || (decide (l.kind = .llw) && q.backoff.isSome) then s
    else match (if l.kind = .llw then none else l.fwd) with
    | some bs => s.loadGets p n l bs false
    | none =>
      if (l.fwd.isNone && q.overlapped l) || !q.loadTurn l then s
      else match s.loadLine l with
      | some key => (s.loadAsk p l).loadCached p n l key
      | none =>
        if !l.asked then s.loadAsk p l
        else
          let sz := l.kind.size
          match l.space.toNat with
          | 1 => (let (bs, s) := s.tungRead p l.addr sz ext; s.loadGets p n l bs false)
          | 2 =>
            if q.devTurn l.sn l.addr then
              let (v, s) := s.devRead p l.addr
              s.loadGets p n l (wordLe v) false
            else s
          | 3 => if s.mstat 2 && !s.mstat 1 then s.loadGets p n l ((List.range sz).map fun i => ext.getD i 0) pois else s
          | _ => s

def execLoadDataArrival (p : BitVec 6) (n : Nat) (ext : List Byte) (pois : Bool) (s : State) : Res :=
  .next (if s.finishing then s.loadArrives p n ext pois else s)

end Sys2Proof.Machine
end

