-- ==== Sys2Proof/Machine/Fp.lean ====
section
/-!
DEFINITION. IEEE 754-2019 binary32 and binary64 arithmetic as spec 04 fixes it (R113 to R120), with exact integers, and
the forerunner-compatible division and square root (R122 to R126). Flags are in the order of R28: bit 0 NX, 1 UF, 2 OF,
3 DZ, 4 NV.
-/
namespace Sys2Proof.Machine

open Sys2Proof

/-- A format: false is binary32, true is binary64. -/
def fracBits (d : Bool) : Nat := if d then 52 else 23
def expBits (d : Bool) : Nat := if d then 11 else 8
def fpBias (d : Bool) : Nat := if d then 1023 else 127
/-- The smallest exponent of a normal number. -/
def eMin (d : Bool) : Int := 1 - (fpBias d : Int)

/-- A floating value: a NaN (signalling or not, with its bits), an infinity, a zero, or m·2^e with m > 0. -/
inductive FpV where
  | nan (sig : Bool) (bits : Nat)
  | inf (neg : Bool)
  | zero (neg : Bool)
  | fin (neg : Bool) (m : Nat) (e : Int)
deriving DecidableEq, Repr

/-- Read an operand of a format (R25, R113). -/
def fpUnpack (d : Bool) (v : BitVec 64) : FpV :=
  let w := if d then v.toNat else v.toNat % 2 ^ 32
  let fb := fracBits d
  let neg : Bool := decide (w / 2 ^ (fb + expBits d) % 2 = 1)
  let ex := w / 2 ^ fb % 2 ^ expBits d
  let fr := w % 2 ^ fb
  if ex = 2 ^ expBits d - 1 then
    if fr = 0 then .inf neg else .nan (decide (fr / 2 ^ (fb - 1) = 0)) w
  else if ex = 0 then
    if fr = 0 then .zero neg else .fin neg fr (eMin d - fb)
  else .fin neg (2 ^ fb + fr) ((ex : Int) - fpBias d - fb)

/-- Encodings (spec 04). -/
def fpSign (d : Bool) (neg : Bool) : Nat := if neg then 2 ^ (fracBits d + expBits d) else 0
def fpInf (d : Bool) (neg : Bool) : Nat := fpSign d neg + (2 ^ expBits d - 1) * 2 ^ fracBits d
def fpMax (d : Bool) (neg : Bool) : Nat := fpInf d neg - 1
def fpQNaN (d : Bool) : Nat := fpInf d false + 2 ^ (fracBits d - 1)
/-- A NaN quietened: its quiet bit set (R114). -/
def fpQuiet (d : Bool) (w : Nat) : Nat := w ||| 2 ^ (fracBits d - 1)

/-- The number of bits of a number. -/
def bitLen (n : Nat) : Nat := if n = 0 then 0 else n.log2 + 1

/-- A number m·2^e rounded to a multiple of 2^q under a rounding mode: the multiple and whether it was inexact. -/
def roundQ (rm : Nat) (neg : Bool) (m : Nat) (e q : Int) : Nat × Bool :=
  if q ≤ e then (m * 2 ^ (e - q).toNat, false)
  else
    let k := (q - e).toNat
    let n := m / 2 ^ k
    let r := m % 2 ^ k
    let half := 2 ^ (k - 1)
    let up : Bool := match rm with
      | 0 => decide (half < r) || (decide (r = half) && decide (n % 2 = 1))
      | 1 => false
      | 2 => decide (r ≠ 0) && !neg
      | 3 => decide (r ≠ 0) && neg
      | _ => decide (half ≤ r)
    (if up then n + 1 else n, decide (r ≠ 0))

/-- Overflow (R119). -/
def fpOver (d : Bool) (rm : Nat) (neg : Bool) : Nat :=
  match rm with
  | 1 => fpMax d neg
  | 2 => if neg then fpMax d true else fpInf d false
  | 3 => if neg then fpInf d true else fpMax d false
  | _ => fpInf d neg

/-- Round a nonzero m·2^e, plus something positive below its last bit when `sticky`, to a format: bits and flags
(R118, R119; tininess is detected after rounding). -/
def fpRound (d : Bool) (rm : Nat) (neg : Bool) (m0 : Nat) (e0 : Int) (sticky : Bool) : Nat × BitVec 5 :=
  let m := if sticky then 4 * m0 + 1 else m0
  let e := if sticky then e0 - 2 else e0
  let fb : Nat := fracBits d
  let top : Int := (bitLen m : Int) - 1 + e
  let qmin : Int := eMin d - fb
  let q := max (top - fb) qmin
  let (n, inex) := roundQ rm neg m e q
  let tiny : Bool :=
    if eMin d ≤ top then false
    else
      let (n1, _) := roundQ rm neg m e (top - fb)
      decide ((bitLen n1 : Int) - 1 + (top - fb) < eMin d)
  let rtop : Int := (bitLen n : Int) - 1 + q
  if (fpBias d : Int) < rtop ∧ n ≠ 0 then (fpOver d rm neg, 0b00101)
  else
    let bits :=
      if n < 2 ^ fb then n
      else
        -- normal: n has fb + 1 bits, or one more with a zero at the bottom
        let ex := (rtop + fpBias d).toNat
        let fr := (if bitLen n = fb + 2 then n / 2 else n) % 2 ^ fb
        ex * 2 ^ fb + fr
    (fpSign d neg + bits, (if inex then 1 else 0) ||| (if tiny && inex then 2 else 0))

/-- NaN operands (R114): the first one quietened, NV when any signals. -/
def fpNaNs (d : Bool) (l : List FpV) : Option (Nat × BitVec 5) :=
  let sig := l.any fun v => match v with | .nan s _ => s | _ => false
  (l.findSome? fun v => match v with | .nan _ w => some w | _ => none).map fun w =>
    (fpQuiet d w, if sig then 0b10000 else 0)

/-- The invalid result (R115). -/
def fpInvalid (d : Bool) : Nat × BitVec 5 := (fpQNaN d, 0b10000)

/-- A signed sum of two finite values given as integers at exponents: zero, or sign, magnitude and exponent. -/
def fpSum (n1 : Bool) (m1 : Nat) (e1 : Int) (n2 : Bool) (m2 : Nat) (e2 : Int) : Int × Int :=
  let e := min e1 e2
  let a : Int := (m1 * 2 ^ (e1 - e).toNat : Nat)
  let b : Int := (m2 * 2 ^ (e2 - e).toNat : Nat)
  ((if n1 then -a else a) + (if n2 then -b else b), e)

/-- An exact sum rounded (R117: an exact zero of opposite signs is +0, or −0 toward negative). -/
def fpRoundSum (d : Bool) (rm : Nat) (v : Int) (e : Int) : Nat × BitVec 5 :=
  if v = 0 then (fpSign d (rm = 3), 0) else fpRound d rm (decide (v < 0)) v.natAbs e false

/-- FADD and, with the second operand's sign inverted, FSUB (R114 to R117). -/
def fpAdd (d : Bool) (rm : Nat) (sub : Bool) (a b : BitVec 64) : Nat × BitVec 5 :=
  let x := fpUnpack d a
  let y := fpUnpack d b
  match fpNaNs d [x, y] with
  | some r => r
  | none =>
    match x, y with
    | .inf n1, .inf n2 => if n1 = (n2 ^^ sub) then (fpInf d n1, 0) else fpInvalid d
    | .inf n1, _ => (fpInf d n1, 0)
    | _, .inf n2 => (fpInf d (n2 ^^ sub), 0)
    | .zero n1, .zero n2 => if n1 = (n2 ^^ sub) then (fpSign d n1, 0) else (fpSign d (rm = 3), 0)
    | .zero _, .fin n2 m e => fpRound d rm (n2 ^^ sub) m e false
    | .fin n1 m e, .zero _ => fpRound d rm n1 m e false
    | .fin n1 m1 e1, .fin n2 m2 e2 => let (v, e) := fpSum n1 m1 e1 (n2 ^^ sub) m2 e2; fpRoundSum d rm v e
    | _, _ => fpInvalid d

/-- FMUL. -/
def fpMul (d : Bool) (rm : Nat) (a b : BitVec 64) : Nat × BitVec 5 :=
  let x := fpUnpack d a
  let y := fpUnpack d b
  match fpNaNs d [x, y] with
  | some r => r
  | none =>
    match x, y with
    | .inf _, .zero _ | .zero _, .inf _ => fpInvalid d
    | .inf n1, .inf n2 | .inf n1, .fin n2 _ _ | .fin n1 _ _, .inf n2 => (fpInf d (n1 ^^ n2), 0)
    | .zero n1, .zero n2 | .zero n1, .fin n2 _ _ | .fin n1 _ _, .zero n2 => (fpSign d (n1 ^^ n2), 0)
    | .fin n1 m1 e1, .fin n2 m2 e2 => fpRound d rm (n1 ^^ n2) (m1 * m2) (e1 + e2) false
    | _, _ => fpInvalid d

/-- FMA (R100, R114, R115, R117): the product negated by `np`, the addend by `na`, one rounding. -/
def fpFma (d : Bool) (rm : Nat) (np na : Bool) (a b c : BitVec 64) : Nat × BitVec 5 :=
  let x := fpUnpack d a
  let y := fpUnpack d b
  let z := fpUnpack d c
  let zeroInf : Bool := match x, y with
    | .inf _, .zero _ | .zero _, .inf _ => true
    | _, _ => false
  match fpNaNs d [x, y, z] with
  | some (w, fl) => (w, if zeroInf then 0b10000 else fl)
  | none =>
    if zeroInf then fpInvalid d else
    match x, y, z with
    | .inf n1, .inf n2, t | .inf n1, .fin n2 _ _, t | .fin n1 _ _, .inf n2, t =>
      let n := (n1 ^^ n2) ^^ np
      (match t with
      | .inf n3 => if (n3 ^^ na) = n then (fpInf d n, 0) else fpInvalid d
      | _ => (fpInf d n, 0))
    | .zero n1, .zero n2, t | .zero n1, .fin n2 _ _, t | .fin n1 _ _, .zero n2, t =>
      let n := (n1 ^^ n2) ^^ np
      (match t with
      | .inf n3 => (fpInf d (n3 ^^ na), 0)
      | .zero n3 => if (n3 ^^ na) = n then (fpSign d n, 0) else (fpSign d (rm = 3), 0)
      | .fin n3 m e => fpRound d rm (n3 ^^ na) m e false
      | _ => fpInvalid d)
    | .fin n1 m1 e1, .fin n2 m2 e2, t =>
      let n := (n1 ^^ n2) ^^ np
      (match t with
      | .inf n3 => (fpInf d (n3 ^^ na), 0)
      | .zero _ => fpRound d rm n (m1 * m2) (e1 + e2) false
      | .fin n3 m3 e3 => let (v, e) := fpSum n (m1 * m2) (e1 + e2) (n3 ^^ na) m3 e3; fpRoundSum d rm v e
      | _ => fpInvalid d)
    | _, _, _ => fpInvalid d

/-- The integer square root, one bit at a time from the top. -/
def isqrtGo (n : Nat) : Nat → Nat → Nat
  | 0, r => r
  | k + 1, r => isqrtGo n k (if (r + 2 ^ k) * (r + 2 ^ k) ≤ n then r + 2 ^ k else r)
def isqrt (n : Nat) : Nat := isqrtGo n (bitLen n / 2 + 1) 0

/-- A magnitude normalised: 1 ≤ ma < 2 held with `f` fraction bits, and its exponent (R123). -/
def fpNorm (f m : Nat) (e : Int) : Nat × Int :=
  let len := bitLen m
  (m * 2 ^ (f + 1 - len), e + len - 1)

/-- T[i] of R123, at 18 fraction bits: ties away from zero. -/
def recipT (i : Nat) : Nat :=
  let den := 2 ^ 14 + 2 * i + 1
  (2 * 2 ^ 32 + den) / (2 * den)

/-- S[i] of R124, at 18 fraction bits. -/
def rsqrtS (i : Nat) : Nat := (isqrt (4 * 2 ^ 49 / (2 ^ 13 + 2 * i + 1)) + 1) / 2

/-- The forerunner's quotient (R123). -/
def compatDiv (d : Bool) (rm : Nat) (neg : Bool) (m1 : Nat) (e1 : Int) (m2 : Nat) (e2 : Int) : Nat × BitVec 5 :=
  let f := if d then 62 else 30
  let (ma, ea) := fpNorm f m1 e1
  let (mb, eb) := fpNorm f m2 e2
  let i := (mb - 2 ^ f) / 2 ^ (f - 13)
  let t (x y : Nat) : Nat := x * y / 2 ^ f
  let y0 := recipT i * 2 ^ (f - 18)
  let y1 := t y0 (2 * 2 ^ f - t mb y0)
  let y2 := t y1 (2 * 2 ^ f - t mb y1)
  let q := t ma y2
  let r := fpRound d rm neg q (ea - eb - f) true
  (r.1, r.2 ||| 1)

/-- The forerunner's root (R124). -/
def compatSqrt (d : Bool) (rm : Nat) (m0 : Nat) (e0 : Int) : Nat × BitVec 5 :=
  let f := if d then 62 else 30
  let (m, e) := fpNorm f m0 e0
  let odd : Bool := decide (e % 2 ≠ 0)
  let m := if odd then 2 * m else m
  let e := if odd then e - 1 else e
  let i := (m - 2 ^ f) / 2 ^ (f - 12)
  let t (x y : Nat) : Nat := x * y / 2 ^ f
  let y0 := rsqrtS i * 2 ^ (f - 18)
  let y1 := t y0 ((3 * 2 ^ f - t m (t y0 y0)) / 2)
  let y2 := t y1 ((3 * 2 ^ f - t m (t y1 y1)) / 2)
  let r := fpRound d rm false (t m y2) (e / 2 - f) true
  (r.1, r.2 ||| 1)

/-- FDIV (R115, R120, R122, R123). -/
def fpDiv (d : Bool) (rm : Nat) (compat : Bool) (a b : BitVec 64) : Nat × BitVec 5 :=
  let x := fpUnpack d a
  let y := fpUnpack d b
  match fpNaNs d [x, y] with
  | some r => r
  | none =>
    match x, y with
    | .inf _, .inf _ | .zero _, .zero _ => fpInvalid d
    | .inf n1, .zero n2 | .inf n1, .fin n2 _ _ => (fpInf d (n1 ^^ n2), 0)
    | .zero n1, .inf n2 | .fin n1 _ _, .inf n2 | .zero n1, .fin n2 _ _ => (fpSign d (n1 ^^ n2), 0)
    | .fin n1 _ _, .zero n2 => (fpInf d (n1 ^^ n2), 0b01000)
    | .fin n1 m1 e1, .fin n2 m2 e2 =>
      if compat then compatDiv d rm (n1 ^^ n2) m1 e1 m2 e2
      else
        let k := bitLen m2 + 2 * fracBits d + 8
        let num := m1 * 2 ^ k
        fpRound d rm (n1 ^^ n2) (num / m2) (e1 - e2 - k) (decide (num % m2 ≠ 0))
    | _, _ => fpInvalid d

/-- FSQRT (R115, R117, R122, R124). -/
def fpSqrt (d : Bool) (rm : Nat) (compat : Bool) (a : BitVec 64) : Nat × BitVec 5 :=
  let x := fpUnpack d a
  match fpNaNs d [x] with
  | some r => r
  | none =>
    match x with
    | .zero n => (fpSign d n, 0)
    | .inf false => (fpInf d false, 0)
    | .fin false m e =>
      if compat then compatSqrt d rm m e
      else
        let sh := 2 * fracBits d + 8 + (if e % 2 = 0 then 0 else 1)
        let v := m * 2 ^ sh
        let r := isqrt v
        fpRound d rm false r ((e - sh) / 2) (decide (r * r ≠ v))
    | _ => fpInvalid d

/-- Less-than on values that are no NaN. -/
def fpLess : FpV → FpV → Bool
  | .inf n1, .inf n2 => n1 && !n2
  | .inf n1, _ => n1
  | _, .inf n2 => !n2
  | .zero _, .zero _ => false
  | .zero _, .fin n _ _ => !n
  | .fin n _ _, .zero _ => n
  | .fin n1 m1 e1, .fin n2 m2 e2 => decide ((fpSum n1 m1 e1 (!n2) m2 e2).1 < 0)
  | _, _ => false

/-- Equality on values that are no NaN (zeros of either sign are equal). -/
def fpEqual : FpV → FpV → Bool
  | .inf n1, .inf n2 => n1 == n2
  | .zero _, .zero _ => true
  | .fin n1 m1 e1, .fin n2 m2 e2 => decide ((fpSum n1 m1 e1 (!n2) m2 e2).1 = 0)
  | _, _ => false

/-- A value that is a NaN, one that signals. -/
def FpV.isNaN : FpV → Bool
  | .nan _ _ => true
  | _ => false
def FpV.sigNaN : FpV → Bool
  | .nan s _ => s
  | _ => false

/-- FEQ, FLT, FLE and FUN (R98): the result and the flags. -/
def fpCmp (d : Bool) (op : Nat) (a b : BitVec 64) : Nat × BitVec 5 :=
  let x := fpUnpack d a
  let y := fpUnpack d b
  let nan := x.isNaN || y.isNaN
  let sig := x.sigNaN || y.sigNaN
  let nv (c : Bool) : BitVec 5 := if c then 0b10000 else 0
  match op with
  | 8 => (b2n (!nan && fpEqual x y), nv sig)
  | 9 => (b2n (!nan && fpLess x y), nv nan)
  | 10 => (b2n (!nan && (fpLess x y || fpEqual x y)), nv nan)
  | _ => (b2n nan, nv sig)

/-- FCVT.P (R98 note b, R116): into format `d` from the other. -/
def fpConv (d : Bool) (rm : Nat) (a : BitVec 64) : Nat × BitVec 5 :=
  match fpUnpack (!d) a with
  | .inf n => (fpInf d n, 0)
  | .zero n => (fpSign d n, 0)
  | .fin n m e => fpRound d rm n m e false
  | .nan s w =>
    let neg : Bool := decide (w / 2 ^ (fracBits (!d) + expBits (!d)) % 2 = 1)
    let fr := w % 2 ^ fracBits (!d)
    let fr' := if d then fr * 2 ^ 29 else fr / 2 ^ 29
    (fpQuiet d (fpInf d neg + fr'), if s then 0b10000 else 0)

/-- FCVT.I (R98 note c): to a signed 48-bit integer. -/
def fpToInt (d : Bool) (rm : Nat) (a : BitVec 64) : Word × BitVec 5 :=
  let hi : Word := 0x7FFFFFFFFFFF
  let lo : Word := 0x800000000000
  match fpUnpack d a with
  | .nan _ _ => (hi, 0b10000)
  | .inf n => (if n then lo else hi, 0b10000)
  | .zero _ => (0, 0)
  | .fin n m e =>
    let (v, inex) := roundQ rm n m e 0
    if !n && decide (v > 2 ^ 47 - 1) then (hi, 0b10000)
    else if n && decide (v > 2 ^ 47) then (lo, 0b10000)
    else (BitVec.ofInt 48 (if n then -(v : Int) else v), if inex then 1 else 0)

/-- FCVT.F (R98 note b, R117): from a signed word. -/
def fpOfInt (d : Bool) (rm : Nat) (w : Word) : Nat × BitVec 5 :=
  if w = 0 then (0, 0) else fpRound d rm (decide (w.toInt < 0)) w.toInt.natAbs 0 false

end Sys2Proof.Machine
end

