-- ==== Sys2Proof/Machine/FpInstr.lean ====
section
/-!
DEFINITION. The floating group and FMA (spec 03 R98 to R100, spec 04).
-/
namespace Sys2Proof.Machine

open Sys2Proof

/-- FPSW.RM and DIVCOMPAT (R28, R33). -/
def Proc.rm (q : Proc) : Nat := fld q.fpsw 2 0
def Proc.compat (q : Proc) : Bool := (q.crGet 1).getLsbD 0

/-- A long floating result (R73, R74): it holds the issue stage while any trap is enabled, and raises the floating trap
when it signals an enabled exception (R29). -/
def Proc.longFp (q : Proc) (dst : Reg) (v : BitVec 64) (fl : BitVec 5) (fdiv : Bool) : Proc :=
  let en : BitVec 5 := q.fpsw.extractLsb' 8 5
  let q := q.supersede dst
  let x : Long :=
    { dst := dst, val := v, fp := true, idiv := false, fdiv := fdiv, hold := decide (en ≠ 0), setV := false, setDZ := false,
      fl := fl, cause := fl, trap := if en &&& fl ≠ 0 then 0x09 else 0 }
  { q with longs := q.longs ++ [x] }

/-- A two-operand operation on F registers into an F register. -/
def fpOp2 (p : BitVec 6) (f : FR) (op : Bool → Nat → BitVec 64 → BitVec 64 → Nat × BitVec 5) (s : State) : Res :=
  s.issue p (f.z ≠ 0) false [.f f.ra, .f f.rb] [.f f.rd] fun s =>
    s.simple p fun q =>
      let r := op f.p q.rm (q.fR f.ra) (q.fR f.rb)
      q.longFp (.f f.rd) (BitVec.ofNat 64 r.1) r.2 false

def execFadd (p : BitVec 6) (f : FR) (s : State) : Res := fpOp2 p f (fun d rm a b => fpAdd d rm false a b) s
def execFsub (p : BitVec 6) (f : FR) (s : State) : Res := fpOp2 p f (fun d rm a b => fpAdd d rm true a b) s
def execFmul (p : BitVec 6) (f : FR) (s : State) : Res := fpOp2 p f (fun d rm a b => fpMul d rm a b) s

/-- FDIV by the method DIVCOMPAT selects at issue; it waits while the floating divider is busy (R73, R99, R126). -/
def execFdiv (p : BitVec 6) (f : FR) (s : State) : Res :=
  s.issue p (f.z ≠ 0) false [.f f.ra, .f f.rb] [.f f.rd] fun s =>
    if (s.proc p).longs.any (fun x => x.fdiv) then s
    else s.simple p fun q =>
      let r := fpDiv f.p q.rm q.compat (q.fR f.ra) (q.fR f.rb)
      q.longFp (.f f.rd) (BitVec.ofNat 64 r.1) r.2 true

/-- FSQRT: rb zero; as FDIV. -/
def execFsqrt (p : BitVec 6) (f : FR) (s : State) : Res :=
  s.issue p (f.z ≠ 0 ∨ f.rb ≠ 0) false [.f f.ra] [.f f.rd] fun s =>
    if (s.proc p).longs.any (fun x => x.fdiv) then s
    else s.simple p fun q =>
      let r := fpSqrt f.p q.rm q.compat (q.fR f.ra)
      q.longFp (.f f.rd) (BitVec.ofNat 64 r.1) r.2 true

/-- FNEG and FABS touch only the sign bit (R98, R114); a binary32 result clears bits [63:32] (R25). -/
def signOp (p : BitVec 6) (f : FR) (op : Bool → Nat → Nat) (s : State) : Res :=
  s.issue p (f.z ≠ 0 ∨ f.rb ≠ 0) false [.f f.ra] [.f f.rd] fun s =>
    s.simple p fun q =>
      let w := if f.p then (q.fR f.ra).toNat else (q.fR f.ra).toNat % 2 ^ 32
      q.fW f.rd (BitVec.ofNat 64 (op f.p w))

def execFneg (p : BitVec 6) (f : FR) (s : State) : Res := signOp p f (fun d w => w ^^^ fpSign d true) s
def execFabs (p : BitVec 6) (f : FR) (s : State) : Res := signOp p f (fun d w => w % fpSign d true) s

/-- A comparison into G[rd]. -/
def cmpOp (p : BitVec 6) (f : FR) (op : Nat) (s : State) : Res :=
  s.issue p (f.z ≠ 0) false [.f f.ra, .f f.rb] [.g f.rd] fun s =>
    s.simple p fun q =>
      let r := fpCmp f.p op (q.fR f.ra) (q.fR f.rb)
      q.longFp (.g f.rd) (BitVec.ofNat 64 r.1) r.2 false

def execFeq (p : BitVec 6) (f : FR) (s : State) : Res := cmpOp p f 8 s
def execFlt (p : BitVec 6) (f : FR) (s : State) : Res := cmpOp p f 9 s
def execFle (p : BitVec 6) (f : FR) (s : State) : Res := cmpOp p f 10 s
def execFunord (p : BitVec 6) (f : FR) (s : State) : Res := cmpOp p f 11 s

/-- FCVT.P, FCVT.I and FCVT.F: rb zero. -/
def execFcvtP (p : BitVec 6) (f : FR) (s : State) : Res :=
  s.issue p (f.z ≠ 0 ∨ f.rb ≠ 0) false [.f f.ra] [.f f.rd] fun s =>
    s.simple p fun q =>
      let r := fpConv f.p q.rm (q.fR f.ra)
      q.longFp (.f f.rd) (BitVec.ofNat 64 r.1) r.2 false
def execFcvtI (p : BitVec 6) (f : FR) (s : State) : Res :=
  s.issue p (f.z ≠ 0 ∨ f.rb ≠ 0) false [.f f.ra] [.g f.rd] fun s =>
    s.simple p fun q =>
      let r := fpToInt f.p q.rm (q.fR f.ra)
      q.longFp (.g f.rd) (r.1.setWidth 64) r.2 false
def execFcvtF (p : BitVec 6) (f : FR) (s : State) : Res :=
  s.issue p (f.z ≠ 0 ∨ f.rb ≠ 0) false [.g f.ra] [.f f.rd] fun s =>
    s.simple p fun q =>
      let r := fpOfInt f.p q.rm (q.gR f.ra)
      q.longFp (.f f.rd) (BitVec.ofNat 64 r.1) r.2 false

/-- FMVGF moves G bits into F, FMVFG moves F bits into G (R98 note d): Result 1, no flags. While a trap is enabled each
floating instruction still completes before the next issues (R74), which a result at once gives. -/
def execFmvgfLo (p : BitVec 6) (f : RR) (s : State) : Res :=
  s.issue p (f.z ≠ 0 ∨ f.rb ≠ 0) false [.g f.ra] [.f f.rd] fun s =>
    s.simple p fun q => q.fW f.rd (((q.gR f.ra).extractLsb' 0 32).zeroExtend 64)
def execFmvgfHi (p : BitVec 6) (f : RR) (s : State) : Res :=
  s.issue p (f.z ≠ 0 ∨ f.rb ≠ 0) false [.g f.ra, .f f.rd] [.f f.rd] fun s =>
    s.simple p fun q => q.fW f.rd ((q.gR f.ra).extractLsb' 0 32 ++ (q.fR f.rd).extractLsb' 0 32)
def execFmvfgLo (p : BitVec 6) (f : RR) (s : State) : Res :=
  s.issue p (f.z ≠ 0 ∨ f.rb ≠ 0) false [.f f.ra] [.g f.rd] fun s =>
    s.simple p fun q => q.gW f.rd (((q.fR f.ra).extractLsb' 0 32).zeroExtend 48)
def execFmvfgHi (p : BitVec 6) (f : RR) (s : State) : Res :=
  s.issue p (f.z ≠ 0 ∨ f.rb ≠ 0) false [.f f.ra] [.g f.rd] fun s =>
    s.simple p fun q => q.gW f.rd (((q.fR f.ra).extractLsb' 32 32).zeroExtend 48)

/-- FMA (R100): bits [19:15] zero. -/
def fmaOp (p : BitVec 6) (f : F4) (np na : Bool) (s : State) : Res :=
  s.issue p (f.z ≠ 0 ∨ f.z5 ≠ 0) false [.f f.ra, .f f.rb, .f f.rc] [.f f.rd] fun s =>
    s.simple p fun q =>
      let r := fpFma f.p q.rm np na (q.fR f.ra) (q.fR f.rb) (q.fR f.rc)
      q.longFp (.f f.rd) (BitVec.ofNat 64 r.1) r.2 false

def execFmadd (p : BitVec 6) (f : F4) (s : State) : Res := fmaOp p f false false s
def execFmsub (p : BitVec 6) (f : F4) (s : State) : Res := fmaOp p f false true s
def execFnmsub (p : BitVec 6) (f : F4) (s : State) : Res := fmaOp p f true false s
def execFnmadd (p : BitVec 6) (f : F4) (s : State) : Res := fmaOp p f true true s

end Sys2Proof.Machine
end

