-- ==== Sys2Proof/Machine/Dispatch.lean ====
section
/-!
DEFINITION. The dispatch of commands: one arm per constructor, each one call of the command's meaning.
-/
namespace Sys2Proof.Machine

open Sys2Proof

def exec (i : Instr) (s : State) : Host.Outcome State Fault Refusal :=
  match i with
  | .add p f => Sys2Proof.Machine.execAdd p f s
  | .addu p f => Sys2Proof.Machine.execAddu p f s
  | .sub p f => Sys2Proof.Machine.execSub p f s
  | .subu p f => Sys2Proof.Machine.execSubu p f s
  | .neg p f => Sys2Proof.Machine.execNeg p f s
  | .and p f => Sys2Proof.Machine.execAnd p f s
  | .or p f => Sys2Proof.Machine.execOr p f s
  | .xor p f => Sys2Proof.Machine.execXor p f s
  | .andn p f => Sys2Proof.Machine.execAndn p f s
  | .nor p f => Sys2Proof.Machine.execNor p f s
  | .slt p f => Sys2Proof.Machine.execSlt p f s
  | .sltu p f => Sys2Proof.Machine.execSltu p f s
  | .shl p f => Sys2Proof.Machine.execShl p f s
  | .shr p f => Sys2Proof.Machine.execShr p f s
  | .sar p f => Sys2Proof.Machine.execSar p f s
  | .ror p f => Sys2Proof.Machine.execRor p f s
  | .rol p f => Sys2Proof.Machine.execRol p f s
  | .addi p f => Sys2Proof.Machine.execAddi p f s
  | .addiu p f => Sys2Proof.Machine.execAddiu p f s
  | .slti p f => Sys2Proof.Machine.execSlti p f s
  | .sltiu p f => Sys2Proof.Machine.execSltiu p f s
  | .andi p f => Sys2Proof.Machine.execAndi p f s
  | .ori p f => Sys2Proof.Machine.execOri p f s
  | .xori p f => Sys2Proof.Machine.execXori p f s
  | .lhi p f => Sys2Proof.Machine.execLhi p f s
  | .shli p f => Sys2Proof.Machine.execShli p f s
  | .shri p f => Sys2Proof.Machine.execShri p f s
  | .sari p f => Sys2Proof.Machine.execSari p f s
  | .rori p f => Sys2Proof.Machine.execRori p f s
  | .mul p f => Sys2Proof.Machine.execMul p f s
  | .mulh p f => Sys2Proof.Machine.execMulh p f s
  | .mulhu p f => Sys2Proof.Machine.execMulhu p f s
  | .div p f => Sys2Proof.Machine.execDiv p f s
  | .divu p f => Sys2Proof.Machine.execDivu p f s
  | .rem p f => Sys2Proof.Machine.execRem p f s
  | .remu p f => Sys2Proof.Machine.execRemu p f s
  | .longResultComplete p n => Sys2Proof.Machine.execLongResultComplete p n s
  | .lb p f => Sys2Proof.Machine.execLb p f s
  | .lbu p f => Sys2Proof.Machine.execLbu p f s
  | .lh p f => Sys2Proof.Machine.execLh p f s
  | .lhu p f => Sys2Proof.Machine.execLhu p f s
  | .lw p f => Sys2Proof.Machine.execLw p f s
  | .lfs p f => Sys2Proof.Machine.execLfs p f s
  | .lfd p f => Sys2Proof.Machine.execLfd p f s
  | .sb p f => Sys2Proof.Machine.execSb p f s
  | .sh p f => Sys2Proof.Machine.execSh p f s
  | .sw p f => Sys2Proof.Machine.execSw p f s
  | .sfs p f => Sys2Proof.Machine.execSfs p f s
  | .sfd p f => Sys2Proof.Machine.execSfd p f s
  | .loadDataArrival p n ext pois => Sys2Proof.Machine.execLoadDataArrival p n ext pois s
  | .llw p f => Sys2Proof.Machine.execLlw p f s
  | .scw p f => Sys2Proof.Machine.execScw p f s
  | .stnt p f => Sys2Proof.Machine.execStnt p f s
  | .bc p f => Sys2Proof.Machine.execBc p f s
  | .call p f => Sys2Proof.Machine.execCall p f s
  | .jr p f => Sys2Proof.Machine.execJr p f s
  | .fadd p f => Sys2Proof.Machine.execFadd p f s
  | .fsub p f => Sys2Proof.Machine.execFsub p f s
  | .fmul p f => Sys2Proof.Machine.execFmul p f s
  | .fdiv p f => Sys2Proof.Machine.execFdiv p f s
  | .fsqrt p f => Sys2Proof.Machine.execFsqrt p f s
  | .fneg p f => Sys2Proof.Machine.execFneg p f s
  | .fabs p f => Sys2Proof.Machine.execFabs p f s
  | .feq p f => Sys2Proof.Machine.execFeq p f s
  | .flt p f => Sys2Proof.Machine.execFlt p f s
  | .fle p f => Sys2Proof.Machine.execFle p f s
  | .funord p f => Sys2Proof.Machine.execFunord p f s
  | .fcvtP p f => Sys2Proof.Machine.execFcvtP p f s
  | .fcvtI p f => Sys2Proof.Machine.execFcvtI p f s
  | .fcvtF p f => Sys2Proof.Machine.execFcvtF p f s
  | .fmvgfLo p f => Sys2Proof.Machine.execFmvgfLo p f s
  | .fmvgfHi p f => Sys2Proof.Machine.execFmvgfHi p f s
  | .fmvfgLo p f => Sys2Proof.Machine.execFmvfgLo p f s
  | .fmvfgHi p f => Sys2Proof.Machine.execFmvfgHi p f s
  | .fmadd p f => Sys2Proof.Machine.execFmadd p f s
  | .fmsub p f => Sys2Proof.Machine.execFmsub p f s
  | .fnmsub p f => Sys2Proof.Machine.execFnmsub p f s
  | .fnmadd p f => Sys2Proof.Machine.execFnmadd p f s
  | .bar p f => Sys2Proof.Machine.execBar p f s
  | .pbar p f => Sys2Proof.Machine.execPbar p f s
  | .barrierComplete p => Sys2Proof.Machine.execBarrierComplete p s
  | .bmove p f => Sys2Proof.Machine.execBmove p f s
  | .bfill p f => Sys2Proof.Machine.execBfill p f s
  | .bcmp p f => Sys2Proof.Machine.execBcmp p f s
  | .bscan p f => Sys2Proof.Machine.execBscan p f s
  | .cksum p f => Sys2Proof.Machine.execCksum p f s
  | .microRoutineStep p ext pois => Sys2Proof.Machine.execMicroRoutineStep p ext pois s
  | .segld p f => Sys2Proof.Machine.execSegld p f s
  | .segix p f => Sys2Proof.Machine.execSegix p f s
  | .rdpsw p f => Sys2Proof.Machine.execRdpsw p f s
  | .wrpsw p f => Sys2Proof.Machine.execWrpsw p f s
  | .rdfpsw p f => Sys2Proof.Machine.execRdfpsw p f s
  | .wrfpsw p f => Sys2Proof.Machine.execWrfpsw p f s
  | .rdtime p f => Sys2Proof.Machine.execRdtime p f s
  | .rfe p f => Sys2Proof.Machine.execRfe p f s
  | .halt p f => Sys2Proof.Machine.execHalt p f s
  | .wait p f => Sys2Proof.Machine.execWait p f s
  | .mfcr p f => Sys2Proof.Machine.execMfcr p f s
  | .mtcr p f => Sys2Proof.Machine.execMtcr p f s
  | .svc p f => Sys2Proof.Machine.execSvc p f s
  | .brk p f => Sys2Proof.Machine.execBrk p f s
  | .cmoClean p f => Sys2Proof.Machine.execCmoClean p f s
  | .cmoClinv p f => Sys2Proof.Machine.execCmoClinv p f s
  | .cmoIinv p f => Sys2Proof.Machine.execCmoIinv p f s
  | .cmrClean p f => Sys2Proof.Machine.execCmrClean p f s
  | .cmrCleanInvalidate p f => Sys2Proof.Machine.execCmrCleanInvalidate p f s
  | .cmrPreload p f => Sys2Proof.Machine.execCmrPreload p f s
  | .exceptionEntry p word => Sys2Proof.Machine.execExceptionEntry p word s
  | .interruptLineEvent src => Sys2Proof.Machine.execInterruptLineEvent src s
  | .iack p => Sys2Proof.Machine.execIack p s
  | .cluIpi a k v => Sys2Proof.Machine.execCluIpi a k v s
  | .timerCompareReached p => Sys2Proof.Machine.execTimerCompareReached p s
  | .agreementExchangeDelivery p => Sys2Proof.Machine.execAgreementExchangeDelivery p s
  | .detectedTransient p kind => Sys2Proof.Machine.execDetectedTransient p kind s
  | .comparatorMismatch p kind => Sys2Proof.Machine.execComparatorMismatch p kind s
  | .selfTestOutcome k leadOk chkOk => Sys2Proof.Machine.execSelfTestOutcome k leadOk chkOk s
  | .checkerPathFault k core => Sys2Proof.Machine.execCheckerPathFault k core s
  | .quietPointCheckerMove p => Sys2Proof.Machine.execQuietPointCheckerMove p s
  | .spctlMove a k slot => Sys2Proof.Machine.execSpctlMove a k slot s
  | .spctlRetest a k core pass => Sys2Proof.Machine.execSpctlRetest a k core pass s
  | .chkinjMism p => Sys2Proof.Machine.execChkinjMism p s
  | .chkinjCpf p => Sys2Proof.Machine.execChkinjCpf p s
  | .chkinjPar p => Sys2Proof.Machine.execChkinjPar p s
  | .storeDepart p => Sys2Proof.Machine.execStoreDepart p s
  | .ownershipArrival p n => Sys2Proof.Machine.execOwnershipArrival p n s
  | .postedWriteAck p n => Sys2Proof.Machine.execPostedWriteAck p n s
  | .storeTimeout p n => Sys2Proof.Machine.execStoreTimeout p n s
  | .loadTimeout p n => Sys2Proof.Machine.execLoadTimeout p n s
  | .llwBackoffExpiry p => Sys2Proof.Machine.execLlwBackoffExpiry p s
  | .l1DataDisable a p => Sys2Proof.Machine.execL1DataDisable a p s
  | .l1DataEnable a p => Sys2Proof.Machine.execL1DataEnable a p s
  | .l1InstructionDisable a p => Sys2Proof.Machine.execL1InstructionDisable a p s
  | .l1InstructionEnable a p => Sys2Proof.Machine.execL1InstructionEnable a p s
  | .l1invIall a p => Sys2Proof.Machine.execL1invIall a p s
  | .clusterCacheDisable a k => Sys2Proof.Machine.execClusterCacheDisable a k s
  | .clusterCacheEnable a k => Sys2Proof.Machine.execClusterCacheEnable a k s
  | .mopClean a k => Sys2Proof.Machine.execMopClean a k s
  | .mopCleanInvalidate a k => Sys2Proof.Machine.execMopCleanInvalidate a k s
  | .mopPreload a k => Sys2Proof.Machine.execMopPreload a k s
  | .ccLockWrite a k v => Sys2Proof.Machine.execCcLockWrite a k v s
  | .ccPwrWrite a k v => Sys2Proof.Machine.execCcPwrWrite a k v s
  | .controlJobStart k => Sys2Proof.Machine.execControlJobStart k s
  | .maintenanceJobEnd k => Sys2Proof.Machine.execMaintenanceJobEnd k s
  | .tagParitySearchComplete k => Sys2Proof.Machine.execTagParitySearchComplete k s
  | .rds line r => Sys2Proof.Machine.execRds line r s
  | .rdx line r => Sys2Proof.Machine.execRdx line r s
  | .upg line r => Sys2Proof.Machine.execUpg line r s
  | .wb line r => Sys2Proof.Machine.execWb line r s
  | .evc line r => Sys2Proof.Machine.execEvc line r s
  | .rdu line r => Sys2Proof.Machine.execRdu line r s
  | .wrf line r => Sys2Proof.Machine.execWrf line r s
  | .wrp line r => Sys2Proof.Machine.execWrp line r s
  | .cln line r => Sys2Proof.Machine.execCln line r s
  | .clinv line r => Sys2Proof.Machine.execClinv line r s
  | .fwds line r => Sys2Proof.Machine.execFwds line r s
  | .fwdx line r => Sys2Proof.Machine.execFwdx line r s
  | .fwdu line r => Sys2Proof.Machine.execFwdu line r s
  | .inv line r => Sys2Proof.Machine.execInv line r s
  | .recall line r => Sys2Proof.Machine.execRecall line r s
  | .dataGrant line r => Sys2Proof.Machine.execDataGrant line r s
  | .invAck line r => Sys2Proof.Machine.execInvAck line r s
  | .cmp line r => Sys2Proof.Machine.execCmp line r s
  | .wback line r => Sys2Proof.Machine.execWback line r s
  | .evack line r => Sys2Proof.Machine.execEvack line r s
  | .retry line r => Sys2Proof.Machine.execRetry line r s
  | .retryBackoffExpiry line r => Sys2Proof.Machine.execRetryBackoffExpiry line r s
  | .persistentReservationExpiry line r => Sys2Proof.Machine.execPersistentReservationExpiry line r s
  | .pending line r => Sys2Proof.Machine.execPending line r s
  | .pendingTick line => Sys2Proof.Machine.execPendingTick line s
  | .backInvalidation line => Sys2Proof.Machine.execBackInvalidation line s
  | .backInvalidationTimeout line => Sys2Proof.Machine.execBackInvalidationTimeout line s
  | .memberLost m => Sys2Proof.Machine.execMemberLost m s
  | .dirsnapReq a => Sys2Proof.Machine.execDirsnapReq a s
  | .mainStoreReadResult line err m => Sys2Proof.Machine.execMainStoreReadResult line err m s
  | .scrubRead st => Sys2Proof.Machine.execScrubRead st s
  | .errsnapReq a => Sys2Proof.Machine.execErrsnapReq a s
  | .persistGrantRequest line r => Sys2Proof.Machine.execPersistGrantRequest line r s
  | .heldGrantServed st => Sys2Proof.Machine.execHeldGrantServed st s
  | .epochCut => Sys2Proof.Machine.execEpochCut s
  | .imagerCapture st => Sys2Proof.Machine.execImagerCapture st s
  | .epochClose => Sys2Proof.Machine.execEpochClose s
  | .tunCut a => Sys2Proof.Machine.execTunCut a s
  | .tunPflush a => Sys2Proof.Machine.execTunPflush a s
  | .tunRecheck a => Sys2Proof.Machine.execTunRecheck a s
  | .tunFormat a => Sys2Proof.Machine.execTunFormat a s
  | .tunBudgetWrite a v => Sys2Proof.Machine.execTunBudgetWrite a v s
  | .tunSnapReq a => Sys2Proof.Machine.execTunSnapReq a s
  | .pfailTrip ns => Sys2Proof.Machine.execPfailTrip ns s
  | .vholdTrip mv => Sys2Proof.Machine.execVholdTrip mv s
  | .flushDone us => Sys2Proof.Machine.execFlushDone us s
  | .flushDeadlineMiss => Sys2Proof.Machine.execFlushDeadlineMiss s
  | .flushAbort => Sys2Proof.Machine.execFlushAbort s
  | .holdUpCheck mv us => Sys2Proof.Machine.execHoldUpCheck mv us s
  | .pwrokRise b => Sys2Proof.Machine.execPwrokRise b s
  | .pwrokFall => Sys2Proof.Machine.execPwrokFall s
  | .processorsReleased => Sys2Proof.Machine.execProcessorsReleased s
  | .sqpi fn page v => Sys2Proof.Machine.execSqpi fn page v s
  | .cqci fn page v => Sys2Proof.Machine.execCqci fn page v s
  | .descriptorFetchComplete q idx data pois => Sys2Proof.Machine.execDescriptorFetchComplete q idx data pois s
  | .descriptorFetchTimeout q => Sys2Proof.Machine.execDescriptorFetchTimeout q s
  | .completionWrite q => Sys2Proof.Machine.execCompletionWrite q s
  | .completionGo q idx => Sys2Proof.Machine.execCompletionGo q idx s
  | .completionGoTimeout q => Sys2Proof.Machine.execCompletionGoTimeout q s
  | .completionInterruptTimer q => Sys2Proof.Machine.execCompletionInterruptTimer q s
  | .ringPairEnable a q v => Sys2Proof.Machine.execRingPairEnable a q v s
  | .ringPairDisable a q v => Sys2Proof.Machine.execRingPairDisable a q v s
  | .memrd h mv => Sys2Proof.Machine.execMemrd h mv s
  | .memrddata h mv => Sys2Proof.Machine.execMemrddata h mv s
  | .meminv h mv => Sys2Proof.Machine.execMeminv h mv s
  | .memclnevct h => Sys2Proof.Machine.execMemclnevct h s
  | .memspecrd h => Sys2Proof.Machine.execMemspecrd h s
  | .memwr h mv data pois => Sys2Proof.Machine.execMemwr h mv data pois s
  | .memwrptl h mv data mask pois => Sys2Proof.Machine.execMemwrptl h mv data mask pois s
  | .unsupportedMemRequest op h => Sys2Proof.Machine.execUnsupportedMemRequest op h s
  | .hostSnoop kind h => Sys2Proof.Machine.execHostSnoop kind h s
  | .hdmCommit base => Sys2Proof.Machine.execHdmCommit base s
  | .gpfPhase1 => Sys2Proof.Machine.execGpfPhase1 s
  | .gpfPhase2 => Sys2Proof.Machine.execGpfPhase2 s
  | .linkTrained width rate flit => Sys2Proof.Machine.execLinkTrained width rate flit s
  | .detach a => Sys2Proof.Machine.execDetach a s
  | .attach a => Sys2Proof.Machine.execAttach a s
  | .surpriseRemoval viral => Sys2Proof.Machine.execSurpriseRemoval viral s
  | .descriptorAccept q => Sys2Proof.Machine.execDescriptorAccept q s
  | .dispatch e => Sys2Proof.Machine.execDispatch e s
  | .abort a q => Sys2Proof.Machine.execAbort a q s
  | .resv a j => Sys2Proof.Machine.execResv a j s
  | .commit a j v => Sys2Proof.Machine.execCommit a j v s
  | .read a j => Sys2Proof.Machine.execRead a j s
  | .mark a j => Sys2Proof.Machine.execMark a j s
  | .rewind a j => Sys2Proof.Machine.execRewind a j s
  | .release a j => Sys2Proof.Machine.execRelease a j s
  | .queueDisable a j => Sys2Proof.Machine.execQueueDisable a j s
  | .queueAgingCheck => Sys2Proof.Machine.execQueueAgingCheck s
  | .deadlineCheck => Sys2Proof.Machine.execDeadlineCheck s
  | .mirrorWriteAck tag => Sys2Proof.Machine.execMirrorWriteAck tag s
  | .mirrorBreak => Sys2Proof.Machine.execMirrorBreak s
  | .mirWrite a v => Sys2Proof.Machine.execMirWrite a v s
  | .resyncComplete => Sys2Proof.Machine.execResyncComplete s
  | .chqSnapReq a => Sys2Proof.Machine.execChqSnapReq a s
  | .elcSnapReq a => Sys2Proof.Machine.execElcSnapReq a s
  | .sqNext e => Sys2Proof.Machine.execSqNext e s
  | .sqJump e => Sys2Proof.Machine.execSqJump e s
  | .sqBr e => Sys2Proof.Machine.execSqBr e s
  | .sqCall e => Sys2Proof.Machine.execSqCall e s
  | .sqRet e => Sys2Proof.Machine.execSqRet e s
  | .sqDisp e => Sys2Proof.Machine.execSqDisp e s
  | .sqPark e => Sys2Proof.Machine.execSqPark e s
  | .sqEnd e => Sys2Proof.Machine.execSqEnd e s
  | .aopAdd e => Sys2Proof.Machine.execAopAdd e s
  | .aopSub e => Sys2Proof.Machine.execAopSub e s
  | .aopAnd e => Sys2Proof.Machine.execAopAnd e s
  | .aopOr e => Sys2Proof.Machine.execAopOr e s
  | .aopXor e => Sys2Proof.Machine.execAopXor e s
  | .aopAndn e => Sys2Proof.Machine.execAopAndn e s
  | .aopMin e => Sys2Proof.Machine.execAopMin e s
  | .aopMax e => Sys2Proof.Machine.execAopMax e s
  | .aopMove e => Sys2Proof.Machine.execAopMove e s
  | .aopShl e => Sys2Proof.Machine.execAopShl e s
  | .aopShr e => Sys2Proof.Machine.execAopShr e s
  | .aopCmp e => Sys2Proof.Machine.execAopCmp e s
  | .sopExt e => Sys2Proof.Machine.execSopExt e s
  | .sopExts e => Sys2Proof.Machine.execSopExts e s
  | .sopIns e => Sys2Proof.Machine.execSopIns e s
  | .sopLit e => Sys2Proof.Machine.execSopLit e s
  | .mopRd e => Sys2Proof.Machine.execMopRd e s
  | .mopWr e => Sys2Proof.Machine.execMopWr e s
  | .mopFill e => Sys2Proof.Machine.execMopFill e s
  | .mopWait e => Sys2Proof.Machine.execMopWait e s
  | .moverOpComplete e b st ext => Sys2Proof.Machine.execMoverOpComplete e b st ext s
  | .xopResv e => Sys2Proof.Machine.execXopResv e s
  | .xopCommit e => Sys2Proof.Machine.execXopCommit e s
  | .xopRead e => Sys2Proof.Machine.execXopRead e s
  | .xopCmd e => Sys2Proof.Machine.execXopCmd e s
  | .xopQaddr e => Sys2Proof.Machine.execXopQaddr e s
  | .xopCob e => Sys2Proof.Machine.execXopCob e s
  | .xopZn e => Sys2Proof.Machine.execXopZn e s
  | .xopPostc e => Sys2Proof.Machine.execXopPostc e s
  | .xopTime e => Sys2Proof.Machine.execXopTime e s
  | .portResultArrival e n => Sys2Proof.Machine.execPortResultArrival e n s
  | .parkedProgramReply e n => Sys2Proof.Machine.execParkedProgramReply e n s
  | .bndWatchdogExpiry e => Sys2Proof.Machine.execBndWatchdogExpiry e s
  | .udata2Write a e v => Sys2Proof.Machine.execUdata2Write a e v s
  | .uctlRead a e => Sys2Proof.Machine.execUctlRead a e s
  | .loadimg a => Sys2Proof.Machine.execLoadimg a s
  | .install a => Sys2Proof.Machine.execInstall a s
  | .remove a => Sys2Proof.Machine.execRemove a s
  | .cobaltPieceComplete e n ext aad st => Sys2Proof.Machine.execCobaltPieceComplete e n ext aad st s
  | .zincPieceComplete e n ext st => Sys2Proof.Machine.execZincPieceComplete e n ext st s
  | .kloadLoad a v => Sys2Proof.Machine.execKloadLoad a v s
  | .kloadZero a v => Sys2Proof.Machine.execKloadZero a v s
  | .keySlotCommandComplete => Sys2Proof.Machine.execKeySlotCommandComplete s
  | .ceilingWriteComplete slot => Sys2Proof.Machine.execCeilingWriteComplete slot s
  | .rngHealthFail => Sys2Proof.Machine.execRngHealthFail s
  | .cobSnapReq a => Sys2Proof.Machine.execCobSnapReq a s
  | .znSnapReq a => Sys2Proof.Machine.execZnSnapReq a s
  | .create a j => Sys2Proof.Machine.execCreate a j s
  | .apply a j => Sys2Proof.Machine.execApply a j s
  | .destroy a j => Sys2Proof.Machine.execDestroy a j s
  | .reset a j => Sys2Proof.Machine.execReset a j s
  | .freeze a j => Sys2Proof.Machine.execFreeze a j s
  | .freezeDrainComplete j => Sys2Proof.Machine.execFreezeDrainComplete j s
  | .thaw a j => Sys2Proof.Machine.execThaw a j s
  | .save a j st => Sys2Proof.Machine.execSave a j st s
  | .restore a j ext st => Sys2Proof.Machine.execRestore a j ext st s
  | .start a j p => Sys2Proof.Machine.execStart a j p s
  | .stop a j p => Sys2Proof.Machine.execStop a j p s
  | .mbidb a j => Sys2Proof.Machine.execMbidb a j s
  | .mbiack a j => Sys2Proof.Machine.execMbiack a j s
  | .mbodb a j => Sys2Proof.Machine.execMbodb a j s
  | .mboack a j => Sys2Proof.Machine.execMboack a j s
  | .reportPost => Sys2Proof.Machine.execReportPost s
  | .reportGoTimeout => Sys2Proof.Machine.execReportGoTimeout s
  | .rptci a v => Sys2Proof.Machine.execRptci a v s
  | .linkTrainingAttempt l rx tx => Sys2Proof.Machine.execLinkTrainingAttempt l rx tx s
  | .flitReceive l flit => Sys2Proof.Machine.execFlitReceive l flit s
  | .nak l lack => Sys2Proof.Machine.execNak l lack s
  | .replayTimeout l => Sys2Proof.Machine.execReplayTimeout l s
  | .linkRetrain l => Sys2Proof.Machine.execLinkRetrain l s
  | .linkDown l => Sys2Proof.Machine.execLinkDown l s
  | .hello l node shape dir feat0 => Sys2Proof.Machine.execHello l node shape dir feat0 s
  | .accept l => Sys2Proof.Machine.execAccept l s
  | .reject l => Sys2Proof.Machine.execReject l s
  | .gone l => Sys2Proof.Machine.execGone l s
  | .leaveMessage l => Sys2Proof.Machine.execLeaveMessage l s
  | .rrd m => Sys2Proof.Machine.execRrd m s
  | .rwr m => Sys2Proof.Machine.execRwr m s
  | .rat m => Sys2Proof.Machine.execRat m s
  | .rsp m => Sys2Proof.Machine.execRsp m s
  | .pnd m => Sys2Proof.Machine.execPnd m s
  | .crq m => Sys2Proof.Machine.execCrq m s
  | .crs m => Sys2Proof.Machine.execCrs m s
  | .lmw m => Sys2Proof.Machine.execLmw m s
  | .dbl m => Sys2Proof.Machine.execDbl m s
  | .doorbellRetry => Sys2Proof.Machine.execDoorbellRetry s
  | .sba m => Sys2Proof.Machine.execSba m s
  | .sbr c gen aborted => Sys2Proof.Machine.execSbr c gen aborted s
  | .remotePendingTick tag => Sys2Proof.Machine.execRemotePendingTick tag s
  | .fabricTimeout tag => Sys2Proof.Machine.execFabricTimeout tag s
  | .opFadd a slot node => Sys2Proof.Machine.execOpFadd a slot node s
  | .opSwap a slot node => Sys2Proof.Machine.execOpSwap a slot node s
  | .opCas a slot node => Sys2Proof.Machine.execOpCas a slot node s
  | .opDoorbell a slot node => Sys2Proof.Machine.execOpDoorbell a slot node s
  | .arrive a c => Sys2Proof.Machine.execArrive a c s
  | .sbAbort a c => Sys2Proof.Machine.execSbAbort a c s
  | .leave a => Sys2Proof.Machine.execLeave a s
  | .mbvSnapReq a l => Sys2Proof.Machine.execMbvSnapReq a l s
  | .mbgSnapReq a => Sys2Proof.Machine.execMbgSnapReq a s
  | .voterDisagreement v0 v1 v2 => Sys2Proof.Machine.execVoterDisagreement v0 v1 v2 s
  | .brassInternalCheck u => Sys2Proof.Machine.execBrassInternalCheck u s
  | .unitSelfTestComplete u pass => Sys2Proof.Machine.execUnitSelfTestComplete u pass s
  | .rotate a v => Sys2Proof.Machine.execRotate a v s
  | .rotationStep => Sys2Proof.Machine.execRotationStep s
  | .rotationAgeHour => Sys2Proof.Machine.execRotationAgeHour s
  | .feClaim a b v => Sys2Proof.Machine.execFeClaim a b v s
  | .feStatFree a b v => Sys2Proof.Machine.execFeStatFree a b v s
  | .feInjArm a b v => Sys2Proof.Machine.execFeInjArm a b v s
  | .escalationTimerExpiry b => Sys2Proof.Machine.execEscalationTimerExpiry b s
  | .quietPeriodExpiry b c => Sys2Proof.Machine.execQuietPeriodExpiry b c s
  | .crel a v => Sys2Proof.Machine.execCrel a v s
  | .fltSnapReq a => Sys2Proof.Machine.execFltSnapReq a s
  | .pewterRecordWrite ok => Sys2Proof.Machine.execPewterRecordWrite ok s
  | .tokenBucketRefill code => Sys2Proof.Machine.execTokenBucketRefill code s
  | .ancw a v => Sys2Proof.Machine.execAncw a v s
  | .notew a v => Sys2Proof.Machine.execNotew a v s
  | .rcmd a v => Sys2Proof.Machine.execRcmd a v s
  | .pewSnapReq a => Sys2Proof.Machine.execPewSnapReq a s
  | .checkpointTick => Sys2Proof.Machine.execCheckpointTick s
  | .clkProcSet a p v => Sys2Proof.Machine.execClkProcSet a p v s
  | .clockRelockComplete p => Sys2Proof.Machine.execClockRelockComplete p s
  | .referenceClockLoss r khz => Sys2Proof.Machine.execReferenceClockLoss r khz s
  | .snapshotCapture b => Sys2Proof.Machine.execSnapshotCapture b s
  | .islandReset isl => Sys2Proof.Machine.execIslandReset isl s
  | .crossingRearmTimeout isl => Sys2Proof.Machine.execCrossingRearmTimeout isl s
  | .sysResetRestart a v => Sys2Proof.Machine.execSysResetRestart a v s
  | .sysLock a v => Sys2Proof.Machine.execSysLock a v s
  | .bootProgramInstall a v => Sys2Proof.Machine.execBootProgramInstall a v s
  | .bootProgramRemove a v => Sys2Proof.Machine.execBootProgramRemove a v s
  | .clkSnapReq a => Sys2Proof.Machine.execClkSnapReq a s
  | .cluModeNext a k v => Sys2Proof.Machine.execCluModeNext a k v s
  | .rsnapReq p => Sys2Proof.Machine.execRsnapReq p s
  | .managementWrite addr v => Sys2Proof.Machine.execManagementWrite addr v s
  | .managementRead addr => Sys2Proof.Machine.execManagementRead addr s
  | .traceFrame => Sys2Proof.Machine.execTraceFrame s
  | .sensorRead r => Sys2Proof.Machine.execSensorRead r s
  | .huokFall => Sys2Proof.Machine.execHuokFall s
  | .perst => Sys2Proof.Machine.execPerst s
  | .railOutOfTolerance rail mv us => Sys2Proof.Machine.execRailOutOfTolerance rail mv us s
  | .registerWrite a x size v => Sys2Proof.Machine.execRegisterWrite a x size v s
  | .backInvalidationResponse line hi dirty conflict => Sys2Proof.Machine.execBackInvalidationResponse line hi dirty conflict s
  | .functionLevelReset j => Sys2Proof.Machine.execFunctionLevelReset j s
  | .vauxPresent => Sys2Proof.Machine.execVauxPresent s
  | .vauxAbsent => Sys2Proof.Machine.execVauxAbsent s
  | .blockRelocation unit => Sys2Proof.Machine.execBlockRelocation unit s
  | .reportGo => Sys2Proof.Machine.execReportGo s
  | .reportsWaitingOver1s => Sys2Proof.Machine.execReportsWaitingOver1s s
  | .cgctlWrite a v => Sys2Proof.Machine.execCgctlWrite a v s
  | .mbovaTrainingComplete l rx tx => Sys2Proof.Machine.execMbovaTrainingComplete l rx tx s

end Sys2Proof.Machine
end

