-- ==== Sys2Proof/Machine/Tick.lean ====
section
/-!
DEFINITION. What one period of REFCLK_SVC, 40 ns, brings without any command (R107, R498, R525): the time base and the counts of powered
operation, STRAP_SEL, and the module's work that waits only for another part of it to be done.
-/
namespace Sys2Proof.Machine

open Sys2Proof

/-- The retries of a processor that succeeded are recorded, one event each (R149, R152, R296): event 0x0140. -/
def State.retryEvents (s : State) (p : Nat) : State :=
  let p6 : BitVec 6 := BitVec.ofNat 6 p
  let chk := match s.chkCore p6 with | some n => n % 9 | none => 15
  let ks := (s.proc p6).retryOks
  ks.foldl (fun (s : State) k => s.spEvent p6 0x0140 0 1 (mapAt (s.map (cluOf p6)) (slotOf p6)) chk k.toNat)
    (if ks.isEmpty then s else s.modProc p6 fun q => { q with retryOks := [] })

/-- The processors' share: recorded retries, clock changes that wait for a boundary (R499). -/
def State.procTick (s : State) : State :=
  (s.procs.map fun x => x.1).foldl (fun (s : State) p => (s.retryEvents p).relockStart p) s

/-- The channel subsystem's share: engine reply queues whose items wait for their words (R336), image commands and the boot program's
copy (R386, R512), the standard programs (R391). -/
def State.chanTick (s : State) : State :=
  let s := (s.qs.filter fun (_, k) => !k.items.isEmpty).foldl (fun (s : State) (i, _) => s.qServe i) s
  ((s.imgGo).bpGo).stdTick

/-- Work of the released module that waits for no command. -/
def State.runTick (s : State) : State := (((((s.procTick).chanTick).detachTick).gpfTick).instTick).mbovaTick

/-- Does the tick count go on (R107, R490)? It runs while the module is powered and has not told FLUSH_DONE for good. -/
def State.counting (s : State) : Bool := match s.phase with | .off => false | _ => true

/-- One period of REFCLK_SVC (40 ns). STRAP_SEL has a period of 500 cycles on VAUX (R525); the time base counts from the release of
the processors. -/
def State.clockTick (s : State) : State :=
  if s.vaux then
    let s : State := { s with sel := (s.sel + 1) % 500 }
    if s.counting then
      let s : State := { s with ticks := s.ticks + 1 }
      let s := s.pewTick
      match s.phase with
      | .run => ({ s with tb := s.tb + 1 } : State).runTick
      | .fatal => { s with tb := s.tb + 1 }
      | .boot => s.bootTick
      | _ => s
    else s
  else s

end Sys2Proof.Machine
end

