-- ==== Sys2Proof/Machine/Step.lean ====
section
/-!
DEFINITION. One step of the module: the command at the front of the queue is taken and done; on an empty queue one
period of REFCLK_SVC passes.
-/
namespace Sys2Proof.Machine

open Sys2Proof

/-- One step: the front command on the rest of the queue, or a tick (R107, R498: 25 MHz, 40 ns). -/
def step (s : State) : Host.Outcome State Fault Refusal :=
  match s.pending with
  | [] => .next s.clockTick
  | c :: cs => exec c { s with pending := cs }

/-- The state with the command that a word spells put at the front of the queue: no word spells one. -/
def State.withFetchWord (s : State) (nbits w : Nat) : State :=
  match decodeTableWord nbits w with
  | some c => { s with pending := c :: s.pending }
  | none => s

end Sys2Proof.Machine
end

