-- ==== Sys2Proof/WellFormed.lean ====
section
/-!
DEFINITION. Which commands are well formed: operands whose Lean type is wider than what the spec gives the event. The
meanings are total and do not rest on it.
-/
namespace Sys2Proof

/-- A line's number: the node and the line of its store (R202, R446). -/
def wfLine (line : Nat) : Bool := decide (line < 2 ^ 58)

/-- A host line's number: a host physical address of 52 bits by 64 bytes (R317). -/
def wfHostLine (h : Nat) : Bool := decide (h < 2 ^ 46)

/-- An Mbova link: there are six at most (R2, R434). -/
def wfLink (l : BitVec 3) : Bool := decide (l.toNat < 6)

/-- A message has at most 24 payload words (R437). -/
def RMsg.wf (m : RMsg) : Bool := decide (m.words.length ≤ 24)

/-- The islands of R497: 72 cores, two network dies. -/
def Island.wf : Island → Bool
  | .core n => decide (n < 72)
  | .network d => decide (d < 2)
  | .hub _ | .memctl _ | .engines _ | .io | .cxl | .mbova | .brass => true

/-- An offset of device space, or of a doorbell page (R300). -/
def RegAddr.wf : RegAddr → Bool
  | .dev off => decide (off < 2 ^ 24)
  | .db _ off => decide (off < 4096)
  | .msix _ => true

/-- A command whose operands are such as the spec gives its row. -/
def Instr.wf : Instr → Bool
  | .add _ _ | .addu _ _ | .sub _ _ | .subu _ _ | .neg _ _ | .and _ _ | .or _ _ | .xor _ _ | .andn _ _ | .nor _ _ | .slt _ _
  | .sltu _ _ | .shl _ _ | .shr _ _ | .sar _ _ | .ror _ _ | .rol _ _ | .addi _ _ | .addiu _ _ | .slti _ _ | .sltiu _ _ | .andi _ _
  | .ori _ _ | .xori _ _ | .lhi _ _ | .shli _ _ | .shri _ _ | .sari _ _ | .rori _ _ | .mul _ _ | .mulh _ _ | .mulhu _ _ | .div _ _
  | .divu _ _ | .rem _ _ | .remu _ _ | .longResultComplete _ _ | .lb _ _ | .lbu _ _ | .lh _ _ | .lhu _ _ | .lw _ _ | .lfs _ _
  | .lfd _ _ | .sb _ _ | .sh _ _ | .sw _ _ | .sfs _ _ | .sfd _ _ => true
  | .loadDataArrival _ _ ext _ => decide (ext.length ≤ 8)
  | .llw _ _ | .scw _ _ | .stnt _ _ | .bc _ _ | .call _ _ | .jr _ _ | .fadd _ _ | .fsub _ _ | .fmul _ _ | .fdiv _ _ | .fsqrt _ _
  | .fneg _ _ | .fabs _ _ | .feq _ _ | .flt _ _ | .fle _ _ | .funord _ _ | .fcvtP _ _ | .fcvtI _ _ | .fcvtF _ _ | .fmvgfLo _ _
  | .fmvgfHi _ _ | .fmvfgLo _ _ | .fmvfgHi _ _ | .fmadd _ _ | .fmsub _ _ | .fnmsub _ _ | .fnmadd _ _ | .bar _ _ | .pbar _ _
  | .barrierComplete _ | .bmove _ _ | .bfill _ _ | .bcmp _ _ | .bscan _ _ | .cksum _ _ => true
  | .microRoutineStep _ ext _ => decide (ext.length ≤ 192)
  | .segld _ _ | .segix _ _ | .rdpsw _ _ | .wrpsw _ _ | .rdfpsw _ _ | .wrfpsw _ _ | .rdtime _ _ | .rfe _ _ | .halt _ _ | .wait _ _
  | .mfcr _ _ | .mtcr _ _ | .svc _ _ | .brk _ _ | .cmoClean _ _ | .cmoClinv _ _ | .cmoIinv _ _ | .cmrClean _ _
  | .cmrCleanInvalidate _ _ | .cmrPreload _ _ | .exceptionEntry _ _ | .interruptLineEvent _ | .iack _ | .cluIpi _ _ _
  | .timerCompareReached _ | .agreementExchangeDelivery _ | .detectedTransient _ _ | .comparatorMismatch _ _
  | .selfTestOutcome _ _ _ => true
  | .checkerPathFault _ core => decide (core.toNat < 9)
  | .quietPointCheckerMove _ | .spctlMove _ _ _ => true
  | .spctlRetest _ _ core _ => decide (core.toNat < 9)
  | .chkinjMism _ | .chkinjCpf _ | .chkinjPar _ | .storeDepart _ | .ownershipArrival _ _ | .postedWriteAck _ _ | .storeTimeout _ _
  | .loadTimeout _ _ | .llwBackoffExpiry _ | .l1DataDisable _ _ | .l1DataEnable _ _ | .l1InstructionDisable _ _
  | .l1InstructionEnable _ _ | .l1invIall _ _ | .clusterCacheDisable _ _ | .clusterCacheEnable _ _ | .mopClean _ _
  | .mopCleanInvalidate _ _ | .mopPreload _ _ | .ccLockWrite _ _ _ | .ccPwrWrite _ _ _ | .controlJobStart _ | .maintenanceJobEnd _
  | .tagParitySearchComplete _ => true
  | .rds line _ | .rdx line _ | .upg line _ | .wb line _ | .evc line _ | .rdu line _ | .wrf line _ | .wrp line _ | .cln line _
  | .clinv line _ | .fwds line _ | .fwdx line _ | .fwdu line _ | .inv line _ | .recall line _ | .dataGrant line _ | .invAck line _
  | .cmp line _ | .wback line _ | .evack line _ | .retry line _ | .retryBackoffExpiry line _ | .persistentReservationExpiry line _
  | .pending line _ | .pendingTick line | .backInvalidation line | .backInvalidationTimeout line => wfLine line
  | .memberLost _ | .dirsnapReq _ => true
  | .mainStoreReadResult line err _ => wfLine line && decide (err.length ≤ 16)
  | .scrubRead _ | .errsnapReq _ => true
  | .persistGrantRequest line _ => wfLine line
  | .heldGrantServed _ | .epochCut | .imagerCapture _ | .epochClose | .tunCut _ | .tunPflush _ | .tunRecheck _ | .tunFormat _
  | .tunBudgetWrite _ _ | .tunSnapReq _ | .pfailTrip _ | .vholdTrip _ | .flushDone _ | .flushDeadlineMiss | .flushAbort
  | .holdUpCheck _ _ | .pwrokRise _ | .pwrokFall | .processorsReleased | .sqpi _ _ _ | .cqci _ _ _ => true
  | .descriptorFetchComplete _ _ data _ => decide (data.length = 64)
  | .descriptorFetchTimeout _ | .completionWrite _ | .completionGo _ _ | .completionGoTimeout _ | .completionInterruptTimer _
  | .ringPairEnable _ _ _ | .ringPairDisable _ _ _ => true
  | .memrd h _ | .memrddata h _ | .meminv h _ | .memclnevct h | .memspecrd h => wfHostLine h
  | .memwr h _ data _ | .memwrptl h _ data _ _ => wfHostLine h && decide (data.length = 64)
  | .unsupportedMemRequest _ h | .hostSnoop _ h => wfHostLine h
  | .hdmCommit base => decide (base < 2 ^ 52)
  | .gpfPhase1 | .gpfPhase2 | .linkTrained _ _ _ | .detach _ | .attach _ | .surpriseRemoval _ | .descriptorAccept _ | .dispatch _
  | .abort _ _ | .resv _ _ | .commit _ _ _ | .read _ _ | .mark _ _ | .rewind _ _ | .release _ _ | .queueDisable _ _
  | .queueAgingCheck | .deadlineCheck | .mirrorWriteAck _ | .mirrorBreak | .mirWrite _ _ | .resyncComplete | .chqSnapReq _
  | .elcSnapReq _ | .sqNext _ | .sqJump _ | .sqBr _ | .sqCall _ | .sqRet _ | .sqDisp _ | .sqPark _ | .sqEnd _ | .aopAdd _
  | .aopSub _ | .aopAnd _ | .aopOr _ | .aopXor _ | .aopAndn _ | .aopMin _ | .aopMax _ | .aopMove _ | .aopShl _ | .aopShr _
  | .aopCmp _ | .sopExt _ | .sopExts _ | .sopIns _ | .sopLit _ | .mopRd _ | .mopWr _ | .mopFill _ | .mopWait _ => true
  | .moverOpComplete _ _ _ ext => decide (ext.length ≤ 6144)
  | .xopResv _ | .xopCommit _ | .xopRead _ | .xopCmd _ | .xopQaddr _ | .xopCob _ | .xopZn _ | .xopPostc _ | .xopTime _
  | .portResultArrival _ _ | .parkedProgramReply _ _ | .bndWatchdogExpiry _ | .udata2Write _ _ _ | .uctlRead _ _ | .loadimg _
  | .install _ | .remove _ => true
  | .cobaltPieceComplete _ _ ext aad _ => decide (ext.length ≤ 6144) && decide (aad.length ≤ 6144)
  | .zincPieceComplete _ _ ext _ => decide (ext.length ≤ 6144)
  | .kloadLoad _ _ | .kloadZero _ _ | .keySlotCommandComplete | .ceilingWriteComplete _ | .rngHealthFail | .cobSnapReq _
  | .znSnapReq _ | .create _ _ | .apply _ _ | .destroy _ _ | .reset _ _ | .freeze _ _ | .freezeDrainComplete _ | .thaw _ _
  | .save _ _ _ | .restore _ _ _ _ | .start _ _ _ | .stop _ _ _ | .mbidb _ _ | .mbiack _ _ | .mbodb _ _ | .mboack _ _ | .reportPost
  | .reportGoTimeout | .rptci _ _ => true
  | .linkTrainingAttempt l _ _ => wfLink l
  | .flitReceive l flit => wfLink l && decide (flit.length = 160)
  | .nak l _ | .replayTimeout l | .linkRetrain l | .linkDown l => wfLink l
  | .hello l _ _ dir _ => wfLink l && decide (dir.toNat < 6)
  | .accept l | .reject l | .gone l | .leaveMessage l => wfLink l
  | .rrd m | .rwr m | .rat m | .rsp m | .pnd m | .crq m | .crs m | .lmw m | .dbl m => m.wf
  | .doorbellRetry => true
  | .sba m => m.wf
  | .sbr _ _ _ | .remotePendingTick _ | .fabricTimeout _ => true
  | .opFadd _ slot _ | .opSwap _ slot _ | .opCas _ slot _ | .opDoorbell _ slot _ => decide (slot.toNat ≤ 64)
  | .arrive _ _ | .sbAbort _ _ | .leave _ => true
  | .mbvSnapReq _ l => wfLink l
  | .mbgSnapReq _ | .voterDisagreement _ _ _ => true
  | .brassInternalCheck u | .unitSelfTestComplete u _ => decide (u.toNat < 3)
  | .rotate _ _ | .rotationStep | .rotationAgeHour | .feClaim _ _ _ | .feStatFree _ _ _ | .feInjArm _ _ _
  | .escalationTimerExpiry _ => true
  | .quietPeriodExpiry _ c => decide (1 ≤ c.toNat ∧ c.toNat ≤ 6)
  | .crel _ _ | .fltSnapReq _ | .pewterRecordWrite _ | .tokenBucketRefill _ | .ancw _ _ | .notew _ _ | .rcmd _ _ | .pewSnapReq _
  | .checkpointTick | .clkProcSet _ _ _ | .clockRelockComplete _ | .referenceClockLoss _ _ | .snapshotCapture _ => true
  | .islandReset isl | .crossingRearmTimeout isl => isl.wf
  | .sysResetRestart _ _ | .sysLock _ _ | .bootProgramInstall _ _ | .bootProgramRemove _ _ | .clkSnapReq _ | .cluModeNext _ _ _
  | .rsnapReq _ | .managementWrite _ _ | .managementRead _ | .traceFrame => true
  | .sensorRead r => decide (r.temp.length = 12 ∧ r.volt.length = 6 ∧ r.curr.length = 5)
  | .huokFall | .perst => true
  | .railOutOfTolerance rail _ _ => decide (rail.toNat < 5)
  | .registerWrite _ x size _ => x.wf && decide (size = 1 ∨ size = 2 ∨ size = 4 ∨ size = 8)
  | .backInvalidationResponse line _ dirty _ => wfLine line && (match dirty with | none => true | some bs => decide (bs.length = 64))
  | .functionLevelReset _ | .vauxPresent | .vauxAbsent | .blockRelocation _ | .reportGo | .reportsWaitingOver1s | .cgctlWrite _ _ => true
  | .mbovaTrainingComplete l _ _ => wfLink l

end Sys2Proof
end

