-- ==== Sys2Proof/Safety.lean ====
section
/-!
DEFINITION. What the claims speak of: the canonical form of the main store, what a safe state is, when an instruction can
be done, and what an instruction leaves as it was.
-/
namespace Sys2Proof.Machine

open Sys2Proof

/-- The canonical form of a byte memory whose unlisted bytes read zero: addresses strictly rising, no zero listed. -/
def Memory.wf (m : List Host.Cell) : Bool := spRising none m && spNoDefault 0 m

/-- A step ends in a next state. -/
def Goes (r : Res) : Prop := ∃ t, r = .next t

/-- The state a fetch leaves when the instruction at IP is there to be done (R44, R88). -/
def State.afterFetch (s : State) (p : BitVec 6) : Option State :=
  match s.fetch p with
  | .ok t => some t
  | .wait _ | .bad _ => none

/-- Processor p can do an instruction that reads and writes these registers: it may issue (R35, R67, R95, R108, R137), its
fetch leaves `t` (R44, R70), no operand waits (R61, R73). -/
def State.Ready (s : State) (p : BitVec 6) (reads writes : List Reg) (t : State) : Prop :=
  s.able p = true ∧ s.afterFetch p = some t ∧ reads.any (t.proc p).blockedR = false ∧ writes.any (t.proc p).blockedW = false

/-- Nothing but processor p differs: every other processor, every register of device space, every byte of every memory and
cache stands as before. -/
def OnlyProc (t u : State) (p : BitVec 6) : Prop :=
  u = { t with procs := u.procs } ∧ ∀ r, r ≠ p → u.proc r = t.proc r

/-- Every register but the listed ones and those that an outstanding load is to write (R61) reads as before. -/
def RegsKept (q q' : Proc) (but : List Reg) : Prop :=
  (∀ n, Reg.g n ∉ but → (∀ l ∈ q.loads, l.dst ≠ .g n) → q'.gR n = q.gR n) ∧
  (∀ n, Reg.f n ∉ but → (∀ l ∈ q.loads, l.dst ≠ .f n) → q'.fR n = q.fR n)

/-- What an instruction that only computes leaves alone in its processor: segments, control registers, reservation, store
buffer, slots, combining buffer, run state, waiting interrupts and faults. -/
def ProcKept (q q' : Proc) : Prop :=
  q'.segs = q.segs ∧ q'.cr = q.cr ∧ q'.resv = q.resv ∧ q'.sb = q.sb ∧ q'.slots = q.slots ∧ q'.comb = q.comb ∧
  q'.run = q.run ∧ q'.fault = q.fault ∧ q'.mcheck = q.mcheck ∧ q'.bar = q.bar ∧ q'.routine = q.routine

/-- PSW with V set on overflow (R77). -/
def withV (psw : Word) (ov : Bool) : Word := if ov then psw ||| 8 else psw

/-- An instruction of processor p has been done from `t`: its result `v` is in register rd (G0 stays zero), V is set on overflow,
which makes the overflow trap due when OVT is 1 (R71, R130), IP stands at the next instruction, all else is as it was. -/
def Computed (t : State) (p : BitVec 6) (r : Res) (rd : BitVec 5) (v : Word) (ov : Bool) : Prop :=
  ∃ u, r = .next u ∧ OnlyProc t u p ∧ (u.proc p).gR rd = (if rd = 0 then 0 else v) ∧ (u.proc p).psw = withV (t.proc p).psw ov ∧
    (u.proc p).trap = (if ov && (t.proc p).ovt then some { code := 0x07, xip := (t.proc p).ip + 6, kind := 1 } else (t.proc p).trap) ∧
    (u.proc p).fpsw = (t.proc p).fpsw ∧ (u.proc p).ip = (t.proc p).ip + 6 ∧ RegsKept (t.proc p) (u.proc p) [.g rd] ∧
    ProcKept (t.proc p) (u.proc p) ∧ (u.proc p).longs = (t.proc p).longs

/-- As `Computed` of an instruction that sets no flag and goes on at `ip`; register 0 stands for no result. -/
def Computed' (t : State) (p : BitVec 6) (r : Res) (rd : BitVec 5) (v ip : Word) : Prop :=
  ∃ u, r = .next u ∧ OnlyProc t u p ∧ (u.proc p).gR rd = (if rd = 0 then 0 else v) ∧ (u.proc p).psw = (t.proc p).psw ∧
    (u.proc p).trap = (t.proc p).trap ∧ (u.proc p).fpsw = (t.proc p).fpsw ∧ (u.proc p).ip = ip ∧
    RegsKept (t.proc p) (u.proc p) [.g rd] ∧ ProcKept (t.proc p) (u.proc p) ∧ (u.proc p).longs = (t.proc p).longs

/-- As `Computed` of an instruction whose result is in floating register rd. -/
def ComputedF (t : State) (p : BitVec 6) (r : Res) (rd : BitVec 5) (v : BitVec 64) : Prop :=
  ∃ u, r = .next u ∧ OnlyProc t u p ∧ (u.proc p).fR rd = v ∧ (u.proc p).psw = (t.proc p).psw ∧
    (u.proc p).trap = (t.proc p).trap ∧ (u.proc p).fpsw = (t.proc p).fpsw ∧ (u.proc p).ip = (t.proc p).ip + 6 ∧
    RegsKept (t.proc p) (u.proc p) [.f rd] ∧ ProcKept (t.proc p) (u.proc p) ∧ (u.proc p).longs = (t.proc p).longs

/-- A long instruction of processor p has issued from `t` (R73, R112): the result and the flags it will set wait for its
completion, everything else is as it was but IP. -/
def LongStarted (t : State) (p : BitVec 6) (r : Res) (dst : Reg) (val : BitVec 64) (v dz : Bool) (trap : BitVec 6) (fl : BitVec 5) : Prop :=
  ∃ u x, r = .next u ∧ OnlyProc t u p ∧ (u.proc p).longs = (t.proc p).longs ++ [x] ∧ x.dst = dst ∧ x.val = val ∧ x.setV = v ∧
    x.setDZ = dz ∧ x.trap = trap ∧ x.fl = fl ∧ (u.proc p).ip = (t.proc p).ip + 6 ∧ (u.proc p).psw = (t.proc p).psw ∧
    (u.proc p).fpsw = (t.proc p).fpsw ∧ RegsKept (t.proc p) (u.proc p) [] ∧ ProcKept (t.proc p) (u.proc p)

/-- The instruction at IP of p raises exception `code` in place of its effect (R70): it is due with XIP at the instruction, and
nothing else changes. -/
def Raises (t : State) (p : BitVec 6) (r : Res) (code : BitVec 6) : Prop :=
  ∃ d : Due, r = .next (t.modProc p fun q => { q with fault := some d }) ∧ d.code = code ∧ d.xip = (t.proc p).ip

/-- A line whose array words are read as written: its channel is not fenced, no stored check bit deviates (R225, R239). -/
def CleanLine (s : State) (l : Nat) : Prop := s.fenced l = false ∧ ∀ w, w < 16 → spGetD 0 s.flips (16 * l + w) = 0

/-- A request `m` of agent r that `ok` picks is the next to reach the home of a line of the main store, which works on nothing for
that line and need not take it back from the host first; `net` is what stays in flight. -/
def AtHome (s : State) (l : Nat) (r : Agent) (ok : MK → Bool) (m : Msg) (net : List Msg) : Prop :=
  l < s.part.msLines ∧ takeMsg (fun m => m.line = l ∧ m.src = .ag r ∧ m.dst = s.homeNode l ∧ ok m.kind) [] s.net = some (m, net) ∧
  m.line = l ∧ m.req = r ∧ (s.dirOf l).txn = none ∧ (s.dirOf l).hostFirst m = false

/-- A way of the line's directory set is free and not reserved for another (R202, R209). -/
def DirRoom (s : State) (l : Nat) (r : Agent) : Prop :=
  (s.dirSet l).length +
    (((s.stack (s.sliceOf l)).resv.filter fun x => !(x.line = l ∧ x.req = r)).filter fun x => sameSet x.line l).length < 16

/-- A byte of the main store as the array holds it. -/
def State.byteAt (s : State) (a : Nat) : Byte := spGetD 0 s.ms a

/-- The main store's bytes, those of its image in Tungsten, and of the image as it stood when the resume under way began (R22), are in
canonical form. -/
def StoresWf (s : State) : Prop :=
  Memory.wf s.ms = true ∧ Memory.wf s.tun.img = true ∧ ∀ k, s.kept = some k → Memory.wf k.tun.img = true

/-- No byte of the main store outside line l differs. -/
def LineOnly (s u : State) (l : Nat) : Prop := ∀ a, a / 96 ≠ l → u.byteAt a = s.byteAt a

/-- Nothing differs but what recording an event touches: the captures, Pewter, interrupt lines and vectors (R475, R489, R487). -/
def EventOnly (s u : State) : Prop := u = { s with fe := u.fe, dev := u.dev, outbox := u.outbox, cxl := u.cxl, pew := u.pew }

/-- No check-bit injection is armed in any block (R485). -/
def NoInjection (s : State) : Prop := ∀ b, (s.feAt (feBase b)).inj.getLsbD 32 = false

/-- Cluster k holds line l as `c`, with good check bits and tags, its cache is enabled and no injection is armed (R182, R194, R196). -/
def SoundLine (s : State) (k l : Nat) (c : CLine) : Prop :=
  s.cline k l = some c ∧ c.flip = 0 ∧ (s.clu k).search = none ∧ (∀ x ∈ s.ccSet k l, x.2.tagBad = false) ∧ s.ccState k = 1 ∧ NoInjection s

/-- Load `l` of p waits for its data, no other outstanding load is to write its register, and none of them is about to write. -/
def LoadAlone (q : Proc) (pre post : List Load) (l : Load) : Prop :=
  q.loads = pre ++ l :: post ∧ l.data = none ∧ ∀ x ∈ pre ++ post, x.dst ≠ l.dst ∧ (x.data.isSome && decide (2 ≤ x.pos)) = false

/-- Load `l` of p has received the bytes `bs` (R61, R62): within its shadow they wait, after it they are written unless the load is
superseded; no other register and no other load differs. -/
def Delivered (s u : State) (p : BitVec 6) (pre post : List Load) (l : Load) (bs : List Byte) : Prop :=
  OnlyProc s u p ∧ (u.proc p).loads = pre ++ (if 2 ≤ l.pos then [] else [{ l with data := some bs }]) ++ post ∧
  (∀ n, l.dst = .g n → (u.proc p).gR n =
    if n = 0 then 0 else if 2 ≤ l.pos ∧ l.sup = false then (loadVal l.kind bs).setWidth 48 else (s.proc p).gR n) ∧
  (∀ n, l.dst = .f n → (u.proc p).fR n = if 2 ≤ l.pos ∧ l.sup = false then loadVal l.kind bs else (s.proc p).fR n) ∧
  (∀ n, l.dst ≠ .g n → (u.proc p).gR n = (s.proc p).gR n) ∧ (∀ n, l.dst ≠ .f n → (u.proc p).fR n = (s.proc p).fR n) ∧
  (u.proc p).ip = (s.proc p).ip ∧ (u.proc p).psw = (s.proc p).psw ∧ (u.proc p).fpsw = (s.proc p).fpsw

/-- The head of a processor's store buffer is `e`, and no older load still waits for the bytes it writes (R158, R159). -/
def Departs (q : Proc) (e : Entry) (rest : List SbItem) : Prop := q.sb = .entry e :: rest ∧ q.loadWaits e = false

/-- Nothing keeps processor p from what it does next, and no exception is due on it (R135, R151, R154): it exists in a running module. -/
def StepsOut (s : State) (p : BitVec 6) : Prop :=
  s.phase = .run ∧ s.hasProc p = true ∧ (s.proc p).paused = none ∧ (s.proc p).relock = none ∧ (s.proc p).stopReq = none ∧ (s.proc p).fault = none ∧
  (s.proc p).trap = none ∧ (s.proc p).mcheck = none ∧ (s.proc p).resume = none ∧ (s.proc p).stepDue = false

/-- Processor p stands in routine r and can take its next step (R104, R135). -/
def StepReady (s : State) (p : BitVec 6) (r : Routine) : Prop := StepsOut s p ∧ (s.proc p).run = .running ∧ (s.proc p).routine = some r

/-- The running program of engine e, none of the standard image's, may act on its microword w: no fault, stall or stop (R380 to R382). `t` and `p` are the state
and the program as the word finds them. -/
def WordReady (s : State) (e : BitVec 4) (w : Mw) (t : State) (p : Prog) : Prop :=
  s.phase = .run ∧ NoInjection s ∧ ∃ p0, (s.engine e.toNat).run = some p0 ∧ p0.std = none ∧ w = s.uword e.toNat p0.ua.toNat ∧ s.uPre e.toNat p0 w = .go t p

end Sys2Proof.Machine
end

