-- ==== Sys2Proof/Certificates/Slice0/Obligations.lean ====
section
/-!
DEFINITION. The statements for the provers.
-/
section
open Sys2Proof Sys2Proof.Machine


/-- R77: the integer functions of opcode 0x01 that are no shifts. Each writes its result to rd, reads zero from G0 and discards a
write to it (R24), sets V on signed overflow where the table says so, and leaves every other register, flag and byte as
it was. A nonzero function field that must be zero is an illegal instruction (R69).
R79: the operations with an immediate. -/
def Obligations.IntegerResults : Prop :=
  (
  ∀ (s t : State) (p : BitVec 6) (f : RR), s.Ready p [.g f.ra, .g f.rb] [.g f.rd] t →
    (f.z ≠ 0 → ∀ c ∈ [Instr.add p f, .addu p f, .sub p f, .subu p f, .and p f, .or p f, .xor p f, .andn p f, .nor p f, .slt p f, .sltu p f, .neg p f], Raises t p (exec c s) 0x01) ∧
    (f.rb ≠ 0 → Raises t p (exec (.neg p f) s) 0x01) ∧
    (f.z = 0 →
    let a := (t.proc p).gR f.ra
    let b := (t.proc p).gR f.rb
    Computed t p (exec (.add p f) s) f.rd (a + b) (overflows (a.toInt + b.toInt)) ∧
    Computed t p (exec (.addu p f) s) f.rd (a + b) false ∧
    Computed t p (exec (.sub p f) s) f.rd (a - b) (overflows (a.toInt - b.toInt)) ∧
    Computed t p (exec (.subu p f) s) f.rd (a - b) false ∧
    Computed t p (exec (.and p f) s) f.rd (a &&& b) false ∧
    Computed t p (exec (.or p f) s) f.rd (a ||| b) false ∧
    Computed t p (exec (.xor p f) s) f.rd (a ^^^ b) false ∧
    Computed t p (exec (.andn p f) s) f.rd (a &&& ~~~b) false ∧
    Computed t p (exec (.nor p f) s) f.rd (~~~(a ||| b)) false ∧
    Computed t p (exec (.slt p f) s) f.rd (if a.toInt < b.toInt then 1 else 0) false ∧
    Computed t p (exec (.sltu p f) s) f.rd (if a.toNat < b.toNat then 1 else 0) false ∧
    (f.rb = 0 → Computed t p (exec (.neg p f) s) f.rd (0 - a) (decide (a = 0x800000000000))))) ∧
  (
  ∀ (s t : State) (p : BitVec 6) (f : RI), s.Ready p [.g f.ra] [.g f.rd] t →
    let a := (t.proc p).gR f.ra
    let sx : Word := f.imm.signExtend 48
    let zx : Word := f.imm.setWidth 48
    Computed t p (exec (.addi p f) s) f.rd (a + sx) (overflows (a.toInt + sx.toInt)) ∧
    Computed t p (exec (.addiu p f) s) f.rd (a + sx) false ∧
    Computed t p (exec (.slti p f) s) f.rd (if a.toInt < sx.toInt then 1 else 0) false ∧
    Computed t p (exec (.sltiu p f) s) f.rd (if a.toNat < sx.toNat then 1 else 0) false ∧
    Computed t p (exec (.andi p f) s) f.rd (a &&& zx) false ∧
    Computed t p (exec (.ori p f) s) f.rd (a ||| zx) false ∧
    Computed t p (exec (.xori p f) s) f.rd (a ^^^ zx) false ∧
    (f.ra = 0 → f.imm.toNat < 2 ^ 24 → Computed t p (exec (.lhi p f) s) f.rd (zx <<< 24) false) ∧
    (f.ra ≠ 0 ∨ 2 ^ 24 ≤ f.imm.toNat → Raises t p (exec (.lhi p f) s) 0x01))

/-- R78: shifts by 48 or more, rotates by the amount modulo 48, the amount from G[rb][5:0] or imm[5:0]; an immediate above
63 or a nonzero zero field is an illegal instruction (R69). -/
def Obligations.ShiftAndRotateResults : Prop :=
  (∀ (s t : State) (p : BitVec 6) (f : RR), f.z ≠ 0 → s.Ready p [.g f.ra, .g f.rb] [.g f.rd] t →
    ∀ c ∈ [Instr.shl p f, .shr p f, .sar p f, .ror p f, .rol p f], Raises t p (exec c s) 0x01) ∧
  (∀ (s t : State) (p : BitVec 6) (f : RR), f.z = 0 → s.Ready p [.g f.ra, .g f.rb] [.g f.rd] t →
    let a := (t.proc p).gR f.ra
    let n := ((t.proc p).gR f.rb).toNat % 64
    Computed t p (exec (.shl p f) s) f.rd (if 48 ≤ n then 0 else a <<< n) false ∧
    Computed t p (exec (.shr p f) s) f.rd (if 48 ≤ n then 0 else a >>> n) false ∧
    Computed t p (exec (.sar p f) s) f.rd (a.sshiftRight n) false ∧
    Computed t p (exec (.ror p f) s) f.rd (a.rotateRight (n % 48)) false ∧
    Computed t p (exec (.rol p f) s) f.rd (a.rotateLeft (n % 48)) false) ∧
  (∀ (s t : State) (p : BitVec 6) (f : RI), s.Ready p [.g f.ra] [.g f.rd] t →
    let a := (t.proc p).gR f.ra
    let n := f.imm.toNat % 64
    if f.imm.toNat < 64 then
      Computed t p (exec (.shli p f) s) f.rd (if 48 ≤ n then 0 else a <<< n) false ∧
      Computed t p (exec (.shri p f) s) f.rd (if 48 ≤ n then 0 else a >>> n) false ∧
      Computed t p (exec (.sari p f) s) f.rd (a.sshiftRight n) false ∧
      Computed t p (exec (.rori p f) s) f.rd (a.rotateRight (n % 48)) false
    else
      Raises t p (exec (.shli p f) s) 0x01 ∧ Raises t p (exec (.shri p f) s) 0x01 ∧
      Raises t p (exec (.sari p f) s) 0x01 ∧ Raises t p (exec (.rori p f) s) 0x01)

/-- R80, R81: multiplies and divides issue with the result the table gives; a division by zero and the overflowing
signed division need no divider; every other division needs the one integer divider (R73). A trap is due at the
completion when its enable is set.
R112, R121, R71: a long instruction's completion writes its result (G0 stays zero), sets its flags, makes its trap due with
the next instruction as XIP (R130), and changes nothing else. -/
def Obligations.MultiplyAndDivide : Prop :=
  (
  ∀ (s t : State) (p : BitVec 6) (f : RR), f.z = 0 → s.Ready p [.g f.ra, .g f.rb] [.g f.rd] t →
    let a := (t.proc p).gR f.ra
    let b := (t.proc p).gR f.rb
    let ovt := (t.proc p).ovt
    let dzt := (t.proc p).dzt
    let tr (c : Bool) (k : BitVec 6) : BitVec 6 := if c then k else 0
    let free := (t.proc p).longs.any (fun x => x.idiv) = false
    let big := a.toInt = -(2 ^ 47) ∧ b.toInt = -1
    let w (x : Word) : BitVec 64 := x.setWidth 64
    LongStarted t p (exec (.mul p f) s) (.g f.rd) (w (BitVec.ofInt 48 (a.toInt * b.toInt))) (overflows (a.toInt * b.toInt)) false
      (tr (overflows (a.toInt * b.toInt) && ovt) 7) 0 ∧
    LongStarted t p (exec (.mulh p f) s) (.g f.rd) (w (BitVec.ofInt 48 (a.toInt * b.toInt / 2 ^ 48))) false false 0 0 ∧
    LongStarted t p (exec (.mulhu p f) s) (.g f.rd) (w (BitVec.ofNat 48 (a.toNat * b.toNat / 2 ^ 48))) false false 0 0 ∧
    (b = 0 →
      LongStarted t p (exec (.div p f) s) (.g f.rd) 0 false true (tr dzt 8) 0 ∧
      LongStarted t p (exec (.divu p f) s) (.g f.rd) 0 false true (tr dzt 8) 0 ∧
      LongStarted t p (exec (.rem p f) s) (.g f.rd) (w a) false true (tr dzt 8) 0 ∧
      LongStarted t p (exec (.remu p f) s) (.g f.rd) (w a) false true (tr dzt 8) 0) ∧
    (big →
      LongStarted t p (exec (.div p f) s) (.g f.rd) 0x800000000000 true false (tr ovt 7) 0 ∧
      LongStarted t p (exec (.rem p f) s) (.g f.rd) 0 true false (tr ovt 7) 0) ∧
    (b ≠ 0 → free →
      (¬ big →
        LongStarted t p (exec (.div p f) s) (.g f.rd) (w (BitVec.ofInt 48 (a.toInt.tdiv b.toInt))) false false 0 0 ∧
        LongStarted t p (exec (.rem p f) s) (.g f.rd) (w (BitVec.ofInt 48 (a.toInt - b.toInt * a.toInt.tdiv b.toInt))) false false 0 0) ∧
      LongStarted t p (exec (.divu p f) s) (.g f.rd) (w (BitVec.ofNat 48 (a.toNat / b.toNat))) false false 0 0 ∧
      LongStarted t p (exec (.remu p f) s) (.g f.rd) (w (BitVec.ofNat 48 (a.toNat % b.toNat))) false false 0 0)) ∧
  (
  ∀ (s : State) (p : BitVec 6) (n : Nat) (x : Long), (s.proc p).longs[n]? = some x →
    ∃ u, exec (.longResultComplete p n) s = .next u ∧ OnlyProc s u p ∧
      (u.proc p).longs = (s.proc p).longs.eraseIdx n ∧
      (∀ r, x.dst = .g r → (u.proc p).gR r = if r = 0 then 0 else x.val.setWidth 48) ∧
      (∀ r, x.dst = .f r → (u.proc p).fR r = x.val) ∧
      (∀ r, x.dst ≠ .g r → (u.proc p).gR r = (s.proc p).gR r) ∧
      (∀ r, x.dst ≠ .f r → (u.proc p).fR r = (s.proc p).fR r) ∧
      (u.proc p).psw = (s.proc p).psw ||| (if x.setV then 8 else 0) ||| (if x.setDZ then 16 else 0) ∧
      (x.trap = 0 → (u.proc p).fpsw = (s.proc p).fpsw ||| (x.fl.setWidth 48 <<< 3) ∧ (u.proc p).trap = (s.proc p).trap) ∧
      (x.trap ≠ 0 → ∃ d, (u.proc p).trap = some d ∧ d.code = x.trap ∧ d.xip = (s.proc p).ip) ∧
      (u.proc p).ip = (s.proc p).ip ∧ (u.proc p).loads = (s.proc p).loads ∧ ProcKept (s.proc p) (u.proc p))

/-- R86, R60, R61, R67, R90, R160: a load whose access check passes and that no third-load rule holds (R67) completes its issue: IP moves
on, the load stands last among the outstanding ones at position 0, without data, with the bytes that the processor's own stores forward
to it, and no register, flag or buffered store changes. Its request leaves at once, as `State.loadAsk` says, unless all its bytes are forwarded or an
LLW waits its back-off (R172); LLW ends the reservation. A read of host memory leaves in pieces of 64-byte lines (R314); a load whose
line the cluster holds is asked, and nothing leaves. A load whose check fails raises the exception of the check (R51). -/
def Obligations.LoadsIssue : Prop :=
  (∀ (s t : State) (p : BitVec 6) (f : MF) (k : LKind) (c : BitVec 6 → MF → Instr),
    (c, k) ∈ [(Instr.lb, LKind.lb), (.lbu, .lbu), (.lh, .lh), (.lhu, .lhu), (.lw, .lw), (.lfs, .lfs), (.lfd, .lfd), (.llw, .llw)] →
    s.Ready p [.g f.ra] [match k with | .lfs | .lfd => .f f.rd | _ => .g f.rd] t →
    let q := t.proc p
    let off := q.gR f.ra + f.disp.signExtend 48
    (∀ d, t.access p .load f.seg off k.size k.size q.ip = .error d →
      exec (c p f) s = .next (t.modProc p fun q => { q with fault := some d })) ∧
    (∀ a q1, t.access p .load f.seg off k.size k.size q.ip = .ok a → q.loadStall = none → q.drainFor a k.size = some q1 →
      ∃ (ld : Load) (q2 : Proc),
        exec (c p f) s = .next (if (ld.fwd.isSome ∧ k ≠ .llw) ∨ (k = .llw ∧ q.scwFailed = true ∧ (t.cacheLine a).isSome)
          then t.setProc p q2 else (t.setProc p q2).loadAsk p ld) ∧
        ld.kind = k ∧ ld.rd = f.rd ∧ ld.seg = f.seg ∧ ld.addr = a.addr ∧ ld.space = a.space ∧ ld.node = a.node ∧ ld.off = off ∧ ld.ip = q.ip ∧
        ld.sn = q.sn ∧ ld.pos = 0 ∧ ld.data = none ∧ ld.sup = false ∧ ld.asked = false ∧
        (∀ bs, ld.fwd = some bs ↔ a.space = 0 ∧ q1.forward a.addr k.size = .full bs) ∧
        (∃ older, q2.loads = older ++ [ld]) ∧ q2.ip = q.ip + 6 ∧ q2.psw = q.psw ∧ q2.fpsw = q.fpsw ∧ RegsKept q q2 [] ∧ q2.sb = q1.sb ∧
        q2.slots = q.slots ∧ (k = .llw → q2.resv = none) ∧ (k ≠ .llw → q2.resv = q.resv))) ∧
  (∀ (t : State) (p : BitVec 6) (ld : Load), ld.asked = false →
    (ld.space = 3 → (t.proc p).overlapped ld = false →
      ∃ u, t.loadAsk p ld = u ∧ u.outbox = (t.hostReads ld.addr ld.kind.size).outbox ∧ u.ms = t.ms ∧ u.clus = t.clus ∧
        (∀ r, (u.proc p).gR r = (t.proc p).gR r)) ∧
    (∀ l c, t.loadLine ld = some l → SoundLine t (cluOf p) l c → c.st.readable = true → ld.kind ≠ .llw →
      t.loadAsk p ld = t.modProc p fun q => { q with loads := q.loads.map fun x => if x.sn = ld.sn then { x with asked := true, tick := t.ticks } else x }))

/-- R86, R37: the value each load makes of its bytes, the lowest address first.
R61, R62, R160, R90, R159: LOAD_DATA_ARRIVAL completes for the n-th outstanding load: with the bytes forwarded from the processor's own
stores at issue, those of the line that the core's L1 and its cluster hold, those that host memory brings, what a register of a block reads,
or Tungsten's bytes; in the shadow they wait, after it they are written, a superseded load writes nothing, and no other register changes. An LLW
whose line the cluster owns takes the reservation.
R88, R167: a load whose data comes poisoned, or whose target has been silent for 2 µs, is gone; poison consumed (0x0B) is
due on the load itself with its address, and the register it was to write keeps its value. -/
def Obligations.LoadsComplete : Prop :=
  (
  ∀ (b0 b1 b2 b3 b4 b5 b6 b7 : Byte),
    loadVal .lb [b0] = (b0.signExtend 48 : Word).setWidth 64 ∧
    loadVal .lbu [b0] = b0.setWidth 64 ∧
    loadVal .lh [b0, b1, b2] = ((b2 ++ b1 ++ b0 : BitVec 24).signExtend 48 : Word).setWidth 64 ∧
    loadVal .lhu [b0, b1, b2] = (b2 ++ b1 ++ b0 : BitVec 24).setWidth 64 ∧
    loadVal .lw [b0, b1, b2, b3, b4, b5] = (b5 ++ b4 ++ b3 ++ b2 ++ b1 ++ b0 : Word).setWidth 64 ∧
    loadVal .llw [b0, b1, b2, b3, b4, b5] = (b5 ++ b4 ++ b3 ++ b2 ++ b1 ++ b0 : Word).setWidth 64 ∧
    loadVal .lfs [b0, b1, b2, b3] = (b3 ++ b2 ++ b1 ++ b0 : BitVec 32).setWidth 64 ∧
    loadVal .lfd [b0, b1, b2, b3, b4, b5, b6, b7] = b7 ++ b6 ++ b5 ++ b4 ++ b3 ++ b2 ++ b1 ++ b0) ∧
  (
  ∀ (s : State) (p : BitVec 6) (ext : List Byte) (pois : Bool) (pre post : List Load) (l : Load),
    s.phase = .run → LoadAlone (s.proc p) pre post l →
    let cut (d : List Byte) : List Byte := (d.drop (l.addr % 96)).take l.kind.size
    (∀ bs, l.fwd = some bs → l.kind ≠ .llw →
      ∃ u, exec (.loadDataArrival p pre.length ext pois) s = .next u ∧ Delivered s u p pre post l bs) ∧
    (l.fwd = none → (s.proc p).overlapped l = false → (s.proc p).loadTurn l = true → l.asked = true →
      (∀ key c, l.kind ≠ .llw → s.loadLine l = some key → SoundLine s (cluOf p) key c → c.st.readable = true → c.pois = false →
        (spGet (s.core (s.hostCore p)).dc key).isSome → 
        ∃ u, exec (.loadDataArrival p pre.length ext pois) s = .next u ∧ Delivered s u p pre post l (cut c.data)) ∧
      (∀ key c, l.kind = .llw → (s.proc p).backoff = none → (s.proc p).resvFor = some l.sn → s.loadLine l = some key → SoundLine s (cluOf p) key c →
        c.st = .m ∨ c.st = .e → c.pois = false → (spGet (s.core (s.hostCore p)).dc key).isSome →
        ∃ u, exec (.loadDataArrival p pre.length ext pois) s = .next u ∧ Delivered s u p pre post l (cut c.data) ∧
          (u.proc p).resv = some (96 * key + l.addr % 96)) ∧
      (l.kind ≠ .llw → l.space = 3 → s.mstat 2 = true → s.mstat 1 = false → pois = false →
        ∃ u, exec (.loadDataArrival p pre.length ext pois) s = .next u ∧
          Delivered s u p pre post l ((List.range l.kind.size).map fun i => ext.getD i 0)) ∧
      (l.kind ≠ .llw → l.space = 2 → (s.proc p).devTurn l.sn l.addr = true →
        exec (.loadDataArrival p pre.length ext pois) s = .next ((s.devRead p l.addr).2.loadGets p pre.length l (wordLe (s.devRead p l.addr).1) false)) ∧
      (l.kind ≠ .llw → l.space = 1 →
        exec (.loadDataArrival p pre.length ext pois) s =
          .next ((s.tungRead p l.addr l.kind.size ext).2.loadGets p pre.length l (s.tungRead p l.addr l.kind.size ext).1 false)))) ∧
  (
  ∀ (s : State) (p : BitVec 6) (ext : List Byte) (pre post : List Load) (l : Load),
    (s.proc p).loads = pre ++ l :: post → l.data = none → (∀ x ∈ pre ++ post, x.data = none) → (s.proc p).fault = none →
    let gone (u : State) (pa : Nat) : Prop := ∃ d, (u.proc p).fault = some d ∧ d.code = 0x0B ∧ d.xip = l.ip ∧ d.addr = l.off ∧ d.seg = l.seg ∧
      d.acc = 1 ∧ d.paddr = BitVec.ofNat 48 pa ∧ (u.proc p).loads = pre ++ post ∧
      (∀ r, (u.proc p).gR r = (s.proc p).gR r) ∧ (∀ r, (u.proc p).fR r = (s.proc p).fR r) ∧ u.ms = s.ms
    (s.phase = .run → l.kind ≠ .llw → l.fwd = none → l.asked = true → l.space = 3 → (s.proc p).overlapped l = false → (s.proc p).loadTurn l = true →
      s.mstat 2 = true → s.mstat 1 = false →
      ∃ u, exec (.loadDataArrival p pre.length ext true) s = .next u ∧ OnlyProc s u p ∧ gone u (96 * (l.addr / 96))) ∧
    (s.loadLate p l = true →
      ∃ u, exec (.loadTimeout p pre.length) s = .next u ∧ gone u l.addr))

/-- R86, R157, R53, R89: a store whose access check passes enters the store buffer with its bytes at the address the check gave; no
byte of memory changes yet, and no register. SFS and SFD store F registers; STNT to a space other than 0 is SW (R93).
R93, R169: STNT to space 0 goes through the combining buffer: a new line of it takes the word's bytes, and the store
buffer stands as it was. -/
def Obligations.StoresEnterTheBuffers : Prop :=
  (
  ∀ (s t : State) (p : BitVec 6) (f : MF) (n : Nat) (fl : Bool) (c : BitVec 6 → MF → Instr),
    (c, n, fl) ∈ [(Instr.sb, 1, false), (.sh, 3, false), (.sw, 6, false), (.sfs, 4, true), (.sfd, 8, true), (.stnt, 6, false)] →
    s.Ready p [.g f.ra, if fl then .f f.rd else .g f.rd] [] t →
    let q := t.proc p
    let off := q.gR f.ra + f.disp.signExtend 48
    let v : Nat := if fl then (q.fR f.rd).toNat else (q.gR f.rd).toNat
    (∀ d, t.access p .store f.seg off n n q.ip = .error d →
      exec (c p f) s = .next (t.modProc p fun q => { q with fault := some d })) ∧
    (∀ a q1, t.access p .store f.seg off n n q.ip = .ok a → q.drainFor a n = some q1 → q1.sbRoom 1 = true →
      (c = .stnt → a.space ≠ 0) →
      ∃ u, exec (c p f) s = .next u ∧ OnlyProc t u p ∧
        (u.proc p).sb = q1.sb ++ [.entry ⟨q.sn, a.space, a.node, f.seg, 2, a.persist && decide (a.space = 0), false, cellsAt a.addr (natLe n v)⟩] ∧
        (u.proc p).comb = q1.comb ∧ (u.proc p).ip = q.ip + 6 ∧ (u.proc p).psw = q.psw ∧ RegsKept q (u.proc p) [] ∧
        (u.proc p).segs = q.segs ∧ (u.proc p).cr = q.cr ∧ (u.proc p).slots = q.slots ∧ (u.proc p).resv = q.resv)) ∧
  (
  ∀ (s t : State) (p : BitVec 6) (f : MF) (a : Acc), s.Ready p [.g f.ra, .g f.rd] [] t →
    t.access p .store f.seg ((t.proc p).gR f.ra + f.disp.signExtend 48) 6 6 (t.proc p).ip = .ok a → a.space = 0 →
    (t.proc p).comb.length < 4 → (∀ x ∈ (t.proc p).comb, x.line ≠ a.addr / 96) →
    ∃ u, exec (.stnt p f) s = .next u ∧ OnlyProc t u p ∧
      (u.proc p).comb = (t.proc p).comb ++ [⟨a.addr / 96, cellsAt a.addr (wordLe ((t.proc p).gR f.rd)), a.persist, f.seg, (t.proc p).sn⟩] ∧
      (u.proc p).sb = (t.proc p).sb ∧ (u.proc p).ip = (t.proc p).ip + 6 ∧ RegsKept (t.proc p) (u.proc p) [])

/-- R91, R92: SCW without a valid reservation on its address completes with 0 in rd and stores nothing; with one, on a line that the cluster
owns, it writes the word's bytes into the line and 1 to rd. The reservation is invalid afterwards. A failed access check raises its
exception (R51). -/
def Obligations.StoreConditional : Prop :=
  ∀ (s t : State) (p : BitVec 6) (f : MF), s.Ready p [.g f.ra, .g f.rd] [.g f.rd] t →
    let q := t.proc p
    let off := q.gR f.ra + f.disp.signExtend 48
    (∀ d, t.access p .store f.seg off 6 6 q.ip = .error d →
      ∃ u, exec (.scw p f) s = .next u ∧ OnlyProc t u p ∧ (u.proc p).fault = some d ∧ (u.proc p).resv = none ∧ (u.proc p).ip = q.ip) ∧
    (∀ a q1, t.access p .store f.seg off 6 6 q.ip = .ok a → q.drainFor a 6 = some q1 →
      (∀ l, t.cacheLine a = some l → q.resv ≠ some (96 * l + a.addr % 96)) →
      ∃ u, exec (.scw p f) s = .next u ∧ OnlyProc t u p ∧ (u.proc p).gR f.rd = 0 ∧ (u.proc p).resv = none ∧
        (u.proc p).ip = q.ip + 6 ∧ (u.proc p).psw = q.psw ∧ (u.proc p).sb = q1.sb ∧ (u.proc p).slots = q.slots ∧
        (u.proc p).scwFailed = !q.resvExc ∧ RegsKept q (u.proc p) [.g f.rd]) ∧
    (∀ a l c, t.access p .store f.seg off 6 6 q.ip = .ok a → t.cacheLine a = some l → q.resv = some (96 * l + a.addr % 96) →
      q.comb = [] → q.sb = [] → q.slots = [] → SoundLine t (cluOf p) l c → c.st = .m ∨ c.st = .e → (a.persist = true → c.pg = true) →
      t.l1dWait (t.hostCore p) l = false →
      ∃ u, exec (.scw p f) s = .next u ∧ (u.proc p).gR f.rd = (if f.rd = 0 then 0 else 1) ∧ (u.proc p).resv = none ∧
        (u.proc p).ip = q.ip + 6 ∧ (u.proc p).psw = q.psw ∧ u.ms = t.ms ∧ RegsKept q (u.proc p) [.g f.rd] ∧
        (∃ c', u.cline (cluOf p) l = some c' ∧ c'.st = .m ∧
          c'.data = overlay 0 c.data ((cellsAt a.addr (wordLe (q.gR f.rd))).map fun (x, b) => (x % 96, b))) ∧
        (∀ k j, (k, j) ≠ (cluOf p, l) → u.cline k j = t.cline k j))

/-- R158, R159: the head of the store buffer departs. A store barrier's marker goes once the stores before it are at their stage; a
store to a line that the core's L1 may write is written into the line at once; a store to spaces 2 and 3 takes a free slot as a posted
write, which leaves for host memory in pieces of its lines (R314); a store to another node leaves as a remote write; a store whose line nobody in
the cluster may write takes a slot and waits for ownership; one whose line has a slot joins it.
R158, R166, R168, R172: a slot whose line is owned writes its entry and goes; a posted write to host memory or to a block is acknowledged and goes,
the block acting on it; stores of a slot that are silent for 2 µs are dropped, write nothing, and are counted; the delay after a failed
SCW ends. -/
def Obligations.StoresDepartAndEnd : Prop :=
  (
  ∀ (s : State) (p : BitVec 6) (rest : List SbItem),
    (∀ sc sn, (s.proc p).sb = .marker sc sn :: rest → (s.proc p).slotsAt sc sn = true →
      exec (.storeDepart p) s = .next (s.setProc p { s.proc p with sb := rest })) ∧
    (∀ e i, Departs (s.proc p) e rest → (s.proc p).freeSlot = some i → s.entryLine e = none →
      let posted := s.setProc p { s.proc p with sb := rest, slots := (s.proc p).slots ++ [⟨i, [{ e := e, st := .sent, tick := s.ticks }], true⟩] }
      (e.space = 2 → exec (.storeDepart p) s = .next posted) ∧
      (e.space = 3 → s.cxl.gpf = false → s.mstat 1 = false →
        exec (.storeDepart p) s = .next (posted.hostWrites e.at_ (e.bytes.map fun x => x.2))) ∧
      (e.space = 4 →
        exec (.storeDepart p) s = .next (posted.rWrite (.store p i) e.node (e.at_ / 96) ((s.instOfProc p).getD 0) p.toNat e.bytes))) ∧
    (∀ e l c x, Departs (s.proc p) e rest → s.entryLine e = some l → e.comb = false → (e.persist = true → c.pg = true) →
      (s.proc p).slots = [] → spGet (s.core (s.hostCore p)).dc l = some x → x.st ≠ .s → SoundLine s (cluOf p) l c → c.st = .m ∨ c.st = .e →
      ∃ u, exec (.storeDepart p) s = .next u ∧ (u.proc p).sb = rest ∧ (u.proc p).slots = [] ∧ u.ms = s.ms ∧
        (∃ c', u.cline (cluOf p) l = some c' ∧ c'.st = .m ∧ c'.data = overlay 0 c.data e.rel) ∧
        (∀ k j, (k, j) ≠ (cluOf p, l) → u.cline k j = s.cline k j)) ∧
    (∀ e l c, Departs (s.proc p) e rest → s.entryLine e = some l → e.comb = false → e.persist = false →
      (s.proc p).slots = [] → SoundLine s (cluOf p) l c → c.st = .s →
      ∃ u, exec (.storeDepart p) s = .next u ∧ (u.proc p).sb = rest ∧
        (u.proc p).slots = [⟨0, [{ e := e, st := .waiting, tick := s.ticks }], true⟩] ∧
        u.ms = s.ms ∧ ∃ m, u.net = s.net ++ [m] ∧ m.kind = .upg ∧ m.line = l ∧ m.dst = s.homeNode l ∧ m.req = cluAg (cluOf p)) ∧
    (∀ e l x y, Departs (s.proc p) e rest → s.entryLine e = some l → (s.proc p).slots = [x] → y ∈ x.entries → s.entryLine y = some l →
      e.persist = false →
      ∃ x', exec (.storeDepart p) s = .next (s.setProc p { s.proc p with sb := rest, slots := [x'] }) ∧ x'.id = x.id ∧
        x'.ents = x.ents ++ [{ e := e, st := .waiting, tick := s.ticks }])) ∧
  (
  (∀ (s : State) (p : BitVec 6) (x : Slot) (y : SEnt) (l : Nat) (c : CLine),
    (s.proc p).slots = [x] → x.ents = [y] → y.st = .waiting → s.entryLine y.e = some l → y.e.comb = false →
    (y.e.persist = true → x.granted = true ∨ c.pg = true) → SoundLine s (cluOf p) l c → c.st = .m ∨ c.st = .e →
    s.l1dWait (s.hostCore p) l = false →
    ∃ u, exec (.ownershipArrival p x.id) s = .next u ∧ (u.proc p).slots = [] ∧ u.ms = s.ms ∧
      (∃ c', u.cline (cluOf p) l = some c' ∧ c'.st = .m ∧ c'.data = overlay 0 c.data y.e.rel)) ∧
  (∀ (s : State) (p : BitVec 6) (x : Slot) (y : SEnt) (more : List SEnt), s.phase = .run →
    (s.proc p).slots.find? (fun z => z.id = x.id) = some x → x.ents = y :: more →
    (y.e.space = 3 → exec (.postedWriteAck p x.id) s = .next (s.setProc p ((s.proc p).setEnts x.id more))) ∧
    (y.e.space = 2 → (s.proc p).devTurn y.e.sn y.e.at_ = true →
      exec (.postedWriteAck p x.id) s =
        .next ((s.setProc p ((s.proc p).setEnts x.id more)).devWrite (.proc p) y.e.at_ (leWord (y.e.bytes.map fun z => z.2))))) ∧
  (∀ (s : State) (p : BitVec 6) (x : Slot), (s.proc p).slots.find? (fun z => z.id = x.id) = some x →
    x.ents ≠ [] → (∀ y ∈ x.ents, s.storeLate p x y = true) →
    ∃ u, exec (.storeTimeout p x.id) s = .next u ∧ (∀ z ∈ (u.proc p).slots, z.id ≠ x.id) ∧
      (u.proc p).drops = (s.proc p).drops + x.ents.length ∧ (u.proc p).drop1.isSome ∧ u.ms = s.ms ∧ u.clus = s.clus ∧
      (∀ r, (u.proc p).gR r = (s.proc p).gR r)) ∧
  (∀ (s : State) (p : BitVec 6) (b : BitVec 6), (s.proc p).backoff = some b →
    (((s.proc p).loads.find? fun l => l.kind = .llw ∧ l.asked = false) = none →
      exec (.llwBackoffExpiry p) s = .next (s.setProc p { s.proc p with backoff := none })) ∧
    (∀ l, ((s.proc p).loads.find? fun l => l.kind = .llw ∧ l.asked = false) = some l →
      exec (.llwBackoffExpiry p) s = .next ((s.setProc p { s.proc p with backoff := none }).loadAsk p l))))

/-- R82, R43, R42: BC takes the branch exactly when its condition holds of the test register; AL tests nothing. A reserved condition, or AL
with a test register, is an illegal instruction (R69). Nothing but IP changes.
R83, R84: CALL and JR write the next instruction's address to the link register and go to the target; JR's target is the value its register
held before the link was written. Another condition of CALL and a nonzero field of JR that must be zero are illegal instructions. -/
def Obligations.BranchesAndCalls : Prop :=
  (
  ∀ (s t : State) (p : BitVec 6) (f : BF), s.Ready p [.g f.test] [] t →
    let v := (t.proc p).gR f.test
    let holds : Prop := (f.cond = 0 ∧ v = 0) ∨ (f.cond = 1 ∧ v ≠ 0) ∨ (f.cond = 2 ∧ v.toInt < 0) ∨ (f.cond = 3 ∧ 0 ≤ v.toInt) ∨
      (f.cond = 4 ∧ v.toInt ≤ 0) ∨ (f.cond = 5 ∧ 0 < v.toInt) ∨ (f.cond = 6 ∧ v.getLsbD 0 = true) ∨ (f.cond = 7 ∧ v.getLsbD 0 = false) ∨ f.cond = 8
    if f.cond.toNat ≤ 8 ∧ (f.cond = 8 → f.test = 0) then
      (holds → Computed' t p (exec (.bc p f) s) 0 0 ((t.proc p).ip + 6 * f.disp.signExtend 48)) ∧
      (¬ holds → Computed' t p (exec (.bc p f) s) 0 0 ((t.proc p).ip + 6))
    else Raises t p (exec (.bc p f) s) 0x01) ∧
  (
  (∀ (s t : State) (p : BitVec 6) (f : BF), s.Ready p [] [.g f.test] t → f.cond = 8 →
    Computed' t p (exec (.call p f) s) f.test ((t.proc p).ip + 6) ((t.proc p).ip + 6 * f.disp.signExtend 48)) ∧
  (∀ (s t : State) (p : BitVec 6) (f : RRF), s.Ready p [.g f.ra] [.g f.rd] t → f.z = 0 → f.rb = 0 → f.fn = 0 →
    Computed' t p (exec (.jr p f) s) f.rd ((t.proc p).ip + 6) ((t.proc p).gR f.ra)) ∧
  (∀ (s t : State) (p : BitVec 6) (f : BF), s.Ready p [] [.g f.test] t → f.cond ≠ 8 → Raises t p (exec (.call p f) s) 0x01) ∧
  (∀ (s t : State) (p : BitVec 6) (f : RRF), s.Ready p [.g f.ra] [.g f.rd] t → f.z ≠ 0 ∨ f.rb ≠ 0 ∨ f.fn ≠ 0 → Raises t p (exec (.jr p f) s) 0x01))

/-- R98 to R100, R29, R121: the floating operations issue with the result and the flags of their arithmetic under FPSW.RM, and with the floating
trap when they signal an enabled exception; FDIV and FSQRT need the floating divider. A comparison and FCVT.I write a G register. -/
def Obligations.FloatingOperationsIssue : Prop :=
  ∀ (s t : State) (p : BitVec 6),
    let q := t.proc p
    let rm := fld q.fpsw 2 0
    let compat := (q.crGet 1).getLsbD 0
    let trap (fl : BitVec 5) : BitVec 6 := if q.fpsw.extractLsb' 8 5 &&& fl ≠ 0 then 0x09 else 0
    let st (r : Res) (dst : Reg) (x : Nat × BitVec 5) : Prop := LongStarted t p r dst (BitVec.ofNat 64 x.1) false false (trap x.2) x.2
    let free := q.longs.any (fun x => x.fdiv) = false
    (∀ f : FR, f.z = 0 → s.Ready p [.f f.ra, .f f.rb] [.f f.rd] t →
      st (exec (.fadd p f) s) (.f f.rd) (fpAdd f.p rm false (q.fR f.ra) (q.fR f.rb)) ∧
      st (exec (.fsub p f) s) (.f f.rd) (fpAdd f.p rm true (q.fR f.ra) (q.fR f.rb)) ∧
      st (exec (.fmul p f) s) (.f f.rd) (fpMul f.p rm (q.fR f.ra) (q.fR f.rb)) ∧
      (free → st (exec (.fdiv p f) s) (.f f.rd) (fpDiv f.p rm compat (q.fR f.ra) (q.fR f.rb)))) ∧
    (∀ f : FR, f.z = 0 → f.rb = 0 → s.Ready p [.f f.ra] [.f f.rd] t →
      st (exec (.fcvtP p f) s) (.f f.rd) (fpConv f.p rm (q.fR f.ra)) ∧
      (free → st (exec (.fsqrt p f) s) (.f f.rd) (fpSqrt f.p rm compat (q.fR f.ra)))) ∧
    (∀ f : FR, f.z = 0 → s.Ready p [.f f.ra, .f f.rb] [.g f.rd] t →
      st (exec (.feq p f) s) (.g f.rd) (fpCmp f.p 8 (q.fR f.ra) (q.fR f.rb)) ∧
      st (exec (.flt p f) s) (.g f.rd) (fpCmp f.p 9 (q.fR f.ra) (q.fR f.rb)) ∧
      st (exec (.fle p f) s) (.g f.rd) (fpCmp f.p 10 (q.fR f.ra) (q.fR f.rb)) ∧
      st (exec (.funord p f) s) (.g f.rd) (fpCmp f.p 11 (q.fR f.ra) (q.fR f.rb))) ∧
    (∀ f : FR, f.z = 0 → f.rb = 0 → s.Ready p [.f f.ra] [.g f.rd] t →
      st (exec (.fcvtI p f) s) (.g f.rd) ((fpToInt f.p rm (q.fR f.ra)).1.toNat, (fpToInt f.p rm (q.fR f.ra)).2)) ∧
    (∀ f : FR, f.z = 0 → f.rb = 0 → s.Ready p [.g f.ra] [.f f.rd] t →
      st (exec (.fcvtF p f) s) (.f f.rd) (fpOfInt f.p rm (q.gR f.ra))) ∧
    (∀ f : F4, f.z = 0 → f.z5 = 0 → s.Ready p [.f f.ra, .f f.rb, .f f.rc] [.f f.rd] t →
      st (exec (.fmadd p f) s) (.f f.rd) (fpFma f.p rm false false (q.fR f.ra) (q.fR f.rb) (q.fR f.rc)) ∧
      st (exec (.fmsub p f) s) (.f f.rd) (fpFma f.p rm false true (q.fR f.ra) (q.fR f.rb) (q.fR f.rc)) ∧
      st (exec (.fnmsub p f) s) (.f f.rd) (fpFma f.p rm true false (q.fR f.ra) (q.fR f.rb) (q.fR f.rc)) ∧
      st (exec (.fnmadd p f) s) (.f f.rd) (fpFma f.p rm true true (q.fR f.ra) (q.fR f.rb) (q.fR f.rc)))

/-- R98 note d, R25, R114: FNEG and FABS touch the sign bit alone, the moves move bits; none sets a flag. A binary32 result clears the upper
half.
R113, R28: rounding a number m to a multiple n of 2^k. Toward zero and the two directed modes lie on their side and less than one step away, the
two nearest modes at most half a step away with a tie to even or away from zero; the result is inexact exactly when it differs. -/
def Obligations.FloatingMovesAndRounding : Prop :=
  (
  ∀ (s t : State) (p : BitVec 6),
    let q := t.proc p
    (∀ f : FR, f.z = 0 → f.rb = 0 → s.Ready p [.f f.ra] [.f f.rd] t →
      let a := q.fR f.ra
      ComputedF t p (exec (.fneg p f) s) f.rd (if f.p then a ^^^ 0x8000000000000000 else (a.extractLsb' 0 32 ^^^ 0x80000000).setWidth 64) ∧
      ComputedF t p (exec (.fabs p f) s) f.rd (if f.p then a &&& 0x7FFFFFFFFFFFFFFF else (a.extractLsb' 0 32 &&& 0x7FFFFFFF).setWidth 64)) ∧
    (∀ f : RR, f.z = 0 → f.rb = 0 → s.Ready p [.g f.ra, .f f.rd] [.f f.rd] t →
      ComputedF t p (exec (.fmvgfLo p f) s) f.rd (((q.gR f.ra).extractLsb' 0 32).setWidth 64) ∧
      ComputedF t p (exec (.fmvgfHi p f) s) f.rd ((q.gR f.ra).extractLsb' 0 32 ++ (q.fR f.rd).extractLsb' 0 32)) ∧
    (∀ f : RR, f.z = 0 → f.rb = 0 → s.Ready p [.f f.ra] [.g f.rd] t →
      Computed t p (exec (.fmvfgLo p f) s) f.rd (((q.fR f.ra).extractLsb' 0 32).setWidth 48) false ∧
      Computed t p (exec (.fmvfgHi p f) s) f.rd (((q.fR f.ra).extractLsb' 32 32).setWidth 48) false)) ∧
  (
  ∀ (rm : Nat) (neg : Bool) (m k : Nat) (e : Int), rm ≤ 4 →
    let r := roundQ rm neg m e (e + k)
    let n := r.1
    let step := 2 ^ k
    (r.2 = true ↔ n * step ≠ m) ∧
    (rm = 1 ∨ (rm = 2 ∧ neg = true) ∨ (rm = 3 ∧ neg = false) → n * step ≤ m ∧ m < (n + 1) * step) ∧
    ((rm = 2 ∧ neg = false) ∨ (rm = 3 ∧ neg = true) → m ≤ n * step ∧ n * step < m + step) ∧
    (rm = 0 ∨ rm = 4 → 2 * m ≤ 2 * n * step + step ∧ 2 * n * step ≤ 2 * m + step) ∧
    (rm = 0 → 2 * m = 2 * n * step + step ∨ 2 * n * step = 2 * m + step → n % 2 = 0) ∧
    (rm = 4 → 2 * m ≠ 2 * n * step + step))

/-- R94, R95, R161 to R165: a barrier behind which nothing waits completes at once; a store barrier places its marker behind the stores of the buffer and
completes; a full barrier behind a store that has not departed holds the issue stage. Scope 3 is reserved (R69).
R162, R164, R168: a waiting barrier completes when its wait is over; with a dropped store that it covers it raises the barrier fault (0x0A) with the count of the
drops, which returns to zero when that fault is taken. -/
def Obligations.Barriers : Prop :=
  (
  ∀ (s t : State) (p : BitVec 6) (f : BarF), s.Ready p [] [] t → f.rd = 0 → f.ra = 0 → f.rb = 0 → f.fnHi = 0 → f.z = 0 →
    (f.sc = 3 → Raises t p (exec (.bar p f) s) 0x01 ∧ Raises t p (exec (.pbar p f) s) 0x01) ∧
    (f.sc ≠ 3 → f.store = false → (t.proc p).comb = [] → (t.proc p).sb = [] → (t.proc p).slots = [] → (t.proc p).loads = [] → (t.proc p).cmos = 0 →
      (t.proc p).unclosed = [] → (t.proc p).drops = 0 → (t.proc p).bar = none →
      Computed' t p (exec (.bar p f) s) 0 0 ((t.proc p).ip + 6) ∧ Computed' t p (exec (.pbar p f) s) 0 0 ((t.proc p).ip + 6)) ∧
    (f.sc ≠ 3 → f.store = true → (t.proc p).comb = [] → (t.proc p).entries.length ≤ 16 → (f.sc = 2 → (t.proc p).cmos = 0) →
      ∃ u, exec (.bar p f) s = .next u ∧ OnlyProc t u p ∧ (u.proc p).sb = (t.proc p).sb ++ [.marker f.sc (t.proc p).sn] ∧
        (u.proc p).ip = (t.proc p).ip + 6 ∧ (u.proc p).bar = none ∧ RegsKept (t.proc p) (u.proc p) []) ∧
    (f.sc ≠ 3 → f.store = true → (t.proc p).comb = [] → (t.proc p).sb = [] → (t.proc p).slots = [] → (t.proc p).cmos = 0 → (t.proc p).unclosed = [] →
      (t.proc p).drops = 0 →
      ∃ u, exec (.pbar p f) s = .next u ∧ OnlyProc t u p ∧ (u.proc p).sb = [.marker f.sc (t.proc p).sn] ∧
        (u.proc p).ip = (t.proc p).ip + 6 ∧ (u.proc p).bar = none ∧ RegsKept (t.proc p) (u.proc p) []) ∧
    (∀ e, f.sc ≠ 3 → f.store = false → (t.proc p).comb = [] → (t.proc p).sb = [.entry e] → e.sn < (t.proc p).sn →
      ∃ u, exec (.bar p f) s = .next u ∧ OnlyProc t u p ∧ (u.proc p).bar = some ⟨false, false, f.sc, (t.proc p).sn⟩ ∧
        (u.proc p).ip = (t.proc p).ip ∧ (u.proc p).sb = (t.proc p).sb ∧ u.able p = false)) ∧
  (
  ∀ (s : State) (p : BitVec 6) (b : BarWait), (s.proc p).bar = some b → s.barDone p b = true →
    ((s.proc p).drops = 0 → ∃ u, exec (.barrierComplete p) s = .next u ∧ OnlyProc s u p ∧ (u.proc p).bar = none ∧
      (u.proc p).ip = (s.proc p).ip + 6 ∧ RegsKept (s.proc p) (u.proc p) []) ∧
    (∀ d, (s.proc p).drops ≠ 0 → (s.proc p).drop1 = some d → b.store = false → b.sc ≠ 0 →
      ∃ u x, exec (.barrierComplete p) s = .next u ∧ OnlyProc s u p ∧ (u.proc p).bar = none ∧ (u.proc p).fault = some x ∧ x.code = 0x0A ∧
        x.info = BitVec.ofNat 16 (min (s.proc p).drops 0xFFFF) ∧ x.seg = d.seg ∧ x.acc = d.acc ∧ x.addr = 0 ∧ x.paddr = d.paddr ∧
        (u.proc p).drops = (s.proc p).drops ∧ (u.proc p).ip = (s.proc p).ip) ∧
    ((s.proc p).drops ≠ 0 → b.store = false → b.pbar = false → b.sc = 0 →
      ∃ u, exec (.barrierComplete p) s = .next u ∧ (u.proc p).fault = (s.proc p).fault ∧ (u.proc p).drops = (s.proc p).drops ∧
        (u.proc p).ip = (s.proc p).ip + 6))

/-- R101, R104: BMOVE, BFILL, BCMP, BSCAN and CKSUM complete their issue: the routine stands at its first marked boundary, names its segments and
changes no register and no byte yet; a field that must be zero makes the word illegal (R69).
R102, R103, R104, R105: MICRO_ROUTINE_STEP. With G3 = 0 a routine makes no access and completes, BCMP with G4 = 0. Otherwise a step takes the bytes up to
the end of a line: BFILL puts its bytes into the store buffer as one ordinary store; BMOVE those it reads; CKSUM folds them into G4; BSCAN and BCMP stop at the
byte they look for, with the index reached and, for BCMP, the order of the differing bytes in G4. Offsets advance and G3 falls by the bytes that are done; the routine
completes at G3 = 0 and stands at a marked boundary otherwise. A first byte whose check fails ends it with that exception, marked MR. -/
def Obligations.MicroRoutines : Prop :=
  (
  ∀ (s t : State) (p : BitVec 6) (f : RR) (fn : BitVec 3) (c : BitVec 6 → RR → Instr) (useA useB : Bool),
    (c, fn, useA, useB) ∈ [(Instr.bmove, 0, true, true), (.bfill, 1, true, false), (.bcmp, 2, true, true), (.bscan, 3, false, true),
      (.cksum, 4, false, true)] →
    s.Ready p [.g 1, .g 2, .g 3, .g 4] [.g 1, .g 2, .g 3, .g 4] t →
    (f.z = 0 → f.rb = 0 → f.rd.getLsbD 4 = false → f.ra.getLsbD 4 = false → (useA = false → f.rd = 0) → (useB = false → f.ra = 0) →
      exec (c p f) s = .next (t.modProc p fun q => { q with routine := some { fn := fn, a := f.rd.setWidth 4, b := f.ra.setWidth 4, started := false } })) ∧
    (f.rb ≠ 0 ∨ (useA = false ∧ f.rd ≠ 0) ∨ (useB = false ∧ f.ra ≠ 0) → Raises t p (exec (c p f) s) 0x01)) ∧
  (
  ∀ (s : State) (p : BitVec 6) (r : Routine) (ext : List Byte) (pois : Bool), StepReady s p r →
    let q := s.proc p
    let n := s.routineLen p r
    let g3 := q.gR 3 - BitVec.ofNat 48 n
    -- every byte of a step can be accessed in one segment, the first one at `a`
    let clear (isA : Bool) (kind : AccKind) (a : Acc) : Prop := s.routineAccess p r isA kind 0 = .ok a ∧
      ∀ i, i < n → ∃ x, s.routineAccess p r isA kind i = .ok x
    -- the cluster holds the line of `a`, not poisoned, and what a step reads there
    let held (a : Acc) (bs : List Byte) : Prop := ∃ l c, s.cacheLine a = some l ∧ SoundLine s (cluOf p) l c ∧ c.st.readable = true ∧ c.pois = false ∧
      c.data.length = 96 ∧ bs = (c.data.drop (a.addr % 96)).take n
    -- the processor after a step that goes on or ends at G3 = 0
    let after (u : State) : Prop := OnlyProc s u p ∧ (u.proc p).gR 3 = g3 ∧
      (if g3 = 0 then (u.proc p).ip = q.ip + 6 ∧ (u.proc p).routine = none else (u.proc p).ip = q.ip ∧ (u.proc p).routine = some { r with started := true, far := [] })
    -- the processor after a step that ends at byte j
    let stops (u : State) (j : Nat) : Prop := OnlyProc s u p ∧ (u.proc p).gR 3 = q.gR 3 - BitVec.ofNat 48 j ∧ (u.proc p).ip = q.ip + 6 ∧
      (u.proc p).routine = none ∧ (u.proc p).sb = q.sb
    (q.gR 3 = 0 →
      ∃ u, exec (.microRoutineStep p ext pois) s = .next u ∧ OnlyProc s u p ∧ (u.proc p).routine = none ∧ (u.proc p).ip = q.ip + 6 ∧
        (u.proc p).sb = q.sb ∧ (r.fn = 2 → (u.proc p).gR 4 = 0) ∧ RegsKept q (u.proc p) (if r.fn = 2 then [.g 4] else [])) ∧
    (q.gR 3 ≠ 0 → q.comb = [] → q.ownStores = [] →
      (∀ d, r.fn = 1 → s.routineAccess p r true .mrWrite 0 = .error d →
        ∃ u, exec (.microRoutineStep p ext pois) s = .next u ∧ OnlyProc s u p ∧ (u.proc p).fault = some { d with mr := true } ∧
          (u.proc p).routine = none ∧ (u.proc p).sb = q.sb ∧ (u.proc p).g = q.g ∧ (u.proc p).ip = q.ip) ∧
      (∀ a, r.fn = 1 → clear true .mrWrite a → q.sbRoom 1 = true →
        ∃ u e, exec (.microRoutineStep p ext pois) s = .next u ∧ after u ∧ 0 < n ∧ n ≤ 96 ∧
          (u.proc p).sb = q.sb ++ [.entry e] ∧ e.bytes = cellsAt a.addr (List.replicate n ((q.gR 4).setWidth 8)) ∧ e.space = a.space ∧
          (u.proc p).gR 1 = q.gR 1 + BitVec.ofNat 48 n ∧ RegsKept q (u.proc p) [.g 1, .g 3]) ∧
      (∀ a b ys, r.fn = 0 → clear true .mrWrite a → clear false .mrRead b → held b ys → q.sbRoom 1 = true →
        ∃ u e, exec (.microRoutineStep p ext pois) s = .next u ∧ after u ∧
          (u.proc p).sb = q.sb ++ [.entry e] ∧ e.bytes = moveBytes (decide (a.space = b.space ∧ a.node = b.node)) b.addr a.addr ys 0 [] ∧ e.space = a.space ∧
          (u.proc p).gR 1 = q.gR 1 + BitVec.ofNat 48 n ∧ (u.proc p).gR 2 = q.gR 2 + BitVec.ofNat 48 n ∧ RegsKept q (u.proc p) [.g 1, .g 2, .g 3]) ∧
      (∀ a b xs ys, r.fn = 2 → clear true .mrRead a → clear false .mrRead b → held a xs → held b ys →
        (xs = ys → ∃ u, exec (.microRoutineStep p ext pois) s = .next u ∧ after u ∧ (u.proc p).sb = q.sb ∧
          (u.proc p).gR 4 = (if g3 = 0 then 0 else q.gR 4) ∧ (u.proc p).gR 1 = q.gR 1 + BitVec.ofNat 48 n ∧ (u.proc p).gR 2 = q.gR 2 + BitVec.ofNat 48 n) ∧
        (∀ j x y, (∀ i, i < j → xs[i]? = ys[i]?) → xs[j]? = some x → ys[j]? = some y → x ≠ y →
          ∃ u, exec (.microRoutineStep p ext pois) s = .next u ∧ stops u j ∧ (u.proc p).gR 4 = (if y.toNat < x.toNat then 1 else BitVec.allOnes 48) ∧
            (u.proc p).gR 1 = q.gR 1 + BitVec.ofNat 48 j ∧ (u.proc p).gR 2 = q.gR 2 + BitVec.ofNat 48 j)) ∧
      (∀ b ys, r.fn = 3 → clear false .mrRead b → held b ys →
        ((q.gR 4).setWidth 8 ∉ ys → ∃ u, exec (.microRoutineStep p ext pois) s = .next u ∧ after u ∧ (u.proc p).sb = q.sb ∧
          (u.proc p).gR 2 = q.gR 2 + BitVec.ofNat 48 n ∧ RegsKept q (u.proc p) [.g 2, .g 3]) ∧
        (∀ j, ys[j]? = some ((q.gR 4).setWidth 8) → (∀ i, i < j → ys[i]? ≠ some ((q.gR 4).setWidth 8)) →
          ∃ u, exec (.microRoutineStep p ext pois) s = .next u ∧ stops u j ∧ (u.proc p).gR 2 = q.gR 2 + BitVec.ofNat 48 j ∧
            RegsKept q (u.proc p) [.g 2, .g 3])) ∧
      (∀ b ys, r.fn = 4 → clear false .mrRead b → held b ys →
        ∃ u, exec (.microRoutineStep p ext pois) s = .next u ∧ after u ∧ (u.proc p).sb = q.sb ∧
          (u.proc p).gR 2 = q.gR 2 + BitVec.ofNat 48 n ∧ (u.proc p).gR 4 = (crcRun ((q.gR 4).setWidth 32) ys).setWidth 48 ∧
          RegsKept q (u.proc p) [.g 2, .g 3, .g 4]))) ∧
  (∀ (src dst : Nat) (bs : List Byte), moveBytes false src dst bs 0 [] = cellsAt dst bs) ∧
  (∀ (src : Nat) (b : Byte) (bs : List Byte), moveBytes true src (src + 1) (b :: bs) 0 [] = cellsAt (src + 1) (List.replicate (bs.length + 1) b))

/-- R55, R46, R106, R108, R131: SEGLD, RFE, HALT, WAIT, MFCR and MTCR at user level raise the privilege exception (0x02) and do nothing else.
R30, R35, R106, R10: MFCR writes what the control register reads to rd; a read of IACK (33) is the only one that changes anything else. MTCR writes the fields of a plain
control register as their access codes say and changes no other one; what else is shown of interrupts is as `State.seenFall` leaves it (R145); on the
registers that act it does what a write of theirs does. -/
def Obligations.PrivilegeAndControlRegisters : Prop :=
  (
  ∀ (s t : State) (p : BitVec 6), (t.proc p).user = true →
    (∀ f : RI, s.Ready p [] [] t → (f.rd.getLsbD 4 = false → Raises t p (exec (.segld p f) s) 0x02) ∧
      (f.ra = 0 → f.imm.toNat < 512 → Raises t p (exec (.mfcr p f) s) 0x02) ∧
      (f.rd = 0 → f.imm.toNat < 512 → Raises t p (exec (.mtcr p f) s) 0x02)) ∧
    (∀ f : RR, s.Ready p [] [] t → f.z = 0 → f.rd = 0 → f.ra = 0 → f.rb = 0 →
      Raises t p (exec (.rfe p f) s) 0x02 ∧ Raises t p (exec (.halt p f) s) 0x02 ∧ Raises t p (exec (.wait p f) s) 0x02)) ∧
  (
  ∀ (s t : State) (p : BitVec 6) (f : RI), f.imm.toNat < 512 → (t.proc p).user = false →
    let c := f.imm.toNat
    (f.ra = 0 → s.Ready p [] [.g f.rd] t →
      Computed (t.crRead p c).2 p (exec (.mfcr p f) s) f.rd (t.crRead p c).1 false ∧ (c ≠ 33 → (t.crRead p c).2 = t) ∧
      (c ∉ [0, 33, 34, 67, 68, 97, 98] → (t.crRead p c).1 = (t.proc p).crGet c)) ∧
    (∀ d, f.rd = 0 → s.Ready p [.g f.ra] [] t → crReg c = some d → c ∉ [64, 68, 96, 98] →
      ∃ u : State, exec (.mtcr p f) s = .next u.seenFall ∧ OnlyProc t u p ∧
        (u.proc p).crGet c = writeFlds false ((t.proc p).crGet c) ((t.proc p).gR f.ra) d.flds ∧
        (∀ n, n ≠ c → (u.proc p).crGet n = (t.proc p).crGet n) ∧ (u.proc p).ip = (t.proc p).ip + 6 ∧ (u.proc p).psw = (t.proc p).psw ∧
        RegsKept (t.proc p) (u.proc p) []) ∧
    (f.rd = 0 → s.Ready p [.g f.ra] [] t →
      let v := (t.proc p).gR f.ra
      let u := t.simple p id
      (c = 64 → exec (.mtcr p f) s = .next (if v.getLsbD 0 then u.rsnapWrite p else u)) ∧
      (c = 68 → exec (.mtcr p f) s = .next (u.chkinjWrite p (v.extractLsb' 0 3))) ∧
      (c = 96 → exec (.mtcr p f) s = .next ((u.dstWrite (.proc p) p (fld v 3 2)).istWrite p (fld v 1 0))) ∧
      (c = 98 → exec (.mtcr p f) s = .next (u.l1invWrite p v)) ∧
      (crReg c = none → c ∉ [64, 68, 96, 98] → exec (.mtcr p f) s = .next u)))

/-- R45, R46: SEGLD of an index within the table loads the four words and the index of a descriptor that passes its checks into the segment register, and nothing
else changes; an index at or above the limit or a descriptor outside the window is a bounds exception, a table base that is no multiple of 24 an
alignment exception, a poisoned descriptor poison consumed.
R97, R27, R121, R107: SEGIX, RDPSW, RDFPSW and RDTIME write their value to rd; RDPSW waits for every earlier multiply and divide that R112 names, RDFPSW for every earlier
floating instruction. WRPSW writes PSW within its privilege, WRFPSW writes FPSW and keeps RM on a reserved mode. -/
def Obligations.SegmentsAndStatus : Prop :=
  (
  ∀ (s t : State) (p : BitVec 6) (f : RI), s.Ready p [.g f.ra] [] t → (t.proc p).user = false → f.rd.getLsbD 4 = false →
    let q := t.proc p
    let i := q.gR f.ra + f.imm.signExtend 48
    let a := (q.crGet 2).toNat + 24 * i.toNat
    (fld (q.crGet 3) 23 0 ≤ i.toNat → Raises t p (exec (.segld p f) s) 0x03) ∧
    (i.toNat < fld (q.crGet 3) 23 0 → (q.crGet 2).toNat % 24 ≠ 0 → Raises t p (exec (.segld p f) s) 0x06) ∧
    (i.toNat < fld (q.crGet 3) 23 0 → (q.crGet 2).toNat % 24 = 0 → t.inWindow p a 24 = false → Raises t p (exec (.segld p f) s) 0x03) ∧
    (∀ bs, i.toNat < fld (q.crGet 3) 23 0 → (q.crGet 2).toNat % 24 = 0 → t.inWindow p a 24 = true → t.ownRead p a 24 = (some (bs, true), t) →
      Raises t p (exec (.segld p f) s) 0x0B) ∧
    (∀ bs, i.toNat < fld (q.crGet 3) 23 0 → (q.crGet 2).toNat % 24 = 0 → t.inWindow p a 24 = true → t.ownRead p a 24 = (some (bs, false), t) →
      let d : Seg := ⟨lineWord bs 0, lineWord bs 1, lineWord bs 2, lineWord bs 3, i.setWidth 24⟩
      (d.present = true → descCheck d.w0 d.w1 d.w2 = none) →
      ∃ u, exec (.segld p f) s = .next u ∧ OnlyProc t u p ∧ (u.proc p).seg (f.rd.toNat % 16) = d ∧
        (∀ n, n ≠ f.rd.toNat % 16 → (u.proc p).seg n = q.seg n) ∧ (u.proc p).ip = q.ip + 6 ∧ (u.proc p).psw = q.psw ∧ RegsKept q (u.proc p) [])) ∧
  (
  ∀ (s t : State) (p : BitVec 6),
    let q := t.proc p
    (∀ f : RRF, f.z = 0 → f.rb = 0 → f.fn = 0 → f.ra.getLsbD 4 = false → s.Ready p [] [.g f.rd] t →
      let d := q.seg (f.ra.toNat % 16)
      Computed t p (exec (.segix p f) s) f.rd (BitVec.ofNat 48 ((if d.w2.getLsbD 21 then 2 ^ 24 else 0) + d.index.toNat)) false) ∧
    (∀ f : RR, f.z = 0 → f.ra = 0 → f.rb = 0 → s.Ready p [] [.g f.rd] t →
      (q.longs.any (fun x => x.psw) = false → Computed t p (exec (.rdpsw p f) s) f.rd q.psw false) ∧
      (q.longs.any (fun x => x.psw) = true → exec (.rdpsw p f) s = .next t) ∧
      (q.longs.any (fun x => x.fp) = false → Computed t p (exec (.rdfpsw p f) s) f.rd q.fpsw false) ∧
      (q.longs.any (fun x => x.fp) = true → exec (.rdfpsw p f) s = .next t) ∧
      Computed t p (exec (.rdtime p f) s) f.rd t.tb false) ∧
    (∀ f : RR, f.z = 0 → f.rd = 0 → f.rb = 0 → s.Ready p [.g f.ra] [] t →
      let v := q.gR f.ra
      (q.longs.any (fun x => x.psw) = false → ∃ u, exec (.wrpsw p f) s = .next u ∧ OnlyProc t u p ∧ (u.proc p).ip = q.ip + 6 ∧
        (u.proc p).psw = (if q.user then (q.psw &&& 0x07) ||| (v &&& 0x78) else v &&& 0x7F) ∧ (u.proc p).fpsw = q.fpsw ∧
        RegsKept q (u.proc p) [] ∧ ProcKept q (u.proc p)) ∧
      (q.longs.any (fun x => x.fp) = false → ∃ u, exec (.wrfpsw p f) s = .next u ∧ OnlyProc t u p ∧ (u.proc p).ip = q.ip + 6 ∧
        (u.proc p).fpsw = (if 4 < (v &&& 7).toNat then (v &&& 0x3FFF8) ||| (q.fpsw &&& 7) else v &&& 0x3FFFF) ∧ (u.proc p).psw = q.psw ∧
        RegsKept q (u.proc p) [] ∧ ProcKept q (u.proc p))))

/-- R106, R108, R130, R131: RFE restores PSW, S15 and IP from the saved state and clears ACT; HALT and WAIT stop the processor behind and at the instruction; a
WAIT with IE clear ends, and IP goes behind it, when an interrupt is pending; SVC and BRK make
their exception due with the next instruction as XIP and the code in INFO. -/
def Obligations.SystemInstructions : Prop :=
  ∀ (s t : State) (p : BitVec 6),
    let q := t.proc p
    (∀ f : RR, f.z = 0 → f.rd = 0 → f.ra = 0 → f.rb = 0 → s.Ready p [] [] t → q.user = false →
      (∃ u, exec (.rfe p f) s = .next u ∧ OnlyProc t u p ∧ (u.proc p).ip = q.crGet 16 ∧ (u.proc p).psw = q.crGet 17 &&& 0x7F ∧
        (u.proc p).act = false ∧ (u.proc p).resv = none ∧
        ((u.proc p).seg 15).w0 = q.crGet 21 ∧ ((u.proc p).seg 15).w1 = q.crGet 22 ∧
        ((u.proc p).seg 15).present = (q.crGet 24).getLsbD 24 ∧ ((u.proc p).seg 15).index = (q.crGet 24).extractLsb' 0 24 ∧
        (∀ n, n ≠ 15 → (u.proc p).seg n = q.seg n) ∧ (∀ c, c ≠ 25 → (u.proc p).crGet c = q.crGet c) ∧ (u.proc p).fpsw = q.fpsw ∧
        RegsKept q (u.proc p) []) ∧
      (q.comb = [] → q.entries.length ≤ 16 →
        (∃ u, exec (.halt p f) s = .next u ∧ OnlyProc t u p ∧ (u.proc p).run = .halted ∧ (u.proc p).ip = q.ip + 6 ∧ (u.proc p).sb = q.sb ∧
          RegsKept q (u.proc p) []) ∧
        (∃ u, exec (.wait p f) s = .next u ∧ OnlyProc t u p ∧ (u.proc p).run = .waiting ∧ (u.proc p).ip = q.ip ∧ (u.proc p).sb = q.sb ∧
          (u.proc p).g = q.g))) ∧
    (∀ w : BitVec 48, StepsOut s p → (s.proc p).run = .waiting → (s.proc p).ie = false → (s.proc p).ss = false → (s.proc p).loads = [] → (s.proc p).longs = [] →
      s.timNow p = true →
      ∃ u, exec (.exceptionEntry p w) s = .next u ∧ OnlyProc s u p ∧ (u.proc p).run = .running ∧ (u.proc p).ip = (s.proc p).ip + 6 ∧
        (u.proc p).psw = (s.proc p).psw ∧ (u.proc p).g = (s.proc p).g ∧ (u.proc p).fault = none ∧ (u.proc p).timPend = (s.proc p).timPend) ∧
    (∀ f : RI, f.rd = 0 → f.ra = 0 → s.Ready p [] [] t →
      (f.imm.toNat < 2 ^ 16 →
        (∃ d, exec (.svc p f) s = .next (t.setFault p d) ∧ d.code = 0x11 ∧ d.xip = q.ip + 6 ∧ d.info = f.imm.setWidth 16) ∧
        (∃ d, exec (.brk p f) s = .next (t.setFault p d) ∧ d.code = 0x10 ∧ d.xip = q.ip + 6 ∧ d.info = f.imm.setWidth 16)) ∧
      (2 ^ 16 ≤ f.imm.toNat → Raises t p (exec (.svc p f) s) 0x01 ∧ Raises t p (exec (.brk p f) s) 0x01))

/-- R128, R133, R127, R134, R168: EXCEPTION_ENTRY takes the highest-ranked exception that is due, with ACT clear or for an interrupt. The saved registers take IP, PSW, cause,
address and S15; USER, IE and SS clear; the reservation goes; the vector entry gives IP and S15; ACT is 1; a barrier fault has told the drops. Every general register, FPSW and every
other segment and control register stands as before. With nothing due an illegal word raises 0x01 so (R41). -/
def Obligations.ExceptionEntrySavesAndVectors : Prop :=
  ∀ (s : State) (p : BitVec 6) (w : BitVec 48) (d : Due) (bs : List Byte),
    let q := s.proc p
    let a := (q.crGet 26).toNat + 48 * d.code.toNat
    let sg : Seg := ⟨lineWord bs 0, lineWord bs 1, lineWord bs 2, lineWord bs 3, (lineWord bs 5).extractLsb' 0 24⟩
    s.phase = .run → s.hasProc p = true → q.run = .running → q.paused = none → q.relock = none → q.stopReq = none → q.longs = [] → q.loads = [] →
    q.comb = [] → q.act = false ∨ d.kind = 2 →
    (s.chosen p = some d ∨ (s.chosen p = none ∧ legalWord w = false ∧ s.able p = true ∧ s.afterFetch p = some s ∧ d = q.plainDue 0x01)) → s.inWindow p a 48 = true →
    (s.setProc p q).ownRead p a 48 = (some (bs, false), s.setProc p q) →
    sg.present = true → sg.space = 0 → sg.w2.getLsbD 19 = true → descCheck sg.w0 sg.w1 sg.w2 = none →
    ∃ u, exec (.exceptionEntry p w) s = .next u ∧ OnlyProc s u p ∧
      (u.proc p).ip = lineWord bs 4 ∧ (u.proc p).seg 15 = sg ∧ (u.proc p).psw = q.psw &&& ~~~7#48 ∧ (u.proc p).act = true ∧
      (u.proc p).crGet 16 = d.xip ∧ (u.proc p).crGet 17 = q.psw &&& 0x7F ∧ (u.proc p).crGet 18 = d.cause ∧ (u.proc p).crGet 19 = d.addr ∧
      (u.proc p).crGet 20 = d.paddr ∧ (u.proc p).crGet 21 = (q.seg 15).w0 ∧ (u.proc p).crGet 22 = (q.seg 15).w1 ∧ (u.proc p).crGet 23 = (q.seg 15).w2 ∧
      (u.proc p).crGet 24 = BitVec.ofNat 48 ((if (q.seg 15).present then 2 ^ 24 else 0) + (q.seg 15).index.toNat) ∧
      (u.proc p).resv = none ∧ (u.proc p).run = .running ∧ (d.kind ≠ 1 → (u.proc p).fault = none) ∧ (u.proc p).trap = none ∧ (u.proc p).g = q.g ∧ (u.proc p).f = q.f ∧
      (u.proc p).drops = (if d.code = 0x0A then 0 else q.drops) ∧
      (u.proc p).fpsw = q.fpsw ∧ (u.proc p).sb = q.sb ∧ (∀ n, n ≠ 15 → (u.proc p).seg n = q.seg n) ∧
      (∀ c, c ∉ [16, 17, 18, 19, 20, 21, 22, 23, 24, 25] → (u.proc p).crGet c = q.crGet c)

/-- R135: the ranks of what may be due at a boundary outside a load's shadow: machine check, resume, a completion trap, single step, mailbox, timer and external
interrupt while IE is 1, and last the fault of the next instruction.
R134, R129: an exception, not an interrupt, that is to be taken while ACT is 1, or whose vector entry lies outside the instance window, stops the processor as
CONTAINED; its registers and saved state stand as they were. -/
def Obligations.ExceptionOrderAndDoubleFault : Prop :=
  (
  ∀ (s : State) (p : BitVec 6),
    let q := s.proc p
    let code := (s.chosen p).map fun d => d.code
    let res := q.resume.isSome = true ∧ q.act = false
    let open_ := q.ie = true ∧ q.interruptible = true
    (∀ d, q.mcheck = some d → code = some d.code) ∧
    (q.mcheck = none → res → code = some 0x12) ∧
    (q.mcheck = none → ¬ res → ∀ d, q.trap = some d → code = some d.code) ∧
    (q.mcheck = none → ¬ res → q.trap = none → q.inShadow = false →
      (q.stepDue = true → code = some 0x10) ∧
      (q.stepDue = false →
        (open_ → s.mbxNow p = true → code = some 0x0D) ∧
        (open_ → s.mbxNow p = false → s.timNow p = true → code = some 0x0E) ∧
        (open_ → s.mbxNow p = false → s.timNow p = false → s.extNow p = true → code = some 0x0F) ∧
        (open_ → s.mbxNow p = false → s.timNow p = false → s.extNow p = false → code = q.fault.map fun d => d.code) ∧
        (q.ie = false → code = q.fault.map fun d => d.code)))) ∧
  (
  ∀ (s : State) (p : BitVec 6) (w : BitVec 48) (d : Due),
    let q := s.proc p
    s.phase = .run → s.hasProc p = true → q.run = .running → q.paused = none → q.relock = none → q.stopReq = none → q.longs = [] → s.chosen p = some d →
    (q.act = true → d.kind ≠ 2 →
      ∃ u, exec (.exceptionEntry p w) s = .next u ∧ (u.proc p).run = .contained ∧ (u.proc p).ip = q.ip ∧ (u.proc p).psw = q.psw ∧
        (u.proc p).g = q.g ∧ (u.proc p).cr = q.cr ∧ u.ms = s.ms) ∧
    (q.act = false → q.loads = [] → q.comb = [] → s.inWindow p ((q.crGet 26).toNat + 48 * d.code.toNat) 48 = false →
      ∃ u, exec (.exceptionEntry p w) s = .next u ∧ (u.proc p).run = .contained ∧ (u.proc p).g = q.g ∧ u.ms = s.ms))

/-- R138, R139, R142: an event on a block's routing register with EN set, and a write of CLU_IPI, set PEND of the cluster line they name, and change no other
line; with EN clear nothing happens.
R140, R141, R143: a read of IACK claims the line that is presented: it answers 64 plus its number and clears its PEND; with none it answers 0 and changes nothing. The
timer's PEND sets when the time base has reached TCMP while EN is 1. -/
def Obligations.InterruptsClaimAndTimer : Prop :=
  (
  (∀ (s : State) (src : IntSrc) (r k j : Nat) (c : BitVec 3) (i : BitVec 9),
    (src, r, k, j) ∈ [(IntSrc.tun, aTun 0x50, fld (s.rg (aTun 0x50)) 9 7, fld (s.rg (aTun 0x50)) 5 0),
      (.cxl, aCxl 0x20, fld (s.rg (aCxl 0x20)) 9 7, fld (s.rg (aCxl 0x20)) 5 0),
      (.elc, aElc 0x50, fld (s.rg (aElc 0x50)) 9 7, fld (s.rg (aElc 0x50)) 5 0),
      (.cob, aCob 0x80, fld (s.rg (aCob 0x80)) 9 7, fld (s.rg (aCob 0x80)) 5 0),
      (.mbg, aMbg 0x40, fld (s.rg (aMbg 0x40)) 9 7, fld (s.rg (aMbg 0x40)) 5 0),
      (.flt, aBrs 0x818, fld (s.rg (aBrs 0x818)) 9 7, fld (s.rg (aBrs 0x818)) 5 0),
      (.pew, aPew 8, fld (s.rg (aPew 8)) 9 7, fld (s.rg (aPew 8)) 5 0),
      (.chq i, aChq (0x1038 + 64 * i.toNat), fld (s.rg (aChq (0x1038 + 64 * i.toNat))) 9 7, fld (s.rg (aChq (0x1038 + 64 * i.toNat))) 5 0),
      (.cc c, aCc c.toNat 0x40, c.toNat, fld (s.rg (aCc c.toNat 0x40)) 5 0),
      (.sp c, aClu c.toNat 0x428, c.toNat, fld (s.rg (aClu c.toNat 0x428)) 5 0)] →
    ((s.rg r).getLsbD 6 = false → exec (.interruptLineEvent src) s = .next s) ∧
    ((s.rg r).getLsbD 6 = true → s.hasClu k = true → j < 48 →
      ∃ u, exec (.interruptLineEvent src) s = .next u ∧ u = { s with dev := u.dev } ∧ (u.iline k j).getLsbD 15 = true ∧
        (∀ a, a ≠ aClu k (0x100 + 8 * j) → ∀ d, u.rg a d = s.rg a d))) ∧
  (∀ (s : State) (a : Via) (k : BitVec 3) (i : Nat), s.viaReach a (aClu k.toNat 0x300) = true → s.hasClu k.toNat = true → i < 8 →
    ∃ u, exec (.cluIpi a k (BitVec.ofNat 48 (2 ^ i))) s = .next u ∧ u = { s with dev := u.dev } ∧ (u.iline k.toNat (40 + i)).getLsbD 15 = true ∧
      (∀ b, b ≠ aClu k.toNat (0x100 + 8 * (40 + i)) → ∀ d, u.rg b d = s.rg b d))) ∧
  (
  (∀ (s : State) (p : BitVec 6) (j : Nat), s.presented p = some j →
    ∃ u : State, exec (.iack p) s = .next (u.seenFall.out (.value 0x21 (BitVec.ofNat 48 (64 + j)).toNat)) ∧ u = { s with dev := u.dev } ∧
      (u.iline (cluOf p) j).getLsbD 15 = false ∧ (∀ a, a ≠ aClu (cluOf p) (0x100 + 8 * j) → ∀ d, u.rg a d = s.rg a d)) ∧
  (∀ (s : State) (p : BitVec 6), s.presented p = none → exec (.iack p) s = .next { s with outbox := .value 0x21 0 :: s.outbox }) ∧
  (∀ (s : State) (p : BitVec 6), s.phase = .run → s.hasProc p = true → ((s.proc p).crGet 41).getLsbD 0 = true →
    (s.tb - (s.proc p).crGet 40).getLsbD 47 = false →
    ∃ u, exec (.timerCompareReached p) s = .next u ∧ OnlyProc s u p ∧ (u.proc p).timPend = true ∧
      (∀ c, c ≠ 41 → (u.proc p).crGet c = (s.proc p).crGet c) ∧ (u.proc p).ip = (s.proc p).ip ∧ (u.proc p).g = (s.proc p).g))

/-- R283: at the agreement exchange of a pair what is pending reaches both cores at one retirement count.
R149, R150, R294: a detected transient below the limits is retried: the counts rise, the reservation goes, and the processor's state is what it was, so that the
instruction is done again. Past the limit a checked pair pauses for its self-test; a split core without a spare raises the machine check (0x0C). A
mismatch counts for a checked pair only. -/
def Obligations.CheckingAndRetry : Prop :=
  (
  ∀ (s : State) (p : BitVec 6), s.checked (cluOf p) = true → s.hasProc p = true → NoInjection s →
    ∃ u, exec (.agreementExchangeDelivery p) s = .next u ∧ OnlyProc s u p ∧
      (u.proc p).extSeen = (s.presented p).isSome ∧ (u.proc p).timSeen = ((s.proc p).crGet 41).getLsbD 1 ∧ (u.proc p).mbxSeen = s.mboxDue p ∧
      (u.proc p).ip = (s.proc p).ip ∧ (u.proc p).g = (s.proc p).g ∧ (u.proc p).psw = (s.proc p).psw) ∧
  (
  ∀ (s : State) (p : BitVec 6) (kind : BitVec 4),
    let q := s.proc p
    s.phase = .run → s.hasProc p = true → q.run = .running → q.paused = none →
    (q.tries < 3 →
      ∃ u, exec (.detectedTransient p 1) s = .next u ∧ OnlyProc s u p ∧ (u.proc p).tries = q.tries + 1 ∧ (u.proc p).par = satAdd 16 q.par 1 ∧
        (u.proc p).mism = satAdd 16 q.mism 0 ∧ (u.proc p).resv = none ∧ (u.proc p).ip = q.ip ∧ (u.proc p).g = q.g ∧ (u.proc p).f = q.f ∧
        (u.proc p).psw = q.psw ∧ (u.proc p).sb = q.sb ∧ (u.proc p).run = q.run) ∧
    (2 ≤ kind.toNat → kind.toNat ≤ 7 → s.pairChecked p = true → q.tries < 3 → q.triesMism = 0 →
      ∃ u, exec (.comparatorMismatch p kind) s = .next u ∧ OnlyProc s u p ∧ (u.proc p).tries = q.tries + 1 ∧ (u.proc p).triesMism = 1 ∧
        (u.proc p).mism = satAdd 16 q.mism 1 ∧ (u.proc p).resv = none ∧ (u.proc p).ip = q.ip ∧ (u.proc p).g = q.g ∧ (u.proc p).psw = q.psw) ∧
    (2 ≤ kind.toNat → kind.toNat ≤ 7 → s.pairChecked p = true → 1 ≤ q.triesMism →
      ∃ u, exec (.comparatorMismatch p kind) s = .next u ∧ (u.proc p).paused = some kind ∧ u.able p = false ∧ (u.proc p).g = q.g ∧
        (∃ t ∈ (u.clu (cluOf p)).sparing, t.p = p ∧ t.kind = kind) ∧ u.ms = s.ms) ∧
    (2 ≤ kind.toNat → s.pairChecked p = false → exec (.comparatorMismatch p kind) s = .next s) ∧
    (3 ≤ q.tries → s.pairChecked p = false → 9 ≤ s.spare (cluOf p) →
      ∃ u d, exec (.detectedTransient p 1) s = .next u ∧ (u.proc p).mcheck = some d ∧ d.code = 0x0C ∧ d.xip = q.ip ∧ d.restart = true ∧
        (u.proc p).tries = 0 ∧ (u.proc p).g = q.g ∧ u.ms = s.ms))

/-- R285, R288, R291, R294: the outcome of a pair's self-test with a failed leader and no spare leaves the checker as an unchecked leader; a checker-path fault
marks the checker, sets UNCHK and leaves the processor running; at its next quiet point the checker role moves to the spare; MOVE and RETEST do what
their status says; the injections arm. -/
def Obligations.PairsAndSparing : Prop :=
  (∀ (s : State) (k : BitVec 3) (t : SelfTest) (rest : List SelfTest), (s.clu k.toNat).sparing = t :: rest → t.bg = false → cluOf t.p = k.toNat →
    9 ≤ s.spare k.toNat →
    ∃ u, exec (.selfTestOutcome k false true) s = .next u ∧ (u.clu k.toNat).sparing = rest ∧ (u.proc t.p).paused = none ∧
      mapAt (u.map k.toNat) (slotOf t.p) = mapAt (s.map k.toNat) (slotOf t.p + 4) ∧ ((u.proc t.p).crGet 1).getLsbD 1 = true ∧
      (u.proc t.p).g = (s.proc t.p).g ∧ u.ms = s.ms) ∧
  (∀ (s : State) (k : BitVec 3) (t : Nat), t < 4 → s.checked k.toNat = true → mapAt (s.map k.toNat) (t + 4) < 9 →
    (∀ x, x < t → mapAt (s.map k.toNat) (x + 4) ≠ mapAt (s.map k.toNat) (t + 4)) →
    let p : BitVec 6 := BitVec.ofNat 6 (8 * k.toNat + t)
    (s.proc p).paused = none →
    ∃ u, exec (.checkerPathFault k (BitVec.ofNat 4 (mapAt (s.map k.toNat) (t + 4)))) s = .next u ∧ (u.proc p).cpf = true ∧
      ((u.proc p).crGet 1).getLsbD 1 = true ∧ u.chkBad k.toNat (mapAt (s.map k.toNat) (t + 4)) = true ∧ (u.proc p).run = (s.proc p).run ∧
      (u.proc p).g = (s.proc p).g ∧ u.ms = s.ms) ∧
  (∀ (s : State) (p : BitVec 6), (s.proc p).cpf = true → s.checked (cluOf p) = true → s.quietPoint p = true → s.spare (cluOf p) < 9 →
    ∃ u, exec (.quietPointCheckerMove p) s = .next u ∧ (u.proc p).cpf = false ∧ ((u.proc p).crGet 1).getLsbD 1 = false ∧
      mapAt (u.map (cluOf p)) (slotOf p + 4) = s.spare (cluOf p) ∧ (u.proc p).g = (s.proc p).g ∧ (u.proc p).ip = (s.proc p).ip ∧ u.ms = s.ms) ∧
  (∀ (s : State) (a : Via) (k slot : BitVec 3), s.viaReach a (aClu k.toNat 0x418) = true → (s.clu k.toNat).sparing = [] →
    (9 ≤ s.spare k.toNat → exec (.spctlMove a k slot) s = .next (s.spStatus k.toNat 4)) ∧
    (s.spare k.toNat < 9 → mapAt (s.map k.toNat) slot.toNat < 9 → s.checked k.toNat = false →
      (s.proc (BitVec.ofNat 6 (8 * k.toNat + slot.toNat))).paused = none →
      ∃ u, exec (.spctlMove a k slot) s = .next u ∧ mapAt (u.map k.toNat) slot.toNat = s.spare k.toNat ∧
        (u.rg (aClu k.toNat 0x420)).extractLsb' 16 8 = 0 ∧ u.ms = s.ms)) ∧
  (∀ (s : State) (a : Via) (k : BitVec 3) (c : BitVec 4), s.viaReach a (aClu k.toNat 0x418) = true → (s.clu k.toNat).sparing = [] → c.toNat < 9 →
    (s.spareReg k.toNat).getLsbD (4 + c.toNat) = true →
    exec (.spctlRetest a k c false) s = .next (s.spStatus k.toNat 6) ∧
    (9 ≤ s.spare k.toNat → ∃ u, exec (.spctlRetest a k c true) s = .next u ∧ (u.spareReg k.toNat).getLsbD (4 + c.toNat) = false ∧
      u.spare k.toNat = c.toNat ∧ u.procs = s.procs ∧ u.ms = s.ms)) ∧
  (∀ (s : State) (p : BitVec 6), s.hasProc p = true →
    exec (.chkinjPar p) s = .next (s.modProc p fun q => { q with inj := q.inj ||| 4 }) ∧
    (s.checked (cluOf p) = true →
      exec (.chkinjMism p) s = .next (s.modProc p fun q => { q with inj := q.inj ||| 1 }) ∧
      exec (.chkinjCpf p) s = .next (s.modProc p fun q => { q with inj := q.inj ||| 2 })))

/-- R109: CMO completes. CLEAN and CLINV of a line that caches may hold send their request to the line's home and are counted until it answers; IINV drops the line from
the issuing core's instruction cache alone; of an address that no cache may hold each does nothing but go on. No register and no byte of the main store changes. A failed check is
raised.
R110, R184: CMR completes. A length of 0 answers 1 and does nothing; with the cluster's engine busy it answers 0; otherwise the engine runs the job over the
range and rd is 1. A failed check is raised.
R184, R186, R187, R189, R193, R196: the engine takes its next control job; a power job of more than 12 ways ends at once and REQ goes back; a job over an L1 cache ends with the cache empty
and disabled, one over a cluster cache at rest with its dirty line in the main store, the cache empty and disabled; one over a range ends after its last line, and cleans a line that it
may read; a search for a lost tag that no directory misses ends as corrected. -/
def Obligations.CacheMaintenance : Prop :=
  (
  ∀ (s t : State) (p : BitVec 6) (f : CmoF), s.Ready p [.g f.ra] [] t → (t.proc p).user = false →
    let q := t.proc p
    let off := q.gR f.ra + f.disp.signExtend 48
    (∀ (c : BitVec 6 → CmoF → Instr), c ∈ [Instr.cmoClean, .cmoClinv, .cmoIinv] →
      (∀ d, t.access p .cmo f.seg off 1 1 q.ip = .error d → exec (c p f) s = .next (t.setFault p d)) ∧
      (∀ a q1, t.access p .cmo f.seg off 1 1 q.ip = .ok a → q.drainFor a 1 = some q1 → t.cacheLine a = none →
        ∃ u, exec (c p f) s = .next u ∧ OnlyProc t u p ∧ (u.proc p).ip = q.ip + 6 ∧ (u.proc p).cmos = q.cmos ∧ RegsKept q (u.proc p) [])) ∧
    (∀ a q1 l, t.access p .cmo f.seg off 1 1 q.ip = .ok a → q.drainFor a 1 = some q1 → t.cacheLine a = some l →
      (∀ (kind : MK) (c : BitVec 6 → CmoF → Instr), (c, kind) ∈ [(Instr.cmoClean, MK.cln), (.cmoClinv, .clInv)] →
        ∃ u m, exec (c p f) s = .next u ∧ u = { t with procs := u.procs, net := t.net ++ [m] } ∧ m.kind = kind ∧ m.line = l ∧ m.dst = t.homeNode l ∧
          m.req = .cluster (BitVec.ofNat 3 (cluOf p)) ∧ (u.proc p).cmos = q.cmos + 1 ∧ (u.proc p).ip = q.ip + 6 ∧
          RegsKept q (u.proc p) [] ∧ (∀ r, r ≠ p → u.proc r = t.proc r)) ∧
      (∃ u, exec (.cmoIinv p f) s = .next u ∧ u = { t with procs := u.procs, cores := u.cores } ∧ spGet (u.core (t.hostCore p)).ic l = none ∧
        (∀ j, j ≠ l → spGet (u.core (t.hostCore p)).ic j = spGet (t.core (t.hostCore p)).ic j) ∧ (u.core (t.hostCore p)).dc = (t.core (t.hostCore p)).dc ∧
        (u.proc p).ip = q.ip + 6 ∧ RegsKept q (u.proc p) []))) ∧
  (
  ∀ (s t : State) (p : BitVec 6) (f : CmrF) (op : BitVec 4) (c : BitVec 6 → CmrF → Instr),
    (c, op) ∈ [(Instr.cmrClean, 0), (.cmrCleanInvalidate, 1), (.cmrPreload, 2)] → f.fnMid = 0 → f.z = 0 →
    s.Ready p [.g f.ra, .g f.rb] [.g f.rd] t → (t.proc p).user = false →
    let a := (t.proc p).gR f.ra
    let b := (t.proc p).gR f.rb
    (b = 0 → Computed t p (exec (c p f) s) f.rd 1 false) ∧
    (∀ d, b ≠ 0 → t.cmrCheck p f.seg a b = some d → exec (c p f) s = .next (t.setFault p d)) ∧
    (b ≠ 0 → t.cmrCheck p f.seg a b = none → (t.proc p).comb = [] →
      ((t.clu (cluOf p)).engineBusy = true → Computed t p (exec (c p f) s) f.rd 0 false) ∧
      ((t.clu (cluOf p)).engineBusy = false →
        ∃ u, exec (c p f) s = .next u ∧ u = { t with procs := u.procs, clus := u.clus, dev := u.dev } ∧
          (u.clu (cluOf p)).job = some { k := .range op (((t.proc p).seg f.seg.toNat).w0.toNat + a.toNat) b.toNat, master := BitVec.ofNat 12 p.toNat, byProc := true } ∧
          (u.clu (cluOf p)).lines = (t.clu (cluOf p)).lines ∧ (u.proc p).gR f.rd = (if f.rd = 0 then 0 else 1) ∧
          (u.proc p).ip = (t.proc p).ip + 6 ∧ RegsKept (t.proc p) (u.proc p) [.g f.rd]))) ∧
  (
  (∀ (s : State) (k : BitVec 3) (j : Job) (rest : List Job), (s.clu k.toNat).job = none → (s.clu k.toNat).ctlq = j :: rest →
    let off : BitVec 16 := (s.rg (aCc k.toNat 0x18)).extractLsb' 16 16
    ((∀ r, j.k = .power r → popFld (r.zeroExtend 48) 15 0 ≤ 12 ∧ r &&& ~~~off &&& (s.rg (aCc k.toNat 0x10)).extractLsb' 0 16 = 0) →
      ∃ u, exec (.controlJobStart k) s = .next u ∧ u = { s with clus := u.clus, dev := u.dev } ∧ (u.clu k.toNat).job = some j ∧ (u.clu k.toNat).ctlq = rest ∧
        fld (u.rg (aCc k.toNat 0x38)) 27 16 = j.master.toNat) ∧
    (∀ r, j.k = .power r → 12 < popFld (r.zeroExtend 48) 15 0 →
      ∃ u, exec (.controlJobStart k) s = .next u ∧ (u.clu k.toNat).job = none ∧ (u.clu k.toNat).ctlq = rest ∧ u.ms = s.ms ∧
        (u.rg (aCc k.toNat 0x18)).extractLsb' 0 16 = off ∧ fld (u.rg (aCc k.toNat 0x38)) 15 8 = 4)) ∧
  (∀ (s : State) (k slot : BitVec 3) (j : Job), (s.clu k.toNat).job = some j → j.k = .l1 slot → NoInjection s →
    let p : BitVec 6 := BitVec.ofNat 6 (8 * k.toNat + slot.toNat)
    ∃ u, exec (.maintenanceJobEnd k) s = .next u ∧ (u.clu k.toNat).job = none ∧ (u.proc p).dst = 0 ∧ (u.core (s.hostCore p)).dc = [] ∧
      (u.proc p).g = (s.proc p).g ∧ u.ms = s.ms ∧ (u.clu k.toNat).lines = (s.clu k.toNat).lines) ∧
  (∀ (s : State) (k : BitVec 3) (j : Job), (s.clu k.toNat).job = some j → j.k = .cache →
    ((s.clu k.toNat).lines = [] →
      ∃ u, exec (.maintenanceJobEnd k) s = .next u ∧ (u.clu k.toNat).job = none ∧ (u.clu k.toNat).lines = [] ∧ u.ccState k.toNat = 0 ∧ u.ms = s.ms ∧
        fld (u.rg (aCc k.toNat 0x38)) 15 8 = 0) ∧
    (∀ l c, (s.clu k.toNat).lines = [(l, c)] → s.quietLine l = true → c.st = .m → c.pois = false → c.flip = 0 → c.data.length = 96 → NoInjection s →
      l < s.part.msLines → CleanLine s l →
      ∃ u, exec (.maintenanceJobEnd k) s = .next u ∧ (u.clu k.toNat).job = none ∧ (u.clu k.toNat).lines = [] ∧ u.ccState k.toNat = 0 ∧ LineOnly s u l ∧
        (∀ i, i < 96 → u.byteAt (96 * l + i) = c.data.getD i 0))) ∧
  (∀ (s : State) (k : BitVec 3) (j : Job) (op : BitVec 4) (base len : Nat), (s.clu k.toNat).job = some j → j.k = .range op base len →
    ((linesOf base len).drop j.pos = [] → exec (.maintenanceJobEnd k) s = .next (s.jobEnd k.toNat j (if j.pois then 6 else 0))) ∧
    (∀ l, (linesOf base len).drop j.pos = [l] → op = 0 → j.sent = false → s.readNow l = true →
      ∃ j', exec (.maintenanceJobEnd k) s = .next ((s.cleanLine l).2.jobEnd k.toNat j' (if j.pois || (s.cleanLine l).1 then 6 else 0)) ∧
        j'.master = j.master ∧ j'.byProc = j.byProc)) ∧
  (∀ (s : State) (k : BitVec 3) (set : BitVec 11) (way : BitVec 4), (s.clu k.toNat).search = some (set, way) → s.dir = [] → (s.clu k.toNat).lines = [] →
    ∃ u, exec (.tagParitySearchComplete k) s = .next u ∧ (u.clu k.toNat).search = none ∧ (u.clu k.toNat).lines = [] ∧ u.ms = s.ms ∧ u.procs = s.procs))

/-- R181, R187, R188, R180: a write of L1CTL that disables the data cache puts it to "disable pending" and queues a control job, one that enables it makes it enabled; the
instruction cache is emptied and disabled at once; L1INV empties it. Nothing else changes.
R189, R185, R191, R192: the cluster cache's STATE; a MOP on an idle engine starts its job over ADDR and LEN, on a busy engine it sets LOST; LOCK takes
at most 14 ways and refuses those without power; a change of PWR.REQ queues a control job. -/
def Obligations.CacheControl : Prop :=
  (
  ∀ (s : State) (a : Via) (p : BitVec 6), s.viaReach a (s.crOff p 96) = true →
    ((s.proc p).dst = 1 → ∃ u, exec (.l1DataDisable a p) s = .next u ∧ u = { s with procs := u.procs, clus := u.clus } ∧ (u.proc p).dst = 2 ∧
      (u.clu (cluOf p)).ctlq = (s.clu (cluOf p)).ctlq ++ [ctlJob a (.l1 (BitVec.ofNat 3 (slotOf p)))] ∧ (u.clu (cluOf p)).lines = (s.clu (cluOf p)).lines) ∧
    ((s.proc p).dst = 0 → ∃ u, exec (.l1DataEnable a p) s = .next u ∧ OnlyProc s u p ∧ (u.proc p).dst = 1) ∧
    ((s.proc p).dst ≠ 1 → exec (.l1DataDisable a p) s = .next s) ∧
    (∃ u, exec (.l1InstructionDisable a p) s = .next u ∧ u = { s with procs := u.procs, cores := u.cores } ∧ (u.proc p).ist = 0 ∧
      (u.core (s.hostCore p)).ic = [] ∧ (u.core (s.hostCore p)).dc = (s.core (s.hostCore p)).dc) ∧
    (∃ u, exec (.l1InstructionEnable a p) s = .next u ∧ OnlyProc s u p ∧ (u.proc p).ist = 1) ∧
    (s.viaReach a (s.crOff p 98) = true → ∃ u, exec (.l1invIall a p) s = .next u ∧ u = { s with cores := u.cores } ∧ (u.core (s.hostCore p)).ic = [] ∧
      (u.core (s.hostCore p)).dc = (s.core (s.hostCore p)).dc)) ∧
  (
  (∀ (s : State) (a : Via) (k : BitVec 3), s.viaReach a (aCc k.toNat 0) = true →
    (s.ccState k.toNat = 1 → ∃ u, exec (.clusterCacheDisable a k) s = .next u ∧ u = { s with dev := u.dev, clus := u.clus } ∧ u.ccState k.toNat = 2 ∧
      (u.clu k.toNat).ctlq = (s.clu k.toNat).ctlq ++ [ctlJob a .cache] ∧ (u.clu k.toNat).lines = (s.clu k.toNat).lines) ∧
    (s.ccState k.toNat = 0 → ∃ u, exec (.clusterCacheEnable a k) s = .next u ∧ u = { s with dev := u.dev } ∧ u.ccState k.toNat = 1)) ∧
  (∀ (s : State) (a : Via) (k : BitVec 3) (op : BitVec 4) (c : Via → BitVec 3 → Instr),
    (c, op) ∈ [(Instr.mopClean, 0), (.mopCleanInvalidate, 1), (.mopPreload, 2)] → s.viaReach a (aCc k.toNat 0x30) = true →
    let base := (s.rg (aCc k.toNat 0x20)).toNat
    let len := (s.rg (aCc k.toNat 0x28)).toNat
    ((s.clu k.toNat).engineBusy = true → ∃ u, exec (c a k) s = .next u ∧ u = { s with dev := u.dev } ∧ (u.rg (aCc k.toNat 0x38)).getLsbD 2 = true) ∧
    ((s.clu k.toNat).engineBusy = false → len ≠ 0 → base + len ≤ s.part.msBytes →
      ∃ u, exec (c a k) s = .next u ∧ u = { s with dev := u.dev, clus := u.clus } ∧ (u.clu k.toNat).job = some (ctlJob a (.range op base len)) ∧
        fld (u.rg (aCc k.toNat 0x38)) 27 16 = viaMaster a)) ∧
  (∀ (s : State) (a : Via) (k : BitVec 3) (v : Word), s.viaReach a (aCc k.toNat 0x10) = true →
    let ways : BitVec 16 := (s.rg (aCc k.toNat 0x10)).extractLsb' 0 16
    let gone : BitVec 16 := (s.rg (aCc k.toNat 0x18)).extractLsb' 16 16 ||| s.pwrGoing k.toNat
    let want : BitVec 16 := v.extractLsb' 0 16
    ∃ u, exec (.ccLockWrite a k v) s = .next u ∧ u = { s with dev := u.dev, clus := u.clus } ∧
      (popFld v 15 0 ≤ 14 → (u.rg (aCc k.toNat 0x10)).extractLsb' 0 16 = want &&& ~~~(want &&& ~~~ways &&& gone)) ∧
      (14 < popFld v 15 0 → (u.rg (aCc k.toNat 0x10)).extractLsb' 0 16 = ways)) ∧
  (∀ (s : State) (a : Via) (k : BitVec 3) (v : Word), s.viaReach a (aCc k.toNat 0x18) = true → (s.clu k.toNat).engineBusy = false →
    v.extractLsb' 0 16 ≠ (s.rg (aCc k.toNat 0x18)).extractLsb' 0 16 →
    ∃ u, exec (.ccPwrWrite a k v) s = .next u ∧ u = { s with dev := u.dev, clus := u.clus } ∧
      (u.clu k.toNat).ctlq = (s.clu k.toNat).ctlq ++ [ctlJob a (.power (v.extractLsb' 0 16))] ∧
      (u.rg (aCc k.toNat 0x18)).extractLsb' 0 16 = v.extractLsb' 0 16))

/-- R205, R203: what the home of a line does with RdS, RdX and Upg of a cluster: the directory's new state, data with the grant and the number of
acknowledgements it announces, a forward to the owner, an Inv to every sharer. No byte, no cache and no other line's entry changes. -/
def Obligations.HomeGrantsLines : Prop :=
  ∀ (s : State) (l : Nat) (k : BitVec 3) (m : Msg) (net : List Msg), CleanLine s l → DirRoom s l (.cluster k) →
    let r := Agent.cluster k
    let d := s.dirOf l
    let h := s.homeNode l
    let inv := d.sharers r
    let invs : List Msg := inv.map fun a => { src := h, dst := .ag a, kind := .inv, line := l, req := r }
    let data (g : Grant) (n : Nat) : Msg := { src := h, dst := .ag r, kind := .data g, line := l, req := r, data := s.msLine l, acks := n, tag := m.tag }
    let answers (x : Res) (out : List Msg) (st : DS) (own : Own) (shr : BitVec 8) : Prop :=
      ∃ u, x = .next u ∧ u = { s with net := net ++ out, dir := u.dir, stks := u.stks } ∧ (∀ j, j ≠ l → u.dirOf j = s.dirOf j) ∧
        (u.dirOf l).st = st ∧ (u.dirOf l).owner = own ∧ (u.dirOf l).shr = shr ∧ (u.dirOf l).opens = d.opens + 1
    (AtHome s l r (fun x => x = .rdS) m net → m.kind = .rdS →
      (d.st = .free → answers (exec (.rds l r) s) [data .e 0] .em (.clu k) d.shr) ∧
      (d.st = .s → answers (exec (.rds l r) s) [data .s 0] .s d.owner (setBit d.shr k.toNat true)) ∧
      (∀ o, d.st = .em ∨ d.st = .o → d.owner.agent = some o →
        answers (exec (.rds l r) s) [{ src := h, dst := .ag o, kind := .fwdS, line := l, req := r }] .o d.owner (setBit d.shr k.toNat true))) ∧
    (∀ (kind : MK) (c : Nat → Agent → Instr), (c, kind) ∈ [(Instr.rdx, MK.rdX), (.upg, .upg)] →
      AtHome s l r (fun x => x = kind) m net → m.kind = kind → (kind = .upg → d.shares r = false ∧ d.owns r = false) →
      (d.st = .free → answers (exec (c l r) s) [data .m 0] .em (.clu k) 0) ∧
      (d.st = .s → answers (exec (c l r) s) (data .m inv.length :: invs) .em (.clu k) 0) ∧
      (∀ o, d.st = .em ∨ d.st = .o → d.owner.agent = some o → o ≠ r →
        answers (exec (c l r) s) ({ src := h, dst := .ag o, kind := .fwdX, line := l, req := r, acks := inv.length } :: invs) .em (.clu k) 0)) ∧
    (AtHome s l r (fun x => x = .upg) m net → m.kind = .upg → (d.st = .s ∧ d.shares r = true) ∨ (d.st = .o ∧ d.owns r = true) →
      answers (exec (.upg l r) s) ({ src := h, dst := .ag r, kind := .data .m, line := l, req := r, acks := inv.length } :: invs) .em (.clu k) 0) ∧
    (AtHome s l r (fun x => x = .upg) m net → m.kind = .upg → ∀ o, d.st = .o → d.shares r = true → d.owner.agent = some o → o ≠ r →
      answers (exec (.upg l r) s) ({ src := h, dst := .ag r, kind := .data .m, line := l, req := r, acks := inv.length + 1 } ::
        (invs ++ [{ src := h, dst := .ag o, kind := .inv, line := l, req := r }])) .em (.clu k) 0)

/-- R205, R208, R211, R237: the writes and evictions at the home. WB of the owner puts its 96 bytes into the array and ends its ownership (EM to I, O to
S), WB of another agent changes no byte; EvC removes the agent; both are acknowledged. RdU reads the array, or is forwarded to the owner. WrF and
WrP of a line nobody holds write their bytes and end the reservations on it; WrF, WrP and ClInv of a held line first take the copies back and leave
the home as owner meanwhile. Cln has the owner write back; Cln and ClInv of a free line end the counted CMO. -/
def Obligations.HomeWritesAndEvictions : Prop :=
  ∀ (s : State) (l : Nat) (k : BitVec 3) (m : Msg) (net : List Msg), s.fenced l = false →
    let r := Agent.cluster k
    let d := s.dirOf l
    let h := s.homeNode l
    let ack (kind : MK) : Msg := { src := h, dst := .ag r, kind := kind, line := l, req := r }
    let at_ (ok : MK → Bool) : Prop := AtHome s l r ok m net
    let others (u : State) : Prop := ∀ j, j ≠ l → u.dirOf j = s.dirOf j
    let invs : List Msg := (d.sharers (.unc 0)).map fun a => { src := h, dst := .ag a, kind := .inv, line := l, req := r }
    (at_ (fun x => match x with | .wb _ => true | _ => false) → (∃ n, m.kind = .wb n) → m.bytes = [] → m.data.length = 96 →
      (d.st = .em ∨ d.st = .o → d.owns r = true → ∃ u, exec (.wb l r) s = .next u ∧
        u = { s with net := net ++ [ack .wbAck], dir := u.dir, stks := u.stks, ms := u.ms, flips := u.flips, dev := u.dev } ∧
        (∀ i, i < 96 → u.byteAt (96 * l + i) = m.data.getD i 0) ∧ LineOnly s u l ∧
        (u.dirOf l).st = (if d.st = .o then .s else .free) ∧ (u.dirOf l).owner = .none ∧ others u) ∧
      (d.owns r = false → ∃ u, exec (.wb l r) s = .next u ∧ u = { s with net := net ++ [ack .wbAck], stks := u.stks })) ∧
    (at_ (fun x => x = .evC) → m.kind = .evC →
      ∃ u, exec (.evc l r) s = .next u ∧ u = { s with net := net ++ [ack .evAck], dir := u.dir, stks := u.stks } ∧
        (d.st ≠ .free → (u.dirOf l).shares r = false ∨ d.st = .em ∨ d.owns r = true) ∧ (d.st = .em ∨ d.st = .o → (u.dirOf l).owns r = false) ∧
        (d.st = .em → d.owns r = true → (u.dirOf l).st = .free) ∧ others u) ∧
    (∀ n : BitVec 12, l < s.part.msLines → CleanLine s l → d.txn = none → d.owner ≠ .host →
      (s.net.any fun x => x.line = l ∧ x.src = .ag (.unc n) ∧ x.kind = .rdU) = false →
      (d.st = .free ∨ d.st = .s → ∃ u, exec (.rdu l (.unc n)) s = .next u ∧ u = { s with stks := u.stks, dir := u.dir, net := s.net ++
        [{ src := h, dst := .ag (.unc n), kind := .data .none, line := l, req := .unc n, data := s.msLine l, tag := cmdTag, op := decide (d.st = .s) }] } ∧
        others u ∧ (u.dirOf l).st = d.st ∧ (u.dirOf l).owner = d.owner ∧ (d.st = .s → u.dirOf l = { d with opens := d.opens + 1 })) ∧
      (∀ o, d.st = .em ∨ d.st = .o → d.owner.agent = some o → ∃ u, exec (.rdu l (.unc n)) s = .next u ∧ u = { s with stks := u.stks, dir := u.dir, net := s.net ++
        [{ src := h, dst := .ag o, kind := .fwdU, line := l, req := .unc n, tag := cmdTag, op := true }] } ∧
        others u ∧ u.dirOf l = { d with opens := d.opens + 1 })) ∧
    (∀ (kind : MK) (c : Nat → Agent → Instr), (c, kind) ∈ [(Instr.wrf, MK.wrF), (.wrp, .wrP)] → at_ (fun x => x = kind) → m.kind = kind → d.st = .free →
      100 ≤ m.tag → (kind = .wrF → m.data.length = 96) → (kind = .wrP → CleanLine s l ∧ spRising none m.bytes = true) →
      ∃ u, exec (c l r) s = .next u ∧ u.net = net ++ [{ ack .done with tag := m.tag }] ∧
        u = { s with net := u.net, dir := u.dir, stks := u.stks, ms := u.ms, flips := u.flips, dev := u.dev, procs := u.procs } ∧
        (∀ i, i < 96 → u.byteAt (96 * l + i) = (if kind = .wrF then m.data.getD i 0 else (spGet m.bytes i).getD (s.byteAt (96 * l + i)))) ∧
        LineOnly s u l ∧ others u ∧ (∀ p : BitVec 6, ∀ a, (u.proc p).resv = some a → a / 96 ≠ l) ∧ (∀ p : BitVec 6, (u.proc p).g = (s.proc p).g)) ∧
    (∀ (kind : MK) (c : Nat → Agent → Instr), (c, kind) ∈ [(Instr.wrf, MK.wrF), (.wrp, .wrP), (.clinv, .clInv)] → at_ (fun x => x = kind) → m.kind = kind →
      ∀ o, d.st ≠ .free → d.owner.agent = some o → ∃ u, exec (c l r) s = .next u ∧ u = { s with net := u.net, dir := u.dir, stks := u.stks } ∧
        u.net = net ++ { src := h, dst := .ag o, kind := if kind = .wrF then .inv else .recall, line := l, req := r, owner := true } :: invs ∧
        (u.dirOf l).owner = .home ∧ (u.dirOf l).st = d.st ∧ others u ∧
        (u.dirOf l).txn = some { msg := m, need := decide (kind ≠ .wrF), acks := invs.length + (if kind = .wrF then 1 else 0), tick := s.ticks }) ∧
    (at_ (fun x => x = .cln) → m.kind = .cln → ∀ o, d.st = .em ∨ d.st = .o → d.owner.agent = some o → ∃ u, exec (.cln l r) s = .next u ∧
      u = { s with net := net ++ [{ src := h, dst := .ag o, kind := .down, line := l, req := r, owner := true }], dir := u.dir, stks := u.stks } ∧
      u.dirOf l = { d with opens := d.opens + 1, txn := some { msg := m, need := true, tick := s.ticks } } ∧ others u) ∧
    (∀ (kind : MK) (c : Nat → Agent → Instr), (c, kind) ∈ [(Instr.cln, MK.cln), (.clinv, .clInv)] → at_ (fun x => x = kind) → m.kind = kind →
      ∀ p : BitVec 6, m.tag = p.toNat + 1 → d.st = .free → ∃ u, exec (c l r) s = .next u ∧
        u = { s with net := net, stks := u.stks, procs := u.procs, dir := u.dir } ∧ (u.proc p).cmos = (s.proc p).cmos - 1 ∧ (u.proc p).g = (s.proc p).g ∧
        (∀ q, q ≠ p → u.proc q = s.proc q) ∧ others u ∧ (u.dirOf l).st = .free)

/-- R205, R199, R201, R208, R200, R211: what holders and requesters do. An owner serves a forward with its line, keeps it in O (FwdS), as it is (FwdU) or
gives it up (FwdX); the eviction buffer serves the first FwdX and passes the next to that requester. Inv takes the copy away, puts SM and OM into
IM, and is acknowledged; Recall hands the line to its home, which may also order a write-back. A grant makes the line readable or writable, in MA
while acknowledgements are awaited; the last one completes the request; Cmp closes it at the home; WBAck and EvAck free the eviction buffer. No
check-bit injection is armed and the line's entry is under no tag search. -/
def Obligations.HoldersAnswer : Prop :=
  ∀ (s : State) (l : Nat) (k : BitVec 3) (m : Msg) (net : List Msg), s.lineOk l = true → NoInjection s → s.hidden k.toNat l = false →
    let r := Agent.cluster k
    let taken (ok : Msg → Bool) : Prop := takeMsg ok [] s.net = some (m, net)
    let mine (kind : MK) : Prop := taken (fun m => m.line = l ∧ m.dst = .ag r ∧ m.kind = kind) ∧ m.kind = kind
    let data (c : CLine) (g : Grant) : Msg :=
      { src := .ag r, dst := .ag m.req, kind := .data g, line := l, req := m.req, data := c.data, pois := c.pois, acks := m.acks, tag := m.tag, op := m.op }
    let cmp : Msg := { src := .ag r, dst := s.homeNode l, kind := .cmp, line := l, req := r }
    let acked : List Msg := net ++ [{ src := .ag r, dst := s.ackTo l m.req, kind := .invAck, line := l, req := m.req }]
    let others (u : State) : Prop := ∀ (j : BitVec 3) (i : Nat), ¬ (j = k ∧ i = l) → u.cline j.toNat i = s.cline j.toNat i
    let gone (u : State) : Prop := ∀ c', u.cline k.toNat l = some c' → c'.st = .i
    let regs (u : State) : Prop := ∀ p : BitVec 6, (u.proc p).g = (s.proc p).g ∧ (u.proc p).f = (s.proc p).f ∧ (u.proc p).ip = (s.proc p).ip
    (∀ c, s.cline k.toNat l = some c → c.flip = 0 →
      (c.st = .m ∨ c.st = .o ∨ c.st = .e → c.fq = [] → s.slotWaits k.toNat l = false →
        (mine .fwdS → ∃ u c', exec (.fwds l r) s = .next u ∧ u = { s with net := net ++ [data c .s], clus := u.clus, cores := u.cores } ∧
          u.cline k.toNat l = some c' ∧ c'.st = .o ∧ c'.data = c.data ∧ others u) ∧
        (mine .fwdU → exec (.fwdu l r) s = .next { s with net := net ++ [data c .none] }) ∧
        (mine .fwdX → ∃ u, exec (.fwdx l r) s = .next u ∧
          u = { s with net := net ++ [data c .m], clus := u.clus, cores := u.cores, procs := u.procs } ∧ gone u ∧ others u ∧ regs u) ∧
        (∀ t, taken (fun m => m.line = l ∧ m.dst = .ag r ∧ (m.kind = .recall ∨ m.kind = .down)) → (s.dirOf l).txn = some t → t.acks ≠ 0 →
          (m.kind = .recall → ∃ u, exec (.recall l r) s = .next u ∧
            u = { s with net := net, dir := u.dir, clus := u.clus, cores := u.cores, procs := u.procs } ∧
            (u.dirOf l).txn = some { t with need := false, data := some (c.data, c.pois) } ∧ gone u ∧ others u ∧ regs u) ∧
          (m.kind = .down → c.st ≠ .e → ∃ u c', exec (.recall l r) s = .next u ∧ u = { s with net := net, dir := u.dir, clus := u.clus } ∧
            (u.dirOf l).txn = some { t with need := false, data := some (c.data, c.pois) } ∧ u.cline k.toNat l = some c' ∧
            c'.st = (if c.st = .m then .e else .s) ∧ c'.data = c.data ∧ others u)) ∧
        (takeMsg (fun m => m.line = l ∧ m.dst = .ag r ∧ m.kind = .inv ∧ m.owner = false) [] s.net = none → mine .inv →
          ∃ u, exec (.inv l r) s = .next u ∧ u = { s with net := acked, clus := u.clus, cores := u.cores, procs := u.procs } ∧ gone u ∧ others u ∧ regs u)) ∧
      (c.st = .eb → c.fq = [] → mine .fwdX →
        (c.heir = none → ∃ u, exec (.fwdx l r) s = .next u ∧ u = { s with net := net ++ [data c .m], clus := u.clus } ∧
          u.cline k.toNat l = some { c with heir := some m.req } ∧ others u) ∧
        (∀ a, c.heir = some a → ∃ u, exec (.fwdx l r) s = .next u ∧ u = { s with net := net ++ [{ m with src := .ag r, dst := .ag a }], clus := u.clus } ∧
          u.cline k.toNat l = some { c with heir := some m.req } ∧ others u)) ∧
      (taken (fun m => m.line = l ∧ m.dst = .ag r ∧ m.kind = .inv ∧ m.owner = false) →
        (c.st = .s → ∃ u, exec (.inv l r) s = .next u ∧ u = { s with net := acked, clus := u.clus, cores := u.cores, procs := u.procs } ∧
          gone u ∧ others u ∧ regs u) ∧
        (c.st = .sm ∨ c.st = .om → ∃ u c', exec (.inv l r) s = .next u ∧ u = { s with net := acked, clus := u.clus, cores := u.cores, procs := u.procs } ∧
          u.cline k.toNat l = some c' ∧ c'.st = .im ∧ c'.data = [] ∧ others u ∧ regs u) ∧
        (c.st = .im ∨ c.st = .ma → exec (.inv l r) s = .next { s with net := acked })) ∧
      (taken (fun m => m.line = l ∧ m.dst = .ag r ∧ m.kind.grants = true) →
        (∀ (g : Grant) (x : LS), (g, x) ∈ [(Grant.s, LS.s), (.e, .e), (.m, .m)] → c.st = .is → m.kind = .data g → m.data ≠ [] →
          ∃ u c', exec (.dataGrant l r) s = .next u ∧ u = { s with net := net ++ [cmp], procs := u.procs, clus := u.clus } ∧
            u.cline k.toNat l = some c' ∧ c'.st = x ∧ c'.data = m.data ∧ c'.acks = 0 ∧ others u ∧ regs u) ∧
        (c.st = .im ∨ c.st = .sm ∨ c.st = .om → m.kind = .data .m → ∃ u c', exec (.dataGrant l r) s = .next u ∧
          u = { s with net := u.net, procs := u.procs, clus := u.clus } ∧
          u.cline k.toNat l = some c' ∧ c'.data = (if m.data = [] then c.data else m.data) ∧ others u ∧ regs u ∧
          (c.acks + m.acks = 0 → c'.st = .m ∧ u.net = net ++ [cmp]) ∧
          (c.acks + m.acks ≠ 0 → c'.st = .ma ∧ c'.acks = c.acks + m.acks ∧ u.net = net))) ∧
      (taken (fun m => m.line = l ∧ m.req = r ∧ m.kind = .invAck) → m.dst = .ag r →
        ∃ u c', exec (.invAck l r) s = .next u ∧ u = { s with net := u.net, procs := u.procs, clus := u.clus } ∧
          u.cline k.toNat l = some c' ∧ c'.data = c.data ∧ c'.acks = c.acks - 1 ∧ others u ∧ regs u ∧
          (c.st = .ma → c.acks = 1 → c'.st = .m ∧ u.net = net ++ [cmp]) ∧ (c.st ≠ .ma ∨ c.acks ≠ 1 → c'.st = c.st ∧ u.net = net)) ∧
      (c.st = .eb ∨ c.st = .sb → c.fq = [] → ∀ (kind : MK) (o : Nat → Agent → Instr), (o, kind) ∈ [(Instr.wback, MK.wbAck), (.evack, .evAck)] → mine kind →
        ∃ u, exec (o l r) s = .next u ∧ u = { s with net := net, clus := u.clus } ∧ u.cline k.toNat l = none ∧ others u)) ∧
    (s.cline k.toNat l = none → mine .inv → exec (.inv l r) s = .next { s with net := acked }) ∧
    (∀ (t : Txn) (a : BitVec 3), taken (fun m => m.line = l ∧ m.req = r ∧ m.kind = .invAck) → m.dst = s.homeNode l → m.src = .ag (.cluster a) →
      (s.dirOf l).txn = some t → 2 ≤ t.acks → ∃ u, exec (.invAck l r) s = .next u ∧ u = { s with net := net, dir := u.dir } ∧
        (u.dirOf l).txn = some { t with acks := t.acks - 1 } ∧ (u.dirOf l).shr = setBit (s.dirOf l).shr a.toNat false ∧ (∀ j, j ≠ l → u.dirOf j = s.dirOf j)) ∧
    (taken (fun m => m.line = l ∧ m.src = .ag r ∧ m.kind = .cmp) → ((s.stack (s.sliceOf l)).queue.find? fun m => m.line = l) = none →
      ∃ u, exec (.cmp l r) s = .next u ∧ u = { s with net := net, dir := u.dir } ∧ (u.dirOf l).opens = (s.dirOf l).opens - 1 ∧
        (∀ j, j ≠ l → u.dirOf j = s.dirOf j))

/-- R209, R210, R215, R216, R221, R220: Retry parks the request until its back-off ends, the ninth attempt is persistent, an unused reservation lapses after
4 µs; a home tells every requester it still works for Pending, which like Retry is an answer under R166 and R167. A home takes a line back from the
host with one back-invalidation for each of the line's two host lines, BISnpInv for ownership, BISnpCur for an uncached read (and, the model's choice
of log 74, for Cln), BISnpData for a shared one; the host's answers end it, after 100 µs it is lost. A member silent for 100 µs is lost, its
acknowledgements count as given. While the group is enabled a write of CGCTL only disables it and clears members. -/
def Obligations.RetriesAndBackInvalidations : Prop :=
  ∀ (s : State) (l : Nat), s.lineOk l = true →
    let answeredBy (k : BitVec 3) (u : State) : Prop := ∀ p : BitVec 6,
      (cluOf p = k.toNat → (u.proc p).loads = (s.proc p).loads.map (fun x => if x.asked && decide (s.loadLine x = some l) then { x with ans := true } else x)) ∧
      (cluOf p ≠ k.toNat → u.proc p = s.proc p) ∧ (u.proc p).g = (s.proc p).g ∧ (u.proc p).ip = (s.proc p).ip
    (∀ (k : BitVec 3) (m : Msg) (net : List Msg),
      takeMsg (fun m => decide (m.line = l) && decide (m.dst = .ag (.cluster k)) && (match m.kind with | .retry _ => true | _ => false)) [] s.net = some (m, net) →
      ∃ u, exec (.retry l (.cluster k)) s = .next u ∧ u = { s with net := net, parked := s.parked ++ [{ m with tries := m.tries + 1 }], procs := u.procs } ∧
        answeredBy k u) ∧
    (∀ (k : BitVec 3) (m : Msg), (s.parked.find? fun m => m.line = l ∧ m.dst = .ag (.cluster k)) = some m →
      exec (.retryBackoffExpiry l (.cluster k)) s = .next { s with parked := s.parked.erase m, net := s.net ++
        [{ m with src := .ag (.cluster k), dst := s.homeNode l, kind := m.orig.getD .rdS, orig := none, sticky := decide (8 ≤ m.tries) }] }) ∧
    (∀ r : Agent, ∃ u, exec (.persistentReservationExpiry l r) s = .next u ∧ u = { s with stks := u.stks } ∧
      (u.stack (s.sliceOf l)).resv =
        (s.stack (s.sliceOf l)).resv.filter fun x => !(x.line = l ∧ x.req = r ∧ x.tick + 100 ≤ s.ticks)) ∧
    (∀ (k : BitVec 3) (m : Msg) (net : List Msg), takeMsg (fun m => m.line = l ∧ m.dst = .ag (.cluster k) ∧ m.kind = .pend) [] s.net = some (m, net) →
      ∃ u, exec (.pending l (.cluster k)) s = .next u ∧ u = { s with net := net, procs := u.procs } ∧ answeredBy k u) ∧
    (exec (.pendingTick l) s = .next { s with net := s.net ++ (s.working l).map fun a => { src := s.homeNode l, dst := .ag a, kind := .pend, line := l, req := a } } ∧
      (∀ t : Txn, (s.dirOf l).txn = some t → t.msg.req ∈ s.working l) ∧
      (∀ m ∈ (s.stack (s.sliceOf l)).queue, m.line = l → m.req ∈ s.working l) ∧ (∀ a, (l, a) ∈ (s.stack (s.sliceOf l)).held → a ∈ s.working l)) ∧
    (∀ t : Txn, (s.dirOf l).txn = some t → t.host = true → (s.dirOf l).h = true ∨ (s.dirOf l).owner = .host →
      (s.bisnp.any fun b => b.line = l) = false → s.mstat 1 = false →
      let code := if t.msg.kind = .rdU ∨ t.msg.kind = .cln then 3 else if t.msg.kind = .rdS then 2 else 1
      let sent : List Out := [.bisnp (s.hostNo (3 * l / 2 + 1)) code, .bisnp (s.hostNo (3 * l / 2)) code]
      ∃ b, exec (.backInvalidation l) s = .next { s with bisnp := s.bisnp ++ [b], outbox := sent ++ s.outbox } ∧
        b.line = l ∧ b.lo = false ∧ b.hi = false ∧ b.tick = s.ticks ∧ b.cur = decide (code = 3) ∧ b.inval = decide (code = 1)) ∧
    (∀ b : BiSnp, (s.bisnp.find? fun b => b.line = l) = some b →
      (s.ticks < b.tick + 2500 → exec (.backInvalidationTimeout l) s = .next s) ∧
      (b.tick + 2500 ≤ s.ticks → (s.dirOf l).txn = none → ∃ u, exec (.backInvalidationTimeout l) s = .next u ∧
        u.bisnp = s.bisnp.filter (fun x => x.line ≠ l) ∧ u.procs = s.procs ∧ (u.dirOf l).h = false ∧ (u.dirOf l).owner ≠ .host ∧
        (u.rg (aCxl 0x18)).getLsbD 3 = true ∧
        ((s.dirOf l).owner = .host → l < s.part.msLines → s.fenced l = false → (s.rg (aStk (s.homeOf l) 0x38)).getLsbD 8 = false →
          ∀ w, w < 16 → spGetD 0 u.flips (16 * l + w) = 0x7F)) ∧
      (b.lo = false → b.hi = false → ∀ hi : Bool, exec (.backInvalidationResponse l hi none false) s =
        .next { s with bisnp := s.bisnp.map fun x => if x.line = l then { b with lo := !hi, hi := hi } else x }) ∧
      (∀ hi d, let again : Out := .bisnp (s.hostNo (3 * l / 2 + (if hi then 1 else 0))) (if b.inval then 1 else if b.cur then 3 else 2)
        exec (.backInvalidationResponse l hi d true) s = .next { s with outbox := again :: s.outbox }) ∧
      (b.lo = true → ∀ data, exec (.backInvalidationResponse l true (some data) false) s =
        .next (s.biFinish { b with lo := true, hi := true, dirty := mergeCells b.dirty (hostPart l (3 * l / 2 + 1) data) } false)) ∧
      (b.lo = true → b.dirty = [] → b.inval = true → b.cur = false → (s.dirOf l).txn = none → ∃ u, exec (.backInvalidationResponse l true none false) s = .next u ∧
        u = { s with bisnp := s.bisnp.filter (fun x => x.line ≠ l), dir := u.dir } ∧ (u.dirOf l).h = false ∧ (u.dirOf l).owner ≠ .host)) ∧
    (∀ i : BitVec 4, (∀ x ∈ s.memWait, x.dst = .ag (.member i) → s.ticks < x.tick + 2500) → exec (.memberLost i) s = .next s) ∧
    (∀ (i : BitVec 4) (x : Msg), (s.memWait ++ s.net).filter (fun x => x.dst = .ag (.member i)) = [x] → x ∈ s.memWait → x.tick + 2500 ≤ s.ticks →
      x.kind = .inv → s.dir = [] → (s.rg (aMs 0xC000)).getLsbD 4 = true → ∃ u, exec (.memberLost i) s = .next u ∧
        u.lost = setBit s.lost i.toNat true ∧ u.procs = s.procs ∧ u.ms = s.ms ∧ u.memWait = s.memWait.filter (fun x => !(x.dst = Node.ag (.member i))) ∧
        u.net = s.net.filter (fun x => !(x.dst = Node.ag (.member i))) ++
          [{ src := .ag (.member i), dst := .ag x.req, kind := .invAck, line := x.line, req := x.req }]) ∧
    (∀ (a : Via) (v : Word), s.viaReach a (aMs 0xC000) = true →
      let old := s.rg (aMs 0xC000)
      ∃ u, exec (.cgctlWrite a v) s = .next u ∧ u = { s with dev := u.dev, lost := s.lost &&& (u.rg (aMs 0xC000)).extractLsb' 5 16 } ∧
        (old.getLsbD 4 = false → u.rg (aMs 0xC000) = v &&& 0x1FFFFF) ∧
        (old.getLsbD 4 = true → (u.rg (aMs 0xC000)).getLsbD 4 = v.getLsbD 4 ∧ (u.rg (aMs 0xC000)).extractLsb' 0 4 = old.extractLsb' 0 4 ∧
          (u.rg (aMs 0xC000)).extractLsb' 5 16 = old.extractLsb' 5 16 &&& v.extractLsb' 5 16))

/-- R225, R227, R546: a read of the main store delivers the line as written when its words hold no error; one wrong bit of a stored word, whichever of its 56 it is, is corrected,
counted and written back, and two wrong bits of one word deliver the line poisoned.
R234, R255, R256: the scrubber reads the next line of its stack and moves on, a clean line staying as it is. A persist grant asked for a line sets its image-dirty bit
while the budget leaves room, and the cluster's waiting stores to it are granted; with no room the request is held and a stall
episode is open, nor does a later one pass it (the model's choice of log 73); the oldest held request is served when room comes. -/
def Obligations.MainStoreReadsAndGrants : Prop :=
  (
  ∀ (s : State) (l : Nat) (m : BitVec 12), l < s.part.msLines → CleanLine s l →
    let st := s.homeOf l
    let errs (w : Nat) (e : BitVec 56) : List (BitVec 56) := List.replicate w 0 ++ [e]
    exec (.mainStoreReadResult l [] m) s = .next { s with outbox := .memAnswer l (256 + m.toNat) (s.msLine l) false :: s.outbox } ∧
    (∀ w b, w < 16 → b < 56 → ∃ u, exec (.mainStoreReadResult l (errs w (1#56 <<< b)) m) s = .next u ∧
      u.outbox.head? = some (.memAnswer l (256 + m.toNat) (s.msLine l) false) ∧ (∀ a, u.byteAt a = s.byteAt a) ∧
      (u.stack st).ce = satAdd 32 (s.stack st).ce 1 ∧ ((s.rg (aStk st 0x38)).getLsbD 8 = false → u.linePois l = false) ∧ u.procs = s.procs ∧ u.clus = s.clus ∧ u.dir = s.dir) ∧
    (∀ w b c, w < 16 → b < 56 → c < 56 → b ≠ c → ∃ u d, exec (.mainStoreReadResult l (errs w (1#56 <<< b ^^^ 1#56 <<< c)) m) s = .next u ∧
      u.outbox.head? = some (.memAnswer l (256 + m.toNat) d true) ∧ (∀ a, u.byteAt a = s.byteAt a) ∧
      (u.stack st).ue = satAdd 24 (s.stack st).ue 1 ∧ ((s.rg (aStk st 0x38)).getLsbD 8 = false → u.linePois l = true) ∧ u.procs = s.procs ∧ u.clus = s.clus ∧ u.dir = s.dir)) ∧
  (
  (∀ (s : State) (st : BitVec 3), s.scrubOn = true → st.toNat < s.part.stks →
    let r := (s.stack st.toNat).scrubR
    let l := lineAt s.part st.toNat r
    let me : Agent := .unc (BitVec.ofNat 12 (0x710 + st.toNat))
    CleanLine s l → s.dataFor l me = none → s.quietLine l = true → s.asked l me = false → r + 1 < 2 ^ 25 → ∃ u, exec (.scrubRead st) s = .next u ∧
      u = { s with stks := u.stks, dev := u.dev } ∧ (u.stack st.toNat).scrubR = r + 1) ∧
  (∀ (s : State) (l : Nat) (k : BitVec 3), s.lineOk l = true →
    let slots (s : State) : List Slot := (List.range 8).flatMap fun t => (s.proc (BitVec.ofNat 6 (8 * k.toNat + t))).slots
    let waits := (slots s).any fun x => !x.granted && x.entries.any fun e => e.persist && s.entryLine e = some l
    (waits = false → exec (.persistGrantRequest l (.cluster k)) s = .next s) ∧
    (waits = true → s.dirtyD l = true ∨ ((s.stack (s.homeOf (l % 2 ^ 44))).held = [] ∧ s.dbits.length < mibLines s.effMib) → ∃ u, exec (.persistGrantRequest l (.cluster k)) s = .next u ∧
      u = { s with dbits := u.dbits, peakD := u.peakD, clus := u.clus, procs := u.procs, net := u.net } ∧ u.dirtyD l = true ∧
      (∀ j, j ≠ l → u.dirtyD j = s.dirtyD j) ∧ (∀ x ∈ slots u, (∃ e ∈ x.entries, s.entryLine e = some l) → x.granted = true)) ∧
    (waits = true → s.dirtyD l = false → mibLines s.effMib ≤ s.dbits.length ∨ (s.stack (s.homeOf (l % 2 ^ 44))).held ≠ [] → (l, Agent.cluster k) ∉ (s.stack (s.homeOf (l % 2 ^ 44))).held →
      ∃ u, exec (.persistGrantRequest l (.cluster k)) s = .next u ∧ u.dbits = s.dbits ∧ u.procs = s.procs ∧ u.net = s.net ∧ u.ms = s.ms ∧
        (u.stack (s.homeOf (l % 2 ^ 44))).held = (s.stack (s.homeOf (l % 2 ^ 44))).held ++ [(l, .cluster k)] ∧ u.tun.stall.isSome = true)) ∧
  (∀ (s : State) (st : BitVec 3) (l : Nat) (k : BitVec 3) (rest : List (Nat × Agent)), (s.stack st.toNat).held = (l, .cluster k) :: rest →
    (s.dirtyD l = true ∨ s.dbits.length < mibLines s.effMib → ∃ u, exec (.heldGrantServed st) s = .next u ∧ (u.stack st.toNat).held = rest ∧
      u.dirtyD l = true ∧ (∀ j, j ≠ l → u.dirtyD j = s.dirtyD j) ∧ u.ms = s.ms) ∧
    (s.dirtyD l = false → mibLines s.effMib ≤ s.dbits.length → exec (.heldGrantServed st) s = .next s)))

/-- R258, R259, R273: an epoch is cut when it is due or asked for, the imager captures one dirty line at a time, clearing its image-dirty bit, and
the epoch closes when no stack has one left: its lines replace their image copies, and a commit record with its number enters the ring. A captured
line's copy is that of the cluster that owns it, else the array's; every persist grant of the line ends.
R246, R247, R248, R253, R257, R267: a budget outside 48 to 768 MiB is not taken; the budget in force is the lesser of the request and the class maximum, 48 without a passed
hold-up check; the check fails by class 0, a low VHOLD or a slow rehearsal, in this order, and a rehearsal leaves the flush area without a header. FORMAT starts cold where no
record is valid. A relocated block counts one more map version. -/
def Obligations.ImageEpochsAndFormat : Prop :=
  (
  ∀ (s : State),
    (s.tun.opened = none → s.phase = .run → s.tun.cutNow = true ∨ s.tun.lastCut = none ∨ (∃ t, s.tun.lastCut = some t ∧ t + s.epochTicks ≤ s.ticks) →
      ∃ u e, exec .epochCut s = .next u ∧ u = { s with tun := u.tun, stks := u.stks } ∧ u.tun.opened = some e ∧ e.n = s.tun.closed + 1 ∧
        e.lines = [] ∧ u.tun.img = s.tun.img ∧ u.tun.cutNow = false ∧ (∀ st : Nat, st < s.part.stks → (u.stack st).sweep = 0)) ∧
    (∀ (st : BitVec 3) (e : Epoch) (r l : Nat) (d : List Byte) (z : Bool), s.imagerOn = true → st.toNat < s.part.stks → s.tun.opened = some e →
      (s.stack st.toNat).capt = none → s.nextDirty st.toNat = some (r, l) → l < 2 ^ 44 → s.dataFor l (.unc (BitVec.ofNat 12 imagerId)) = none →
      s.readNow l = true → NoInjection s →
      (s.ownerClu l = none ∧ CleanLine s l ∧ (d, z) = (s.msLine l, false)) ∨
        (∃ k c, s.ownerClu l = some k ∧ s.cline k l = some c ∧ c.flip = 0 ∧ (d, z) = (c.data, c.pois)) →
      ∃ u e', exec (.imagerCapture st) s = .next u ∧
        u = { s with tun := { s.tun with opened := some e' }, dbits := s.dbits.erase l, stks := u.stks, procs := u.procs, clus := u.clus } ∧
        spGet e'.lines l = some (d, z) ∧ (∀ j, j ≠ l → spGet e'.lines j = spGet e.lines j) ∧ (u.stack st.toNat).sweep = r + 1 ∧
        (u.stack st.toNat).capt = none ∧ (∀ k : BitVec 3, ∀ c, u.cline k.toNat l = some c → c.pg = false)) ∧
    (∀ e : Epoch, s.imagerOn = true → s.tun.opened = some e → (∀ st : Nat, st < s.part.stks → s.nextDirty st = none ∧ (s.stack st).capt = none) →
      NoInjection s → ∃ u c, exec .epochClose s = .next u ∧ u = { s with tun := u.tun, stks := u.stks, procs := u.procs } ∧ u.tun.opened = none ∧
        u.tun.closed = e.n ∧ spGet u.tun.ring (e.n % 1024) = some c ∧ c.seq = e.n ∧ c.ms = e.ms ∧ c.ok = true ∧ c.mapver = s.tun.mapver + 1 ∧
        u.tun.mapver = s.tun.mapver + 1 ∧ u.tun.img = (s.tun.write e.lines e.unc).img) ∧
    (∀ a : Via, s.viaReach a (aTun 0) = true → s.phase = .run →
      exec (.tunCut a) s = .next { s with tun := { s.tun with cutNow := true } } ∧
      exec (.tunRecheck a) s = .next { s with tun := { s.tun with checking := true } })) ∧
  (
  ∀ (s : State),
    let eff (u : State) : Prop := u.effMib = (if u.pstat.getLsbD 3 then min (fld (u.rg (aTun 8) budgetReset) 9 0) (fld (u.rg (aTun 8) budgetReset) 25 16) else 48)
    (∀ (a : Via) (v : Word), s.viaReach a (aTun 8) = true → ∃ u, exec (.tunBudgetWrite a v) s = .next u ∧ u = { s with dev := u.dev } ∧
      fld (u.rg (aTun 8) budgetReset) 9 0 = (if 48 ≤ fld v 9 0 ∧ fld v 9 0 ≤ 768 then fld v 9 0 else fld (s.rg (aTun 8) budgetReset) 9 0) ∧
      fld (u.rg (aTun 8) budgetReset) 25 16 = fld (s.rg (aTun 8) budgetReset) 25 16 ∧ eff u) ∧
    (∀ mv us : Nat, s.phase = .boot ∨ s.phase = .run → s.tun.checking = true →
      let why := if fld s.pstat 2 0 = 0 then 1 else if mv < 11400 then 2 else if 22400 < us then 3 else 0
      ∃ u, exec (.holdUpCheck mv us) s = .next u ∧ EventOnly { s with tun := u.tun } u ∧
        u.tun = { s.tun with checking := false, flush := if why = 0 ∨ why = 3 then none else s.tun.flush } ∧
        fld u.pstat 6 4 = why ∧ u.pstat.getLsbD 3 = decide (why = 0) ∧ eff u) ∧
    (∀ a : Via, s.viaReach a (aTun 0) = true → s.phase = .nores →
      ∃ u, exec (.tunFormat a) s = .next u ∧ u = { s with phase := .boot, dev := u.dev, tun := { s.tun with cold := true, src := some { src := 0 } } } ∧
        u.pstat.getLsbD 7 = false) ∧
    (∀ n : Nat, s.phase = .run → ∃ u, exec (.blockRelocation n) s = .next u ∧ u.tun = { s.tun with mapver := s.tun.mapver + 1 } ∧ u.ms = s.ms ∧
      (∀ p : BitVec 6, (u.proc p).g = (s.proc p).g ∧ ∀ x ∈ (u.proc p).loads, x.space = 1 → x.asked = true → x.ans = true)))

/-- R261, R262, R265, R266, R507, R532, R533, R539: a trip from Run writes the flush header and starts the flush, before the release FLUSH_DONE rises at once, in FATAL it tells code 7;
PFAIL below 40 ns and VHOLD from 11.0 V trip nothing. SYS_RESET with its key starts the flush in Run; in a boot it begins the boot again. The flush waits until every processor stands where it could take an interrupt (R154), tells
its progress codes, and ends with its record committed over the lines whose image-dirty bit is
set, as the main store then holds them, and with the machine-state section; or it is aborted with code 7. -/
def Obligations.TripsAndFlush : Prop :=
  ∀ (s : State),
    let trips (x : Res) (trig : Nat) : Prop :=
      (s.phase = .run → ∃ u f, x = .next u ∧ u.phase = .flush ∧ u.tun.flush = some f ∧ f.trig = trig ∧ f.seq = s.tun.flushSeq + 1 ∧ f.base = s.tun.closed ∧
        f.committed = false ∧ u.tun.done = false ∧ u.outbox.head? = some (.value 5 1) ∧ u.ms = s.ms ∧ u.dbits = s.dbits ∧ u.procs = s.procs) ∧
      (s.phase = .boot ∨ s.phase = .nores → x = .next { s with phase := .flushed, tun := { s.tun with pcode := 0, done := true }, outbox := .value 5 8 :: s.outbox }) ∧
      (s.phase = .fatal → x = .next { s with tun := { s.tun with pcode := 7, done := true }, outbox := .value 5 15 :: s.outbox })
    (∀ ns : Nat, (80 ≤ ns → trips (exec (.pfailTrip ns) s) 1) ∧ (ns < 40 → exec (.pfailTrip ns) s = .next s)) ∧
    (∀ mv : Nat, (mv < 11000 → trips (exec (.vholdTrip mv) s) 2) ∧ (11000 ≤ mv → exec (.vholdTrip mv) s = .next s)) ∧
    (∀ a : Via, s.viaReach a (aTun 0) = true → s.phase = .run → trips (exec (.tunPflush a) s) 3) ∧
    (∀ (a : Via) (v : Word), s.viaReach a 8 = true → s.phase = .run →
      (fld v 47 36 = 0x5A7 ∧ fld v 3 0 = 1 → ∃ u f, exec (.sysResetRestart a v) s = .next u ∧ u.phase = .flush ∧ u.tun.restart = true ∧
        u.tun.flush = some f ∧ f.trig = 3 ∧ u.ms = s.ms ∧ u.procs = s.procs) ∧
      (¬ (fld v 47 36 = 0x5A7 ∧ fld v 3 0 = 1) → ∃ u, exec (.sysResetRestart a v) s = .next u ∧ u = { s with dev := u.dev } ∧ (u.rg 0x10).getLsbD 15 = true)) ∧
    (∀ (a : Via) (v : Word) (b : Boot), s.viaReach a 8 = true → s.phase = .boot → s.boot = some b → b.brassOk ≠ 0 → fld v 47 36 = 0x5A7 → fld v 3 0 = 1 →
      ∃ u, exec (.sysResetRestart a v) s = .next u ∧ u.phase = .boot ∧ fld (u.rg 0x10) 3 0 = 1 ∧ u.boot = some b ∧ u.pew.pcyc = satAdd 24 s.pew.pcyc 1 ∧
        u.tun.flush = s.rolledBack.tun.flush) ∧
    (∀ f : FlushRec, s.phase = .flush → s.tun.flush = some f → s.tun.restart = false →
      (s.procsStopped = false → ∀ us, exec (.flushDone us) s = .next s) ∧
      (s.procsStopped = true → ∀ us : Nat, ∃ u f', exec (.flushDone us) s = .next u ∧ u.phase = .flushed ∧ u.tun.flush = some f' ∧ f'.committed = true ∧
        f'.seq = f.seq ∧ f'.fus = us ∧ f'.missed = (f.missed || decide (flushLimit u.dbits.length < us)) ∧
        f'.lines = u.dbits.map (fun l => (l, u.msLine l, u.linePois l)) ∧ u.saved.isSome = true ∧ u.tun.done = true ∧
        u.outbox.take 4 = [.value 5 14, .value 5 5, .value 5 4, .value 5 3]) ∧
      exec .flushDeadlineMiss s = .next { s with tun := { s.tun with flush := some { f with missed := true } } } ∧
      (∀ c ∈ [Instr.flushAbort, .huokFall],
        exec c s = .next { s with phase := .flushed, tun := { s.tun with pcode := 7, done := true }, outbox := .value 5 15 :: s.outbox }))

/-- R505, R506, R508, R510, R511, R533, R538, R22, R270, R512, R516: PWROK's rise counts a power cycle, samples the straps and begins the boot at PHASE 1;
its fall leaves only what Tungsten and the board hold, and a resume that it cuts off as if it had not begun. The release needs PHASE 8 and a finished
hold-up check, writes the resume code and PHASE 9; after a cold start it starts the processors of instance 0 at IP 0 when the boot source says so. The
boot program is installed once its lines can be read, and removed; LOCK stays set. -/
def Obligations.PowerBootAndRelease : Prop :=
  (∀ (s : State) (b : Boot), s.phase = .off → s.vaux = true →
    (b.brassOk = 0 → exec (.pwrokRise b) s = .next { s with boot := some b }) ∧
    (b.brassOk ≠ 0 → ∃ u, exec (.pwrokRise b) s = .next u ∧ u.phase = .boot ∧ fld (u.rg 0x10) 3 0 = 1 ∧ u.boot = some b ∧ u.kept = some s.keep ∧
      u.pew.pcyc = satAdd 24 s.pew.pcyc 1 ∧ u.procs = s.procs ∧ u.ms = s.ms ∧ u.rg 0x18 = b.straps.zeroExtend 48)) ∧
  (∀ (s : State), s.phase ≠ .off → ∀ c ∈ [Instr.pwrokFall, .vauxAbsent], ∃ u, exec c s = .next u ∧ u.phase = .off ∧ u.ms = [] ∧ u.procs = [] ∧ u.clus = [] ∧
    u.tun.img = s.rolledBack.tun.img ∧ u.tun.ring = s.rolledBack.tun.ring ∧ u.tun.flush = s.rolledBack.tun.flush ∧ u.saved = s.rolledBack.saved ∧
    u.led = s.rolledBack.led ∧ (s.kept = none → s.rolledBack = s) ∧ (∀ k, s.kept = some k → s.rolledBack.tun = k.tun ∧ s.rolledBack.led = k.led) ∧
    u.pew.log = s.pew.log ∧ u.bprog = s.bprog ∧ u.vaux = (if c = .vauxAbsent then false else s.vaux)) ∧
  (∀ (s : State), s.vaux = false → exec .vauxPresent s = .next { s with vaux := true, sel := 0 }) ∧
  (∀ (s : State) (x : Source), s.phase = .boot → fld (s.rg 0x10) 3 0 = 8 → s.tun.checking = false → s.tun.src = some x → x.src ≤ 2 → s.icmd = [] →
    ∃ u, exec .processorsReleased s = .next u ∧ u.phase = .run ∧ fld (u.rg 0x10) 3 0 = 9 ∧ fld (u.rg (aTun 0x30)) 3 0 = x.src ∧ u.mstat 0 = true ∧
      u.tun.src = none ∧ u.saved = none ∧ u.kept = none ∧ u.tb = s.tb ∧ (s.bprog = none → u.ms = s.ms) ∧
      (x.src = 0 → s.insts = [] → s.bprog = none → fld (s.rg 0x10) 9 8 = 1 → ∀ p : BitVec 6, s.hasProc p = true → cluOf p < s.part.clusters →
        (u.proc p).run = .running ∧ (u.proc p).ip = 0 ∧ (u.proc p).g = [] ∧ ((u.proc p).seg 15).present = true ∧ ((u.proc p).seg 15).w0 = 0)) ∧
  (∀ (s : State) (a : Via) (v : Word),
    (s.viaReach a 0 = true → v.getLsbD 0 = true → ∃ u, exec (.sysLock a v) s = .next u ∧ u = { s with dev := u.dev } ∧ u.rg 0 = 1) ∧
    (s.viaReach a 0x28 = true → v.getLsbD 17 = false → let n := fld v 13 0
      (n = 0 → s.bpW = none → ∃ u, exec (.bootProgramRemove a v) s = .next u ∧ u = { s with bprog := none, dev := u.dev } ∧ fld (u.rg 0x28) 13 0 = 0) ∧
      (n ≠ 0 → s.bpW.isSome = true ∨ 10922 < n ∨ (s.rg 0x20).toNat % 96 ≠ 0 ∨ s.part.msBytes < (s.rg 0x20).toNat + 96 * n →
        ∃ u, exec (.bootProgramInstall a v) s = .next u ∧ u = { s with dev := u.dev } ∧ (u.rg 0x28).getLsbD 17 = true) ∧
      (n ≠ 0 → s.bpW = none → n ≤ 10922 → (s.rg 0x20).toNat % 96 = 0 → (s.rg 0x20).toNat + 96 * n ≤ s.part.msBytes → NoInjection s →
        let s' := ({ s with bpW := some ((s.rg 0x20).toNat, n) } : State).sg 0x28 (setBit (s.rg 0x28) 16 true)
        ((s'.uncRead (s.rg 0x20).toNat (96 * n) 0x603).1 = none → ∃ u, exec (.bootProgramInstall a v) s = .next u ∧
          u.bpW = some ((s.rg 0x20).toNat, n) ∧ (u.rg 0x28).getLsbD 16 = true ∧ u.bprog = s.bprog ∧ u.ms = s.ms) ∧
        (∀ d z, (s'.uncRead (s.rg 0x20).toNat (96 * n) 0x603).1 = some (d, z) → ∃ u, exec (.bootProgramInstall a v) s = .next u ∧
          u.bpW = none ∧ u.bprog = some { lines := n, data := d, ok := !z } ∧ fld (u.rg 0x28) 13 0 = n ∧ (u.rg 0x28).getLsbD 16 = false ∧
          (∀ p : BitVec 6, (u.proc p).g = (s.proc p).g)))))

/-- R489, R491, R492, R493, R494, R490: the oldest queued record gets the next SEQ and its slot, or is dropped and counted; a full bucket gains nothing, another one token; an anchor
and a note become events of their codes; RCMD reads a slot into RDATA; the checkpoint follows MS, PCYC and SEQ. -/
def Obligations.PewterRecorder : Prop :=
  ∀ (s : State),
    (∀ (r : PRec) (rest : List PRec), s.pewOn = true → s.pew.queue = r :: rest →
      (exec (.pewterRecordWrite false) s = .next { s with pew := { s.pew with queue := rest, dropped := satAdd 24 s.pew.dropped 1 } }) ∧
      (∀ k, s.pew.slotFor r.sev = some k → NoInjection s → ∃ u, exec (.pewterRecordWrite true) s = .next u ∧
        u = { s with pew := u.pew, dev := u.dev, mgmt := u.mgmt } ∧ u.pew.queue = rest ∧ u.pew.seq = s.pew.seq + 1 ∧ u.pew.newest = s.pew.seq + 1 ∧
        u.pew.nslot = k ∧ spGet u.pew.log k = some { r with seq := s.pew.seq + 1, inv := 0 } ∧ (∀ j, j ≠ k → spGet u.pew.log j = spGet s.pew.log j))) ∧
    (∀ (c : BitVec 16) (b : Bucket), s.pewOn = true → spGet s.pew.buckets c.toNat = some b → b.spent ≠ 0 → b.tick + 25000 * (s.rate c.toNat).2 ≤ s.ticks →
      (b.supp = 0 ∨ 1 < b.spent ∨ s.pew.queue.length < 256) → ∃ u, exec (.tokenBucketRefill c) s = .next u ∧ u = { s with pew := u.pew } ∧
        (spGetD {} u.pew.buckets c.toNat).spent = b.spent - 1 ∧
        (b.spent = 1 → b.supp ≠ 0 → ∃ r, u.pew.queue = s.pew.queue ++ [r] ∧ r.code = c ∧ r.supp = min b.supp 0xFFFF) ∧
        (b.supp = 0 ∨ 1 < b.spent → u.pew.queue = s.pew.queue)) ∧
    (∀ (a : Via) (v : Word), s.viaReach a (aPew 0x60) = true → (spGetD {} s.pew.buckets 0x0E01).spent < (s.rate 0x0E01).1 → s.pew.queue.length < 256 →
      ∃ u r, exec (.ancw a v) s = .next u ∧ u = { s with pew := u.pew } ∧ u.pew.queue = s.pew.queue ++ [r] ∧ r.code = 0x0E01 ∧ u.pew.lastAnchor = s.rg (aPew 0x50) ∧
        r.payload = [s.rg (aPew 0x50), s.rg (aPew 0x58), s.pew.lastAnchor] ∧ r.sev = (if (s.rg (aPew 0x50)).toNat < s.pew.lastAnchor.toNat then 2 else 1)) ∧
    (∀ (a : Via) (v : Word), s.viaReach a (aPew 0x80) = true → fld v 7 0 < 2 → exec (.notew a v) s = .next s) ∧
    (∀ (a : Via) (v : Word), s.viaReach a (aPew 0x80) = true → 2 ≤ fld v 7 0 → (spGetD {} s.pew.buckets (0x0E00 + fld v 7 0)).spent < (s.rate (0x0E00 + fld v 7 0)).1 →
      s.pew.queue.length < 256 → ∃ u r, exec (.notew a v) s = .next u ∧ u = { s with pew := u.pew } ∧ u.pew.queue = s.pew.queue ++ [r] ∧
        r.code = BitVec.ofNat 16 (0x0E00 + fld v 7 0) ∧ r.sev = BitVec.ofNat 2 (fld v 9 8) ∧
        r.payload = [s.rg (aPew 0x68), s.rg (aPew 0x70), s.rg (aPew 0x78)]) ∧
    (∀ (a : Via) (v : Word), s.viaReach a (aPew 0x90) = true → v.getLsbD 0 = true → ∃ u, exec (.rcmd a v) s = .next u ∧ u = { s with dev := u.dev } ∧
      ∀ i : Nat, i < 8 → u.rg (aPew (0x140 + 8 * i)) = match spGet s.pew.log (fld (s.rg (aPew 0x88)) 15 0) with
        | some r => leWord ((r.bytes.drop (6 * i)).take 6)
        | none => 0) ∧
    (s.pewOn = true → s.pew.ck.1 + 1000 ≤ s.pew.ms →
      exec .checkpointTick s = .next { s with pew := { s.pew with ck := (s.pew.ms, s.pew.pcyc, s.pew.seq) } })

/-- R498, R499, R503, R504, R518, R539: a processor that does not run takes a new clock setting at once, below the throttle limit, one that runs
stops for it at its next interruptible boundary and goes on when its island has relocked; a
reference lost is recorded and its bit falls; a core island's reset empties its L1 caches; a crossing that does not re-arm is an error. -/
def Obligations.ClocksAndIslands : Prop :=
  ∀ (s : State),
    (∀ (a : Via) (p : BitVec 6) (v : Word), s.viaReach a (aClk (0x1000 + 8 * p.toNat)) = true → s.hasProc p = true →
      let set := fld v 5 0
      (¬ (10 ≤ set ∧ set ≤ 40) → exec (.clkProcSet a p v) s = .next s) ∧
      (10 ≤ set → set ≤ 40 → (s.proc p).run ≠ .running → ∃ u, exec (.clkProcSet a p v) s = .next u ∧
        EventOnly { s with procs := u.procs } u ∧ fld (u.clkReg p.toNat) 5 0 = set ∧ fld (u.clkReg p.toNat) 13 8 = min set (s.thrLimit p.toNat) ∧
        (u.clkReg p.toNat).getLsbD 16 = false ∧ (u.proc p).g = (s.proc p).g)) ∧
    (∀ (a : Via) (p : BitVec 6) (v : Word), s.viaReach a (aClk (0x1000 + 8 * p.toNat)) = true → s.hasProc p = true → 10 ≤ fld v 5 0 → fld v 5 0 ≤ 40 →
      (s.proc p).run = .running → (s.proc p).relock = none → ∃ u, exec (.clkProcSet a p v) s = .next u ∧ u = { s with dev := u.dev, procs := u.procs } ∧
        fld (u.clkReg p.toNat) 5 0 = fld v 5 0 ∧ (u.clkReg p.toNat).getLsbD 16 = true ∧ fld (u.clkReg p.toNat) 13 8 = fld (s.clkReg p.toNat) 13 8 ∧
        (u.proc p).relock = (if (s.proc p).paused.isNone ∧ (s.proc p).interruptible = true then some (v.extractLsb' 0 6) else none) ∧ (u.proc p).g = (s.proc p).g) ∧
    (∀ (p : BitVec 6) (x : BitVec 6), (s.proc p).relock = some x → ∃ u, exec (.clockRelockComplete p) s = .next u ∧
      EventOnly { s with procs := u.procs } u ∧ fld (u.clkReg p.toNat) 13 8 = min x.toNat (s.thrLimit p.toNat) ∧ (u.proc p).relock = none ∧
      (u.clkReg p.toNat).getLsbD 16 = false ∧ (u.proc p).g = (s.proc p).g ∧ (u.proc p).ip = (s.proc p).ip) ∧
    (∀ r : RefClk, s.phase = .boot → (s.rg (aClk 0)).getLsbD (refNominal r).2 = true → (r = .cxl → fld (s.rg (aCxl 0x10)) 4 0 = 0) → (r = .mbv → s.links = [] ∧ ∀ l, l < s.part.links → s.linkState l = 0) →
      ∃ u, exec (.referenceClockLoss r 0) s = .next u ∧ EventOnly { s with refLost := satAdd 24 s.refLost 1 } u ∧ (u.rg (aClk 0)).getLsbD (refNominal r).2 = false) ∧
    (∀ n : Nat, s.brassOn = true → n < 9 * s.part.clusters → ∃ u, exec (.islandReset (.core n)) s = .next u ∧ (u.core n).dc = [] ∧ (u.core n).ic = [] ∧
      u.rearms = satAdd 24 s.rearms 1 ∧ u.ms = s.ms ∧ u.clus = s.clus) ∧
    (∀ k : BitVec 3, s.phase = .run → k.toNat < s.part.clusters → ∃ u, exec (.crossingRearmTimeout (.hub k)) s = .next u ∧ u.phase = .fatal ∧ u.tun.final.isSome = true)

/-- R524, R527, R528, R529, R531, R534, R535, R537: a read of the management space answers its word, a write sets TRCTL, clears ALERT bits (bit 1 stands while a core is throttled) or sets their mask; a
trace frame carries the oldest queued record, a gap once there is room, in FATAL the fault; a sensor at its warning threshold sets ALERT bit 0; a rail out of tolerance sets ALERT bit 2 and is recorded. PERST with a link up is a
surprise removal, which holds the rings. -/
def Obligations.SidebandAndSensors : Prop :=
  ∀ (s : State),
    (s.mdioOn = true → ∀ a : BitVec 12, exec (.managementRead a) s = .next { s with outbox := .value 4 (s.mgmtGet a.toNat).toNat :: s.outbox }) ∧
    (s.mdioOn = true → s.phase ≠ .fatal → ∀ v : BitVec 16,
      (∃ u, exec (.managementWrite 0x40 v) s = .next u ∧ u = { s with mgmt := u.mgmt } ∧ u.mgmt.trctl = v.extractLsb' 0 3 ∧ u.mgmt.alert = s.mgmt.alert ∧
        (v.getLsbD 0 = false → u.mgmt.trq = [] ∧ u.mgmt.gap = none)) ∧
      (∃ al, exec (.managementWrite 0x41 v) s = .next { s with mgmt := { s.mgmt with alert := al } } ∧
        ∀ i : Nat, al.getLsbD i = (s.mgmt.alert.getLsbD i && (!v.getLsbD i || (decide (i = 1) && !s.mgmt.thr.isEmpty)))) ∧
      exec (.managementWrite 0x42 v) s = .next { s with mgmt := { s.mgmt with almask := v } }) ∧
    (s.mdioOn = true → s.phase ≠ .fatal → s.mgmt.trctl.getLsbD 0 = true → s.mgmt.gap = none →
      (s.mgmt.trq = [] → exec .traceFrame s = .next { s with outbox := .trace (frame 0 []) :: s.outbox }) ∧
      (∀ r rest, s.mgmt.trq = r :: rest →
        exec .traceFrame s = .next { s with mgmt := { s.mgmt with trq := rest }, outbox := .trace (frame 1 r.bytes) :: s.outbox })) ∧
    (s.mdioOn = true → s.mgmt.trctl.getLsbD 0 = true →
      (s.phase = .fatal → exec .traceFrame s = .next { s with outbox := .trace (frame 3 (wordLe (s.rg (aBrs 0x838)) ++ wordLe s.tb)) :: s.outbox }) ∧
      (∀ n t, s.phase ≠ .fatal → s.mgmt.gap = some (n, t) → s.mgmt.trq.length < 64 → exec .traceFrame s =
        .next { s with mgmt := { s.mgmt with gap := none }, outbox := .trace (frame 2 (natLe 6 n ++ natLe 6 t ++ natLe 6 s.pew.ms)) :: s.outbox })) ∧
    (∀ r : Sensors, s.mdioOn = true → s.mgmt.thr = [] → (∀ g, g < 12 → r.temp.getD g 0 < (tempLimits g).1) →
      ∃ u, exec (.sensorRead r) s = .next u ∧ u = { s with mgmt := u.mgmt } ∧ u.mgmt.temp = r.temp ∧ u.mgmt.volt = r.volt ∧ u.mgmt.curr = r.curr ∧
        u.mgmt.alert = (if r.volt.getD 5 0 < 11400 then setBit s.mgmt.alert 3 true else s.mgmt.alert)) ∧
    (∀ (r : Sensors) (t : Int), s.mdioOn = true → r.temp = [0, 0, t] → 400 ≤ t → t < 440 → s.mgmt.warm = [] → s.mgmt.thr = [] →
      ∃ u, exec (.sensorRead r) s = .next u ∧ u.mgmt.alert.getLsbD 0 = true ∧ u.phase = s.phase ∧ u.ms = s.ms ∧ u.procs = s.procs) ∧
    (∀ (rail : BitVec 3) (nom tol mv us : Nat), railNominal rail.toNat = some (nom, tol) → s.phase = .run →
      ((nom * tol < 100 * (mv - nom) ∨ nom * tol < 100 * (nom - mv)) → ∃ u, exec (.railOutOfTolerance rail mv us) s = .next u ∧
        EventOnly { s with mgmt := { s.mgmt with alert := setBit s.mgmt.alert 2 true } } u) ∧
      (¬ (nom * tol < 100 * (mv - nom) ∨ nom * tol < 100 * (nom - mv)) → exec (.railOutOfTolerance rail mv us) s = .next s)) ∧
    (s.cxlLive = true → fld (s.rg (aCxl 0x10)) 4 0 ≠ 0 → s.mstat 1 = false → s.bisnp = [] → ∃ u, exec .perst s = .next u ∧ u.mstat 1 = true ∧ u.mstat 2 = false ∧
      u.ms = s.ms ∧ u.procs = s.procs ∧ u.cxl.detach = none ∧ (∀ q, q < 1024 → s.rpEn q = true → (u.rp q).held.getLsbD 0 = true)) ∧
    (s.cxlLive = false ∨ fld (s.rg (aCxl 0x10)) 4 0 = 0 → exec .perst s = .next s)

/-- R302, R304, R306, R307, R310, R312, R342: a doorbell reaches the ring pair behind its page, or none. SQPI takes a value within the ring, CQCI one up to CQPI, another value is ring error 1 or 3 and
leaves the index; a slot's data arrives once and is kept for acceptance, a slot that stays out for 2 µs is ring error 2. A ring pair is
enabled with its indices at zero, disabled only without an unretired entry. -/
def Obligations.RingDoorbellsAndFetches : Prop :=
  ∀ (s : State) (q : BitVec 10),
    let r := s.rp q.toNat
    let others (u : State) : Prop := ∀ j, j ≠ q.toNat → u.rp j = s.rp j
    (∀ (fn : BitVec 6) (page : BitVec 10) (v : BitVec 32),
      (s.pageRing fn.toNat page.toNat = none → exec (.sqpi fn page v) s = .next s ∧ exec (.cqci fn page v) s = .next s) ∧
      (s.pageRing fn.toNat page.toNat = some q.toNat →
        (s.rpEn q.toNat = true → r.held = 0 → r.err = false →
          ((v - r.sqpi).toNat ≤ (r.sqfp + BitVec.ofNat 32 (ringSize (s.sqb q.toNat)) - r.sqpi).toNat → raSize (s.ra q.toNat) ≠ 0 →
            ∃ u, exec (.sqpi fn page v) s = .next u ∧ u = { s with rps := u.rps } ∧ (u.rp q.toNat).sqpi = v ∧ (u.rp q.toNat).sqfp = r.sqfp ∧ others u) ∧
          ((r.sqfp + BitVec.ofNat 32 (ringSize (s.sqb q.toNat)) - r.sqpi).toNat < (v - r.sqpi).toNat →
            ∃ u, exec (.sqpi fn page v) s = .next u ∧ EventOnly { s with rps := u.rps } u ∧ (u.rp q.toNat).sqpi = r.sqpi ∧ (u.rp q.toNat).err = true ∧
              (u.rp q.toNat).code = 1 ∧ (u.rp q.toNat).stopF = true ∧ others u)) ∧
        (r.held.getLsbD 1 = false → r.held.getLsbD 2 = false →
          ((v - r.cqci).toNat ≤ (r.cqpi - r.cqci).toNat → ∃ u, exec (.cqci fn page v) s = .next u ∧ (u.rp q.toNat).cqci = v ∧
            (u.rp q.toNat).held.getLsbD 0 = false ∧ (u.rp q.toNat).cqpi = r.cqpi ∧ others u ∧ u.led = s.led ∧ u.ms = s.ms ∧ u.procs = s.procs) ∧
          ((r.cqpi - r.cqci).toNat < (v - r.cqci).toNat → ∃ u, exec (.cqci fn page v) s = .next u ∧ EventOnly { s with rps := u.rps } u ∧
            (u.rp q.toNat).cqci = r.cqci ∧ (u.rp q.toNat).err = true ∧ others u)))) ∧
    (∀ (idx : BitVec 32) (data : List Byte), s.mayFetch q.toNat = true → r.covered idx = true → (r.got.any fun x => x.1 = idx) = false →
      (s.cxl.dcache.any fun x => x.1 = s.slotLine q.toNat idx) = false →
      (∃ u, exec (.descriptorFetchComplete q idx data false) s = .next u ∧ u = { s with rps := u.rps, cxl := u.cxl } ∧
        (u.rp q.toNat).got = r.got ++ [(idx, (List.range 64).map fun i => data.getD i 0)] ∧
        (s.slotLine q.toNat idx, (List.range 64).map fun i => data.getD i 0) ∈ u.cxl.dcache ∧ others u) ∧
      (∃ u, exec (.descriptorFetchComplete q idx data true) s = .next u ∧ EventOnly { s with rps := u.rps } u ∧ (u.rp q.toNat).got = r.got ∧
        (u.rp q.toNat).err = true ∧ (u.rp q.toNat).stopF = true ∧ others u)) ∧
    (∀ i : Nat, ((List.range 32).find? fun i => r.covered (r.sqfp + BitVec.ofNat 32 i) && !(r.got.any fun x => decide (x.1 = r.sqfp + BitVec.ofNat 32 i))) = some i →
      s.mayFetch q.toNat = true →
      (r.ftick + 50 ≤ s.ticks → ∃ u, exec (.descriptorFetchTimeout q) s = .next u ∧ EventOnly { s with rps := u.rps } u ∧ (u.rp q.toNat).err = true ∧
        (u.rp q.toNat).stopF = true ∧ others u) ∧
      (s.ticks < r.ftick + 50 → exec (.descriptorFetchTimeout q) s = .next s)) ∧
    (∀ v : Word, s.viaReach .pf (aCxl (0x10000 + 16 * q.toNat)) = true →
      (s.rpEn q.toNat = false → s.reptWaits q.toNat = false → fld v 43 40 ≤ 10 → ∃ u, exec (.ringPairEnable .pf q v) s = .next u ∧ u.rpEn q.toNat = true ∧
        fld (u.sqb q.toNat) 39 0 = fld v 39 0 ∧ ringSize (u.sqb q.toNat) = 64 * 2 ^ fld v 43 40 ∧ (u.rp q.toNat).sqpi = 0 ∧ (u.rp q.toNat).cqpi = 0 ∧
        (u.rp q.toNat).cqci = 0 ∧ (u.rp q.toNat).err = false ∧ (u.rp q.toNat).enSeq = r.nextSeq ∧ others u ∧ u.led = s.led) ∧
      (s.rpEn q.toNat = true → (s.unretired q.toNat = false → ∃ u, exec (.ringPairDisable .pf q v) s = .next u ∧ u.rpEn q.toNat = false ∧ others u ∧ u.led = s.led) ∧
        (s.unretired q.toNat = true → exec (.ringPairDisable .pf q v) s = .next s)))

/-- R308, R309, R311, R312, R337: the next completion is written with its phase bit to the slot of its index while the ring has room; GO makes it visible, in order; a write without GO for 2 µs is
ring error 4 and is made again; a threshold reached signals the vector. -/
def Obligations.CompletionsReachTheHost : Prop :=
  ∀ (s : State) (q : BitVec 10),
    let r := s.rp q.toNat
    let others (u : State) : Prop := ∀ j, j ≠ q.toNat → u.rp j = s.rp j
    (∀ (n : Nat) (e : LEnt), s.mayPost q.toNat = true → r.wrs = [] → (r.cqpi - r.cqci).toNat < ringSize (s.cqb q.toNat) →
      ((s.entsOf q.toNat).find? fun x => x.2.st = .done ∧ x.2.cidx = r.cqpi ∧ r.enSeq ≤ x.1 ∧ x.2.wait = false) = some (n, e) →
      let size := ringSize (s.cqb q.toNat)
      let sent : List Out := [.hostWrite (fld (s.cqb q.toNat) 39 0 * 4096 + 64 * (r.cqpi.toNat % size)) (phased e.comp r.cqpi size)]
      ∃ u, exec (.completionWrite q) s = .next u ∧ u = { s with rps := u.rps, outbox := sent ++ s.outbox } ∧
        (u.rp q.toNat).wrs = [{ idx := r.cqpi, tick := s.ticks, go := false }] ∧ others u) ∧
    (s.phase = .run → ∀ w : CWr, r.wrs = [w] → w.go = false →
      (w.idx = r.cqpi → s.mirSync = false → ∃ u, exec (.completionGo q w.idx) s = .next u ∧ (u.rp q.toNat).cqpi = r.cqpi + 1 ∧ (u.rp q.toNat).cqci = r.cqci ∧
        others u ∧ u.led = s.led ∧ u.ms = s.ms ∧ u.procs = s.procs) ∧
      (w.tick + 50 ≤ s.ticks → ∃ u, exec (.completionGoTimeout q) s = .next u ∧ EventOnly { s with rps := u.rps } u ∧ (u.rp q.toNat).wrs = [] ∧
        (u.rp q.toNat).err = true ∧ (u.rp q.toNat).stopP = true ∧ (u.rp q.toNat).cqpi = r.cqpi ∧ others u) ∧
      (s.ticks < w.tick + 50 → exec (.completionGoTimeout q) s = .next s)) ∧
    (s.phase = .run → r.irq.getLsbD 11 = true → fld r.irq 10 0 ≠ 0 → r.visN ≠ 0 → max 1 (fld r.irq 19 12) ≤ r.visN →
      ∃ u, exec (.completionInterruptTimer q) s = .next u ∧ u = { s with rps := u.rps, outbox := u.outbox, cxl := u.cxl } ∧ (u.rp q.toNat).visN = 0 ∧ others u)

/-- R317, R213, R214, R212, R318, R319: each request of the host to the main store becomes the coherence requests of the host for the lines it touches, one after the other, and is answered
when the last is done; the lower of two stays busy until then. A write takes its lines' image-dirty bits first. MemSpecRd does nothing; an opcode or field without an action is
answered Cmp and recorded, as are the MetaValues that R317 lists with no action (the model's choice of log 36). -/
def Obligations.HostMemoryRequests : Prop :=
  (∀ (s : State) (h r l : Nat) (rest : List Nat), s.phase = .run → s.mstat 2 = true → s.mstat 1 = false → s.stalling = false → s.hdmLine h = some r →
    hostLines r = l :: rest →
    let asks (x : Res) (kind : MK) : Prop := ∃ u, x = .next u ∧ u = { s with net := u.net, cxl := u.cxl } ∧
      u.net = s.net ++ [{ src := .ag .host, dst := s.homeNode l, kind := kind, line := l, req := .host }] ∧ u.cxl.reqs.length = s.cxl.reqs.length + 1
    let part (bytes : List Host.Cell) : List Host.Cell := ((bytes.map fun x => (64 * r + x.1, x.2)).filter fun x => x.1 / 96 = l).map fun x => (x.1 % 96, x.2)
    let writes (x : Res) (kind : MK) (bytes : List Host.Cell) (p : Bool) : Prop := ∃ u, x = .next u ∧ u = { s with net := u.net, cxl := u.cxl, dbits := u.dbits, peakD := u.peakD } ∧
      u.net = s.net ++ [{ src := .ag .host, dst := s.homeNode l, kind := kind, line := l, req := .host, pois := p, bytes := part bytes }] ∧ u.dirtyD l = true
    asks (exec (.memrd h .noop) s) .rdU ∧ asks (exec (.memrd h .i) s) .rdU ∧ asks (exec (.memrd h .s) s) .rdS ∧ asks (exec (.memrd h .a) s) .rdX ∧
    asks (exec (.memrddata h .noop) s) .rdS ∧ asks (exec (.memrddata h .s) s) .rdS ∧ asks (exec (.meminv h .a) s) .rdX ∧ asks (exec (.meminv h .i) s) .evC ∧
    asks (exec (.memclnevct h) s) .evC ∧
    (s.dirtyD l = true ∨ s.dbits.length < mibLines s.effMib → ∀ (mv : Meta) (data : List Byte) (mask : BitVec 64) (p : Bool),
      writes (exec (.memwr h mv data p) s) (hostWriteKind mv r s) ((List.range 64).map fun i => (i, data.getD i 0)) p ∧
      writes (exec (.memwrptl h mv data mask p) s) (hostWriteKind mv r s)
        (((List.range 64).filter fun i => mask.getLsbD i).map fun i => (i, data.getD i 0)) p)) ∧
  (∀ (s : State) (h : Nat), exec (.memspecrd h) s = .next s ∧
    (s.phase = .run → s.mstat 2 = true → s.mstat 1 = false → ∀ op : BitVec 8, ∃ u, exec (.unsupportedMemRequest op h) s = .next u ∧
      u = { s with outbox := .memAnswer h 0 [] false :: s.outbox, pew := u.pew }) ∧
    (∀ mv : Meta, (mv = .i ∨ mv = .a → exec (.memrddata h mv) s = exec (.unsupportedMemRequest 2 h) s) ∧
      (mv = .noop ∨ mv = .s → exec (.meminv h mv) s = exec (.unsupportedMemRequest 0 h) s))) ∧
  (∀ (s : State) (l : Nat) (m : Msg) (net : List Msg) (r : HReq), s.lineOk l = true → s.phase = .run →
    takeMsg (fun m => decide (m.line = l) && decide (m.dst = .ag .host) && (match m.kind with | .data _ | .done => true | _ => false)) [] s.net = some (m, net) →
    s.hostReqOf l = some r → r.todo = [] → r.acks + m.acks = 0 →
    let got := mergeCells r.got (cellsAt (96 * l) m.data)
    ∃ u, exec (.dataGrant l .host) s = .next u ∧ u = { s with net := u.net, cxl := u.cxl, outbox := u.outbox } ∧
      u.outbox = .memAnswer (s.hostNo r.h) r.resp (if r.resp = 1 ∨ r.resp = 2 ∨ r.resp = 3 then (List.range 64).map fun i => (spGet got (64 * r.h + i)).getD 0 else [])
        (r.gotP || m.pois) :: s.outbox) ∧
  (∀ (s : State) (l j : Nat) (m : Msg) (net : List Msg) (r : HReq) (rest : List Nat), s.lineOk l = true → l ≠ j →
    takeMsg (fun m => decide (m.line = l) && decide (m.dst = .ag .host) && (match m.kind with | .data _ | .done => true | _ => false)) [] s.net = some (m, net) →
    s.hostReqOf l = some r → r.todo = j :: rest → r.writes = false → r.acks + m.acks = 0 →
    ∃ u, exec (.dataGrant l .host) s = .next u ∧ u = { s with net := u.net, cxl := u.cxl, dir := u.dir } ∧
      u.net = net ++ [{ src := .ag .host, dst := s.homeNode j, kind := r.kind, line := j, req := .host, pois := r.pois,
                        bytes := (r.bytes.filter fun x => x.1 / 96 = j).map fun x => (x.1 % 96, x.2) }] ∧
      (m.kind = .done ∨ (m.kind = .data .none ∧ m.op = false) → (u.dirOf l).opens = (s.dirOf l).opens + 1))

/-- R297, R298, R316, R321, R322, R324, R325, R498: a snoop answers from the device cache, the HDM decoder commits at a multiple of 256 MiB, a link that trains is recorded, and none trains without its reference clock (R498); GPF phase 1 is answered once every write issued
before it has its GO; a detach holds every enabled ring and begins, an attach lets the rings go on from SQFP, a removal detaches at once. -/
def Obligations.LinkAndAttachment : Prop :=
  ∀ (s : State),
    (∀ (h : Nat) (d : List Byte), (s.cxl.dcache.find? fun x => x.1 = h) = some (h, d) →
      (∃ u, exec (.hostSnoop .inv h) s = .next u ∧ u = { s with cxl := u.cxl, outbox := .memAnswer h 17 [] false :: s.outbox } ∧ (u.cxl.dcache.find? fun x => x.1 = h) = none) ∧
      exec (.hostSnoop .data h) s = .next { s with outbox := .memAnswer h 18 [] false :: s.outbox } ∧
      exec (.hostSnoop .cur h) s = .next { s with outbox := .memAnswer h 19 d false :: s.outbox }) ∧
    (∀ h : Nat, (s.cxl.dcache.find? fun x => x.1 = h) = none → ∀ k, exec (.hostSnoop k h) s = .next { s with outbox := .memAnswer h 16 [] false :: s.outbox }) ∧
    (∀ b : Nat, s.mstat 0 = true → s.mstat 1 = false → s.phase = .run →
      (b % 2 ^ 28 = 0 → ∃ u, exec (.hdmCommit b) s = .next u ∧ u.cxl.hdm = b / 2 ^ 28 ∧ u.mstat 3 = true ∧ u = { s with cxl := u.cxl, dev := u.dev, outbox := u.outbox }) ∧
      (b % 2 ^ 28 ≠ 0 → exec (.hdmCommit b) s = .next { s with cxl := { s.cxl with base := b }, outbox := .value 2 0 :: s.outbox })) ∧
    (s.phase = .run → s.mstat 2 = true → (s.goAwaited s.ticks = false →
        exec .gpfPhase1 s = .next { s with cxl := { s.cxl with gpf := true, gpfW := none }, outbox := .value 3 1 :: s.outbox }) ∧
      (s.goAwaited s.ticks = true → exec .gpfPhase1 s = .next { s with cxl := { s.cxl with gpf := true, gpfW := some s.ticks } })) ∧
    exec .gpfPhase2 s = .next s ∧
    (∀ (w : BitVec 5) (rate : BitVec 3) (flit : BitVec 2), s.refOk .cxl = false → exec (.linkTrained w rate flit) s = .next s) ∧
    (∀ (w : BitVec 5) (rate : BitVec 3) (flit : BitVec 2), s.refOk .cxl = true → s.phase = .run → w ≠ 0 → rate ≠ 0 → s.mstat 1 = false → ∃ u, exec (.linkTrained w rate flit) s = .next u ∧
      EventOnly s u ∧ u.mstat 2 = decide (8 ≤ w.toNat ∧ 5 ≤ rate.toNat) ∧ u.cxl.gpf = false ∧ fld (u.rg (aCxl 0x10)) 4 0 = w.toNat ∧
      fld (u.rg (aCxl 0x10)) 7 5 = rate.toNat) ∧
    (∀ a : Via, s.viaReach a (aCxl 0) = true →
      (s.mstat 1 = false → s.cxl.detach = none → ∃ u, exec (.detach a) s = .next u ∧ u = { s with rps := u.rps, cxl := u.cxl } ∧
        u.cxl.detach = some (s.ticks, none) ∧ (∀ q, q < 1024 → s.rpEn q = true → (u.rp q).held.getLsbD 0 = true)) ∧
      (s.mstat 1 = true → s.mstat 2 = true → ∃ u, exec (.attach a) s = .next u ∧ u.mstat 1 = false ∧ u.mstat 0 = true ∧ u.ms = s.ms ∧ u.procs = s.procs ∧
        (∀ q, q < 1024 → s.rpEn q = true → (u.rp q).sqpi = (s.rp q).sqfp ∧ (u.rp q).held.getLsbD 0 = true ∧ (u.rp q).resumed = true))) ∧
    (∀ viral : Bool, s.phase = .run → viral = true ∨ fld (s.rg (aCxl 0x10)) 4 0 ≠ 0 → s.mstat 1 = false → s.bisnp = [] → ∃ u,
      exec (.surpriseRemoval viral) s = .next u ∧ u.mstat 1 = true ∧ u.mstat 2 = (viral && s.mstat 2) ∧
      u.cxl.detach = none ∧ u.ms = s.ms ∧ u.procs = s.procs ∧ (∀ q, q < 1024 → s.rpEn q = true → (u.rp q).held.getLsbD 0 = true))

/-- R339, R343, R344, R332, R348, R349, R360, R366: the next fetched descriptor of a ring pair becomes an ACCEPTED entry with the next sequence number, and SQFP moves past it; one of bad form is DONE
with FORMAT_ERROR at once. An acknowledgement ends what its write waited for; a write that stays out breaks the mirror; a mirror that has
caught up is whole; MODE 3 is not taken. A missed deadline of an unfinished entry is recorded once. -/
def Obligations.LedgerEntriesAndMirror : Prop :=
  (∀ (s : State) (q : BitVec 10) (idx : BitVec 32) (d : List Byte),
    let r := s.rp q.toNat
    (r.got.find? fun x => x.1 = r.acc) = some (idx, d) → s.phase = .run → s.rpEn q.toNat = true → s.mirMode = 0 → s.mirResync = false → raSize (s.ra q.toNat) ≠ 0 →
    s.slotFree q.toNat r.nextSeq = true → r.held = 0 → NoInjection s → r.nextSeq < 2 ^ 48 → descDle d = false →
    ∃ u e, exec (.descriptorAccept q) s = .next u ∧ u.ent q.toNat r.nextSeq = some e ∧ e.sidx = idx ∧ e.tacc = s.tb ∧ e.desc = d ∧ e.addr = s.slotAddr q.toNat r.nextSeq ∧
      (u.rp q.toNat).nextSeq = r.nextSeq + 1 ∧ (u.rp q.toNat).sqfp = idx + 1 ∧ (u.rp q.toNat).acc = r.acc + 1 ∧ u.ms = s.ms ∧ u.procs = s.procs ∧
      (s.descOk d = true → e.st = .accepted) ∧ (s.descOk d = false → e.st = .done ∧ e.cidx = r.nidx ∧ e.comp.head? = some 4) ∧
      (∀ j, j ≠ q.toNat → u.rp j = s.rp j)) ∧
  (∀ (s : State) (m : MirW) (e : LEnt), (s.mirw.find? fun x => x.tag = m.tag) = some m → m.ring = false → spGet s.led m.key = some e → e.wait = true → e.st ≠ .accepted →
    ∃ u, exec (.mirrorWriteAck m.tag) s = .next u ∧ u = { s with mirw := u.mirw, led := u.led } ∧ u.mirw = s.mirw.filter (fun x => x.tag ≠ m.tag) ∧
      spGet u.led m.key = some { e with wait := false } ∧ (∀ k, k ≠ m.key → spGet u.led k = spGet s.led k)) ∧
  (∀ (s : State),
    ((s.mirw.any fun m => m.tick + 500 ≤ s.ticks) = false → exec .mirrorBreak s = .next s) ∧
    ((s.mirw.any fun m => m.tick + 500 ≤ s.ticks) = true → (s.mirw.all fun m => m.ring && (s.rp m.key).cqpiW.isNone) = true →
      (s.led.any fun x => x.2.wait) = false → ∃ u, exec .mirrorBreak s = .next u ∧
      EventOnly { s with mirw := [] } u ∧ u.mirBroken = true ∧ u.mirResync = false) ∧
    (∀ (a : Via) (v : Word), s.viaReach a (aElc 0) = true →
      (fld v 15 14 = 3 → ∃ u, exec (.mirWrite a v) s = .next u ∧ u = { s with dev := u.dev } ∧ u.mirMode = s.mirMode ∧ (u.rg (aElc 0)).getLsbD 16 = v.getLsbD 16) ∧
      (fld v 15 14 = 1 ∨ fld v 15 14 = 2 → s.mirMode ≠ 0 → s.mirBroken = false → s.mirResync = false → ∃ u, exec (.mirWrite a v) s = .next u ∧ u = { s with dev := u.dev } ∧
        u.mirMode = fld v 15 14 ∧ fld (u.rg (aElc 0)) 13 0 = fld (s.rg (aElc 0)) 13 0) ∧
      (fld v 15 14 = 0 → s.mirw = [] → (s.led.any fun x => x.2.wait) = false → ∃ u, exec (.mirWrite a v) s = .next u ∧ u = { s with dev := u.dev } ∧ u.mirMode = 0 ∧ u.mirBroken = false)) ∧
    (s.mirResync = true → (s.mirw.any fun m => m.sync) = false → ∃ u, exec .resyncComplete s = .next u ∧ EventOnly s u ∧ u.mirResync = false ∧ u.mirBroken = false) ∧
    (s.phase = .run → spRising none s.led = true → ∃ u, exec .deadlineCheck s = .next u ∧ EventOnly { s with led := u.led } u ∧
      (∀ k e, spGet s.led k = some e → spGet u.led k = some (if e.timer = true ∧ e.late = false ∧ e.missed s.tb = true ∧ (e.st = .accepted ∨ e.st = .started) then
        { e with late := true } else e))))

/-- R351, R352, R353, R355, R356, R357: RESV gives the lowest free slot, COMMIT makes a reserved slot an item, READ takes the first item in the order of urgency, priority and age and holds it, REWIND gives the items
held since MARK back, RELEASE frees the held ones; a disabled queue holds nothing, and an item past its age is urgent. -/
def Obligations.InternalQueues : Prop :=
  ∀ (s : State) (a : Client) (i : BitVec 9),
    let k := s.queue i.toNat
    let only (u : State) : Prop := u = { s with qs := u.qs, outbox := u.outbox } ∧ ∀ j, j ≠ i.toNat → u.queue j = s.queue j
    (s.qReach a i.toNat 0x10 = true → s.qEn i.toNat = true → ∀ n, ((List.range (s.qSlots i.toNat)).find? fun n => !k.used n) = some n →
      ∃ u, exec (.resv a i) s = .next u ∧ only u ∧ u.outbox = .value 1 (65536 + n) :: s.outbox ∧
        u.queue i.toNat = { k with resv := k.resv ++ [⟨n, clientMaster a, s.clientRing a⟩] }) ∧
    (s.qReach a i.toNat 0x18 = true → s.qEn i.toNat = true → s.qEng i.toNat = false → ∀ v : Word,
      ((k.resv.any fun r => r.slot = fld v 15 0 ∧ r.master = clientMaster a) = true → v.getLsbD 23 = false → ∃ u x, exec (.commit a i v) s = .next u ∧
        u = { s with qs := u.qs, dev := u.dev, commits := s.commits + 1 } ∧ (u.queue i.toNat).items = k.items ++ [x] ∧ x.slot = fld v 15 0 ∧ x.prio = v.extractLsb' 20 3 ∧
        x.tick = s.tb.toNat ∧ x.urg = false ∧ (u.queue i.toNat).resv = k.resv.filter (fun r => decide (r.slot ≠ fld v 15 0)) ∧ (k.items ≠ [] → u.dev = s.dev)) ∧
      ((k.resv.any fun r => r.slot = fld v 15 0 ∧ r.master = clientMaster a) = false → ∃ u, exec (.commit a i v) s = .next u ∧ u = { s with pew := u.pew })) ∧
    (s.qReach a i.toNat 0x20 = true → s.qEn i.toNat = true → s.qEng i.toNat = false → ∀ x, firstItem k.items = some x →
      ∃ u v, exec (.read a i) s = .next u ∧ only u ∧ u.outbox = .value 1 v :: s.outbox ∧ v % 65536 = x.slot % 65536 ∧ 2 ^ 47 ≤ v ∧ (u.queue i.toNat).items = k.items.erase x ∧
        (u.queue i.toNat).held = k.held ++ [x]) ∧
    (s.qReach a i.toNat 0x28 = true →
      (∃ u, exec (.mark a i) s = .next u ∧ only u ∧ u.queue i.toNat = { k with mark := k.held.length }) ∧
      (∃ u, exec (.release a i) s = .next u ∧ only u ∧ u.queue i.toNat = { k with held := [], mark := 0 }) ∧
      (∃ u, exec (.rewind a i) s = .next u ∧ u = { s with qs := u.qs, dev := u.dev } ∧ (u.queue i.toNat).held = k.held.take k.mark ∧
        (∀ x, x ∈ (u.queue i.toNat).items ↔ x ∈ k.items ∨ x ∈ k.held.drop k.mark))) ∧
    (s.qReach a i.toNat 8 = true → ∃ u, exec (.queueDisable a i) s = .next u ∧ u = { s with qs := u.qs, dev := u.dev } ∧ u.qEn i.toNat = false ∧
      (u.queue i.toNat).items = [] ∧ (u.queue i.toNat).held = [] ∧ (u.queue i.toNat).resv = []) ∧
    (s.phase = .run → s.qs = [(i.toNat, k)] → s.led = [] → s.qEn i.toNat = true → ∃ u, exec .queueAgingCheck s = .next u ∧
      (u.queue i.toNat).items = k.items.map (fun x => if fld (s.qCfg i.toNat) 32 13 ≠ 0 ∧ 25 * fld (s.qCfg i.toNat) 32 13 < s.tb.toNat - x.tick then { x with urg := true } else x) ∧
      (u.queue i.toNat).held = k.held ∧ u.ms = s.ms ∧ u.procs = s.procs)

/-- R7, R369, R373, R374, R375, R376, R378: what each field of a microword does once. The ALU's and the shifter's results wait for the word's end; a mover operation joins those in
progress over at most 6,144 bytes; a port operation joins those whose result is pending, with status 4 where its queue is off and 0x0C, with no output, where its unit is absent. -/
def Obligations.MicrowordFields : Prop :=
  ∀ (s t : State) (e : BitVec 4) (w : Mw) (p : Prog), WordReady s e w t p →
    let a := p.r w.asa
    let b := if w.aimm then BitVec.ofNat 64 w.lit else p.r w.asb
    let x := p.r w.ssrc
    let v := (x.toNat >>> w.spos) % 2 ^ w.swid
    let runs (r : Res) (p' : Prog) : Prop := ∃ u, r = .next u ∧ u = { t with eng := u.eng } ∧ (u.engine e.toNat).run = some p' ∧
      (u.engine e.toNat).parked = (t.engine e.toNat).parked ∧ ∀ j, j ≠ e.toNat → u.engine j = t.engine j
    (∀ (c : BitVec 4 → Instr) (op : Nat) (r : BitVec 64) (cy : Bool), (c, op, r, cy) ∈
      [(Instr.aopAdd, 1, a + b, decide (2 ^ 64 ≤ a.toNat + b.toNat)), (.aopSub, 2, a - b, decide (b.toNat ≤ a.toNat)), (.aopAnd, 3, a &&& b, false),
       (.aopOr, 4, a ||| b, false), (.aopXor, 5, a ^^^ b, false), (.aopAndn, 6, a &&& ~~~b, false), (.aopMin, 7, if a.toNat ≤ b.toNat then a else b, false),
       (.aopMax, 8, if a.toNat ≤ b.toNat then b else a, false), (.aopMove, 9, a, false), (.aopShl, 10, a <<< (b.toNat % 64), false),
       (.aopShr, 11, a >>> (b.toNat % 64), false), (.aopCmp, 12, a - b, decide (b.toNat ≤ a.toNat))] →
      w.aop = op → p.fields.getLsbD 0 = false →
      runs (exec (c e) s) { p with fields := setBit p.fields 0 true, aluR := some (r, cy), alu := if op = 12 then none else some (BitVec.ofNat 5 w.adst, r) }) ∧
    (∀ (c : BitVec 4 → Instr) (op : Nat) (r : BitVec 64), (c, op, r) ∈
      [(Instr.sopExt, 1, BitVec.ofNat 64 v), (.sopExts, 2, BitVec.ofNat 64 (if v ≥ 2 ^ (w.swid - 1) then v + 2 ^ 64 - 2 ^ w.swid else v)),
       (.sopIns, 3, setFld (p.r w.sdst) (w.spos + w.swid - 1) w.spos (x.toNat % 2 ^ w.swid)), (.sopLit, 4, BitVec.ofNat 64 (w.lit <<< w.spos))] →
      w.sop = op → p.fields.getLsbD 1 = false →
      runs (exec (c e) s) { p with fields := setBit p.fields 1 true, shf := some (BitVec.ofNat 5 w.sdst, r) }) ∧
    (p.fields.getLsbD 2 = false → w.mop = 4 → runs (exec (.mopWait e) s) { p with fields := setBit p.fields 2 true }) ∧
    (∀ (c : BitVec 4 → Instr) (op : Nat), (c, op) ∈ [(Instr.mopRd, 1), (.mopWr, 2), (.mopFill, 3)] → w.mop = op → p.fields.getLsbD 2 = false →
      let len := (p.r w.mlreg).toNat
      let n := if op = 2 then ((spGetD {} (t.engine e.toNat).bufs w.mbuf.toNat : Buf)).data.length else min len 6144
      ∃ u p' m, exec (c e) s = .next u ∧ (u.engine e.toNat).run = some p' ∧ p'.mops = p.mops ++ [m] ∧ m.kind.toNat = op - 1 ∧ m.buf = w.mbuf ∧ m.n = n ∧
        m.addr = (if op = 3 then BitVec.ofNat 64 (w.lit % 256) else p.r w.mreg) ∧ m.void = decide (p.r 30 ≠ 0) ∧ p'.v = p.v ∧ u.ms = t.ms ∧ u.led = t.led ∧
        u.qs = t.qs ∧ (op = 2 → p'.movs = [(BitVec.ofNat 5 w.mreg, adrAdd (p.r w.mreg) n)]) ∧ (op = 3 → p'.movs = [(BitVec.ofNat 5 w.mlreg, BitVec.ofNat 64 (len - n))]) ∧
        (op = 1 → p'.movs = [(BitVec.ofNat 5 w.mreg, adrAdd (p.r w.mreg) n), (BitVec.ofNat 5 w.mlreg, BitVec.ofNat 64 (len - n))])) ∧
    (∀ (c : BitVec 4 → Instr) (op : Nat), (c, op) ∈ [(Instr.xopResv, 1), (.xopCommit, 2), (.xopRead, 3), (.xopCmd, 4), (.xopQaddr, 5), (.xopCob, 6), (.xopZn, 7),
        (.xopPostc, 8), (.xopTime, 9)] → w.xop = op → p.fields.getLsbD 3 = false →
      ∃ u p' o, exec (c e) s = .next u ∧ (u.engine e.toNat).run = some p' ∧ p'.pops = p.pops ++ [o] ∧ o.id = t.ports ∧ o.op = BitVec.ofNat 4 op ∧
        o.reg = BitVec.ofNat 5 w.xreg ∧ u.ports = t.ports + 1 ∧ p'.v = p.v ∧ (op = 2 ∧ t.qEng (p.queueOf w) = true ∨ u.ms = t.ms) ∧
        (t.qEn (p.queueOf w) = false → op ∈ [1, 2, 3, 4, 5, 8] → o.st = 4 ∧ u.qs = t.qs) ∧
        (t.qEn (p.queueOf w) = true → (op = 1 → o.val = some (BitVec.ofNat 64 (t.qResv (p.queueOf w) (0x100 + BitVec.ofNat 12 e.toNat) (some p.q)).1)) ∧
          (op = 3 → o.val = some (BitVec.ofNat 64 (t.qRead (p.queueOf w)).1)) ∧ (op = 8 → p'.mtch = some (BitVec.ofNat 9 (p.queueOf w))) ∧
          (op = 5 → o.val = some (BitVec.ofNat 64 ((t.qBase (p.queueOf w) + 96 * ((p.r w.xreg).toNat % 65536)) % 2 ^ 48)))) ∧
        (op = 9 → o.val = some (t.tb.zeroExtend 64)) ∧
        (op = 6 ∨ op = 7 → if (if op = 6 then t.part.cobalt && !(t.rg (aCob 0)).getLsbD 0 else t.part.zinc) then o.st = 0 ∧ o.req = (List.range 8).map (fun i => p.r (w.xreg + i))
          else o.st = 0x0C ∧ o.val = some 0 ∧ o.outs = [] ∧ u = { t with ports := t.ports + 1, eng := u.eng }))

/-- R371, R372, R375, R379, R381, R335, R336: the end of a word: its pending register writes, its flags, and the next word's address by the sequencing operation; PARK leaves the engine
idle with the program parked, END with nothing in progress makes the descriptor DONE with the program's status. -/
def Obligations.MicrowordSequencing : Prop :=
  ∀ (s t : State) (e : BitVec 4) (w : Mw) (p : Prog), WordReady s e w t p → p.fields = 15 → w.sw = false → p.shf = none → p.movs = [] →
    let goes (r : Res) (nx : Nat) (stack : List (BitVec 15)) : Prop := storeAddr nx = true → ∃ u p', r = .next u ∧ u = { t with eng := u.eng } ∧
      (u.engine e.toNat).run = some p' ∧ p'.ua = BitVec.ofNat 15 nx ∧ p'.stack = stack ∧ p'.fields = 0 ∧ p'.status = p.status ∧
      (∀ d v, p.alu = some (d, v) → d ≠ 0 → d ≠ 30 → d ≠ 31 → p'.r d.toNat = v) ∧ (∀ n, (∀ d v, p.alu = some (d, v) → d.toNat ≠ n) → p'.r n = p.r n) ∧
      (∀ r c, p.aluR = some (r, c) → p'.z = decide (r = 0) ∧ p'.n = r.getLsbD 63) ∧ (∀ j, j ≠ e.toNat → u.engine j = t.engine j)
    let seqn := p.ua.toNat + 1
    (w.sq = 0 → goes (exec (.sqNext e) s) seqn p.stack) ∧
    (w.sq = 1 → goes (exec (.sqJump e) s) w.next.toNat p.stack) ∧
    (w.sq = 2 → goes (exec (.sqBr e) s) (if p.condOf w then w.next.toNat else seqn) p.stack) ∧
    (w.sq = 3 → goes (exec (.sqCall e) s) w.next.toNat (BitVec.ofNat 15 seqn :: p.stack)) ∧
    (w.sq = 4 → goes (exec (.sqRet e) s) (p.stack.headD 0).toNat (p.stack.drop 1)) ∧
    (w.sq = 5 → goes (exec (.sqDisp e) s) (w.next.toNat + (match p.aluR with | some (r, _) => r.toNat % 16 | none => 0)) p.stack) ∧
    (w.sq = 6 → storeAddr w.next.toNat = true → ∃ u pk, exec (.sqPark e) s = .next u ∧ u = { t with eng := u.eng } ∧ (u.engine e.toNat).run = none ∧
      (u.engine e.toNat).parked = (t.engine e.toNat).parked ++ [pk] ∧ pk.ua = w.next ∧ pk.q = p.q ∧ pk.seq = p.seq ∧ pk.mtch = p.mtch) ∧
    (w.sq = 7 → p.mops = [] → p.pops = [] → ∀ x, t.ent p.q.toNat p.seq = some x → x.st = .started → ∃ u y, exec (.sqEnd e) s = .next u ∧
      (u.engine e.toNat).run = none ∧ u.ent p.q.toNat p.seq = some y ∧ y.st = .done ∧ y.cidx = (t.rp p.q.toNat).nidx ∧ y.comp.head? = some p.status ∧
      (u.rp p.q.toNat).nidx = (t.rp p.q.toNat).nidx + 1 ∧ u.ms = t.ms)

/-- R344, R345, R351, R370, R375, R376, R378, R380, R382: an idle engine takes the first waiting descriptor, its registers loaded; a FILL ends with its bytes in its buffer, a result arrives in its register with its status in V31,
a reply makes its parked program ready; 32,768 cycles without a boundary are microcode fault 8. An abort of an entry that no engine has taken makes it DONE
with ABORTED, of a finished one changes nothing but its result. -/
def Obligations.EnginePrograms : Prop :=
  ∀ (s : State) (e : BitVec 4),
    let g := s.engine e.toNat
    (∀ q seq x, g.run = none → s.phase = .run → firstReply g.parked = none → s.firstDesc e.toNat = some (q, seq, x) → x.redo = false → q < 1024 →
      ((List.range e.toNat).any fun k => (s.engine k).run.isNone && (firstReply (s.engine k).parked).isNone && s.mayTake k q seq x) = false →
      ∃ u p, exec (.dispatch e) s = .next u ∧ u = { s with eng := u.eng } ∧ (u.engine e.toNat).run = some p ∧ p.q.toNat = q ∧ p.seq = seq ∧
        p.ua = (s.pt (descProg x.desc)).extractLsb' 0 15 ∧ p.r 16 = BitVec.ofNat 64 seq ∧ p.r 17 = BitVec.ofNat 64 (q + x.inst.toNat * 1024 + b2n x.idem * 65536) ∧
        (∀ i, i < 8 → p.r (8 + i) = BitVec.ofNat 64 (leNat ((x.desc.drop (8 * i)).take 8))) ∧ p.status = 0 ∧ p.stack = [] ∧ p.std = s.stdOf x (fld (s.pt (descProg x.desc)) 14 0) ∧ (∀ j, j ≠ e.toNat → u.engine j = s.engine j)) ∧
    (∀ (p : Prog) (m : MOp) (st : BitVec 8) (ext : List Byte), s.phase = .run → g.run = some p → p.ending = false → p.mops = [m] → m.void = false → m.kind = 2 →
      ∃ u p', exec (.moverOpComplete e m.buf st ext) s = .next u ∧ u = { s with eng := u.eng } ∧ (u.engine e.toNat).run = some p' ∧ p'.mops = [] ∧ p'.v = p.v ∧
        (spGetD {} (u.engine e.toNat).bufs m.buf.toNat : Buf).data = List.replicate m.n (BitVec.ofNat 8 m.addr.toNat)) ∧
    (∀ (p : Prog) (o : POp), g.run = some p → p.ending = false → p.pops = [o] → o.unit = false → o.outs = [] → o.rst = 0 →
      ∃ u p', exec (.portResultArrival e 0) s = .next u ∧ u = { s with eng := u.eng } ∧ (u.engine e.toNat).run = some p' ∧ p'.pops = [] ∧
        p'.r 31 = o.st.zeroExtend 64 ∧ (∀ v, o.val = some v → o.reg ≠ 0 → o.reg ≠ 30 → o.reg ≠ 31 → p'.r o.reg.toNat = v)) ∧
    (∀ (n : Nat) (p : Prog) (ws : List Word), g.parked[n]? = some p → p.rpend = some ws → ∃ u, exec (.parkedProgramReply e n) s = .next u ∧
      u = { s with eng := u.eng } ∧ (u.engine e.toNat).parked = listSet g.parked n { p with reply := some ws, rpend := none } ∧ (u.engine e.toNat).run = g.run) ∧
    (∀ p : Prog, g.run = some p → s.phase = .run → p.ending = false → p.std = none →
      (32768 ≤ p.cycles → ∃ u, exec (.bndWatchdogExpiry e) s = .next u ∧ u.rg (aChan e.toNat 0x1030) = BitVec.ofNat 48 (8 * 2 ^ 20 + p.ua.toNat) ∧ u.ms = s.ms ∧
        (p.mops = [] → p.pops = [] → (u.engine e.toNat).run = none)) ∧
      (p.cycles < 32768 → exec (.bndWatchdogExpiry e) s = .next s)) ∧
    (∀ (a : Via) (q : BitVec 10), s.viaReach a (aElc 0x18) = true → s.abt = none →
      let seq := (s.rg (aElc 0x10)).toNat
      (s.ent q.toNat seq = none → ∃ u, exec (.abort a q) s = .next u ∧ u = { s with dev := u.dev } ∧ u.rg (aElc 0x20) = 3) ∧
      (∀ x, s.ent q.toNat seq = some x → x.st = .done ∨ x.st = .abandoned → ∃ u, exec (.abort a q) s = .next u ∧ u = { s with dev := u.dev } ∧ u.rg (aElc 0x20) = 2) ∧
      (∀ x, s.ent q.toNat seq = some x → x.st = .accepted → s.taken q.toNat seq = false → ∃ u y, exec (.abort a q) s = .next u ∧ u.ent q.toNat seq = some y ∧ y.st = .done ∧
        y.comp.head? = some 0x0A ∧ u.rg (aElc 0x20) = 1 ∧ u.abt = none ∧ u.ms = s.ms))

/-- R383, R384, R386, R388: a word written through UDATA2 enters the control store at UADDR, which moves on, only while the engines it concerns are disabled and idle; READ brings one
back. LOADIMG and INSTALL read the image's header and its lines, and write every section of an image that passes its checks, INSTALL keeps it, REMOVE forgets it; while an image command
waits for its lines a further one is ignored with ERR. -/
def Obligations.ControlStoreAndImages : Prop :=
  ∀ (s : State) (a : Via),
    (∀ (e : BitVec 4) (v : Word), s.viaReach a (aChan e.toNat 0x1018) = true →
      let at_ := fld (s.rg (aChan e.toNat 0x1000)) 14 0
      let w : Mw := v ++ s.rg (aChan e.toNat 0x1010) ++ s.rg (aChan e.toNat 0x1008) 0x1FF
      ∃ u, exec (.udata2Write a e v) s = .next u ∧ u = { s with dev := u.dev, eng := u.eng, ushare := u.ushare } ∧
        fld (u.rg (aChan e.toNat 0x1000)) 14 0 = (at_ + 1) % 2 ^ 15 ∧ (s.storeOk e.toNat at_ = true → u.uword e.toNat at_ = w) ∧
        (s.storeOk e.toNat at_ = false → u.eng = s.eng ∧ u.ushare = s.ushare ∧ (u.rg (aChan e.toNat 0x1020)).getLsbD 9 = true)) ∧
    (∀ e : BitVec 4, s.viaReach a (aChan e.toNat 0x1020) = true → (e ≠ 0 ∨ s.imgW = none) → ∃ u, exec (.uctlRead a e) s = .next u ∧ u = { s with dev := u.dev } ∧
      u.rg (aChan e.toNat 0x1018) ++ u.rg (aChan e.toNat 0x1010) ++ u.rg (aChan e.toNat 0x1008) 0x1FF = s.uword e.toNat (fld (s.rg (aChan e.toNat 0x1000)) 14 0)) ∧
    (s.viaReach a (aChan 0 0x1020) = true → s.imgW ≠ none → ∀ c ∈ [Instr.loadimg a, .install a, .remove a, .uctlRead a 0],
      exec c s = .next (s.sg (aChan 0 0x1020) (setBit (s.rg (aChan 0 0x1020)) 9 true))) ∧
    (s.viaReach a (aChan 0 0x1020) = true → s.imgW = none →
      exec (.remove a) s = .next { s with images := s.images.filter fun i => decide (i.id ≠ s.rg (aChan 0 0x1028)) } ∧
      ∀ (c : Instr) (ins : Bool), (c, ins) ∈ [(Instr.loadimg a, false), (.install a, true)] →
        let at_ := (s.rg (aChan 0 0x1028)).toNat
        let h := (({ s with imgW := some (ins, at_) } : State).imgBusy true).uncRead at_ 96 0x603
        (h.1 = none → exec c s = .next h.2) ∧
        (∀ hdr z, h.1 = some (hdr, z) →
          let n := fld (lineWord hdr 2) 23 0
          let b := h.2.uncRead (at_ + 96) (96 * n) 0x603
          (fld (lineWord hdr 0) 31 0 ≠ 0x495A444C → ∃ u, exec c s = .next u ∧ u.images = s.images ∧ u.imgW = none ∧ (u.rg (aChan 0 0x1020)).getLsbD 8 = false ∧
            (u.rg (aChan 0 0x1020)).getLsbD 9 = true ∧ fld (u.rg (aChan 0 0x1020)) 15 12 = 2) ∧
          (fld (lineWord hdr 0) 31 0 = 0x495A444C → fld (lineWord hdr 0) 47 32 = 1 → at_ + 96 * (n + 1) ≤ s.part.msBytes →
            (b.1 = none → exec c s = .next b.2) ∧
            (∀ bs y ss, b.1 = some (bs, y) → (crc32c bs).toNat = fld (lineWord hdr 3) 31 0 → imgSects bs n (n + 1) 0 = some ss →
              let t := State.imgBusy { b.2 with imgW := none } false
              let others := t.images.filter fun i => decide (i.id ≠ lineWord hdr 1)
              (∀ x ∈ ss, t.sectCheck x = 0 ∧ t.sectMay x = true) →
              (ins = true → (others.map fun i => i.lines.length).foldl (· + ·) 0 + 96 * (n + 1) ≤ 16777216) →
              let v := ss.foldl (fun s x => s.sectWrite x) t
              ∃ u, exec c s = .next u ∧ u = { v with images := if ins then others ++ [⟨lineWord hdr 1, 1, hdr ++ bs⟩] else v.images, pew := u.pew }))))

/-- R394, R396, R400, R401, R403, R409, R410, R411, R412, R398: a whole text that Cobalt encrypts from buffer to buffer takes the slot's next counter value and leaves with its tag; Zinc encodes or decodes what its piece brings, once no earlier operation waits for an engine.
KLOAD loads or zeroes a slot once earlier requests for it have ended, while BUSY a further one is lost; a ceiling moves up by 2^24; a
failed random source stops Cobalt. -/
def Obligations.CobaltZincAndKeys : Prop :=
  ∀ (s : State),
    (∀ (e : BitVec 4) (p : Prog) (o : POp) (k : KSlot) (x y : BitVec 2), s.phase = .run → (s.engine e.toNat).run = some p → p.pops = [o] → p.ending = false →
      o.op = 6 → o.ovr = false → o.reg ≤ 22 →
      let w := o.req.getD 0 0
      let n := (o.req.getD 3 0).toNat % 2 ^ 32
      let slot := fld w 11 0
      let src : Buf := spGetD {} (s.engine e.toNat).bufs x.toNat
      let iv := natBe 4 k.pre.toNat ++ natBe 8 k.ctr
      let c : CobOp := { e := e, q := p.q, seq := p.seq, slot := slot, dec := false, key := k.key, iv := iv, y := ghash (gcmH k.key) 0 [] 2, aad := 0 }
      let out := (c.run ((List.range n).map fun i => src.data.getD i 0) true).2.1
      o.req ≠ [] → w.getLsbD 30 = true → w.getLsbD 31 = true → w.getLsbD 12 = false → fld w 63 38 = 0 → fld w 29 13 = 0 → fld w 34 32 = 4 + x.toNat → fld w 37 35 = 4 + y.toNat →
      o.req.getD 7 0 = 0 → n ≤ 6000 → src.bad = false → (s.rg (aCob 0)).getLsbD 0 = false → s.kcmd = none → s.cobs = [] → spGet s.kslots slot = some k →
      k.inst.toNat = s.progInst p → k.ctr < k.ceil → k.ctr ≠ 2 ^ 64 - 1 → out.length ≤ 6144 → out ≠ [] → ∃ u p', exec (.cobaltPieceComplete e 0 [] [] 0) s = .next u ∧
        spGet u.kslots slot = some { k with ctr := k.ctr + 1 } ∧ (spGetD {} (u.engine e.toNat).bufs y.toNat : Buf).data = out ∧ u.cobs = [] ∧
        (u.engine e.toNat).run = some p' ∧ p'.pops = [] ∧ p'.r 31 = 0 ∧ u.cobBytes = satAdd 48 s.cobBytes n ∧ u.ms = s.ms) ∧
    (∀ (e : BitVec 4) (p : Prog) (o : POp) (x y : BitVec 2), s.phase = .run → (s.engine e.toNat).run = some p → p.pops = [o] → p.ending = false →
      o.op = 7 → o.ovr = false → o.reg ≤ 22 →
      let w := o.req.getD 0 0
      let n := (o.req.getD 3 0).toNat % 2 ^ 32
      let i := s.progInst p
      let src : Buf := spGetD {} (s.engine e.toNat).bufs x.toNat
      let z : ZnOp := { e := e, q := p.q, seq := p.seq, inst := BitVec.ofNat 6 i, eng := 0, fmt := fld w 3 0, sgn := w.getLsbD 4, dec := w.getLsbD 5 }
      let g := z.go ((List.range n).map fun i => src.data.getD i 0) true 12304
      o.req ≠ [] → w.getLsbD 6 = true → w.getLsbD 7 = true → fld w 63 14 = 0 → fld w 10 8 = 4 + x.toNat → fld w 13 11 = 4 + y.toNat →
      (∀ j, j < 3 → o.req.getD (5 + j) 0 = 0) → n ≤ 6144 → src.bad = false → 1 ≤ fld w 3 0 → fld w 3 0 ≤ 4 → (w.getLsbD 4 = true → fld w 3 0 = 4) →
      s.zns = [] → s.znAhead o.n = [] → s.znCap i ≠ 0 → NoInjection s → g.st = 0 → g.more = false → g.new.length ≤ 6144 → ∃ u p', exec (.zincPieceComplete e 0 [] 0) s = .next u ∧
        (spGetD {} (u.engine e.toNat).bufs y.toNat : Buf).data = g.new ∧ u.zns = [] ∧ (u.engine e.toNat).run = some p' ∧ p'.pops = [] ∧ p'.r 31 = 0 ∧
        u.znOut = satAdd 48 s.znOut g.new.length ∧ u.ms = s.ms) ∧
    (∀ (a : Via) (v : Word), s.viaReach a (aCob 0x60) = true → ∀ (c : Via → Word → Instr) (cmd : Nat), (c, cmd) ∈ [(Instr.kloadLoad, 1), (.kloadZero, 2)] →
      ((s.rg (aCob 0x68)).getLsbD 0 = true → ∃ u, exec (c a v) s = .next u ∧ u = { s with dev := u.dev } ∧ (u.rg (aCob 0x68)).getLsbD 2 = true) ∧
      ((s.rg (aCob 0x68)).getLsbD 0 = false → ∃ u k, exec (c a v) s = .next u ∧ u = { s with dev := u.dev, kcmd := some k } ∧ (u.rg (aCob 0x68)).getLsbD 0 = true ∧
        k.slot = fld (s.rg (aCob 0x10)) 11 0 ∧ fld k.v 1 0 = cmd ∧ k.at_ = s.ports)) ∧
    (∀ k : KCmd, s.phase = .run → s.kcmd = some k →
      (s.slotBusy k = true → exec .keySlotCommandComplete s = .next s) ∧
      (s.slotBusy k = false → ∃ u, exec .keySlotCommandComplete s = .next u ∧ u.kcmd = none ∧ (u.rg (aCob 0x68)).getLsbD 0 = false ∧
        (∀ j, j ≠ k.slot → spGet u.kslots j = spGet s.kslots j) ∧ u.ms = s.ms ∧ u.procs = s.procs ∧
        spGet u.kslots k.slot = (if fld k.v 1 0 = 1 then
          some { key := k.key, big := k.v.getLsbD 2, pre := k.v.extractLsb' 9 32, inst := k.v.extractLsb' 3 6 } else none))) ∧
    (∀ (slot : BitVec 12) (k : KSlot), spGet s.kslots slot.toNat = some k → k.ceil < (k.ctr / 16777216 + 2) * 16777216 →
      ∃ u, exec (.ceilingWriteComplete slot) s = .next u ∧ u = { s with kslots := u.kslots } ∧
        spGet u.kslots slot.toNat = some { k with ceil := min (k.ceil + 16777216) (2 ^ 64 - 1) }) ∧
    (s.part.cobalt = true → (s.rg (aCob 0)).getLsbD 0 = false → ∃ u, exec .rngHealthFail s = .next u ∧ (u.rg (aCob 0)).getLsbD 0 = true ∧
      EventOnly { s with free := s.free + 1 } u)

/-- R419 to R423, R427 to R431, R505: a command of an instance whose checks pass takes effect, otherwise it fails with its REASON and changes nothing else; FREEZE ends when no program of the instance is left and its
processors have stopped, RESET and a function-level reset leave it ACTIVE, DESTROY leaves nothing, SAVE reads the window and writes the
image, RESTORE reads one and creates the instance FROZEN. START and STOP act on a processor of an ACTIVE instance. -/
def Obligations.InstanceCommands : Prop :=
  ∀ (s : State) (i : BitVec 6), s.viaReach .pf (aVi i.toNat 0x80) = true → s.instBusy i.toNat = false →
    let n := i.toNat
    let result (u : State) : Nat := fld (u.rgVi n 0x88) 11 4
    let reason (u : State) : Nat := fld (u.rgVi n 0x88) 15 12
    let fails (x : Res) (r : Nat) : Prop := ∃ u, x = .next u ∧ result u = 4 ∧ reason u = r ∧ u.instState n = s.instState n ∧ u.insts = s.insts ∧ u.procs = s.procs ∧
      u.ms = s.ms ∧ u.led = s.led ∧ u.rps = s.rps ∧ u.repts.length = s.repts.length + 1
    (s.instCheck n true = 0 → ∃ u, exec (.create .pf i) s = .next u ∧ u.inst n = s.staged n ∧ u.instState n = 1 ∧ result u = 0 ∧ u.ms = s.ms ∧ u.led = s.led) ∧
    (∀ r, s.instCheck n true = r + 1 → fails (exec (.create .pf i) s) (r + 1)) ∧
    (s.instCheck n false = 0 → ∃ u, exec (.apply .pf i) s = .next u ∧ u.inst n = s.staged n ∧ u.instState n = s.instState n ∧ result u = 0 ∧ u.ms = s.ms ∧ u.led = s.led) ∧
    (∀ r, s.instCheck n false = r + 1 → fails (exec (.apply .pf i) s) (r + 1)) ∧
    (s.instState n = 0 → fails (exec (.destroy .pf i) s) 6 ∧ fails (exec (.reset .pf i) s) 6 ∧ fails (exec (.freeze .pf i) s) 6 ∧ fails (exec (.thaw .pf i) s) 6) ∧
    (n ≠ 0 → s.instState n = 2 → s.isaved.getLsbD n = true → ∃ u, exec (.destroy .pf i) s = .next u ∧ u.inst n = {} ∧ result u = 0) ∧
    (s.instState n ≠ 0 → s.allStopped n = true → (∃ u, exec (.reset .pf i) s = .next u ∧ u.instState n = 1 ∧ result u = 0) ∧
      (n ≠ 0 → s.phase = .run → ∃ u, exec (.functionLevelReset i) s = .next u ∧ u.instState n = 1 ∧ result u = 0)) ∧
    (n ≠ 0 → s.instState n = 1 → ∃ u, exec (.freeze .pf i) s = .next u ∧ u = { s with rps := u.rps, icmd := u.icmd } ∧ u.instBusy n = true ∧
      (∀ q, q < 1024 → s.ringOwner q = some n → (u.rp q).held.getLsbD 1 = true)) ∧
    (s.instState n = 2 → ∃ u, exec (.thaw .pf i) s = .next u ∧ u.instState n = 1 ∧ result u = 0 ∧ u.ms = s.ms ∧ u.led = s.led ∧
      (∀ p : BitVec 6, (s.inst n).procs.getLsbD p.toNat = true → (s.proc p).frz = true → (s.proc p).run = .stopped → (u.proc p).run = .running)) ∧
    (n ≠ 0 → s.instState n = 2 → (s.imgAddr n).1 = 2 ∨ (s.imgAddr n).1 = 3 →
      let w := s.winRead n
      (w.1 = none → ∀ st, ∃ u, exec (.save .pf i st) s = .next u ∧ u = { w.2 with icmd := u.icmd } ∧ u.instBusy n = true) ∧
      (∀ win, w.1 = some win →
        let img := w.2.instImage n win
        (s.imgAddr n).2.2 + img.length ≤ (if (s.imgAddr n).1 = 2 then 2 ^ 52 else 2 ^ 48) → ∃ u, exec (.save .pf i 0) s = .next u ∧
          .image (s.imgAddr n).1 (s.imgAddr n).2.1 (s.imgAddr n).2.2 img ∈ u.outbox ∧ u.isaved.getLsbD n = true ∧ result u = 0 ∧ u.ms = w.2.ms ∧ u.procs = w.2.procs ∧
          u.led = w.2.led)) ∧
    (n ≠ 0 → s.instState n = 0 → (s.imgAddr n).1 = 2 → ∀ ext : List Byte,
      let hdr := (List.range 96).map fun j => ext.getD j 0
      let body := (List.range (96 * fld (bWord hdr 2) 31 0)).map fun j => ext.getD (96 + j) 0
      (imgHdrOk hdr = false → fails (exec (.restore .pf i ext 0) s) 4) ∧
      (∀ secs, imgHdrOk hdr = true → (crc32c body).toNat = fld (bWord hdr 3) 31 0 → sections body (body.length / 96 + 1) 0 = some secs →
        (secOf secs 1).1 = popProcs (s.staged n).procs → s.rgVi n 0x10 = bWord (secOf secs 7).2 0 → s.rgVi n 0x28 = bWord (secOf secs 7).2 3 →
        s.rgVi n 0x30 = bWord (secOf secs 7).2 4 → (s.staged n).lgcount = fld (bWord (secOf secs 7).2 5) 27 14 →
        (s.sgVi n 0xB8 (BitVec.ofNat 48 (96 + body.length))).instCheck n true = 0 → ∃ u, exec (.restore .pf i ext 0) s = .next u ∧ u.inst n = s.staged n ∧
          u.instState n = 2 ∧ ((secOf secs 8).1 = 0 → result u = 0 ∧ u.irest.getLsbD n = true ∧ u.instBusy n = false))) ∧
    (∀ p : BitVec 6, s.viaReach .pf (aVi n 0x90) = true → s.instState n = 1 → (s.inst n).procs.getLsbD p.toNat = true →
      ((s.proc p).run = .stopped → ∃ u, exec (.start .pf i p) s = .next u ∧ OnlyProc s u p ∧ u.proc p = { s.proc p with run := .running }) ∧
      ((s.proc p).run = .running → (s.proc p).paused = none → (s.proc p).relock = none → (s.proc p).interruptible = true → (s.proc p).comb = [] →
        ∃ u, exec (.stop .pf i p) s = .next u ∧ OnlyProc s u p ∧ (u.proc p).run = .stopped ∧ (u.proc p).g = (s.proc p).g ∧ (u.proc p).ip = (s.proc p).ip))

/-- R428, R424, R425, R426, R433, R419 note b: a drained FREEZE remembers which processors ran and leaves the instance FROZEN; mailbox doorbells fill and acknowledgements empty the two mailboxes, a doorbell of a full one is lost;
a report is written to its slot, GO moves RPTPI on, without GO for 2 µs NOGO sets, and an index of the manager clears it. -/
def Obligations.MailboxesAndReports : Prop :=
  (∀ (s : State) (i : BitVec 6), spGet s.icmd i.toNat = some 5 → s.progsLeft i.toNat = false → s.phase = .run → s.allStopped i.toNat = true →
    ∃ u, exec (.freezeDrainComplete i) s = .next u ∧ u.instState i.toNat = 2 ∧ u.instBusy i.toNat = false ∧ fld (u.rgVi i.toNat 0x88) 11 4 = 0 ∧ u.ms = s.ms ∧ u.led = s.led) ∧
  (∀ (s : State) (a : Via) (i : BitVec 6),
    let c := s.rgVi i.toNat 0x1E8
    let sets (x : Res) (b : Nat) (v : Bool) : Prop := ∃ u, x = .next u ∧ u = { s with dev := u.dev, outbox := u.outbox, cxl := u.cxl, procs := u.procs } ∧
      (∀ p, u.proc p = { s.proc p with extSeen := (u.proc p).extSeen, timSeen := (u.proc p).timSeen, mbxSeen := (u.proc p).mbxSeen }) ∧
      (u.rgVi i.toNat 0x1E8).getLsbD b = v ∧ (∀ j, j ≠ b → (u.rgVi i.toNat 0x1E8).getLsbD j = c.getLsbD j)
    let lost (x : Res) (b : Nat) : Prop := ∃ u, x = .next u ∧ u = { s with dev := u.dev } ∧ (u.rgVi i.toNat 0x1E8).getLsbD b = true ∧ (u.rgVi i.toNat 0x88).getLsbD 16 = true
    (s.viaReach a (aVi i.toNat 0x158) = true → s.mailMay a i.toNat true = true → (c.getLsbD 0 = false → sets (exec (.mbidb a i) s) 0 true) ∧
      (c.getLsbD 0 = true → lost (exec (.mbidb a i) s) 2)) ∧
    (s.viaReach a (aVi i.toNat 0x160) = true → s.mailMay a i.toNat false = true → sets (exec (.mbiack a i) s) 0 false) ∧
    (s.viaReach a (aVi i.toNat 0x1D8) = true → s.mailMay a i.toNat false = true → (c.getLsbD 1 = false → sets (exec (.mbodb a i) s) 1 true) ∧
      (c.getLsbD 1 = true → lost (exec (.mbodb a i) s) 3)) ∧
    (s.viaReach a (aVi i.toNat 0x1E0) = true → s.mailMay a i.toNat true = true → sets (exec (.mboack a i) s) 1 false)) ∧
  (∀ (s : State),
    (∀ r rest, s.repts = r :: rest → s.mayReport = true →
      let sent : List Out := [.hostWrite (s.rptAddr s.rptPi) (phased r.bytes (BitVec.ofNat 32 s.rptPi) (ringSize s.rptb))]
      exec .reportPost s = .next { s with rptW := some s.ticks, outbox := sent ++ s.outbox }) ∧
    (∀ t, s.phase = .run → s.rptW = some t →
      (∃ u, exec .reportGo s = .next u ∧ u = { s with rptW := none, repts := s.repts.drop 1, rptLate := false, dev := u.dev, outbox := u.outbox, cxl := u.cxl } ∧
        u.rptPi = (s.rptPi + 1) % 2 ^ 32) ∧
      (t + 50 ≤ s.ticks → ∃ u, exec .reportGoTimeout s = .next u ∧ EventOnly { s with rptW := none } u ∧ (u.rg (aInstm 0x20)).getLsbD 32 = true ∧ u.rptPi = s.rptPi) ∧
      (s.ticks < t + 50 → exec .reportGoTimeout s = .next s)) ∧
    (∀ r rest, s.repts = r :: rest → r.tick + 25000000 < s.ticks → s.rptLate = false → s.phase = .run →
      ∃ u, exec .reportsWaitingOver1s s = .next u ∧ u = { s with rptLate := true, pew := u.pew }) ∧
    (∀ (a : Via) (v : Word), s.viaReach a (aInstm 0x10) = true →
      ((fld v 31 0 + 2 ^ 32 - s.rptCi) % 2 ^ 32 ≤ (s.rptPi + 2 ^ 32 - s.rptCi) % 2 ^ 32 → ∃ u, exec (.rptci a v) s = .next u ∧ u = { s with dev := u.dev } ∧
        u.rptCi = fld v 31 0 ∧ (u.rg (aInstm 0x20)).getLsbD 32 = false) ∧
      ((s.rptPi + 2 ^ 32 - s.rptCi) % 2 ^ 32 < (fld v 31 0 + 2 ^ 32 - s.rptCi) % 2 ^ 32 → exec (.rptci a v) s = .next s)))

/-- R435, R436, R456, R440, R458, R459, R498, R519: a training attempt that finds enough lanes starts training; trained, the link is up and HELLO goes out; a HELLO that fits is accepted, one whose SHAPE differs is
rejected; with both ends accepting the link is active and firmware writes the default alternates; REJECT leaves it trained and rejected; GONE, LEAVE and a failed retrain take it down; without the reference clock nothing trains; from a
trip to the next resume, and in FATAL, the links do nothing (R261, R483). -/
def Obligations.LinkTrainingAndHandshake : Prop :=
  ∀ (s : State) (l : BitVec 3), NoInjection s → s.mbvLive = true →
    let n := l.toNat
    let k := s.lnk n
    let only (u : State) : Prop := ∀ j, j ≠ n → u.lnk j = s.lnk j
    let events (u : State) : Prop := EventOnly { s with links := u.links } u ∧ only u
    let room := k.retr = false ∧ k.replay.length < 64 ∧ spGetD 0 k.used 3 < 4
    (∀ rx tx : BitVec 8, n < s.part.links → (s.rg (aMbv n 0) 3).getLsbD 0 = true → s.linkState n = 0 ∨ s.linkState n = 1 ∧ k.up = false → s.away = false → s.refOk .mbv = true →
      (s.phase = .boot → 3 ≤ fld (s.rg 0x10) 3 0) →
      (∀ t, k.tryT = some t → t + 2500000 ≤ s.ticks) → ∃ u, exec (.linkTrainingAttempt l rx tx) s = .next u ∧ u = { s with dev := u.dev, links := u.links } ∧ only u ∧
        u.lnk n = { k with tryT := some s.ticks } ∧ u.linkState n = (if (s.linkWidth n rx tx).1 = 0 then 0 else 1)) ∧
    (∀ rx tx : BitVec 8, n < s.part.links → rx = 0xFF → tx = 0xFF → s.refOk .mbv = true → k.half = false → s.linkState n = 1 → k.up = false → k.retr = false →
      ∃ u q f bs, exec (.mbovaTrainingComplete l rx tx) s = .next u ∧ u = { s with dev := u.dev, links := u.links, outbox := .flit l bs :: s.outbox } ∧ only u ∧
        (u.lnk n).up = true ∧ (u.lnk n).mine = false ∧ (u.lnk n).peer = false ∧ (u.lnk n).replay = [(q, f)] ∧ f.m.typ = 0x1C ∧
        f.m.words.take 3 = [1, s.node.zeroExtend 48, s.shape] ∧ fld (u.mbvStat n) 13 6 = 0xFF ∧ (u.mbvStat n).getLsbD 5 = false) ∧
    (∀ rx tx : BitVec 8, n < s.part.links → rx = 0xFF → tx = 0xFF → s.refOk .mbv = true → k.half = false → k.retr = true → ∃ u, exec (.mbovaTrainingComplete l rx tx) s = .next u ∧
      u = { s with dev := u.dev, links := u.links, outbox := u.outbox } ∧ only u ∧ (u.lnk n).retr = false ∧ (u.lnk n).replay = k.replay ∧
      u.outbox.length = s.outbox.length + k.replay.length) ∧
    (∀ rx tx : BitVec 8, s.refOk .mbv = false → exec (.linkTrainingAttempt l rx tx) s = .next s ∧ exec (.mbovaTrainingComplete l rx tx) s = .next s) ∧
    (∀ (node : BitVec 14) (sh : Word) (dir : BitVec 3) (feat : BitVec 48) (d : Nat), k.up = true → k.peer = false → room →
      s.linkDir n = some d → sh = s.shape → dimSize sh (d / 2) ≠ 0 → dir.toNat = (if d % 2 = 0 then d + 1 else d - 1) →
      (∀ y, y < 3 → coord sh node y = if y ≠ d / 2 then coord sh s.node y else if d % 2 = 0 then (coord sh s.node y + 1) % dimSize sh y
        else (coord sh s.node y + dimSize sh y - 1) % dimSize sh y) →
      ∃ u bs, exec (.hello l node sh dir feat) s = .next u ∧ u = { s with dev := u.dev, links := u.links, outbox := .flit l bs :: s.outbox } ∧ only u ∧ (u.lnk n).mine = true ∧
        (u.lnk n).peer = false ∧ u.linkState n = s.linkState n ∧ fld (u.mbvStat n) 27 14 = node.toNat) ∧
    (∀ (node : BitVec 14) (sh : Word) (dir : BitVec 3) (feat : BitVec 48), k.up = true → s.linkState n ≠ 2 → sh ≠ s.shape →
      ∃ u, exec (.hello l node sh dir feat) s = .next u ∧ only u ∧ (u.lnk n).mine = false ∧ u.linkState n = 2 ∧ u.ms = s.ms ∧ u.procs = s.procs) ∧
    (k.up = true → k.mine = true → s.linkState n ≠ 3 → n < s.part.links → ∃ u, exec (.accept l) s = .next u ∧ events u ∧ u.lnk n = { k with peer := true } ∧ u.active n = true ∧
      u.rg (aMbg 0x18) dtrReset = dtrDefault s.shape) ∧
    (k.up = true → k.mine = false → ∃ u, exec (.accept l) s = .next u ∧ u = { s with links := u.links } ∧ only u ∧ u.lnk n = { k with peer := true }) ∧
    (k.up = true → s.linkState n ≠ 2 → ∃ u, exec (.reject l) s = .next u ∧ events u ∧ (u.lnk n).mine = false ∧ (u.lnk n).up = true ∧ u.linkState n = 2 ∧
      (room → ∃ f, (u.lnk n).replay = k.replay ++ [(k.tx, f)] ∧ f.m.typ = 0x1C ∧ f.m.words = [3])) ∧
    (let goesDown (x : Res) : Prop := ∃ u, x = .next u ∧ EventOnly { s with links := u.links, fabq := u.fabq } u ∧ only u ∧ u.fabq.map (fun f => f.m) = s.fabq.map (fun f => f.m) ∧ (u.lnk n).up = false ∧ (u.lnk n).replay = [] ∧ (u.lnk n).rtN = k.rtN ∧ u.mbvStat n = 0 ∧
       u.rg (aMbg 0x18) dtrReset = dtrDefault s.shape ∧ (u.rg (aMbg 0x48)).getLsbD 0 = true
     (k.up = true → goesDown (exec (.gone l) s) ∧ goesDown (exec (.leaveMessage l) s)) ∧ (k.retr = true → goesDown (exec (.linkDown l) s))) ∧
    (∀ (v : State) (rx tx : BitVec 8) (node : BitVec 14) (sh feat : BitVec 48) (dir : BitVec 3) (bs : List Byte), v.mbvLive = false → ∀ c ∈ [Instr.linkTrainingAttempt l rx tx, .mbovaTrainingComplete l rx tx,
      .hello l node sh dir feat, .accept l, .reject l, .gone l, .leaveMessage l, .linkDown l, .linkRetrain l, .nak l rx, .replayTimeout l, .flitReceive l bs], exec c v = .next v)

/-- R437, R438, R439: a flit whose check fails is counted and answered with one NAK; a flit out of order is not taken; the next flit in order joins the router with what it carries. LACK frees the replay
buffer up to the flit it names, NAK has the rest sent again in order, as does 1 µs without an advance, and the link retrains after eight of those; a retrain keeps the replay buffer. -/
def Obligations.LinkReplay : Prop :=
  ∀ (s : State) (l : BitVec 3), NoInjection s → s.mbvLive = true → (s.lnk l.toNat).up = true → (s.lnk l.toNat).retr = false →
    let n := l.toNat
    let k := s.lnk n
    let only (u : State) : Prop := ∀ j, j ≠ n → u.lnk j = s.lnk j
    (∀ (bs : List Byte), bs.length = 160 →
      let h : BitVec 128 := BitVec.ofNat 128 (leNat (bs.take 16))
      let good := leNat ((bs.drop 12).take 4) = (crc32c (bs.take 12 ++ bs.drop 16)).toNat
      (¬ good → ∃ u, exec (.flitReceive l bs) s = .next u ∧ u = { s with links := u.links, outbox := u.outbox } ∧ only u ∧ (u.lnk n).crcN = satAdd 32 k.crcN 1 ∧
        (u.lnk n).nakW = true ∧ (u.lnk n).rx = k.rx ∧ u.outbox.length = s.outbox.length + (if k.nakW then 0 else 1)) ∧
      (good → h.extractLsb' 32 6 ≠ 0 → h.extractLsb' 0 8 ≠ k.rx + 1 → h.getLsbD 16 = false → ∃ u, exec (.flitReceive l bs) s = .next u ∧
        u = { s with links := u.links, outbox := u.outbox } ∧ only u ∧ (u.lnk n).rx = k.rx ∧ (u.lnk n).nakW = true) ∧
      (good → h.extractLsb' 32 6 ≠ 0 → h.extractLsb' 32 6 ≠ 0x1C → h.extractLsb' 0 8 = k.rx + 1 → h.getLsbD 16 = false → s.active n = true →
        ∃ u f, exec (.flitReceive l bs) s = .next u ∧ u = { s with links := u.links, fabq := s.fabq ++ [f] } ∧ only u ∧ (u.lnk n).rx = k.rx + 1 ∧
          (u.lnk n).nakW = false ∧ f.m.typ = h.extractLsb' 32 6 ∧ f.m.dst = h.extractLsb' 38 14 ∧ f.m.src = h.extractLsb' 52 14 ∧ f.m.tag = h.extractLsb' 66 16 ∧
          f.m.status = h.extractLsb' 88 8 ∧ f.m.pois = h.getLsbD 87 ∧ f.cl = h.getLsbD 28 ∧ f.dtr = fld h 31 29 ∧
          (fld h 86 82 ≤ 24 → f.m.words = (List.range (fld h 86 82)).map fun w => leWord ((bs.drop (16 + 6 * w)).take 6)))) ∧
    (∀ (lack : BitVec 8) (a b : List (BitVec 8 × Flit)) (f : Flit), k.replay = a ++ (lack, f) :: b → (∀ x ∈ a, x.1 ≠ lack) →
      ∃ u, exec (.nak l lack) s = .next u ∧ u = { s with links := u.links, outbox := u.outbox } ∧ only u ∧ (u.lnk n).replay = b ∧
        u.outbox.length = s.outbox.length + b.length) ∧
    (k.replay ≠ [] → k.ackT + 25 ≤ s.ticks → 8 ≤ k.reps → ∃ u, exec (.replayTimeout l) s = .next u ∧ EventOnly { s with links := u.links } u ∧ only u ∧
      u.lnk n = { k with retr := true, rtN := satAdd 24 k.rtN 1 }) ∧
    (k.replay ≠ [] → k.ackT + 25 ≤ s.ticks → k.reps < 8 → ∃ u, exec (.replayTimeout l) s = .next u ∧ u = { s with links := u.links, outbox := u.outbox } ∧ only u ∧
      (u.lnk n).replay = k.replay ∧ (u.lnk n).reps = k.reps + 1 ∧ (u.lnk n).reN = satAdd 24 k.reN 1 ∧ u.outbox.length = s.outbox.length + k.replay.length) ∧
    (s.ticks < k.ackT + 25 → exec (.replayTimeout l) s = .next s) ∧
    (∃ u, exec (.linkRetrain l) s = .next u ∧ EventOnly { s with links := u.links } u ∧ only u ∧ u.lnk n = { k with retr := true, rtN := satAdd 24 k.rtN 1 })

/-- R446, R448, R449, R451, R452, R458: what the home does with RRD, RWR, RAT and DBL. A request of a node that an export window lets through, for a line at rest, is performed and answered: RRD with the
line, RWR after writing the masked bytes, RAT with the old word after writing the new one, DBL when its item is in its queue. One refused by the windows, or beyond the main store, is answered with status 7; a
leaving module answers 8; what cannot be done yet, or has no room, waits. The numbers of RAT's operations are R451's. -/
def Obligations.RemoteRequestsServed : Prop :=
  ∀ (s : State) (m : RMsg), s.phase = .run →
    let a := (m.words.getD 0 0).toNat
    let l := a / 96
    let w0 := m.words.getD 0 0
    let me : Agent := .unc mbvMaster
    let msg (typ : BitVec 6) : FMsg := { typ := typ, dst := s.node, src := m.src, tag := m.tag, status := m.status, pois := m.pois, words := m.words }
    let answer (t u : State) (status : BitVec 8) (pois : Bool) (ws : List Word) : Prop :=
      ∃ f, u.fabq = t.fabq ++ [f] ∧ f.m.typ = 4 ∧ f.m.dst = m.src ∧ f.m.tag = m.tag ∧ f.m.status = status ∧ f.m.pois = pois ∧ f.m.words = ws
    let waits (x : Res) (t : State) (typ : BitVec 6) : Prop := x = .next { t with inq := t.inq ++ [⟨msg typ, t.ticks, decide (typ = 0x14)⟩] }
    let here := s.away = false
    let may (n : ExpRight) := here ∧ l < s.part.msLines ∧ (m.src = s.node ∨ s.exported m.src l n = true)
    let room := s.dirtyD l = true ∨ ((s.stack (s.homeOf (l % 2 ^ 44))).held = [] ∧ s.dbits.length < mibLines s.effMib)
    let free := s.writeNow l = true ∧ s.ownerClu l = none ∧ CleanLine s l ∧ room
    let wrote (u : State) := u = { s with fabq := u.fabq, ms := u.ms, flips := u.flips, dev := u.dev, stks := u.stks, dbits := u.dbits, peakD := u.peakD, procs := u.procs, dir := u.dir, clus := u.clus, cores := u.cores } ∧ (∀ p : BitVec 6, (u.proc p).g = (s.proc p).g) ∧ u.dirtyD l = true
    (may .r →
      let r := s.uncRead (96 * l) 96 mbvMaster
      (∀ d z, r.1 = some (d, z) → ∃ u, exec (.rrd m) s = .next u ∧ u = { r.2 with fabq := u.fabq } ∧ answer r.2 u 0 z (toWords d)) ∧
      (r.1 = none → waits (exec (.rrd m) s) r.2 1) ∧
      (s.readNow l = true → s.ownerClu l = none → s.dataFor l me = none → CleanLine s l →
        ∃ u, exec (.rrd m) s = .next u ∧ u = { s with fabq := u.fabq } ∧ answer s u 0 false (toWords ((List.range 96).map fun i => s.byteAt (96 * l + i))))) ∧
    (may .w → free → m.words.length = 20 → ∃ u, exec (.rwr m) s = .next u ∧ wrote u ∧ answer s u 0 false [] ∧ LineOnly s u l ∧
      ∀ i, i < 96 → u.byteAt (96 * l + i) = (if (if i < 48 then (m.words.getD 2 0).getLsbD i else (m.words.getD 3 0).getLsbD (i - 48)) then
        (lineBytes (m.words.drop 4)).getD i 0 else s.byteAt (96 * l + i))) ∧
    (let op := fld (m.words.getD 1 0) 21 18
     let x := m.words.getD 2 0
     let old := leWord ((List.range 6).map fun i => s.byteAt (a + i))
     (may .w → free → a % 6 = 0 → op = 1 ∨ op = 2 ∨ op = 3 → ∃ u, exec (.rat m) s = .next u ∧ wrote u ∧ answer s u 0 false [old] ∧ (∀ b, b < a ∨ a + 6 ≤ b → u.byteAt b = s.byteAt b) ∧
       leWord ((List.range 6).map fun i => u.byteAt (a + i)) = (if op = 1 then old + x else if op = 2 then x else if old = m.words.getD 3 0 then x else old)) ∧
     (may .w → a % 6 ≠ 0 ∨ op = 0 ∨ 3 < op → ∃ u, exec (.rat m) s = .next u ∧ u = { s with fabq := u.fabq } ∧ answer s u 4 false []) ∧
     (may .w → s.writeNow l = false → waits (exec (.rwr m) s) (s.lineClear l me) 2 ∧ (a % 6 = 0 → op = 1 ∨ op = 2 ∨ op = 3 → waits (exec (.rat m) s) (s.lineClear l me) 3))) ∧
    (∀ (c : RMsg → Instr) (n : ExpRight), (c, n) ∈ [(Instr.rrd, .r), (.rwr, .w), (.rat, .w)] →
      (here → s.part.msLines ≤ l ∨ (m.src ≠ s.node ∧ s.exported m.src l n = false) → ∃ u, exec (c m) s = .next u ∧ EventOnly { s with fabq := u.fabq } u ∧ answer s u 7 false []) ∧
      (¬ here → ∃ u, exec (c m) s = .next u ∧ u = { s with fabq := u.fabq } ∧ answer s u 8 false [])) ∧
    (let q := fld w0 8 0
     let slot := (List.range (s.qSlots q)).find? fun n => !(s.queue q).used n
     here → m.src = s.node ∨ s.exported m.src (s.qBase q / 96) .db = true →
      (s.qEn q = false → ∃ u, exec (.dbl m) s = .next u ∧ u = { s with fabq := u.fabq } ∧ answer s u 4 false []) ∧
      (∀ n, s.qEn q = true → slot = some n → n < 65536 →
        let r := s.uncWrite (s.qBase q + 96 * n) (lineBytes ((m.words.drop 1).take (fld w0 12 12 + 1))) false mbvMaster
        (r.1 = true → s.qEng q = false → ∃ u x, exec (.dbl m) s = .next u ∧ answer r.2 u 0 false [] ∧ (u.queue q).items = (s.queue q).items ++ [x] ∧ x.slot = n ∧ x.prio = w0.extractLsb' 9 3 ∧
          (∀ j, j ≠ q → u.queue j = s.queue j)) ∧
        (r.1 = false → (s.inq.filter fun x => x.db).length < 64 → waits (exec (.dbl m) s) r.2 0x14)) ∧
      (s.qEn q = true → slot = none → (s.inq.filter fun x => x.db).length < 64 → waits (exec (.dbl m) s) s 0x14)) ∧
    (here → m.src ≠ s.node → s.exported m.src (s.qBase (fld w0 8 0) / 96) .db = false → ∃ u, exec (.dbl m) s = .next u ∧ EventOnly { s with fabq := u.fabq } u ∧ answer s u 7 false []) ∧
    (¬ here → ∃ u, exec (.dbl m) s = .next u ∧ u = { s with fabq := u.fabq } ∧ answer s u 8 false []) ∧
    (∀ y : HomeQ, s.inq = [y] → y.db = true → y.m.typ = 0x14 →
      let v0 := y.m.words.getD 0 0
      let q := fld v0 8 0
      let slot := (List.range (s.qSlots q)).find? fun n => !(s.queue q).used n
      s.qEn q = true →
      (∀ n, s.qEng q = false → slot = some n → n < 65536 → (s.uncWrite (s.qBase q + 96 * n) (lineBytes ((y.m.words.drop 1).take (fld v0 12 12 + 1))) false mbvMaster).1 = true →
        ∃ u x, exec .doorbellRetry s = .next u ∧ u.inq = [] ∧ (u.queue q).items = (s.queue q).items ++ [x] ∧ x.slot = n ∧
          ∃ f, f ∈ u.fabq ∧ f.m.typ = 4 ∧ f.m.dst = y.m.src ∧ f.m.tag = y.m.tag ∧ f.m.status = 0) ∧
      (slot = none → (s.ticks < y.tick + 25 → exec .doorbellRetry s = .next s) ∧
        (y.tick + 25 ≤ s.ticks → ∃ u f, exec .doorbellRetry s = .next u ∧ u = { s with inq := [{ y with tick := s.ticks }], fabq := s.fabq ++ [f] } ∧ f.m.typ = 5 ∧ f.m.dst = y.m.src ∧ f.m.tag = y.m.tag)))

/-- R444, R447, R451, R453, R454: what comes back. RSP ends the request of its tag: a load takes its bytes, the stores of its slot that were sent are done, an operation slot shows its result and status; an answer to
nothing changes nothing. PND keeps a request alive, and every 1 µs its load or its stores are told so; 100 µs without an answer end it (TARGET_DEAD, 8). LMW of the partner is kept and acknowledged. -/
def Obligations.RemoteAnswersAndMirrorWrites : Prop :=
  ∀ (s : State) (m : RMsg), s.phase = .run →
    let found := s.rops.find? fun x => x.tag = m.tag ∧ x.sent = true
    let mine (r : ROp) : Prop := found = some r ∧ s.rops = [r]
    (found = none → m.status = 0 ∨ (s.dir.find? fun (l, d) => 2 ^ 44 ≤ l ∧ (d.txn.any fun t => t.remote && decide (t.rtag = m.tag)) = true) = none → exec (.rsp m) s = .next s) ∧
    (∀ r, mine r → s.sbWait = [] →
      (∀ i, r.who = .ops i → i ≤ 64 → r.msg.typ = 3 → ∃ u, exec (.rsp m) s = .next u ∧ u = { s with rops := [], dev := u.dev } ∧
        (u.rg (aOp i 0x28)).getLsbD 0 = false ∧ fld (u.rg (aOp i 0x28)) 15 8 = (if m.status ≠ 0 then m.status.toNat else if m.pois then 6 else 0) ∧
        u.rg (aOp i 0x20) = (if m.status = 0 then m.words.getD 0 0 else s.rg (aOp i 0x20))) ∧
      (∀ p sn n l, r.who = .load p sn → r.msg.typ = 1 → m.status = 0 → ((s.proc p).loads.findIdx? fun l => l.sn = sn ∧ l.data.isNone) = some n → (s.proc p).loads[n]? = some l →
        exec (.rsp m) s = .next (({ s with rops := [] }).loadGets p n l (((lineBytes (m.words.take 16)).drop (l.addr % 96)).take l.kind.size) m.pois)) ∧
      (∀ p i x, r.who = .store p i → r.msg.typ = 2 → m.status = 0 → ((s.proc p).slots.find? fun x => x.id = i) = some x →
        let rest := x.ents.filter fun y => y.st ≠ .sent
        ∃ u, exec (.rsp m) s = .next u ∧ OnlyProc { s with rops := [] } u p ∧
          u.proc p = { s.proc p with slots := ((s.proc p).slots.map fun y => if y.id = i then { y with ents := rest } else y).filter fun y => !y.ents.isEmpty })) ∧
    (exec (.pnd m) s = .next { s with rops := s.rops.map fun r => if r.tag = m.tag ∧ r.msg.dst = m.src ∧ r.sent = true then { r with tick := s.ticks } else r }) ∧
    (∀ r p, s.rops = [r] → r.tag = m.tag → r.pt + 25 ≤ s.ticks → r.sent = false ∨ s.ticks < r.tick + 2500 →
      (∀ sn, r.who = .load p sn → ∃ u, exec (.remotePendingTick m.tag) s = .next u ∧ OnlyProc { s with rops := [{ r with pt := s.ticks }] } u p ∧
        u.proc p = { s.proc p with loads := (s.proc p).loads.map fun l => if l.sn = sn then { l with tick := s.ticks } else l }) ∧
      (∀ i, r.who = .store p i → ∃ u, exec (.remotePendingTick m.tag) s = .next u ∧ OnlyProc { s with rops := [{ r with pt := s.ticks }] } u p ∧
        u.proc p = { s.proc p with slots := (s.proc p).slots.map fun x => if x.id = i then { x with ents := x.ents.map fun y => { y with tick := s.ticks } } else x })) ∧
    (∀ r, s.rops = [r] → r.tag = m.tag → r.sent = true → s.sbWait = [] →
      (s.ticks < r.tick + 2500 → exec (.fabricTimeout m.tag) s = .next s) ∧
      (∀ i, r.tick + 2500 ≤ s.ticks → r.who = .ops i → i ≤ 64 → ∃ u, exec (.fabricTimeout m.tag) s = .next u ∧ EventOnly { s with rops := [], ftos := satAdd 24 s.ftos 1 } u ∧
        (u.rg (aOp i 0x28)).getLsbD 0 = false ∧ fld (u.rg (aOp i 0x28)) 15 8 = 8) ∧
      (∀ p sn, r.tick + 2500 ≤ s.ticks → r.who = .load p sn → ∃ u, exec (.fabricTimeout m.tag) s = .next u ∧ EventOnly { s with rops := [], ftos := satAdd 24 s.ftos 1 } u)) ∧
    (let v := s.rg (aElc 8)
     let o := (m.words.getD 0 0).toNat
     (v.getLsbD 14 = true → v.extractLsb' 0 14 = m.src → o < 0x18000 → ∃ u f, exec (.lmw m) s = .next u ∧ u = { s with mirIn := spIns s.mirIn (0x900000000 + o + 0x18000) (lineBytes ((m.words.drop 2).take 16)), fabq := s.fabq ++ [f] } ∧
       f.m.typ = 0x11 ∧ f.m.dst = m.src ∧ f.m.tag = m.tag) ∧
     (v.getLsbD 14 = false ∨ v.extractLsb' 0 14 ≠ m.src → exec (.lmw m) s = .next s))

/-- R454, R449, R205, R217: coherence messages of a listed member are taken in the order of their numbers: a request joins what the home of its line acts on, an order to give a line up is obeyed and
answered, a completion reaches the home. A request that the windows refuse, or that reaches a leaving module, is
answered with status 7 or 8. One ahead of its turn is held back; one from a node outside the group is discarded. The numbers of the messages are the model's (log entries 45 and 61). -/
def Obligations.CoherenceOverTheFabric : Prop :=
  ∀ (s : State) (m : RMsg) (i : Nat), s.phase = .run → s.cheld = [] → i < 16 → s.listed m.src = some i →
    let a := (m.words.getD 0 0).toNat
    let w1 := m.words.getD 1 0
    let key := (i + 1) * 2 ^ 44 + a / 96
    let inTurn := fld w1 47 32 = spGetD 0 s.cseqRx m.src.toNat
    let t : State := { s with cseqRx := spPut 0 s.cseqRx m.src.toNat ((fld w1 47 32 + 1) % 65536) }
    (inTurn → fld w1 3 0 = 0 → s.away = false → a / 96 < s.part.msLines → s.exported m.src (a / 96) .r = true → ∃ u x, exec (.crq m) s = .next u ∧ u = { t with net := s.net ++ [x] } ∧
      x.kind = .rdS ∧ x.src = .ag (.member (BitVec.ofNat 4 i)) ∧ x.dst = s.homeNode (a / 96) ∧ x.line = a / 96 ∧ x.req = .member (BitVec.ofNat 4 i)) ∧
    (inTurn → fld w1 3 0 = 0 → s.away = false → s.part.msLines ≤ a / 96 ∨ s.exported m.src (a / 96) .r = false → ∃ u f, exec (.crq m) s = .next u ∧
      EventOnly { t with fabq := s.fabq ++ [f], cseqTx := u.cseqTx, noCmp := s.noCmp ++ [(a / 96, BitVec.ofNat 4 i)] } u ∧ f.m.typ = 9 ∧ f.m.dst = m.src ∧ f.m.status = 7 ∧ f.m.pois = true ∧
      f.m.words.getD 0 0 = m.words.getD 0 0) ∧
    (inTurn → fld w1 3 0 = 0 → s.away = true → ∃ u f, exec (.crq m) s = .next u ∧ u = { t with fabq := s.fabq ++ [f], cseqTx := u.cseqTx, noCmp := s.noCmp ++ [(a / 96, BitVec.ofNat 4 i)] } ∧
      f.m.typ = 9 ∧ f.m.dst = m.src ∧ f.m.status = 8) ∧
    (inTurn → fld w1 3 0 = 10 → ∃ u x, exec (.crs m) s = .next u ∧ u = { t with net := s.net ++ [x] } ∧ x.kind = .cmp ∧ x.line = a / 96 ∧ x.src = .ag (.member (BitVec.ofNat 4 i))) ∧
    (inTurn → fld w1 3 0 = 3 → s.fwdIn = [] → s.remQuiet key = true → (s.dirOf key).txn = none → ∃ u f, exec (.crs m) s = .next u ∧ u.fabq = s.fabq ++ [f] ∧ f.m.typ = 9 ∧ f.m.dst = m.src ∧
      fld (f.m.words.getD 1 0) 3 0 = 9 ∧ (u.dirOf key).rem = .free ∧ (u.dirOf key).owner = .none ∧ (u.dirOf key).rdat = none ∧ u.ms = s.ms ∧ u.fwdIn = [] ∧ ∀ p : BitVec 6, (u.proc p).g = (s.proc p).g) ∧
    (∀ c : RMsg → Instr, c ∈ [Instr.crq, .crs] → (¬ inTurn → ∃ u x, exec (c m) s = .next u ∧ u = { s with cheld := [x] } ∧ x.src = m.src ∧ x.words = m.words) ∧
      (∀ n : BitVec 14, s.listed n = none → ∃ u, exec (c { m with src := n }) s = .next u ∧ EventOnly s u))

/-- R451: a write of a slot's CMD with FADD, SWAP or CAS issues one RAT with the slot's address and operands, DOORBELL one DBL; the slot is BUSY until its answer. A write while it is BUSY only sets LOST; an address that is no
multiple of 6 completes with status 4 at once, any with 8 once the module leaves the fabric.
R455, R458: ARRIVE sets WAIT and tells the root at once when no remote write is out, else when the last one has ended; a second write only sets LOST. The root counts the arrivals of each generation and releases every node at COUNT; a release
that fits ends WAIT, sets DONE and counts GEN; ABORT at the root releases who has arrived. Writing LEAVE starts leaving the fabric. -/
def Obligations.OperationsAndSystemBarriers : Prop :=
  (
  ∀ (s : State) (a : Via) (slot : BitVec 7) (node : BitVec 14) (c : Via → BitVec 7 → BitVec 14 → Instr) (op : Nat),
    (c, op) ∈ [(Instr.opFadd, 1), (.opSwap, 2), (.opCas, 3), (.opDoorbell, 4)] → slot.toNat ≤ 64 → s.viaReach a (aOp slot.toNat 8) = true →
    let i := slot.toNat
    let v := s.rg (aOp i 0x28)
    let addr := s.rg (aOp i 0)
    (v.getLsbD 0 = true → ∃ u, exec (c a slot node) s = .next u ∧ u = { s with dev := u.dev } ∧ u.rg (aOp i 0x28) = setBit v 1 true ∧ ∀ o, o ≠ aOp i 0x28 → u.rg o = s.rg o) ∧
    (v.getLsbD 0 = false → op ≠ 4 → addr.toNat % 6 ≠ 0 → ∃ u, exec (c a slot node) s = .next u ∧ u = { s with dev := u.dev } ∧
      (u.rg (aOp i 0x28)).getLsbD 0 = false ∧ fld (u.rg (aOp i 0x28)) 15 8 = 4) ∧
    (v.getLsbD 0 = false → (op = 4 ∨ addr.toNat % 6 = 0) → s.away = true → ∃ u, exec (c a slot node) s = .next u ∧ u = { s with dev := u.dev } ∧
      (u.rg (aOp i 0x28)).getLsbD 0 = false ∧ fld (u.rg (aOp i 0x28)) 15 8 = 8) ∧
    (v.getLsbD 0 = false → (op = 4 ∨ addr.toNat % 6 = 0) → s.away = false → s.rops = [] → ∃ u f r, exec (c a slot node) s = .next u ∧
      u = { s with dev := u.dev, rops := [r], rtag := s.rtag + 1, fabq := s.fabq ++ [f] } ∧ u.rg (aOp i 0x28) = setBit v 0 true ∧ r.who = .ops i ∧ r.tag = s.rtag ∧ r.sent = true ∧ r.tick = s.ticks ∧
      f.m.dst = node ∧ f.m.tag = s.rtag ∧ (op = 4 → f.m.typ = 0x14 ∧ f.m.words = [addr &&& 0x1FFF, s.rg (aOp i 0x10), s.rg (aOp i 0x18)]) ∧
      (op ≠ 4 → f.m.typ = 3 ∧ f.m.words.length = 4 ∧ f.m.words.getD 0 0 = addr ∧ fld (f.m.words.getD 1 0) 21 18 = op ∧ f.m.words.getD 2 0 = s.rg (aOp i 0x10) ∧ f.m.words.getD 3 0 = s.rg (aOp i 0x18)))) ∧
  (
  ∀ (s : State) (a : Via) (c : BitVec 2),
    let n := c.toNat
    let v := s.sbStat n
    let root : BitVec 14 := (s.rg (aSb n 0)).extractLsb' 0 14
    (s.viaReach a (aSb n 8) = true →
      (v.getLsbD 0 = true → ∃ u, exec (.arrive a c) s = .next u ∧ u = { s with dev := u.dev } ∧ u.sbStat n = setBit v 2 true) ∧
      (v.getLsbD 0 = false → (s.rops.all fun r => r.msg.typ = 1) = true → ∃ u f, exec (.arrive a c) s = .next u ∧ u = { s with dev := u.dev, fabq := s.fabq ++ [f] } ∧ u.sbStat n = setBit v 0 true ∧
        f.m.typ = 0x18 ∧ f.m.dst = root ∧ fld (f.m.words.getD 0 0) 1 0 = n ∧ (f.m.words.getD 0 0).extractLsb' 8 16 = s.sbGen n) ∧
      (v.getLsbD 0 = false → (s.rops.all fun r => r.msg.typ = 1) = false → ∃ u, exec (.arrive a c) s = .next u ∧ u = { s with dev := u.dev, sbWait := u.sbWait } ∧ u.sbStat n = setBit v 0 true ∧
        spGet u.sbWait n = some ((s.rops.filter fun r => r.msg.typ ≠ 1).map fun r => r.tag))) ∧
    (∀ m : RMsg, s.phase = .run → fld (m.words.getD 0 0) 1 0 = n →
      let gen : BitVec 16 := (m.words.getD 0 0).extractLsb' 8 16
      let was := spGetD [] s.sbArr n
      let count := fld (s.rg (aSb n 0)) 28 14
      ((was.filter fun x => x.2 = gen).length + 1 ≠ count → ∃ u, exec (.sba m) s = .next u ∧ u = { s with sbArr := u.sbArr } ∧ spGetD [] u.sbArr n = was ++ [(m.src, gen)]) ∧
      ((was.filter fun x => x.2 = gen).length + 1 = count → ∃ u fs, exec (.sba m) s = .next u ∧ u = { s with sbArr := u.sbArr, fabq := s.fabq ++ fs } ∧
        spGetD [] u.sbArr n = was.filter (fun x => x.2 ≠ gen) ∧ fs.map (fun f => f.m.dst) = (was.filter fun x => x.2 = gen).map (fun x => x.1) ++ [m.src] ∧
        ∀ f ∈ fs, f.m.typ = 0x19 ∧ fld (f.m.words.getD 0 0) 1 0 = n ∧ (f.m.words.getD 0 0).extractLsb' 8 16 = gen ∧ (f.m.words.getD 0 0).getLsbD 4 = false)) ∧
    (∀ (gen : BitVec 16) (ab : Bool), s.phase = .run →
      (v.getLsbD 0 = true → s.sbGen n = gen → ∃ u, exec (.sbr c gen ab) s = .next u ∧ u = { s with dev := u.dev } ∧ (u.sbStat n).getLsbD 0 = false ∧ (u.sbStat n).getLsbD 1 = true ∧
        (u.sbStat n).getLsbD 4 = ab ∧ u.sbGen n = gen + 1 ∧ (u.rg (aMbg 0x48)).getLsbD 1 = true) ∧
      (v.getLsbD 0 = false ∨ s.sbGen n ≠ gen → exec (.sbr c gen ab) s = .next s)) ∧
    (s.viaReach a (aSb n 0x18) = true →
      (root ≠ s.node → exec (.sbAbort a c) s = .next s) ∧
      (root = s.node → ∃ u fs, exec (.sbAbort a c) s = .next u ∧ EventOnly { s with sbArr := u.sbArr, fabq := s.fabq ++ fs } u ∧ spGetD [] u.sbArr n = [] ∧
        fs.map (fun f => f.m.dst) = (spGetD [] s.sbArr n).map (fun x => x.1) ∧ ∀ f ∈ fs, f.m.typ = 0x19 ∧ fld (f.m.words.getD 0 0) 1 0 = n ∧ (f.m.words.getD 0 0).getLsbD 4 = true)) ∧
    (s.viaReach a (aMbg 0x20) = true → s.away = false → (s.rops.all fun r => r.sent) = true → exec (.leave a) s = .next { s with leaving := some s.ftos }))

/-- R466, R467, R468: with three units voting the one that differs from two that agree is voted out and the triad is duplex; three different values, or a failed check of the only voting unit, are FATAL. In
duplex the unit with the lower claim number is voted out. A failed internal check lowers the unit's claim number by 4.
R469, R470, R471, R478: a write of BRS_ROTATE starts a rotation, a second one only sets LOST; at each step the next unit leaves the vote for its test; passing, it votes again and the rotation
goes on or ends; the only voting unit stays; a unit voted out that passes its test becomes standby; a unit that fails is failed. The hours since the last rotation are counted. -/
def Obligations.BrassTriad : Prop :=
  (
  ∀ (s : State), NoInjection s → s.brassOn = true →
    let outs (x : Res) (vs : List Nat) (cfg : Nat) : Prop := ∃ u, x = .next u ∧ EventOnly { s with brs := u.brs } u ∧ u.voters = vs ∧ fld u.brsStat 5 4 = cfg ∧ u.brs.switches = satAdd 16 s.brs.switches 1
    (∀ v0 v1 v2 : BitVec 8, s.voters = [0, 1, 2] →
      (v0 = v1 → v1 = v2 → exec (.voterDisagreement v0 v1 v2) s = .next s) ∧
      (v0 = v1 → v1 ≠ v2 → outs (exec (.voterDisagreement v0 v1 v2) s) [0, 1] 1) ∧
      (v0 = v2 → v1 ≠ v2 → outs (exec (.voterDisagreement v0 v1 v2) s) [0, 2] 1) ∧
      (v1 = v2 → v0 ≠ v1 → outs (exec (.voterDisagreement v0 v1 v2) s) [1, 2] 1) ∧
      (v0 ≠ v1 → v1 ≠ v2 → v0 ≠ v2 → s.phase ≠ .fatal → ∃ u, exec (.voterDisagreement v0 v1 v2) s = .next u ∧ u.phase = .fatal ∧ u.tun.final.isSome = true)) ∧
    (∀ (v0 v1 v2 : BitVec 8), s.voters = [0, 1] → v0 ≠ v1 → (∀ x, s.standby x = false) →
      outs (exec (.voterDisagreement v0 v1 v2) s) [if s.claimOf 0 < s.claimOf 1 then 1 else 0] 2) ∧
    (∀ x : BitVec 2, x.toNat < 3 →
      (s.voters ≠ [x.toNat] → ∃ u, exec (.brassInternalCheck x) s = .next u ∧ u = { s with dev := u.dev } ∧ u.claimOf x.toNat = (if 4 ≤ s.claimOf x.toNat then s.claimOf x.toNat - 4 else s.claimOf x.toNat) ∧
        ∀ y, y < 3 → y ≠ x.toNat → u.claimOf y = s.claimOf y) ∧
      (s.voters = [x.toNat] → s.phase ≠ .fatal → ∃ u, exec (.brassInternalCheck x) s = .next u ∧ u.phase = .fatal))) ∧
  (
  ∀ (s : State), NoInjection s →
    (∀ (a : Via) (v : Word), s.feMay a (aBrs 0x10) = true →
      (v.getLsbD 0 = true → s.brsStat.getLsbD 3 = false → ∃ u, exec (.rotate a v) s = .next u ∧ u = { s with dev := u.dev, brs := { s.brs with rot := some 0, out := none, tested := 0, failed := 0 } } ∧
        u.brsStat = setBit s.brsStat 3 true) ∧
      (v.getLsbD 0 = true → s.brsStat.getLsbD 3 = true → ∃ u, exec (.rotate a v) s = .next u ∧ u = { s with dev := u.dev } ∧ u.brsStat = setBit s.brsStat 15 true) ∧
      (v.getLsbD 0 = false → exec (.rotate a v) s = .next s)) ∧
    (∀ x, s.brs.rot = some x → s.phase = .run → s.brs.out = none → s.sparingRuns = false → s.voters ≠ [x] → s.votes x = true →
      ∃ u, exec .rotationStep s = .next u ∧ u = { s with dev := u.dev, brs := u.brs } ∧ u.votes x = false ∧ u.brs.out = some (BitVec.ofNat 2 x) ∧ ∀ y, y ≠ x → u.votes y = s.votes y) ∧
    (∀ x, s.brs.rot = some x → x < 2 → s.phase = .run → s.brs.out = none → s.sparingRuns = false → s.voters = [x] →
      exec .rotationStep s = .next { s with brs := { s.brs with rot := some (x + 1) } }) ∧
    (∀ x : BitVec 2, x.toNat < 3 → s.brassOn = true →
      (s.brs.out = some x → x ≠ 2 → ∃ u, exec (.unitSelfTestComplete x true) s = .next u ∧ EventOnly { s with brs := u.brs } u ∧ u.votes x.toNat = true ∧ u.brs.out = none ∧
        u.brs.rot = some (x.toNat + 1) ∧ u.brs.tested = s.brs.tested + 1 ∧ ∀ y, y ≠ x.toNat → u.votes y = s.votes y) ∧
      (s.brs.out = some x → x = 2 → ∃ u, exec (.unitSelfTestComplete x true) s = .next u ∧ EventOnly { s with brs := u.brs } u ∧ u.votes 2 = true ∧ u.brs.rot = none ∧ u.brsStat.getLsbD 3 = false ∧
        u.brs.rots = satAdd 16 s.brs.rots 1 ∧ u.brs.hours = 0) ∧
      (s.brs.out ≠ some x → s.brs.test.getLsbD x.toNat = true →
        (∃ u, exec (.unitSelfTestComplete x true) s = .next u ∧ EventOnly { s with brs := u.brs } u ∧ u.standby x.toNat = true ∧ u.votes x.toNat = s.votes x.toNat) ∧
        (∃ u, exec (.unitSelfTestComplete x false) s = .next u ∧ EventOnly { s with brs := u.brs } u ∧ u.standby x.toNat = false ∧ u.brsStat.getLsbD (12 + x.toNat) = true)) ∧
      (s.brs.out ≠ some x → s.brs.test.getLsbD x.toNat = false → ∀ b, exec (.unitSelfTestComplete x b) s = .next s)) ∧
    (s.brassOn = true → s.brs.hourT + 90000000000 ≤ s.ticks → ∃ u, exec .rotationAgeHour s = .next u ∧ EventOnly { s with brs := u.brs } u ∧ u.brs.hours = s.brs.hours + 1 ∧
      fld u.brsStat 47 40 = min (s.brs.hours + 1) 255) ∧
    (s.ticks < s.brs.hourT + 90000000000 → exec .rotationAgeHour s = .next s))

/-- R475, R477, R479, R480, R481, R483, R484, R485: FE_CLAIM with the captured time claims the error, any other value sets CLOST; FE_STAT frees a capture that wants no claim; FE_INJ arms. A claim that is missing for the
time set raises the class by one: to CONTAINED from DEFERRED, from CONTAINED to FATAL. A fault state without a new error for the quiet period is left. FLT_CREL lets what was contained go on. -/
def Obligations.ClaimsEscalationAndRelease : Prop :=
  ∀ (s : State) (b : Blk),
    let f := s.feAt (feBase b)
    let n := feBase b
    let others (u : State) : Prop := ∀ j, j ≠ n → u.feAt j = s.feAt j
    (∀ (a : Via) (v : Word), s.feMay a (n + 0x20) = true →
      (f.stat.getLsbD 0 = true → f.stat.getLsbD 5 = true → fld v 23 0 = fld f.time 23 0 → ∃ u, exec (.feClaim a b v) s = .next u ∧ u = { s with fe := u.fe } ∧ others u ∧
        u.feAt n = { f with stat := setBit f.stat 4 true, timer := none }) ∧
      (f.stat.getLsbD 0 = false ∨ f.stat.getLsbD 5 = false ∨ fld v 23 0 ≠ fld f.time 23 0 → ∃ u, exec (.feClaim a b v) s = .next u ∧ u = { s with fe := u.fe } ∧ others u ∧
        u.feAt n = { f with stat := setBit f.stat 11 true })) ∧
    (∀ (a : Via) (v : Word), s.feMay a n = true → f.stat.getLsbD 0 = true → v.getLsbD 0 = true → ∃ u, exec (.feStatFree a b v) s = .next u ∧ u = { s with fe := u.fe } ∧ others u ∧
      (f.wants = false → (u.feAt n).stat.getLsbD 0 = false ∧ (u.feAt n).timer = none) ∧ (f.wants = true → (u.feAt n).stat.getLsbD 0 = true ∧ (u.feAt n).timer = f.timer) ∧ (u.feAt n).addr = f.addr) ∧
    (∀ (a : Via) (v : Word), s.feMay a (n + 0x38) = true → b ≠ .cob → b ≠ .brs → fld v 19 16 < injUnits b (fld v 27 24) → ∃ u, exec (.feInjArm a b v) s = .next u ∧ u = { s with fe := u.fe } ∧ others u ∧
      (u.feAt n).inj.getLsbD 32 = v.getLsbD 32 ∧ fld (u.feAt n).inj 27 24 = fld v 27 24 ∧ fld (u.feAt n).inj 19 16 = fld v 19 16 ∧ fld (u.feAt n).inj 15 0 = fld v 15 0 ∧ (u.feAt n).stat = f.stat) ∧
    (∀ t, f.timer = some t → s.phase = .run → f.wants = true → t + 25 * fld (s.rg (aBrs 0x800) 0x3E8000A) 35 16 ≤ s.ticks →
      (fld f.stat 8 6 = 3 → fld f.info 27 24 ≠ 0 → f.info.getLsbD 2 = false → ∃ u, exec (.escalationTimerExpiry b) s = .next u ∧ EventOnly s u ∧ others u ∧ fld (u.feAt n).stat 8 6 = 4 ∧
        (u.feAt n).stat.getLsbD 43 = true ∧ (u.feAt n).escs = satAdd 16 f.escs 1 ∧ (u.feAt n).timer = some s.ticks) ∧
      (fld f.stat 8 6 = 4 → ∃ u, exec (.escalationTimerExpiry b) s = .next u ∧ u.phase = .fatal)) ∧
    (f.timer = none ∨ f.wants = false → exec (.escalationTimerExpiry b) s = .next s) ∧
    (∀ c : BitVec 3, 1 ≤ c.toNat → c.toNat ≤ 6 → s.phase = .run → f.stat.getLsbD (39 + c.toNat) = true → spGetD 0 f.quiet c.toNat + 25000000 * fld (s.rg (aBrs 0x800) 0x3E8000A) 15 0 ≤ s.ticks →
      ∃ u, exec (.quietPeriodExpiry b c) s = .next u ∧ EventOnly s u ∧ others u ∧ (u.feAt n).stat.getLsbD (39 + c.toNat) = false ∧ (u.feAt n).recov = satAdd 16 f.recov 1) ∧
    (∀ (a : Via) (v : Word), s.feMay a (aBrs 0x820) = true → v.getLsbD 7 = true →
      let p : BitVec 6 := BitVec.ofNat 6 (fld v 5 0)
      ∃ u, exec (.crel a v) s = .next u ∧ OnlyProc s u p ∧ (u.proc p).contd = false ∧ (u.proc p).run = (if (s.proc p).run = .contained then .running else (s.proc p).run) ∧ (u.proc p).g = (s.proc p).g) ∧
    (∀ (a : Via) (v : Word), s.feMay a (aBrs 0x820) = true → v.getLsbD 7 = false → s.icont.getLsbD (fld v 5 0) = true →
      ∃ u, exec (.crel a v) s = .next u ∧ u.icont = setIn s.icont (fld v 5 0) false ∧ (∀ q ∈ s.instRings (fld v 5 0), (u.rp q).held.getLsbD 2 = false) ∧ u.ms = s.ms)

/-- R10, R12, R39, R276, R301, R303: a register write reaches the register that stands at the offset, if the writer reaches it: each field takes what its access code allows, no other register changes; a write from the host of another size or
alignment is refused and recorded. CLU_MODE.NEXT is kept for the next reset, CHECKED stands. A mask bit masks or unmasks its vector. The refusal's payload widths are the model's (log entry 57).
R502, R293: each write of a REQ clears RDY and asks for one capture, however often it is written; the capture sets RDY and clears the request. -/
def Obligations.RegisterWritesAndSnapshots : Prop :=
  (
  ∀ (s : State) (a : Via),
    (∀ (off o : Nat) (d : RegD) (v : BitVec 64), (locate off = .pew o ∧ o ≠ 0x10 ∧ o ≠ 0x60 ∧ o ≠ 0x80 ∧ o ≠ 0x90) ∨ (locate off = .zn o ∧ o ≠ 8) → off % 8 = 0 → feOff (locate off) = none →
      regOf s.part (locate off) = some d → s.viaReach a off = true → ∃ u, exec (.registerWrite a (.dev off) 8 v) s = .next u ∧ u = { s with dev := u.dev, procs := u.procs } ∧
        (∀ p, u.proc p = { s.proc p with extSeen := (u.proc p).extSeen, timSeen := (u.proc p).timSeen, mbxSeen := (u.proc p).mbxSeen }) ∧
        u.rg off d.reset = writeFlds ((s.rg 0).getLsbD 0) (s.rg off d.reset) (v.setWidth 48) d.flds ∧ ∀ x r, x ≠ off → u.rg x r = s.rg x r) ∧
    (∀ (off size : Nat) (v : BitVec 64), s.viaReach a off = false → size = 8 → off % 8 = 0 → exec (.registerWrite a (.dev off) size v) s = .next s) ∧
    (∀ (off size : Nat) (v : BitVec 64), a = .pf → size ≠ 8 ∨ off % 8 ≠ 0 → ∃ u, exec (.registerWrite a (.dev off) size v) s = .next u ∧ EventOnly s u ∧ (s.pewOn = false → u = s)) ∧
    (∀ (vec : BitVec 11) (v : BitVec 64), a = .pf → s.pewOn = true → s.phase ≠ .fatal → s.cxl.on.Nodup →
      (v.getLsbD 0 = true → ∃ u, exec (.registerWrite a (.msix vec) 8 v) s = .next u ∧ u = { s with cxl := { s.cxl with on := u.cxl.on } } ∧ (vec.toNat ∉ u.cxl.on) ∧ (∀ k, k ≠ vec.toNat → (k ∈ u.cxl.on ↔ k ∈ s.cxl.on))) ∧
      (v.getLsbD 0 = false → ∃ u, exec (.registerWrite a (.msix vec) 8 v) s = .next u ∧ vec.toNat ∈ u.cxl.on ∧ (vec.toNat ∈ s.cxl.pend → u.outbox = .msix 0 vec :: s.outbox) ∧
        (vec.toNat ∉ s.cxl.pend → u.outbox = s.outbox) ∧ u.ms = s.ms ∧ u.dev = s.dev)) ∧
    (∀ (k : BitVec 3) (v : BitVec 48), s.viaReach a (aClu k.toNat 0x400) = true → ∃ u c, exec (.cluModeNext a k v) s = .next u ∧ u = { s with dev := u.dev, bcfg := c :: s.bcfg.take 1 } ∧
      (u.rg (aClu k.toNat 0x400)).getLsbD 1 = v.getLsbD 1 ∧ (u.rg (aClu k.toNat 0x400)).getLsbD 0 = (s.rg (aClu k.toNat 0x400)).getLsbD 0 ∧ (k.toNat < 8 → c.mode.getLsbD k.toNat = v.getLsbD 1) ∧
      ∀ x, x ≠ aClu k.toNat 0x400 → u.rg x = s.rg x)) ∧
  (
  ∀ (s : State) (a : Via),
    let asked (x : Res) (b : SnapBlk) (off : Nat) : Prop := ∃ u, x = .next u ∧ u = { s with dev := u.dev, snaps := u.snaps } ∧ (∀ o, o ≠ off → u.rg o = s.rg o) ∧ u.rg off = 0 ∧
      (b ∈ s.snaps → u.snaps = s.snaps) ∧ (b ∉ s.snaps → u.snaps = s.snaps ++ [b])
    (∀ (c : Via → Instr) (b : SnapBlk) (off : Nat), (c, b, off) ∈ [(Instr.dirsnapReq, SnapBlk.dir, aMs 0xC0F8), (.errsnapReq, .err, aMs 8), (.tunSnapReq, .tun, aTun 0x10), (.chqSnapReq, .chq, aChq 0x808),
        (.elcSnapReq, .elc, aElc 0x28), (.cobSnapReq, .cob, aCob 8), (.znSnapReq, .zn, aZn 8), (.mbgSnapReq, .mbg, aMbg 0x30), (.pewSnapReq, .pew, aPew 0x10), (.clkSnapReq, .clk, aClk 8)] →
      s.viaReach a off = true → asked (exec (c a) s) b off) ∧
    (∀ l : BitVec 3, s.viaReach a (aMbv l.toNat 0x10) = true → asked (exec (.mbvSnapReq a l) s) (.mbv l) (aMbv l.toNat 0x10)) ∧
    (s.feMay a (aBrs 0x840) = true → asked (exec (.fltSnapReq a) s) .flt (aBrs 0x840)) ∧
    (∀ p : BitVec 6, s.hasProc p = true → .core p ∉ s.snaps → ∃ u, exec (.rsnapReq p) s = .next u ∧ u.snaps = s.snaps ++ [.core p] ∧ (u.proc p).crGet 64 = 0 ∧ (u.proc p).g = (s.proc p).g ∧ u.ms = s.ms) ∧
    (∀ b, s.phase = .run → b ∈ s.snaps → s.snaps.Nodup → ∃ u, exec (.snapshotCapture b) s = .next u ∧ b ∉ u.snaps ∧ (∀ x, x ≠ b → (x ∈ u.snaps ↔ x ∈ s.snaps)) ∧ u.ms = s.ms ∧
      (b = .pew → u.rg (aPew 0x10) = 2 ∧ u.rg (aPew 0x38) = BitVec.ofNat 48 s.pew.ms ∧ u.rg (aPew 0x40) = BitVec.ofNat 48 s.pew.pcyc) ∧
      (b = .clk → u.rg (aClk 8) = 2 ∧ u.rg (aClk 0x10) = BitVec.ofNat 48 (s.rearms * 2 ^ 24 + s.refLost)) ∧
      (∀ l, b = .mbv l → u.rg (aMbv l.toNat 0x10) = 2 ∧ u.rg (aMbv l.toNat 0x28) = BitVec.ofNat 48 (s.lnk l.toNat).crcN)) ∧
    (∀ b, b ∉ s.snaps → exec (.snapshotCapture b) s = .next s))

/-- The module takes the command at the front of its queue and does it on the queue's rest (log entry 1). -/
def Obligations.StepTakesFrontCommand : Prop :=
  ∀ (c : Instr) (cs : List Instr) (s : State), step { s with pending := c :: cs } = exec c { s with pending := cs }

/-- R268, R269, R289, R509, R510: on an empty queue one period of REFCLK_SVC passes (log entry 2): nothing while the module has no VAUX; before release only the counts of powered operation go on, after it the time base
too. A boot goes from phase to phase, one in a tick (the model's choice, log entry 94): the source of the start is chosen at the end of PHASE 4, where without a valid record nothing is released; PHASE 6 waits for an
interrupted self-test, and with PHASE 8 the hold-up check begins. -/
def Obligations.EmptyQueueTicks : Prop :=
  ∀ (s : State), s.pending = [] →
    (s.vaux = false → step s = .next s) ∧
    (s.vaux = true → s.phase = .off → step s = .next { s with sel := (s.sel + 1) % 500 }) ∧
    (s.vaux = true → s.phase = .nores ∨ s.phase = .flush ∨ s.phase = .flushed → ∃ u, step s = .next u ∧ u = { s with sel := u.sel, ticks := s.ticks + 1, pew := u.pew } ∧ (s.phase = .flushed → u.pew = s.pew)) ∧
    (s.vaux = true → s.phase = .fatal → ∃ u, step s = .next u ∧ u = { s with sel := u.sel, ticks := s.ticks + 1, tb := s.tb + 1, pew := u.pew }) ∧
    (s.vaux = true → s.phase = .boot →
      let was := fld (s.rg 0x10) 3 0
      let phase (n : Nat) (more : State → Prop) : Prop := ∃ u, step s = .next u ∧ fld (u.rg 0x10) 3 0 = n ∧ more u
      let waits : Prop := ∃ u, step s = .next u ∧ u = { s with sel := u.sel, ticks := s.ticks + 1, pew := u.pew }
      (∀ b, s.boot = some b → (was = 1 → phase 2 fun u => u.ms = s.ms ∧ u.phase = .boot) ∧ (was = 2 → phase 3 fun u => u.ms = s.ms ∧ u.phase = .boot)) ∧
      (was = 3 → phase 4 fun u => u.ms = s.ms ∧ (s.source = none → u.phase = .nores ∧ u.pstat.getLsbD 7 = true) ∧ (∀ x, s.source = some x → u.phase = .boot ∧ u.tun.src = some x)) ∧
      (∀ x, s.tun.src = some x → (was = 4 → phase 5 fun _ => True) ∧ (was = 5 → s.pairTests = true → waits) ∧ (was = 5 → s.pairTests = false → phase 6 fun u => u.ms = s.ms) ∧
        (was = 6 → phase 7 fun u => ∀ n k, spGet u.kslots n = some k → k.ctr = k.ceil)) ∧
      (was = 7 → phase 8 fun u => u.tun.checking = true ∧ u.ms = s.ms ∧ u.procs = s.procs) ∧
      (was = 8 → waits))

/-- R1, R2, R23, R224, R254, R511: the state right after module reset, as far as the spec gives it: nothing waits, no byte of the main store is listed, no line is image-dirty, no processor runs, its registers are zero and S15 spans the main store, and nothing is in flight. The part and the phase are the
model's choice (log entries 4 and 5). -/
def Obligations.ResetState : Prop :=
  let s := State.reset
  s.pending = [] ∧ s.ms = [] ∧ s.dbits = [] ∧ s.net = [] ∧ s.phase = .off ∧ s.part = .ax ∧ s.rops = [] ∧ s.led = [] ∧
  (∀ off d, s.rg off d = d) ∧ (∀ q, s.qEn q = false) ∧ (∀ q, s.rpEn q = false) ∧ (∀ l, s.active l = false) ∧ (∀ b, (s.feAt b).stat = 0) ∧
  s.voters = [0, 1, 2] ∧ s.claimOf 0 = 0xFC ∧ s.claimOf 1 = 0xFD ∧ s.claimOf 2 = 0xFE ∧ StoresWf s ∧
  (∀ p : BitVec 6, let q := s.proc p
    q.run = .resetStopped ∧ q.ip = 0 ∧ q.psw = 0 ∧ q.fpsw = 0 ∧ (∀ r, q.gR r = 0) ∧ (∀ r, q.fR r = 0) ∧ q.seg 15 = ⟨0, BitVec.ofNat 48 (s.part.msBytes - 1), 0x2E0000, 0, 0⟩ ∧
      ∀ n, n ≠ 15 → (q.seg n).present = false)

/-- The main store's bytes and the image's, also as a resume found it, stay in canonical form in every step: addresses strictly rising, no listed zero (log entry 7). -/
def Obligations.MainStoreStaysCanonical : Prop :=
  ∀ (s u : State), StoresWf s → step s = .next u → StoresWf u

end
end

