-- ==== Sys2Proof/Laws/State.lean ====
section
/-!
SUPPORT. Each basic update of the state leaves every field but its own as it was, so that no proof unfolds a record update.
-/
namespace Sys2Proof.Machine

open Sys2Proof

variable (s : State)


@[simp] theorem State.setProc_pending (p : BitVec 6) (q : Proc) : (s.setProc p q).pending = s.pending := rfl
@[simp] theorem State.setProc_free (p : BitVec 6) (q : Proc) : (s.setProc p q).free = s.free := rfl
@[simp] theorem State.setProc_part (p : BitVec 6) (q : Proc) : (s.setProc p q).part = s.part := rfl
@[simp] theorem State.setProc_phase (p : BitVec 6) (q : Proc) : (s.setProc p q).phase = s.phase := rfl
@[simp] theorem State.setProc_ticks (p : BitVec 6) (q : Proc) : (s.setProc p q).ticks = s.ticks := rfl
@[simp] theorem State.setProc_tb (p : BitVec 6) (q : Proc) : (s.setProc p q).tb = s.tb := rfl
@[simp] theorem State.setProc_dev (p : BitVec 6) (q : Proc) : (s.setProc p q).dev = s.dev := rfl
@[simp] theorem State.setProc_cores (p : BitVec 6) (q : Proc) : (s.setProc p q).cores = s.cores := rfl
@[simp] theorem State.setProc_clus (p : BitVec 6) (q : Proc) : (s.setProc p q).clus = s.clus := rfl
@[simp] theorem State.setProc_net (p : BitVec 6) (q : Proc) : (s.setProc p q).net = s.net := rfl
@[simp] theorem State.setProc_parked (p : BitVec 6) (q : Proc) : (s.setProc p q).parked = s.parked := rfl
@[simp] theorem State.setProc_memWait (p : BitVec 6) (q : Proc) : (s.setProc p q).memWait = s.memWait := rfl
@[simp] theorem State.setProc_noCmp (p : BitVec 6) (q : Proc) : (s.setProc p q).noCmp = s.noCmp := rfl
@[simp] theorem State.setProc_lost (p : BitVec 6) (q : Proc) : (s.setProc p q).lost = s.lost := rfl
@[simp] theorem State.setProc_dir (p : BitVec 6) (q : Proc) : (s.setProc p q).dir = s.dir := rfl
@[simp] theorem State.setProc_stks (p : BitVec 6) (q : Proc) : (s.setProc p q).stks = s.stks := rfl
@[simp] theorem State.setProc_ms (p : BitVec 6) (q : Proc) : (s.setProc p q).ms = s.ms := rfl
@[simp] theorem State.setProc_flips (p : BitVec 6) (q : Proc) : (s.setProc p q).flips = s.flips := rfl
@[simp] theorem State.setProc_dbits (p : BitVec 6) (q : Proc) : (s.setProc p q).dbits = s.dbits := rfl
@[simp] theorem State.setProc_peakD (p : BitVec 6) (q : Proc) : (s.setProc p q).peakD = s.peakD := rfl
@[simp] theorem State.setProc_bisnp (p : BitVec 6) (q : Proc) : (s.setProc p q).bisnp = s.bisnp := rfl
@[simp] theorem State.setProc_tun (p : BitVec 6) (q : Proc) : (s.setProc p q).tun = s.tun := rfl
@[simp] theorem State.setProc_fe (p : BitVec 6) (q : Proc) : (s.setProc p q).fe = s.fe := rfl
@[simp] theorem State.setProc_pew (p : BitVec 6) (q : Proc) : (s.setProc p q).pew = s.pew := rfl
@[simp] theorem State.setProc_insts (p : BitVec 6) (q : Proc) : (s.setProc p q).insts = s.insts := rfl
@[simp] theorem State.setProc_cxl (p : BitVec 6) (q : Proc) : (s.setProc p q).cxl = s.cxl := rfl
@[simp] theorem State.setProc_rps (p : BitVec 6) (q : Proc) : (s.setProc p q).rps = s.rps := rfl
@[simp] theorem State.setProc_led (p : BitVec 6) (q : Proc) : (s.setProc p q).led = s.led := rfl
@[simp] theorem State.setProc_accs (p : BitVec 6) (q : Proc) : (s.setProc p q).accs = s.accs := rfl
@[simp] theorem State.setProc_abt (p : BitVec 6) (q : Proc) : (s.setProc p q).abt = s.abt := rfl
@[simp] theorem State.setProc_acnt (p : BitVec 6) (q : Proc) : (s.setProc p q).acnt = s.acnt := rfl
@[simp] theorem State.setProc_exh (p : BitVec 6) (q : Proc) : (s.setProc p q).exh = s.exh := rfl
@[simp] theorem State.setProc_promos (p : BitVec 6) (q : Proc) : (s.setProc p q).promos = s.promos := rfl
@[simp] theorem State.setProc_fabq (p : BitVec 6) (q : Proc) : (s.setProc p q).fabq = s.fabq := rfl
@[simp] theorem State.setProc_links (p : BitVec 6) (q : Proc) : (s.setProc p q).links = s.links := rfl
@[simp] theorem State.setProc_inq (p : BitVec 6) (q : Proc) : (s.setProc p q).inq = s.inq := rfl
@[simp] theorem State.setProc_cseqTx (p : BitVec 6) (q : Proc) : (s.setProc p q).cseqTx = s.cseqTx := rfl
@[simp] theorem State.setProc_cseqRx (p : BitVec 6) (q : Proc) : (s.setProc p q).cseqRx = s.cseqRx := rfl
@[simp] theorem State.setProc_cheld (p : BitVec 6) (q : Proc) : (s.setProc p q).cheld = s.cheld := rfl
@[simp] theorem State.setProc_fwdIn (p : BitVec 6) (q : Proc) : (s.setProc p q).fwdIn = s.fwdIn := rfl
@[simp] theorem State.setProc_sbWait (p : BitVec 6) (q : Proc) : (s.setProc p q).sbWait = s.sbWait := rfl
@[simp] theorem State.setProc_sbArr (p : BitVec 6) (q : Proc) : (s.setProc p q).sbArr = s.sbArr := rfl
@[simp] theorem State.setProc_ftos (p : BitVec 6) (q : Proc) : (s.setProc p q).ftos = s.ftos := rfl
@[simp] theorem State.setProc_leaving (p : BitVec 6) (q : Proc) : (s.setProc p q).leaving = s.leaving := rfl
@[simp] theorem State.setProc_mirw (p : BitVec 6) (q : Proc) : (s.setProc p q).mirw = s.mirw := rfl
@[simp] theorem State.setProc_mirTag (p : BitVec 6) (q : Proc) : (s.setProc p q).mirTag = s.mirTag := rfl
@[simp] theorem State.setProc_mirIn (p : BitVec 6) (q : Proc) : (s.setProc p q).mirIn = s.mirIn := rfl
@[simp] theorem State.setProc_qs (p : BitVec 6) (q : Proc) : (s.setProc p q).qs = s.qs := rfl
@[simp] theorem State.setProc_commits (p : BitVec 6) (q : Proc) : (s.setProc p q).commits = s.commits := rfl
@[simp] theorem State.setProc_eng (p : BitVec 6) (q : Proc) : (s.setProc p q).eng = s.eng := rfl
@[simp] theorem State.setProc_ushare (p : BitVec 6) (q : Proc) : (s.setProc p q).ushare = s.ushare := rfl
@[simp] theorem State.setProc_rops (p : BitVec 6) (q : Proc) : (s.setProc p q).rops = s.rops := rfl
@[simp] theorem State.setProc_rtag (p : BitVec 6) (q : Proc) : (s.setProc p q).rtag = s.rtag := rfl
@[simp] theorem State.setProc_kslots (p : BitVec 6) (q : Proc) : (s.setProc p q).kslots = s.kslots := rfl
@[simp] theorem State.setProc_kbuf (p : BitVec 6) (q : Proc) : (s.setProc p q).kbuf = s.kbuf := rfl
@[simp] theorem State.setProc_kcmd (p : BitVec 6) (q : Proc) : (s.setProc p q).kcmd = s.kcmd := rfl
@[simp] theorem State.setProc_cobs (p : BitVec 6) (q : Proc) : (s.setProc p q).cobs = s.cobs := rfl
@[simp] theorem State.setProc_zns (p : BitVec 6) (q : Proc) : (s.setProc p q).zns = s.zns := rfl
@[simp] theorem State.setProc_ports (p : BitVec 6) (q : Proc) : (s.setProc p q).ports = s.ports := rfl
@[simp] theorem State.setProc_cobBytes (p : BitVec 6) (q : Proc) : (s.setProc p q).cobBytes = s.cobBytes := rfl
@[simp] theorem State.setProc_authF (p : BitVec 6) (q : Proc) : (s.setProc p q).authF = s.authF := rfl
@[simp] theorem State.setProc_znIn (p : BitVec 6) (q : Proc) : (s.setProc p q).znIn = s.znIn := rfl
@[simp] theorem State.setProc_znOut (p : BitVec 6) (q : Proc) : (s.setProc p q).znOut = s.znOut := rfl
@[simp] theorem State.setProc_znErr (p : BitVec 6) (q : Proc) : (s.setProc p q).znErr = s.znErr := rfl
@[simp] theorem State.setProc_images (p : BitVec 6) (q : Proc) : (s.setProc p q).images = s.images := rfl
@[simp] theorem State.setProc_imgW (p : BitVec 6) (q : Proc) : (s.setProc p q).imgW = s.imgW := rfl
@[simp] theorem State.setProc_bpW (p : BitVec 6) (q : Proc) : (s.setProc p q).bpW = s.bpW := rfl
@[simp] theorem State.setProc_repts (p : BitVec 6) (q : Proc) : (s.setProc p q).repts = s.repts := rfl
@[simp] theorem State.setProc_rptW (p : BitVec 6) (q : Proc) : (s.setProc p q).rptW = s.rptW := rfl
@[simp] theorem State.setProc_rptLate (p : BitVec 6) (q : Proc) : (s.setProc p q).rptLate = s.rptLate := rfl
@[simp] theorem State.setProc_icmd (p : BitVec 6) (q : Proc) : (s.setProc p q).icmd = s.icmd := rfl
@[simp] theorem State.setProc_rests (p : BitVec 6) (q : Proc) : (s.setProc p q).rests = s.rests := rfl
@[simp] theorem State.setProc_ifail (p : BitVec 6) (q : Proc) : (s.setProc p q).ifail = s.ifail := rfl
@[simp] theorem State.setProc_isaved (p : BitVec 6) (q : Proc) : (s.setProc p q).isaved = s.isaved := rfl
@[simp] theorem State.setProc_irest (p : BitVec 6) (q : Proc) : (s.setProc p q).irest = s.irest := rfl
@[simp] theorem State.setProc_icont (p : BitVec 6) (q : Proc) : (s.setProc p q).icont = s.icont := rfl
@[simp] theorem State.setProc_frzTb (p : BitVec 6) (q : Proc) : (s.setProc p q).frzTb = s.frzTb := rfl
@[simp] theorem State.setProc_snaps (p : BitVec 6) (q : Proc) : (s.setProc p q).snaps = s.snaps := rfl
@[simp] theorem State.setProc_saved (p : BitVec 6) (q : Proc) : (s.setProc p q).saved = s.saved := rfl
@[simp] theorem State.setProc_kept (p : BitVec 6) (q : Proc) : (s.setProc p q).kept = s.kept := rfl
@[simp] theorem State.setProc_bcfg (p : BitVec 6) (q : Proc) : (s.setProc p q).bcfg = s.bcfg := rfl
@[simp] theorem State.setProc_bprog (p : BitVec 6) (q : Proc) : (s.setProc p q).bprog = s.bprog := rfl
@[simp] theorem State.setProc_brs (p : BitVec 6) (q : Proc) : (s.setProc p q).brs = s.brs := rfl
@[simp] theorem State.setProc_mgmt (p : BitVec 6) (q : Proc) : (s.setProc p q).mgmt = s.mgmt := rfl
@[simp] theorem State.setProc_vaux (p : BitVec 6) (q : Proc) : (s.setProc p q).vaux = s.vaux := rfl
@[simp] theorem State.setProc_sel (p : BitVec 6) (q : Proc) : (s.setProc p q).sel = s.sel := rfl
@[simp] theorem State.setProc_boot (p : BitVec 6) (q : Proc) : (s.setProc p q).boot = s.boot := rfl
@[simp] theorem State.setProc_rearms (p : BitVec 6) (q : Proc) : (s.setProc p q).rearms = s.rearms := rfl
@[simp] theorem State.setProc_refLost (p : BitVec 6) (q : Proc) : (s.setProc p q).refLost = s.refLost := rfl
@[simp] theorem State.setProc_outbox (p : BitVec 6) (q : Proc) : (s.setProc p q).outbox = s.outbox := rfl

@[simp] theorem State.modProc_pending (p : BitVec 6) (f : Proc → Proc) : (s.modProc p f).pending = s.pending := rfl
@[simp] theorem State.modProc_free (p : BitVec 6) (f : Proc → Proc) : (s.modProc p f).free = s.free := rfl
@[simp] theorem State.modProc_part (p : BitVec 6) (f : Proc → Proc) : (s.modProc p f).part = s.part := rfl
@[simp] theorem State.modProc_phase (p : BitVec 6) (f : Proc → Proc) : (s.modProc p f).phase = s.phase := rfl
@[simp] theorem State.modProc_ticks (p : BitVec 6) (f : Proc → Proc) : (s.modProc p f).ticks = s.ticks := rfl
@[simp] theorem State.modProc_tb (p : BitVec 6) (f : Proc → Proc) : (s.modProc p f).tb = s.tb := rfl
@[simp] theorem State.modProc_dev (p : BitVec 6) (f : Proc → Proc) : (s.modProc p f).dev = s.dev := rfl
@[simp] theorem State.modProc_cores (p : BitVec 6) (f : Proc → Proc) : (s.modProc p f).cores = s.cores := rfl
@[simp] theorem State.modProc_clus (p : BitVec 6) (f : Proc → Proc) : (s.modProc p f).clus = s.clus := rfl
@[simp] theorem State.modProc_net (p : BitVec 6) (f : Proc → Proc) : (s.modProc p f).net = s.net := rfl
@[simp] theorem State.modProc_parked (p : BitVec 6) (f : Proc → Proc) : (s.modProc p f).parked = s.parked := rfl
@[simp] theorem State.modProc_memWait (p : BitVec 6) (f : Proc → Proc) : (s.modProc p f).memWait = s.memWait := rfl
@[simp] theorem State.modProc_noCmp (p : BitVec 6) (f : Proc → Proc) : (s.modProc p f).noCmp = s.noCmp := rfl
@[simp] theorem State.modProc_lost (p : BitVec 6) (f : Proc → Proc) : (s.modProc p f).lost = s.lost := rfl
@[simp] theorem State.modProc_dir (p : BitVec 6) (f : Proc → Proc) : (s.modProc p f).dir = s.dir := rfl
@[simp] theorem State.modProc_stks (p : BitVec 6) (f : Proc → Proc) : (s.modProc p f).stks = s.stks := rfl
@[simp] theorem State.modProc_ms (p : BitVec 6) (f : Proc → Proc) : (s.modProc p f).ms = s.ms := rfl
@[simp] theorem State.modProc_flips (p : BitVec 6) (f : Proc → Proc) : (s.modProc p f).flips = s.flips := rfl
@[simp] theorem State.modProc_dbits (p : BitVec 6) (f : Proc → Proc) : (s.modProc p f).dbits = s.dbits := rfl
@[simp] theorem State.modProc_peakD (p : BitVec 6) (f : Proc → Proc) : (s.modProc p f).peakD = s.peakD := rfl
@[simp] theorem State.modProc_bisnp (p : BitVec 6) (f : Proc → Proc) : (s.modProc p f).bisnp = s.bisnp := rfl
@[simp] theorem State.modProc_tun (p : BitVec 6) (f : Proc → Proc) : (s.modProc p f).tun = s.tun := rfl
@[simp] theorem State.modProc_fe (p : BitVec 6) (f : Proc → Proc) : (s.modProc p f).fe = s.fe := rfl
@[simp] theorem State.modProc_pew (p : BitVec 6) (f : Proc → Proc) : (s.modProc p f).pew = s.pew := rfl
@[simp] theorem State.modProc_insts (p : BitVec 6) (f : Proc → Proc) : (s.modProc p f).insts = s.insts := rfl
@[simp] theorem State.modProc_cxl (p : BitVec 6) (f : Proc → Proc) : (s.modProc p f).cxl = s.cxl := rfl
@[simp] theorem State.modProc_rps (p : BitVec 6) (f : Proc → Proc) : (s.modProc p f).rps = s.rps := rfl
@[simp] theorem State.modProc_led (p : BitVec 6) (f : Proc → Proc) : (s.modProc p f).led = s.led := rfl
@[simp] theorem State.modProc_accs (p : BitVec 6) (f : Proc → Proc) : (s.modProc p f).accs = s.accs := rfl
@[simp] theorem State.modProc_abt (p : BitVec 6) (f : Proc → Proc) : (s.modProc p f).abt = s.abt := rfl
@[simp] theorem State.modProc_acnt (p : BitVec 6) (f : Proc → Proc) : (s.modProc p f).acnt = s.acnt := rfl
@[simp] theorem State.modProc_exh (p : BitVec 6) (f : Proc → Proc) : (s.modProc p f).exh = s.exh := rfl
@[simp] theorem State.modProc_promos (p : BitVec 6) (f : Proc → Proc) : (s.modProc p f).promos = s.promos := rfl
@[simp] theorem State.modProc_fabq (p : BitVec 6) (f : Proc → Proc) : (s.modProc p f).fabq = s.fabq := rfl
@[simp] theorem State.modProc_links (p : BitVec 6) (f : Proc → Proc) : (s.modProc p f).links = s.links := rfl
@[simp] theorem State.modProc_inq (p : BitVec 6) (f : Proc → Proc) : (s.modProc p f).inq = s.inq := rfl
@[simp] theorem State.modProc_cseqTx (p : BitVec 6) (f : Proc → Proc) : (s.modProc p f).cseqTx = s.cseqTx := rfl
@[simp] theorem State.modProc_cseqRx (p : BitVec 6) (f : Proc → Proc) : (s.modProc p f).cseqRx = s.cseqRx := rfl
@[simp] theorem State.modProc_cheld (p : BitVec 6) (f : Proc → Proc) : (s.modProc p f).cheld = s.cheld := rfl
@[simp] theorem State.modProc_fwdIn (p : BitVec 6) (f : Proc → Proc) : (s.modProc p f).fwdIn = s.fwdIn := rfl
@[simp] theorem State.modProc_sbWait (p : BitVec 6) (f : Proc → Proc) : (s.modProc p f).sbWait = s.sbWait := rfl
@[simp] theorem State.modProc_sbArr (p : BitVec 6) (f : Proc → Proc) : (s.modProc p f).sbArr = s.sbArr := rfl
@[simp] theorem State.modProc_ftos (p : BitVec 6) (f : Proc → Proc) : (s.modProc p f).ftos = s.ftos := rfl
@[simp] theorem State.modProc_leaving (p : BitVec 6) (f : Proc → Proc) : (s.modProc p f).leaving = s.leaving := rfl
@[simp] theorem State.modProc_mirw (p : BitVec 6) (f : Proc → Proc) : (s.modProc p f).mirw = s.mirw := rfl
@[simp] theorem State.modProc_mirTag (p : BitVec 6) (f : Proc → Proc) : (s.modProc p f).mirTag = s.mirTag := rfl
@[simp] theorem State.modProc_mirIn (p : BitVec 6) (f : Proc → Proc) : (s.modProc p f).mirIn = s.mirIn := rfl
@[simp] theorem State.modProc_qs (p : BitVec 6) (f : Proc → Proc) : (s.modProc p f).qs = s.qs := rfl
@[simp] theorem State.modProc_commits (p : BitVec 6) (f : Proc → Proc) : (s.modProc p f).commits = s.commits := rfl
@[simp] theorem State.modProc_eng (p : BitVec 6) (f : Proc → Proc) : (s.modProc p f).eng = s.eng := rfl
@[simp] theorem State.modProc_ushare (p : BitVec 6) (f : Proc → Proc) : (s.modProc p f).ushare = s.ushare := rfl
@[simp] theorem State.modProc_rops (p : BitVec 6) (f : Proc → Proc) : (s.modProc p f).rops = s.rops := rfl
@[simp] theorem State.modProc_rtag (p : BitVec 6) (f : Proc → Proc) : (s.modProc p f).rtag = s.rtag := rfl
@[simp] theorem State.modProc_kslots (p : BitVec 6) (f : Proc → Proc) : (s.modProc p f).kslots = s.kslots := rfl
@[simp] theorem State.modProc_kbuf (p : BitVec 6) (f : Proc → Proc) : (s.modProc p f).kbuf = s.kbuf := rfl
@[simp] theorem State.modProc_kcmd (p : BitVec 6) (f : Proc → Proc) : (s.modProc p f).kcmd = s.kcmd := rfl
@[simp] theorem State.modProc_cobs (p : BitVec 6) (f : Proc → Proc) : (s.modProc p f).cobs = s.cobs := rfl
@[simp] theorem State.modProc_zns (p : BitVec 6) (f : Proc → Proc) : (s.modProc p f).zns = s.zns := rfl
@[simp] theorem State.modProc_ports (p : BitVec 6) (f : Proc → Proc) : (s.modProc p f).ports = s.ports := rfl
@[simp] theorem State.modProc_cobBytes (p : BitVec 6) (f : Proc → Proc) : (s.modProc p f).cobBytes = s.cobBytes := rfl
@[simp] theorem State.modProc_authF (p : BitVec 6) (f : Proc → Proc) : (s.modProc p f).authF = s.authF := rfl
@[simp] theorem State.modProc_znIn (p : BitVec 6) (f : Proc → Proc) : (s.modProc p f).znIn = s.znIn := rfl
@[simp] theorem State.modProc_znOut (p : BitVec 6) (f : Proc → Proc) : (s.modProc p f).znOut = s.znOut := rfl
@[simp] theorem State.modProc_znErr (p : BitVec 6) (f : Proc → Proc) : (s.modProc p f).znErr = s.znErr := rfl
@[simp] theorem State.modProc_images (p : BitVec 6) (f : Proc → Proc) : (s.modProc p f).images = s.images := rfl
@[simp] theorem State.modProc_imgW (p : BitVec 6) (f : Proc → Proc) : (s.modProc p f).imgW = s.imgW := rfl
@[simp] theorem State.modProc_bpW (p : BitVec 6) (f : Proc → Proc) : (s.modProc p f).bpW = s.bpW := rfl
@[simp] theorem State.modProc_repts (p : BitVec 6) (f : Proc → Proc) : (s.modProc p f).repts = s.repts := rfl
@[simp] theorem State.modProc_rptW (p : BitVec 6) (f : Proc → Proc) : (s.modProc p f).rptW = s.rptW := rfl
@[simp] theorem State.modProc_rptLate (p : BitVec 6) (f : Proc → Proc) : (s.modProc p f).rptLate = s.rptLate := rfl
@[simp] theorem State.modProc_icmd (p : BitVec 6) (f : Proc → Proc) : (s.modProc p f).icmd = s.icmd := rfl
@[simp] theorem State.modProc_rests (p : BitVec 6) (f : Proc → Proc) : (s.modProc p f).rests = s.rests := rfl
@[simp] theorem State.modProc_ifail (p : BitVec 6) (f : Proc → Proc) : (s.modProc p f).ifail = s.ifail := rfl
@[simp] theorem State.modProc_isaved (p : BitVec 6) (f : Proc → Proc) : (s.modProc p f).isaved = s.isaved := rfl
@[simp] theorem State.modProc_irest (p : BitVec 6) (f : Proc → Proc) : (s.modProc p f).irest = s.irest := rfl
@[simp] theorem State.modProc_icont (p : BitVec 6) (f : Proc → Proc) : (s.modProc p f).icont = s.icont := rfl
@[simp] theorem State.modProc_frzTb (p : BitVec 6) (f : Proc → Proc) : (s.modProc p f).frzTb = s.frzTb := rfl
@[simp] theorem State.modProc_snaps (p : BitVec 6) (f : Proc → Proc) : (s.modProc p f).snaps = s.snaps := rfl
@[simp] theorem State.modProc_saved (p : BitVec 6) (f : Proc → Proc) : (s.modProc p f).saved = s.saved := rfl
@[simp] theorem State.modProc_kept (p : BitVec 6) (f : Proc → Proc) : (s.modProc p f).kept = s.kept := rfl
@[simp] theorem State.modProc_bcfg (p : BitVec 6) (f : Proc → Proc) : (s.modProc p f).bcfg = s.bcfg := rfl
@[simp] theorem State.modProc_bprog (p : BitVec 6) (f : Proc → Proc) : (s.modProc p f).bprog = s.bprog := rfl
@[simp] theorem State.modProc_brs (p : BitVec 6) (f : Proc → Proc) : (s.modProc p f).brs = s.brs := rfl
@[simp] theorem State.modProc_mgmt (p : BitVec 6) (f : Proc → Proc) : (s.modProc p f).mgmt = s.mgmt := rfl
@[simp] theorem State.modProc_vaux (p : BitVec 6) (f : Proc → Proc) : (s.modProc p f).vaux = s.vaux := rfl
@[simp] theorem State.modProc_sel (p : BitVec 6) (f : Proc → Proc) : (s.modProc p f).sel = s.sel := rfl
@[simp] theorem State.modProc_boot (p : BitVec 6) (f : Proc → Proc) : (s.modProc p f).boot = s.boot := rfl
@[simp] theorem State.modProc_rearms (p : BitVec 6) (f : Proc → Proc) : (s.modProc p f).rearms = s.rearms := rfl
@[simp] theorem State.modProc_refLost (p : BitVec 6) (f : Proc → Proc) : (s.modProc p f).refLost = s.refLost := rfl
@[simp] theorem State.modProc_outbox (p : BitVec 6) (f : Proc → Proc) : (s.modProc p f).outbox = s.outbox := rfl

@[simp] theorem State.modCore_pending (n : Nat) (f : CoreS → CoreS) : (s.modCore n f).pending = s.pending := rfl
@[simp] theorem State.modCore_free (n : Nat) (f : CoreS → CoreS) : (s.modCore n f).free = s.free := rfl
@[simp] theorem State.modCore_part (n : Nat) (f : CoreS → CoreS) : (s.modCore n f).part = s.part := rfl
@[simp] theorem State.modCore_phase (n : Nat) (f : CoreS → CoreS) : (s.modCore n f).phase = s.phase := rfl
@[simp] theorem State.modCore_ticks (n : Nat) (f : CoreS → CoreS) : (s.modCore n f).ticks = s.ticks := rfl
@[simp] theorem State.modCore_tb (n : Nat) (f : CoreS → CoreS) : (s.modCore n f).tb = s.tb := rfl
@[simp] theorem State.modCore_dev (n : Nat) (f : CoreS → CoreS) : (s.modCore n f).dev = s.dev := rfl
@[simp] theorem State.modCore_procs (n : Nat) (f : CoreS → CoreS) : (s.modCore n f).procs = s.procs := rfl
@[simp] theorem State.modCore_clus (n : Nat) (f : CoreS → CoreS) : (s.modCore n f).clus = s.clus := rfl
@[simp] theorem State.modCore_net (n : Nat) (f : CoreS → CoreS) : (s.modCore n f).net = s.net := rfl
@[simp] theorem State.modCore_parked (n : Nat) (f : CoreS → CoreS) : (s.modCore n f).parked = s.parked := rfl
@[simp] theorem State.modCore_memWait (n : Nat) (f : CoreS → CoreS) : (s.modCore n f).memWait = s.memWait := rfl
@[simp] theorem State.modCore_noCmp (n : Nat) (f : CoreS → CoreS) : (s.modCore n f).noCmp = s.noCmp := rfl
@[simp] theorem State.modCore_lost (n : Nat) (f : CoreS → CoreS) : (s.modCore n f).lost = s.lost := rfl
@[simp] theorem State.modCore_dir (n : Nat) (f : CoreS → CoreS) : (s.modCore n f).dir = s.dir := rfl
@[simp] theorem State.modCore_stks (n : Nat) (f : CoreS → CoreS) : (s.modCore n f).stks = s.stks := rfl
@[simp] theorem State.modCore_ms (n : Nat) (f : CoreS → CoreS) : (s.modCore n f).ms = s.ms := rfl
@[simp] theorem State.modCore_flips (n : Nat) (f : CoreS → CoreS) : (s.modCore n f).flips = s.flips := rfl
@[simp] theorem State.modCore_dbits (n : Nat) (f : CoreS → CoreS) : (s.modCore n f).dbits = s.dbits := rfl
@[simp] theorem State.modCore_peakD (n : Nat) (f : CoreS → CoreS) : (s.modCore n f).peakD = s.peakD := rfl
@[simp] theorem State.modCore_bisnp (n : Nat) (f : CoreS → CoreS) : (s.modCore n f).bisnp = s.bisnp := rfl
@[simp] theorem State.modCore_tun (n : Nat) (f : CoreS → CoreS) : (s.modCore n f).tun = s.tun := rfl
@[simp] theorem State.modCore_fe (n : Nat) (f : CoreS → CoreS) : (s.modCore n f).fe = s.fe := rfl
@[simp] theorem State.modCore_pew (n : Nat) (f : CoreS → CoreS) : (s.modCore n f).pew = s.pew := rfl
@[simp] theorem State.modCore_insts (n : Nat) (f : CoreS → CoreS) : (s.modCore n f).insts = s.insts := rfl
@[simp] theorem State.modCore_cxl (n : Nat) (f : CoreS → CoreS) : (s.modCore n f).cxl = s.cxl := rfl
@[simp] theorem State.modCore_rps (n : Nat) (f : CoreS → CoreS) : (s.modCore n f).rps = s.rps := rfl
@[simp] theorem State.modCore_led (n : Nat) (f : CoreS → CoreS) : (s.modCore n f).led = s.led := rfl
@[simp] theorem State.modCore_accs (n : Nat) (f : CoreS → CoreS) : (s.modCore n f).accs = s.accs := rfl
@[simp] theorem State.modCore_abt (n : Nat) (f : CoreS → CoreS) : (s.modCore n f).abt = s.abt := rfl
@[simp] theorem State.modCore_acnt (n : Nat) (f : CoreS → CoreS) : (s.modCore n f).acnt = s.acnt := rfl
@[simp] theorem State.modCore_exh (n : Nat) (f : CoreS → CoreS) : (s.modCore n f).exh = s.exh := rfl
@[simp] theorem State.modCore_promos (n : Nat) (f : CoreS → CoreS) : (s.modCore n f).promos = s.promos := rfl
@[simp] theorem State.modCore_fabq (n : Nat) (f : CoreS → CoreS) : (s.modCore n f).fabq = s.fabq := rfl
@[simp] theorem State.modCore_links (n : Nat) (f : CoreS → CoreS) : (s.modCore n f).links = s.links := rfl
@[simp] theorem State.modCore_inq (n : Nat) (f : CoreS → CoreS) : (s.modCore n f).inq = s.inq := rfl
@[simp] theorem State.modCore_cseqTx (n : Nat) (f : CoreS → CoreS) : (s.modCore n f).cseqTx = s.cseqTx := rfl
@[simp] theorem State.modCore_cseqRx (n : Nat) (f : CoreS → CoreS) : (s.modCore n f).cseqRx = s.cseqRx := rfl
@[simp] theorem State.modCore_cheld (n : Nat) (f : CoreS → CoreS) : (s.modCore n f).cheld = s.cheld := rfl
@[simp] theorem State.modCore_fwdIn (n : Nat) (f : CoreS → CoreS) : (s.modCore n f).fwdIn = s.fwdIn := rfl
@[simp] theorem State.modCore_sbWait (n : Nat) (f : CoreS → CoreS) : (s.modCore n f).sbWait = s.sbWait := rfl
@[simp] theorem State.modCore_sbArr (n : Nat) (f : CoreS → CoreS) : (s.modCore n f).sbArr = s.sbArr := rfl
@[simp] theorem State.modCore_ftos (n : Nat) (f : CoreS → CoreS) : (s.modCore n f).ftos = s.ftos := rfl
@[simp] theorem State.modCore_leaving (n : Nat) (f : CoreS → CoreS) : (s.modCore n f).leaving = s.leaving := rfl
@[simp] theorem State.modCore_mirw (n : Nat) (f : CoreS → CoreS) : (s.modCore n f).mirw = s.mirw := rfl
@[simp] theorem State.modCore_mirTag (n : Nat) (f : CoreS → CoreS) : (s.modCore n f).mirTag = s.mirTag := rfl
@[simp] theorem State.modCore_mirIn (n : Nat) (f : CoreS → CoreS) : (s.modCore n f).mirIn = s.mirIn := rfl
@[simp] theorem State.modCore_qs (n : Nat) (f : CoreS → CoreS) : (s.modCore n f).qs = s.qs := rfl
@[simp] theorem State.modCore_commits (n : Nat) (f : CoreS → CoreS) : (s.modCore n f).commits = s.commits := rfl
@[simp] theorem State.modCore_eng (n : Nat) (f : CoreS → CoreS) : (s.modCore n f).eng = s.eng := rfl
@[simp] theorem State.modCore_ushare (n : Nat) (f : CoreS → CoreS) : (s.modCore n f).ushare = s.ushare := rfl
@[simp] theorem State.modCore_rops (n : Nat) (f : CoreS → CoreS) : (s.modCore n f).rops = s.rops := rfl
@[simp] theorem State.modCore_rtag (n : Nat) (f : CoreS → CoreS) : (s.modCore n f).rtag = s.rtag := rfl
@[simp] theorem State.modCore_kslots (n : Nat) (f : CoreS → CoreS) : (s.modCore n f).kslots = s.kslots := rfl
@[simp] theorem State.modCore_kbuf (n : Nat) (f : CoreS → CoreS) : (s.modCore n f).kbuf = s.kbuf := rfl
@[simp] theorem State.modCore_kcmd (n : Nat) (f : CoreS → CoreS) : (s.modCore n f).kcmd = s.kcmd := rfl
@[simp] theorem State.modCore_cobs (n : Nat) (f : CoreS → CoreS) : (s.modCore n f).cobs = s.cobs := rfl
@[simp] theorem State.modCore_zns (n : Nat) (f : CoreS → CoreS) : (s.modCore n f).zns = s.zns := rfl
@[simp] theorem State.modCore_ports (n : Nat) (f : CoreS → CoreS) : (s.modCore n f).ports = s.ports := rfl
@[simp] theorem State.modCore_cobBytes (n : Nat) (f : CoreS → CoreS) : (s.modCore n f).cobBytes = s.cobBytes := rfl
@[simp] theorem State.modCore_authF (n : Nat) (f : CoreS → CoreS) : (s.modCore n f).authF = s.authF := rfl
@[simp] theorem State.modCore_znIn (n : Nat) (f : CoreS → CoreS) : (s.modCore n f).znIn = s.znIn := rfl
@[simp] theorem State.modCore_znOut (n : Nat) (f : CoreS → CoreS) : (s.modCore n f).znOut = s.znOut := rfl
@[simp] theorem State.modCore_znErr (n : Nat) (f : CoreS → CoreS) : (s.modCore n f).znErr = s.znErr := rfl
@[simp] theorem State.modCore_images (n : Nat) (f : CoreS → CoreS) : (s.modCore n f).images = s.images := rfl
@[simp] theorem State.modCore_imgW (n : Nat) (f : CoreS → CoreS) : (s.modCore n f).imgW = s.imgW := rfl
@[simp] theorem State.modCore_bpW (n : Nat) (f : CoreS → CoreS) : (s.modCore n f).bpW = s.bpW := rfl
@[simp] theorem State.modCore_repts (n : Nat) (f : CoreS → CoreS) : (s.modCore n f).repts = s.repts := rfl
@[simp] theorem State.modCore_rptW (n : Nat) (f : CoreS → CoreS) : (s.modCore n f).rptW = s.rptW := rfl
@[simp] theorem State.modCore_rptLate (n : Nat) (f : CoreS → CoreS) : (s.modCore n f).rptLate = s.rptLate := rfl
@[simp] theorem State.modCore_icmd (n : Nat) (f : CoreS → CoreS) : (s.modCore n f).icmd = s.icmd := rfl
@[simp] theorem State.modCore_rests (n : Nat) (f : CoreS → CoreS) : (s.modCore n f).rests = s.rests := rfl
@[simp] theorem State.modCore_ifail (n : Nat) (f : CoreS → CoreS) : (s.modCore n f).ifail = s.ifail := rfl
@[simp] theorem State.modCore_isaved (n : Nat) (f : CoreS → CoreS) : (s.modCore n f).isaved = s.isaved := rfl
@[simp] theorem State.modCore_irest (n : Nat) (f : CoreS → CoreS) : (s.modCore n f).irest = s.irest := rfl
@[simp] theorem State.modCore_icont (n : Nat) (f : CoreS → CoreS) : (s.modCore n f).icont = s.icont := rfl
@[simp] theorem State.modCore_frzTb (n : Nat) (f : CoreS → CoreS) : (s.modCore n f).frzTb = s.frzTb := rfl
@[simp] theorem State.modCore_snaps (n : Nat) (f : CoreS → CoreS) : (s.modCore n f).snaps = s.snaps := rfl
@[simp] theorem State.modCore_saved (n : Nat) (f : CoreS → CoreS) : (s.modCore n f).saved = s.saved := rfl
@[simp] theorem State.modCore_kept (n : Nat) (f : CoreS → CoreS) : (s.modCore n f).kept = s.kept := rfl
@[simp] theorem State.modCore_bcfg (n : Nat) (f : CoreS → CoreS) : (s.modCore n f).bcfg = s.bcfg := rfl
@[simp] theorem State.modCore_bprog (n : Nat) (f : CoreS → CoreS) : (s.modCore n f).bprog = s.bprog := rfl
@[simp] theorem State.modCore_brs (n : Nat) (f : CoreS → CoreS) : (s.modCore n f).brs = s.brs := rfl
@[simp] theorem State.modCore_mgmt (n : Nat) (f : CoreS → CoreS) : (s.modCore n f).mgmt = s.mgmt := rfl
@[simp] theorem State.modCore_vaux (n : Nat) (f : CoreS → CoreS) : (s.modCore n f).vaux = s.vaux := rfl
@[simp] theorem State.modCore_sel (n : Nat) (f : CoreS → CoreS) : (s.modCore n f).sel = s.sel := rfl
@[simp] theorem State.modCore_boot (n : Nat) (f : CoreS → CoreS) : (s.modCore n f).boot = s.boot := rfl
@[simp] theorem State.modCore_rearms (n : Nat) (f : CoreS → CoreS) : (s.modCore n f).rearms = s.rearms := rfl
@[simp] theorem State.modCore_refLost (n : Nat) (f : CoreS → CoreS) : (s.modCore n f).refLost = s.refLost := rfl
@[simp] theorem State.modCore_outbox (n : Nat) (f : CoreS → CoreS) : (s.modCore n f).outbox = s.outbox := rfl

@[simp] theorem State.modClu_pending (k : Nat) (f : Clu → Clu) : (s.modClu k f).pending = s.pending := rfl
@[simp] theorem State.modClu_free (k : Nat) (f : Clu → Clu) : (s.modClu k f).free = s.free := rfl
@[simp] theorem State.modClu_part (k : Nat) (f : Clu → Clu) : (s.modClu k f).part = s.part := rfl
@[simp] theorem State.modClu_phase (k : Nat) (f : Clu → Clu) : (s.modClu k f).phase = s.phase := rfl
@[simp] theorem State.modClu_ticks (k : Nat) (f : Clu → Clu) : (s.modClu k f).ticks = s.ticks := rfl
@[simp] theorem State.modClu_tb (k : Nat) (f : Clu → Clu) : (s.modClu k f).tb = s.tb := rfl
@[simp] theorem State.modClu_dev (k : Nat) (f : Clu → Clu) : (s.modClu k f).dev = s.dev := rfl
@[simp] theorem State.modClu_procs (k : Nat) (f : Clu → Clu) : (s.modClu k f).procs = s.procs := rfl
@[simp] theorem State.modClu_cores (k : Nat) (f : Clu → Clu) : (s.modClu k f).cores = s.cores := rfl
@[simp] theorem State.modClu_net (k : Nat) (f : Clu → Clu) : (s.modClu k f).net = s.net := rfl
@[simp] theorem State.modClu_parked (k : Nat) (f : Clu → Clu) : (s.modClu k f).parked = s.parked := rfl
@[simp] theorem State.modClu_memWait (k : Nat) (f : Clu → Clu) : (s.modClu k f).memWait = s.memWait := rfl
@[simp] theorem State.modClu_noCmp (k : Nat) (f : Clu → Clu) : (s.modClu k f).noCmp = s.noCmp := rfl
@[simp] theorem State.modClu_lost (k : Nat) (f : Clu → Clu) : (s.modClu k f).lost = s.lost := rfl
@[simp] theorem State.modClu_dir (k : Nat) (f : Clu → Clu) : (s.modClu k f).dir = s.dir := rfl
@[simp] theorem State.modClu_stks (k : Nat) (f : Clu → Clu) : (s.modClu k f).stks = s.stks := rfl
@[simp] theorem State.modClu_ms (k : Nat) (f : Clu → Clu) : (s.modClu k f).ms = s.ms := rfl
@[simp] theorem State.modClu_flips (k : Nat) (f : Clu → Clu) : (s.modClu k f).flips = s.flips := rfl
@[simp] theorem State.modClu_dbits (k : Nat) (f : Clu → Clu) : (s.modClu k f).dbits = s.dbits := rfl
@[simp] theorem State.modClu_peakD (k : Nat) (f : Clu → Clu) : (s.modClu k f).peakD = s.peakD := rfl
@[simp] theorem State.modClu_bisnp (k : Nat) (f : Clu → Clu) : (s.modClu k f).bisnp = s.bisnp := rfl
@[simp] theorem State.modClu_tun (k : Nat) (f : Clu → Clu) : (s.modClu k f).tun = s.tun := rfl
@[simp] theorem State.modClu_fe (k : Nat) (f : Clu → Clu) : (s.modClu k f).fe = s.fe := rfl
@[simp] theorem State.modClu_pew (k : Nat) (f : Clu → Clu) : (s.modClu k f).pew = s.pew := rfl
@[simp] theorem State.modClu_insts (k : Nat) (f : Clu → Clu) : (s.modClu k f).insts = s.insts := rfl
@[simp] theorem State.modClu_cxl (k : Nat) (f : Clu → Clu) : (s.modClu k f).cxl = s.cxl := rfl
@[simp] theorem State.modClu_rps (k : Nat) (f : Clu → Clu) : (s.modClu k f).rps = s.rps := rfl
@[simp] theorem State.modClu_led (k : Nat) (f : Clu → Clu) : (s.modClu k f).led = s.led := rfl
@[simp] theorem State.modClu_accs (k : Nat) (f : Clu → Clu) : (s.modClu k f).accs = s.accs := rfl
@[simp] theorem State.modClu_abt (k : Nat) (f : Clu → Clu) : (s.modClu k f).abt = s.abt := rfl
@[simp] theorem State.modClu_acnt (k : Nat) (f : Clu → Clu) : (s.modClu k f).acnt = s.acnt := rfl
@[simp] theorem State.modClu_exh (k : Nat) (f : Clu → Clu) : (s.modClu k f).exh = s.exh := rfl
@[simp] theorem State.modClu_promos (k : Nat) (f : Clu → Clu) : (s.modClu k f).promos = s.promos := rfl
@[simp] theorem State.modClu_fabq (k : Nat) (f : Clu → Clu) : (s.modClu k f).fabq = s.fabq := rfl
@[simp] theorem State.modClu_links (k : Nat) (f : Clu → Clu) : (s.modClu k f).links = s.links := rfl
@[simp] theorem State.modClu_inq (k : Nat) (f : Clu → Clu) : (s.modClu k f).inq = s.inq := rfl
@[simp] theorem State.modClu_cseqTx (k : Nat) (f : Clu → Clu) : (s.modClu k f).cseqTx = s.cseqTx := rfl
@[simp] theorem State.modClu_cseqRx (k : Nat) (f : Clu → Clu) : (s.modClu k f).cseqRx = s.cseqRx := rfl
@[simp] theorem State.modClu_cheld (k : Nat) (f : Clu → Clu) : (s.modClu k f).cheld = s.cheld := rfl
@[simp] theorem State.modClu_fwdIn (k : Nat) (f : Clu → Clu) : (s.modClu k f).fwdIn = s.fwdIn := rfl
@[simp] theorem State.modClu_sbWait (k : Nat) (f : Clu → Clu) : (s.modClu k f).sbWait = s.sbWait := rfl
@[simp] theorem State.modClu_sbArr (k : Nat) (f : Clu → Clu) : (s.modClu k f).sbArr = s.sbArr := rfl
@[simp] theorem State.modClu_ftos (k : Nat) (f : Clu → Clu) : (s.modClu k f).ftos = s.ftos := rfl
@[simp] theorem State.modClu_leaving (k : Nat) (f : Clu → Clu) : (s.modClu k f).leaving = s.leaving := rfl
@[simp] theorem State.modClu_mirw (k : Nat) (f : Clu → Clu) : (s.modClu k f).mirw = s.mirw := rfl
@[simp] theorem State.modClu_mirTag (k : Nat) (f : Clu → Clu) : (s.modClu k f).mirTag = s.mirTag := rfl
@[simp] theorem State.modClu_mirIn (k : Nat) (f : Clu → Clu) : (s.modClu k f).mirIn = s.mirIn := rfl
@[simp] theorem State.modClu_qs (k : Nat) (f : Clu → Clu) : (s.modClu k f).qs = s.qs := rfl
@[simp] theorem State.modClu_commits (k : Nat) (f : Clu → Clu) : (s.modClu k f).commits = s.commits := rfl
@[simp] theorem State.modClu_eng (k : Nat) (f : Clu → Clu) : (s.modClu k f).eng = s.eng := rfl
@[simp] theorem State.modClu_ushare (k : Nat) (f : Clu → Clu) : (s.modClu k f).ushare = s.ushare := rfl
@[simp] theorem State.modClu_rops (k : Nat) (f : Clu → Clu) : (s.modClu k f).rops = s.rops := rfl
@[simp] theorem State.modClu_rtag (k : Nat) (f : Clu → Clu) : (s.modClu k f).rtag = s.rtag := rfl
@[simp] theorem State.modClu_kslots (k : Nat) (f : Clu → Clu) : (s.modClu k f).kslots = s.kslots := rfl
@[simp] theorem State.modClu_kbuf (k : Nat) (f : Clu → Clu) : (s.modClu k f).kbuf = s.kbuf := rfl
@[simp] theorem State.modClu_kcmd (k : Nat) (f : Clu → Clu) : (s.modClu k f).kcmd = s.kcmd := rfl
@[simp] theorem State.modClu_cobs (k : Nat) (f : Clu → Clu) : (s.modClu k f).cobs = s.cobs := rfl
@[simp] theorem State.modClu_zns (k : Nat) (f : Clu → Clu) : (s.modClu k f).zns = s.zns := rfl
@[simp] theorem State.modClu_ports (k : Nat) (f : Clu → Clu) : (s.modClu k f).ports = s.ports := rfl
@[simp] theorem State.modClu_cobBytes (k : Nat) (f : Clu → Clu) : (s.modClu k f).cobBytes = s.cobBytes := rfl
@[simp] theorem State.modClu_authF (k : Nat) (f : Clu → Clu) : (s.modClu k f).authF = s.authF := rfl
@[simp] theorem State.modClu_znIn (k : Nat) (f : Clu → Clu) : (s.modClu k f).znIn = s.znIn := rfl
@[simp] theorem State.modClu_znOut (k : Nat) (f : Clu → Clu) : (s.modClu k f).znOut = s.znOut := rfl
@[simp] theorem State.modClu_znErr (k : Nat) (f : Clu → Clu) : (s.modClu k f).znErr = s.znErr := rfl
@[simp] theorem State.modClu_images (k : Nat) (f : Clu → Clu) : (s.modClu k f).images = s.images := rfl
@[simp] theorem State.modClu_imgW (k : Nat) (f : Clu → Clu) : (s.modClu k f).imgW = s.imgW := rfl
@[simp] theorem State.modClu_bpW (k : Nat) (f : Clu → Clu) : (s.modClu k f).bpW = s.bpW := rfl
@[simp] theorem State.modClu_repts (k : Nat) (f : Clu → Clu) : (s.modClu k f).repts = s.repts := rfl
@[simp] theorem State.modClu_rptW (k : Nat) (f : Clu → Clu) : (s.modClu k f).rptW = s.rptW := rfl
@[simp] theorem State.modClu_rptLate (k : Nat) (f : Clu → Clu) : (s.modClu k f).rptLate = s.rptLate := rfl
@[simp] theorem State.modClu_icmd (k : Nat) (f : Clu → Clu) : (s.modClu k f).icmd = s.icmd := rfl
@[simp] theorem State.modClu_rests (k : Nat) (f : Clu → Clu) : (s.modClu k f).rests = s.rests := rfl
@[simp] theorem State.modClu_ifail (k : Nat) (f : Clu → Clu) : (s.modClu k f).ifail = s.ifail := rfl
@[simp] theorem State.modClu_isaved (k : Nat) (f : Clu → Clu) : (s.modClu k f).isaved = s.isaved := rfl
@[simp] theorem State.modClu_irest (k : Nat) (f : Clu → Clu) : (s.modClu k f).irest = s.irest := rfl
@[simp] theorem State.modClu_icont (k : Nat) (f : Clu → Clu) : (s.modClu k f).icont = s.icont := rfl
@[simp] theorem State.modClu_frzTb (k : Nat) (f : Clu → Clu) : (s.modClu k f).frzTb = s.frzTb := rfl
@[simp] theorem State.modClu_snaps (k : Nat) (f : Clu → Clu) : (s.modClu k f).snaps = s.snaps := rfl
@[simp] theorem State.modClu_saved (k : Nat) (f : Clu → Clu) : (s.modClu k f).saved = s.saved := rfl
@[simp] theorem State.modClu_kept (k : Nat) (f : Clu → Clu) : (s.modClu k f).kept = s.kept := rfl
@[simp] theorem State.modClu_bcfg (k : Nat) (f : Clu → Clu) : (s.modClu k f).bcfg = s.bcfg := rfl
@[simp] theorem State.modClu_bprog (k : Nat) (f : Clu → Clu) : (s.modClu k f).bprog = s.bprog := rfl
@[simp] theorem State.modClu_brs (k : Nat) (f : Clu → Clu) : (s.modClu k f).brs = s.brs := rfl
@[simp] theorem State.modClu_mgmt (k : Nat) (f : Clu → Clu) : (s.modClu k f).mgmt = s.mgmt := rfl
@[simp] theorem State.modClu_vaux (k : Nat) (f : Clu → Clu) : (s.modClu k f).vaux = s.vaux := rfl
@[simp] theorem State.modClu_sel (k : Nat) (f : Clu → Clu) : (s.modClu k f).sel = s.sel := rfl
@[simp] theorem State.modClu_boot (k : Nat) (f : Clu → Clu) : (s.modClu k f).boot = s.boot := rfl
@[simp] theorem State.modClu_rearms (k : Nat) (f : Clu → Clu) : (s.modClu k f).rearms = s.rearms := rfl
@[simp] theorem State.modClu_refLost (k : Nat) (f : Clu → Clu) : (s.modClu k f).refLost = s.refLost := rfl
@[simp] theorem State.modClu_outbox (k : Nat) (f : Clu → Clu) : (s.modClu k f).outbox = s.outbox := rfl

@[simp] theorem State.modStack_pending (k : Nat) (f : Stack → Stack) : (s.modStack k f).pending = s.pending := rfl
@[simp] theorem State.modStack_free (k : Nat) (f : Stack → Stack) : (s.modStack k f).free = s.free := rfl
@[simp] theorem State.modStack_part (k : Nat) (f : Stack → Stack) : (s.modStack k f).part = s.part := rfl
@[simp] theorem State.modStack_phase (k : Nat) (f : Stack → Stack) : (s.modStack k f).phase = s.phase := rfl
@[simp] theorem State.modStack_ticks (k : Nat) (f : Stack → Stack) : (s.modStack k f).ticks = s.ticks := rfl
@[simp] theorem State.modStack_tb (k : Nat) (f : Stack → Stack) : (s.modStack k f).tb = s.tb := rfl
@[simp] theorem State.modStack_dev (k : Nat) (f : Stack → Stack) : (s.modStack k f).dev = s.dev := rfl
@[simp] theorem State.modStack_procs (k : Nat) (f : Stack → Stack) : (s.modStack k f).procs = s.procs := rfl
@[simp] theorem State.modStack_cores (k : Nat) (f : Stack → Stack) : (s.modStack k f).cores = s.cores := rfl
@[simp] theorem State.modStack_clus (k : Nat) (f : Stack → Stack) : (s.modStack k f).clus = s.clus := rfl
@[simp] theorem State.modStack_net (k : Nat) (f : Stack → Stack) : (s.modStack k f).net = s.net := rfl
@[simp] theorem State.modStack_parked (k : Nat) (f : Stack → Stack) : (s.modStack k f).parked = s.parked := rfl
@[simp] theorem State.modStack_memWait (k : Nat) (f : Stack → Stack) : (s.modStack k f).memWait = s.memWait := rfl
@[simp] theorem State.modStack_noCmp (k : Nat) (f : Stack → Stack) : (s.modStack k f).noCmp = s.noCmp := rfl
@[simp] theorem State.modStack_lost (k : Nat) (f : Stack → Stack) : (s.modStack k f).lost = s.lost := rfl
@[simp] theorem State.modStack_dir (k : Nat) (f : Stack → Stack) : (s.modStack k f).dir = s.dir := rfl
@[simp] theorem State.modStack_ms (k : Nat) (f : Stack → Stack) : (s.modStack k f).ms = s.ms := rfl
@[simp] theorem State.modStack_flips (k : Nat) (f : Stack → Stack) : (s.modStack k f).flips = s.flips := rfl
@[simp] theorem State.modStack_dbits (k : Nat) (f : Stack → Stack) : (s.modStack k f).dbits = s.dbits := rfl
@[simp] theorem State.modStack_peakD (k : Nat) (f : Stack → Stack) : (s.modStack k f).peakD = s.peakD := rfl
@[simp] theorem State.modStack_bisnp (k : Nat) (f : Stack → Stack) : (s.modStack k f).bisnp = s.bisnp := rfl
@[simp] theorem State.modStack_tun (k : Nat) (f : Stack → Stack) : (s.modStack k f).tun = s.tun := rfl
@[simp] theorem State.modStack_fe (k : Nat) (f : Stack → Stack) : (s.modStack k f).fe = s.fe := rfl
@[simp] theorem State.modStack_pew (k : Nat) (f : Stack → Stack) : (s.modStack k f).pew = s.pew := rfl
@[simp] theorem State.modStack_insts (k : Nat) (f : Stack → Stack) : (s.modStack k f).insts = s.insts := rfl
@[simp] theorem State.modStack_cxl (k : Nat) (f : Stack → Stack) : (s.modStack k f).cxl = s.cxl := rfl
@[simp] theorem State.modStack_rps (k : Nat) (f : Stack → Stack) : (s.modStack k f).rps = s.rps := rfl
@[simp] theorem State.modStack_led (k : Nat) (f : Stack → Stack) : (s.modStack k f).led = s.led := rfl
@[simp] theorem State.modStack_accs (k : Nat) (f : Stack → Stack) : (s.modStack k f).accs = s.accs := rfl
@[simp] theorem State.modStack_abt (k : Nat) (f : Stack → Stack) : (s.modStack k f).abt = s.abt := rfl
@[simp] theorem State.modStack_acnt (k : Nat) (f : Stack → Stack) : (s.modStack k f).acnt = s.acnt := rfl
@[simp] theorem State.modStack_exh (k : Nat) (f : Stack → Stack) : (s.modStack k f).exh = s.exh := rfl
@[simp] theorem State.modStack_promos (k : Nat) (f : Stack → Stack) : (s.modStack k f).promos = s.promos := rfl
@[simp] theorem State.modStack_fabq (k : Nat) (f : Stack → Stack) : (s.modStack k f).fabq = s.fabq := rfl
@[simp] theorem State.modStack_links (k : Nat) (f : Stack → Stack) : (s.modStack k f).links = s.links := rfl
@[simp] theorem State.modStack_inq (k : Nat) (f : Stack → Stack) : (s.modStack k f).inq = s.inq := rfl
@[simp] theorem State.modStack_cseqTx (k : Nat) (f : Stack → Stack) : (s.modStack k f).cseqTx = s.cseqTx := rfl
@[simp] theorem State.modStack_cseqRx (k : Nat) (f : Stack → Stack) : (s.modStack k f).cseqRx = s.cseqRx := rfl
@[simp] theorem State.modStack_cheld (k : Nat) (f : Stack → Stack) : (s.modStack k f).cheld = s.cheld := rfl
@[simp] theorem State.modStack_fwdIn (k : Nat) (f : Stack → Stack) : (s.modStack k f).fwdIn = s.fwdIn := rfl
@[simp] theorem State.modStack_sbWait (k : Nat) (f : Stack → Stack) : (s.modStack k f).sbWait = s.sbWait := rfl
@[simp] theorem State.modStack_sbArr (k : Nat) (f : Stack → Stack) : (s.modStack k f).sbArr = s.sbArr := rfl
@[simp] theorem State.modStack_ftos (k : Nat) (f : Stack → Stack) : (s.modStack k f).ftos = s.ftos := rfl
@[simp] theorem State.modStack_leaving (k : Nat) (f : Stack → Stack) : (s.modStack k f).leaving = s.leaving := rfl
@[simp] theorem State.modStack_mirw (k : Nat) (f : Stack → Stack) : (s.modStack k f).mirw = s.mirw := rfl
@[simp] theorem State.modStack_mirTag (k : Nat) (f : Stack → Stack) : (s.modStack k f).mirTag = s.mirTag := rfl
@[simp] theorem State.modStack_mirIn (k : Nat) (f : Stack → Stack) : (s.modStack k f).mirIn = s.mirIn := rfl
@[simp] theorem State.modStack_qs (k : Nat) (f : Stack → Stack) : (s.modStack k f).qs = s.qs := rfl
@[simp] theorem State.modStack_commits (k : Nat) (f : Stack → Stack) : (s.modStack k f).commits = s.commits := rfl
@[simp] theorem State.modStack_eng (k : Nat) (f : Stack → Stack) : (s.modStack k f).eng = s.eng := rfl
@[simp] theorem State.modStack_ushare (k : Nat) (f : Stack → Stack) : (s.modStack k f).ushare = s.ushare := rfl
@[simp] theorem State.modStack_rops (k : Nat) (f : Stack → Stack) : (s.modStack k f).rops = s.rops := rfl
@[simp] theorem State.modStack_rtag (k : Nat) (f : Stack → Stack) : (s.modStack k f).rtag = s.rtag := rfl
@[simp] theorem State.modStack_kslots (k : Nat) (f : Stack → Stack) : (s.modStack k f).kslots = s.kslots := rfl
@[simp] theorem State.modStack_kbuf (k : Nat) (f : Stack → Stack) : (s.modStack k f).kbuf = s.kbuf := rfl
@[simp] theorem State.modStack_kcmd (k : Nat) (f : Stack → Stack) : (s.modStack k f).kcmd = s.kcmd := rfl
@[simp] theorem State.modStack_cobs (k : Nat) (f : Stack → Stack) : (s.modStack k f).cobs = s.cobs := rfl
@[simp] theorem State.modStack_zns (k : Nat) (f : Stack → Stack) : (s.modStack k f).zns = s.zns := rfl
@[simp] theorem State.modStack_ports (k : Nat) (f : Stack → Stack) : (s.modStack k f).ports = s.ports := rfl
@[simp] theorem State.modStack_cobBytes (k : Nat) (f : Stack → Stack) : (s.modStack k f).cobBytes = s.cobBytes := rfl
@[simp] theorem State.modStack_authF (k : Nat) (f : Stack → Stack) : (s.modStack k f).authF = s.authF := rfl
@[simp] theorem State.modStack_znIn (k : Nat) (f : Stack → Stack) : (s.modStack k f).znIn = s.znIn := rfl
@[simp] theorem State.modStack_znOut (k : Nat) (f : Stack → Stack) : (s.modStack k f).znOut = s.znOut := rfl
@[simp] theorem State.modStack_znErr (k : Nat) (f : Stack → Stack) : (s.modStack k f).znErr = s.znErr := rfl
@[simp] theorem State.modStack_images (k : Nat) (f : Stack → Stack) : (s.modStack k f).images = s.images := rfl
@[simp] theorem State.modStack_imgW (k : Nat) (f : Stack → Stack) : (s.modStack k f).imgW = s.imgW := rfl
@[simp] theorem State.modStack_bpW (k : Nat) (f : Stack → Stack) : (s.modStack k f).bpW = s.bpW := rfl
@[simp] theorem State.modStack_repts (k : Nat) (f : Stack → Stack) : (s.modStack k f).repts = s.repts := rfl
@[simp] theorem State.modStack_rptW (k : Nat) (f : Stack → Stack) : (s.modStack k f).rptW = s.rptW := rfl
@[simp] theorem State.modStack_rptLate (k : Nat) (f : Stack → Stack) : (s.modStack k f).rptLate = s.rptLate := rfl
@[simp] theorem State.modStack_icmd (k : Nat) (f : Stack → Stack) : (s.modStack k f).icmd = s.icmd := rfl
@[simp] theorem State.modStack_rests (k : Nat) (f : Stack → Stack) : (s.modStack k f).rests = s.rests := rfl
@[simp] theorem State.modStack_ifail (k : Nat) (f : Stack → Stack) : (s.modStack k f).ifail = s.ifail := rfl
@[simp] theorem State.modStack_isaved (k : Nat) (f : Stack → Stack) : (s.modStack k f).isaved = s.isaved := rfl
@[simp] theorem State.modStack_irest (k : Nat) (f : Stack → Stack) : (s.modStack k f).irest = s.irest := rfl
@[simp] theorem State.modStack_icont (k : Nat) (f : Stack → Stack) : (s.modStack k f).icont = s.icont := rfl
@[simp] theorem State.modStack_frzTb (k : Nat) (f : Stack → Stack) : (s.modStack k f).frzTb = s.frzTb := rfl
@[simp] theorem State.modStack_snaps (k : Nat) (f : Stack → Stack) : (s.modStack k f).snaps = s.snaps := rfl
@[simp] theorem State.modStack_saved (k : Nat) (f : Stack → Stack) : (s.modStack k f).saved = s.saved := rfl
@[simp] theorem State.modStack_kept (k : Nat) (f : Stack → Stack) : (s.modStack k f).kept = s.kept := rfl
@[simp] theorem State.modStack_bcfg (k : Nat) (f : Stack → Stack) : (s.modStack k f).bcfg = s.bcfg := rfl
@[simp] theorem State.modStack_bprog (k : Nat) (f : Stack → Stack) : (s.modStack k f).bprog = s.bprog := rfl
@[simp] theorem State.modStack_brs (k : Nat) (f : Stack → Stack) : (s.modStack k f).brs = s.brs := rfl
@[simp] theorem State.modStack_mgmt (k : Nat) (f : Stack → Stack) : (s.modStack k f).mgmt = s.mgmt := rfl
@[simp] theorem State.modStack_vaux (k : Nat) (f : Stack → Stack) : (s.modStack k f).vaux = s.vaux := rfl
@[simp] theorem State.modStack_sel (k : Nat) (f : Stack → Stack) : (s.modStack k f).sel = s.sel := rfl
@[simp] theorem State.modStack_boot (k : Nat) (f : Stack → Stack) : (s.modStack k f).boot = s.boot := rfl
@[simp] theorem State.modStack_rearms (k : Nat) (f : Stack → Stack) : (s.modStack k f).rearms = s.rearms := rfl
@[simp] theorem State.modStack_refLost (k : Nat) (f : Stack → Stack) : (s.modStack k f).refLost = s.refLost := rfl
@[simp] theorem State.modStack_outbox (k : Nat) (f : Stack → Stack) : (s.modStack k f).outbox = s.outbox := rfl

@[simp] theorem State.tick1_pending : (s.tick1).pending = s.pending := rfl
@[simp] theorem State.tick1_part : (s.tick1).part = s.part := rfl
@[simp] theorem State.tick1_phase : (s.tick1).phase = s.phase := rfl
@[simp] theorem State.tick1_ticks : (s.tick1).ticks = s.ticks := rfl
@[simp] theorem State.tick1_tb : (s.tick1).tb = s.tb := rfl
@[simp] theorem State.tick1_dev : (s.tick1).dev = s.dev := rfl
@[simp] theorem State.tick1_procs : (s.tick1).procs = s.procs := rfl
@[simp] theorem State.tick1_cores : (s.tick1).cores = s.cores := rfl
@[simp] theorem State.tick1_clus : (s.tick1).clus = s.clus := rfl
@[simp] theorem State.tick1_net : (s.tick1).net = s.net := rfl
@[simp] theorem State.tick1_parked : (s.tick1).parked = s.parked := rfl
@[simp] theorem State.tick1_memWait : (s.tick1).memWait = s.memWait := rfl
@[simp] theorem State.tick1_noCmp : (s.tick1).noCmp = s.noCmp := rfl
@[simp] theorem State.tick1_lost : (s.tick1).lost = s.lost := rfl
@[simp] theorem State.tick1_dir : (s.tick1).dir = s.dir := rfl
@[simp] theorem State.tick1_stks : (s.tick1).stks = s.stks := rfl
@[simp] theorem State.tick1_ms : (s.tick1).ms = s.ms := rfl
@[simp] theorem State.tick1_flips : (s.tick1).flips = s.flips := rfl
@[simp] theorem State.tick1_dbits : (s.tick1).dbits = s.dbits := rfl
@[simp] theorem State.tick1_peakD : (s.tick1).peakD = s.peakD := rfl
@[simp] theorem State.tick1_bisnp : (s.tick1).bisnp = s.bisnp := rfl
@[simp] theorem State.tick1_tun : (s.tick1).tun = s.tun := rfl
@[simp] theorem State.tick1_fe : (s.tick1).fe = s.fe := rfl
@[simp] theorem State.tick1_pew : (s.tick1).pew = s.pew := rfl
@[simp] theorem State.tick1_insts : (s.tick1).insts = s.insts := rfl
@[simp] theorem State.tick1_cxl : (s.tick1).cxl = s.cxl := rfl
@[simp] theorem State.tick1_rps : (s.tick1).rps = s.rps := rfl
@[simp] theorem State.tick1_led : (s.tick1).led = s.led := rfl
@[simp] theorem State.tick1_accs : (s.tick1).accs = s.accs := rfl
@[simp] theorem State.tick1_abt : (s.tick1).abt = s.abt := rfl
@[simp] theorem State.tick1_acnt : (s.tick1).acnt = s.acnt := rfl
@[simp] theorem State.tick1_exh : (s.tick1).exh = s.exh := rfl
@[simp] theorem State.tick1_promos : (s.tick1).promos = s.promos := rfl
@[simp] theorem State.tick1_fabq : (s.tick1).fabq = s.fabq := rfl
@[simp] theorem State.tick1_links : (s.tick1).links = s.links := rfl
@[simp] theorem State.tick1_inq : (s.tick1).inq = s.inq := rfl
@[simp] theorem State.tick1_cseqTx : (s.tick1).cseqTx = s.cseqTx := rfl
@[simp] theorem State.tick1_cseqRx : (s.tick1).cseqRx = s.cseqRx := rfl
@[simp] theorem State.tick1_cheld : (s.tick1).cheld = s.cheld := rfl
@[simp] theorem State.tick1_fwdIn : (s.tick1).fwdIn = s.fwdIn := rfl
@[simp] theorem State.tick1_sbWait : (s.tick1).sbWait = s.sbWait := rfl
@[simp] theorem State.tick1_sbArr : (s.tick1).sbArr = s.sbArr := rfl
@[simp] theorem State.tick1_ftos : (s.tick1).ftos = s.ftos := rfl
@[simp] theorem State.tick1_leaving : (s.tick1).leaving = s.leaving := rfl
@[simp] theorem State.tick1_mirw : (s.tick1).mirw = s.mirw := rfl
@[simp] theorem State.tick1_mirTag : (s.tick1).mirTag = s.mirTag := rfl
@[simp] theorem State.tick1_mirIn : (s.tick1).mirIn = s.mirIn := rfl
@[simp] theorem State.tick1_qs : (s.tick1).qs = s.qs := rfl
@[simp] theorem State.tick1_commits : (s.tick1).commits = s.commits := rfl
@[simp] theorem State.tick1_eng : (s.tick1).eng = s.eng := rfl
@[simp] theorem State.tick1_ushare : (s.tick1).ushare = s.ushare := rfl
@[simp] theorem State.tick1_rops : (s.tick1).rops = s.rops := rfl
@[simp] theorem State.tick1_rtag : (s.tick1).rtag = s.rtag := rfl
@[simp] theorem State.tick1_kslots : (s.tick1).kslots = s.kslots := rfl
@[simp] theorem State.tick1_kbuf : (s.tick1).kbuf = s.kbuf := rfl
@[simp] theorem State.tick1_kcmd : (s.tick1).kcmd = s.kcmd := rfl
@[simp] theorem State.tick1_cobs : (s.tick1).cobs = s.cobs := rfl
@[simp] theorem State.tick1_zns : (s.tick1).zns = s.zns := rfl
@[simp] theorem State.tick1_ports : (s.tick1).ports = s.ports := rfl
@[simp] theorem State.tick1_cobBytes : (s.tick1).cobBytes = s.cobBytes := rfl
@[simp] theorem State.tick1_authF : (s.tick1).authF = s.authF := rfl
@[simp] theorem State.tick1_znIn : (s.tick1).znIn = s.znIn := rfl
@[simp] theorem State.tick1_znOut : (s.tick1).znOut = s.znOut := rfl
@[simp] theorem State.tick1_znErr : (s.tick1).znErr = s.znErr := rfl
@[simp] theorem State.tick1_images : (s.tick1).images = s.images := rfl
@[simp] theorem State.tick1_imgW : (s.tick1).imgW = s.imgW := rfl
@[simp] theorem State.tick1_bpW : (s.tick1).bpW = s.bpW := rfl
@[simp] theorem State.tick1_repts : (s.tick1).repts = s.repts := rfl
@[simp] theorem State.tick1_rptW : (s.tick1).rptW = s.rptW := rfl
@[simp] theorem State.tick1_rptLate : (s.tick1).rptLate = s.rptLate := rfl
@[simp] theorem State.tick1_icmd : (s.tick1).icmd = s.icmd := rfl
@[simp] theorem State.tick1_rests : (s.tick1).rests = s.rests := rfl
@[simp] theorem State.tick1_ifail : (s.tick1).ifail = s.ifail := rfl
@[simp] theorem State.tick1_isaved : (s.tick1).isaved = s.isaved := rfl
@[simp] theorem State.tick1_irest : (s.tick1).irest = s.irest := rfl
@[simp] theorem State.tick1_icont : (s.tick1).icont = s.icont := rfl
@[simp] theorem State.tick1_frzTb : (s.tick1).frzTb = s.frzTb := rfl
@[simp] theorem State.tick1_snaps : (s.tick1).snaps = s.snaps := rfl
@[simp] theorem State.tick1_saved : (s.tick1).saved = s.saved := rfl
@[simp] theorem State.tick1_kept : (s.tick1).kept = s.kept := rfl
@[simp] theorem State.tick1_bcfg : (s.tick1).bcfg = s.bcfg := rfl
@[simp] theorem State.tick1_bprog : (s.tick1).bprog = s.bprog := rfl
@[simp] theorem State.tick1_brs : (s.tick1).brs = s.brs := rfl
@[simp] theorem State.tick1_mgmt : (s.tick1).mgmt = s.mgmt := rfl
@[simp] theorem State.tick1_vaux : (s.tick1).vaux = s.vaux := rfl
@[simp] theorem State.tick1_sel : (s.tick1).sel = s.sel := rfl
@[simp] theorem State.tick1_boot : (s.tick1).boot = s.boot := rfl
@[simp] theorem State.tick1_rearms : (s.tick1).rearms = s.rearms := rfl
@[simp] theorem State.tick1_refLost : (s.tick1).refLost = s.refLost := rfl
@[simp] theorem State.tick1_outbox : (s.tick1).outbox = s.outbox := rfl

@[simp] theorem State.out_pending (o : Out) : (s.out o).pending = s.pending := rfl
@[simp] theorem State.out_free (o : Out) : (s.out o).free = s.free := rfl
@[simp] theorem State.out_part (o : Out) : (s.out o).part = s.part := rfl
@[simp] theorem State.out_phase (o : Out) : (s.out o).phase = s.phase := rfl
@[simp] theorem State.out_ticks (o : Out) : (s.out o).ticks = s.ticks := rfl
@[simp] theorem State.out_tb (o : Out) : (s.out o).tb = s.tb := rfl
@[simp] theorem State.out_dev (o : Out) : (s.out o).dev = s.dev := rfl
@[simp] theorem State.out_procs (o : Out) : (s.out o).procs = s.procs := rfl
@[simp] theorem State.out_cores (o : Out) : (s.out o).cores = s.cores := rfl
@[simp] theorem State.out_clus (o : Out) : (s.out o).clus = s.clus := rfl
@[simp] theorem State.out_net (o : Out) : (s.out o).net = s.net := rfl
@[simp] theorem State.out_parked (o : Out) : (s.out o).parked = s.parked := rfl
@[simp] theorem State.out_memWait (o : Out) : (s.out o).memWait = s.memWait := rfl
@[simp] theorem State.out_noCmp (o : Out) : (s.out o).noCmp = s.noCmp := rfl
@[simp] theorem State.out_lost (o : Out) : (s.out o).lost = s.lost := rfl
@[simp] theorem State.out_dir (o : Out) : (s.out o).dir = s.dir := rfl
@[simp] theorem State.out_stks (o : Out) : (s.out o).stks = s.stks := rfl
@[simp] theorem State.out_ms (o : Out) : (s.out o).ms = s.ms := rfl
@[simp] theorem State.out_flips (o : Out) : (s.out o).flips = s.flips := rfl
@[simp] theorem State.out_dbits (o : Out) : (s.out o).dbits = s.dbits := rfl
@[simp] theorem State.out_peakD (o : Out) : (s.out o).peakD = s.peakD := rfl
@[simp] theorem State.out_bisnp (o : Out) : (s.out o).bisnp = s.bisnp := rfl
@[simp] theorem State.out_tun (o : Out) : (s.out o).tun = s.tun := rfl
@[simp] theorem State.out_fe (o : Out) : (s.out o).fe = s.fe := rfl
@[simp] theorem State.out_pew (o : Out) : (s.out o).pew = s.pew := rfl
@[simp] theorem State.out_insts (o : Out) : (s.out o).insts = s.insts := rfl
@[simp] theorem State.out_cxl (o : Out) : (s.out o).cxl = s.cxl := rfl
@[simp] theorem State.out_rps (o : Out) : (s.out o).rps = s.rps := rfl
@[simp] theorem State.out_led (o : Out) : (s.out o).led = s.led := rfl
@[simp] theorem State.out_accs (o : Out) : (s.out o).accs = s.accs := rfl
@[simp] theorem State.out_abt (o : Out) : (s.out o).abt = s.abt := rfl
@[simp] theorem State.out_acnt (o : Out) : (s.out o).acnt = s.acnt := rfl
@[simp] theorem State.out_exh (o : Out) : (s.out o).exh = s.exh := rfl
@[simp] theorem State.out_promos (o : Out) : (s.out o).promos = s.promos := rfl
@[simp] theorem State.out_fabq (o : Out) : (s.out o).fabq = s.fabq := rfl
@[simp] theorem State.out_links (o : Out) : (s.out o).links = s.links := rfl
@[simp] theorem State.out_inq (o : Out) : (s.out o).inq = s.inq := rfl
@[simp] theorem State.out_cseqTx (o : Out) : (s.out o).cseqTx = s.cseqTx := rfl
@[simp] theorem State.out_cseqRx (o : Out) : (s.out o).cseqRx = s.cseqRx := rfl
@[simp] theorem State.out_cheld (o : Out) : (s.out o).cheld = s.cheld := rfl
@[simp] theorem State.out_fwdIn (o : Out) : (s.out o).fwdIn = s.fwdIn := rfl
@[simp] theorem State.out_sbWait (o : Out) : (s.out o).sbWait = s.sbWait := rfl
@[simp] theorem State.out_sbArr (o : Out) : (s.out o).sbArr = s.sbArr := rfl
@[simp] theorem State.out_ftos (o : Out) : (s.out o).ftos = s.ftos := rfl
@[simp] theorem State.out_leaving (o : Out) : (s.out o).leaving = s.leaving := rfl
@[simp] theorem State.out_mirw (o : Out) : (s.out o).mirw = s.mirw := rfl
@[simp] theorem State.out_mirTag (o : Out) : (s.out o).mirTag = s.mirTag := rfl
@[simp] theorem State.out_mirIn (o : Out) : (s.out o).mirIn = s.mirIn := rfl
@[simp] theorem State.out_qs (o : Out) : (s.out o).qs = s.qs := rfl
@[simp] theorem State.out_commits (o : Out) : (s.out o).commits = s.commits := rfl
@[simp] theorem State.out_eng (o : Out) : (s.out o).eng = s.eng := rfl
@[simp] theorem State.out_ushare (o : Out) : (s.out o).ushare = s.ushare := rfl
@[simp] theorem State.out_rops (o : Out) : (s.out o).rops = s.rops := rfl
@[simp] theorem State.out_rtag (o : Out) : (s.out o).rtag = s.rtag := rfl
@[simp] theorem State.out_kslots (o : Out) : (s.out o).kslots = s.kslots := rfl
@[simp] theorem State.out_kbuf (o : Out) : (s.out o).kbuf = s.kbuf := rfl
@[simp] theorem State.out_kcmd (o : Out) : (s.out o).kcmd = s.kcmd := rfl
@[simp] theorem State.out_cobs (o : Out) : (s.out o).cobs = s.cobs := rfl
@[simp] theorem State.out_zns (o : Out) : (s.out o).zns = s.zns := rfl
@[simp] theorem State.out_ports (o : Out) : (s.out o).ports = s.ports := rfl
@[simp] theorem State.out_cobBytes (o : Out) : (s.out o).cobBytes = s.cobBytes := rfl
@[simp] theorem State.out_authF (o : Out) : (s.out o).authF = s.authF := rfl
@[simp] theorem State.out_znIn (o : Out) : (s.out o).znIn = s.znIn := rfl
@[simp] theorem State.out_znOut (o : Out) : (s.out o).znOut = s.znOut := rfl
@[simp] theorem State.out_znErr (o : Out) : (s.out o).znErr = s.znErr := rfl
@[simp] theorem State.out_images (o : Out) : (s.out o).images = s.images := rfl
@[simp] theorem State.out_imgW (o : Out) : (s.out o).imgW = s.imgW := rfl
@[simp] theorem State.out_bpW (o : Out) : (s.out o).bpW = s.bpW := rfl
@[simp] theorem State.out_repts (o : Out) : (s.out o).repts = s.repts := rfl
@[simp] theorem State.out_rptW (o : Out) : (s.out o).rptW = s.rptW := rfl
@[simp] theorem State.out_rptLate (o : Out) : (s.out o).rptLate = s.rptLate := rfl
@[simp] theorem State.out_icmd (o : Out) : (s.out o).icmd = s.icmd := rfl
@[simp] theorem State.out_rests (o : Out) : (s.out o).rests = s.rests := rfl
@[simp] theorem State.out_ifail (o : Out) : (s.out o).ifail = s.ifail := rfl
@[simp] theorem State.out_isaved (o : Out) : (s.out o).isaved = s.isaved := rfl
@[simp] theorem State.out_irest (o : Out) : (s.out o).irest = s.irest := rfl
@[simp] theorem State.out_icont (o : Out) : (s.out o).icont = s.icont := rfl
@[simp] theorem State.out_frzTb (o : Out) : (s.out o).frzTb = s.frzTb := rfl
@[simp] theorem State.out_snaps (o : Out) : (s.out o).snaps = s.snaps := rfl
@[simp] theorem State.out_saved (o : Out) : (s.out o).saved = s.saved := rfl
@[simp] theorem State.out_kept (o : Out) : (s.out o).kept = s.kept := rfl
@[simp] theorem State.out_bcfg (o : Out) : (s.out o).bcfg = s.bcfg := rfl
@[simp] theorem State.out_bprog (o : Out) : (s.out o).bprog = s.bprog := rfl
@[simp] theorem State.out_brs (o : Out) : (s.out o).brs = s.brs := rfl
@[simp] theorem State.out_mgmt (o : Out) : (s.out o).mgmt = s.mgmt := rfl
@[simp] theorem State.out_vaux (o : Out) : (s.out o).vaux = s.vaux := rfl
@[simp] theorem State.out_sel (o : Out) : (s.out o).sel = s.sel := rfl
@[simp] theorem State.out_boot (o : Out) : (s.out o).boot = s.boot := rfl
@[simp] theorem State.out_rearms (o : Out) : (s.out o).rearms = s.rearms := rfl
@[simp] theorem State.out_refLost (o : Out) : (s.out o).refLost = s.refLost := rfl

@[simp] theorem State.send_pending (m : Msg) : (s.send m).pending = s.pending := rfl
@[simp] theorem State.send_free (m : Msg) : (s.send m).free = s.free := rfl
@[simp] theorem State.send_part (m : Msg) : (s.send m).part = s.part := rfl
@[simp] theorem State.send_phase (m : Msg) : (s.send m).phase = s.phase := rfl
@[simp] theorem State.send_ticks (m : Msg) : (s.send m).ticks = s.ticks := rfl
@[simp] theorem State.send_tb (m : Msg) : (s.send m).tb = s.tb := rfl
@[simp] theorem State.send_dev (m : Msg) : (s.send m).dev = s.dev := rfl
@[simp] theorem State.send_procs (m : Msg) : (s.send m).procs = s.procs := rfl
@[simp] theorem State.send_cores (m : Msg) : (s.send m).cores = s.cores := rfl
@[simp] theorem State.send_clus (m : Msg) : (s.send m).clus = s.clus := rfl
@[simp] theorem State.send_parked (m : Msg) : (s.send m).parked = s.parked := rfl
@[simp] theorem State.send_memWait (m : Msg) : (s.send m).memWait = s.memWait := rfl
@[simp] theorem State.send_noCmp (m : Msg) : (s.send m).noCmp = s.noCmp := rfl
@[simp] theorem State.send_lost (m : Msg) : (s.send m).lost = s.lost := rfl
@[simp] theorem State.send_dir (m : Msg) : (s.send m).dir = s.dir := rfl
@[simp] theorem State.send_stks (m : Msg) : (s.send m).stks = s.stks := rfl
@[simp] theorem State.send_ms (m : Msg) : (s.send m).ms = s.ms := rfl
@[simp] theorem State.send_flips (m : Msg) : (s.send m).flips = s.flips := rfl
@[simp] theorem State.send_dbits (m : Msg) : (s.send m).dbits = s.dbits := rfl
@[simp] theorem State.send_peakD (m : Msg) : (s.send m).peakD = s.peakD := rfl
@[simp] theorem State.send_bisnp (m : Msg) : (s.send m).bisnp = s.bisnp := rfl
@[simp] theorem State.send_tun (m : Msg) : (s.send m).tun = s.tun := rfl
@[simp] theorem State.send_fe (m : Msg) : (s.send m).fe = s.fe := rfl
@[simp] theorem State.send_pew (m : Msg) : (s.send m).pew = s.pew := rfl
@[simp] theorem State.send_insts (m : Msg) : (s.send m).insts = s.insts := rfl
@[simp] theorem State.send_cxl (m : Msg) : (s.send m).cxl = s.cxl := rfl
@[simp] theorem State.send_rps (m : Msg) : (s.send m).rps = s.rps := rfl
@[simp] theorem State.send_led (m : Msg) : (s.send m).led = s.led := rfl
@[simp] theorem State.send_accs (m : Msg) : (s.send m).accs = s.accs := rfl
@[simp] theorem State.send_abt (m : Msg) : (s.send m).abt = s.abt := rfl
@[simp] theorem State.send_acnt (m : Msg) : (s.send m).acnt = s.acnt := rfl
@[simp] theorem State.send_exh (m : Msg) : (s.send m).exh = s.exh := rfl
@[simp] theorem State.send_promos (m : Msg) : (s.send m).promos = s.promos := rfl
@[simp] theorem State.send_fabq (m : Msg) : (s.send m).fabq = s.fabq := rfl
@[simp] theorem State.send_links (m : Msg) : (s.send m).links = s.links := rfl
@[simp] theorem State.send_inq (m : Msg) : (s.send m).inq = s.inq := rfl
@[simp] theorem State.send_cseqTx (m : Msg) : (s.send m).cseqTx = s.cseqTx := rfl
@[simp] theorem State.send_cseqRx (m : Msg) : (s.send m).cseqRx = s.cseqRx := rfl
@[simp] theorem State.send_cheld (m : Msg) : (s.send m).cheld = s.cheld := rfl
@[simp] theorem State.send_fwdIn (m : Msg) : (s.send m).fwdIn = s.fwdIn := rfl
@[simp] theorem State.send_sbWait (m : Msg) : (s.send m).sbWait = s.sbWait := rfl
@[simp] theorem State.send_sbArr (m : Msg) : (s.send m).sbArr = s.sbArr := rfl
@[simp] theorem State.send_ftos (m : Msg) : (s.send m).ftos = s.ftos := rfl
@[simp] theorem State.send_leaving (m : Msg) : (s.send m).leaving = s.leaving := rfl
@[simp] theorem State.send_mirw (m : Msg) : (s.send m).mirw = s.mirw := rfl
@[simp] theorem State.send_mirTag (m : Msg) : (s.send m).mirTag = s.mirTag := rfl
@[simp] theorem State.send_mirIn (m : Msg) : (s.send m).mirIn = s.mirIn := rfl
@[simp] theorem State.send_qs (m : Msg) : (s.send m).qs = s.qs := rfl
@[simp] theorem State.send_commits (m : Msg) : (s.send m).commits = s.commits := rfl
@[simp] theorem State.send_eng (m : Msg) : (s.send m).eng = s.eng := rfl
@[simp] theorem State.send_ushare (m : Msg) : (s.send m).ushare = s.ushare := rfl
@[simp] theorem State.send_rops (m : Msg) : (s.send m).rops = s.rops := rfl
@[simp] theorem State.send_rtag (m : Msg) : (s.send m).rtag = s.rtag := rfl
@[simp] theorem State.send_kslots (m : Msg) : (s.send m).kslots = s.kslots := rfl
@[simp] theorem State.send_kbuf (m : Msg) : (s.send m).kbuf = s.kbuf := rfl
@[simp] theorem State.send_kcmd (m : Msg) : (s.send m).kcmd = s.kcmd := rfl
@[simp] theorem State.send_cobs (m : Msg) : (s.send m).cobs = s.cobs := rfl
@[simp] theorem State.send_zns (m : Msg) : (s.send m).zns = s.zns := rfl
@[simp] theorem State.send_ports (m : Msg) : (s.send m).ports = s.ports := rfl
@[simp] theorem State.send_cobBytes (m : Msg) : (s.send m).cobBytes = s.cobBytes := rfl
@[simp] theorem State.send_authF (m : Msg) : (s.send m).authF = s.authF := rfl
@[simp] theorem State.send_znIn (m : Msg) : (s.send m).znIn = s.znIn := rfl
@[simp] theorem State.send_znOut (m : Msg) : (s.send m).znOut = s.znOut := rfl
@[simp] theorem State.send_znErr (m : Msg) : (s.send m).znErr = s.znErr := rfl
@[simp] theorem State.send_images (m : Msg) : (s.send m).images = s.images := rfl
@[simp] theorem State.send_imgW (m : Msg) : (s.send m).imgW = s.imgW := rfl
@[simp] theorem State.send_bpW (m : Msg) : (s.send m).bpW = s.bpW := rfl
@[simp] theorem State.send_repts (m : Msg) : (s.send m).repts = s.repts := rfl
@[simp] theorem State.send_rptW (m : Msg) : (s.send m).rptW = s.rptW := rfl
@[simp] theorem State.send_rptLate (m : Msg) : (s.send m).rptLate = s.rptLate := rfl
@[simp] theorem State.send_icmd (m : Msg) : (s.send m).icmd = s.icmd := rfl
@[simp] theorem State.send_rests (m : Msg) : (s.send m).rests = s.rests := rfl
@[simp] theorem State.send_ifail (m : Msg) : (s.send m).ifail = s.ifail := rfl
@[simp] theorem State.send_isaved (m : Msg) : (s.send m).isaved = s.isaved := rfl
@[simp] theorem State.send_irest (m : Msg) : (s.send m).irest = s.irest := rfl
@[simp] theorem State.send_icont (m : Msg) : (s.send m).icont = s.icont := rfl
@[simp] theorem State.send_frzTb (m : Msg) : (s.send m).frzTb = s.frzTb := rfl
@[simp] theorem State.send_snaps (m : Msg) : (s.send m).snaps = s.snaps := rfl
@[simp] theorem State.send_saved (m : Msg) : (s.send m).saved = s.saved := rfl
@[simp] theorem State.send_kept (m : Msg) : (s.send m).kept = s.kept := rfl
@[simp] theorem State.send_bcfg (m : Msg) : (s.send m).bcfg = s.bcfg := rfl
@[simp] theorem State.send_bprog (m : Msg) : (s.send m).bprog = s.bprog := rfl
@[simp] theorem State.send_brs (m : Msg) : (s.send m).brs = s.brs := rfl
@[simp] theorem State.send_mgmt (m : Msg) : (s.send m).mgmt = s.mgmt := rfl
@[simp] theorem State.send_vaux (m : Msg) : (s.send m).vaux = s.vaux := rfl
@[simp] theorem State.send_sel (m : Msg) : (s.send m).sel = s.sel := rfl
@[simp] theorem State.send_boot (m : Msg) : (s.send m).boot = s.boot := rfl
@[simp] theorem State.send_rearms (m : Msg) : (s.send m).rearms = s.rearms := rfl
@[simp] theorem State.send_refLost (m : Msg) : (s.send m).refLost = s.refLost := rfl
@[simp] theorem State.send_outbox (m : Msg) : (s.send m).outbox = s.outbox := rfl

@[simp] theorem State.sg_pending (a : Nat) (v d : Word) : (s.sg a v d).pending = s.pending := rfl
@[simp] theorem State.sg_free (a : Nat) (v d : Word) : (s.sg a v d).free = s.free := rfl
@[simp] theorem State.sg_part (a : Nat) (v d : Word) : (s.sg a v d).part = s.part := rfl
@[simp] theorem State.sg_phase (a : Nat) (v d : Word) : (s.sg a v d).phase = s.phase := rfl
@[simp] theorem State.sg_ticks (a : Nat) (v d : Word) : (s.sg a v d).ticks = s.ticks := rfl
@[simp] theorem State.sg_tb (a : Nat) (v d : Word) : (s.sg a v d).tb = s.tb := rfl
@[simp] theorem State.sg_procs (a : Nat) (v d : Word) : (s.sg a v d).procs = s.procs := rfl
@[simp] theorem State.sg_cores (a : Nat) (v d : Word) : (s.sg a v d).cores = s.cores := rfl
@[simp] theorem State.sg_clus (a : Nat) (v d : Word) : (s.sg a v d).clus = s.clus := rfl
@[simp] theorem State.sg_net (a : Nat) (v d : Word) : (s.sg a v d).net = s.net := rfl
@[simp] theorem State.sg_parked (a : Nat) (v d : Word) : (s.sg a v d).parked = s.parked := rfl
@[simp] theorem State.sg_memWait (a : Nat) (v d : Word) : (s.sg a v d).memWait = s.memWait := rfl
@[simp] theorem State.sg_noCmp (a : Nat) (v d : Word) : (s.sg a v d).noCmp = s.noCmp := rfl
@[simp] theorem State.sg_lost (a : Nat) (v d : Word) : (s.sg a v d).lost = s.lost := rfl
@[simp] theorem State.sg_dir (a : Nat) (v d : Word) : (s.sg a v d).dir = s.dir := rfl
@[simp] theorem State.sg_stks (a : Nat) (v d : Word) : (s.sg a v d).stks = s.stks := rfl
@[simp] theorem State.sg_ms (a : Nat) (v d : Word) : (s.sg a v d).ms = s.ms := rfl
@[simp] theorem State.sg_flips (a : Nat) (v d : Word) : (s.sg a v d).flips = s.flips := rfl
@[simp] theorem State.sg_dbits (a : Nat) (v d : Word) : (s.sg a v d).dbits = s.dbits := rfl
@[simp] theorem State.sg_peakD (a : Nat) (v d : Word) : (s.sg a v d).peakD = s.peakD := rfl
@[simp] theorem State.sg_bisnp (a : Nat) (v d : Word) : (s.sg a v d).bisnp = s.bisnp := rfl
@[simp] theorem State.sg_tun (a : Nat) (v d : Word) : (s.sg a v d).tun = s.tun := rfl
@[simp] theorem State.sg_fe (a : Nat) (v d : Word) : (s.sg a v d).fe = s.fe := rfl
@[simp] theorem State.sg_pew (a : Nat) (v d : Word) : (s.sg a v d).pew = s.pew := rfl
@[simp] theorem State.sg_insts (a : Nat) (v d : Word) : (s.sg a v d).insts = s.insts := rfl
@[simp] theorem State.sg_cxl (a : Nat) (v d : Word) : (s.sg a v d).cxl = s.cxl := rfl
@[simp] theorem State.sg_rps (a : Nat) (v d : Word) : (s.sg a v d).rps = s.rps := rfl
@[simp] theorem State.sg_led (a : Nat) (v d : Word) : (s.sg a v d).led = s.led := rfl
@[simp] theorem State.sg_accs (a : Nat) (v d : Word) : (s.sg a v d).accs = s.accs := rfl
@[simp] theorem State.sg_abt (a : Nat) (v d : Word) : (s.sg a v d).abt = s.abt := rfl
@[simp] theorem State.sg_acnt (a : Nat) (v d : Word) : (s.sg a v d).acnt = s.acnt := rfl
@[simp] theorem State.sg_exh (a : Nat) (v d : Word) : (s.sg a v d).exh = s.exh := rfl
@[simp] theorem State.sg_promos (a : Nat) (v d : Word) : (s.sg a v d).promos = s.promos := rfl
@[simp] theorem State.sg_fabq (a : Nat) (v d : Word) : (s.sg a v d).fabq = s.fabq := rfl
@[simp] theorem State.sg_links (a : Nat) (v d : Word) : (s.sg a v d).links = s.links := rfl
@[simp] theorem State.sg_inq (a : Nat) (v d : Word) : (s.sg a v d).inq = s.inq := rfl
@[simp] theorem State.sg_cseqTx (a : Nat) (v d : Word) : (s.sg a v d).cseqTx = s.cseqTx := rfl
@[simp] theorem State.sg_cseqRx (a : Nat) (v d : Word) : (s.sg a v d).cseqRx = s.cseqRx := rfl
@[simp] theorem State.sg_cheld (a : Nat) (v d : Word) : (s.sg a v d).cheld = s.cheld := rfl
@[simp] theorem State.sg_fwdIn (a : Nat) (v d : Word) : (s.sg a v d).fwdIn = s.fwdIn := rfl
@[simp] theorem State.sg_sbWait (a : Nat) (v d : Word) : (s.sg a v d).sbWait = s.sbWait := rfl
@[simp] theorem State.sg_sbArr (a : Nat) (v d : Word) : (s.sg a v d).sbArr = s.sbArr := rfl
@[simp] theorem State.sg_ftos (a : Nat) (v d : Word) : (s.sg a v d).ftos = s.ftos := rfl
@[simp] theorem State.sg_leaving (a : Nat) (v d : Word) : (s.sg a v d).leaving = s.leaving := rfl
@[simp] theorem State.sg_mirw (a : Nat) (v d : Word) : (s.sg a v d).mirw = s.mirw := rfl
@[simp] theorem State.sg_mirTag (a : Nat) (v d : Word) : (s.sg a v d).mirTag = s.mirTag := rfl
@[simp] theorem State.sg_mirIn (a : Nat) (v d : Word) : (s.sg a v d).mirIn = s.mirIn := rfl
@[simp] theorem State.sg_qs (a : Nat) (v d : Word) : (s.sg a v d).qs = s.qs := rfl
@[simp] theorem State.sg_commits (a : Nat) (v d : Word) : (s.sg a v d).commits = s.commits := rfl
@[simp] theorem State.sg_eng (a : Nat) (v d : Word) : (s.sg a v d).eng = s.eng := rfl
@[simp] theorem State.sg_ushare (a : Nat) (v d : Word) : (s.sg a v d).ushare = s.ushare := rfl
@[simp] theorem State.sg_rops (a : Nat) (v d : Word) : (s.sg a v d).rops = s.rops := rfl
@[simp] theorem State.sg_rtag (a : Nat) (v d : Word) : (s.sg a v d).rtag = s.rtag := rfl
@[simp] theorem State.sg_kslots (a : Nat) (v d : Word) : (s.sg a v d).kslots = s.kslots := rfl
@[simp] theorem State.sg_kbuf (a : Nat) (v d : Word) : (s.sg a v d).kbuf = s.kbuf := rfl
@[simp] theorem State.sg_kcmd (a : Nat) (v d : Word) : (s.sg a v d).kcmd = s.kcmd := rfl
@[simp] theorem State.sg_cobs (a : Nat) (v d : Word) : (s.sg a v d).cobs = s.cobs := rfl
@[simp] theorem State.sg_zns (a : Nat) (v d : Word) : (s.sg a v d).zns = s.zns := rfl
@[simp] theorem State.sg_ports (a : Nat) (v d : Word) : (s.sg a v d).ports = s.ports := rfl
@[simp] theorem State.sg_cobBytes (a : Nat) (v d : Word) : (s.sg a v d).cobBytes = s.cobBytes := rfl
@[simp] theorem State.sg_authF (a : Nat) (v d : Word) : (s.sg a v d).authF = s.authF := rfl
@[simp] theorem State.sg_znIn (a : Nat) (v d : Word) : (s.sg a v d).znIn = s.znIn := rfl
@[simp] theorem State.sg_znOut (a : Nat) (v d : Word) : (s.sg a v d).znOut = s.znOut := rfl
@[simp] theorem State.sg_znErr (a : Nat) (v d : Word) : (s.sg a v d).znErr = s.znErr := rfl
@[simp] theorem State.sg_images (a : Nat) (v d : Word) : (s.sg a v d).images = s.images := rfl
@[simp] theorem State.sg_imgW (a : Nat) (v d : Word) : (s.sg a v d).imgW = s.imgW := rfl
@[simp] theorem State.sg_bpW (a : Nat) (v d : Word) : (s.sg a v d).bpW = s.bpW := rfl
@[simp] theorem State.sg_repts (a : Nat) (v d : Word) : (s.sg a v d).repts = s.repts := rfl
@[simp] theorem State.sg_rptW (a : Nat) (v d : Word) : (s.sg a v d).rptW = s.rptW := rfl
@[simp] theorem State.sg_rptLate (a : Nat) (v d : Word) : (s.sg a v d).rptLate = s.rptLate := rfl
@[simp] theorem State.sg_icmd (a : Nat) (v d : Word) : (s.sg a v d).icmd = s.icmd := rfl
@[simp] theorem State.sg_rests (a : Nat) (v d : Word) : (s.sg a v d).rests = s.rests := rfl
@[simp] theorem State.sg_ifail (a : Nat) (v d : Word) : (s.sg a v d).ifail = s.ifail := rfl
@[simp] theorem State.sg_isaved (a : Nat) (v d : Word) : (s.sg a v d).isaved = s.isaved := rfl
@[simp] theorem State.sg_irest (a : Nat) (v d : Word) : (s.sg a v d).irest = s.irest := rfl
@[simp] theorem State.sg_icont (a : Nat) (v d : Word) : (s.sg a v d).icont = s.icont := rfl
@[simp] theorem State.sg_frzTb (a : Nat) (v d : Word) : (s.sg a v d).frzTb = s.frzTb := rfl
@[simp] theorem State.sg_snaps (a : Nat) (v d : Word) : (s.sg a v d).snaps = s.snaps := rfl
@[simp] theorem State.sg_saved (a : Nat) (v d : Word) : (s.sg a v d).saved = s.saved := rfl
@[simp] theorem State.sg_kept (a : Nat) (v d : Word) : (s.sg a v d).kept = s.kept := rfl
@[simp] theorem State.sg_bcfg (a : Nat) (v d : Word) : (s.sg a v d).bcfg = s.bcfg := rfl
@[simp] theorem State.sg_bprog (a : Nat) (v d : Word) : (s.sg a v d).bprog = s.bprog := rfl
@[simp] theorem State.sg_brs (a : Nat) (v d : Word) : (s.sg a v d).brs = s.brs := rfl
@[simp] theorem State.sg_mgmt (a : Nat) (v d : Word) : (s.sg a v d).mgmt = s.mgmt := rfl
@[simp] theorem State.sg_vaux (a : Nat) (v d : Word) : (s.sg a v d).vaux = s.vaux := rfl
@[simp] theorem State.sg_sel (a : Nat) (v d : Word) : (s.sg a v d).sel = s.sel := rfl
@[simp] theorem State.sg_boot (a : Nat) (v d : Word) : (s.sg a v d).boot = s.boot := rfl
@[simp] theorem State.sg_rearms (a : Nat) (v d : Word) : (s.sg a v d).rearms = s.rearms := rfl
@[simp] theorem State.sg_refLost (a : Nat) (v d : Word) : (s.sg a v d).refLost = s.refLost := rfl
@[simp] theorem State.sg_outbox (a : Nat) (v d : Word) : (s.sg a v d).outbox = s.outbox := rfl

@[simp] theorem State.setInst_pending (i : Nat) (c : Inst) : (s.setInst i c).pending = s.pending := rfl
@[simp] theorem State.setInst_free (i : Nat) (c : Inst) : (s.setInst i c).free = s.free := rfl
@[simp] theorem State.setInst_part (i : Nat) (c : Inst) : (s.setInst i c).part = s.part := rfl
@[simp] theorem State.setInst_phase (i : Nat) (c : Inst) : (s.setInst i c).phase = s.phase := rfl
@[simp] theorem State.setInst_ticks (i : Nat) (c : Inst) : (s.setInst i c).ticks = s.ticks := rfl
@[simp] theorem State.setInst_tb (i : Nat) (c : Inst) : (s.setInst i c).tb = s.tb := rfl
@[simp] theorem State.setInst_dev (i : Nat) (c : Inst) : (s.setInst i c).dev = s.dev := rfl
@[simp] theorem State.setInst_procs (i : Nat) (c : Inst) : (s.setInst i c).procs = s.procs := rfl
@[simp] theorem State.setInst_cores (i : Nat) (c : Inst) : (s.setInst i c).cores = s.cores := rfl
@[simp] theorem State.setInst_clus (i : Nat) (c : Inst) : (s.setInst i c).clus = s.clus := rfl
@[simp] theorem State.setInst_net (i : Nat) (c : Inst) : (s.setInst i c).net = s.net := rfl
@[simp] theorem State.setInst_parked (i : Nat) (c : Inst) : (s.setInst i c).parked = s.parked := rfl
@[simp] theorem State.setInst_memWait (i : Nat) (c : Inst) : (s.setInst i c).memWait = s.memWait := rfl
@[simp] theorem State.setInst_noCmp (i : Nat) (c : Inst) : (s.setInst i c).noCmp = s.noCmp := rfl
@[simp] theorem State.setInst_lost (i : Nat) (c : Inst) : (s.setInst i c).lost = s.lost := rfl
@[simp] theorem State.setInst_dir (i : Nat) (c : Inst) : (s.setInst i c).dir = s.dir := rfl
@[simp] theorem State.setInst_stks (i : Nat) (c : Inst) : (s.setInst i c).stks = s.stks := rfl
@[simp] theorem State.setInst_ms (i : Nat) (c : Inst) : (s.setInst i c).ms = s.ms := rfl
@[simp] theorem State.setInst_flips (i : Nat) (c : Inst) : (s.setInst i c).flips = s.flips := rfl
@[simp] theorem State.setInst_dbits (i : Nat) (c : Inst) : (s.setInst i c).dbits = s.dbits := rfl
@[simp] theorem State.setInst_peakD (i : Nat) (c : Inst) : (s.setInst i c).peakD = s.peakD := rfl
@[simp] theorem State.setInst_bisnp (i : Nat) (c : Inst) : (s.setInst i c).bisnp = s.bisnp := rfl
@[simp] theorem State.setInst_tun (i : Nat) (c : Inst) : (s.setInst i c).tun = s.tun := rfl
@[simp] theorem State.setInst_fe (i : Nat) (c : Inst) : (s.setInst i c).fe = s.fe := rfl
@[simp] theorem State.setInst_pew (i : Nat) (c : Inst) : (s.setInst i c).pew = s.pew := rfl
@[simp] theorem State.setInst_cxl (i : Nat) (c : Inst) : (s.setInst i c).cxl = s.cxl := rfl
@[simp] theorem State.setInst_rps (i : Nat) (c : Inst) : (s.setInst i c).rps = s.rps := rfl
@[simp] theorem State.setInst_led (i : Nat) (c : Inst) : (s.setInst i c).led = s.led := rfl
@[simp] theorem State.setInst_accs (i : Nat) (c : Inst) : (s.setInst i c).accs = s.accs := rfl
@[simp] theorem State.setInst_abt (i : Nat) (c : Inst) : (s.setInst i c).abt = s.abt := rfl
@[simp] theorem State.setInst_acnt (i : Nat) (c : Inst) : (s.setInst i c).acnt = s.acnt := rfl
@[simp] theorem State.setInst_exh (i : Nat) (c : Inst) : (s.setInst i c).exh = s.exh := rfl
@[simp] theorem State.setInst_promos (i : Nat) (c : Inst) : (s.setInst i c).promos = s.promos := rfl
@[simp] theorem State.setInst_fabq (i : Nat) (c : Inst) : (s.setInst i c).fabq = s.fabq := rfl
@[simp] theorem State.setInst_links (i : Nat) (c : Inst) : (s.setInst i c).links = s.links := rfl
@[simp] theorem State.setInst_inq (i : Nat) (c : Inst) : (s.setInst i c).inq = s.inq := rfl
@[simp] theorem State.setInst_cseqTx (i : Nat) (c : Inst) : (s.setInst i c).cseqTx = s.cseqTx := rfl
@[simp] theorem State.setInst_cseqRx (i : Nat) (c : Inst) : (s.setInst i c).cseqRx = s.cseqRx := rfl
@[simp] theorem State.setInst_cheld (i : Nat) (c : Inst) : (s.setInst i c).cheld = s.cheld := rfl
@[simp] theorem State.setInst_fwdIn (i : Nat) (c : Inst) : (s.setInst i c).fwdIn = s.fwdIn := rfl
@[simp] theorem State.setInst_sbWait (i : Nat) (c : Inst) : (s.setInst i c).sbWait = s.sbWait := rfl
@[simp] theorem State.setInst_sbArr (i : Nat) (c : Inst) : (s.setInst i c).sbArr = s.sbArr := rfl
@[simp] theorem State.setInst_ftos (i : Nat) (c : Inst) : (s.setInst i c).ftos = s.ftos := rfl
@[simp] theorem State.setInst_leaving (i : Nat) (c : Inst) : (s.setInst i c).leaving = s.leaving := rfl
@[simp] theorem State.setInst_mirw (i : Nat) (c : Inst) : (s.setInst i c).mirw = s.mirw := rfl
@[simp] theorem State.setInst_mirTag (i : Nat) (c : Inst) : (s.setInst i c).mirTag = s.mirTag := rfl
@[simp] theorem State.setInst_mirIn (i : Nat) (c : Inst) : (s.setInst i c).mirIn = s.mirIn := rfl
@[simp] theorem State.setInst_qs (i : Nat) (c : Inst) : (s.setInst i c).qs = s.qs := rfl
@[simp] theorem State.setInst_commits (i : Nat) (c : Inst) : (s.setInst i c).commits = s.commits := rfl
@[simp] theorem State.setInst_eng (i : Nat) (c : Inst) : (s.setInst i c).eng = s.eng := rfl
@[simp] theorem State.setInst_ushare (i : Nat) (c : Inst) : (s.setInst i c).ushare = s.ushare := rfl
@[simp] theorem State.setInst_rops (i : Nat) (c : Inst) : (s.setInst i c).rops = s.rops := rfl
@[simp] theorem State.setInst_rtag (i : Nat) (c : Inst) : (s.setInst i c).rtag = s.rtag := rfl
@[simp] theorem State.setInst_kslots (i : Nat) (c : Inst) : (s.setInst i c).kslots = s.kslots := rfl
@[simp] theorem State.setInst_kbuf (i : Nat) (c : Inst) : (s.setInst i c).kbuf = s.kbuf := rfl
@[simp] theorem State.setInst_kcmd (i : Nat) (c : Inst) : (s.setInst i c).kcmd = s.kcmd := rfl
@[simp] theorem State.setInst_cobs (i : Nat) (c : Inst) : (s.setInst i c).cobs = s.cobs := rfl
@[simp] theorem State.setInst_zns (i : Nat) (c : Inst) : (s.setInst i c).zns = s.zns := rfl
@[simp] theorem State.setInst_ports (i : Nat) (c : Inst) : (s.setInst i c).ports = s.ports := rfl
@[simp] theorem State.setInst_cobBytes (i : Nat) (c : Inst) : (s.setInst i c).cobBytes = s.cobBytes := rfl
@[simp] theorem State.setInst_authF (i : Nat) (c : Inst) : (s.setInst i c).authF = s.authF := rfl
@[simp] theorem State.setInst_znIn (i : Nat) (c : Inst) : (s.setInst i c).znIn = s.znIn := rfl
@[simp] theorem State.setInst_znOut (i : Nat) (c : Inst) : (s.setInst i c).znOut = s.znOut := rfl
@[simp] theorem State.setInst_znErr (i : Nat) (c : Inst) : (s.setInst i c).znErr = s.znErr := rfl
@[simp] theorem State.setInst_images (i : Nat) (c : Inst) : (s.setInst i c).images = s.images := rfl
@[simp] theorem State.setInst_imgW (i : Nat) (c : Inst) : (s.setInst i c).imgW = s.imgW := rfl
@[simp] theorem State.setInst_bpW (i : Nat) (c : Inst) : (s.setInst i c).bpW = s.bpW := rfl
@[simp] theorem State.setInst_repts (i : Nat) (c : Inst) : (s.setInst i c).repts = s.repts := rfl
@[simp] theorem State.setInst_rptW (i : Nat) (c : Inst) : (s.setInst i c).rptW = s.rptW := rfl
@[simp] theorem State.setInst_rptLate (i : Nat) (c : Inst) : (s.setInst i c).rptLate = s.rptLate := rfl
@[simp] theorem State.setInst_icmd (i : Nat) (c : Inst) : (s.setInst i c).icmd = s.icmd := rfl
@[simp] theorem State.setInst_rests (i : Nat) (c : Inst) : (s.setInst i c).rests = s.rests := rfl
@[simp] theorem State.setInst_ifail (i : Nat) (c : Inst) : (s.setInst i c).ifail = s.ifail := rfl
@[simp] theorem State.setInst_isaved (i : Nat) (c : Inst) : (s.setInst i c).isaved = s.isaved := rfl
@[simp] theorem State.setInst_irest (i : Nat) (c : Inst) : (s.setInst i c).irest = s.irest := rfl
@[simp] theorem State.setInst_icont (i : Nat) (c : Inst) : (s.setInst i c).icont = s.icont := rfl
@[simp] theorem State.setInst_frzTb (i : Nat) (c : Inst) : (s.setInst i c).frzTb = s.frzTb := rfl
@[simp] theorem State.setInst_snaps (i : Nat) (c : Inst) : (s.setInst i c).snaps = s.snaps := rfl
@[simp] theorem State.setInst_saved (i : Nat) (c : Inst) : (s.setInst i c).saved = s.saved := rfl
@[simp] theorem State.setInst_kept (i : Nat) (c : Inst) : (s.setInst i c).kept = s.kept := rfl
@[simp] theorem State.setInst_bcfg (i : Nat) (c : Inst) : (s.setInst i c).bcfg = s.bcfg := rfl
@[simp] theorem State.setInst_bprog (i : Nat) (c : Inst) : (s.setInst i c).bprog = s.bprog := rfl
@[simp] theorem State.setInst_brs (i : Nat) (c : Inst) : (s.setInst i c).brs = s.brs := rfl
@[simp] theorem State.setInst_mgmt (i : Nat) (c : Inst) : (s.setInst i c).mgmt = s.mgmt := rfl
@[simp] theorem State.setInst_vaux (i : Nat) (c : Inst) : (s.setInst i c).vaux = s.vaux := rfl
@[simp] theorem State.setInst_sel (i : Nat) (c : Inst) : (s.setInst i c).sel = s.sel := rfl
@[simp] theorem State.setInst_boot (i : Nat) (c : Inst) : (s.setInst i c).boot = s.boot := rfl
@[simp] theorem State.setInst_rearms (i : Nat) (c : Inst) : (s.setInst i c).rearms = s.rearms := rfl
@[simp] theorem State.setInst_refLost (i : Nat) (c : Inst) : (s.setInst i c).refLost = s.refLost := rfl
@[simp] theorem State.setInst_outbox (i : Nat) (c : Inst) : (s.setInst i c).outbox = s.outbox := rfl

@[simp] theorem State.setFe_pending (b : Nat) (f : Fe) : (s.setFe b f).pending = s.pending := rfl
@[simp] theorem State.setFe_free (b : Nat) (f : Fe) : (s.setFe b f).free = s.free := rfl
@[simp] theorem State.setFe_part (b : Nat) (f : Fe) : (s.setFe b f).part = s.part := rfl
@[simp] theorem State.setFe_phase (b : Nat) (f : Fe) : (s.setFe b f).phase = s.phase := rfl
@[simp] theorem State.setFe_ticks (b : Nat) (f : Fe) : (s.setFe b f).ticks = s.ticks := rfl
@[simp] theorem State.setFe_tb (b : Nat) (f : Fe) : (s.setFe b f).tb = s.tb := rfl
@[simp] theorem State.setFe_dev (b : Nat) (f : Fe) : (s.setFe b f).dev = s.dev := rfl
@[simp] theorem State.setFe_procs (b : Nat) (f : Fe) : (s.setFe b f).procs = s.procs := rfl
@[simp] theorem State.setFe_cores (b : Nat) (f : Fe) : (s.setFe b f).cores = s.cores := rfl
@[simp] theorem State.setFe_clus (b : Nat) (f : Fe) : (s.setFe b f).clus = s.clus := rfl
@[simp] theorem State.setFe_net (b : Nat) (f : Fe) : (s.setFe b f).net = s.net := rfl
@[simp] theorem State.setFe_parked (b : Nat) (f : Fe) : (s.setFe b f).parked = s.parked := rfl
@[simp] theorem State.setFe_memWait (b : Nat) (f : Fe) : (s.setFe b f).memWait = s.memWait := rfl
@[simp] theorem State.setFe_noCmp (b : Nat) (f : Fe) : (s.setFe b f).noCmp = s.noCmp := rfl
@[simp] theorem State.setFe_lost (b : Nat) (f : Fe) : (s.setFe b f).lost = s.lost := rfl
@[simp] theorem State.setFe_dir (b : Nat) (f : Fe) : (s.setFe b f).dir = s.dir := rfl
@[simp] theorem State.setFe_stks (b : Nat) (f : Fe) : (s.setFe b f).stks = s.stks := rfl
@[simp] theorem State.setFe_ms (b : Nat) (f : Fe) : (s.setFe b f).ms = s.ms := rfl
@[simp] theorem State.setFe_flips (b : Nat) (f : Fe) : (s.setFe b f).flips = s.flips := rfl
@[simp] theorem State.setFe_dbits (b : Nat) (f : Fe) : (s.setFe b f).dbits = s.dbits := rfl
@[simp] theorem State.setFe_peakD (b : Nat) (f : Fe) : (s.setFe b f).peakD = s.peakD := rfl
@[simp] theorem State.setFe_bisnp (b : Nat) (f : Fe) : (s.setFe b f).bisnp = s.bisnp := rfl
@[simp] theorem State.setFe_tun (b : Nat) (f : Fe) : (s.setFe b f).tun = s.tun := rfl
@[simp] theorem State.setFe_pew (b : Nat) (f : Fe) : (s.setFe b f).pew = s.pew := rfl
@[simp] theorem State.setFe_insts (b : Nat) (f : Fe) : (s.setFe b f).insts = s.insts := rfl
@[simp] theorem State.setFe_cxl (b : Nat) (f : Fe) : (s.setFe b f).cxl = s.cxl := rfl
@[simp] theorem State.setFe_rps (b : Nat) (f : Fe) : (s.setFe b f).rps = s.rps := rfl
@[simp] theorem State.setFe_led (b : Nat) (f : Fe) : (s.setFe b f).led = s.led := rfl
@[simp] theorem State.setFe_accs (b : Nat) (f : Fe) : (s.setFe b f).accs = s.accs := rfl
@[simp] theorem State.setFe_abt (b : Nat) (f : Fe) : (s.setFe b f).abt = s.abt := rfl
@[simp] theorem State.setFe_acnt (b : Nat) (f : Fe) : (s.setFe b f).acnt = s.acnt := rfl
@[simp] theorem State.setFe_exh (b : Nat) (f : Fe) : (s.setFe b f).exh = s.exh := rfl
@[simp] theorem State.setFe_promos (b : Nat) (f : Fe) : (s.setFe b f).promos = s.promos := rfl
@[simp] theorem State.setFe_fabq (b : Nat) (f : Fe) : (s.setFe b f).fabq = s.fabq := rfl
@[simp] theorem State.setFe_links (b : Nat) (f : Fe) : (s.setFe b f).links = s.links := rfl
@[simp] theorem State.setFe_inq (b : Nat) (f : Fe) : (s.setFe b f).inq = s.inq := rfl
@[simp] theorem State.setFe_cseqTx (b : Nat) (f : Fe) : (s.setFe b f).cseqTx = s.cseqTx := rfl
@[simp] theorem State.setFe_cseqRx (b : Nat) (f : Fe) : (s.setFe b f).cseqRx = s.cseqRx := rfl
@[simp] theorem State.setFe_cheld (b : Nat) (f : Fe) : (s.setFe b f).cheld = s.cheld := rfl
@[simp] theorem State.setFe_fwdIn (b : Nat) (f : Fe) : (s.setFe b f).fwdIn = s.fwdIn := rfl
@[simp] theorem State.setFe_sbWait (b : Nat) (f : Fe) : (s.setFe b f).sbWait = s.sbWait := rfl
@[simp] theorem State.setFe_sbArr (b : Nat) (f : Fe) : (s.setFe b f).sbArr = s.sbArr := rfl
@[simp] theorem State.setFe_ftos (b : Nat) (f : Fe) : (s.setFe b f).ftos = s.ftos := rfl
@[simp] theorem State.setFe_leaving (b : Nat) (f : Fe) : (s.setFe b f).leaving = s.leaving := rfl
@[simp] theorem State.setFe_mirw (b : Nat) (f : Fe) : (s.setFe b f).mirw = s.mirw := rfl
@[simp] theorem State.setFe_mirTag (b : Nat) (f : Fe) : (s.setFe b f).mirTag = s.mirTag := rfl
@[simp] theorem State.setFe_mirIn (b : Nat) (f : Fe) : (s.setFe b f).mirIn = s.mirIn := rfl
@[simp] theorem State.setFe_qs (b : Nat) (f : Fe) : (s.setFe b f).qs = s.qs := rfl
@[simp] theorem State.setFe_commits (b : Nat) (f : Fe) : (s.setFe b f).commits = s.commits := rfl
@[simp] theorem State.setFe_eng (b : Nat) (f : Fe) : (s.setFe b f).eng = s.eng := rfl
@[simp] theorem State.setFe_ushare (b : Nat) (f : Fe) : (s.setFe b f).ushare = s.ushare := rfl
@[simp] theorem State.setFe_rops (b : Nat) (f : Fe) : (s.setFe b f).rops = s.rops := rfl
@[simp] theorem State.setFe_rtag (b : Nat) (f : Fe) : (s.setFe b f).rtag = s.rtag := rfl
@[simp] theorem State.setFe_kslots (b : Nat) (f : Fe) : (s.setFe b f).kslots = s.kslots := rfl
@[simp] theorem State.setFe_kbuf (b : Nat) (f : Fe) : (s.setFe b f).kbuf = s.kbuf := rfl
@[simp] theorem State.setFe_kcmd (b : Nat) (f : Fe) : (s.setFe b f).kcmd = s.kcmd := rfl
@[simp] theorem State.setFe_cobs (b : Nat) (f : Fe) : (s.setFe b f).cobs = s.cobs := rfl
@[simp] theorem State.setFe_zns (b : Nat) (f : Fe) : (s.setFe b f).zns = s.zns := rfl
@[simp] theorem State.setFe_ports (b : Nat) (f : Fe) : (s.setFe b f).ports = s.ports := rfl
@[simp] theorem State.setFe_cobBytes (b : Nat) (f : Fe) : (s.setFe b f).cobBytes = s.cobBytes := rfl
@[simp] theorem State.setFe_authF (b : Nat) (f : Fe) : (s.setFe b f).authF = s.authF := rfl
@[simp] theorem State.setFe_znIn (b : Nat) (f : Fe) : (s.setFe b f).znIn = s.znIn := rfl
@[simp] theorem State.setFe_znOut (b : Nat) (f : Fe) : (s.setFe b f).znOut = s.znOut := rfl
@[simp] theorem State.setFe_znErr (b : Nat) (f : Fe) : (s.setFe b f).znErr = s.znErr := rfl
@[simp] theorem State.setFe_images (b : Nat) (f : Fe) : (s.setFe b f).images = s.images := rfl
@[simp] theorem State.setFe_imgW (b : Nat) (f : Fe) : (s.setFe b f).imgW = s.imgW := rfl
@[simp] theorem State.setFe_bpW (b : Nat) (f : Fe) : (s.setFe b f).bpW = s.bpW := rfl
@[simp] theorem State.setFe_repts (b : Nat) (f : Fe) : (s.setFe b f).repts = s.repts := rfl
@[simp] theorem State.setFe_rptW (b : Nat) (f : Fe) : (s.setFe b f).rptW = s.rptW := rfl
@[simp] theorem State.setFe_rptLate (b : Nat) (f : Fe) : (s.setFe b f).rptLate = s.rptLate := rfl
@[simp] theorem State.setFe_icmd (b : Nat) (f : Fe) : (s.setFe b f).icmd = s.icmd := rfl
@[simp] theorem State.setFe_rests (b : Nat) (f : Fe) : (s.setFe b f).rests = s.rests := rfl
@[simp] theorem State.setFe_ifail (b : Nat) (f : Fe) : (s.setFe b f).ifail = s.ifail := rfl
@[simp] theorem State.setFe_isaved (b : Nat) (f : Fe) : (s.setFe b f).isaved = s.isaved := rfl
@[simp] theorem State.setFe_irest (b : Nat) (f : Fe) : (s.setFe b f).irest = s.irest := rfl
@[simp] theorem State.setFe_icont (b : Nat) (f : Fe) : (s.setFe b f).icont = s.icont := rfl
@[simp] theorem State.setFe_frzTb (b : Nat) (f : Fe) : (s.setFe b f).frzTb = s.frzTb := rfl
@[simp] theorem State.setFe_snaps (b : Nat) (f : Fe) : (s.setFe b f).snaps = s.snaps := rfl
@[simp] theorem State.setFe_saved (b : Nat) (f : Fe) : (s.setFe b f).saved = s.saved := rfl
@[simp] theorem State.setFe_kept (b : Nat) (f : Fe) : (s.setFe b f).kept = s.kept := rfl
@[simp] theorem State.setFe_bcfg (b : Nat) (f : Fe) : (s.setFe b f).bcfg = s.bcfg := rfl
@[simp] theorem State.setFe_bprog (b : Nat) (f : Fe) : (s.setFe b f).bprog = s.bprog := rfl
@[simp] theorem State.setFe_brs (b : Nat) (f : Fe) : (s.setFe b f).brs = s.brs := rfl
@[simp] theorem State.setFe_mgmt (b : Nat) (f : Fe) : (s.setFe b f).mgmt = s.mgmt := rfl
@[simp] theorem State.setFe_vaux (b : Nat) (f : Fe) : (s.setFe b f).vaux = s.vaux := rfl
@[simp] theorem State.setFe_sel (b : Nat) (f : Fe) : (s.setFe b f).sel = s.sel := rfl
@[simp] theorem State.setFe_boot (b : Nat) (f : Fe) : (s.setFe b f).boot = s.boot := rfl
@[simp] theorem State.setFe_rearms (b : Nat) (f : Fe) : (s.setFe b f).rearms = s.rearms := rfl
@[simp] theorem State.setFe_refLost (b : Nat) (f : Fe) : (s.setFe b f).refLost = s.refLost := rfl
@[simp] theorem State.setFe_outbox (b : Nat) (f : Fe) : (s.setFe b f).outbox = s.outbox := rfl

@[simp] theorem State.setEnt_pending (q n : Nat) (e : LEnt) : (s.setEnt q n e).pending = s.pending := rfl
@[simp] theorem State.setEnt_free (q n : Nat) (e : LEnt) : (s.setEnt q n e).free = s.free := rfl
@[simp] theorem State.setEnt_part (q n : Nat) (e : LEnt) : (s.setEnt q n e).part = s.part := rfl
@[simp] theorem State.setEnt_phase (q n : Nat) (e : LEnt) : (s.setEnt q n e).phase = s.phase := rfl
@[simp] theorem State.setEnt_ticks (q n : Nat) (e : LEnt) : (s.setEnt q n e).ticks = s.ticks := rfl
@[simp] theorem State.setEnt_tb (q n : Nat) (e : LEnt) : (s.setEnt q n e).tb = s.tb := rfl
@[simp] theorem State.setEnt_dev (q n : Nat) (e : LEnt) : (s.setEnt q n e).dev = s.dev := rfl
@[simp] theorem State.setEnt_procs (q n : Nat) (e : LEnt) : (s.setEnt q n e).procs = s.procs := rfl
@[simp] theorem State.setEnt_cores (q n : Nat) (e : LEnt) : (s.setEnt q n e).cores = s.cores := rfl
@[simp] theorem State.setEnt_clus (q n : Nat) (e : LEnt) : (s.setEnt q n e).clus = s.clus := rfl
@[simp] theorem State.setEnt_net (q n : Nat) (e : LEnt) : (s.setEnt q n e).net = s.net := rfl
@[simp] theorem State.setEnt_parked (q n : Nat) (e : LEnt) : (s.setEnt q n e).parked = s.parked := rfl
@[simp] theorem State.setEnt_memWait (q n : Nat) (e : LEnt) : (s.setEnt q n e).memWait = s.memWait := rfl
@[simp] theorem State.setEnt_noCmp (q n : Nat) (e : LEnt) : (s.setEnt q n e).noCmp = s.noCmp := rfl
@[simp] theorem State.setEnt_lost (q n : Nat) (e : LEnt) : (s.setEnt q n e).lost = s.lost := rfl
@[simp] theorem State.setEnt_dir (q n : Nat) (e : LEnt) : (s.setEnt q n e).dir = s.dir := rfl
@[simp] theorem State.setEnt_stks (q n : Nat) (e : LEnt) : (s.setEnt q n e).stks = s.stks := rfl
@[simp] theorem State.setEnt_ms (q n : Nat) (e : LEnt) : (s.setEnt q n e).ms = s.ms := rfl
@[simp] theorem State.setEnt_flips (q n : Nat) (e : LEnt) : (s.setEnt q n e).flips = s.flips := rfl
@[simp] theorem State.setEnt_dbits (q n : Nat) (e : LEnt) : (s.setEnt q n e).dbits = s.dbits := rfl
@[simp] theorem State.setEnt_peakD (q n : Nat) (e : LEnt) : (s.setEnt q n e).peakD = s.peakD := rfl
@[simp] theorem State.setEnt_bisnp (q n : Nat) (e : LEnt) : (s.setEnt q n e).bisnp = s.bisnp := rfl
@[simp] theorem State.setEnt_tun (q n : Nat) (e : LEnt) : (s.setEnt q n e).tun = s.tun := rfl
@[simp] theorem State.setEnt_fe (q n : Nat) (e : LEnt) : (s.setEnt q n e).fe = s.fe := rfl
@[simp] theorem State.setEnt_pew (q n : Nat) (e : LEnt) : (s.setEnt q n e).pew = s.pew := rfl
@[simp] theorem State.setEnt_insts (q n : Nat) (e : LEnt) : (s.setEnt q n e).insts = s.insts := rfl
@[simp] theorem State.setEnt_cxl (q n : Nat) (e : LEnt) : (s.setEnt q n e).cxl = s.cxl := rfl
@[simp] theorem State.setEnt_rps (q n : Nat) (e : LEnt) : (s.setEnt q n e).rps = s.rps := rfl
@[simp] theorem State.setEnt_accs (q n : Nat) (e : LEnt) : (s.setEnt q n e).accs = s.accs := rfl
@[simp] theorem State.setEnt_abt (q n : Nat) (e : LEnt) : (s.setEnt q n e).abt = s.abt := rfl
@[simp] theorem State.setEnt_acnt (q n : Nat) (e : LEnt) : (s.setEnt q n e).acnt = s.acnt := rfl
@[simp] theorem State.setEnt_exh (q n : Nat) (e : LEnt) : (s.setEnt q n e).exh = s.exh := rfl
@[simp] theorem State.setEnt_promos (q n : Nat) (e : LEnt) : (s.setEnt q n e).promos = s.promos := rfl
@[simp] theorem State.setEnt_fabq (q n : Nat) (e : LEnt) : (s.setEnt q n e).fabq = s.fabq := rfl
@[simp] theorem State.setEnt_links (q n : Nat) (e : LEnt) : (s.setEnt q n e).links = s.links := rfl
@[simp] theorem State.setEnt_inq (q n : Nat) (e : LEnt) : (s.setEnt q n e).inq = s.inq := rfl
@[simp] theorem State.setEnt_cseqTx (q n : Nat) (e : LEnt) : (s.setEnt q n e).cseqTx = s.cseqTx := rfl
@[simp] theorem State.setEnt_cseqRx (q n : Nat) (e : LEnt) : (s.setEnt q n e).cseqRx = s.cseqRx := rfl
@[simp] theorem State.setEnt_cheld (q n : Nat) (e : LEnt) : (s.setEnt q n e).cheld = s.cheld := rfl
@[simp] theorem State.setEnt_fwdIn (q n : Nat) (e : LEnt) : (s.setEnt q n e).fwdIn = s.fwdIn := rfl
@[simp] theorem State.setEnt_sbWait (q n : Nat) (e : LEnt) : (s.setEnt q n e).sbWait = s.sbWait := rfl
@[simp] theorem State.setEnt_sbArr (q n : Nat) (e : LEnt) : (s.setEnt q n e).sbArr = s.sbArr := rfl
@[simp] theorem State.setEnt_ftos (q n : Nat) (e : LEnt) : (s.setEnt q n e).ftos = s.ftos := rfl
@[simp] theorem State.setEnt_leaving (q n : Nat) (e : LEnt) : (s.setEnt q n e).leaving = s.leaving := rfl
@[simp] theorem State.setEnt_mirw (q n : Nat) (e : LEnt) : (s.setEnt q n e).mirw = s.mirw := rfl
@[simp] theorem State.setEnt_mirTag (q n : Nat) (e : LEnt) : (s.setEnt q n e).mirTag = s.mirTag := rfl
@[simp] theorem State.setEnt_mirIn (q n : Nat) (e : LEnt) : (s.setEnt q n e).mirIn = s.mirIn := rfl
@[simp] theorem State.setEnt_qs (q n : Nat) (e : LEnt) : (s.setEnt q n e).qs = s.qs := rfl
@[simp] theorem State.setEnt_commits (q n : Nat) (e : LEnt) : (s.setEnt q n e).commits = s.commits := rfl
@[simp] theorem State.setEnt_eng (q n : Nat) (e : LEnt) : (s.setEnt q n e).eng = s.eng := rfl
@[simp] theorem State.setEnt_ushare (q n : Nat) (e : LEnt) : (s.setEnt q n e).ushare = s.ushare := rfl
@[simp] theorem State.setEnt_rops (q n : Nat) (e : LEnt) : (s.setEnt q n e).rops = s.rops := rfl
@[simp] theorem State.setEnt_rtag (q n : Nat) (e : LEnt) : (s.setEnt q n e).rtag = s.rtag := rfl
@[simp] theorem State.setEnt_kslots (q n : Nat) (e : LEnt) : (s.setEnt q n e).kslots = s.kslots := rfl
@[simp] theorem State.setEnt_kbuf (q n : Nat) (e : LEnt) : (s.setEnt q n e).kbuf = s.kbuf := rfl
@[simp] theorem State.setEnt_kcmd (q n : Nat) (e : LEnt) : (s.setEnt q n e).kcmd = s.kcmd := rfl
@[simp] theorem State.setEnt_cobs (q n : Nat) (e : LEnt) : (s.setEnt q n e).cobs = s.cobs := rfl
@[simp] theorem State.setEnt_zns (q n : Nat) (e : LEnt) : (s.setEnt q n e).zns = s.zns := rfl
@[simp] theorem State.setEnt_ports (q n : Nat) (e : LEnt) : (s.setEnt q n e).ports = s.ports := rfl
@[simp] theorem State.setEnt_cobBytes (q n : Nat) (e : LEnt) : (s.setEnt q n e).cobBytes = s.cobBytes := rfl
@[simp] theorem State.setEnt_authF (q n : Nat) (e : LEnt) : (s.setEnt q n e).authF = s.authF := rfl
@[simp] theorem State.setEnt_znIn (q n : Nat) (e : LEnt) : (s.setEnt q n e).znIn = s.znIn := rfl
@[simp] theorem State.setEnt_znOut (q n : Nat) (e : LEnt) : (s.setEnt q n e).znOut = s.znOut := rfl
@[simp] theorem State.setEnt_znErr (q n : Nat) (e : LEnt) : (s.setEnt q n e).znErr = s.znErr := rfl
@[simp] theorem State.setEnt_images (q n : Nat) (e : LEnt) : (s.setEnt q n e).images = s.images := rfl
@[simp] theorem State.setEnt_imgW (q n : Nat) (e : LEnt) : (s.setEnt q n e).imgW = s.imgW := rfl
@[simp] theorem State.setEnt_bpW (q n : Nat) (e : LEnt) : (s.setEnt q n e).bpW = s.bpW := rfl
@[simp] theorem State.setEnt_repts (q n : Nat) (e : LEnt) : (s.setEnt q n e).repts = s.repts := rfl
@[simp] theorem State.setEnt_rptW (q n : Nat) (e : LEnt) : (s.setEnt q n e).rptW = s.rptW := rfl
@[simp] theorem State.setEnt_rptLate (q n : Nat) (e : LEnt) : (s.setEnt q n e).rptLate = s.rptLate := rfl
@[simp] theorem State.setEnt_icmd (q n : Nat) (e : LEnt) : (s.setEnt q n e).icmd = s.icmd := rfl
@[simp] theorem State.setEnt_rests (q n : Nat) (e : LEnt) : (s.setEnt q n e).rests = s.rests := rfl
@[simp] theorem State.setEnt_ifail (q n : Nat) (e : LEnt) : (s.setEnt q n e).ifail = s.ifail := rfl
@[simp] theorem State.setEnt_isaved (q n : Nat) (e : LEnt) : (s.setEnt q n e).isaved = s.isaved := rfl
@[simp] theorem State.setEnt_irest (q n : Nat) (e : LEnt) : (s.setEnt q n e).irest = s.irest := rfl
@[simp] theorem State.setEnt_icont (q n : Nat) (e : LEnt) : (s.setEnt q n e).icont = s.icont := rfl
@[simp] theorem State.setEnt_frzTb (q n : Nat) (e : LEnt) : (s.setEnt q n e).frzTb = s.frzTb := rfl
@[simp] theorem State.setEnt_snaps (q n : Nat) (e : LEnt) : (s.setEnt q n e).snaps = s.snaps := rfl
@[simp] theorem State.setEnt_saved (q n : Nat) (e : LEnt) : (s.setEnt q n e).saved = s.saved := rfl
@[simp] theorem State.setEnt_kept (q n : Nat) (e : LEnt) : (s.setEnt q n e).kept = s.kept := rfl
@[simp] theorem State.setEnt_bcfg (q n : Nat) (e : LEnt) : (s.setEnt q n e).bcfg = s.bcfg := rfl
@[simp] theorem State.setEnt_bprog (q n : Nat) (e : LEnt) : (s.setEnt q n e).bprog = s.bprog := rfl
@[simp] theorem State.setEnt_brs (q n : Nat) (e : LEnt) : (s.setEnt q n e).brs = s.brs := rfl
@[simp] theorem State.setEnt_mgmt (q n : Nat) (e : LEnt) : (s.setEnt q n e).mgmt = s.mgmt := rfl
@[simp] theorem State.setEnt_vaux (q n : Nat) (e : LEnt) : (s.setEnt q n e).vaux = s.vaux := rfl
@[simp] theorem State.setEnt_sel (q n : Nat) (e : LEnt) : (s.setEnt q n e).sel = s.sel := rfl
@[simp] theorem State.setEnt_boot (q n : Nat) (e : LEnt) : (s.setEnt q n e).boot = s.boot := rfl
@[simp] theorem State.setEnt_rearms (q n : Nat) (e : LEnt) : (s.setEnt q n e).rearms = s.rearms := rfl
@[simp] theorem State.setEnt_refLost (q n : Nat) (e : LEnt) : (s.setEnt q n e).refLost = s.refLost := rfl
@[simp] theorem State.setEnt_outbox (q n : Nat) (e : LEnt) : (s.setEnt q n e).outbox = s.outbox := rfl

@[simp] theorem State.modRp_pending (q : Nat) (f : RP → RP) : (s.modRp q f).pending = s.pending := rfl
@[simp] theorem State.modRp_free (q : Nat) (f : RP → RP) : (s.modRp q f).free = s.free := rfl
@[simp] theorem State.modRp_part (q : Nat) (f : RP → RP) : (s.modRp q f).part = s.part := rfl
@[simp] theorem State.modRp_phase (q : Nat) (f : RP → RP) : (s.modRp q f).phase = s.phase := rfl
@[simp] theorem State.modRp_ticks (q : Nat) (f : RP → RP) : (s.modRp q f).ticks = s.ticks := rfl
@[simp] theorem State.modRp_tb (q : Nat) (f : RP → RP) : (s.modRp q f).tb = s.tb := rfl
@[simp] theorem State.modRp_dev (q : Nat) (f : RP → RP) : (s.modRp q f).dev = s.dev := rfl
@[simp] theorem State.modRp_procs (q : Nat) (f : RP → RP) : (s.modRp q f).procs = s.procs := rfl
@[simp] theorem State.modRp_cores (q : Nat) (f : RP → RP) : (s.modRp q f).cores = s.cores := rfl
@[simp] theorem State.modRp_clus (q : Nat) (f : RP → RP) : (s.modRp q f).clus = s.clus := rfl
@[simp] theorem State.modRp_net (q : Nat) (f : RP → RP) : (s.modRp q f).net = s.net := rfl
@[simp] theorem State.modRp_parked (q : Nat) (f : RP → RP) : (s.modRp q f).parked = s.parked := rfl
@[simp] theorem State.modRp_memWait (q : Nat) (f : RP → RP) : (s.modRp q f).memWait = s.memWait := rfl
@[simp] theorem State.modRp_noCmp (q : Nat) (f : RP → RP) : (s.modRp q f).noCmp = s.noCmp := rfl
@[simp] theorem State.modRp_lost (q : Nat) (f : RP → RP) : (s.modRp q f).lost = s.lost := rfl
@[simp] theorem State.modRp_dir (q : Nat) (f : RP → RP) : (s.modRp q f).dir = s.dir := rfl
@[simp] theorem State.modRp_stks (q : Nat) (f : RP → RP) : (s.modRp q f).stks = s.stks := rfl
@[simp] theorem State.modRp_ms (q : Nat) (f : RP → RP) : (s.modRp q f).ms = s.ms := rfl
@[simp] theorem State.modRp_flips (q : Nat) (f : RP → RP) : (s.modRp q f).flips = s.flips := rfl
@[simp] theorem State.modRp_dbits (q : Nat) (f : RP → RP) : (s.modRp q f).dbits = s.dbits := rfl
@[simp] theorem State.modRp_peakD (q : Nat) (f : RP → RP) : (s.modRp q f).peakD = s.peakD := rfl
@[simp] theorem State.modRp_bisnp (q : Nat) (f : RP → RP) : (s.modRp q f).bisnp = s.bisnp := rfl
@[simp] theorem State.modRp_tun (q : Nat) (f : RP → RP) : (s.modRp q f).tun = s.tun := rfl
@[simp] theorem State.modRp_fe (q : Nat) (f : RP → RP) : (s.modRp q f).fe = s.fe := rfl
@[simp] theorem State.modRp_pew (q : Nat) (f : RP → RP) : (s.modRp q f).pew = s.pew := rfl
@[simp] theorem State.modRp_insts (q : Nat) (f : RP → RP) : (s.modRp q f).insts = s.insts := rfl
@[simp] theorem State.modRp_cxl (q : Nat) (f : RP → RP) : (s.modRp q f).cxl = s.cxl := rfl
@[simp] theorem State.modRp_led (q : Nat) (f : RP → RP) : (s.modRp q f).led = s.led := rfl
@[simp] theorem State.modRp_accs (q : Nat) (f : RP → RP) : (s.modRp q f).accs = s.accs := rfl
@[simp] theorem State.modRp_abt (q : Nat) (f : RP → RP) : (s.modRp q f).abt = s.abt := rfl
@[simp] theorem State.modRp_acnt (q : Nat) (f : RP → RP) : (s.modRp q f).acnt = s.acnt := rfl
@[simp] theorem State.modRp_exh (q : Nat) (f : RP → RP) : (s.modRp q f).exh = s.exh := rfl
@[simp] theorem State.modRp_promos (q : Nat) (f : RP → RP) : (s.modRp q f).promos = s.promos := rfl
@[simp] theorem State.modRp_fabq (q : Nat) (f : RP → RP) : (s.modRp q f).fabq = s.fabq := rfl
@[simp] theorem State.modRp_links (q : Nat) (f : RP → RP) : (s.modRp q f).links = s.links := rfl
@[simp] theorem State.modRp_inq (q : Nat) (f : RP → RP) : (s.modRp q f).inq = s.inq := rfl
@[simp] theorem State.modRp_cseqTx (q : Nat) (f : RP → RP) : (s.modRp q f).cseqTx = s.cseqTx := rfl
@[simp] theorem State.modRp_cseqRx (q : Nat) (f : RP → RP) : (s.modRp q f).cseqRx = s.cseqRx := rfl
@[simp] theorem State.modRp_cheld (q : Nat) (f : RP → RP) : (s.modRp q f).cheld = s.cheld := rfl
@[simp] theorem State.modRp_fwdIn (q : Nat) (f : RP → RP) : (s.modRp q f).fwdIn = s.fwdIn := rfl
@[simp] theorem State.modRp_sbWait (q : Nat) (f : RP → RP) : (s.modRp q f).sbWait = s.sbWait := rfl
@[simp] theorem State.modRp_sbArr (q : Nat) (f : RP → RP) : (s.modRp q f).sbArr = s.sbArr := rfl
@[simp] theorem State.modRp_ftos (q : Nat) (f : RP → RP) : (s.modRp q f).ftos = s.ftos := rfl
@[simp] theorem State.modRp_leaving (q : Nat) (f : RP → RP) : (s.modRp q f).leaving = s.leaving := rfl
@[simp] theorem State.modRp_mirw (q : Nat) (f : RP → RP) : (s.modRp q f).mirw = s.mirw := rfl
@[simp] theorem State.modRp_mirTag (q : Nat) (f : RP → RP) : (s.modRp q f).mirTag = s.mirTag := rfl
@[simp] theorem State.modRp_mirIn (q : Nat) (f : RP → RP) : (s.modRp q f).mirIn = s.mirIn := rfl
@[simp] theorem State.modRp_qs (q : Nat) (f : RP → RP) : (s.modRp q f).qs = s.qs := rfl
@[simp] theorem State.modRp_commits (q : Nat) (f : RP → RP) : (s.modRp q f).commits = s.commits := rfl
@[simp] theorem State.modRp_eng (q : Nat) (f : RP → RP) : (s.modRp q f).eng = s.eng := rfl
@[simp] theorem State.modRp_ushare (q : Nat) (f : RP → RP) : (s.modRp q f).ushare = s.ushare := rfl
@[simp] theorem State.modRp_rops (q : Nat) (f : RP → RP) : (s.modRp q f).rops = s.rops := rfl
@[simp] theorem State.modRp_rtag (q : Nat) (f : RP → RP) : (s.modRp q f).rtag = s.rtag := rfl
@[simp] theorem State.modRp_kslots (q : Nat) (f : RP → RP) : (s.modRp q f).kslots = s.kslots := rfl
@[simp] theorem State.modRp_kbuf (q : Nat) (f : RP → RP) : (s.modRp q f).kbuf = s.kbuf := rfl
@[simp] theorem State.modRp_kcmd (q : Nat) (f : RP → RP) : (s.modRp q f).kcmd = s.kcmd := rfl
@[simp] theorem State.modRp_cobs (q : Nat) (f : RP → RP) : (s.modRp q f).cobs = s.cobs := rfl
@[simp] theorem State.modRp_zns (q : Nat) (f : RP → RP) : (s.modRp q f).zns = s.zns := rfl
@[simp] theorem State.modRp_ports (q : Nat) (f : RP → RP) : (s.modRp q f).ports = s.ports := rfl
@[simp] theorem State.modRp_cobBytes (q : Nat) (f : RP → RP) : (s.modRp q f).cobBytes = s.cobBytes := rfl
@[simp] theorem State.modRp_authF (q : Nat) (f : RP → RP) : (s.modRp q f).authF = s.authF := rfl
@[simp] theorem State.modRp_znIn (q : Nat) (f : RP → RP) : (s.modRp q f).znIn = s.znIn := rfl
@[simp] theorem State.modRp_znOut (q : Nat) (f : RP → RP) : (s.modRp q f).znOut = s.znOut := rfl
@[simp] theorem State.modRp_znErr (q : Nat) (f : RP → RP) : (s.modRp q f).znErr = s.znErr := rfl
@[simp] theorem State.modRp_images (q : Nat) (f : RP → RP) : (s.modRp q f).images = s.images := rfl
@[simp] theorem State.modRp_imgW (q : Nat) (f : RP → RP) : (s.modRp q f).imgW = s.imgW := rfl
@[simp] theorem State.modRp_bpW (q : Nat) (f : RP → RP) : (s.modRp q f).bpW = s.bpW := rfl
@[simp] theorem State.modRp_repts (q : Nat) (f : RP → RP) : (s.modRp q f).repts = s.repts := rfl
@[simp] theorem State.modRp_rptW (q : Nat) (f : RP → RP) : (s.modRp q f).rptW = s.rptW := rfl
@[simp] theorem State.modRp_rptLate (q : Nat) (f : RP → RP) : (s.modRp q f).rptLate = s.rptLate := rfl
@[simp] theorem State.modRp_icmd (q : Nat) (f : RP → RP) : (s.modRp q f).icmd = s.icmd := rfl
@[simp] theorem State.modRp_rests (q : Nat) (f : RP → RP) : (s.modRp q f).rests = s.rests := rfl
@[simp] theorem State.modRp_ifail (q : Nat) (f : RP → RP) : (s.modRp q f).ifail = s.ifail := rfl
@[simp] theorem State.modRp_isaved (q : Nat) (f : RP → RP) : (s.modRp q f).isaved = s.isaved := rfl
@[simp] theorem State.modRp_irest (q : Nat) (f : RP → RP) : (s.modRp q f).irest = s.irest := rfl
@[simp] theorem State.modRp_icont (q : Nat) (f : RP → RP) : (s.modRp q f).icont = s.icont := rfl
@[simp] theorem State.modRp_frzTb (q : Nat) (f : RP → RP) : (s.modRp q f).frzTb = s.frzTb := rfl
@[simp] theorem State.modRp_snaps (q : Nat) (f : RP → RP) : (s.modRp q f).snaps = s.snaps := rfl
@[simp] theorem State.modRp_saved (q : Nat) (f : RP → RP) : (s.modRp q f).saved = s.saved := rfl
@[simp] theorem State.modRp_kept (q : Nat) (f : RP → RP) : (s.modRp q f).kept = s.kept := rfl
@[simp] theorem State.modRp_bcfg (q : Nat) (f : RP → RP) : (s.modRp q f).bcfg = s.bcfg := rfl
@[simp] theorem State.modRp_bprog (q : Nat) (f : RP → RP) : (s.modRp q f).bprog = s.bprog := rfl
@[simp] theorem State.modRp_brs (q : Nat) (f : RP → RP) : (s.modRp q f).brs = s.brs := rfl
@[simp] theorem State.modRp_mgmt (q : Nat) (f : RP → RP) : (s.modRp q f).mgmt = s.mgmt := rfl
@[simp] theorem State.modRp_vaux (q : Nat) (f : RP → RP) : (s.modRp q f).vaux = s.vaux := rfl
@[simp] theorem State.modRp_sel (q : Nat) (f : RP → RP) : (s.modRp q f).sel = s.sel := rfl
@[simp] theorem State.modRp_boot (q : Nat) (f : RP → RP) : (s.modRp q f).boot = s.boot := rfl
@[simp] theorem State.modRp_rearms (q : Nat) (f : RP → RP) : (s.modRp q f).rearms = s.rearms := rfl
@[simp] theorem State.modRp_refLost (q : Nat) (f : RP → RP) : (s.modRp q f).refLost = s.refLost := rfl
@[simp] theorem State.modRp_outbox (q : Nat) (f : RP → RP) : (s.modRp q f).outbox = s.outbox := rfl

@[simp] theorem State.modEng_pending (e : Nat) (f : Engine → Engine) : (s.modEng e f).pending = s.pending := rfl
@[simp] theorem State.modEng_free (e : Nat) (f : Engine → Engine) : (s.modEng e f).free = s.free := rfl
@[simp] theorem State.modEng_part (e : Nat) (f : Engine → Engine) : (s.modEng e f).part = s.part := rfl
@[simp] theorem State.modEng_phase (e : Nat) (f : Engine → Engine) : (s.modEng e f).phase = s.phase := rfl
@[simp] theorem State.modEng_ticks (e : Nat) (f : Engine → Engine) : (s.modEng e f).ticks = s.ticks := rfl
@[simp] theorem State.modEng_tb (e : Nat) (f : Engine → Engine) : (s.modEng e f).tb = s.tb := rfl
@[simp] theorem State.modEng_dev (e : Nat) (f : Engine → Engine) : (s.modEng e f).dev = s.dev := rfl
@[simp] theorem State.modEng_procs (e : Nat) (f : Engine → Engine) : (s.modEng e f).procs = s.procs := rfl
@[simp] theorem State.modEng_cores (e : Nat) (f : Engine → Engine) : (s.modEng e f).cores = s.cores := rfl
@[simp] theorem State.modEng_clus (e : Nat) (f : Engine → Engine) : (s.modEng e f).clus = s.clus := rfl
@[simp] theorem State.modEng_net (e : Nat) (f : Engine → Engine) : (s.modEng e f).net = s.net := rfl
@[simp] theorem State.modEng_parked (e : Nat) (f : Engine → Engine) : (s.modEng e f).parked = s.parked := rfl
@[simp] theorem State.modEng_memWait (e : Nat) (f : Engine → Engine) : (s.modEng e f).memWait = s.memWait := rfl
@[simp] theorem State.modEng_noCmp (e : Nat) (f : Engine → Engine) : (s.modEng e f).noCmp = s.noCmp := rfl
@[simp] theorem State.modEng_lost (e : Nat) (f : Engine → Engine) : (s.modEng e f).lost = s.lost := rfl
@[simp] theorem State.modEng_dir (e : Nat) (f : Engine → Engine) : (s.modEng e f).dir = s.dir := rfl
@[simp] theorem State.modEng_stks (e : Nat) (f : Engine → Engine) : (s.modEng e f).stks = s.stks := rfl
@[simp] theorem State.modEng_ms (e : Nat) (f : Engine → Engine) : (s.modEng e f).ms = s.ms := rfl
@[simp] theorem State.modEng_flips (e : Nat) (f : Engine → Engine) : (s.modEng e f).flips = s.flips := rfl
@[simp] theorem State.modEng_dbits (e : Nat) (f : Engine → Engine) : (s.modEng e f).dbits = s.dbits := rfl
@[simp] theorem State.modEng_peakD (e : Nat) (f : Engine → Engine) : (s.modEng e f).peakD = s.peakD := rfl
@[simp] theorem State.modEng_bisnp (e : Nat) (f : Engine → Engine) : (s.modEng e f).bisnp = s.bisnp := rfl
@[simp] theorem State.modEng_tun (e : Nat) (f : Engine → Engine) : (s.modEng e f).tun = s.tun := rfl
@[simp] theorem State.modEng_fe (e : Nat) (f : Engine → Engine) : (s.modEng e f).fe = s.fe := rfl
@[simp] theorem State.modEng_pew (e : Nat) (f : Engine → Engine) : (s.modEng e f).pew = s.pew := rfl
@[simp] theorem State.modEng_insts (e : Nat) (f : Engine → Engine) : (s.modEng e f).insts = s.insts := rfl
@[simp] theorem State.modEng_cxl (e : Nat) (f : Engine → Engine) : (s.modEng e f).cxl = s.cxl := rfl
@[simp] theorem State.modEng_rps (e : Nat) (f : Engine → Engine) : (s.modEng e f).rps = s.rps := rfl
@[simp] theorem State.modEng_led (e : Nat) (f : Engine → Engine) : (s.modEng e f).led = s.led := rfl
@[simp] theorem State.modEng_accs (e : Nat) (f : Engine → Engine) : (s.modEng e f).accs = s.accs := rfl
@[simp] theorem State.modEng_abt (e : Nat) (f : Engine → Engine) : (s.modEng e f).abt = s.abt := rfl
@[simp] theorem State.modEng_acnt (e : Nat) (f : Engine → Engine) : (s.modEng e f).acnt = s.acnt := rfl
@[simp] theorem State.modEng_exh (e : Nat) (f : Engine → Engine) : (s.modEng e f).exh = s.exh := rfl
@[simp] theorem State.modEng_promos (e : Nat) (f : Engine → Engine) : (s.modEng e f).promos = s.promos := rfl
@[simp] theorem State.modEng_fabq (e : Nat) (f : Engine → Engine) : (s.modEng e f).fabq = s.fabq := rfl
@[simp] theorem State.modEng_links (e : Nat) (f : Engine → Engine) : (s.modEng e f).links = s.links := rfl
@[simp] theorem State.modEng_inq (e : Nat) (f : Engine → Engine) : (s.modEng e f).inq = s.inq := rfl
@[simp] theorem State.modEng_cseqTx (e : Nat) (f : Engine → Engine) : (s.modEng e f).cseqTx = s.cseqTx := rfl
@[simp] theorem State.modEng_cseqRx (e : Nat) (f : Engine → Engine) : (s.modEng e f).cseqRx = s.cseqRx := rfl
@[simp] theorem State.modEng_cheld (e : Nat) (f : Engine → Engine) : (s.modEng e f).cheld = s.cheld := rfl
@[simp] theorem State.modEng_fwdIn (e : Nat) (f : Engine → Engine) : (s.modEng e f).fwdIn = s.fwdIn := rfl
@[simp] theorem State.modEng_sbWait (e : Nat) (f : Engine → Engine) : (s.modEng e f).sbWait = s.sbWait := rfl
@[simp] theorem State.modEng_sbArr (e : Nat) (f : Engine → Engine) : (s.modEng e f).sbArr = s.sbArr := rfl
@[simp] theorem State.modEng_ftos (e : Nat) (f : Engine → Engine) : (s.modEng e f).ftos = s.ftos := rfl
@[simp] theorem State.modEng_leaving (e : Nat) (f : Engine → Engine) : (s.modEng e f).leaving = s.leaving := rfl
@[simp] theorem State.modEng_mirw (e : Nat) (f : Engine → Engine) : (s.modEng e f).mirw = s.mirw := rfl
@[simp] theorem State.modEng_mirTag (e : Nat) (f : Engine → Engine) : (s.modEng e f).mirTag = s.mirTag := rfl
@[simp] theorem State.modEng_mirIn (e : Nat) (f : Engine → Engine) : (s.modEng e f).mirIn = s.mirIn := rfl
@[simp] theorem State.modEng_qs (e : Nat) (f : Engine → Engine) : (s.modEng e f).qs = s.qs := rfl
@[simp] theorem State.modEng_commits (e : Nat) (f : Engine → Engine) : (s.modEng e f).commits = s.commits := rfl
@[simp] theorem State.modEng_ushare (e : Nat) (f : Engine → Engine) : (s.modEng e f).ushare = s.ushare := rfl
@[simp] theorem State.modEng_rops (e : Nat) (f : Engine → Engine) : (s.modEng e f).rops = s.rops := rfl
@[simp] theorem State.modEng_rtag (e : Nat) (f : Engine → Engine) : (s.modEng e f).rtag = s.rtag := rfl
@[simp] theorem State.modEng_kslots (e : Nat) (f : Engine → Engine) : (s.modEng e f).kslots = s.kslots := rfl
@[simp] theorem State.modEng_kbuf (e : Nat) (f : Engine → Engine) : (s.modEng e f).kbuf = s.kbuf := rfl
@[simp] theorem State.modEng_kcmd (e : Nat) (f : Engine → Engine) : (s.modEng e f).kcmd = s.kcmd := rfl
@[simp] theorem State.modEng_cobs (e : Nat) (f : Engine → Engine) : (s.modEng e f).cobs = s.cobs := rfl
@[simp] theorem State.modEng_zns (e : Nat) (f : Engine → Engine) : (s.modEng e f).zns = s.zns := rfl
@[simp] theorem State.modEng_ports (e : Nat) (f : Engine → Engine) : (s.modEng e f).ports = s.ports := rfl
@[simp] theorem State.modEng_cobBytes (e : Nat) (f : Engine → Engine) : (s.modEng e f).cobBytes = s.cobBytes := rfl
@[simp] theorem State.modEng_authF (e : Nat) (f : Engine → Engine) : (s.modEng e f).authF = s.authF := rfl
@[simp] theorem State.modEng_znIn (e : Nat) (f : Engine → Engine) : (s.modEng e f).znIn = s.znIn := rfl
@[simp] theorem State.modEng_znOut (e : Nat) (f : Engine → Engine) : (s.modEng e f).znOut = s.znOut := rfl
@[simp] theorem State.modEng_znErr (e : Nat) (f : Engine → Engine) : (s.modEng e f).znErr = s.znErr := rfl
@[simp] theorem State.modEng_images (e : Nat) (f : Engine → Engine) : (s.modEng e f).images = s.images := rfl
@[simp] theorem State.modEng_imgW (e : Nat) (f : Engine → Engine) : (s.modEng e f).imgW = s.imgW := rfl
@[simp] theorem State.modEng_bpW (e : Nat) (f : Engine → Engine) : (s.modEng e f).bpW = s.bpW := rfl
@[simp] theorem State.modEng_repts (e : Nat) (f : Engine → Engine) : (s.modEng e f).repts = s.repts := rfl
@[simp] theorem State.modEng_rptW (e : Nat) (f : Engine → Engine) : (s.modEng e f).rptW = s.rptW := rfl
@[simp] theorem State.modEng_rptLate (e : Nat) (f : Engine → Engine) : (s.modEng e f).rptLate = s.rptLate := rfl
@[simp] theorem State.modEng_icmd (e : Nat) (f : Engine → Engine) : (s.modEng e f).icmd = s.icmd := rfl
@[simp] theorem State.modEng_rests (e : Nat) (f : Engine → Engine) : (s.modEng e f).rests = s.rests := rfl
@[simp] theorem State.modEng_ifail (e : Nat) (f : Engine → Engine) : (s.modEng e f).ifail = s.ifail := rfl
@[simp] theorem State.modEng_isaved (e : Nat) (f : Engine → Engine) : (s.modEng e f).isaved = s.isaved := rfl
@[simp] theorem State.modEng_irest (e : Nat) (f : Engine → Engine) : (s.modEng e f).irest = s.irest := rfl
@[simp] theorem State.modEng_icont (e : Nat) (f : Engine → Engine) : (s.modEng e f).icont = s.icont := rfl
@[simp] theorem State.modEng_frzTb (e : Nat) (f : Engine → Engine) : (s.modEng e f).frzTb = s.frzTb := rfl
@[simp] theorem State.modEng_snaps (e : Nat) (f : Engine → Engine) : (s.modEng e f).snaps = s.snaps := rfl
@[simp] theorem State.modEng_saved (e : Nat) (f : Engine → Engine) : (s.modEng e f).saved = s.saved := rfl
@[simp] theorem State.modEng_kept (e : Nat) (f : Engine → Engine) : (s.modEng e f).kept = s.kept := rfl
@[simp] theorem State.modEng_bcfg (e : Nat) (f : Engine → Engine) : (s.modEng e f).bcfg = s.bcfg := rfl
@[simp] theorem State.modEng_bprog (e : Nat) (f : Engine → Engine) : (s.modEng e f).bprog = s.bprog := rfl
@[simp] theorem State.modEng_brs (e : Nat) (f : Engine → Engine) : (s.modEng e f).brs = s.brs := rfl
@[simp] theorem State.modEng_mgmt (e : Nat) (f : Engine → Engine) : (s.modEng e f).mgmt = s.mgmt := rfl
@[simp] theorem State.modEng_vaux (e : Nat) (f : Engine → Engine) : (s.modEng e f).vaux = s.vaux := rfl
@[simp] theorem State.modEng_sel (e : Nat) (f : Engine → Engine) : (s.modEng e f).sel = s.sel := rfl
@[simp] theorem State.modEng_boot (e : Nat) (f : Engine → Engine) : (s.modEng e f).boot = s.boot := rfl
@[simp] theorem State.modEng_rearms (e : Nat) (f : Engine → Engine) : (s.modEng e f).rearms = s.rearms := rfl
@[simp] theorem State.modEng_refLost (e : Nat) (f : Engine → Engine) : (s.modEng e f).refLost = s.refLost := rfl
@[simp] theorem State.modEng_outbox (e : Nat) (f : Engine → Engine) : (s.modEng e f).outbox = s.outbox := rfl

@[simp] theorem State.modQ_pending (i : Nat) (f : Queue → Queue) : (s.modQ i f).pending = s.pending := rfl
@[simp] theorem State.modQ_free (i : Nat) (f : Queue → Queue) : (s.modQ i f).free = s.free := rfl
@[simp] theorem State.modQ_part (i : Nat) (f : Queue → Queue) : (s.modQ i f).part = s.part := rfl
@[simp] theorem State.modQ_phase (i : Nat) (f : Queue → Queue) : (s.modQ i f).phase = s.phase := rfl
@[simp] theorem State.modQ_ticks (i : Nat) (f : Queue → Queue) : (s.modQ i f).ticks = s.ticks := rfl
@[simp] theorem State.modQ_tb (i : Nat) (f : Queue → Queue) : (s.modQ i f).tb = s.tb := rfl
@[simp] theorem State.modQ_dev (i : Nat) (f : Queue → Queue) : (s.modQ i f).dev = s.dev := rfl
@[simp] theorem State.modQ_procs (i : Nat) (f : Queue → Queue) : (s.modQ i f).procs = s.procs := rfl
@[simp] theorem State.modQ_cores (i : Nat) (f : Queue → Queue) : (s.modQ i f).cores = s.cores := rfl
@[simp] theorem State.modQ_clus (i : Nat) (f : Queue → Queue) : (s.modQ i f).clus = s.clus := rfl
@[simp] theorem State.modQ_net (i : Nat) (f : Queue → Queue) : (s.modQ i f).net = s.net := rfl
@[simp] theorem State.modQ_parked (i : Nat) (f : Queue → Queue) : (s.modQ i f).parked = s.parked := rfl
@[simp] theorem State.modQ_memWait (i : Nat) (f : Queue → Queue) : (s.modQ i f).memWait = s.memWait := rfl
@[simp] theorem State.modQ_noCmp (i : Nat) (f : Queue → Queue) : (s.modQ i f).noCmp = s.noCmp := rfl
@[simp] theorem State.modQ_lost (i : Nat) (f : Queue → Queue) : (s.modQ i f).lost = s.lost := rfl
@[simp] theorem State.modQ_dir (i : Nat) (f : Queue → Queue) : (s.modQ i f).dir = s.dir := rfl
@[simp] theorem State.modQ_stks (i : Nat) (f : Queue → Queue) : (s.modQ i f).stks = s.stks := rfl
@[simp] theorem State.modQ_ms (i : Nat) (f : Queue → Queue) : (s.modQ i f).ms = s.ms := rfl
@[simp] theorem State.modQ_flips (i : Nat) (f : Queue → Queue) : (s.modQ i f).flips = s.flips := rfl
@[simp] theorem State.modQ_dbits (i : Nat) (f : Queue → Queue) : (s.modQ i f).dbits = s.dbits := rfl
@[simp] theorem State.modQ_peakD (i : Nat) (f : Queue → Queue) : (s.modQ i f).peakD = s.peakD := rfl
@[simp] theorem State.modQ_bisnp (i : Nat) (f : Queue → Queue) : (s.modQ i f).bisnp = s.bisnp := rfl
@[simp] theorem State.modQ_tun (i : Nat) (f : Queue → Queue) : (s.modQ i f).tun = s.tun := rfl
@[simp] theorem State.modQ_fe (i : Nat) (f : Queue → Queue) : (s.modQ i f).fe = s.fe := rfl
@[simp] theorem State.modQ_pew (i : Nat) (f : Queue → Queue) : (s.modQ i f).pew = s.pew := rfl
@[simp] theorem State.modQ_insts (i : Nat) (f : Queue → Queue) : (s.modQ i f).insts = s.insts := rfl
@[simp] theorem State.modQ_cxl (i : Nat) (f : Queue → Queue) : (s.modQ i f).cxl = s.cxl := rfl
@[simp] theorem State.modQ_rps (i : Nat) (f : Queue → Queue) : (s.modQ i f).rps = s.rps := rfl
@[simp] theorem State.modQ_led (i : Nat) (f : Queue → Queue) : (s.modQ i f).led = s.led := rfl
@[simp] theorem State.modQ_accs (i : Nat) (f : Queue → Queue) : (s.modQ i f).accs = s.accs := rfl
@[simp] theorem State.modQ_abt (i : Nat) (f : Queue → Queue) : (s.modQ i f).abt = s.abt := rfl
@[simp] theorem State.modQ_acnt (i : Nat) (f : Queue → Queue) : (s.modQ i f).acnt = s.acnt := rfl
@[simp] theorem State.modQ_exh (i : Nat) (f : Queue → Queue) : (s.modQ i f).exh = s.exh := rfl
@[simp] theorem State.modQ_promos (i : Nat) (f : Queue → Queue) : (s.modQ i f).promos = s.promos := rfl
@[simp] theorem State.modQ_fabq (i : Nat) (f : Queue → Queue) : (s.modQ i f).fabq = s.fabq := rfl
@[simp] theorem State.modQ_links (i : Nat) (f : Queue → Queue) : (s.modQ i f).links = s.links := rfl
@[simp] theorem State.modQ_inq (i : Nat) (f : Queue → Queue) : (s.modQ i f).inq = s.inq := rfl
@[simp] theorem State.modQ_cseqTx (i : Nat) (f : Queue → Queue) : (s.modQ i f).cseqTx = s.cseqTx := rfl
@[simp] theorem State.modQ_cseqRx (i : Nat) (f : Queue → Queue) : (s.modQ i f).cseqRx = s.cseqRx := rfl
@[simp] theorem State.modQ_cheld (i : Nat) (f : Queue → Queue) : (s.modQ i f).cheld = s.cheld := rfl
@[simp] theorem State.modQ_fwdIn (i : Nat) (f : Queue → Queue) : (s.modQ i f).fwdIn = s.fwdIn := rfl
@[simp] theorem State.modQ_sbWait (i : Nat) (f : Queue → Queue) : (s.modQ i f).sbWait = s.sbWait := rfl
@[simp] theorem State.modQ_sbArr (i : Nat) (f : Queue → Queue) : (s.modQ i f).sbArr = s.sbArr := rfl
@[simp] theorem State.modQ_ftos (i : Nat) (f : Queue → Queue) : (s.modQ i f).ftos = s.ftos := rfl
@[simp] theorem State.modQ_leaving (i : Nat) (f : Queue → Queue) : (s.modQ i f).leaving = s.leaving := rfl
@[simp] theorem State.modQ_mirw (i : Nat) (f : Queue → Queue) : (s.modQ i f).mirw = s.mirw := rfl
@[simp] theorem State.modQ_mirTag (i : Nat) (f : Queue → Queue) : (s.modQ i f).mirTag = s.mirTag := rfl
@[simp] theorem State.modQ_mirIn (i : Nat) (f : Queue → Queue) : (s.modQ i f).mirIn = s.mirIn := rfl
@[simp] theorem State.modQ_commits (i : Nat) (f : Queue → Queue) : (s.modQ i f).commits = s.commits := rfl
@[simp] theorem State.modQ_eng (i : Nat) (f : Queue → Queue) : (s.modQ i f).eng = s.eng := rfl
@[simp] theorem State.modQ_ushare (i : Nat) (f : Queue → Queue) : (s.modQ i f).ushare = s.ushare := rfl
@[simp] theorem State.modQ_rops (i : Nat) (f : Queue → Queue) : (s.modQ i f).rops = s.rops := rfl
@[simp] theorem State.modQ_rtag (i : Nat) (f : Queue → Queue) : (s.modQ i f).rtag = s.rtag := rfl
@[simp] theorem State.modQ_kslots (i : Nat) (f : Queue → Queue) : (s.modQ i f).kslots = s.kslots := rfl
@[simp] theorem State.modQ_kbuf (i : Nat) (f : Queue → Queue) : (s.modQ i f).kbuf = s.kbuf := rfl
@[simp] theorem State.modQ_kcmd (i : Nat) (f : Queue → Queue) : (s.modQ i f).kcmd = s.kcmd := rfl
@[simp] theorem State.modQ_cobs (i : Nat) (f : Queue → Queue) : (s.modQ i f).cobs = s.cobs := rfl
@[simp] theorem State.modQ_zns (i : Nat) (f : Queue → Queue) : (s.modQ i f).zns = s.zns := rfl
@[simp] theorem State.modQ_ports (i : Nat) (f : Queue → Queue) : (s.modQ i f).ports = s.ports := rfl
@[simp] theorem State.modQ_cobBytes (i : Nat) (f : Queue → Queue) : (s.modQ i f).cobBytes = s.cobBytes := rfl
@[simp] theorem State.modQ_authF (i : Nat) (f : Queue → Queue) : (s.modQ i f).authF = s.authF := rfl
@[simp] theorem State.modQ_znIn (i : Nat) (f : Queue → Queue) : (s.modQ i f).znIn = s.znIn := rfl
@[simp] theorem State.modQ_znOut (i : Nat) (f : Queue → Queue) : (s.modQ i f).znOut = s.znOut := rfl
@[simp] theorem State.modQ_znErr (i : Nat) (f : Queue → Queue) : (s.modQ i f).znErr = s.znErr := rfl
@[simp] theorem State.modQ_images (i : Nat) (f : Queue → Queue) : (s.modQ i f).images = s.images := rfl
@[simp] theorem State.modQ_imgW (i : Nat) (f : Queue → Queue) : (s.modQ i f).imgW = s.imgW := rfl
@[simp] theorem State.modQ_bpW (i : Nat) (f : Queue → Queue) : (s.modQ i f).bpW = s.bpW := rfl
@[simp] theorem State.modQ_repts (i : Nat) (f : Queue → Queue) : (s.modQ i f).repts = s.repts := rfl
@[simp] theorem State.modQ_rptW (i : Nat) (f : Queue → Queue) : (s.modQ i f).rptW = s.rptW := rfl
@[simp] theorem State.modQ_rptLate (i : Nat) (f : Queue → Queue) : (s.modQ i f).rptLate = s.rptLate := rfl
@[simp] theorem State.modQ_icmd (i : Nat) (f : Queue → Queue) : (s.modQ i f).icmd = s.icmd := rfl
@[simp] theorem State.modQ_rests (i : Nat) (f : Queue → Queue) : (s.modQ i f).rests = s.rests := rfl
@[simp] theorem State.modQ_ifail (i : Nat) (f : Queue → Queue) : (s.modQ i f).ifail = s.ifail := rfl
@[simp] theorem State.modQ_isaved (i : Nat) (f : Queue → Queue) : (s.modQ i f).isaved = s.isaved := rfl
@[simp] theorem State.modQ_irest (i : Nat) (f : Queue → Queue) : (s.modQ i f).irest = s.irest := rfl
@[simp] theorem State.modQ_icont (i : Nat) (f : Queue → Queue) : (s.modQ i f).icont = s.icont := rfl
@[simp] theorem State.modQ_frzTb (i : Nat) (f : Queue → Queue) : (s.modQ i f).frzTb = s.frzTb := rfl
@[simp] theorem State.modQ_snaps (i : Nat) (f : Queue → Queue) : (s.modQ i f).snaps = s.snaps := rfl
@[simp] theorem State.modQ_saved (i : Nat) (f : Queue → Queue) : (s.modQ i f).saved = s.saved := rfl
@[simp] theorem State.modQ_kept (i : Nat) (f : Queue → Queue) : (s.modQ i f).kept = s.kept := rfl
@[simp] theorem State.modQ_bcfg (i : Nat) (f : Queue → Queue) : (s.modQ i f).bcfg = s.bcfg := rfl
@[simp] theorem State.modQ_bprog (i : Nat) (f : Queue → Queue) : (s.modQ i f).bprog = s.bprog := rfl
@[simp] theorem State.modQ_brs (i : Nat) (f : Queue → Queue) : (s.modQ i f).brs = s.brs := rfl
@[simp] theorem State.modQ_mgmt (i : Nat) (f : Queue → Queue) : (s.modQ i f).mgmt = s.mgmt := rfl
@[simp] theorem State.modQ_vaux (i : Nat) (f : Queue → Queue) : (s.modQ i f).vaux = s.vaux := rfl
@[simp] theorem State.modQ_sel (i : Nat) (f : Queue → Queue) : (s.modQ i f).sel = s.sel := rfl
@[simp] theorem State.modQ_boot (i : Nat) (f : Queue → Queue) : (s.modQ i f).boot = s.boot := rfl
@[simp] theorem State.modQ_rearms (i : Nat) (f : Queue → Queue) : (s.modQ i f).rearms = s.rearms := rfl
@[simp] theorem State.modQ_refLost (i : Nat) (f : Queue → Queue) : (s.modQ i f).refLost = s.refLost := rfl
@[simp] theorem State.modQ_outbox (i : Nat) (f : Queue → Queue) : (s.modQ i f).outbox = s.outbox := rfl

@[simp] theorem State.modLnk_pending (l : Nat) (f : Lnk → Lnk) : (s.modLnk l f).pending = s.pending := rfl
@[simp] theorem State.modLnk_free (l : Nat) (f : Lnk → Lnk) : (s.modLnk l f).free = s.free := rfl
@[simp] theorem State.modLnk_part (l : Nat) (f : Lnk → Lnk) : (s.modLnk l f).part = s.part := rfl
@[simp] theorem State.modLnk_phase (l : Nat) (f : Lnk → Lnk) : (s.modLnk l f).phase = s.phase := rfl
@[simp] theorem State.modLnk_ticks (l : Nat) (f : Lnk → Lnk) : (s.modLnk l f).ticks = s.ticks := rfl
@[simp] theorem State.modLnk_tb (l : Nat) (f : Lnk → Lnk) : (s.modLnk l f).tb = s.tb := rfl
@[simp] theorem State.modLnk_dev (l : Nat) (f : Lnk → Lnk) : (s.modLnk l f).dev = s.dev := rfl
@[simp] theorem State.modLnk_procs (l : Nat) (f : Lnk → Lnk) : (s.modLnk l f).procs = s.procs := rfl
@[simp] theorem State.modLnk_cores (l : Nat) (f : Lnk → Lnk) : (s.modLnk l f).cores = s.cores := rfl
@[simp] theorem State.modLnk_clus (l : Nat) (f : Lnk → Lnk) : (s.modLnk l f).clus = s.clus := rfl
@[simp] theorem State.modLnk_net (l : Nat) (f : Lnk → Lnk) : (s.modLnk l f).net = s.net := rfl
@[simp] theorem State.modLnk_parked (l : Nat) (f : Lnk → Lnk) : (s.modLnk l f).parked = s.parked := rfl
@[simp] theorem State.modLnk_memWait (l : Nat) (f : Lnk → Lnk) : (s.modLnk l f).memWait = s.memWait := rfl
@[simp] theorem State.modLnk_noCmp (l : Nat) (f : Lnk → Lnk) : (s.modLnk l f).noCmp = s.noCmp := rfl
@[simp] theorem State.modLnk_lost (l : Nat) (f : Lnk → Lnk) : (s.modLnk l f).lost = s.lost := rfl
@[simp] theorem State.modLnk_dir (l : Nat) (f : Lnk → Lnk) : (s.modLnk l f).dir = s.dir := rfl
@[simp] theorem State.modLnk_stks (l : Nat) (f : Lnk → Lnk) : (s.modLnk l f).stks = s.stks := rfl
@[simp] theorem State.modLnk_ms (l : Nat) (f : Lnk → Lnk) : (s.modLnk l f).ms = s.ms := rfl
@[simp] theorem State.modLnk_flips (l : Nat) (f : Lnk → Lnk) : (s.modLnk l f).flips = s.flips := rfl
@[simp] theorem State.modLnk_dbits (l : Nat) (f : Lnk → Lnk) : (s.modLnk l f).dbits = s.dbits := rfl
@[simp] theorem State.modLnk_peakD (l : Nat) (f : Lnk → Lnk) : (s.modLnk l f).peakD = s.peakD := rfl
@[simp] theorem State.modLnk_bisnp (l : Nat) (f : Lnk → Lnk) : (s.modLnk l f).bisnp = s.bisnp := rfl
@[simp] theorem State.modLnk_tun (l : Nat) (f : Lnk → Lnk) : (s.modLnk l f).tun = s.tun := rfl
@[simp] theorem State.modLnk_fe (l : Nat) (f : Lnk → Lnk) : (s.modLnk l f).fe = s.fe := rfl
@[simp] theorem State.modLnk_pew (l : Nat) (f : Lnk → Lnk) : (s.modLnk l f).pew = s.pew := rfl
@[simp] theorem State.modLnk_insts (l : Nat) (f : Lnk → Lnk) : (s.modLnk l f).insts = s.insts := rfl
@[simp] theorem State.modLnk_cxl (l : Nat) (f : Lnk → Lnk) : (s.modLnk l f).cxl = s.cxl := rfl
@[simp] theorem State.modLnk_rps (l : Nat) (f : Lnk → Lnk) : (s.modLnk l f).rps = s.rps := rfl
@[simp] theorem State.modLnk_led (l : Nat) (f : Lnk → Lnk) : (s.modLnk l f).led = s.led := rfl
@[simp] theorem State.modLnk_accs (l : Nat) (f : Lnk → Lnk) : (s.modLnk l f).accs = s.accs := rfl
@[simp] theorem State.modLnk_abt (l : Nat) (f : Lnk → Lnk) : (s.modLnk l f).abt = s.abt := rfl
@[simp] theorem State.modLnk_acnt (l : Nat) (f : Lnk → Lnk) : (s.modLnk l f).acnt = s.acnt := rfl
@[simp] theorem State.modLnk_exh (l : Nat) (f : Lnk → Lnk) : (s.modLnk l f).exh = s.exh := rfl
@[simp] theorem State.modLnk_promos (l : Nat) (f : Lnk → Lnk) : (s.modLnk l f).promos = s.promos := rfl
@[simp] theorem State.modLnk_fabq (l : Nat) (f : Lnk → Lnk) : (s.modLnk l f).fabq = s.fabq := rfl
@[simp] theorem State.modLnk_inq (l : Nat) (f : Lnk → Lnk) : (s.modLnk l f).inq = s.inq := rfl
@[simp] theorem State.modLnk_cseqTx (l : Nat) (f : Lnk → Lnk) : (s.modLnk l f).cseqTx = s.cseqTx := rfl
@[simp] theorem State.modLnk_cseqRx (l : Nat) (f : Lnk → Lnk) : (s.modLnk l f).cseqRx = s.cseqRx := rfl
@[simp] theorem State.modLnk_cheld (l : Nat) (f : Lnk → Lnk) : (s.modLnk l f).cheld = s.cheld := rfl
@[simp] theorem State.modLnk_fwdIn (l : Nat) (f : Lnk → Lnk) : (s.modLnk l f).fwdIn = s.fwdIn := rfl
@[simp] theorem State.modLnk_sbWait (l : Nat) (f : Lnk → Lnk) : (s.modLnk l f).sbWait = s.sbWait := rfl
@[simp] theorem State.modLnk_sbArr (l : Nat) (f : Lnk → Lnk) : (s.modLnk l f).sbArr = s.sbArr := rfl
@[simp] theorem State.modLnk_ftos (l : Nat) (f : Lnk → Lnk) : (s.modLnk l f).ftos = s.ftos := rfl
@[simp] theorem State.modLnk_leaving (l : Nat) (f : Lnk → Lnk) : (s.modLnk l f).leaving = s.leaving := rfl
@[simp] theorem State.modLnk_mirw (l : Nat) (f : Lnk → Lnk) : (s.modLnk l f).mirw = s.mirw := rfl
@[simp] theorem State.modLnk_mirTag (l : Nat) (f : Lnk → Lnk) : (s.modLnk l f).mirTag = s.mirTag := rfl
@[simp] theorem State.modLnk_mirIn (l : Nat) (f : Lnk → Lnk) : (s.modLnk l f).mirIn = s.mirIn := rfl
@[simp] theorem State.modLnk_qs (l : Nat) (f : Lnk → Lnk) : (s.modLnk l f).qs = s.qs := rfl
@[simp] theorem State.modLnk_commits (l : Nat) (f : Lnk → Lnk) : (s.modLnk l f).commits = s.commits := rfl
@[simp] theorem State.modLnk_eng (l : Nat) (f : Lnk → Lnk) : (s.modLnk l f).eng = s.eng := rfl
@[simp] theorem State.modLnk_ushare (l : Nat) (f : Lnk → Lnk) : (s.modLnk l f).ushare = s.ushare := rfl
@[simp] theorem State.modLnk_rops (l : Nat) (f : Lnk → Lnk) : (s.modLnk l f).rops = s.rops := rfl
@[simp] theorem State.modLnk_rtag (l : Nat) (f : Lnk → Lnk) : (s.modLnk l f).rtag = s.rtag := rfl
@[simp] theorem State.modLnk_kslots (l : Nat) (f : Lnk → Lnk) : (s.modLnk l f).kslots = s.kslots := rfl
@[simp] theorem State.modLnk_kbuf (l : Nat) (f : Lnk → Lnk) : (s.modLnk l f).kbuf = s.kbuf := rfl
@[simp] theorem State.modLnk_kcmd (l : Nat) (f : Lnk → Lnk) : (s.modLnk l f).kcmd = s.kcmd := rfl
@[simp] theorem State.modLnk_cobs (l : Nat) (f : Lnk → Lnk) : (s.modLnk l f).cobs = s.cobs := rfl
@[simp] theorem State.modLnk_zns (l : Nat) (f : Lnk → Lnk) : (s.modLnk l f).zns = s.zns := rfl
@[simp] theorem State.modLnk_ports (l : Nat) (f : Lnk → Lnk) : (s.modLnk l f).ports = s.ports := rfl
@[simp] theorem State.modLnk_cobBytes (l : Nat) (f : Lnk → Lnk) : (s.modLnk l f).cobBytes = s.cobBytes := rfl
@[simp] theorem State.modLnk_authF (l : Nat) (f : Lnk → Lnk) : (s.modLnk l f).authF = s.authF := rfl
@[simp] theorem State.modLnk_znIn (l : Nat) (f : Lnk → Lnk) : (s.modLnk l f).znIn = s.znIn := rfl
@[simp] theorem State.modLnk_znOut (l : Nat) (f : Lnk → Lnk) : (s.modLnk l f).znOut = s.znOut := rfl
@[simp] theorem State.modLnk_znErr (l : Nat) (f : Lnk → Lnk) : (s.modLnk l f).znErr = s.znErr := rfl
@[simp] theorem State.modLnk_images (l : Nat) (f : Lnk → Lnk) : (s.modLnk l f).images = s.images := rfl
@[simp] theorem State.modLnk_imgW (l : Nat) (f : Lnk → Lnk) : (s.modLnk l f).imgW = s.imgW := rfl
@[simp] theorem State.modLnk_bpW (l : Nat) (f : Lnk → Lnk) : (s.modLnk l f).bpW = s.bpW := rfl
@[simp] theorem State.modLnk_repts (l : Nat) (f : Lnk → Lnk) : (s.modLnk l f).repts = s.repts := rfl
@[simp] theorem State.modLnk_rptW (l : Nat) (f : Lnk → Lnk) : (s.modLnk l f).rptW = s.rptW := rfl
@[simp] theorem State.modLnk_rptLate (l : Nat) (f : Lnk → Lnk) : (s.modLnk l f).rptLate = s.rptLate := rfl
@[simp] theorem State.modLnk_icmd (l : Nat) (f : Lnk → Lnk) : (s.modLnk l f).icmd = s.icmd := rfl
@[simp] theorem State.modLnk_rests (l : Nat) (f : Lnk → Lnk) : (s.modLnk l f).rests = s.rests := rfl
@[simp] theorem State.modLnk_ifail (l : Nat) (f : Lnk → Lnk) : (s.modLnk l f).ifail = s.ifail := rfl
@[simp] theorem State.modLnk_isaved (l : Nat) (f : Lnk → Lnk) : (s.modLnk l f).isaved = s.isaved := rfl
@[simp] theorem State.modLnk_irest (l : Nat) (f : Lnk → Lnk) : (s.modLnk l f).irest = s.irest := rfl
@[simp] theorem State.modLnk_icont (l : Nat) (f : Lnk → Lnk) : (s.modLnk l f).icont = s.icont := rfl
@[simp] theorem State.modLnk_frzTb (l : Nat) (f : Lnk → Lnk) : (s.modLnk l f).frzTb = s.frzTb := rfl
@[simp] theorem State.modLnk_snaps (l : Nat) (f : Lnk → Lnk) : (s.modLnk l f).snaps = s.snaps := rfl
@[simp] theorem State.modLnk_saved (l : Nat) (f : Lnk → Lnk) : (s.modLnk l f).saved = s.saved := rfl
@[simp] theorem State.modLnk_kept (l : Nat) (f : Lnk → Lnk) : (s.modLnk l f).kept = s.kept := rfl
@[simp] theorem State.modLnk_bcfg (l : Nat) (f : Lnk → Lnk) : (s.modLnk l f).bcfg = s.bcfg := rfl
@[simp] theorem State.modLnk_bprog (l : Nat) (f : Lnk → Lnk) : (s.modLnk l f).bprog = s.bprog := rfl
@[simp] theorem State.modLnk_brs (l : Nat) (f : Lnk → Lnk) : (s.modLnk l f).brs = s.brs := rfl
@[simp] theorem State.modLnk_mgmt (l : Nat) (f : Lnk → Lnk) : (s.modLnk l f).mgmt = s.mgmt := rfl
@[simp] theorem State.modLnk_vaux (l : Nat) (f : Lnk → Lnk) : (s.modLnk l f).vaux = s.vaux := rfl
@[simp] theorem State.modLnk_sel (l : Nat) (f : Lnk → Lnk) : (s.modLnk l f).sel = s.sel := rfl
@[simp] theorem State.modLnk_boot (l : Nat) (f : Lnk → Lnk) : (s.modLnk l f).boot = s.boot := rfl
@[simp] theorem State.modLnk_rearms (l : Nat) (f : Lnk → Lnk) : (s.modLnk l f).rearms = s.rearms := rfl
@[simp] theorem State.modLnk_refLost (l : Nat) (f : Lnk → Lnk) : (s.modLnk l f).refLost = s.refLost := rfl
@[simp] theorem State.modLnk_outbox (l : Nat) (f : Lnk → Lnk) : (s.modLnk l f).outbox = s.outbox := rfl

@[simp] theorem State.modPew_pending (f : Pewter → Pewter) : (s.modPew f).pending = s.pending := rfl
@[simp] theorem State.modPew_free (f : Pewter → Pewter) : (s.modPew f).free = s.free := rfl
@[simp] theorem State.modPew_part (f : Pewter → Pewter) : (s.modPew f).part = s.part := rfl
@[simp] theorem State.modPew_phase (f : Pewter → Pewter) : (s.modPew f).phase = s.phase := rfl
@[simp] theorem State.modPew_ticks (f : Pewter → Pewter) : (s.modPew f).ticks = s.ticks := rfl
@[simp] theorem State.modPew_tb (f : Pewter → Pewter) : (s.modPew f).tb = s.tb := rfl
@[simp] theorem State.modPew_dev (f : Pewter → Pewter) : (s.modPew f).dev = s.dev := rfl
@[simp] theorem State.modPew_procs (f : Pewter → Pewter) : (s.modPew f).procs = s.procs := rfl
@[simp] theorem State.modPew_cores (f : Pewter → Pewter) : (s.modPew f).cores = s.cores := rfl
@[simp] theorem State.modPew_clus (f : Pewter → Pewter) : (s.modPew f).clus = s.clus := rfl
@[simp] theorem State.modPew_net (f : Pewter → Pewter) : (s.modPew f).net = s.net := rfl
@[simp] theorem State.modPew_parked (f : Pewter → Pewter) : (s.modPew f).parked = s.parked := rfl
@[simp] theorem State.modPew_memWait (f : Pewter → Pewter) : (s.modPew f).memWait = s.memWait := rfl
@[simp] theorem State.modPew_noCmp (f : Pewter → Pewter) : (s.modPew f).noCmp = s.noCmp := rfl
@[simp] theorem State.modPew_lost (f : Pewter → Pewter) : (s.modPew f).lost = s.lost := rfl
@[simp] theorem State.modPew_dir (f : Pewter → Pewter) : (s.modPew f).dir = s.dir := rfl
@[simp] theorem State.modPew_stks (f : Pewter → Pewter) : (s.modPew f).stks = s.stks := rfl
@[simp] theorem State.modPew_ms (f : Pewter → Pewter) : (s.modPew f).ms = s.ms := rfl
@[simp] theorem State.modPew_flips (f : Pewter → Pewter) : (s.modPew f).flips = s.flips := rfl
@[simp] theorem State.modPew_dbits (f : Pewter → Pewter) : (s.modPew f).dbits = s.dbits := rfl
@[simp] theorem State.modPew_peakD (f : Pewter → Pewter) : (s.modPew f).peakD = s.peakD := rfl
@[simp] theorem State.modPew_bisnp (f : Pewter → Pewter) : (s.modPew f).bisnp = s.bisnp := rfl
@[simp] theorem State.modPew_tun (f : Pewter → Pewter) : (s.modPew f).tun = s.tun := rfl
@[simp] theorem State.modPew_fe (f : Pewter → Pewter) : (s.modPew f).fe = s.fe := rfl
@[simp] theorem State.modPew_insts (f : Pewter → Pewter) : (s.modPew f).insts = s.insts := rfl
@[simp] theorem State.modPew_cxl (f : Pewter → Pewter) : (s.modPew f).cxl = s.cxl := rfl
@[simp] theorem State.modPew_rps (f : Pewter → Pewter) : (s.modPew f).rps = s.rps := rfl
@[simp] theorem State.modPew_led (f : Pewter → Pewter) : (s.modPew f).led = s.led := rfl
@[simp] theorem State.modPew_accs (f : Pewter → Pewter) : (s.modPew f).accs = s.accs := rfl
@[simp] theorem State.modPew_abt (f : Pewter → Pewter) : (s.modPew f).abt = s.abt := rfl
@[simp] theorem State.modPew_acnt (f : Pewter → Pewter) : (s.modPew f).acnt = s.acnt := rfl
@[simp] theorem State.modPew_exh (f : Pewter → Pewter) : (s.modPew f).exh = s.exh := rfl
@[simp] theorem State.modPew_promos (f : Pewter → Pewter) : (s.modPew f).promos = s.promos := rfl
@[simp] theorem State.modPew_fabq (f : Pewter → Pewter) : (s.modPew f).fabq = s.fabq := rfl
@[simp] theorem State.modPew_links (f : Pewter → Pewter) : (s.modPew f).links = s.links := rfl
@[simp] theorem State.modPew_inq (f : Pewter → Pewter) : (s.modPew f).inq = s.inq := rfl
@[simp] theorem State.modPew_cseqTx (f : Pewter → Pewter) : (s.modPew f).cseqTx = s.cseqTx := rfl
@[simp] theorem State.modPew_cseqRx (f : Pewter → Pewter) : (s.modPew f).cseqRx = s.cseqRx := rfl
@[simp] theorem State.modPew_cheld (f : Pewter → Pewter) : (s.modPew f).cheld = s.cheld := rfl
@[simp] theorem State.modPew_fwdIn (f : Pewter → Pewter) : (s.modPew f).fwdIn = s.fwdIn := rfl
@[simp] theorem State.modPew_sbWait (f : Pewter → Pewter) : (s.modPew f).sbWait = s.sbWait := rfl
@[simp] theorem State.modPew_sbArr (f : Pewter → Pewter) : (s.modPew f).sbArr = s.sbArr := rfl
@[simp] theorem State.modPew_ftos (f : Pewter → Pewter) : (s.modPew f).ftos = s.ftos := rfl
@[simp] theorem State.modPew_leaving (f : Pewter → Pewter) : (s.modPew f).leaving = s.leaving := rfl
@[simp] theorem State.modPew_mirw (f : Pewter → Pewter) : (s.modPew f).mirw = s.mirw := rfl
@[simp] theorem State.modPew_mirTag (f : Pewter → Pewter) : (s.modPew f).mirTag = s.mirTag := rfl
@[simp] theorem State.modPew_mirIn (f : Pewter → Pewter) : (s.modPew f).mirIn = s.mirIn := rfl
@[simp] theorem State.modPew_qs (f : Pewter → Pewter) : (s.modPew f).qs = s.qs := rfl
@[simp] theorem State.modPew_commits (f : Pewter → Pewter) : (s.modPew f).commits = s.commits := rfl
@[simp] theorem State.modPew_eng (f : Pewter → Pewter) : (s.modPew f).eng = s.eng := rfl
@[simp] theorem State.modPew_ushare (f : Pewter → Pewter) : (s.modPew f).ushare = s.ushare := rfl
@[simp] theorem State.modPew_rops (f : Pewter → Pewter) : (s.modPew f).rops = s.rops := rfl
@[simp] theorem State.modPew_rtag (f : Pewter → Pewter) : (s.modPew f).rtag = s.rtag := rfl
@[simp] theorem State.modPew_kslots (f : Pewter → Pewter) : (s.modPew f).kslots = s.kslots := rfl
@[simp] theorem State.modPew_kbuf (f : Pewter → Pewter) : (s.modPew f).kbuf = s.kbuf := rfl
@[simp] theorem State.modPew_kcmd (f : Pewter → Pewter) : (s.modPew f).kcmd = s.kcmd := rfl
@[simp] theorem State.modPew_cobs (f : Pewter → Pewter) : (s.modPew f).cobs = s.cobs := rfl
@[simp] theorem State.modPew_zns (f : Pewter → Pewter) : (s.modPew f).zns = s.zns := rfl
@[simp] theorem State.modPew_ports (f : Pewter → Pewter) : (s.modPew f).ports = s.ports := rfl
@[simp] theorem State.modPew_cobBytes (f : Pewter → Pewter) : (s.modPew f).cobBytes = s.cobBytes := rfl
@[simp] theorem State.modPew_authF (f : Pewter → Pewter) : (s.modPew f).authF = s.authF := rfl
@[simp] theorem State.modPew_znIn (f : Pewter → Pewter) : (s.modPew f).znIn = s.znIn := rfl
@[simp] theorem State.modPew_znOut (f : Pewter → Pewter) : (s.modPew f).znOut = s.znOut := rfl
@[simp] theorem State.modPew_znErr (f : Pewter → Pewter) : (s.modPew f).znErr = s.znErr := rfl
@[simp] theorem State.modPew_images (f : Pewter → Pewter) : (s.modPew f).images = s.images := rfl
@[simp] theorem State.modPew_imgW (f : Pewter → Pewter) : (s.modPew f).imgW = s.imgW := rfl
@[simp] theorem State.modPew_bpW (f : Pewter → Pewter) : (s.modPew f).bpW = s.bpW := rfl
@[simp] theorem State.modPew_repts (f : Pewter → Pewter) : (s.modPew f).repts = s.repts := rfl
@[simp] theorem State.modPew_rptW (f : Pewter → Pewter) : (s.modPew f).rptW = s.rptW := rfl
@[simp] theorem State.modPew_rptLate (f : Pewter → Pewter) : (s.modPew f).rptLate = s.rptLate := rfl
@[simp] theorem State.modPew_icmd (f : Pewter → Pewter) : (s.modPew f).icmd = s.icmd := rfl
@[simp] theorem State.modPew_rests (f : Pewter → Pewter) : (s.modPew f).rests = s.rests := rfl
@[simp] theorem State.modPew_ifail (f : Pewter → Pewter) : (s.modPew f).ifail = s.ifail := rfl
@[simp] theorem State.modPew_isaved (f : Pewter → Pewter) : (s.modPew f).isaved = s.isaved := rfl
@[simp] theorem State.modPew_irest (f : Pewter → Pewter) : (s.modPew f).irest = s.irest := rfl
@[simp] theorem State.modPew_icont (f : Pewter → Pewter) : (s.modPew f).icont = s.icont := rfl
@[simp] theorem State.modPew_frzTb (f : Pewter → Pewter) : (s.modPew f).frzTb = s.frzTb := rfl
@[simp] theorem State.modPew_snaps (f : Pewter → Pewter) : (s.modPew f).snaps = s.snaps := rfl
@[simp] theorem State.modPew_saved (f : Pewter → Pewter) : (s.modPew f).saved = s.saved := rfl
@[simp] theorem State.modPew_kept (f : Pewter → Pewter) : (s.modPew f).kept = s.kept := rfl
@[simp] theorem State.modPew_bcfg (f : Pewter → Pewter) : (s.modPew f).bcfg = s.bcfg := rfl
@[simp] theorem State.modPew_bprog (f : Pewter → Pewter) : (s.modPew f).bprog = s.bprog := rfl
@[simp] theorem State.modPew_brs (f : Pewter → Pewter) : (s.modPew f).brs = s.brs := rfl
@[simp] theorem State.modPew_mgmt (f : Pewter → Pewter) : (s.modPew f).mgmt = s.mgmt := rfl
@[simp] theorem State.modPew_vaux (f : Pewter → Pewter) : (s.modPew f).vaux = s.vaux := rfl
@[simp] theorem State.modPew_sel (f : Pewter → Pewter) : (s.modPew f).sel = s.sel := rfl
@[simp] theorem State.modPew_boot (f : Pewter → Pewter) : (s.modPew f).boot = s.boot := rfl
@[simp] theorem State.modPew_rearms (f : Pewter → Pewter) : (s.modPew f).rearms = s.rearms := rfl
@[simp] theorem State.modPew_refLost (f : Pewter → Pewter) : (s.modPew f).refLost = s.refLost := rfl
@[simp] theorem State.modPew_outbox (f : Pewter → Pewter) : (s.modPew f).outbox = s.outbox := rfl

@[simp] theorem State.modMgmt_pending (f : Mgmt → Mgmt) : (s.modMgmt f).pending = s.pending := rfl
@[simp] theorem State.modMgmt_free (f : Mgmt → Mgmt) : (s.modMgmt f).free = s.free := rfl
@[simp] theorem State.modMgmt_part (f : Mgmt → Mgmt) : (s.modMgmt f).part = s.part := rfl
@[simp] theorem State.modMgmt_phase (f : Mgmt → Mgmt) : (s.modMgmt f).phase = s.phase := rfl
@[simp] theorem State.modMgmt_ticks (f : Mgmt → Mgmt) : (s.modMgmt f).ticks = s.ticks := rfl
@[simp] theorem State.modMgmt_tb (f : Mgmt → Mgmt) : (s.modMgmt f).tb = s.tb := rfl
@[simp] theorem State.modMgmt_dev (f : Mgmt → Mgmt) : (s.modMgmt f).dev = s.dev := rfl
@[simp] theorem State.modMgmt_procs (f : Mgmt → Mgmt) : (s.modMgmt f).procs = s.procs := rfl
@[simp] theorem State.modMgmt_cores (f : Mgmt → Mgmt) : (s.modMgmt f).cores = s.cores := rfl
@[simp] theorem State.modMgmt_clus (f : Mgmt → Mgmt) : (s.modMgmt f).clus = s.clus := rfl
@[simp] theorem State.modMgmt_net (f : Mgmt → Mgmt) : (s.modMgmt f).net = s.net := rfl
@[simp] theorem State.modMgmt_parked (f : Mgmt → Mgmt) : (s.modMgmt f).parked = s.parked := rfl
@[simp] theorem State.modMgmt_memWait (f : Mgmt → Mgmt) : (s.modMgmt f).memWait = s.memWait := rfl
@[simp] theorem State.modMgmt_noCmp (f : Mgmt → Mgmt) : (s.modMgmt f).noCmp = s.noCmp := rfl
@[simp] theorem State.modMgmt_lost (f : Mgmt → Mgmt) : (s.modMgmt f).lost = s.lost := rfl
@[simp] theorem State.modMgmt_dir (f : Mgmt → Mgmt) : (s.modMgmt f).dir = s.dir := rfl
@[simp] theorem State.modMgmt_stks (f : Mgmt → Mgmt) : (s.modMgmt f).stks = s.stks := rfl
@[simp] theorem State.modMgmt_ms (f : Mgmt → Mgmt) : (s.modMgmt f).ms = s.ms := rfl
@[simp] theorem State.modMgmt_flips (f : Mgmt → Mgmt) : (s.modMgmt f).flips = s.flips := rfl
@[simp] theorem State.modMgmt_dbits (f : Mgmt → Mgmt) : (s.modMgmt f).dbits = s.dbits := rfl
@[simp] theorem State.modMgmt_peakD (f : Mgmt → Mgmt) : (s.modMgmt f).peakD = s.peakD := rfl
@[simp] theorem State.modMgmt_bisnp (f : Mgmt → Mgmt) : (s.modMgmt f).bisnp = s.bisnp := rfl
@[simp] theorem State.modMgmt_tun (f : Mgmt → Mgmt) : (s.modMgmt f).tun = s.tun := rfl
@[simp] theorem State.modMgmt_fe (f : Mgmt → Mgmt) : (s.modMgmt f).fe = s.fe := rfl
@[simp] theorem State.modMgmt_pew (f : Mgmt → Mgmt) : (s.modMgmt f).pew = s.pew := rfl
@[simp] theorem State.modMgmt_insts (f : Mgmt → Mgmt) : (s.modMgmt f).insts = s.insts := rfl
@[simp] theorem State.modMgmt_cxl (f : Mgmt → Mgmt) : (s.modMgmt f).cxl = s.cxl := rfl
@[simp] theorem State.modMgmt_rps (f : Mgmt → Mgmt) : (s.modMgmt f).rps = s.rps := rfl
@[simp] theorem State.modMgmt_led (f : Mgmt → Mgmt) : (s.modMgmt f).led = s.led := rfl
@[simp] theorem State.modMgmt_accs (f : Mgmt → Mgmt) : (s.modMgmt f).accs = s.accs := rfl
@[simp] theorem State.modMgmt_abt (f : Mgmt → Mgmt) : (s.modMgmt f).abt = s.abt := rfl
@[simp] theorem State.modMgmt_acnt (f : Mgmt → Mgmt) : (s.modMgmt f).acnt = s.acnt := rfl
@[simp] theorem State.modMgmt_exh (f : Mgmt → Mgmt) : (s.modMgmt f).exh = s.exh := rfl
@[simp] theorem State.modMgmt_promos (f : Mgmt → Mgmt) : (s.modMgmt f).promos = s.promos := rfl
@[simp] theorem State.modMgmt_fabq (f : Mgmt → Mgmt) : (s.modMgmt f).fabq = s.fabq := rfl
@[simp] theorem State.modMgmt_links (f : Mgmt → Mgmt) : (s.modMgmt f).links = s.links := rfl
@[simp] theorem State.modMgmt_inq (f : Mgmt → Mgmt) : (s.modMgmt f).inq = s.inq := rfl
@[simp] theorem State.modMgmt_cseqTx (f : Mgmt → Mgmt) : (s.modMgmt f).cseqTx = s.cseqTx := rfl
@[simp] theorem State.modMgmt_cseqRx (f : Mgmt → Mgmt) : (s.modMgmt f).cseqRx = s.cseqRx := rfl
@[simp] theorem State.modMgmt_cheld (f : Mgmt → Mgmt) : (s.modMgmt f).cheld = s.cheld := rfl
@[simp] theorem State.modMgmt_fwdIn (f : Mgmt → Mgmt) : (s.modMgmt f).fwdIn = s.fwdIn := rfl
@[simp] theorem State.modMgmt_sbWait (f : Mgmt → Mgmt) : (s.modMgmt f).sbWait = s.sbWait := rfl
@[simp] theorem State.modMgmt_sbArr (f : Mgmt → Mgmt) : (s.modMgmt f).sbArr = s.sbArr := rfl
@[simp] theorem State.modMgmt_ftos (f : Mgmt → Mgmt) : (s.modMgmt f).ftos = s.ftos := rfl
@[simp] theorem State.modMgmt_leaving (f : Mgmt → Mgmt) : (s.modMgmt f).leaving = s.leaving := rfl
@[simp] theorem State.modMgmt_mirw (f : Mgmt → Mgmt) : (s.modMgmt f).mirw = s.mirw := rfl
@[simp] theorem State.modMgmt_mirTag (f : Mgmt → Mgmt) : (s.modMgmt f).mirTag = s.mirTag := rfl
@[simp] theorem State.modMgmt_mirIn (f : Mgmt → Mgmt) : (s.modMgmt f).mirIn = s.mirIn := rfl
@[simp] theorem State.modMgmt_qs (f : Mgmt → Mgmt) : (s.modMgmt f).qs = s.qs := rfl
@[simp] theorem State.modMgmt_commits (f : Mgmt → Mgmt) : (s.modMgmt f).commits = s.commits := rfl
@[simp] theorem State.modMgmt_eng (f : Mgmt → Mgmt) : (s.modMgmt f).eng = s.eng := rfl
@[simp] theorem State.modMgmt_ushare (f : Mgmt → Mgmt) : (s.modMgmt f).ushare = s.ushare := rfl
@[simp] theorem State.modMgmt_rops (f : Mgmt → Mgmt) : (s.modMgmt f).rops = s.rops := rfl
@[simp] theorem State.modMgmt_rtag (f : Mgmt → Mgmt) : (s.modMgmt f).rtag = s.rtag := rfl
@[simp] theorem State.modMgmt_kslots (f : Mgmt → Mgmt) : (s.modMgmt f).kslots = s.kslots := rfl
@[simp] theorem State.modMgmt_kbuf (f : Mgmt → Mgmt) : (s.modMgmt f).kbuf = s.kbuf := rfl
@[simp] theorem State.modMgmt_kcmd (f : Mgmt → Mgmt) : (s.modMgmt f).kcmd = s.kcmd := rfl
@[simp] theorem State.modMgmt_cobs (f : Mgmt → Mgmt) : (s.modMgmt f).cobs = s.cobs := rfl
@[simp] theorem State.modMgmt_zns (f : Mgmt → Mgmt) : (s.modMgmt f).zns = s.zns := rfl
@[simp] theorem State.modMgmt_ports (f : Mgmt → Mgmt) : (s.modMgmt f).ports = s.ports := rfl
@[simp] theorem State.modMgmt_cobBytes (f : Mgmt → Mgmt) : (s.modMgmt f).cobBytes = s.cobBytes := rfl
@[simp] theorem State.modMgmt_authF (f : Mgmt → Mgmt) : (s.modMgmt f).authF = s.authF := rfl
@[simp] theorem State.modMgmt_znIn (f : Mgmt → Mgmt) : (s.modMgmt f).znIn = s.znIn := rfl
@[simp] theorem State.modMgmt_znOut (f : Mgmt → Mgmt) : (s.modMgmt f).znOut = s.znOut := rfl
@[simp] theorem State.modMgmt_znErr (f : Mgmt → Mgmt) : (s.modMgmt f).znErr = s.znErr := rfl
@[simp] theorem State.modMgmt_images (f : Mgmt → Mgmt) : (s.modMgmt f).images = s.images := rfl
@[simp] theorem State.modMgmt_imgW (f : Mgmt → Mgmt) : (s.modMgmt f).imgW = s.imgW := rfl
@[simp] theorem State.modMgmt_bpW (f : Mgmt → Mgmt) : (s.modMgmt f).bpW = s.bpW := rfl
@[simp] theorem State.modMgmt_repts (f : Mgmt → Mgmt) : (s.modMgmt f).repts = s.repts := rfl
@[simp] theorem State.modMgmt_rptW (f : Mgmt → Mgmt) : (s.modMgmt f).rptW = s.rptW := rfl
@[simp] theorem State.modMgmt_rptLate (f : Mgmt → Mgmt) : (s.modMgmt f).rptLate = s.rptLate := rfl
@[simp] theorem State.modMgmt_icmd (f : Mgmt → Mgmt) : (s.modMgmt f).icmd = s.icmd := rfl
@[simp] theorem State.modMgmt_rests (f : Mgmt → Mgmt) : (s.modMgmt f).rests = s.rests := rfl
@[simp] theorem State.modMgmt_ifail (f : Mgmt → Mgmt) : (s.modMgmt f).ifail = s.ifail := rfl
@[simp] theorem State.modMgmt_isaved (f : Mgmt → Mgmt) : (s.modMgmt f).isaved = s.isaved := rfl
@[simp] theorem State.modMgmt_irest (f : Mgmt → Mgmt) : (s.modMgmt f).irest = s.irest := rfl
@[simp] theorem State.modMgmt_icont (f : Mgmt → Mgmt) : (s.modMgmt f).icont = s.icont := rfl
@[simp] theorem State.modMgmt_frzTb (f : Mgmt → Mgmt) : (s.modMgmt f).frzTb = s.frzTb := rfl
@[simp] theorem State.modMgmt_snaps (f : Mgmt → Mgmt) : (s.modMgmt f).snaps = s.snaps := rfl
@[simp] theorem State.modMgmt_saved (f : Mgmt → Mgmt) : (s.modMgmt f).saved = s.saved := rfl
@[simp] theorem State.modMgmt_kept (f : Mgmt → Mgmt) : (s.modMgmt f).kept = s.kept := rfl
@[simp] theorem State.modMgmt_bcfg (f : Mgmt → Mgmt) : (s.modMgmt f).bcfg = s.bcfg := rfl
@[simp] theorem State.modMgmt_bprog (f : Mgmt → Mgmt) : (s.modMgmt f).bprog = s.bprog := rfl
@[simp] theorem State.modMgmt_brs (f : Mgmt → Mgmt) : (s.modMgmt f).brs = s.brs := rfl
@[simp] theorem State.modMgmt_vaux (f : Mgmt → Mgmt) : (s.modMgmt f).vaux = s.vaux := rfl
@[simp] theorem State.modMgmt_sel (f : Mgmt → Mgmt) : (s.modMgmt f).sel = s.sel := rfl
@[simp] theorem State.modMgmt_boot (f : Mgmt → Mgmt) : (s.modMgmt f).boot = s.boot := rfl
@[simp] theorem State.modMgmt_rearms (f : Mgmt → Mgmt) : (s.modMgmt f).rearms = s.rearms := rfl
@[simp] theorem State.modMgmt_refLost (f : Mgmt → Mgmt) : (s.modMgmt f).refLost = s.refLost := rfl
@[simp] theorem State.modMgmt_outbox (f : Mgmt → Mgmt) : (s.modMgmt f).outbox = s.outbox := rfl

@[simp] theorem State.modTun_pending (f : Tun → Tun) : (s.modTun f).pending = s.pending := rfl
@[simp] theorem State.modTun_free (f : Tun → Tun) : (s.modTun f).free = s.free := rfl
@[simp] theorem State.modTun_part (f : Tun → Tun) : (s.modTun f).part = s.part := rfl
@[simp] theorem State.modTun_phase (f : Tun → Tun) : (s.modTun f).phase = s.phase := rfl
@[simp] theorem State.modTun_ticks (f : Tun → Tun) : (s.modTun f).ticks = s.ticks := rfl
@[simp] theorem State.modTun_tb (f : Tun → Tun) : (s.modTun f).tb = s.tb := rfl
@[simp] theorem State.modTun_dev (f : Tun → Tun) : (s.modTun f).dev = s.dev := rfl
@[simp] theorem State.modTun_procs (f : Tun → Tun) : (s.modTun f).procs = s.procs := rfl
@[simp] theorem State.modTun_cores (f : Tun → Tun) : (s.modTun f).cores = s.cores := rfl
@[simp] theorem State.modTun_clus (f : Tun → Tun) : (s.modTun f).clus = s.clus := rfl
@[simp] theorem State.modTun_net (f : Tun → Tun) : (s.modTun f).net = s.net := rfl
@[simp] theorem State.modTun_parked (f : Tun → Tun) : (s.modTun f).parked = s.parked := rfl
@[simp] theorem State.modTun_memWait (f : Tun → Tun) : (s.modTun f).memWait = s.memWait := rfl
@[simp] theorem State.modTun_noCmp (f : Tun → Tun) : (s.modTun f).noCmp = s.noCmp := rfl
@[simp] theorem State.modTun_lost (f : Tun → Tun) : (s.modTun f).lost = s.lost := rfl
@[simp] theorem State.modTun_dir (f : Tun → Tun) : (s.modTun f).dir = s.dir := rfl
@[simp] theorem State.modTun_stks (f : Tun → Tun) : (s.modTun f).stks = s.stks := rfl
@[simp] theorem State.modTun_ms (f : Tun → Tun) : (s.modTun f).ms = s.ms := rfl
@[simp] theorem State.modTun_flips (f : Tun → Tun) : (s.modTun f).flips = s.flips := rfl
@[simp] theorem State.modTun_dbits (f : Tun → Tun) : (s.modTun f).dbits = s.dbits := rfl
@[simp] theorem State.modTun_peakD (f : Tun → Tun) : (s.modTun f).peakD = s.peakD := rfl
@[simp] theorem State.modTun_bisnp (f : Tun → Tun) : (s.modTun f).bisnp = s.bisnp := rfl
@[simp] theorem State.modTun_fe (f : Tun → Tun) : (s.modTun f).fe = s.fe := rfl
@[simp] theorem State.modTun_pew (f : Tun → Tun) : (s.modTun f).pew = s.pew := rfl
@[simp] theorem State.modTun_insts (f : Tun → Tun) : (s.modTun f).insts = s.insts := rfl
@[simp] theorem State.modTun_cxl (f : Tun → Tun) : (s.modTun f).cxl = s.cxl := rfl
@[simp] theorem State.modTun_rps (f : Tun → Tun) : (s.modTun f).rps = s.rps := rfl
@[simp] theorem State.modTun_led (f : Tun → Tun) : (s.modTun f).led = s.led := rfl
@[simp] theorem State.modTun_accs (f : Tun → Tun) : (s.modTun f).accs = s.accs := rfl
@[simp] theorem State.modTun_abt (f : Tun → Tun) : (s.modTun f).abt = s.abt := rfl
@[simp] theorem State.modTun_acnt (f : Tun → Tun) : (s.modTun f).acnt = s.acnt := rfl
@[simp] theorem State.modTun_exh (f : Tun → Tun) : (s.modTun f).exh = s.exh := rfl
@[simp] theorem State.modTun_promos (f : Tun → Tun) : (s.modTun f).promos = s.promos := rfl
@[simp] theorem State.modTun_fabq (f : Tun → Tun) : (s.modTun f).fabq = s.fabq := rfl
@[simp] theorem State.modTun_links (f : Tun → Tun) : (s.modTun f).links = s.links := rfl
@[simp] theorem State.modTun_inq (f : Tun → Tun) : (s.modTun f).inq = s.inq := rfl
@[simp] theorem State.modTun_cseqTx (f : Tun → Tun) : (s.modTun f).cseqTx = s.cseqTx := rfl
@[simp] theorem State.modTun_cseqRx (f : Tun → Tun) : (s.modTun f).cseqRx = s.cseqRx := rfl
@[simp] theorem State.modTun_cheld (f : Tun → Tun) : (s.modTun f).cheld = s.cheld := rfl
@[simp] theorem State.modTun_fwdIn (f : Tun → Tun) : (s.modTun f).fwdIn = s.fwdIn := rfl
@[simp] theorem State.modTun_sbWait (f : Tun → Tun) : (s.modTun f).sbWait = s.sbWait := rfl
@[simp] theorem State.modTun_sbArr (f : Tun → Tun) : (s.modTun f).sbArr = s.sbArr := rfl
@[simp] theorem State.modTun_ftos (f : Tun → Tun) : (s.modTun f).ftos = s.ftos := rfl
@[simp] theorem State.modTun_leaving (f : Tun → Tun) : (s.modTun f).leaving = s.leaving := rfl
@[simp] theorem State.modTun_mirw (f : Tun → Tun) : (s.modTun f).mirw = s.mirw := rfl
@[simp] theorem State.modTun_mirTag (f : Tun → Tun) : (s.modTun f).mirTag = s.mirTag := rfl
@[simp] theorem State.modTun_mirIn (f : Tun → Tun) : (s.modTun f).mirIn = s.mirIn := rfl
@[simp] theorem State.modTun_qs (f : Tun → Tun) : (s.modTun f).qs = s.qs := rfl
@[simp] theorem State.modTun_commits (f : Tun → Tun) : (s.modTun f).commits = s.commits := rfl
@[simp] theorem State.modTun_eng (f : Tun → Tun) : (s.modTun f).eng = s.eng := rfl
@[simp] theorem State.modTun_ushare (f : Tun → Tun) : (s.modTun f).ushare = s.ushare := rfl
@[simp] theorem State.modTun_rops (f : Tun → Tun) : (s.modTun f).rops = s.rops := rfl
@[simp] theorem State.modTun_rtag (f : Tun → Tun) : (s.modTun f).rtag = s.rtag := rfl
@[simp] theorem State.modTun_kslots (f : Tun → Tun) : (s.modTun f).kslots = s.kslots := rfl
@[simp] theorem State.modTun_kbuf (f : Tun → Tun) : (s.modTun f).kbuf = s.kbuf := rfl
@[simp] theorem State.modTun_kcmd (f : Tun → Tun) : (s.modTun f).kcmd = s.kcmd := rfl
@[simp] theorem State.modTun_cobs (f : Tun → Tun) : (s.modTun f).cobs = s.cobs := rfl
@[simp] theorem State.modTun_zns (f : Tun → Tun) : (s.modTun f).zns = s.zns := rfl
@[simp] theorem State.modTun_ports (f : Tun → Tun) : (s.modTun f).ports = s.ports := rfl
@[simp] theorem State.modTun_cobBytes (f : Tun → Tun) : (s.modTun f).cobBytes = s.cobBytes := rfl
@[simp] theorem State.modTun_authF (f : Tun → Tun) : (s.modTun f).authF = s.authF := rfl
@[simp] theorem State.modTun_znIn (f : Tun → Tun) : (s.modTun f).znIn = s.znIn := rfl
@[simp] theorem State.modTun_znOut (f : Tun → Tun) : (s.modTun f).znOut = s.znOut := rfl
@[simp] theorem State.modTun_znErr (f : Tun → Tun) : (s.modTun f).znErr = s.znErr := rfl
@[simp] theorem State.modTun_images (f : Tun → Tun) : (s.modTun f).images = s.images := rfl
@[simp] theorem State.modTun_imgW (f : Tun → Tun) : (s.modTun f).imgW = s.imgW := rfl
@[simp] theorem State.modTun_bpW (f : Tun → Tun) : (s.modTun f).bpW = s.bpW := rfl
@[simp] theorem State.modTun_repts (f : Tun → Tun) : (s.modTun f).repts = s.repts := rfl
@[simp] theorem State.modTun_rptW (f : Tun → Tun) : (s.modTun f).rptW = s.rptW := rfl
@[simp] theorem State.modTun_rptLate (f : Tun → Tun) : (s.modTun f).rptLate = s.rptLate := rfl
@[simp] theorem State.modTun_icmd (f : Tun → Tun) : (s.modTun f).icmd = s.icmd := rfl
@[simp] theorem State.modTun_rests (f : Tun → Tun) : (s.modTun f).rests = s.rests := rfl
@[simp] theorem State.modTun_ifail (f : Tun → Tun) : (s.modTun f).ifail = s.ifail := rfl
@[simp] theorem State.modTun_isaved (f : Tun → Tun) : (s.modTun f).isaved = s.isaved := rfl
@[simp] theorem State.modTun_irest (f : Tun → Tun) : (s.modTun f).irest = s.irest := rfl
@[simp] theorem State.modTun_icont (f : Tun → Tun) : (s.modTun f).icont = s.icont := rfl
@[simp] theorem State.modTun_frzTb (f : Tun → Tun) : (s.modTun f).frzTb = s.frzTb := rfl
@[simp] theorem State.modTun_snaps (f : Tun → Tun) : (s.modTun f).snaps = s.snaps := rfl
@[simp] theorem State.modTun_saved (f : Tun → Tun) : (s.modTun f).saved = s.saved := rfl
@[simp] theorem State.modTun_kept (f : Tun → Tun) : (s.modTun f).kept = s.kept := rfl
@[simp] theorem State.modTun_bcfg (f : Tun → Tun) : (s.modTun f).bcfg = s.bcfg := rfl
@[simp] theorem State.modTun_bprog (f : Tun → Tun) : (s.modTun f).bprog = s.bprog := rfl
@[simp] theorem State.modTun_brs (f : Tun → Tun) : (s.modTun f).brs = s.brs := rfl
@[simp] theorem State.modTun_mgmt (f : Tun → Tun) : (s.modTun f).mgmt = s.mgmt := rfl
@[simp] theorem State.modTun_vaux (f : Tun → Tun) : (s.modTun f).vaux = s.vaux := rfl
@[simp] theorem State.modTun_sel (f : Tun → Tun) : (s.modTun f).sel = s.sel := rfl
@[simp] theorem State.modTun_boot (f : Tun → Tun) : (s.modTun f).boot = s.boot := rfl
@[simp] theorem State.modTun_rearms (f : Tun → Tun) : (s.modTun f).rearms = s.rearms := rfl
@[simp] theorem State.modTun_refLost (f : Tun → Tun) : (s.modTun f).refLost = s.refLost := rfl
@[simp] theorem State.modTun_outbox (f : Tun → Tun) : (s.modTun f).outbox = s.outbox := rfl

@[simp] theorem State.modBrs_pending (f : Brass → Brass) : (s.modBrs f).pending = s.pending := rfl
@[simp] theorem State.modBrs_free (f : Brass → Brass) : (s.modBrs f).free = s.free := rfl
@[simp] theorem State.modBrs_part (f : Brass → Brass) : (s.modBrs f).part = s.part := rfl
@[simp] theorem State.modBrs_phase (f : Brass → Brass) : (s.modBrs f).phase = s.phase := rfl
@[simp] theorem State.modBrs_ticks (f : Brass → Brass) : (s.modBrs f).ticks = s.ticks := rfl
@[simp] theorem State.modBrs_tb (f : Brass → Brass) : (s.modBrs f).tb = s.tb := rfl
@[simp] theorem State.modBrs_dev (f : Brass → Brass) : (s.modBrs f).dev = s.dev := rfl
@[simp] theorem State.modBrs_procs (f : Brass → Brass) : (s.modBrs f).procs = s.procs := rfl
@[simp] theorem State.modBrs_cores (f : Brass → Brass) : (s.modBrs f).cores = s.cores := rfl
@[simp] theorem State.modBrs_clus (f : Brass → Brass) : (s.modBrs f).clus = s.clus := rfl
@[simp] theorem State.modBrs_net (f : Brass → Brass) : (s.modBrs f).net = s.net := rfl
@[simp] theorem State.modBrs_parked (f : Brass → Brass) : (s.modBrs f).parked = s.parked := rfl
@[simp] theorem State.modBrs_memWait (f : Brass → Brass) : (s.modBrs f).memWait = s.memWait := rfl
@[simp] theorem State.modBrs_noCmp (f : Brass → Brass) : (s.modBrs f).noCmp = s.noCmp := rfl
@[simp] theorem State.modBrs_lost (f : Brass → Brass) : (s.modBrs f).lost = s.lost := rfl
@[simp] theorem State.modBrs_dir (f : Brass → Brass) : (s.modBrs f).dir = s.dir := rfl
@[simp] theorem State.modBrs_stks (f : Brass → Brass) : (s.modBrs f).stks = s.stks := rfl
@[simp] theorem State.modBrs_ms (f : Brass → Brass) : (s.modBrs f).ms = s.ms := rfl
@[simp] theorem State.modBrs_flips (f : Brass → Brass) : (s.modBrs f).flips = s.flips := rfl
@[simp] theorem State.modBrs_dbits (f : Brass → Brass) : (s.modBrs f).dbits = s.dbits := rfl
@[simp] theorem State.modBrs_peakD (f : Brass → Brass) : (s.modBrs f).peakD = s.peakD := rfl
@[simp] theorem State.modBrs_bisnp (f : Brass → Brass) : (s.modBrs f).bisnp = s.bisnp := rfl
@[simp] theorem State.modBrs_tun (f : Brass → Brass) : (s.modBrs f).tun = s.tun := rfl
@[simp] theorem State.modBrs_fe (f : Brass → Brass) : (s.modBrs f).fe = s.fe := rfl
@[simp] theorem State.modBrs_pew (f : Brass → Brass) : (s.modBrs f).pew = s.pew := rfl
@[simp] theorem State.modBrs_insts (f : Brass → Brass) : (s.modBrs f).insts = s.insts := rfl
@[simp] theorem State.modBrs_cxl (f : Brass → Brass) : (s.modBrs f).cxl = s.cxl := rfl
@[simp] theorem State.modBrs_rps (f : Brass → Brass) : (s.modBrs f).rps = s.rps := rfl
@[simp] theorem State.modBrs_led (f : Brass → Brass) : (s.modBrs f).led = s.led := rfl
@[simp] theorem State.modBrs_accs (f : Brass → Brass) : (s.modBrs f).accs = s.accs := rfl
@[simp] theorem State.modBrs_abt (f : Brass → Brass) : (s.modBrs f).abt = s.abt := rfl
@[simp] theorem State.modBrs_acnt (f : Brass → Brass) : (s.modBrs f).acnt = s.acnt := rfl
@[simp] theorem State.modBrs_exh (f : Brass → Brass) : (s.modBrs f).exh = s.exh := rfl
@[simp] theorem State.modBrs_promos (f : Brass → Brass) : (s.modBrs f).promos = s.promos := rfl
@[simp] theorem State.modBrs_fabq (f : Brass → Brass) : (s.modBrs f).fabq = s.fabq := rfl
@[simp] theorem State.modBrs_links (f : Brass → Brass) : (s.modBrs f).links = s.links := rfl
@[simp] theorem State.modBrs_inq (f : Brass → Brass) : (s.modBrs f).inq = s.inq := rfl
@[simp] theorem State.modBrs_cseqTx (f : Brass → Brass) : (s.modBrs f).cseqTx = s.cseqTx := rfl
@[simp] theorem State.modBrs_cseqRx (f : Brass → Brass) : (s.modBrs f).cseqRx = s.cseqRx := rfl
@[simp] theorem State.modBrs_cheld (f : Brass → Brass) : (s.modBrs f).cheld = s.cheld := rfl
@[simp] theorem State.modBrs_fwdIn (f : Brass → Brass) : (s.modBrs f).fwdIn = s.fwdIn := rfl
@[simp] theorem State.modBrs_sbWait (f : Brass → Brass) : (s.modBrs f).sbWait = s.sbWait := rfl
@[simp] theorem State.modBrs_sbArr (f : Brass → Brass) : (s.modBrs f).sbArr = s.sbArr := rfl
@[simp] theorem State.modBrs_ftos (f : Brass → Brass) : (s.modBrs f).ftos = s.ftos := rfl
@[simp] theorem State.modBrs_leaving (f : Brass → Brass) : (s.modBrs f).leaving = s.leaving := rfl
@[simp] theorem State.modBrs_mirw (f : Brass → Brass) : (s.modBrs f).mirw = s.mirw := rfl
@[simp] theorem State.modBrs_mirTag (f : Brass → Brass) : (s.modBrs f).mirTag = s.mirTag := rfl
@[simp] theorem State.modBrs_mirIn (f : Brass → Brass) : (s.modBrs f).mirIn = s.mirIn := rfl
@[simp] theorem State.modBrs_qs (f : Brass → Brass) : (s.modBrs f).qs = s.qs := rfl
@[simp] theorem State.modBrs_commits (f : Brass → Brass) : (s.modBrs f).commits = s.commits := rfl
@[simp] theorem State.modBrs_eng (f : Brass → Brass) : (s.modBrs f).eng = s.eng := rfl
@[simp] theorem State.modBrs_ushare (f : Brass → Brass) : (s.modBrs f).ushare = s.ushare := rfl
@[simp] theorem State.modBrs_rops (f : Brass → Brass) : (s.modBrs f).rops = s.rops := rfl
@[simp] theorem State.modBrs_rtag (f : Brass → Brass) : (s.modBrs f).rtag = s.rtag := rfl
@[simp] theorem State.modBrs_kslots (f : Brass → Brass) : (s.modBrs f).kslots = s.kslots := rfl
@[simp] theorem State.modBrs_kbuf (f : Brass → Brass) : (s.modBrs f).kbuf = s.kbuf := rfl
@[simp] theorem State.modBrs_kcmd (f : Brass → Brass) : (s.modBrs f).kcmd = s.kcmd := rfl
@[simp] theorem State.modBrs_cobs (f : Brass → Brass) : (s.modBrs f).cobs = s.cobs := rfl
@[simp] theorem State.modBrs_zns (f : Brass → Brass) : (s.modBrs f).zns = s.zns := rfl
@[simp] theorem State.modBrs_ports (f : Brass → Brass) : (s.modBrs f).ports = s.ports := rfl
@[simp] theorem State.modBrs_cobBytes (f : Brass → Brass) : (s.modBrs f).cobBytes = s.cobBytes := rfl
@[simp] theorem State.modBrs_authF (f : Brass → Brass) : (s.modBrs f).authF = s.authF := rfl
@[simp] theorem State.modBrs_znIn (f : Brass → Brass) : (s.modBrs f).znIn = s.znIn := rfl
@[simp] theorem State.modBrs_znOut (f : Brass → Brass) : (s.modBrs f).znOut = s.znOut := rfl
@[simp] theorem State.modBrs_znErr (f : Brass → Brass) : (s.modBrs f).znErr = s.znErr := rfl
@[simp] theorem State.modBrs_images (f : Brass → Brass) : (s.modBrs f).images = s.images := rfl
@[simp] theorem State.modBrs_imgW (f : Brass → Brass) : (s.modBrs f).imgW = s.imgW := rfl
@[simp] theorem State.modBrs_bpW (f : Brass → Brass) : (s.modBrs f).bpW = s.bpW := rfl
@[simp] theorem State.modBrs_repts (f : Brass → Brass) : (s.modBrs f).repts = s.repts := rfl
@[simp] theorem State.modBrs_rptW (f : Brass → Brass) : (s.modBrs f).rptW = s.rptW := rfl
@[simp] theorem State.modBrs_rptLate (f : Brass → Brass) : (s.modBrs f).rptLate = s.rptLate := rfl
@[simp] theorem State.modBrs_icmd (f : Brass → Brass) : (s.modBrs f).icmd = s.icmd := rfl
@[simp] theorem State.modBrs_rests (f : Brass → Brass) : (s.modBrs f).rests = s.rests := rfl
@[simp] theorem State.modBrs_ifail (f : Brass → Brass) : (s.modBrs f).ifail = s.ifail := rfl
@[simp] theorem State.modBrs_isaved (f : Brass → Brass) : (s.modBrs f).isaved = s.isaved := rfl
@[simp] theorem State.modBrs_irest (f : Brass → Brass) : (s.modBrs f).irest = s.irest := rfl
@[simp] theorem State.modBrs_icont (f : Brass → Brass) : (s.modBrs f).icont = s.icont := rfl
@[simp] theorem State.modBrs_frzTb (f : Brass → Brass) : (s.modBrs f).frzTb = s.frzTb := rfl
@[simp] theorem State.modBrs_snaps (f : Brass → Brass) : (s.modBrs f).snaps = s.snaps := rfl
@[simp] theorem State.modBrs_saved (f : Brass → Brass) : (s.modBrs f).saved = s.saved := rfl
@[simp] theorem State.modBrs_kept (f : Brass → Brass) : (s.modBrs f).kept = s.kept := rfl
@[simp] theorem State.modBrs_bcfg (f : Brass → Brass) : (s.modBrs f).bcfg = s.bcfg := rfl
@[simp] theorem State.modBrs_bprog (f : Brass → Brass) : (s.modBrs f).bprog = s.bprog := rfl
@[simp] theorem State.modBrs_mgmt (f : Brass → Brass) : (s.modBrs f).mgmt = s.mgmt := rfl
@[simp] theorem State.modBrs_vaux (f : Brass → Brass) : (s.modBrs f).vaux = s.vaux := rfl
@[simp] theorem State.modBrs_sel (f : Brass → Brass) : (s.modBrs f).sel = s.sel := rfl
@[simp] theorem State.modBrs_boot (f : Brass → Brass) : (s.modBrs f).boot = s.boot := rfl
@[simp] theorem State.modBrs_rearms (f : Brass → Brass) : (s.modBrs f).rearms = s.rearms := rfl
@[simp] theorem State.modBrs_refLost (f : Brass → Brass) : (s.modBrs f).refLost = s.refLost := rfl
@[simp] theorem State.modBrs_outbox (f : Brass → Brass) : (s.modBrs f).outbox = s.outbox := rfl

end Sys2Proof.Machine
end

