-- ==== Sys2Proof/Laws/Events.lean ====
section
/-!
SUPPORT. Recording an event touches the captures, Pewter, interrupt lines and vectors, and nothing else.
-/
namespace Sys2Proof.Machine

open Sys2Proof

theorem EventOnly.refl (s : State) : EventOnly s s := rfl

theorem EventOnly.trans {s t u : State} (h : EventOnly s t) (g : EventOnly t u) : EventOnly s u := by
  unfold EventOnly at *; rw [g, h]

theorem EventOnly.sg (s : State) (a : Nat) (v d : Word) : EventOnly s (s.sg a v d) := rfl
theorem EventOnly.setFe (s : State) (b : Nat) (f : Fe) : EventOnly s (s.setFe b f) := rfl
theorem EventOnly.out (s : State) (o : Out) : EventOnly s (s.out o) := rfl

theorem EventOnly.pend (s : State) (k l : Nat) : EventOnly s (s.pend k l) := by
  unfold State.pend; (repeat' split) <;> rfl

theorem EventOnly.raise (s : State) (a : Nat) : EventOnly s (s.raise a) := by
  unfold State.raise; dsimp only; split
  · exact EventOnly.pend s _ _
  · rfl

theorem EventOnly.msix (s : State) (f v : Nat) : EventOnly s (s.msix f v) := by
  unfold State.msix; dsimp only; split <;> rfl

theorem EventOnly.raiseFlt (s : State) : EventOnly s s.raiseFlt := by
  unfold State.raiseFlt; dsimp only; split
  · exact (EventOnly.raise s _).trans (EventOnly.msix _ _ _)
  · exact EventOnly.raise s _

theorem EventOnly.capture (s : State) (e : Ev) : EventOnly s (s.capture e) := by
  unfold State.capture
  split
  · rfl
  · split
    · rfl
    · dsimp only; split
      · split
        · exact (EventOnly.setFe s _ _).trans (EventOnly.raiseFlt _)
        · rfl
      · rfl

theorem EventOnly.pewter (s : State) (e : Ev) : EventOnly s (s.pewter e) := by
  unfold State.pewter; dsimp only; split <;> rfl

/-- What recording an event can do (R475, R489). -/
theorem EventOnly.event (s : State) (e : Ev) : EventOnly s (s.event e) := (EventOnly.capture s e).trans (EventOnly.pewter _ e)

end Sys2Proof.Machine
end

