-- ==== Sys2Proof/Laws/Sparse.lean ====
section
/-!
SUPPORT. Reading a sparse table after a write, and the canonical form.
-/
namespace Sys2Proof.Machine

open Sys2Proof

theorem spGet_spIns_same {α : Type} (m : Sp α) (k : Nat) (v : α) : spGet (spIns m k v) k = some v := by
  induction m with
  | nil => simp [spIns, spGet]
  | cons x m ih =>
    obtain ⟨j, w⟩ := x
    unfold spIns
    split
    · simp [spGet]
    · split
      · simp [spGet]
      · rename_i h1 h2
        simp [spGet, ih, Ne.symm h2]

theorem spGet_spIns_ne {α : Type} (m : Sp α) {k j : Nat} (v : α) (h : j ≠ k) : spGet (spIns m k v) j = spGet m j := by
  induction m with
  | nil => simp [spIns, spGet, Ne.symm h]
  | cons x m ih =>
    obtain ⟨i, w⟩ := x
    unfold spIns
    split
    · simp [spGet, Ne.symm h]
    · split
      · rename_i h1 h2
        subst h2
        simp [spGet, Ne.symm h]
      · simp [spGet, ih]

/-- A table's bound may be lowered. -/
theorem spRising_mono {α : Type} (m : Sp α) (lo hi : Nat) (hl : lo ≤ hi) (h : spRising (some hi) m = true) :
    spRising (some lo) m = true := by
  cases m with
  | nil => rfl
  | cons x m =>
    simp only [spRising, Bool.and_eq_true, decide_eq_true_eq] at h ⊢
    exact ⟨by omega, h.2⟩

theorem spRising_none {α : Type} (m : Sp α) (lo : Nat) (h : spRising (some lo) m = true) : spRising none m = true := by
  cases m with
  | nil => rfl
  | cons x m => simp_all [spRising]

theorem spGet_spDel_same {α : Type} (m : Sp α) (k : Nat) : spGet (spDel m k) k = none := by
  induction m with
  | nil => rfl
  | cons x m ih =>
    obtain ⟨j, w⟩ := x
    unfold spDel
    split
    · exact ih
    · rename_i hj
      simpa [spGet, hj] using ih

theorem spGet_spDel_ne {α : Type} (m : Sp α) {k j : Nat} (h : j ≠ k) : spGet (spDel m k) j = spGet m j := by
  induction m with
  | nil => rfl
  | cons x m ih =>
    obtain ⟨i, w⟩ := x
    unfold spDel
    split
    · rename_i hi
      subst hi
      simp [spGet, Ne.symm h, ih]
    · simp [spGet, ih]

/-- Insertion keeps the keys rising. -/
theorem spRising_spIns {α : Type} (lo : Option Nat) (m : Sp α) (k : Nat) (v : α) (h : spRising lo m = true)
    (hk : ∀ l, lo = some l → l < k) : spRising lo (spIns m k v) = true := by
  induction m generalizing lo with
  | nil =>
    cases lo with
    | none => simp [spIns, spRising]
    | some l => simp [spIns, spRising, hk l rfl]
  | cons x m ih =>
    obtain ⟨j, w⟩ := x
    have hr := h
    simp only [spRising, Bool.and_eq_true] at hr
    unfold spIns
    split
    · rename_i hkj
      cases lo with
      | none => simp [spRising, hkj, hr.2]
      | some l => simp [spRising, hkj, hr.2, hk l rfl]
    · split
      · rename_i hkj
        subst hkj
        cases lo with
        | none => simp [spRising, hr.2]
        | some l => simp [spRising, hr.2, hk l rfl]
      · have := ih (some j) hr.2 (by intro l hl; cases hl; omega)
        cases lo with
        | none => simp [spRising, this]
        | some l =>
          simp only [spRising, Bool.and_eq_true]
          exact ⟨hr.1, this⟩

/-- Deletion keeps the keys rising. -/
theorem spRising_spDel {α : Type} (lo : Option Nat) (m : Sp α) (k : Nat) (h : spRising lo m = true) : spRising lo (spDel m k) = true := by
  induction m generalizing lo with
  | nil => exact h
  | cons x m ih =>
    obtain ⟨j, w⟩ := x
    simp only [spRising, Bool.and_eq_true] at h
    unfold spDel
    split
    · apply ih
      cases lo with
      | none => exact spRising_none m j h.2
      | some l =>
        simp only [decide_eq_true_eq] at h
        exact spRising_mono m l j (by omega) h.2
    · simp only [spRising, Bool.and_eq_true]
      exact ⟨h.1, ih _ h.2⟩

theorem spNoDefault_spIns {α : Type} [DecidableEq α] (d : α) (m : Sp α) (k : Nat) (v : α) (hv : v ≠ d) (h : spNoDefault d m = true) :
    spNoDefault d (spIns m k v) = true := by
  induction m with
  | nil => simp [spIns, spNoDefault, hv]
  | cons x m ih =>
    obtain ⟨j, w⟩ := x
    simp only [spNoDefault, Bool.and_eq_true] at h
    unfold spIns
    split
    · simp [spNoDefault, hv, h]
    · split
      · simp [spNoDefault, hv, h]
      · simp [spNoDefault, h, ih h.2]

theorem spNoDefault_spDel {α : Type} [DecidableEq α] (d : α) (m : Sp α) (k : Nat) (h : spNoDefault d m = true) :
    spNoDefault d (spDel m k) = true := by
  induction m with
  | nil => exact h
  | cons x m ih =>
    obtain ⟨j, w⟩ := x
    simp only [spNoDefault, Bool.and_eq_true] at h
    unfold spDel
    split
    · exact ih h.2
    · simp [spNoDefault, h, ih h.2]

theorem spGetD_spPut_ne {α : Type} [DecidableEq α] (d : α) (m : Sp α) {k j : Nat} (v : α) (h : j ≠ k) :
    spGetD d (spPut d m k v) j = spGetD d m j := by
  unfold spPut spGetD
  split
  · rw [spGet_spDel_ne m h]
  · rw [spGet_spIns_ne m v h]

/-- What was put is read. -/
theorem spGetD_spPut_same {α : Type} [DecidableEq α] (d : α) (m : Sp α) (k : Nat) (v : α) : spGetD d (spPut d m k v) k = v := by
  unfold spPut spGetD
  split
  · rename_i hv
    rw [spGet_spDel_same m k, hv]
    rfl
  · rw [spGet_spIns_same]
    rfl

theorem spRising_spPut {α : Type} [DecidableEq α] (d : α) (m : Sp α) (k : Nat) (v : α) (h : spRising none m = true) :
    spRising none (spPut d m k v) = true := by
  unfold spPut
  split
  · exact spRising_spDel none m k h
  · exact spRising_spIns none m k v h (by simp)

theorem spNoDefault_spPut {α : Type} [DecidableEq α] (d : α) (m : Sp α) (k : Nat) (v : α) (h : spNoDefault d m = true) :
    spNoDefault d (spPut d m k v) = true := by
  unfold spPut
  split
  · exact spNoDefault_spDel d m k h
  · rename_i hv
    exact spNoDefault_spIns d m k v hv h

end Sys2Proof.Machine
end

