-- ==== Sys2Proof/Laws/Dev.lean ====
section
/-!
SUPPORT. Registers of device space: what one reads after a write, and that an event changes none but interrupt lines.
-/
namespace Sys2Proof.Machine

open Sys2Proof

@[simp] theorem State.rg_sg_same (s : State) (a : Nat) (v d : Word) : (s.sg a v d).rg a d = v := spGetD_spPut_same d s.dev a v

theorem State.rg_sg_ne (s : State) {a b : Nat} (v d e : Word) (h : b ≠ a) : (s.sg a v d).rg b e = s.rg b e := by
  unfold State.rg State.sg
  simp only [spGetD, spPut]
  split
  · rw [spGet_spDel_ne _ h]
  · rw [spGet_spIns_ne _ _ h]

/-- An offset that is no interrupt line's register (R138). -/
def OffLine (a : Nat) : Prop := ∀ k j, k < 8 → j < 48 → a ≠ aClu k (0x100 + 8 * j)

theorem OffLine.high {a : Nat} (h : 0x21C280 ≤ a) : OffLine a := by
  intro k j hk hj; unfold aClu; omega

theorem OffLine.low {a : Nat} (h : a < 0x200000) : OffLine a := by
  intro k j hk hj; unfold aClu; omega

theorem hasClu_lt {s : State} {k : Nat} (h : s.hasClu k = true) : k < 8 := by
  unfold State.hasClu at h
  have : s.part.clusters ≤ 8 := by cases s.part <;> decide
  have := of_decide_eq_true h
  omega

theorem State.rg_pend (s : State) (k l : Nat) {a : Nat} (d : Word) (h : OffLine a) : (s.pend k l).rg a d = s.rg a d := by
  unfold State.pend
  split
  · rename_i c
    exact State.rg_sg_ne s _ _ _ (h k l (hasClu_lt c.1) c.2)
  · rfl

theorem State.rg_raise (s : State) (b : Nat) {a : Nat} (d : Word) (h : OffLine a) : (s.raise b).rg a d = s.rg a d := by
  unfold State.raise; dsimp only; split
  · exact State.rg_pend s _ _ d h
  · rfl

theorem State.rg_msix (s : State) (f v : Nat) (a : Nat) (d : Word) : (s.msix f v).rg a d = s.rg a d := by
  unfold State.msix; dsimp only; split <;> rfl

theorem State.rg_raiseFlt (s : State) {a : Nat} (d : Word) (h : OffLine a) : s.raiseFlt.rg a d = s.rg a d := by
  unfold State.raiseFlt; dsimp only; split
  · rw [State.rg_msix, State.rg_raise s _ d h]
  · exact State.rg_raise s _ d h

/-- An event leaves every register of device space but interrupt lines as it was. -/
theorem State.rg_event (s : State) (e : Ev) {a : Nat} (d : Word) (h : OffLine a) : (s.event e).rg a d = s.rg a d := by
  have p : ∀ t : State, (t.pewter e).rg a d = t.rg a d := by
    intro t; unfold State.pewter; dsimp only; split <;> rfl
  unfold State.event
  rw [p]
  unfold State.capture
  split
  · rfl
  · split
    · rfl
    · dsimp only; split
      · split
        · rw [State.rg_raiseFlt _ d h]; rfl
        · rfl
      · rfl

end Sys2Proof.Machine
end

