-- ==== Sys2Proof/Laws/Exec.lean ====
section
/-!
SUPPORT. Each command's meaning by name: so that no proof unfolds the dispatch of all of them.
-/
namespace Sys2Proof.Machine

open Sys2Proof

variable (s : State)

@[simp] theorem exec_add (p : BitVec 6) (f : RR) : exec (.add p f) s = execAdd p f s := rfl
@[simp] theorem exec_addu (p : BitVec 6) (f : RR) : exec (.addu p f) s = execAddu p f s := rfl
@[simp] theorem exec_sub (p : BitVec 6) (f : RR) : exec (.sub p f) s = execSub p f s := rfl
@[simp] theorem exec_subu (p : BitVec 6) (f : RR) : exec (.subu p f) s = execSubu p f s := rfl
@[simp] theorem exec_neg (p : BitVec 6) (f : RR) : exec (.neg p f) s = execNeg p f s := rfl
@[simp] theorem exec_and (p : BitVec 6) (f : RR) : exec (.and p f) s = execAnd p f s := rfl
@[simp] theorem exec_or (p : BitVec 6) (f : RR) : exec (.or p f) s = execOr p f s := rfl
@[simp] theorem exec_xor (p : BitVec 6) (f : RR) : exec (.xor p f) s = execXor p f s := rfl
@[simp] theorem exec_andn (p : BitVec 6) (f : RR) : exec (.andn p f) s = execAndn p f s := rfl
@[simp] theorem exec_nor (p : BitVec 6) (f : RR) : exec (.nor p f) s = execNor p f s := rfl
@[simp] theorem exec_slt (p : BitVec 6) (f : RR) : exec (.slt p f) s = execSlt p f s := rfl
@[simp] theorem exec_sltu (p : BitVec 6) (f : RR) : exec (.sltu p f) s = execSltu p f s := rfl
@[simp] theorem exec_shl (p : BitVec 6) (f : RR) : exec (.shl p f) s = execShl p f s := rfl
@[simp] theorem exec_shr (p : BitVec 6) (f : RR) : exec (.shr p f) s = execShr p f s := rfl
@[simp] theorem exec_sar (p : BitVec 6) (f : RR) : exec (.sar p f) s = execSar p f s := rfl
@[simp] theorem exec_ror (p : BitVec 6) (f : RR) : exec (.ror p f) s = execRor p f s := rfl
@[simp] theorem exec_rol (p : BitVec 6) (f : RR) : exec (.rol p f) s = execRol p f s := rfl
@[simp] theorem exec_addi (p : BitVec 6) (f : RI) : exec (.addi p f) s = execAddi p f s := rfl
@[simp] theorem exec_addiu (p : BitVec 6) (f : RI) : exec (.addiu p f) s = execAddiu p f s := rfl
@[simp] theorem exec_slti (p : BitVec 6) (f : RI) : exec (.slti p f) s = execSlti p f s := rfl
@[simp] theorem exec_sltiu (p : BitVec 6) (f : RI) : exec (.sltiu p f) s = execSltiu p f s := rfl
@[simp] theorem exec_andi (p : BitVec 6) (f : RI) : exec (.andi p f) s = execAndi p f s := rfl
@[simp] theorem exec_ori (p : BitVec 6) (f : RI) : exec (.ori p f) s = execOri p f s := rfl
@[simp] theorem exec_xori (p : BitVec 6) (f : RI) : exec (.xori p f) s = execXori p f s := rfl
@[simp] theorem exec_lhi (p : BitVec 6) (f : RI) : exec (.lhi p f) s = execLhi p f s := rfl
@[simp] theorem exec_shli (p : BitVec 6) (f : RI) : exec (.shli p f) s = execShli p f s := rfl
@[simp] theorem exec_shri (p : BitVec 6) (f : RI) : exec (.shri p f) s = execShri p f s := rfl
@[simp] theorem exec_sari (p : BitVec 6) (f : RI) : exec (.sari p f) s = execSari p f s := rfl
@[simp] theorem exec_rori (p : BitVec 6) (f : RI) : exec (.rori p f) s = execRori p f s := rfl
@[simp] theorem exec_mul (p : BitVec 6) (f : RR) : exec (.mul p f) s = execMul p f s := rfl
@[simp] theorem exec_mulh (p : BitVec 6) (f : RR) : exec (.mulh p f) s = execMulh p f s := rfl
@[simp] theorem exec_mulhu (p : BitVec 6) (f : RR) : exec (.mulhu p f) s = execMulhu p f s := rfl
@[simp] theorem exec_div (p : BitVec 6) (f : RR) : exec (.div p f) s = execDiv p f s := rfl
@[simp] theorem exec_divu (p : BitVec 6) (f : RR) : exec (.divu p f) s = execDivu p f s := rfl
@[simp] theorem exec_rem (p : BitVec 6) (f : RR) : exec (.rem p f) s = execRem p f s := rfl
@[simp] theorem exec_remu (p : BitVec 6) (f : RR) : exec (.remu p f) s = execRemu p f s := rfl
@[simp] theorem exec_longResultComplete (p : BitVec 6) (n : Nat) : exec (.longResultComplete p n) s = execLongResultComplete p n s := rfl
@[simp] theorem exec_lb (p : BitVec 6) (f : MF) : exec (.lb p f) s = execLb p f s := rfl
@[simp] theorem exec_lbu (p : BitVec 6) (f : MF) : exec (.lbu p f) s = execLbu p f s := rfl
@[simp] theorem exec_lh (p : BitVec 6) (f : MF) : exec (.lh p f) s = execLh p f s := rfl
@[simp] theorem exec_lhu (p : BitVec 6) (f : MF) : exec (.lhu p f) s = execLhu p f s := rfl
@[simp] theorem exec_lw (p : BitVec 6) (f : MF) : exec (.lw p f) s = execLw p f s := rfl
@[simp] theorem exec_lfs (p : BitVec 6) (f : MF) : exec (.lfs p f) s = execLfs p f s := rfl
@[simp] theorem exec_lfd (p : BitVec 6) (f : MF) : exec (.lfd p f) s = execLfd p f s := rfl
@[simp] theorem exec_sb (p : BitVec 6) (f : MF) : exec (.sb p f) s = execSb p f s := rfl
@[simp] theorem exec_sh (p : BitVec 6) (f : MF) : exec (.sh p f) s = execSh p f s := rfl
@[simp] theorem exec_sw (p : BitVec 6) (f : MF) : exec (.sw p f) s = execSw p f s := rfl
@[simp] theorem exec_sfs (p : BitVec 6) (f : MF) : exec (.sfs p f) s = execSfs p f s := rfl
@[simp] theorem exec_sfd (p : BitVec 6) (f : MF) : exec (.sfd p f) s = execSfd p f s := rfl
@[simp] theorem exec_loadDataArrival (p : BitVec 6) (n : Nat) (ext : List Byte) (pois : Bool) : exec (.loadDataArrival p n ext pois) s = execLoadDataArrival p n ext pois s := rfl
@[simp] theorem exec_llw (p : BitVec 6) (f : MF) : exec (.llw p f) s = execLlw p f s := rfl
@[simp] theorem exec_scw (p : BitVec 6) (f : MF) : exec (.scw p f) s = execScw p f s := rfl
@[simp] theorem exec_stnt (p : BitVec 6) (f : MF) : exec (.stnt p f) s = execStnt p f s := rfl
@[simp] theorem exec_bc (p : BitVec 6) (f : BF) : exec (.bc p f) s = execBc p f s := rfl
@[simp] theorem exec_call (p : BitVec 6) (f : BF) : exec (.call p f) s = execCall p f s := rfl
@[simp] theorem exec_jr (p : BitVec 6) (f : RRF) : exec (.jr p f) s = execJr p f s := rfl
@[simp] theorem exec_fadd (p : BitVec 6) (f : FR) : exec (.fadd p f) s = execFadd p f s := rfl
@[simp] theorem exec_fsub (p : BitVec 6) (f : FR) : exec (.fsub p f) s = execFsub p f s := rfl
@[simp] theorem exec_fmul (p : BitVec 6) (f : FR) : exec (.fmul p f) s = execFmul p f s := rfl
@[simp] theorem exec_fdiv (p : BitVec 6) (f : FR) : exec (.fdiv p f) s = execFdiv p f s := rfl
@[simp] theorem exec_fsqrt (p : BitVec 6) (f : FR) : exec (.fsqrt p f) s = execFsqrt p f s := rfl
@[simp] theorem exec_fneg (p : BitVec 6) (f : FR) : exec (.fneg p f) s = execFneg p f s := rfl
@[simp] theorem exec_fabs (p : BitVec 6) (f : FR) : exec (.fabs p f) s = execFabs p f s := rfl
@[simp] theorem exec_feq (p : BitVec 6) (f : FR) : exec (.feq p f) s = execFeq p f s := rfl
@[simp] theorem exec_flt (p : BitVec 6) (f : FR) : exec (.flt p f) s = execFlt p f s := rfl
@[simp] theorem exec_fle (p : BitVec 6) (f : FR) : exec (.fle p f) s = execFle p f s := rfl
@[simp] theorem exec_funord (p : BitVec 6) (f : FR) : exec (.funord p f) s = execFunord p f s := rfl
@[simp] theorem exec_fcvtP (p : BitVec 6) (f : FR) : exec (.fcvtP p f) s = execFcvtP p f s := rfl
@[simp] theorem exec_fcvtI (p : BitVec 6) (f : FR) : exec (.fcvtI p f) s = execFcvtI p f s := rfl
@[simp] theorem exec_fcvtF (p : BitVec 6) (f : FR) : exec (.fcvtF p f) s = execFcvtF p f s := rfl
@[simp] theorem exec_fmvgfLo (p : BitVec 6) (f : RR) : exec (.fmvgfLo p f) s = execFmvgfLo p f s := rfl
@[simp] theorem exec_fmvgfHi (p : BitVec 6) (f : RR) : exec (.fmvgfHi p f) s = execFmvgfHi p f s := rfl
@[simp] theorem exec_fmvfgLo (p : BitVec 6) (f : RR) : exec (.fmvfgLo p f) s = execFmvfgLo p f s := rfl
@[simp] theorem exec_fmvfgHi (p : BitVec 6) (f : RR) : exec (.fmvfgHi p f) s = execFmvfgHi p f s := rfl
@[simp] theorem exec_fmadd (p : BitVec 6) (f : F4) : exec (.fmadd p f) s = execFmadd p f s := rfl
@[simp] theorem exec_fmsub (p : BitVec 6) (f : F4) : exec (.fmsub p f) s = execFmsub p f s := rfl
@[simp] theorem exec_fnmsub (p : BitVec 6) (f : F4) : exec (.fnmsub p f) s = execFnmsub p f s := rfl
@[simp] theorem exec_fnmadd (p : BitVec 6) (f : F4) : exec (.fnmadd p f) s = execFnmadd p f s := rfl
@[simp] theorem exec_bar (p : BitVec 6) (f : BarF) : exec (.bar p f) s = execBar p f s := rfl
@[simp] theorem exec_pbar (p : BitVec 6) (f : BarF) : exec (.pbar p f) s = execPbar p f s := rfl
@[simp] theorem exec_barrierComplete (p : BitVec 6) : exec (.barrierComplete p) s = execBarrierComplete p s := rfl
@[simp] theorem exec_bmove (p : BitVec 6) (f : RR) : exec (.bmove p f) s = execBmove p f s := rfl
@[simp] theorem exec_bfill (p : BitVec 6) (f : RR) : exec (.bfill p f) s = execBfill p f s := rfl
@[simp] theorem exec_bcmp (p : BitVec 6) (f : RR) : exec (.bcmp p f) s = execBcmp p f s := rfl
@[simp] theorem exec_bscan (p : BitVec 6) (f : RR) : exec (.bscan p f) s = execBscan p f s := rfl
@[simp] theorem exec_cksum (p : BitVec 6) (f : RR) : exec (.cksum p f) s = execCksum p f s := rfl
@[simp] theorem exec_microRoutineStep (p : BitVec 6) (ext : List Byte) (pois : Bool) : exec (.microRoutineStep p ext pois) s = execMicroRoutineStep p ext pois s := rfl
@[simp] theorem exec_segld (p : BitVec 6) (f : RI) : exec (.segld p f) s = execSegld p f s := rfl
@[simp] theorem exec_segix (p : BitVec 6) (f : RRF) : exec (.segix p f) s = execSegix p f s := rfl
@[simp] theorem exec_rdpsw (p : BitVec 6) (f : RR) : exec (.rdpsw p f) s = execRdpsw p f s := rfl
@[simp] theorem exec_wrpsw (p : BitVec 6) (f : RR) : exec (.wrpsw p f) s = execWrpsw p f s := rfl
@[simp] theorem exec_rdfpsw (p : BitVec 6) (f : RR) : exec (.rdfpsw p f) s = execRdfpsw p f s := rfl
@[simp] theorem exec_wrfpsw (p : BitVec 6) (f : RR) : exec (.wrfpsw p f) s = execWrfpsw p f s := rfl
@[simp] theorem exec_rdtime (p : BitVec 6) (f : RR) : exec (.rdtime p f) s = execRdtime p f s := rfl
@[simp] theorem exec_rfe (p : BitVec 6) (f : RR) : exec (.rfe p f) s = execRfe p f s := rfl
@[simp] theorem exec_halt (p : BitVec 6) (f : RR) : exec (.halt p f) s = execHalt p f s := rfl
@[simp] theorem exec_wait (p : BitVec 6) (f : RR) : exec (.wait p f) s = execWait p f s := rfl
@[simp] theorem exec_mfcr (p : BitVec 6) (f : RI) : exec (.mfcr p f) s = execMfcr p f s := rfl
@[simp] theorem exec_mtcr (p : BitVec 6) (f : RI) : exec (.mtcr p f) s = execMtcr p f s := rfl
@[simp] theorem exec_svc (p : BitVec 6) (f : RI) : exec (.svc p f) s = execSvc p f s := rfl
@[simp] theorem exec_brk (p : BitVec 6) (f : RI) : exec (.brk p f) s = execBrk p f s := rfl
@[simp] theorem exec_cmoClean (p : BitVec 6) (f : CmoF) : exec (.cmoClean p f) s = execCmoClean p f s := rfl
@[simp] theorem exec_cmoClinv (p : BitVec 6) (f : CmoF) : exec (.cmoClinv p f) s = execCmoClinv p f s := rfl
@[simp] theorem exec_cmoIinv (p : BitVec 6) (f : CmoF) : exec (.cmoIinv p f) s = execCmoIinv p f s := rfl
@[simp] theorem exec_cmrClean (p : BitVec 6) (f : CmrF) : exec (.cmrClean p f) s = execCmrClean p f s := rfl
@[simp] theorem exec_cmrCleanInvalidate (p : BitVec 6) (f : CmrF) : exec (.cmrCleanInvalidate p f) s = execCmrCleanInvalidate p f s := rfl
@[simp] theorem exec_cmrPreload (p : BitVec 6) (f : CmrF) : exec (.cmrPreload p f) s = execCmrPreload p f s := rfl
@[simp] theorem exec_exceptionEntry (p : BitVec 6) (word : BitVec 48) : exec (.exceptionEntry p word) s = execExceptionEntry p word s := rfl
@[simp] theorem exec_interruptLineEvent (src : IntSrc) : exec (.interruptLineEvent src) s = execInterruptLineEvent src s := rfl
@[simp] theorem exec_iack (p : BitVec 6) : exec (.iack p) s = execIack p s := rfl
@[simp] theorem exec_cluIpi (a : Via) (k : BitVec 3) (v : BitVec 48) : exec (.cluIpi a k v) s = execCluIpi a k v s := rfl
@[simp] theorem exec_timerCompareReached (p : BitVec 6) : exec (.timerCompareReached p) s = execTimerCompareReached p s := rfl
@[simp] theorem exec_agreementExchangeDelivery (p : BitVec 6) : exec (.agreementExchangeDelivery p) s = execAgreementExchangeDelivery p s := rfl
@[simp] theorem exec_detectedTransient (p : BitVec 6) (kind : BitVec 4) : exec (.detectedTransient p kind) s = execDetectedTransient p kind s := rfl
@[simp] theorem exec_comparatorMismatch (p : BitVec 6) (kind : BitVec 4) : exec (.comparatorMismatch p kind) s = execComparatorMismatch p kind s := rfl
@[simp] theorem exec_selfTestOutcome (k : BitVec 3) (leadOk chkOk : Bool) : exec (.selfTestOutcome k leadOk chkOk) s = execSelfTestOutcome k leadOk chkOk s := rfl
@[simp] theorem exec_checkerPathFault (k : BitVec 3) (core : BitVec 4) : exec (.checkerPathFault k core) s = execCheckerPathFault k core s := rfl
@[simp] theorem exec_quietPointCheckerMove (p : BitVec 6) : exec (.quietPointCheckerMove p) s = execQuietPointCheckerMove p s := rfl
@[simp] theorem exec_spctlMove (a : Via) (k : BitVec 3) (slot : BitVec 3) : exec (.spctlMove a k slot) s = execSpctlMove a k slot s := rfl
@[simp] theorem exec_spctlRetest (a : Via) (k : BitVec 3) (core : BitVec 4) (pass : Bool) : exec (.spctlRetest a k core pass) s = execSpctlRetest a k core pass s := rfl
@[simp] theorem exec_chkinjMism (p : BitVec 6) : exec (.chkinjMism p) s = execChkinjMism p s := rfl
@[simp] theorem exec_chkinjCpf (p : BitVec 6) : exec (.chkinjCpf p) s = execChkinjCpf p s := rfl
@[simp] theorem exec_chkinjPar (p : BitVec 6) : exec (.chkinjPar p) s = execChkinjPar p s := rfl
@[simp] theorem exec_storeDepart (p : BitVec 6) : exec (.storeDepart p) s = execStoreDepart p s := rfl
@[simp] theorem exec_ownershipArrival (p : BitVec 6) (n : Nat) : exec (.ownershipArrival p n) s = execOwnershipArrival p n s := rfl
@[simp] theorem exec_postedWriteAck (p : BitVec 6) (n : Nat) : exec (.postedWriteAck p n) s = execPostedWriteAck p n s := rfl
@[simp] theorem exec_storeTimeout (p : BitVec 6) (n : Nat) : exec (.storeTimeout p n) s = execStoreTimeout p n s := rfl
@[simp] theorem exec_loadTimeout (p : BitVec 6) (n : Nat) : exec (.loadTimeout p n) s = execLoadTimeout p n s := rfl
@[simp] theorem exec_llwBackoffExpiry (p : BitVec 6) : exec (.llwBackoffExpiry p) s = execLlwBackoffExpiry p s := rfl
@[simp] theorem exec_l1DataDisable (a : Via) (p : BitVec 6) : exec (.l1DataDisable a p) s = execL1DataDisable a p s := rfl
@[simp] theorem exec_l1DataEnable (a : Via) (p : BitVec 6) : exec (.l1DataEnable a p) s = execL1DataEnable a p s := rfl
@[simp] theorem exec_l1InstructionDisable (a : Via) (p : BitVec 6) : exec (.l1InstructionDisable a p) s = execL1InstructionDisable a p s := rfl
@[simp] theorem exec_l1InstructionEnable (a : Via) (p : BitVec 6) : exec (.l1InstructionEnable a p) s = execL1InstructionEnable a p s := rfl
@[simp] theorem exec_l1invIall (a : Via) (p : BitVec 6) : exec (.l1invIall a p) s = execL1invIall a p s := rfl
@[simp] theorem exec_clusterCacheDisable (a : Via) (k : BitVec 3) : exec (.clusterCacheDisable a k) s = execClusterCacheDisable a k s := rfl
@[simp] theorem exec_clusterCacheEnable (a : Via) (k : BitVec 3) : exec (.clusterCacheEnable a k) s = execClusterCacheEnable a k s := rfl
@[simp] theorem exec_mopClean (a : Via) (k : BitVec 3) : exec (.mopClean a k) s = execMopClean a k s := rfl
@[simp] theorem exec_mopCleanInvalidate (a : Via) (k : BitVec 3) : exec (.mopCleanInvalidate a k) s = execMopCleanInvalidate a k s := rfl
@[simp] theorem exec_mopPreload (a : Via) (k : BitVec 3) : exec (.mopPreload a k) s = execMopPreload a k s := rfl
@[simp] theorem exec_ccLockWrite (a : Via) (k : BitVec 3) (v : BitVec 48) : exec (.ccLockWrite a k v) s = execCcLockWrite a k v s := rfl
@[simp] theorem exec_ccPwrWrite (a : Via) (k : BitVec 3) (v : BitVec 48) : exec (.ccPwrWrite a k v) s = execCcPwrWrite a k v s := rfl
@[simp] theorem exec_controlJobStart (k : BitVec 3) : exec (.controlJobStart k) s = execControlJobStart k s := rfl
@[simp] theorem exec_maintenanceJobEnd (k : BitVec 3) : exec (.maintenanceJobEnd k) s = execMaintenanceJobEnd k s := rfl
@[simp] theorem exec_tagParitySearchComplete (k : BitVec 3) : exec (.tagParitySearchComplete k) s = execTagParitySearchComplete k s := rfl
@[simp] theorem exec_rds (line : Nat) (r : Agent) : exec (.rds line r) s = execRds line r s := rfl
@[simp] theorem exec_rdx (line : Nat) (r : Agent) : exec (.rdx line r) s = execRdx line r s := rfl
@[simp] theorem exec_upg (line : Nat) (r : Agent) : exec (.upg line r) s = execUpg line r s := rfl
@[simp] theorem exec_wb (line : Nat) (r : Agent) : exec (.wb line r) s = execWb line r s := rfl
@[simp] theorem exec_evc (line : Nat) (r : Agent) : exec (.evc line r) s = execEvc line r s := rfl
@[simp] theorem exec_rdu (line : Nat) (r : Agent) : exec (.rdu line r) s = execRdu line r s := rfl
@[simp] theorem exec_wrf (line : Nat) (r : Agent) : exec (.wrf line r) s = execWrf line r s := rfl
@[simp] theorem exec_wrp (line : Nat) (r : Agent) : exec (.wrp line r) s = execWrp line r s := rfl
@[simp] theorem exec_cln (line : Nat) (r : Agent) : exec (.cln line r) s = execCln line r s := rfl
@[simp] theorem exec_clinv (line : Nat) (r : Agent) : exec (.clinv line r) s = execClinv line r s := rfl
@[simp] theorem exec_fwds (line : Nat) (r : Agent) : exec (.fwds line r) s = execFwds line r s := rfl
@[simp] theorem exec_fwdx (line : Nat) (r : Agent) : exec (.fwdx line r) s = execFwdx line r s := rfl
@[simp] theorem exec_fwdu (line : Nat) (r : Agent) : exec (.fwdu line r) s = execFwdu line r s := rfl
@[simp] theorem exec_inv (line : Nat) (r : Agent) : exec (.inv line r) s = execInv line r s := rfl
@[simp] theorem exec_recall (line : Nat) (r : Agent) : exec (.recall line r) s = execRecall line r s := rfl
@[simp] theorem exec_dataGrant (line : Nat) (r : Agent) : exec (.dataGrant line r) s = execDataGrant line r s := rfl
@[simp] theorem exec_invAck (line : Nat) (r : Agent) : exec (.invAck line r) s = execInvAck line r s := rfl
@[simp] theorem exec_cmp (line : Nat) (r : Agent) : exec (.cmp line r) s = execCmp line r s := rfl
@[simp] theorem exec_wback (line : Nat) (r : Agent) : exec (.wback line r) s = execWback line r s := rfl
@[simp] theorem exec_evack (line : Nat) (r : Agent) : exec (.evack line r) s = execEvack line r s := rfl
@[simp] theorem exec_retry (line : Nat) (r : Agent) : exec (.retry line r) s = execRetry line r s := rfl
@[simp] theorem exec_retryBackoffExpiry (line : Nat) (r : Agent) : exec (.retryBackoffExpiry line r) s = execRetryBackoffExpiry line r s := rfl
@[simp] theorem exec_persistentReservationExpiry (line : Nat) (r : Agent) : exec (.persistentReservationExpiry line r) s = execPersistentReservationExpiry line r s := rfl
@[simp] theorem exec_pending (line : Nat) (r : Agent) : exec (.pending line r) s = execPending line r s := rfl
@[simp] theorem exec_pendingTick (line : Nat) : exec (.pendingTick line) s = execPendingTick line s := rfl
@[simp] theorem exec_backInvalidation (line : Nat) : exec (.backInvalidation line) s = execBackInvalidation line s := rfl
@[simp] theorem exec_backInvalidationTimeout (line : Nat) : exec (.backInvalidationTimeout line) s = execBackInvalidationTimeout line s := rfl
@[simp] theorem exec_memberLost (m : BitVec 4) : exec (.memberLost m) s = execMemberLost m s := rfl
@[simp] theorem exec_dirsnapReq (a : Via) : exec (.dirsnapReq a) s = execDirsnapReq a s := rfl
@[simp] theorem exec_mainStoreReadResult (line : Nat) (err : List (BitVec 56)) (m : BitVec 12) : exec (.mainStoreReadResult line err m) s = execMainStoreReadResult line err m s := rfl
@[simp] theorem exec_scrubRead (st : BitVec 3) : exec (.scrubRead st) s = execScrubRead st s := rfl
@[simp] theorem exec_errsnapReq (a : Via) : exec (.errsnapReq a) s = execErrsnapReq a s := rfl
@[simp] theorem exec_persistGrantRequest (line : Nat) (r : Agent) : exec (.persistGrantRequest line r) s = execPersistGrantRequest line r s := rfl
@[simp] theorem exec_heldGrantServed (st : BitVec 3) : exec (.heldGrantServed st) s = execHeldGrantServed st s := rfl
@[simp] theorem exec_epochCut : exec (.epochCut) s = execEpochCut s := rfl
@[simp] theorem exec_imagerCapture (st : BitVec 3) : exec (.imagerCapture st) s = execImagerCapture st s := rfl
@[simp] theorem exec_epochClose : exec (.epochClose) s = execEpochClose s := rfl
@[simp] theorem exec_tunCut (a : Via) : exec (.tunCut a) s = execTunCut a s := rfl
@[simp] theorem exec_tunPflush (a : Via) : exec (.tunPflush a) s = execTunPflush a s := rfl
@[simp] theorem exec_tunRecheck (a : Via) : exec (.tunRecheck a) s = execTunRecheck a s := rfl
@[simp] theorem exec_tunFormat (a : Via) : exec (.tunFormat a) s = execTunFormat a s := rfl
@[simp] theorem exec_tunBudgetWrite (a : Via) (v : BitVec 48) : exec (.tunBudgetWrite a v) s = execTunBudgetWrite a v s := rfl
@[simp] theorem exec_tunSnapReq (a : Via) : exec (.tunSnapReq a) s = execTunSnapReq a s := rfl
@[simp] theorem exec_pfailTrip (ns : Nat) : exec (.pfailTrip ns) s = execPfailTrip ns s := rfl
@[simp] theorem exec_vholdTrip (mv : Nat) : exec (.vholdTrip mv) s = execVholdTrip mv s := rfl
@[simp] theorem exec_flushDone (us : Nat) : exec (.flushDone us) s = execFlushDone us s := rfl
@[simp] theorem exec_flushDeadlineMiss : exec (.flushDeadlineMiss) s = execFlushDeadlineMiss s := rfl
@[simp] theorem exec_flushAbort : exec (.flushAbort) s = execFlushAbort s := rfl
@[simp] theorem exec_holdUpCheck (mv : Nat) (us : Nat) : exec (.holdUpCheck mv us) s = execHoldUpCheck mv us s := rfl
@[simp] theorem exec_pwrokRise (b : Boot) : exec (.pwrokRise b) s = execPwrokRise b s := rfl
@[simp] theorem exec_pwrokFall : exec (.pwrokFall) s = execPwrokFall s := rfl
@[simp] theorem exec_processorsReleased : exec (.processorsReleased) s = execProcessorsReleased s := rfl
@[simp] theorem exec_sqpi (fn : BitVec 6) (page : BitVec 10) (v : BitVec 32) : exec (.sqpi fn page v) s = execSqpi fn page v s := rfl
@[simp] theorem exec_cqci (fn : BitVec 6) (page : BitVec 10) (v : BitVec 32) : exec (.cqci fn page v) s = execCqci fn page v s := rfl
@[simp] theorem exec_descriptorFetchComplete (q : BitVec 10) (idx : BitVec 32) (data : List Byte) (pois : Bool) : exec (.descriptorFetchComplete q idx data pois) s = execDescriptorFetchComplete q idx data pois s := rfl
@[simp] theorem exec_descriptorFetchTimeout (q : BitVec 10) : exec (.descriptorFetchTimeout q) s = execDescriptorFetchTimeout q s := rfl
@[simp] theorem exec_completionWrite (q : BitVec 10) : exec (.completionWrite q) s = execCompletionWrite q s := rfl
@[simp] theorem exec_completionGo (q : BitVec 10) (idx : BitVec 32) : exec (.completionGo q idx) s = execCompletionGo q idx s := rfl
@[simp] theorem exec_completionGoTimeout (q : BitVec 10) : exec (.completionGoTimeout q) s = execCompletionGoTimeout q s := rfl
@[simp] theorem exec_completionInterruptTimer (q : BitVec 10) : exec (.completionInterruptTimer q) s = execCompletionInterruptTimer q s := rfl
@[simp] theorem exec_ringPairEnable (a : Via) (q : BitVec 10) (v : BitVec 48) : exec (.ringPairEnable a q v) s = execRingPairEnable a q v s := rfl
@[simp] theorem exec_ringPairDisable (a : Via) (q : BitVec 10) (v : BitVec 48) : exec (.ringPairDisable a q v) s = execRingPairDisable a q v s := rfl
@[simp] theorem exec_memrd (h : Nat) (mv : Meta) : exec (.memrd h mv) s = execMemrd h mv s := rfl
@[simp] theorem exec_memrddata (h : Nat) (mv : Meta) : exec (.memrddata h mv) s = execMemrddata h mv s := rfl
@[simp] theorem exec_meminv (h : Nat) (mv : Meta) : exec (.meminv h mv) s = execMeminv h mv s := rfl
@[simp] theorem exec_memclnevct (h : Nat) : exec (.memclnevct h) s = execMemclnevct h s := rfl
@[simp] theorem exec_memspecrd (h : Nat) : exec (.memspecrd h) s = execMemspecrd h s := rfl
@[simp] theorem exec_memwr (h : Nat) (mv : Meta) (data : List Byte) (pois : Bool) : exec (.memwr h mv data pois) s = execMemwr h mv data pois s := rfl
@[simp] theorem exec_memwrptl (h : Nat) (mv : Meta) (data : List Byte) (mask : BitVec 64) (pois : Bool) : exec (.memwrptl h mv data mask pois) s = execMemwrptl h mv data mask pois s := rfl
@[simp] theorem exec_unsupportedMemRequest (op : BitVec 8) (h : Nat) : exec (.unsupportedMemRequest op h) s = execUnsupportedMemRequest op h s := rfl
@[simp] theorem exec_hostSnoop (kind : Snoop) (h : Nat) : exec (.hostSnoop kind h) s = execHostSnoop kind h s := rfl
@[simp] theorem exec_hdmCommit (base : Nat) : exec (.hdmCommit base) s = execHdmCommit base s := rfl
@[simp] theorem exec_gpfPhase1 : exec (.gpfPhase1) s = execGpfPhase1 s := rfl
@[simp] theorem exec_gpfPhase2 : exec (.gpfPhase2) s = execGpfPhase2 s := rfl
@[simp] theorem exec_linkTrained (width : BitVec 5) (rate : BitVec 3) (flit : BitVec 2) : exec (.linkTrained width rate flit) s = execLinkTrained width rate flit s := rfl
@[simp] theorem exec_detach (a : Via) : exec (.detach a) s = execDetach a s := rfl
@[simp] theorem exec_attach (a : Via) : exec (.attach a) s = execAttach a s := rfl
@[simp] theorem exec_surpriseRemoval (viral : Bool) : exec (.surpriseRemoval viral) s = execSurpriseRemoval viral s := rfl
@[simp] theorem exec_descriptorAccept (q : BitVec 10) : exec (.descriptorAccept q) s = execDescriptorAccept q s := rfl
@[simp] theorem exec_dispatch (e : BitVec 4) : exec (.dispatch e) s = execDispatch e s := rfl
@[simp] theorem exec_abort (a : Via) (q : BitVec 10) : exec (.abort a q) s = execAbort a q s := rfl
@[simp] theorem exec_resv (a : Client) (i : BitVec 9) : exec (.resv a i) s = execResv a i s := rfl
@[simp] theorem exec_commit (a : Client) (i : BitVec 9) (v : BitVec 48) : exec (.commit a i v) s = execCommit a i v s := rfl
@[simp] theorem exec_read (a : Client) (i : BitVec 9) : exec (.read a i) s = execRead a i s := rfl
@[simp] theorem exec_mark (a : Client) (i : BitVec 9) : exec (.mark a i) s = execMark a i s := rfl
@[simp] theorem exec_rewind (a : Client) (i : BitVec 9) : exec (.rewind a i) s = execRewind a i s := rfl
@[simp] theorem exec_release (a : Client) (i : BitVec 9) : exec (.release a i) s = execRelease a i s := rfl
@[simp] theorem exec_queueDisable (a : Client) (i : BitVec 9) : exec (.queueDisable a i) s = execQueueDisable a i s := rfl
@[simp] theorem exec_queueAgingCheck : exec (.queueAgingCheck) s = execQueueAgingCheck s := rfl
@[simp] theorem exec_deadlineCheck : exec (.deadlineCheck) s = execDeadlineCheck s := rfl
@[simp] theorem exec_mirrorWriteAck (tag : BitVec 16) : exec (.mirrorWriteAck tag) s = execMirrorWriteAck tag s := rfl
@[simp] theorem exec_mirrorBreak : exec (.mirrorBreak) s = execMirrorBreak s := rfl
@[simp] theorem exec_mirWrite (a : Via) (v : BitVec 48) : exec (.mirWrite a v) s = execMirWrite a v s := rfl
@[simp] theorem exec_resyncComplete : exec (.resyncComplete) s = execResyncComplete s := rfl
@[simp] theorem exec_chqSnapReq (a : Via) : exec (.chqSnapReq a) s = execChqSnapReq a s := rfl
@[simp] theorem exec_elcSnapReq (a : Via) : exec (.elcSnapReq a) s = execElcSnapReq a s := rfl
@[simp] theorem exec_sqNext (e : BitVec 4) : exec (.sqNext e) s = execSqNext e s := rfl
@[simp] theorem exec_sqJump (e : BitVec 4) : exec (.sqJump e) s = execSqJump e s := rfl
@[simp] theorem exec_sqBr (e : BitVec 4) : exec (.sqBr e) s = execSqBr e s := rfl
@[simp] theorem exec_sqCall (e : BitVec 4) : exec (.sqCall e) s = execSqCall e s := rfl
@[simp] theorem exec_sqRet (e : BitVec 4) : exec (.sqRet e) s = execSqRet e s := rfl
@[simp] theorem exec_sqDisp (e : BitVec 4) : exec (.sqDisp e) s = execSqDisp e s := rfl
@[simp] theorem exec_sqPark (e : BitVec 4) : exec (.sqPark e) s = execSqPark e s := rfl
@[simp] theorem exec_sqEnd (e : BitVec 4) : exec (.sqEnd e) s = execSqEnd e s := rfl
@[simp] theorem exec_aopAdd (e : BitVec 4) : exec (.aopAdd e) s = execAopAdd e s := rfl
@[simp] theorem exec_aopSub (e : BitVec 4) : exec (.aopSub e) s = execAopSub e s := rfl
@[simp] theorem exec_aopAnd (e : BitVec 4) : exec (.aopAnd e) s = execAopAnd e s := rfl
@[simp] theorem exec_aopOr (e : BitVec 4) : exec (.aopOr e) s = execAopOr e s := rfl
@[simp] theorem exec_aopXor (e : BitVec 4) : exec (.aopXor e) s = execAopXor e s := rfl
@[simp] theorem exec_aopAndn (e : BitVec 4) : exec (.aopAndn e) s = execAopAndn e s := rfl
@[simp] theorem exec_aopMin (e : BitVec 4) : exec (.aopMin e) s = execAopMin e s := rfl
@[simp] theorem exec_aopMax (e : BitVec 4) : exec (.aopMax e) s = execAopMax e s := rfl
@[simp] theorem exec_aopMove (e : BitVec 4) : exec (.aopMove e) s = execAopMove e s := rfl
@[simp] theorem exec_aopShl (e : BitVec 4) : exec (.aopShl e) s = execAopShl e s := rfl
@[simp] theorem exec_aopShr (e : BitVec 4) : exec (.aopShr e) s = execAopShr e s := rfl
@[simp] theorem exec_aopCmp (e : BitVec 4) : exec (.aopCmp e) s = execAopCmp e s := rfl
@[simp] theorem exec_sopExt (e : BitVec 4) : exec (.sopExt e) s = execSopExt e s := rfl
@[simp] theorem exec_sopExts (e : BitVec 4) : exec (.sopExts e) s = execSopExts e s := rfl
@[simp] theorem exec_sopIns (e : BitVec 4) : exec (.sopIns e) s = execSopIns e s := rfl
@[simp] theorem exec_sopLit (e : BitVec 4) : exec (.sopLit e) s = execSopLit e s := rfl
@[simp] theorem exec_mopRd (e : BitVec 4) : exec (.mopRd e) s = execMopRd e s := rfl
@[simp] theorem exec_mopWr (e : BitVec 4) : exec (.mopWr e) s = execMopWr e s := rfl
@[simp] theorem exec_mopFill (e : BitVec 4) : exec (.mopFill e) s = execMopFill e s := rfl
@[simp] theorem exec_mopWait (e : BitVec 4) : exec (.mopWait e) s = execMopWait e s := rfl
@[simp] theorem exec_moverOpComplete (e : BitVec 4) (b : BitVec 2) (st : BitVec 8) (ext : List Byte) : exec (.moverOpComplete e b st ext) s = execMoverOpComplete e b st ext s := rfl
@[simp] theorem exec_xopResv (e : BitVec 4) : exec (.xopResv e) s = execXopResv e s := rfl
@[simp] theorem exec_xopCommit (e : BitVec 4) : exec (.xopCommit e) s = execXopCommit e s := rfl
@[simp] theorem exec_xopRead (e : BitVec 4) : exec (.xopRead e) s = execXopRead e s := rfl
@[simp] theorem exec_xopCmd (e : BitVec 4) : exec (.xopCmd e) s = execXopCmd e s := rfl
@[simp] theorem exec_xopQaddr (e : BitVec 4) : exec (.xopQaddr e) s = execXopQaddr e s := rfl
@[simp] theorem exec_xopCob (e : BitVec 4) : exec (.xopCob e) s = execXopCob e s := rfl
@[simp] theorem exec_xopZn (e : BitVec 4) : exec (.xopZn e) s = execXopZn e s := rfl
@[simp] theorem exec_xopPostc (e : BitVec 4) : exec (.xopPostc e) s = execXopPostc e s := rfl
@[simp] theorem exec_xopTime (e : BitVec 4) : exec (.xopTime e) s = execXopTime e s := rfl
@[simp] theorem exec_portResultArrival (e : BitVec 4) (n : Nat) : exec (.portResultArrival e n) s = execPortResultArrival e n s := rfl
@[simp] theorem exec_parkedProgramReply (e : BitVec 4) (n : Nat) : exec (.parkedProgramReply e n) s = execParkedProgramReply e n s := rfl
@[simp] theorem exec_bndWatchdogExpiry (e : BitVec 4) : exec (.bndWatchdogExpiry e) s = execBndWatchdogExpiry e s := rfl
@[simp] theorem exec_udata2Write (a : Via) (e : BitVec 4) (v : BitVec 48) : exec (.udata2Write a e v) s = execUdata2Write a e v s := rfl
@[simp] theorem exec_uctlRead (a : Via) (e : BitVec 4) : exec (.uctlRead a e) s = execUctlRead a e s := rfl
@[simp] theorem exec_loadimg (a : Via) : exec (.loadimg a) s = execLoadimg a s := rfl
@[simp] theorem exec_install (a : Via) : exec (.install a) s = execInstall a s := rfl
@[simp] theorem exec_remove (a : Via) : exec (.remove a) s = execRemove a s := rfl
@[simp] theorem exec_cobaltPieceComplete (e : BitVec 4) (n : Nat) (ext aad : List Byte) (st : BitVec 8) : exec (.cobaltPieceComplete e n ext aad st) s = execCobaltPieceComplete e n ext aad st s := rfl
@[simp] theorem exec_zincPieceComplete (e : BitVec 4) (n : Nat) (ext : List Byte) (st : BitVec 8) : exec (.zincPieceComplete e n ext st) s = execZincPieceComplete e n ext st s := rfl
@[simp] theorem exec_kloadLoad (a : Via) (v : BitVec 48) : exec (.kloadLoad a v) s = execKloadLoad a v s := rfl
@[simp] theorem exec_kloadZero (a : Via) (v : BitVec 48) : exec (.kloadZero a v) s = execKloadZero a v s := rfl
@[simp] theorem exec_keySlotCommandComplete : exec (.keySlotCommandComplete) s = execKeySlotCommandComplete s := rfl
@[simp] theorem exec_ceilingWriteComplete (slot : BitVec 12) : exec (.ceilingWriteComplete slot) s = execCeilingWriteComplete slot s := rfl
@[simp] theorem exec_rngHealthFail : exec (.rngHealthFail) s = execRngHealthFail s := rfl
@[simp] theorem exec_cobSnapReq (a : Via) : exec (.cobSnapReq a) s = execCobSnapReq a s := rfl
@[simp] theorem exec_znSnapReq (a : Via) : exec (.znSnapReq a) s = execZnSnapReq a s := rfl
@[simp] theorem exec_create (a : Via) (i : BitVec 6) : exec (.create a i) s = execCreate a i s := rfl
@[simp] theorem exec_apply (a : Via) (i : BitVec 6) : exec (.apply a i) s = execApply a i s := rfl
@[simp] theorem exec_destroy (a : Via) (i : BitVec 6) : exec (.destroy a i) s = execDestroy a i s := rfl
@[simp] theorem exec_reset (a : Via) (i : BitVec 6) : exec (.reset a i) s = execReset a i s := rfl
@[simp] theorem exec_freeze (a : Via) (i : BitVec 6) : exec (.freeze a i) s = execFreeze a i s := rfl
@[simp] theorem exec_freezeDrainComplete (i : BitVec 6) : exec (.freezeDrainComplete i) s = execFreezeDrainComplete i s := rfl
@[simp] theorem exec_thaw (a : Via) (i : BitVec 6) : exec (.thaw a i) s = execThaw a i s := rfl
@[simp] theorem exec_save (a : Via) (i : BitVec 6) (st : BitVec 8) : exec (.save a i st) s = execSave a i st s := rfl
@[simp] theorem exec_restore (a : Via) (i : BitVec 6) (ext : List Byte) (st : BitVec 8) : exec (.restore a i ext st) s = execRestore a i ext st s := rfl
@[simp] theorem exec_start (a : Via) (i : BitVec 6) (p : BitVec 6) : exec (.start a i p) s = execStart a i p s := rfl
@[simp] theorem exec_stop (a : Via) (i : BitVec 6) (p : BitVec 6) : exec (.stop a i p) s = execStop a i p s := rfl
@[simp] theorem exec_mbidb (a : Via) (i : BitVec 6) : exec (.mbidb a i) s = execMbidb a i s := rfl
@[simp] theorem exec_mbiack (a : Via) (i : BitVec 6) : exec (.mbiack a i) s = execMbiack a i s := rfl
@[simp] theorem exec_mbodb (a : Via) (i : BitVec 6) : exec (.mbodb a i) s = execMbodb a i s := rfl
@[simp] theorem exec_mboack (a : Via) (i : BitVec 6) : exec (.mboack a i) s = execMboack a i s := rfl
@[simp] theorem exec_reportPost : exec (.reportPost) s = execReportPost s := rfl
@[simp] theorem exec_reportGoTimeout : exec (.reportGoTimeout) s = execReportGoTimeout s := rfl
@[simp] theorem exec_rptci (a : Via) (v : BitVec 48) : exec (.rptci a v) s = execRptci a v s := rfl
@[simp] theorem exec_linkTrainingAttempt (l : BitVec 3) (rx tx : BitVec 8) : exec (.linkTrainingAttempt l rx tx) s = execLinkTrainingAttempt l rx tx s := rfl
@[simp] theorem exec_flitReceive (l : BitVec 3) (flit : List Byte) : exec (.flitReceive l flit) s = execFlitReceive l flit s := rfl
@[simp] theorem exec_nak (l : BitVec 3) (lack : BitVec 8) : exec (.nak l lack) s = execNak l lack s := rfl
@[simp] theorem exec_replayTimeout (l : BitVec 3) : exec (.replayTimeout l) s = execReplayTimeout l s := rfl
@[simp] theorem exec_linkRetrain (l : BitVec 3) : exec (.linkRetrain l) s = execLinkRetrain l s := rfl
@[simp] theorem exec_linkDown (l : BitVec 3) : exec (.linkDown l) s = execLinkDown l s := rfl
@[simp] theorem exec_hello (l : BitVec 3) (node : BitVec 14) (shape : BitVec 48) (dir : BitVec 3) (feat0 : BitVec 48) : exec (.hello l node shape dir feat0) s = execHello l node shape dir feat0 s := rfl
@[simp] theorem exec_accept (l : BitVec 3) : exec (.accept l) s = execAccept l s := rfl
@[simp] theorem exec_reject (l : BitVec 3) : exec (.reject l) s = execReject l s := rfl
@[simp] theorem exec_gone (l : BitVec 3) : exec (.gone l) s = execGone l s := rfl
@[simp] theorem exec_leaveMessage (l : BitVec 3) : exec (.leaveMessage l) s = execLeaveMessage l s := rfl
@[simp] theorem exec_rrd (m : RMsg) : exec (.rrd m) s = execRrd m s := rfl
@[simp] theorem exec_rwr (m : RMsg) : exec (.rwr m) s = execRwr m s := rfl
@[simp] theorem exec_rat (m : RMsg) : exec (.rat m) s = execRat m s := rfl
@[simp] theorem exec_rsp (m : RMsg) : exec (.rsp m) s = execRsp m s := rfl
@[simp] theorem exec_pnd (m : RMsg) : exec (.pnd m) s = execPnd m s := rfl
@[simp] theorem exec_crq (m : RMsg) : exec (.crq m) s = execCrq m s := rfl
@[simp] theorem exec_crs (m : RMsg) : exec (.crs m) s = execCrs m s := rfl
@[simp] theorem exec_lmw (m : RMsg) : exec (.lmw m) s = execLmw m s := rfl
@[simp] theorem exec_dbl (m : RMsg) : exec (.dbl m) s = execDbl m s := rfl
@[simp] theorem exec_doorbellRetry : exec (.doorbellRetry) s = execDoorbellRetry s := rfl
@[simp] theorem exec_sba (m : RMsg) : exec (.sba m) s = execSba m s := rfl
@[simp] theorem exec_sbr (c : BitVec 2) (gen : BitVec 16) (aborted : Bool) : exec (.sbr c gen aborted) s = execSbr c gen aborted s := rfl
@[simp] theorem exec_remotePendingTick (tag : BitVec 16) : exec (.remotePendingTick tag) s = execRemotePendingTick tag s := rfl
@[simp] theorem exec_fabricTimeout (tag : BitVec 16) : exec (.fabricTimeout tag) s = execFabricTimeout tag s := rfl
@[simp] theorem exec_opFadd (a : Via) (slot : BitVec 7) (node : BitVec 14) : exec (.opFadd a slot node) s = execOpFadd a slot node s := rfl
@[simp] theorem exec_opSwap (a : Via) (slot : BitVec 7) (node : BitVec 14) : exec (.opSwap a slot node) s = execOpSwap a slot node s := rfl
@[simp] theorem exec_opCas (a : Via) (slot : BitVec 7) (node : BitVec 14) : exec (.opCas a slot node) s = execOpCas a slot node s := rfl
@[simp] theorem exec_opDoorbell (a : Via) (slot : BitVec 7) (node : BitVec 14) : exec (.opDoorbell a slot node) s = execOpDoorbell a slot node s := rfl
@[simp] theorem exec_arrive (a : Via) (c : BitVec 2) : exec (.arrive a c) s = execArrive a c s := rfl
@[simp] theorem exec_sbAbort (a : Via) (c : BitVec 2) : exec (.sbAbort a c) s = execSbAbort a c s := rfl
@[simp] theorem exec_leave (a : Via) : exec (.leave a) s = execLeave a s := rfl
@[simp] theorem exec_mbvSnapReq (a : Via) (l : BitVec 3) : exec (.mbvSnapReq a l) s = execMbvSnapReq a l s := rfl
@[simp] theorem exec_mbgSnapReq (a : Via) : exec (.mbgSnapReq a) s = execMbgSnapReq a s := rfl
@[simp] theorem exec_voterDisagreement (v0 v1 v2 : BitVec 8) : exec (.voterDisagreement v0 v1 v2) s = execVoterDisagreement v0 v1 v2 s := rfl
@[simp] theorem exec_brassInternalCheck (u : BitVec 2) : exec (.brassInternalCheck u) s = execBrassInternalCheck u s := rfl
@[simp] theorem exec_unitSelfTestComplete (u : BitVec 2) (pass : Bool) : exec (.unitSelfTestComplete u pass) s = execUnitSelfTestComplete u pass s := rfl
@[simp] theorem exec_rotate (a : Via) (v : BitVec 48) : exec (.rotate a v) s = execRotate a v s := rfl
@[simp] theorem exec_rotationStep : exec (.rotationStep) s = execRotationStep s := rfl
@[simp] theorem exec_rotationAgeHour : exec (.rotationAgeHour) s = execRotationAgeHour s := rfl
@[simp] theorem exec_feClaim (a : Via) (b : Blk) (v : BitVec 48) : exec (.feClaim a b v) s = execFeClaim a b v s := rfl
@[simp] theorem exec_feStatFree (a : Via) (b : Blk) (v : BitVec 48) : exec (.feStatFree a b v) s = execFeStatFree a b v s := rfl
@[simp] theorem exec_feInjArm (a : Via) (b : Blk) (v : BitVec 48) : exec (.feInjArm a b v) s = execFeInjArm a b v s := rfl
@[simp] theorem exec_escalationTimerExpiry (b : Blk) : exec (.escalationTimerExpiry b) s = execEscalationTimerExpiry b s := rfl
@[simp] theorem exec_quietPeriodExpiry (b : Blk) (c : BitVec 3) : exec (.quietPeriodExpiry b c) s = execQuietPeriodExpiry b c s := rfl
@[simp] theorem exec_crel (a : Via) (v : BitVec 48) : exec (.crel a v) s = execCrel a v s := rfl
@[simp] theorem exec_fltSnapReq (a : Via) : exec (.fltSnapReq a) s = execFltSnapReq a s := rfl
@[simp] theorem exec_pewterRecordWrite (ok : Bool) : exec (.pewterRecordWrite ok) s = execPewterRecordWrite ok s := rfl
@[simp] theorem exec_tokenBucketRefill (code : BitVec 16) : exec (.tokenBucketRefill code) s = execTokenBucketRefill code s := rfl
@[simp] theorem exec_ancw (a : Via) (v : BitVec 48) : exec (.ancw a v) s = execAncw a v s := rfl
@[simp] theorem exec_notew (a : Via) (v : BitVec 48) : exec (.notew a v) s = execNotew a v s := rfl
@[simp] theorem exec_rcmd (a : Via) (v : BitVec 48) : exec (.rcmd a v) s = execRcmd a v s := rfl
@[simp] theorem exec_pewSnapReq (a : Via) : exec (.pewSnapReq a) s = execPewSnapReq a s := rfl
@[simp] theorem exec_checkpointTick : exec (.checkpointTick) s = execCheckpointTick s := rfl
@[simp] theorem exec_clkProcSet (a : Via) (p : BitVec 6) (v : BitVec 48) : exec (.clkProcSet a p v) s = execClkProcSet a p v s := rfl
@[simp] theorem exec_clockRelockComplete (p : BitVec 6) : exec (.clockRelockComplete p) s = execClockRelockComplete p s := rfl
@[simp] theorem exec_referenceClockLoss (r : RefClk) (khz : Nat) : exec (.referenceClockLoss r khz) s = execReferenceClockLoss r khz s := rfl
@[simp] theorem exec_snapshotCapture (b : SnapBlk) : exec (.snapshotCapture b) s = execSnapshotCapture b s := rfl
@[simp] theorem exec_islandReset (isl : Island) : exec (.islandReset isl) s = execIslandReset isl s := rfl
@[simp] theorem exec_crossingRearmTimeout (isl : Island) : exec (.crossingRearmTimeout isl) s = execCrossingRearmTimeout isl s := rfl
@[simp] theorem exec_sysResetRestart (a : Via) (v : BitVec 48) : exec (.sysResetRestart a v) s = execSysResetRestart a v s := rfl
@[simp] theorem exec_sysLock (a : Via) (v : BitVec 48) : exec (.sysLock a v) s = execSysLock a v s := rfl
@[simp] theorem exec_bootProgramInstall (a : Via) (v : BitVec 48) : exec (.bootProgramInstall a v) s = execBootProgramInstall a v s := rfl
@[simp] theorem exec_bootProgramRemove (a : Via) (v : BitVec 48) : exec (.bootProgramRemove a v) s = execBootProgramRemove a v s := rfl
@[simp] theorem exec_clkSnapReq (a : Via) : exec (.clkSnapReq a) s = execClkSnapReq a s := rfl
@[simp] theorem exec_cluModeNext (a : Via) (k : BitVec 3) (v : BitVec 48) : exec (.cluModeNext a k v) s = execCluModeNext a k v s := rfl
@[simp] theorem exec_rsnapReq (p : BitVec 6) : exec (.rsnapReq p) s = execRsnapReq p s := rfl
@[simp] theorem exec_managementWrite (addr : BitVec 12) (v : BitVec 16) : exec (.managementWrite addr v) s = execManagementWrite addr v s := rfl
@[simp] theorem exec_managementRead (addr : BitVec 12) : exec (.managementRead addr) s = execManagementRead addr s := rfl
@[simp] theorem exec_traceFrame : exec (.traceFrame) s = execTraceFrame s := rfl
@[simp] theorem exec_sensorRead (r : Sensors) : exec (.sensorRead r) s = execSensorRead r s := rfl
@[simp] theorem exec_huokFall : exec (.huokFall) s = execHuokFall s := rfl
@[simp] theorem exec_perst : exec (.perst) s = execPerst s := rfl
@[simp] theorem exec_railOutOfTolerance (rail : BitVec 3) (mv : Nat) (us : Nat) : exec (.railOutOfTolerance rail mv us) s = execRailOutOfTolerance rail mv us s := rfl
@[simp] theorem exec_registerWrite (a : Via) (x : RegAddr) (size : Nat) (v : BitVec 64) : exec (.registerWrite a x size v) s = execRegisterWrite a x size v s := rfl
@[simp] theorem exec_backInvalidationResponse (line : Nat) (hi : Bool) (dirty : Option (List Byte)) (conflict : Bool) : exec (.backInvalidationResponse line hi dirty conflict) s = execBackInvalidationResponse line hi dirty conflict s := rfl
@[simp] theorem exec_functionLevelReset (i : BitVec 6) : exec (.functionLevelReset i) s = execFunctionLevelReset i s := rfl
@[simp] theorem exec_vauxPresent : exec (.vauxPresent) s = execVauxPresent s := rfl
@[simp] theorem exec_vauxAbsent : exec (.vauxAbsent) s = execVauxAbsent s := rfl
@[simp] theorem exec_blockRelocation (unit : Nat) : exec (.blockRelocation unit) s = execBlockRelocation unit s := rfl
@[simp] theorem exec_reportGo : exec (.reportGo) s = execReportGo s := rfl
@[simp] theorem exec_reportsWaitingOver1s : exec (.reportsWaitingOver1s) s = execReportsWaitingOver1s s := rfl
@[simp] theorem exec_cgctlWrite (a : Via) (v : BitVec 48) : exec (.cgctlWrite a v) s = execCgctlWrite a v s := rfl
@[simp] theorem exec_mbovaTrainingComplete (l : BitVec 3) (rx tx : BitVec 8) : exec (.mbovaTrainingComplete l rx tx) s = execMbovaTrainingComplete l rx tx s := rfl

end Sys2Proof.Machine
end

