-- ==== Sys2Proof/Laws/Fields.lean ====
section
/-!
SUPPORT. Bit fields: what a field or a bit reads after one was set.
-/
namespace Sys2Proof.Machine

open Sys2Proof

theorem fld_lt {n : Nat} (v : BitVec n) (hi lo : Nat) : fld v hi lo < 2 ^ (hi + 1 - lo) := Nat.mod_lt _ (Nat.two_pow_pos _)

theorem testBit_fld {n : Nat} (v : BitVec n) (hi lo i : Nat) : (fld v hi lo).testBit i = (decide (i < hi + 1 - lo) && v.getLsbD (lo + i)) := by
  simp [fld, Nat.testBit_mod_two_pow, Nat.testBit_shiftRight, BitVec.testBit_toNat]

/-- A bit of a word whose field was set. -/
theorem getLsbD_setFld {n : Nat} (v : BitVec n) (hi lo x i : Nat) (h : i < n) :
    (setFld v hi lo x).getLsbD i = if lo ≤ i ∧ i < hi + 1 then x.testBit (i - lo) else v.getLsbD i := by
  unfold setFld
  simp only [BitVec.getLsbD_or, BitVec.getLsbD_and, BitVec.getLsbD_not, BitVec.getLsbD_ofNat, Nat.testBit_shiftLeft, h, decide_true, Bool.true_and,
    Nat.testBit_two_pow_sub_one]
  by_cases h1 : lo ≤ i <;> by_cases h2 : i < hi + 1
  · have : i - lo < hi + 1 - lo := by omega
    simp [h1, h2, this]
  · have : ¬ i - lo < hi + 1 - lo := by omega
    simp [h2, this]
  · simp [h1]
  · simp [h1]

theorem getLsbD_setBit {n : Nat} (v : BitVec n) (j : Nat) (b : Bool) (i : Nat) (h : i < n) :
    (setBit v j b).getLsbD i = if i = j then b else v.getLsbD i := by
  unfold setBit
  rw [getLsbD_setFld v j j _ i h]
  by_cases e : i = j
  · subst e; cases b <;> simp
  · have : ¬ (j ≤ i ∧ i < j + 1) := by omega
    rw [if_neg this, if_neg e]

/-- A field that was set reads what was put, as far as it has bits. -/
theorem fld_setFld_same {n : Nat} (v : BitVec n) (hi lo x : Nat) (h : hi < n) : fld (setFld v hi lo x) hi lo = x % 2 ^ (hi + 1 - lo) := by
  apply Nat.eq_of_testBit_eq
  intro i
  rw [testBit_fld, Nat.testBit_mod_two_pow]
  by_cases e : i < hi + 1 - lo
  · have a : lo + i < n := by omega
    have b : lo ≤ lo + i ∧ lo + i < hi + 1 := by omega
    simp only [getLsbD_setFld v hi lo x _ a, if_pos b, Nat.add_sub_cancel_left]
  · simp [e]

/-- A field apart from the one that was set reads as before. -/
theorem fld_setFld_ne {n : Nat} (v : BitVec n) (hi lo x a b : Nat) (h : a < n) (d : a < lo ∨ hi < b) : fld (setFld v hi lo x) a b = fld v a b := by
  apply Nat.eq_of_testBit_eq
  intro i
  rw [testBit_fld, testBit_fld]
  by_cases e : i < a + 1 - b
  · have l : b + i < n := by omega
    have c : ¬ (lo ≤ b + i ∧ b + i < hi + 1) := by omega
    simp only [getLsbD_setFld v hi lo x _ l, if_neg c]
  · simp [e]

end Sys2Proof.Machine
end

