-- ==== Sys2Proof/Laws/Regs.lean ====
section
/-!
SUPPORT. Processors and registers: what a read gives after a write, and what retiring an instruction leaves alone.
-/
namespace Sys2Proof.Machine

open Sys2Proof

@[simp] theorem State.proc_setProc (s : State) (p : BitVec 6) (q : Proc) : (s.setProc p q).proc p = q := by
  simp [State.proc, State.setProc, spGetD, spGet_spIns_same]

theorem State.proc_setProc_ne (s : State) {p r : BitVec 6} (q : Proc) (h : r ≠ p) : (s.setProc p q).proc r = s.proc r := by
  have : r.toNat ≠ p.toNat := fun e => h (BitVec.eq_of_toNat_eq e)
  simp [State.proc, State.setProc, spGetD, spGet_spIns_ne _ _ this]

@[simp] theorem State.proc_modProc (s : State) (p : BitVec 6) (f : Proc → Proc) : (s.modProc p f).proc p = f (s.proc p) := by
  simp [State.modProc]

theorem State.proc_modProc_ne (s : State) {p r : BitVec 6} (f : Proc → Proc) (h : r ≠ p) : (s.modProc p f).proc r = s.proc r :=
  State.proc_setProc_ne s _ h

@[simp] theorem Proc.supersede_gR (q : Proc) (r : Reg) (n : BitVec 5) : (q.supersede r).gR n = q.gR n := rfl
@[simp] theorem Proc.supersede_fR (q : Proc) (r : Reg) (n : BitVec 5) : (q.supersede r).fR n = q.fR n := rfl

theorem Proc.put_g_same (q : Proc) (n : BitVec 5) (v : BitVec 64) : (q.put (.g n) v).gR n = if n = 0 then 0 else v.setWidth 48 := by
  unfold Proc.put Proc.gR
  split <;> simp_all [spGetD_spPut_same]

theorem Proc.put_g_ne (q : Proc) {r : Reg} {n : BitVec 5} (v : BitVec 64) (h : r ≠ .g n) : (q.put r v).gR n = q.gR n := by
  cases r with
  | f m => rfl
  | g m =>
    have hm : n ≠ m := fun e => h (by rw [e])
    have : n.toNat ≠ m.toNat := fun e => hm (BitVec.eq_of_toNat_eq e)
    unfold Proc.put
    dsimp only
    split
    · rfl
    · unfold Proc.gR
      rw [spGetD_spPut_ne _ _ _ this]

theorem Proc.put_f_same (q : Proc) (n : BitVec 5) (v : BitVec 64) : (q.put (.f n) v).fR n = v := by
  simp [Proc.put, Proc.fR, spGetD_spPut_same]

theorem Proc.put_f_ne (q : Proc) {r : Reg} {n : BitVec 5} (v : BitVec 64) (h : r ≠ .f n) : (q.put r v).fR n = q.fR n := by
  cases r with
  | g m => unfold Proc.put; dsimp only; split <;> rfl
  | f m =>
    have hm : n ≠ m := fun e => h (by rw [e])
    have : n.toNat ≠ m.toNat := fun e => hm (BitVec.eq_of_toNat_eq e)
    unfold Proc.put Proc.fR
    dsimp only
    rw [spGetD_spPut_ne _ _ _ this]

/-- A register write changes G or F only. -/
theorem Proc.put_eq (q : Proc) (r : Reg) (v : BitVec 64) : ∃ g f, q.put r v = { q with g := g, f := f } := by
  unfold Proc.put
  cases r <;> dsimp only
  · split
    · exact ⟨_, _, rfl⟩
    · exact ⟨_, _, rfl⟩
  · exact ⟨_, _, rfl⟩

theorem Proc.gW_same (q : Proc) (n : BitVec 5) (v : Word) : (q.gW n v).gR n = if n = 0 then 0 else v := by
  unfold Proc.gW
  rw [Proc.put_g_same]
  simp [BitVec.setWidth_setWidth_of_le]

theorem Proc.gW_ne (q : Proc) {n m : BitVec 5} (v : Word) (h : m ≠ n) : (q.gW n v).gR m = q.gR m := by
  unfold Proc.gW
  rw [Proc.put_g_ne _ _ (by simpa using Ne.symm h)]
  rfl

theorem Proc.gW_fR (q : Proc) (n m : BitVec 5) (v : Word) : (q.gW n v).fR m = q.fR m := by
  unfold Proc.gW
  rw [Proc.put_f_ne _ _ (by simp)]
  rfl

theorem Proc.fW_same (q : Proc) (n : BitVec 5) (v : BitVec 64) : (q.fW n v).fR n = v := by
  unfold Proc.fW
  rw [Proc.put_f_same]

theorem Proc.fW_ne (q : Proc) {n m : BitVec 5} (v : BitVec 64) (h : m ≠ n) : (q.fW n v).fR m = q.fR m := by
  unfold Proc.fW
  rw [Proc.put_f_ne _ _ (by simpa using Ne.symm h)]
  rfl

theorem Proc.fW_gR (q : Proc) (n m : BitVec 5) (v : BitVec 64) : (q.fW n v).gR m = q.gR m := by
  unfold Proc.fW
  rw [Proc.put_g_ne _ _ (by simp)]
  rfl

/-- The fold by which finished loads `ls` write their registers, save those that a later one of `ws` supersedes. -/
def Proc.putLoads (q : Proc) (ws ls : List Load) : Proc :=
  ls.foldl (fun q l => if l.late ws then q else q.put l.dst (loadVal l.kind (l.data.getD []))) q

theorem Proc.putLoads_cons (q : Proc) (ws ls : List Load) (l : Load) :
    q.putLoads ws (l :: ls) = (if l.late ws then q else q.put l.dst (loadVal l.kind (l.data.getD []))).putLoads ws ls := rfl

theorem Proc.putLoads_eq (ws ls : List Load) (q : Proc) : ∃ g f, q.putLoads ws ls = { q with g := g, f := f } := by
  induction ls generalizing q with
  | nil => exact ⟨_, _, rfl⟩
  | cons l ls ih =>
    rw [Proc.putLoads_cons]
    split
    · exact ih q
    · obtain ⟨g, f, e⟩ := Proc.put_eq q l.dst (loadVal l.kind (l.data.getD []))
      obtain ⟨g', f', e'⟩ := ih (q.put l.dst (loadVal l.kind (l.data.getD [])))
      exact ⟨g', f', by rw [e', e]⟩

theorem Proc.putLoads_gR (ws ls : List Load) (q : Proc) (n : BitVec 5) (h : ∀ l ∈ ls, l.dst ≠ .g n) : (q.putLoads ws ls).gR n = q.gR n := by
  induction ls generalizing q with
  | nil => rfl
  | cons l ls ih =>
    rw [Proc.putLoads_cons, ih _ fun x hx => h x (List.mem_cons_of_mem _ hx)]
    split
    · rfl
    · exact Proc.put_g_ne _ _ (h l (by simp))

theorem Proc.putLoads_fR (ws ls : List Load) (q : Proc) (n : BitVec 5) (h : ∀ l ∈ ls, l.dst ≠ .f n) : (q.putLoads ws ls).fR n = q.fR n := by
  induction ls generalizing q with
  | nil => rfl
  | cons l ls ih =>
    rw [Proc.putLoads_cons, ih _ fun x hx => h x (List.mem_cons_of_mem _ hx)]
    split
    · rfl
    · exact Proc.put_f_ne _ _ (h l (by simp))

theorem Proc.advance_eq (q : Proc) : ∃ g f ls, q.advance = { q with g := g, f := f, loads := ls } := by
  obtain ⟨g, f, e⟩ := Proc.putLoads_eq _ _ { q with loads := _ }
  exact ⟨g, f, _, e⟩

/-- Retiring an instruction changes G, F, the outstanding loads, the step that is due, the program position and the retry counts. -/
theorem Proc.finish_eq (q : Proc) (ss : Bool) : ∃ g f ls ok,
    q.finish ss = { q with g := g, f := f, loads := ls, stepDue := q.stepDue || ss, sn := q.sn + 1, tries := 0, triesMism := 0, retryOks := ok } := by
  obtain ⟨g, f, ls, e⟩ := Proc.advance_eq q
  unfold Proc.finish
  rw [e]
  exact ⟨_, _, _, _, rfl⟩

theorem Proc.finish_gR (q : Proc) (ss : Bool) (n : BitVec 5) (h : ∀ l ∈ q.loads, l.dst = .g n → l.sup = true) :
    (q.finish ss).gR n = q.gR n := by
  show (Proc.putLoads _ _ _).gR n = _
  rw [Proc.putLoads_gR]
  · rfl
  · intro l hl hd
    simp only [List.mem_filter, List.mem_map, Bool.and_eq_true, Bool.not_eq_true'] at hl
    obtain ⟨⟨x, hx, rfl⟩, -, hs⟩ := hl
    exact absurd hs (by simpa using h x hx hd)

theorem Proc.finish_fR (q : Proc) (ss : Bool) (n : BitVec 5) (h : ∀ l ∈ q.loads, l.dst = .f n → l.sup = true) :
    (q.finish ss).fR n = q.fR n := by
  show (Proc.putLoads _ _ _).fR n = _
  rw [Proc.putLoads_fR]
  · rfl
  · intro l hl hd
    simp only [List.mem_filter, List.mem_map, Bool.and_eq_true, Bool.not_eq_true'] at hl
    obtain ⟨⟨x, hx, rfl⟩, -, hs⟩ := hl
    exact absurd hs (by simpa using h x hx hd)

end Sys2Proof.Machine
end

