-- ==== Sys2Proof/Laws/Issue.lean ====
section
/-!
SUPPORT. What issuing an instruction comes to when nothing stands before it, and what an instruction that only computes
leaves alone.
-/
namespace Sys2Proof.Machine

open Sys2Proof

/-- An instruction that can be done is done. -/
theorem State.issue_ready {s t : State} {p : BitVec 6} {reads writes : List Reg} (h : s.Ready p reads writes t) (illegal priv : Bool)
    (body : State → State) (hi : illegal = false) (hp : priv = true → (t.proc p).user = false) :
    s.issue p illegal priv reads writes body = .next (body t) := by
  have hf := h.2.1
  have hfe : s.fetch p = .ok t := by
    unfold State.afterFetch at hf
    generalize s.fetch p = r at hf ⊢
    cases r with
    | ok x => exact congrArg _ (Option.some.inj hf)
    | wait x => cases hf
    | bad x => cases hf
  have hup : (priv && (t.proc p).user) = false := by
    cases priv with
    | false => rfl
    | true => simpa using hp rfl
  unfold State.issue State.pre
  rw [h.1, hfe]
  dsimp only
  rw [hi, hup, h.2.2.1, h.2.2.2]
  rfl

/-- Setting one processor changes nothing else. -/
theorem OnlyProc.modProc (t : State) (p : BitVec 6) (f : Proc → Proc) : OnlyProc t (t.modProc p f) p :=
  ⟨rfl, fun _ hr => State.proc_modProc_ne t f hr⟩

theorem OnlyProc.refl (t : State) (p : BitVec 6) : OnlyProc t t p := ⟨rfl, fun _ _ => rfl⟩

/-- The overflow flag and its trap change PSW and the trap that is due. -/
theorem Proc.flagV_eq (q : Proc) (v : Bool) : q.flagV v = { q with psw := withV q.psw v, trap := if v && q.ovt then some { code := 0x07, xip := q.ip, kind := 1 } else q.trap } := by
  unfold Proc.flagV withV
  cases v
  · rfl
  · have ho : Proc.ovt { q with psw := q.psw ||| 8 } = q.ovt := by
      simp [Proc.ovt]
    dsimp only [if_true]
    rw [ho, Bool.true_and]
    cases q.ovt <;> rfl

/-- An instruction writes G[n]: G and the superseded loads change. -/
theorem Proc.gW_eq (q : Proc) (n : BitVec 5) (v : Word) : ∃ g f,
    q.gW n v = { q with g := g, f := f, loads := q.loads.map fun (l : Load) => if l.dst = .g n then { l with sup := true } else l } := by
  unfold Proc.gW
  obtain ⟨g, f, e⟩ := Proc.put_eq (q.supersede (.g n)) (.g n) (v.setWidth 64)
  exact ⟨g, f, e⟩

/-- After a write of G[n] every outstanding load of G[n] is superseded, and no other load's destination changes. -/
theorem Proc.gW_loads {q : Proc} {n : BitVec 5} {v : Word} {l : Load} (h : l ∈ (q.gW n v).loads) :
    (l.dst = .g n → l.sup = true) ∧ ∃ x ∈ q.loads, x.dst = l.dst := by
  obtain ⟨g, f, e⟩ := Proc.gW_eq q n v
  rw [e] at h
  simp only [List.mem_map] at h
  obtain ⟨x, hx, rfl⟩ := h
  split
  · rename_i hd
    exact ⟨fun _ => rfl, x, hx, rfl⟩
  · rename_i hd
    exact ⟨fun h => absurd h hd, x, hx, rfl⟩

/-- An instruction that writes one general register and perhaps V. -/
theorem State.simple_computed (t : State) (p : BitVec 6) (rd : BitVec 5) (v : Word) (ov : Bool) (F : Proc → Proc)
    (hF : F { t.proc p with ip := (t.proc p).ip + 6 } = (Proc.gW { t.proc p with ip := (t.proc p).ip + 6 } rd v).flagV ov) :
    Computed t p (.next (t.simple p F)) rd v ov := by
  refine ⟨_, rfl, OnlyProc.modProc _ _ _, ?_⟩
  have hq : ((t.simple p F).proc p) = ((Proc.gW { t.proc p with ip := (t.proc p).ip + 6 } rd v).flagV ov).finish (t.proc p).ss := by
    rw [State.simple, State.proc_modProc, hF]
  rw [hq]
  generalize t.proc p = q
  have hl : ∀ l ∈ ((Proc.gW { q with ip := q.ip + 6 } rd v).flagV ov).loads, (l.dst = .g rd → l.sup = true) ∧ ∃ x ∈ q.loads, x.dst = l.dst := by
    intro l hl
    rw [Proc.flagV_eq] at hl
    exact Proc.gW_loads (q := { q with ip := q.ip + 6 }) hl
  have hg : ∀ n, ((Proc.gW { q with ip := q.ip + 6 } rd v).flagV ov).gR n = (Proc.gW { q with ip := q.ip + 6 } rd v).gR n := by
    intro n
    rw [Proc.flagV_eq]; rfl
  have hff : ∀ n, ((Proc.gW { q with ip := q.ip + 6 } rd v).flagV ov).fR n = q.fR n := by
    intro n
    rw [Proc.flagV_eq]
    exact Proc.gW_fR { q with ip := q.ip + 6 } rd n v
  obtain ⟨g, f, ls, ok, e⟩ := Proc.finish_eq ((Proc.gW { q with ip := q.ip + 6 } rd v).flagV ov) q.ss
  have e2 := Proc.flagV_eq (Proc.gW { q with ip := q.ip + 6 } rd v) ov
  obtain ⟨g3, f3, e3⟩ := Proc.gW_eq { q with ip := q.ip + 6 } rd v
  refine ⟨?_, ?_, ?_, ?_, ?_, ⟨?_, ?_⟩, ?_, ?_⟩
  · rw [Proc.finish_gR _ _ _ fun l h => (hl l h).1, hg, Proc.gW_same]
  · rw [e, e2, e3]
  · rw [e, e2, e3]; rfl
  · rw [e, e2, e3]
  · rw [e, e2, e3]
  · intro n hn hnl
    have hne : n ≠ rd := fun h => hn (by simp [h])
    rw [Proc.finish_gR _ _ _ fun l h hd => ?_, hg, Proc.gW_ne _ _ hne]
    · rfl
    · obtain ⟨x, hx, hxd⟩ := (hl l h).2
      exact absurd (hxd.trans hd) (hnl x hx)
  · intro n hn hnl
    rw [Proc.finish_fR _ _ _ fun l h hd => ?_, hff]
    obtain ⟨x, hx, hxd⟩ := (hl l h).2
    exact absurd (hxd.trans hd) (hnl x hx)
  · rw [e, e2, e3]
    exact ⟨rfl, rfl, rfl, rfl, rfl, rfl, rfl, rfl, rfl, rfl, rfl⟩
  · rw [e, e2, e3]

end Sys2Proof.Machine
end

