-- ==== Sys2Proof/Laws/Integer.lean ====
section
/-!
SUPPORT. What the shared operations of the integer instructions come to.
-/
namespace Sys2Proof.Machine

open Sys2Proof

/-- What an RR operation comes to. -/
theorem rrOp_computed {s t : State} {p : BitVec 6} {f : RR} (hz : f.z = 0) (h : s.Ready p [.g f.ra, .g f.rb] [.g f.rd] t) (op : Word → Word → Word × Bool) :
   Computed t p (rrOp p f op s) f.rd (op ((t.proc p).gR f.ra) ((t.proc p).gR f.rb)).1 (op ((t.proc p).gR f.ra) ((t.proc p).gR f.rb)).2 := by
  unfold rrOp
  rw [State.issue_ready h _ _ _ (by simp [hz]) (by simp)]
  exact State.simple_computed t p _ _ _ _ rfl

/-- What an RI operation comes to. -/
theorem riOp_computed {s t : State} {p : BitVec 6} {f : RI} {bad : Bool} (hz : bad = false) (h : s.Ready p [.g f.ra] [.g f.rd] t) (op : Word → BitVec 30 → Word × Bool) :
   Computed t p (riOp p f bad op s) f.rd (op ((t.proc p).gR f.ra) f.imm).1 (op ((t.proc p).gR f.ra) f.imm).2 := by
  unfold riOp
  rw [State.issue_ready h _ _ _ (by simp [hz]) (by simp)]
  exact State.simple_computed t p _ _ _ _ rfl

/-- An instruction whose fields break what must be zero is illegal (R69). -/
theorem issue_illegal {s t : State} {p : BitVec 6} {reads writes : List Reg} (h : State.Ready s p reads writes t) (priv : Bool)
    (body : State → State) : Raises t p (s.issue p true priv reads writes body) 1 := by
  have hf := h.2.1
  have hfe : s.fetch p = .ok t := by
    unfold State.afterFetch at hf
    generalize s.fetch p = r at hf ⊢
    cases r with
    | ok x => exact congrArg _ (Option.some.inj hf)
    | wait x => cases hf
    | bad x => cases hf
  unfold State.issue State.pre
  rw [h.1, hfe]
  exact ⟨_, rfl, rfl, rfl⟩

/-- What a long integer instruction comes to at its issue. -/
theorem longInt_started {t : State} {p : BitVec 6} {f : RR} (v : Word) (ov dz idiv hold div psw : Bool) (F : Proc → Proc)
  (hF : F { t.proc p with ip := (t.proc p).ip + 6 } = (Proc.longInt { t.proc p with ip := (t.proc p).ip + 6 } f.rd v ov dz idiv hold div psw)) :
   LongStarted t p (.next (t.simple p F)) (.g f.rd) (v.setWidth 64) ov dz (if dz && (t.proc p).dzt then 0x08 else if ov && (t.proc p).ovt then 0x07 else 0) 0 := by
  have hq : ((t.simple p F).proc p) = (Proc.longInt { t.proc p with ip := (t.proc p).ip + 6 } f.rd v ov dz idiv hold div psw).finish (t.proc p).ss := by
    rw [State.simple, State.proc_modProc, hF]
  obtain ⟨g, f', ls, ok, e⟩ := Proc.finish_eq (Proc.longInt { t.proc p with ip := (t.proc p).ip + 6 } f.rd v ov dz idiv hold div psw) (t.proc p).ss
  have hlo : ∀ l ∈ (Proc.longInt { t.proc p with ip := (t.proc p).ip + 6 } f.rd v ov dz idiv hold div psw).loads, ∃ x ∈ (t.proc p).loads, x.dst = l.dst := by
    intro l hl
    simp only [Proc.longInt, Proc.supersede, List.mem_map] at hl
    obtain ⟨x, hx, rfl⟩ := hl
    refine ⟨x, hx, ?_⟩
    split <;> rfl
  refine ⟨_, ?_, rfl, OnlyProc.modProc _ _ _, ?_, ?_,?_,?_,?_,?_,?_,?_,?_,?_,⟨?_,?_⟩,?_⟩
  rotate_left
  · rw [hq, e]; rfl
  all_goals try rfl
  · rw [hq, e]; rfl
  · rw [hq, e]; rfl
  · rw [hq, e]; rfl
  · intro n _ hn
    rw [hq, Proc.finish_gR]
    · rfl
    · intro l hl hd
      obtain ⟨x, hx, hxd⟩ := hlo l hl
      exact absurd (hxd.trans hd) (hn x hx)
  · intro n _ hn
    rw [hq, Proc.finish_fR]
    · rfl
    · intro l hl hd
      obtain ⟨x, hx, hxd⟩ := hlo l hl
      exact absurd (hxd.trans hd) (hn x hx)
  · rw [hq, e]
    exact ⟨rfl, rfl, rfl, rfl, rfl, rfl, rfl, rfl, rfl, rfl, rfl⟩

end Sys2Proof.Machine
end

