-- ==== Sys2Proof/Laws/MainStore.lean ====
section
/-!
SUPPORT. The main store: every operation on its bytes keeps the canonical form, and what each leaves alone.
-/
namespace Sys2Proof.Machine

open Sys2Proof

theorem Memory.wf_spPut (m : List Host.Cell) (a : Nat) (b : Byte) (h : Memory.wf m = true) : Memory.wf (spPut 0 m a b) = true := by
  simp only [Memory.wf, Bool.and_eq_true] at h ⊢
  exact ⟨spRising_spPut 0 m a b h.1, spNoDefault_spPut 0 m a b h.2⟩

theorem Memory.wf_spPutBytes (m : List Host.Cell) (a : Nat) (bs : List Byte) (h : Memory.wf m = true) : Memory.wf (spPutBytes 0 m a bs) = true := by
  induction bs generalizing m a with
  | nil => exact h
  | cons b bs ih => exact ih _ _ (Memory.wf_spPut m a b h)

theorem Memory.wf_cells (cs : List Host.Cell) (m : List Host.Cell) (a : Nat) (h : Memory.wf m = true) :
    Memory.wf (cs.foldl (fun m (o, b) => spPut 0 m (a + o) b) m) = true := by
  induction cs generalizing m with
  | nil => exact h
  | cons c cs ih => exact ih _ (Memory.wf_spPut m _ _ h)

/-- A fold of updates keeps a field that each update keeps. -/
theorem foldl_keeps {α β γ : Type} (g : α → γ) (f : α → β → α) (h : ∀ a b, g (f a b) = g a) (l : List β) (a : α) : g (l.foldl f a) = g a := by
  induction l generalizing a with
  | nil => rfl
  | cons b l ih => rw [List.foldl_cons, ih, h]

@[simp] theorem State.inject_ms (s : State) (l w : Nat) : (s.inject l w).ms = s.ms := by
  unfold State.inject; dsimp only; split <;> rfl

@[simp] theorem State.poisonWords_ms (s : State) (l : Nat) (ws : List Nat) : (s.poisonWords l ws).ms = s.ms := by
  unfold State.poisonWords; rw [foldl_keeps State.ms _ fun a b => State.inject_ms a l b]

@[simp] theorem State.poisonLine_ms (s : State) (l : Nat) : (s.poisonLine l).ms = s.ms := by
  unfold State.poisonLine; split <;> simp

@[simp] theorem State.event_ms (s : State) (e : Ev) : (s.event e).ms = s.ms := by
  rw [EventOnly.event s e]

@[simp] theorem State.wordEvent_ms (s : State) (l a b c d : Nat) (ys : List (BitVec 7)) : (s.wordEvent l a b c d ys).ms = s.ms := by
  unfold State.wordEvent; split <;> simp

@[simp] theorem State.addrMismatch_ms (s : State) (l m : Nat) : (s.addrMismatch l m).ms = s.ms := by
  unfold State.addrMismatch; dsimp only; split <;> simp

/-- What a correction writes keeps the canonical form (R227 note a). -/
theorem State.correct_wf (s : State) (l : Nat) (fixes : List (Nat × Word × BitVec 7 × Nat)) (h : Memory.wf s.ms = true) :
    Memory.wf (s.correct l fixes).ms = true := by
  unfold State.correct
  generalize homeR s.part l = x
  obtain ⟨st, r⟩ := x
  dsimp only
  induction fixes generalizing s with
  | nil => exact h
  | cons x xs ih =>
    rw [List.foldl_cons]
    refine ih _ ?_
    rw [State.inject_ms]
    exact Memory.wf_spPutBytes _ _ _ h

/-- What a read of a line does to the bytes of the array: it corrects words of that line. -/
theorem State.arrayRead_ms (s : State) (l : Nat) (err : List (BitVec 56)) (m : Nat) :
    (s.arrayRead l err m).2.2.ms = s.ms ∨ (s.arrayRead l err m).2.2.ms = (s.correct l (fixesOf (s.lineOuts l err))).ms := by
  unfold State.arrayRead
  dsimp only
  split
  · exact .inl rfl
  · refine .inr ?_
    (repeat' split) <;> simp

theorem State.arrayRead_wf (s : State) (l : Nat) (err : List (BitVec 56)) (m : Nat) (h : Memory.wf s.ms = true) :
    Memory.wf (s.arrayRead l err m).2.2.ms = true := by
  rcases State.arrayRead_ms s l err m with e | e <;> rw [e]
  · exact h
  · exact State.correct_wf _ _ _ h

theorem State.mergeRead_wf (s : State) (l : Nat) (bs : List Host.Cell) (m : Nat) (h : Memory.wf s.ms = true) :
    Memory.wf (s.mergeRead l bs m).ms = true := by
  unfold State.mergeRead
  split
  · exact State.arrayRead_wf _ _ _ _ h
  · exact h

/-- What a write to the array leaves: the bytes as they were, or the given bytes put into what the merging read left (R237). -/
theorem State.arrayWrite_ms (s : State) (l : Nat) (cells : List Host.Cell) (pois : Bool) (master : Nat) :
    let bs := cells.filter fun (o, _) => o < 96
    let s0 := s.mergeRead l bs master
    (s.arrayWrite l cells pois master).ms = s.ms ∨ (s.arrayWrite l cells pois master).ms = s0.ms ∨
      (s.arrayWrite l cells pois master).ms = bs.foldl (fun m (o, b) => spPut 0 m (96 * l + o) b) s0.ms := by
  unfold State.arrayWrite
  dsimp only
  split
  · exact .inl rfl
  · split
    · exact .inr (.inl rfl)
    · refine .inr (.inr ?_)
      split
      · simp
      · split
        · simp
        · rw [foldl_keeps State.ms _ (fun a b => State.inject_ms a l b)]

/-- A write to the array keeps the canonical form (R233, R237). -/
theorem State.arrayWrite_wf (s : State) (l : Nat) (cells : List Host.Cell) (pois : Bool) (master : Nat) (h : Memory.wf s.ms = true) :
    Memory.wf (s.arrayWrite l cells pois master).ms = true := by
  have w := State.mergeRead_wf s l (cells.filter fun (o, _) => o < 96) master h
  rcases State.arrayWrite_ms s l cells pois master with e | e | e <;> rw [e]
  · exact h
  · exact w
  · exact Memory.wf_cells _ _ _ w

theorem State.arrayLine_wf (s : State) (l : Nat) (d : List Byte) (pois : Bool) (master : Nat) (h : Memory.wf s.ms = true) :
    Memory.wf (s.arrayLine l d pois master).ms = true := State.arrayWrite_wf s l _ pois master h

end Sys2Proof.Machine
end

