-- ==== Sys2Proof/Tests/Slice0.lean ====
section
/-!
SUPPORT. Tests, one command on a small state each, whose expected results are read off the rules of spec/, and for every statement with
hypotheses a theorem `wit_…` that shows states and operands that meet them.
-/
section
set_option Elab.async false
namespace Sys2Proof.Tests
open Sys2Proof Sys2Proof.Machine

/-- A next state that meets a check. -/
def ok (r : Res) (f : State → Bool) : Bool := match r with | .next u => f u | _ => false
/-- A segment of 64 KiB with every right; one of device space; one of host memory; a persistent one. -/
def segX : Seg := { w1 := 0xFFFF, w2 := 0x6E0000 }
def segD : Seg := { w1 := 0xFFFFFF, w2 := 0x660002 }
def segH : Seg := { w1 := 0xFFFF, w2 := 0x660003 }
def segP : Seg := { w1 := 0xFFFF, w2 := 0x760000 }
/-- Processor 0 of a running module with its code line in the L1 instruction cache. -/
def pr : Proc := { run := .running, segs := [(12, segP), (13, segH), (14, segD), (15, segX)], g := [(1, 5), (2, 7), (4, 0xFFFFFFFFFFF9), (6, 960), (7, 0x800000000000)], f := [(1, 0x3FF0000000000000), (2, 0x4000000000000000)] }
def st : State := { phase := .run, procs := [(0, pr)], cores := [(0, { ic := [(0, 0)] })] }
/-- The same with another processor 0. -/
def with0 (q : Proc) : State := { st with procs := [(0, q)] }
theorem ready_rr : st.Ready 0 [.g 1, .g 4] [.g 3] st := by unfold State.Ready; decide +kernel
theorem ready_r0 : st.Ready 0 [.g 7, .g 0] [.g 0] st := by unfold State.Ready; decide +kernel
theorem wit_IntegerResults : st.Ready 0 [.g 1, .g 0] [.g 3] st ∧ st.Ready 0 [.g 0] [.g 3] st ∧ (0xFFFFFF : BitVec 30).toNat < 2 ^ 24 ∧ 2 ^ 24 ≤ (0x1000000 : BitVec 30).toNat := by
  unfold State.Ready; decide +kernel
theorem test_add : ok (exec (.add 0 ⟨3, 1, 4, 0⟩) st) (fun u => (u.proc 0).gR 3 = 0xFFFFFFFFFFFE ∧ (u.proc 0).ip = 6 ∧ (u.proc 0).psw = 0) = true := by decide +kernel
theorem test_add_overflows : ok (exec (.add 0 ⟨3, 7, 7, 0⟩) st) (fun u => (u.proc 0).gR 3 = 0 ∧ (u.proc 0).psw = 8) = true := by decide +kernel
theorem test_sub_borrows : ok (exec (.sub 0 ⟨3, 1, 2, 0⟩) st) (fun u => (u.proc 0).gR 3 = 0xFFFFFFFFFFFE ∧ (u.proc 0).psw = 0) = true := by decide +kernel
theorem test_g0_discards : ok (exec (.addu 0 ⟨0, 1, 2, 0⟩) st) (fun u => (u.proc 0).gR 0 = 0 ∧ (u.proc 0).ip = 6) = true := by decide +kernel
theorem test_slt_signed : ok (exec (.slt 0 ⟨3, 4, 1, 0⟩) st) (fun u => (u.proc 0).gR 3 = 1) && ok (exec (.sltu 0 ⟨3, 4, 1, 0⟩) st) (fun u => (u.proc 0).gR 3 = 0) = true := by decide +kernel
theorem test_lhi : ok (exec (.lhi 0 ⟨3, 0, 0xABCDEF⟩) st) (fun u => (u.proc 0).gR 3 = 0xABCDEF000000) = true := by decide +kernel
theorem test_lhi_too_wide : ok (exec (.lhi 0 ⟨3, 0, 0x1000000⟩) st) (fun u => ((u.proc 0).fault.map fun d => d.code) = some 1 ∧ (u.proc 0).ip = 0) = true := by decide +kernel
theorem test_addi_extends : ok (exec (.addi 0 ⟨3, 1, 0x3FFFFFFF⟩) st) (fun u => (u.proc 0).gR 3 = 4) = true := by decide +kernel
theorem test_andi_does_not_extend : ok (exec (.andi 0 ⟨3, 4, 0x3FFFFFFF⟩) st) (fun u => (u.proc 0).gR 3 = 0x3FFFFFF9) = true := by decide +kernel

theorem wit_ShiftAndRotateResults : st.Ready 0 [.g 4, .g 1] [.g 3] st ∧ (63 : BitVec 30).toNat < 64 ∧ ¬ (64 : BitVec 30).toNat < 64 ∧ st.Ready 0 [.g 4] [.g 3] st := by unfold State.Ready; decide +kernel
theorem test_shli_by_48 : ok (exec (.shli 0 ⟨3, 1, 48⟩) st) (fun u => (u.proc 0).gR 3 = 0) && ok (exec (.sari 0 ⟨3, 7, 63⟩) st) (fun u => (u.proc 0).gR 3 = 0xFFFFFFFFFFFF) = true := by decide +kernel
theorem test_rori_by_49 : ok (exec (.rori 0 ⟨3, 1, 49⟩) st) (fun u => (u.proc 0).gR 3 = 0x800000000002) = true := by decide +kernel

theorem wit_MultiplyAndDivide : st.Ready 0 [.g 7, .g 4] [.g 3] st ∧ (st.proc 0).gR 0 = 0 ∧ ((st.proc 0).longs.any fun x => x.idiv) = false ∧
    (0x800000000000 : Word).toInt = -(2 ^ 47) ∧ (0xFFFFFFFFFFFF : Word).toInt = -1 := by unfold State.Ready; decide +kernel
/-- Processor 0 with a long instruction that is to complete. -/
def longSt : State := with0 { pr with longs := [{ dst := .g 3, val := 9, fp := false, idiv := false, fdiv := false, hold := false, setV := true, setDZ := false, fl := 0, cause := 0, trap := 7 }] }
/-- The same with a multiply that RDPSW waits for. -/
def mulSt : State := with0 { pr with longs := [{ dst := .g 3, val := 9, fp := false, idiv := false, fdiv := false, hold := false, setV := true, setDZ := false, fl := 0, cause := 0, trap := 0, psw := true }] }
theorem wit_LongResult : ∃ x, (longSt.proc 0).longs[0]? = some x ∧ x.trap ≠ 0 := ⟨_, rfl, by decide⟩
theorem test_mul_then_completes : ok (exec (.mul 0 ⟨3, 4, 2, 0⟩) st) (fun u => (u.proc 0).longs.length = 1 ∧ ok (exec (.longResultComplete 0 0) u) fun v => (v.proc 0).gR 3 = 0xFFFFFFFFFFCF ∧ (v.proc 0).longs = []) = true := by decide +kernel
theorem test_div_rounds_to_zero : ok (exec (.div 0 ⟨3, 4, 1, 0⟩) st) (fun u => ((u.proc 0).longs.map fun x => x.val) = [0xFFFFFFFFFFFF]) = true := by decide +kernel
theorem test_rem_by_zero : ok (exec (.rem 0 ⟨3, 4, 0, 0⟩) st) (fun u => ((u.proc 0).longs.map fun x => (x.val, x.setDZ)) = [(0xFFFFFFFFFFF9, true)]) = true := by decide +kernel
theorem test_long_sets_v : ok (exec (.longResultComplete 0 0) longSt) (fun u => (u.proc 0).gR 3 = 9 ∧ (u.proc 0).psw = 8 ∧ ((u.proc 0).trap.map fun d => d.code) = some 7) = true := by decide +kernel

theorem wit_BranchesAndCalls : st.Ready 0 [.g 1] [] st ∧ st.Ready 0 [.g 0] [] st ∧ (8 : BitVec 4).toNat ≤ 8 ∧ ¬ (9 : BitVec 4).toNat ≤ 8 ∧ st.Ready 0 [] [.g 31] st ∧ st.Ready 0 [.g 1] [.g 31] st := by
  unfold State.Ready; decide +kernel
theorem test_bc_taken_back : ok (exec (.bc 0 ⟨1, 1, 0x7FFFFFFF⟩) st) (fun u => (u.proc 0).ip = 0xFFFFFFFFFFFA) && ok (exec (.bc 0 ⟨1, 0, 9⟩) st) (fun u => (u.proc 0).ip = 6) = true := by decide +kernel
theorem test_bc_reserved : ok (exec (.bc 0 ⟨1, 8, 9⟩) st) (fun u => ((u.proc 0).fault.map fun d => d.code) = some 1) && ok (exec (.bc 0 ⟨0, 9, 9⟩) st) (fun u => ((u.proc 0).fault.map fun d => d.code) = some 1) = true := by decide +kernel
theorem test_jr_reads_first : ok (exec (.jr 0 ⟨1, 1, 0, 0, 0⟩) st) (fun u => (u.proc 0).ip = 5 ∧ (u.proc 0).gR 1 = 6) = true := by decide +kernel
theorem test_call_links : ok (exec (.call 0 ⟨31, 8, 10⟩) st) (fun u => (u.proc 0).ip = 60 ∧ (u.proc 0).gR 31 = 6) = true := by decide +kernel

theorem wit_FloatingOperationsIssue : st.Ready 0 [.f 1, .f 2] [.f 3] st ∧ st.Ready 0 [.f 1] [.f 3] st ∧ st.Ready 0 [.f 1, .f 2] [.g 3] st ∧ st.Ready 0 [.f 1] [.g 3] st ∧ st.Ready 0 [.g 1] [.f 3] st ∧
    st.Ready 0 [.f 1, .f 2, .f 1] [.f 3] st ∧ ((st.proc 0).longs.any fun x => x.fdiv) = false := by unfold State.Ready; decide +kernel
theorem test_fadd : ok (exec (.fadd 0 ⟨3, 1, 2, true, 0⟩) st) (fun u => ((u.proc 0).longs.map fun x => (x.val, x.fl)) = [(0x4008000000000000, 0)]) = true := by decide +kernel
theorem test_fdiv_by_zero : ok (exec (.fdiv 0 ⟨3, 1, 0, true, 0⟩) st) (fun u => ((u.proc 0).longs.map fun x => x.val) = [0x7FF0000000000000]) = true := by decide +kernel
theorem test_flt : ok (exec (.flt 0 ⟨3, 1, 2, true, 0⟩) st) (fun u => ((u.proc 0).longs.map fun x => (x.dst, x.val)) = [(.g 3, 1)]) = true := by decide +kernel
theorem test_fmsub : ok (exec (.fmsub 0 ⟨3, 2, 2, 1, 0, true, 0⟩) st) (fun u => ((u.proc 0).longs.map fun x => x.val) = [0x4008000000000000]) = true := by decide +kernel
theorem wit_FloatingMovesAndRounding : st.Ready 0 [.f 1] [.f 3] st ∧ st.Ready 0 [.g 1, .f 2] [.f 2] st ∧ st.Ready 0 [.f 1] [.g 3] st ∧ roundQ 0 false 3 0 1 = (2, true) ∧ roundQ 4 false 5 0 1 = (3, true) ∧
    roundQ 2 true 5 0 1 = (2, true) := by unfold State.Ready; decide +kernel
theorem test_fneg_single : ok (exec (.fneg 0 ⟨3, 1, 0, false, 0⟩) st) (fun u => (u.proc 0).fR 3 = 0x80000000) = true := by decide +kernel
theorem test_fmvgf_hi_keeps : ok (exec (.fmvgfHi 0 ⟨2, 1, 0, 0⟩) st) (fun u => (u.proc 0).fR 2 = 0x0000000500000000) = true := by decide +kernel

theorem wit_LoadsIssue : st.Ready 0 [.g 6] [.g 3] st ∧ st.Ready 0 [.g 6] [.f 3] st ∧ (∃ d, st.access 0 .load 9 960 6 6 0 = .error d) ∧
    (∃ a q1, st.access 0 .load 15 960 6 6 0 = .ok a ∧ pr.loadStall = none ∧ pr.drainFor a 6 = some q1) := by
  unfold State.Ready
  refine ⟨by decide +kernel, by decide +kernel, ⟨_, rfl⟩, ⟨_, _, rfl, by decide, rfl⟩⟩
theorem test_lw_issues : ok (exec (.lw 0 ⟨3, 6, 15, 6⟩) st) (fun u => ((u.proc 0).loads.map fun l => (l.addr, l.rd, l.data)) = [(966, 3, none)] ∧ (u.proc 0).ip = 6) = true := by decide +kernel
theorem test_lw_misaligned : ok (exec (.lw 0 ⟨3, 6, 15, 1⟩) st) (fun u => ((u.proc 0).fault.map fun d => d.code) = some 6) = true := by decide +kernel
/-- A load of the word or part at 960 that has been asked for: of space `sp`, at position `pos`, with forwarded bytes or without. -/
def ld (k : LKind) (sp : BitVec 3) (pos : Nat) (fwd : Option (List Byte)) : Load :=
  { kind := k, rd := 3, seg := 15, space := sp, node := 0, addr := 960, off := 960, ip := 0, sn := 0, pos := pos, fwd := fwd, data := none, sup := false, tick := 0, asked := true }
def ldSt (l : Load) : State := { with0 { pr with loads := [l] } with ticks := 50, dev := [(aCxl 8, 4)] }
/-- A module whose cluster 0 holds line 10 in state x, in core 0's L1 as well. -/
def held10 (x : LS) (q : Proc) : State :=
  { with0 q with cores := [(0, { ic := [(0, 0)], dc := [(10, { st := .s, way := 0 })] })], clus := [(0, { lines := [(10, { st := x, way := 0, data := List.replicate 96 0x21 })] })] }
theorem noInj {s : State} (h : s.fe = []) : NoInjection s := by intro b; simp [State.feAt, h, spGetD, spGet]
theorem sound10 (x : LS) (q : Proc) : SoundLine (held10 x q) 0 10 { st := x, way := 0, data := List.replicate 96 0x21 } :=
  ⟨rfl, rfl, rfl, by intro y hy; simp [State.ccSet, State.clu, held10, spGetD, spGet] at hy; rw [hy.1], rfl, noInj rfl⟩
theorem alone (l : Load) (h : l.data = none) : LoadAlone { pr with loads := [l] } [] [] l := ⟨rfl, h, by simp⟩
theorem wit_LoadAsk : ({ ld .lw 3 0 none with asked := false }).asked = false ∧ pr.overlapped (ld .lw 3 0 none) = false ∧ st.loadLine (ld .lw 0 0 none) = some 10 := by decide +kernel
theorem wit_LoadsComplete : (ldSt (ld .lh 0 2 (some [1, 2, 0x80]))).phase = .run ∧ (ldSt (ld .lw 3 0 none)).mstat 2 = true ∧ (ldSt (ld .lw 3 0 none)).mstat 1 = false ∧
    ((ldSt (ld .lw 3 0 none)).proc 0).overlapped (ld .lw 3 0 none) = false ∧ ((ldSt (ld .lw 3 0 none)).proc 0).loadTurn (ld .lw 3 0 none) = true ∧
    ((ldSt (ld .lw 2 0 none)).proc 0).devTurn 0 960 = true ∧ (held10 .s pr).loadLine (ld .lw 0 0 none) = some 10 ∧ (spGet ((held10 .s pr).core 0).dc 10).isSome = true ∧
    ({ pr with resvFor := some 0 }).resvFor = some (ld .llw 0 1 none).sn ∧ LS.s.readable = true ∧ (ldSt (ld .lw 3 0 none)).loadLate 0 (ld .lw 3 0 none) = true ∧ pr.fault = none := by decide +kernel
theorem test_lh_extends : ok (exec (.loadDataArrival 0 0 [] false) (ldSt (ld .lh 0 2 (some [1, 2, 0x80])))) (fun u => (u.proc 0).gR 3 = 0xFFFFFF800201 ∧ (u.proc 0).loads = []) = true := by decide +kernel
theorem test_llw_in_shadow : ok (exec (.loadDataArrival 0 0 [] false) (held10 .e { pr with loads := [ld .llw 0 1 none], resvFor := some 0 })) (fun u => (u.proc 0).gR 3 = 0 ∧ (u.proc 0).loads.length = 1 ∧ (u.proc 0).resv = some 960) = true := by decide +kernel
theorem test_load_hits : ok (exec (.loadDataArrival 0 0 [] false) (held10 .s { pr with loads := [ld .lb 0 2 none] })) (fun u => (u.proc 0).gR 3 = 0x21) = true := by decide +kernel
theorem test_poisoned_load : ok (exec (.loadDataArrival 0 0 [1] true) (ldSt (ld .lw 3 0 none))) (fun u => ((u.proc 0).fault.map fun d => (d.code, d.xip)) = some (0x0B, 0) ∧ (u.proc 0).gR 3 = 0 ∧ (u.proc 0).loads = []) = true := by decide +kernel
theorem test_load_times_out : ok (exec (.loadTimeout 0 0) (ldSt (ld .lw 3 0 none))) (fun u => ((u.proc 0).fault.map fun d => d.code) = some 0x0B ∧ (u.proc 0).loads = []) = true := by decide +kernel

theorem wit_StoresEnterTheBuffers : st.Ready 0 [.g 6, .g 1] [] st ∧ st.Ready 0 [.g 6, .f 1] [] st ∧ (∃ d, st.access 0 .store 9 960 6 6 0 = .error d) ∧
    (∃ a q1, st.access 0 .store 12 960 6 6 0 = .ok a ∧ pr.drainFor a 6 = some q1 ∧ q1.sbRoom 1 = true ∧ a.persist = true) ∧
    (∃ a, st.access 0 .store 13 960 6 6 0 = .error a) ∧ (∃ a, st.access 0 .store 15 960 6 6 0 = .ok a ∧ a.space = 0) ∧ pr.comb.length < 4 ∧ ∀ x ∈ pr.comb, x.line ≠ 10 := by
  unfold State.Ready
  refine ⟨by decide +kernel, by decide +kernel, ⟨_, rfl⟩, ⟨_, _, rfl, rfl, by decide, by decide⟩, ⟨_, rfl⟩, ⟨_, rfl, by decide⟩, by decide, by decide⟩
theorem test_sh : ok (exec (.sh 0 ⟨4, 6, 15, 3⟩) st) (fun u => (u.proc 0).sb = [.entry ⟨0, 0, 0, 15, 2, false, false, [(963, 0xF9), (964, 0xFF), (965, 0xFF)]⟩] ∧ u.ms = []) = true := by decide +kernel
theorem test_stnt_combines : ok (exec (.stnt 0 ⟨1, 6, 15, 0⟩) st) (fun u => (u.proc 0).sb = [] ∧ ((u.proc 0).comb.map fun c => (c.line, c.bytes.length)) = [(10, 6)]) = true := by decide +kernel
/-- Processor 0 whose cluster owns line 10; a store in its store buffer. -/
def en (sp : BitVec 3) : Entry := ⟨0, sp, 0, 15, 2, false, false, [(961, 0xAA)]⟩
def own10 (x : LS) (q : Proc) : State := { with0 q with cores := [(0, { ic := [(0, 0)], dc := if x = .m then [(10, { st := .m, way := 0 })] else [] })], clus := [(0, { lines := [(10, { st := x, way := 0, data := List.replicate 96 0 })] })] }
theorem soundOwn (x : LS) (q : Proc) : SoundLine (own10 x q) 0 10 { st := x, way := 0, data := List.replicate 96 0 } :=
  ⟨rfl, rfl, rfl, by intro y hy; simp [State.ccSet, State.clu, own10, spGetD, spGet] at hy; rw [hy.1], rfl, noInj rfl⟩
theorem wit_StoreConditional : (own10 .m { pr with resv := some 960 }).Ready 0 [.g 6, .g 1] [.g 1] (own10 .m { pr with resv := some 960 }) ∧ st.Ready 0 [.g 6, .g 1] [.g 1] st ∧ pr.resv ≠ some 960 ∧
    (∃ a q1, (own10 .m { pr with resv := some 960 }).access 0 .store 15 960 6 6 0 = .ok a ∧ (own10 .m pr).cacheLine a = some 10 ∧ 96 * 10 + a.addr % 96 = 960 ∧ a.persist = false ∧ pr.drainFor a 6 = some q1) ∧
    (own10 .m pr).l1dWait 0 10 = false ∧ (∃ d, st.access 0 .store 9 960 6 6 0 = .error d) := by
  unfold State.Ready
  refine ⟨by decide +kernel, by decide +kernel, by decide, ⟨_, _, rfl, by decide +kernel, by decide, by decide, rfl⟩, by decide +kernel, ⟨_, rfl⟩⟩
theorem test_scw_succeeds : ok (exec (.scw 0 ⟨1, 6, 15, 0⟩) (own10 .m { pr with resv := some 960 })) (fun u => (u.proc 0).gR 1 = 1 ∧ (u.proc 0).resv = none ∧ ((u.cline 0 10).map fun c => c.data.take 2) = some [5, 0]) = true := by decide +kernel
theorem test_scw_fails : ok (exec (.scw 0 ⟨1, 6, 15, 0⟩) (own10 .m pr)) (fun u => (u.proc 0).gR 1 = 0 ∧ ((u.cline 0 10).map fun c => c.data.take 2) = some [0, 0]) = true := by decide +kernel
/-- A slot with one store. -/
def sl (sp : BitVec 3) (x : SlotStage) : Slot := ⟨0, [{ e := en sp, st := x, tick := 0 }], true⟩
theorem wit_StoresDepartAndEnd : ({ pr with sb := [SbItem.marker 0 5] }).slotsAt 0 5 = true ∧ pr.loadWaits (en 0) = false ∧ st.entryLine (en 2) = none ∧ pr.freeSlot = some 0 ∧ st.cxl.gpf = false ∧ st.mstat 1 = false ∧
    (own10 .m pr).entryLine (en 0) = some 10 ∧ (∃ x, spGet ((own10 .m pr).core 0).dc 10 = some x ∧ x.st ≠ .s) ∧ (own10 .m pr).hostCore 0 = 0 ∧ en 0 ∈ (sl 0 .waiting).entries := by
  refine ⟨by decide, by decide, by decide +kernel, by decide, rfl, by decide +kernel, by decide +kernel, ⟨_, rfl, by decide⟩, by decide +kernel, by decide⟩
theorem wit_SlotsEnd : (with0 { pr with slots := [sl 3 .sent] }).phase = .run ∧ (((with0 { pr with slots := [sl 3 .sent] }).proc 0).slots.find? fun y => y.id = 0) = some (sl 3 .sent) ∧
    (with0 { pr with slots := [sl 2 .sent] }).proc 0 = { pr with slots := [sl 2 .sent] } ∧ ({ pr with slots := [sl 2 .sent] } : Proc).devTurn 0 961 = true ∧
    (∀ y ∈ (sl 3 .sent).ents, ({ with0 { pr with slots := [sl 3 .sent] } with ticks := 50 } : State).storeLate 0 (sl 3 .sent) y = true) ∧
    ((with0 { pr with backoff := some 9 }).proc 0).backoff = some 9 ∧ (own10 .m { pr with slots := [sl 0 .waiting] }).entryLine (en 0) = some 10 ∧
    ([{ ld .llw 0 0 none with asked := false }].find? fun l => l.kind = .llw ∧ l.asked = false).isSome = true := by decide +kernel
theorem test_store_departs : ok (exec (.storeDepart 0) (own10 .m { pr with sb := [.entry (en 0)] })) (fun u => (u.proc 0).sb = [] ∧ ((u.cline 0 10).map fun c => (c.st, c.data.take 3)) = some (.m, [0, 0xAA, 0])) = true := by decide +kernel
theorem test_store_asks : ok (exec (.storeDepart 0) (own10 .s { pr with sb := [.entry (en 0)] })) (fun u => (u.proc 0).sb = [] ∧ (u.proc 0).slots.length = 1 ∧ (u.net.map fun m => (m.kind, m.line)) = [(.upg, 10)]) = true := by decide +kernel
theorem test_store_owned : ok (exec (.ownershipArrival 0 0) (own10 .m { pr with slots := [sl 0 .waiting] })) (fun u => (u.proc 0).slots = [] ∧ ((u.cline 0 10).map fun c => c.data.take 2) = some [0, 0xAA]) = true := by decide +kernel
theorem test_store_dropped : ok (exec (.storeTimeout 0 0) { with0 { pr with slots := [sl 0 .waiting] } with ticks := 50 }) (fun u => (u.proc 0).slots = [] ∧ (u.proc 0).drops = 1 ∧ u.ms = []) = true := by decide +kernel
theorem test_backoff_ends : ok (exec (.llwBackoffExpiry 0) (with0 { pr with backoff := some 9 })) (fun u => (u.proc 0).backoff = none) = true := by decide +kernel

def bf (store : Bool) (sc : BitVec 2) : BarF := ⟨0, 0, 0, 0, store, sc, 0⟩
def stored : State := with0 { pr with sb := [.entry (en 0)], sn := 3 }
def barred (d : Nat) (w : BarWait) : State := with0 { pr with bar := some w, drops := d, drop1 := some ⟨3, 13, 2, 0x1000⟩ }
theorem wit_Barriers : st.Ready 0 [] [] st ∧ stored.Ready 0 [] [] stored ∧ (stored.proc 0).sb = [.entry (en 0)] ∧ (en 0).sn < (stored.proc 0).sn ∧ (st.proc 0).entries.length ≤ 16 ∧
    (barred 0 ⟨false, false, 1, 9⟩).barDone 0 ⟨false, false, 1, 9⟩ = true ∧ (barred 2 ⟨false, false, 1, 9⟩).barDone 0 ⟨false, false, 1, 9⟩ = true ∧ (barred 2 ⟨false, false, 0, 9⟩).barDone 0 ⟨false, false, 0, 9⟩ = true := by
  unfold State.Ready; decide +kernel
theorem test_bar_waits : ok (exec (.bar 0 (bf false 1)) stored) (fun u => (u.proc 0).bar = some ⟨false, false, 1, 3⟩ ∧ (u.proc 0).ip = 0) = true := by decide +kernel
theorem test_store_bar_marks : ok (exec (.bar 0 (bf true 1)) stored) (fun u => (u.proc 0).sb = [.entry (en 0), .marker 1 3] ∧ (u.proc 0).ip = 6) = true := by decide +kernel
theorem test_barrier_fault : ok (exec (.barrierComplete 0) (barred 2 ⟨false, false, 1, 9⟩)) (fun u => ((u.proc 0).fault.map fun d => (d.code, d.info, d.paddr)) = some (0x0A, 2, 0x1000) ∧ (u.proc 0).drops = 2) = true := by decide +kernel
theorem test_pbar_done : ok (exec (.pbar 0 (bf false 2)) st) (fun u => (u.proc 0).ip = 6) && ok (exec (.pbar 0 (bf false 3)) st) (fun u => ((u.proc 0).fault.map fun d => d.code) = some 1) = true := by decide +kernel

/-- In a routine of function fn over segments 15 and 15, before n bytes; the cluster holds line 10, every byte 0x21. -/
def rt (fn : BitVec 3) : Routine := { fn := fn, a := 15, b := 15, started := false }
def inRoutine (fn : BitVec 3) (n : Word) : State := held10 .s { pr with routine := some (rt fn), g := [(1, 958), (2, 960), (3, n), (4, 0x1AB)] }
theorem wit_MicroRoutines : st.Ready 0 [.g 1, .g 2, .g 3, .g 4] [.g 1, .g 2, .g 3, .g 4] st ∧ ((inRoutine 1 0).proc 0).gR 3 = 0 ∧ ((inRoutine 1 3).proc 0).gR 3 ≠ 0 ∧ ((inRoutine 1 3).proc 0).ownStores = [] ∧
    ((inRoutine 1 3).proc 0).sbRoom 1 = true := by unfold State.Ready; decide +kernel
theorem wit_StepReady : StepReady (inRoutine 1 3) 0 (rt 1) := by unfold StepReady StepsOut; decide +kernel
theorem wit_StepClear : (∃ a, (inRoutine 1 3).routineAccess 0 (rt 1) true .mrWrite 0 = .ok a) ∧ (inRoutine 1 3).routineLen 0 (rt 1) = 2 ∧ (∃ x, (inRoutine 1 3).routineAccess 0 (rt 1) true .mrWrite 1 = .ok x) ∧
    (∃ d, (with0 { pr with g := [(1, 0x10000), (3, 1)] }).routineAccess 0 (rt 1) true .mrWrite 0 = .error d) ∧
    (∃ b, (inRoutine 3 3).routineAccess 0 (rt 3) false .mrRead 0 = .ok b ∧ (inRoutine 3 3).cacheLine b = some 10) ∧ (inRoutine 3 3).routineLen 0 (rt 3) = 3 := by
  refine ⟨⟨_, rfl⟩, by decide +kernel, ⟨_, rfl⟩, ⟨_, rfl⟩, ⟨_, rfl, by decide +kernel⟩, by decide +kernel⟩
theorem test_bfill_starts : ok (exec (.bfill 0 ⟨15, 0, 0, 0⟩) st) (fun u => (u.proc 0).routine = some { fn := 1, a := 15, b := 0, started := false } ∧ (u.proc 0).ip = 0) = true := by decide +kernel
theorem test_bfill_step : ok (exec (.microRoutineStep 0 [] false) (inRoutine 1 3)) (fun u => ((u.proc 0).sb.map fun x => match x with | .entry e => e.bytes | _ => []) = [[(958, 0xAB), (959, 0xAB)]] ∧ (u.proc 0).gR 1 = 960 ∧ (u.proc 0).gR 3 = 1) = true := by decide +kernel
theorem test_bmove_step : ok (exec (.microRoutineStep 0 [] false) (inRoutine 0 3)) (fun u => ((u.proc 0).sb.map fun x => match x with | .entry e => e.bytes | _ => []) = [[(958, 0x21), (959, 0x21)]] ∧ (u.proc 0).gR 2 = 962) = true := by decide +kernel
theorem test_bscan_step : ok (exec (.microRoutineStep 0 [] false) (inRoutine 3 3)) (fun u => (u.proc 0).gR 2 = 963 ∧ (u.proc 0).gR 3 = 0 ∧ (u.proc 0).ip = 6) = true := by decide +kernel
theorem test_routine_of_none : ok (exec (.microRoutineStep 0 [] false) (inRoutine 1 0)) (fun u => (u.proc 0).routine = none ∧ (u.proc 0).ip = 6 ∧ (u.proc 0).sb = []) = true := by decide +kernel

def usr : State := with0 { pr with psw := 1 }
theorem wit_PrivilegeAndControlRegisters : (usr.proc 0).user = true ∧ usr.Ready 0 [] [] usr ∧ (511 : BitVec 30).toNat < 512 ∧ (st.proc 0).user = false ∧ st.Ready 0 [] [.g 3] st ∧ st.Ready 0 [.g 1] [] st ∧ (crReg 40).isSome = true := by
  unfold State.Ready; decide +kernel
theorem test_halt_at_user : ok (exec (.halt 0 ⟨0, 0, 0, 0⟩) usr) (fun u => ((u.proc 0).fault.map fun d => d.code) = some 2 ∧ (u.proc 0).run = .running) = true := by decide +kernel
theorem test_mtcr_mfcr : ok (exec (.mtcr 0 ⟨0, 4, 40⟩) st) (fun u => (u.proc 0).crGet 40 = 0xFFFFFFFFFFF9 ∧ ok (exec (.mfcr 0 ⟨3, 0, 40⟩) u) fun v => (v.proc 0).gR 3 = 0xFFFFFFFFFFF9) = true := by decide +kernel

/-- A line's bytes, zero but for the listed ones; a module whose cluster 0 holds line l with them. -/
def lineWith (bs : List (Nat × Byte)) : List Byte := (List.range 96).map fun i => spGetD 0 bs i
def holding (s : State) (l : Nat) (bs : List (Nat × Byte)) : State := { s with clus := [(0, { lines := [(l, { st := .s, way := 0, data := lineWith bs })] })] }
/-- A descriptor table of 2 entries at 2400; the second describes 16 bytes at 24. -/
def segSt : State := holding (with0 { pr with cr := [(2, 2400), (3, 2)] }) 25 [(24, 24), (30, 15), (38, 0x2E)]
theorem wit_SegmentsAndStatus : segSt.Ready 0 [.g 1] [] segSt ∧ (segSt.proc 0).user = false ∧ fld ((segSt.proc 0).crGet 3) 23 0 ≤ (2 : Word).toNat ∧ (1 : Word).toNat < fld ((segSt.proc 0).crGet 3) 23 0 ∧
    segSt.inWindow 0 2424 24 = true ∧ descCheck 24 15 0x2E0000 = none ∧ st.Ready 0 [] [.g 3] st ∧ ((st.proc 0).longs.any fun x => x.psw) = false ∧ (mulSt.proc 0).longs.any (fun x => x.psw) = true ∧ mulSt.Ready 0 [] [.g 4] mulSt := by
  unfold State.Ready; decide +kernel
theorem wit_SegmentLoad : ∃ bs, segSt.ownRead 0 2424 24 = (some (bs, false), segSt) := ⟨_, rfl⟩
theorem test_segld : ok (exec (.segld 0 ⟨5, 0, 1⟩) segSt) (fun u => (u.proc 0).seg 5 = ⟨24, 15, 0x2E0000, 0, 1⟩) && ok (exec (.segld 0 ⟨5, 0, 2⟩) segSt) (fun u => ((u.proc 0).fault.map fun d => d.code) = some 3) = true := by decide +kernel
theorem test_wrpsw_at_user : ok (exec (.wrpsw 0 ⟨0, 4, 0, 0⟩) usr) (fun u => (u.proc 0).psw = 0x79) && ok (exec (.wrfpsw 0 ⟨0, 4, 0, 0⟩) st) (fun u => (u.proc 0).fpsw = 0x3FFF9) = true := by decide +kernel
theorem test_rdpsw_waits : ok (exec (.rdpsw 0 ⟨4, 0, 0, 0⟩) mulSt) (fun u => (u.proc 0).ip = 0) = true := by decide +kernel

theorem wit_SystemInstructions : st.Ready 0 [] [] st ∧ (st.proc 0).user = false ∧ (st.proc 0).comb = [] ∧ (st.proc 0).entries.length ≤ 16 ∧ (0xFFFF : BitVec 30).toNat < 2 ^ 16 ∧ 2 ^ 16 ≤ (0x10000 : BitVec 30).toNat := by
  unfold State.Ready; decide +kernel
theorem test_rfe : ok (exec (.rfe 0 ⟨0, 0, 0, 0⟩) (with0 { pr with cr := [(16, 66), (17, 0x7F), (22, 5), (24, 0x1000007), (25, 1)] })) (fun u => (u.proc 0).ip = 66 ∧ (u.proc 0).psw = 0x7F ∧ (u.proc 0).act = false ∧ ((u.proc 0).seg 15).index = 7 ∧ ((u.proc 0).seg 15).w1 = 5) = true := by decide +kernel
theorem test_svc : ok (exec (.svc 0 ⟨0, 0, 7⟩) st) (fun u => (u.proc 0).ip = 0 ∧ ((u.proc 0).fault.map fun d => (d.code, d.info, d.xip)) = some (0x11, 7, 6)) = true := by decide +kernel
/-- A processor in WAIT whose timer is pending. -/
def waiting : State := with0 { pr with run := .waiting, cr := [(41, 3)] }
theorem wit_WaitEnds : StepsOut waiting 0 ∧ (waiting.proc 0).run = .waiting ∧ (waiting.proc 0).ie = false ∧ waiting.timNow 0 = true := by unfold StepsOut; decide +kernel
theorem test_wait_ends : ok (exec (.exceptionEntry 0 0) waiting) (fun u => (u.proc 0).run = .running ∧ (u.proc 0).ip = 6) = true := by decide +kernel

/-- An SVC is due; the vector entry of code 0x11 stands at 816. -/
def dueSt : State := holding (with0 { pr with psw := 0x7B, ip := 6, trap := some { code := 0x11, xip := 6, info := 7 }, resv := some 960 }) 8 [(54, 0xFF), (55, 0xFF), (62, 0x28), (72, 0x30), (78, 9)]
def dueAct : State := { dueSt with procs := [(0, { dueSt.proc 0 with cr := [(25, 1)] })] }
theorem wit_ExceptionEntrySavesAndVectors : dueSt.phase = .run ∧ dueSt.hasProc 0 = true ∧ (dueSt.proc 0).act = false ∧ (∃ d, dueSt.chosen 0 = some d ∧ d.code = 0x11) ∧ dueSt.inWindow 0 816 48 = true ∧
    (∃ bs, (dueSt.setProc 0 (dueSt.proc 0)).ownRead 0 816 48 = (some (bs, false), dueSt.setProc 0 (dueSt.proc 0)) ∧ lineWord bs 4 = 0x30) ∧ descCheck 0 0xFFFF 0x280000 = none ∧
    st.chosen 0 = none ∧ legalWord 0 = false ∧ st.able 0 = true ∧ st.afterFetch 0 = some st := by
  and_intros <;> first | exact ⟨_, rfl, rfl⟩ | exact ⟨_, rfl, by decide +kernel⟩ | decide +kernel
theorem test_exception_entry : ok (exec (.exceptionEntry 0 0) dueSt) (fun u => (u.proc 0).ip = 0x30 ∧ (u.proc 0).psw = 0x78 ∧ (u.proc 0).crGet 16 = 6 ∧ (u.proc 0).crGet 17 = 0x7B ∧ (u.proc 0).act = true ∧ (u.proc 0).resv = none ∧
    (u.proc 0).seg 15 = ⟨0, 0xFFFF, 0x280000, 0, 9⟩ ∧ (u.proc 0).g = pr.g ∧ (u.proc 0).trap = none) = true := by decide +kernel
theorem test_double_fault : ok (exec (.exceptionEntry 0 0) dueAct) (fun u => (u.proc 0).run = .contained ∧ (u.proc 0).ip = 6) = true := by decide +kernel
def far : State := { dueSt with procs := [(0, { dueSt.proc 0 with cr := [(26, 0xFFFFFFFFF000)] })] }
theorem wit_ExceptionOrderAndDoubleFault : (dueAct.proc 0).act = true ∧ (dueAct.chosen 0).isSome = true ∧ (far.proc 0).act = false ∧ (far.chosen 0).isSome = true ∧
    far.inWindow 0 (((far.proc 0).crGet 26).toNat + 48 * 0x11) 48 = false ∧ (with0 { pr with psw := 2, cr := [(41, 3)] }).timNow 0 = true ∧ ((with0 { pr with psw := 2, cr := [(41, 3)] }).proc 0).interruptible = true ∧
    (with0 { pr with psw := 2, cr := [(41, 3)] }).mbxNow 0 = false ∧ (pr.inShadow = false) ∧ ({ pr with stepDue := true } : Proc).stepDue = true := by decide +kernel
theorem test_timer_is_next : ((with0 { pr with psw := 2, cr := [(41, 3)] }).chosen 0).map (fun d => d.code) = some 0x0E := by decide +kernel

/-- Cluster 0 in checked mode. -/
def chk : State := { st with dev := [(aClu 0 0x400, 1)] }
def irqSt : State := { st with dev := [(aClu 0 (0x100 + 8 * 5), 0x8880), (aTun 0x50, 0x45)] }
theorem wit_InterruptsClaimAndTimer : (irqSt.rg (aTun 0x50)).getLsbD 6 = true ∧ irqSt.hasClu 0 = true ∧ fld (irqSt.rg (aTun 0x50)) 5 0 < 48 ∧ (irqSt.rg (aCob 0x80)).getLsbD 6 = false ∧ irqSt.viaReach .pf (aClu 0 0x300) = true ∧
    irqSt.presented 0 = some 5 ∧ st.presented 0 = none ∧ ((with0 { pr with cr := [(40, 0xFFFFFFFFFFFF), (41, 1)] }).proc 0).crGet 41 = 1 ∧ ((0 : Word) - 0xFFFFFFFFFFFF).getLsbD 47 = false := by decide +kernel
theorem test_event_pends : ok (exec (.interruptLineEvent .tun) irqSt) (fun u => u.iline 0 5 = 0x8880) && ok (exec (.interruptLineEvent .tun) { st with dev := [(aTun 0x50, 0x45)] }) (fun u => u.iline 0 5 = 0x8000) = true := by decide +kernel
theorem test_iack : ok (exec (.iack 0) irqSt) (fun u => u.outbox = [.value 0x21 69] ∧ u.iline 0 5 = 0x880) = true := by decide +kernel
theorem test_timer : ok (exec (.timerCompareReached 0) (with0 { pr with cr := [(40, 0xFFFFFFFFFFFF), (41, 1)] })) (fun u => (u.proc 0).timPend = true) = true := by decide +kernel

theorem wit_CheckingAndRetry : chk.checked 0 = true ∧ chk.hasProc 0 = true ∧ NoInjection chk ∧ (st.proc 0).tries < 3 ∧ chk.pairChecked 0 = true ∧ st.pairChecked 0 = false ∧ (chk.proc 0).triesMism = 0 ∧
    ({ pr with triesMism := 1 } : Proc).triesMism = 1 ∧ 9 ≤ ({ with0 { pr with tries := 3 } with dev := [(aClu 0 0x410, 15)] } : State).spare 0 := by
  refine ⟨by decide +kernel, by decide +kernel, noInj rfl, by decide +kernel, by decide +kernel, by decide +kernel, by decide +kernel, by decide, by decide +kernel⟩
theorem test_retry : ok (exec (.detectedTransient 0 1) st) (fun u => (u.proc 0).tries = 1 ∧ (u.proc 0).par = 1 ∧ (u.proc 0).g = pr.g) = true := by decide +kernel
theorem test_mismatch_only_of_pairs : ok (exec (.comparatorMismatch 0 2) chk) (fun u => (u.proc 0).mism = 1) && ok (exec (.comparatorMismatch 0 2) st) (fun u => u = st) = true := by decide +kernel

def testing : State := { chk with clus := [(0, { sparing := [{ p := 0, core := 0, bg := false, kind := 2 }] })], procs := [(0, { pr with paused := some 2 })], dev := [(aClu 0 0x400, 1), (aClu 0 0x410, 15)] }
def cpfSt : State := { chk with procs := [(0, { pr with cpf := true, ip := 6 })] }
def retired : State := { st with dev := [(aClu 0 0x410, 0x4F)] }
theorem wit_PairsAndSparing : (testing.clu 0).sparing = [{ p := 0, core := 0, bg := false, kind := 2 }] ∧ 9 ≤ testing.spare 0 ∧ mapAt (chk.map 0) 4 < 9 ∧ (cpfSt.proc 0).cpf = true ∧ cpfSt.quietPoint 0 = true ∧ cpfSt.spare 0 < 9 ∧ st.viaReach .pf (aClu 0 0x418) = true ∧
    (st.clu 0).sparing = [] ∧ 9 ≤ retired.spare 0 ∧ st.spare 0 < 9 ∧ mapAt (st.map 0) 7 < 9 ∧ st.checked 0 = false ∧ (retired.spareReg 0).getLsbD (4 + 2) = true ∧ st.hasProc 0 = true ∧ chk.checked 0 = true := by decide +kernel
theorem test_failed_leader : ok (exec (.selfTestOutcome 0 false true) testing) (fun u => mapAt (u.map 0) 0 = 4 ∧ (u.proc 0).paused = none ∧ ((u.proc 0).crGet 1).getLsbD 1 = true) = true := by decide +kernel
theorem test_move : ok (exec (.spctlMove .pf 0 7) st) (fun u => mapAt (u.map 0) 7 = 8 ∧ u.spare 0 = 7) = true := by decide +kernel
theorem test_retest : ok (exec (.spctlRetest .pf 0 2 true) retired) (fun u => u.spare 0 = 2) = true := by decide +kernel

theorem wit_CacheMaintenance : st.Ready 0 [.g 6] [] st ∧ st.Ready 0 [.g 6, .g 1] [.g 3] st ∧ (st.proc 0).user = false ∧ (∃ a q1 l, st.access 0 .cmo 15 960 1 1 0 = .ok a ∧ pr.drainFor a 1 = some q1 ∧ st.cacheLine a = some l) ∧
    (∃ d, st.access 0 .cmo 9 960 1 1 0 = .error d) ∧ st.cmrCheck 0 15 960 5 = none ∧ (st.cmrCheck 0 9 960 5).isSome = true ∧ (st.clu 0).engineBusy = false ∧ ({ job := some (ctlJob .pf .cache) } : Clu).engineBusy = true := by
  unfold State.Ready
  refine ⟨by decide +kernel, by decide +kernel, by decide +kernel, ⟨_, _, _, rfl, rfl, rfl⟩, ⟨_, rfl⟩, by decide +kernel, by decide +kernel, by decide +kernel, by decide +kernel⟩
theorem test_cmo_clean : ok (exec (.cmoClean 0 ⟨6, 15, 0⟩) st) (fun u => (u.net.map fun m => (m.kind, m.line)) = [(.cln, 10)] ∧ (u.proc 0).cmos = 1 ∧ (u.proc 0).ip = 6) = true := by decide +kernel
theorem test_cmo_iinv : ok (exec (.cmoIinv 0 ⟨0, 15, 0⟩) st) (fun u => (u.core 0).ic = [] ∧ (u.proc 0).ip = 6) = true := by decide +kernel
theorem test_cmr : ok (exec (.cmrClean 0 ⟨3, 6, 1, 15, 0, 0⟩) st) (fun u => (u.proc 0).gR 3 = 1 ∧ (u.clu 0).job = some (ctlJob (.proc 0) (.range 0 960 5))) && ok (exec (.cmrPreload 0 ⟨3, 6, 0, 15, 0, 0⟩) st) (fun u => (u.proc 0).gR 3 = 1 ∧ (u.clu 0).job = none) = true := by decide +kernel
/-- Cluster 0's engine runs a job, or has one waiting. -/
def job (j : JobK) : State := { st with clus := [(0, { job := some (ctlJob .pf j) })] }
def ctlq (j : JobK) : State := { st with clus := [(0, { ctlq := [ctlJob .pf j] })] }
/-- The same with a dirty line 10 in its cache. -/
def jobDirty (j : JobK) : State := { st with clus := [(0, { job := some (ctlJob .pf j), lines := [(10, { st := .m, way := 0, data := List.replicate 96 7 })] })] }
theorem wit_MaintenanceEngine : ((ctlq (.l1 0)).clu 0).job = none ∧ ((ctlq (.power 0x1FFF)).clu 0).ctlq = [ctlJob .pf (.power 0x1FFF)] ∧ 12 < popFld ((0x1FFF : BitVec 16).zeroExtend 48) 15 0 ∧
    popFld ((3 : BitVec 16).zeroExtend 48) 15 0 ≤ 12 ∧ ((job (.l1 0)).clu 0).job = some (ctlJob .pf (.l1 0)) ∧
    ((job .cache).clu 0).lines = [] ∧ (({ st with clus := [(0, { search := some (3, 2) })] } : State).clu 0).search = some (3, 2) ∧ st.dir = [] ∧
    (jobDirty .cache).quietLine 10 = true ∧ 10 < st.part.msLines ∧ (jobDirty .cache).fenced 10 = false ∧ linesOf 960 0 = [] ∧ linesOf 960 5 = [10] ∧ (jobDirty .cache).readNow 10 = true := by decide +kernel
theorem wit_CleanLine : CleanLine (jobDirty .cache) 10 ∧ NoInjection (jobDirty .cache) := ⟨⟨by decide +kernel, fun _ _ => rfl⟩, noInj rfl⟩
theorem test_job_ends : ok (exec (.maintenanceJobEnd 0) (job (.l1 0))) (fun u => (u.proc 0).dst = 0 ∧ (u.clu 0).job = none) && ok (exec (.maintenanceJobEnd 0) (job .cache)) (fun u => u.ccState 0 = 0) && ok (exec (.maintenanceJobEnd 0) (jobDirty .cache)) (fun u => u.byteAt 963 = 7 ∧ (u.clu 0).lines = []) = true := by decide +kernel
theorem test_power_job_refused : ok (exec (.controlJobStart 0) (ctlq (.power 0x1FFF))) (fun u => (u.clu 0).job = none ∧ (u.clu 0).ctlq = []) = true := by decide +kernel
def mopSt : State := { st with dev := [(aCc 0 0x20, 96), (aCc 0 0x28, 192)] }
theorem wit_CacheControl : st.viaReach .pf (st.crOff 0 96) = true ∧ st.viaReach .pf (st.crOff 0 98) = true ∧ (st.proc 0).dst = 1 ∧ ({ pr with cr := [(96, 1)] } : Proc).dst = 0 ∧ st.viaReach .pf (aCc 0 0) = true ∧ st.ccState 0 = 1 ∧
    ({ st with dev := [(aCc 0 0, 0)] } : State).viaReach .pf (aCc 0 0x30) = true ∧ (mopSt.rg (aCc 0 0x28)).toNat ≠ 0 ∧ 96 + 192 ≤ mopSt.part.msBytes ∧ (mopSt.clu 0).engineBusy = false ∧ st.viaReach .pf (aCc 0 0x10) = true ∧
    popFld 0x3FFF 15 0 ≤ 14 ∧ 14 < popFld 0x7FFF 15 0 ∧ st.viaReach .pf (aCc 0 0x18) = true ∧ (0xFF : Word).extractLsb' 0 16 ≠ (st.rg (aCc 0 0x18)).extractLsb' 0 16 := by decide +kernel
theorem test_l1_off : ok (exec (.l1DataDisable .pf 0) st) (fun u => (u.proc 0).dst = 2 ∧ (u.clu 0).ctlq = [ctlJob .pf (.l1 0)]) && ok (exec (.l1InstructionDisable .pf 0) st) (fun u => (u.core 0).ic = [] ∧ (u.proc 0).ist = 0) = true := by decide +kernel
theorem test_cc_off_on : ok (exec (.clusterCacheDisable .pf 0) st) (fun u => u.ccState 0 = 2) = true := by decide +kernel
theorem test_mop : ok (exec (.mopClean .pf 0) mopSt) (fun u => (u.clu 0).job = some (ctlJob .pf (.range 0 96 192))) = true := by decide +kernel
theorem test_lock_too_many : ok (exec (.ccLockWrite .pf 0 0x7FFF) st) (fun u => fld (u.rg (aCc 0 0x10)) 15 0 = 0) && ok (exec (.ccLockWrite .pf 0 3) st) (fun u => fld (u.rg (aCc 0 0x10)) 15 0 = 3) = true := by decide +kernel
theorem test_power_asks : ok (exec (.ccPwrWrite .pf 0 0xFF) st) (fun u => (u.clu 0).ctlq = [ctlJob .pf (.power 0xFF)]) = true := by decide +kernel

/-- Messages of cluster 0 to the home of line 10 and back. -/
def toHome (x : MK) : Msg := { src := .ag (.cluster 0), dst := st.homeNode 10, kind := x, line := 10, req := .cluster 0, data := List.replicate 96 7 }
def fromHome (x : MK) : Msg := { src := st.homeNode 10, dst := .ag (.cluster 0), kind := x, line := 10, req := .cluster 1, data := List.replicate 96 7, tag := 100 }
def netSt (m : Msg) (d : Dir) : State := { st with net := [m], dir := [(10, d)] }
theorem clean10 {s : State} (h : s.flips = []) (f : s.fenced 10 = false) : CleanLine s 10 := ⟨f, by intro w _; simp [h, spGetD, spGet]⟩
theorem wit_HomeGrantsLines : CleanLine (netSt (toHome .rdS) {}) 10 ∧ DirRoom (netSt (toHome .rdS) {}) 10 (.cluster 0) ∧ AtHome (netSt (toHome .rdS) {}) 10 (.cluster 0) (fun x => x = .rdS) (toHome .rdS) [] ∧
    AtHome (netSt (toHome .rdX) { st := .em, owner := .clu 1 }) 10 (.cluster 0) (fun x => x = .rdX) (toHome .rdX) [] ∧ (Own.clu 1).agent = some (.cluster 1) ∧
    AtHome (netSt (toHome .upg) { st := .s, shr := 3 }) 10 (.cluster 0) (fun x => x = .upg) (toHome .upg) [] ∧ ({ st := .s, shr := 3 } : Dir).shares (.cluster 0) = true ∧ ({} : Dir).shares (.cluster 0) = false ∧
    AtHome (netSt (toHome .upg) { st := .o, owner := .clu 1, shr := 1 }) 10 (.cluster 0) (fun x => x = .upg) (toHome .upg) [] := by
  refine ⟨clean10 rfl (by decide +kernel), ?_⟩
  unfold DirRoom AtHome; decide +kernel
theorem test_rds_free : ok (exec (.rds 10 (.cluster 0)) (netSt (toHome .rdS) {})) (fun u => (u.net.map fun m => (m.kind, m.acks)) = [(.data .e, 0)] ∧ (u.dirOf 10).st = .em ∧ (u.dirOf 10).owner = .clu 0) = true := by decide +kernel
theorem test_rdx_owned : ok (exec (.rdx 10 (.cluster 0)) (netSt (toHome .rdX) { st := .o, owner := .clu 1, shr := 4 })) (fun u => (u.net.map fun m => (m.kind, m.dst, m.acks)) = [(.fwdX, .ag (.cluster 1), 1), (.inv, .ag (.cluster 2), 0)] ∧ (u.dirOf 10).owner = .clu 0) = true := by decide +kernel
theorem test_upg_shared : ok (exec (.upg 10 (.cluster 0)) (netSt (toHome .upg) { st := .s, shr := 3 })) (fun u => (u.net.map fun m => (m.kind, m.dst, m.acks)) = [(.data .m, .ag (.cluster 0), 1), (.inv, .ag (.cluster 1), 0)]) = true := by decide +kernel
theorem wit_HomeWritesAndEvictions : AtHome (netSt (toHome (.wb 0)) { st := .em, owner := .clu 0 }) 10 (.cluster 0) (fun x => match x with | .wb _ => true | _ => false) (toHome (.wb 0)) [] ∧ (toHome (.wb 0)).data.length = 96 ∧
    ({ st := .em, owner := .clu 0 } : Dir).owns (.cluster 0) = true ∧ AtHome (netSt (toHome .evC) { st := .s, shr := 1 }) 10 (.cluster 0) (fun x => x = .evC) (toHome .evC) [] ∧
    (st.net.any fun x => x.line = 10 ∧ x.src = .ag (.unc 0x100) ∧ x.kind = .rdU) = false ∧ AtHome (netSt { toHome .wrF with tag := 100 } {}) 10 (.cluster 0) (fun x => x = .wrF) { toHome .wrF with tag := 100 } [] ∧
    AtHome (netSt { toHome .wrP with bytes := [(0, 1), (95, 2)], tag := 100 } {}) 10 (.cluster 0) (fun x => x = .wrP) { toHome .wrP with bytes := [(0, 1), (95, 2)], tag := 100 } [] ∧ spRising none [((0 : Nat), (1 : Byte)), (95, 2)] = true ∧
    AtHome (netSt (toHome .wrF) { st := .o, owner := .clu 1, shr := 4 }) 10 (.cluster 0) (fun x => x = .wrF) (toHome .wrF) [] ∧ AtHome (netSt { toHome .cln with tag := 1 } {}) 10 (.cluster 0) (fun x => x = .cln) { toHome .cln with tag := 1 } [] := by
  unfold AtHome; decide +kernel
theorem wit_HomeWritesAndEvictions_held : AtHome (netSt (toHome .cln) { st := .em, owner := .clu 1 }) 10 (.cluster 0) (fun x => x = .cln) (toHome .cln) [] ∧ AtHome (netSt (toHome .clInv) { st := .em, owner := .clu 1 }) 10 (.cluster 0) (fun x => x = .clInv) (toHome .clInv) [] := by
  unfold AtHome; decide +kernel
theorem test_wb : ok (exec (.wb 10 (.cluster 0)) (netSt (toHome (.wb 0)) { st := .em, owner := .clu 0 })) (fun u => u.byteAt 960 = 7 ∧ u.byteAt 1055 = 7 ∧ u.byteAt 1056 = 0 ∧ u.dir = [] ∧ (u.net.map fun m => m.kind) = [.wbAck]) = true := by decide +kernel
theorem test_wrp : ok (exec (.wrp 10 (.cluster 0)) (netSt { toHome .wrP with bytes := [(0, 1), (95, 2)], tag := 100 } {})) (fun u => u.ms = [(960, 1), (1055, 2)]) = true := by decide +kernel
theorem test_evc : ok (exec (.evc 10 (.cluster 0)) (netSt (toHome .evC) { st := .s, shr := 1 })) (fun u => (u.net.map fun m => m.kind) = [.evAck] ∧ u.dir = []) = true := by decide +kernel
theorem test_upg_of_sharer_in_o : ok (exec (.upg 10 (.cluster 0)) (netSt (toHome .upg) { st := .o, owner := .clu 1, shr := 1 })) (fun u => (u.net.map fun m => (m.kind, m.dst, m.acks)) = [(.data .m, .ag (.cluster 0), 1), (.inv, .ag (.cluster 1), 0)] ∧ (u.dirOf 10).owner = .clu 0) = true := by decide +kernel
theorem test_cln_owned : ok (exec (.cln 10 (.cluster 0)) (netSt (toHome .cln) { st := .em, owner := .clu 1 })) (fun u => (u.net.map fun m => (m.kind, m.dst)) = [(.down, .ag (.cluster 1))] ∧ (u.dirOf 10).opens = 1) = true := by decide +kernel

def holder (x : LS) (m : Msg) : State := { own10 x pr with net := [m] }
theorem wit_HoldersAnswer : st.lineOk 10 = true ∧ NoInjection (holder .o (fromHome .fwdS)) ∧ (holder .o (fromHome .fwdS)).hidden 0 10 = false ∧
    (∃ c, (holder .o (fromHome .fwdS)).cline 0 10 = some c ∧ c.st = .o ∧ c.fq = [] ∧ c.flip = 0 ∧ c.heir = none) ∧ (holder .o (fromHome .fwdS)).slotWaits 0 10 = false ∧
    takeMsg (fun m => m.line = 10 ∧ m.dst = .ag (.cluster 0) ∧ m.kind = .fwdS) [] (holder .o (fromHome .fwdS)).net = some (fromHome .fwdS, []) ∧
    takeMsg (fun m => m.line = 10 ∧ m.dst = .ag (.cluster 0) ∧ (m.kind = .recall ∨ m.kind = .down)) [] [fromHome .recall] = some (fromHome .recall, []) ∧
    takeMsg (fun m => m.line = 10 ∧ m.dst = .ag (.cluster 0) ∧ m.kind.grants = true) [] [fromHome (.data .s)] = some (fromHome (.data .s), []) ∧ (fromHome (.data .m)).data ≠ [] ∧
    takeMsg (fun m => m.line = 10 ∧ m.req = .cluster 0 ∧ m.kind = .invAck) [] [{ fromHome .invAck with req := .cluster 0 }] = some ({ fromHome .invAck with req := .cluster 0 }, []) ∧
    takeMsg (fun m => m.line = 10 ∧ m.src = .ag (.cluster 0) ∧ m.kind = .cmp) [] [toHome .cmp] = some (toHome .cmp, []) ∧ ((st.stack (st.sliceOf 10)).queue.find? fun m => m.line = 10) = none := by
  and_intros <;> first | exact noInj rfl | exact ⟨_, rfl, rfl, rfl, rfl, rfl⟩ | decide +kernel
theorem wit_HoldersAnswer_inv :
    takeMsg (fun m => m.line = 10 ∧ m.dst = .ag (.cluster 0) ∧ m.kind = .inv ∧ m.owner = false) [] [{ fromHome .inv with owner := true }] = none ∧
    takeMsg (fun m => m.line = 10 ∧ m.dst = .ag (.cluster 0) ∧ m.kind = .inv) [] [{ fromHome .inv with owner := true }] = some ({ fromHome .inv with owner := true }, []) ∧
    takeMsg (fun m => m.line = 10 ∧ m.dst = .ag (.cluster 0) ∧ m.kind = .inv ∧ m.owner = false) [] [fromHome .inv] = some (fromHome .inv, []) ∧ st.cline 0 10 = none ∧
    ({ fromHome .invAck with req := .cluster 0, dst := st.homeNode 10, src := .ag (.cluster 3) } : Msg).dst = st.homeNode 10 ∧
    ((spGetD {} [((10 : Nat), ({ txn := some { msg := toHome .wrP, acks := 2 } } : Dir))] 10).txn = some { msg := toHome .wrP, acks := 2 }) := by decide +kernel
theorem test_fwdx : ok (exec (.fwdx 10 (.cluster 0)) (holder .m (fromHome .fwdX))) (fun u => u.cline 0 10 = none ∧ (u.net.map fun m => (m.kind, m.dst)) = [(.data .m, .ag (.cluster 1))]) = true := by decide +kernel
theorem test_fwdx_meets_eviction : ok (exec (.fwdx 10 (.cluster 0)) (holder .eb (fromHome .fwdX))) (fun u => ((u.cline 0 10).map fun c => (c.st, c.heir)) = some (.eb, some (.cluster 1)) ∧ (u.net.map fun m => (m.kind, m.dst)) = [(.data .m, .ag (.cluster 1))]) = true := by decide +kernel
theorem test_grant_completes : ok (exec (.dataGrant 10 (.cluster 0)) (holder .is (fromHome (.data .s)))) (fun u => ((u.cline 0 10).map fun c => (c.st, c.data.take 1)) = some (.s, [7]) ∧ (u.net.map fun m => m.kind) = [.cmp]) = true := by decide +kernel
theorem test_inv : ok (exec (.inv 10 (.cluster 0)) (holder .s (fromHome .inv))) (fun u => u.cline 0 10 = none ∧ (u.net.map fun m => (m.kind, m.dst)) = [(.invAck, .ag (.cluster 1))]) = true := by decide +kernel
theorem test_inv_in_om : ok (exec (.inv 10 (.cluster 0)) (holder .om (fromHome .inv))) (fun u => ((u.cline 0 10).map fun c => c.st) = some .im ∧ (u.net.map fun m => m.kind) = [.invAck]) = true := by decide +kernel
theorem test_grant_waits_for_acks : ok (exec (.dataGrant 10 (.cluster 0)) (holder .im { fromHome (.data .m) with acks := 2 })) (fun u => ((u.cline 0 10).map fun c => (c.st, c.acks)) = some (.ma, 2) ∧ u.net = []) = true := by decide +kernel
theorem test_last_ack : ok (exec (.invAck 10 (.cluster 0)) { holder .ma { fromHome .invAck with req := .cluster 0 } with clus := [(0, { lines := [(10, { st := .ma, way := 0, data := [], acks := 1 })] })] })
    (fun u => ((u.cline 0 10).map fun c => (c.st, c.acks)) = some (.m, 0) ∧ (u.net.map fun m => m.kind) = [.cmp]) = true := by decide +kernel

def busy (m : Msg) (h : Bool) : State := { st with dir := [(10, { h := h, txn := some { msg := m, host := h } })] }
def snp : BiSnp := ⟨10, false, false, true, false, [], 0⟩
def snpSt (b : BiSnp) (t : Nat) : State := { st with bisnp := [b], ticks := t }
/-- An Inv that member 3 has owed since tick 0. -/
def owed : Msg := { fromHome .inv with dst := .ag (.member 3) }
def lostSt : State := { st with memWait := [owed], ticks := 2500, dev := [(aMs 0xC000, 0x10)] }
theorem wit_RetriesAndBackInvalidations : st.lineOk 10 = true ∧
    takeMsg (fun m => decide (m.line = 10) && decide (m.dst = .ag (.cluster 0)) && (match m.kind with | .retry _ => true | _ => false)) [] [fromHome (.retry 40)] = some (fromHome (.retry 40), []) ∧
    (([fromHome (.retry 40)].find? fun m => m.line = 10 ∧ m.dst = .ag (.cluster 0)) = some (fromHome (.retry 40))) ∧ takeMsg (fun m => m.line = 10 ∧ m.dst = .ag (.cluster 0) ∧ m.kind = .pend) [] [fromHome .pend] = some (fromHome .pend, []) ∧
    ((busy (toHome .rdX) true).dirOf 10).h = true ∧ ((busy (toHome .rdX) true).bisnp.any fun b => b.line = 10) = false ∧
    (busy (toHome .rdX) true).mstat 1 = false ∧ ((snpSt snp 2500).bisnp.find? fun b => b.line = 10) = some snp ∧ ((snpSt snp 2500).dirOf 10).txn = none ∧ 10 < st.part.msLines ∧
    st.fenced 10 = false ∧ (st.rg (aStk (st.homeOf 10) 0x38)).getLsbD 8 = false ∧
    (∀ x ∈ ({ lostSt with ticks := 9 } : State).memWait, x.dst = .ag (.member 3) → 9 < x.tick + 2500) ∧
    (lostSt.memWait ++ lostSt.net).filter (fun x => x.dst = Node.ag (.member 3)) = [owed] ∧ owed ∈ lostSt.memWait ∧ owed.tick + 2500 ≤ lostSt.ticks ∧
    (lostSt.rg (aMs 0xC000)).getLsbD 4 = true ∧ st.viaReach .pf (aMs 0xC000) = true := by
  and_intros <;> decide +kernel
theorem test_retry_parks : ok (exec (.retry 10 (.cluster 0)) { with0 { pr with loads := [ld .lw 0 0 none] } with net := [fromHome (.retry 40)] })
    (fun u => (u.parked.map fun m => m.tries) = [1] ∧ ((u.proc 0).loads.map fun x => x.ans) = [true] ∧ u.net = []) = true := by decide +kernel
theorem test_ninth_attempt : ok (exec (.retryBackoffExpiry 10 (.cluster 0)) { st with parked := [{ fromHome (.retry 40) with tries := 8, orig := some .rdX }] })
    (fun u => (u.net.map fun m => (m.kind, m.sticky)) = [(.rdX, true)] ∧ u.parked = []) = true := by decide +kernel
theorem test_back_invalidation : ok (exec (.backInvalidation 10) (busy (toHome .rdX) true)) (fun u => u.outbox = [.bisnp (st.hostNo 16) 1, .bisnp (st.hostNo 15) 1] ∧ u.bisnp.length = 1) = true := by decide +kernel
theorem test_host_answers : ok (exec (.backInvalidationResponse 10 true none false) (snpSt { snp with lo := true } 0)) (fun u => u.bisnp = []) = true := by decide +kernel
theorem test_member_lost : ok (exec (.memberLost 3) lostSt) (fun u => u.lost = 8 ∧ u.memWait = [] ∧ (u.net.map fun m => (m.kind, m.dst)) = [(.invAck, .ag (.cluster 1))]) = true := by decide +kernel
theorem test_cgctl : ok (exec (.cgctlWrite .pf 0x3F) { st with dev := [(aMs 0xC000, 0x70)] }) (fun u => u.rg (aMs 0xC000) = 0x30) = true := by decide +kernel

def asks (d : List Nat) : State := { with0 { pr with slots := [⟨0, [{ e := { en 0 with persist := true }, st := .waiting, tick := 0 }], false⟩] } with dbits := d, dev := [(aTun 8, 0)] }
theorem wit_MainStoreReadsAndGrants : (0 : Nat) < st.part.msLines ∧ CleanLine st 10 ∧ st.scrubOn = true ∧ st.quietLine (lineAt st.part 0 0) = true ∧ st.dataFor (lineAt st.part 0 0) (.unc 0x710) = none ∧
    st.asked (lineAt st.part 0 0) (.unc 0x710) = false ∧ st.lineOk 10 = true ∧ (st.rg (aStk (st.homeOf 10) 0x38)).getLsbD 8 = false ∧
    ((asks [10]).proc 0).slots.any (fun x => !x.granted && x.entries.any fun e => e.persist && (asks [10]).entryLine e = some 10) = true ∧ (asks [10]).dirtyD 10 = true ∧ (asks [11]).dirtyD 10 = false ∧ mibLines (asks [11]).effMib ≤ (asks [11]).dbits.length := by
  and_intros <;> first | exact clean10 rfl (by decide +kernel) | decide +kernel
theorem test_read_corrects : ok (exec (.mainStoreReadResult 10 [1#56 <<< 55] 0) st) (fun u => u.outbox = [.memAnswer 10 256 (List.replicate 96 0) false] ∧ (u.stack (u.homeOf 10)).ce = 1) = true := by decide +kernel
theorem test_read_two_bits : ok (exec (.mainStoreReadResult 10 [3] 0) st) (fun u => (u.stack (u.homeOf 10)).ue = 1 ∧ u.linePois 10 = true) = true := by decide +kernel
theorem test_persist_grant : ok (exec (.persistGrantRequest 10 (.cluster 0)) (asks [10])) (fun u => ((u.proc 0).slots.map fun x => x.granted) = [true] ∧ u.dbits = [10]) = true := by decide +kernel
theorem test_persist_held : ok (exec (.persistGrantRequest 10 (.cluster 0)) (asks [11])) (fun u => (u.stack (u.homeOf 10)).held = [(10, .cluster 0)] ∧ u.tun.stall.isSome ∧ ((u.proc 0).slots.map fun x => x.granted) = [false]) = true := by decide +kernel

def ep : Epoch := { n := 1, tick := 0, ms := 0, tbase := 0, dirty := 1 }
def epSt (d : List Nat) : State := { st with tun := { opened := some ep }, dbits := d, ms := [(960, 9)] }
theorem wit_ImageEpochsAndFormat : st.tun.opened = none ∧ st.tun.lastCut = none ∧ (epSt [10]).imagerOn = true ∧ (∃ r, (epSt [10]).nextDirty ((epSt [10]).homeOf 10) = some (r, 10)) ∧ (epSt [10]).homeOf 10 < 8 ∧ (epSt [10]).readNow 10 = true ∧
    NoInjection (epSt [10]) ∧ (epSt [10]).ownerClu 10 = none ∧ CleanLine (epSt [10]) 10 ∧ ((epSt [10]).stack 0).capt = none ∧ (epSt [10]).dataFor 10 (.unc (BitVec.ofNat 12 imagerId)) = none ∧ (∀ x, (epSt []).nextDirty x = none) ∧ st.viaReach .pf (aTun 0) = true ∧ st.viaReach .pf (aTun 8) = true ∧ fld (48 : Word) 9 0 = 48 ∧
    ({ st with phase := .nores } : State).viaReach .pf (aTun 0) = true := by
  refine ⟨rfl, rfl, by decide +kernel, ⟨_, rfl⟩, by decide +kernel, by decide +kernel, noInj rfl, by decide +kernel, clean10 rfl (by decide +kernel), rfl, by decide +kernel, fun _ => rfl, by decide +kernel, by decide +kernel, by decide +kernel, by decide +kernel⟩
theorem test_epoch_cut : ok (exec .epochCut st) (fun u => (u.tun.opened.map fun e => (e.n, e.lines)) = some (1, [])) = true := by decide +kernel
theorem test_imager_captures : ok (exec (.imagerCapture (BitVec.ofNat 3 ((epSt [10]).homeOf 10))) (epSt [10])) (fun u => u.dbits = [] ∧ ((u.tun.opened.map fun e => e.lines) = some [(10, (9 :: List.replicate 95 0, false))])) = true := by decide +kernel
theorem test_epoch_closes : ok (exec .epochClose (epSt [])) (fun u => u.tun.opened = none ∧ u.tun.closed = 1 ∧ ((spGet u.tun.ring 1).map fun c => (c.seq, c.ok)) = some (1, true)) = true := by decide +kernel
theorem test_budget : ok (exec (.tunBudgetWrite .pf 47) st) (fun u => fld (u.rg (aTun 8) budgetReset) 9 0 = fld budgetReset 9 0) && ok (exec (.tunBudgetWrite .pf 768) st) (fun u => fld (u.rg (aTun 8) budgetReset) 9 0 = 768) = true := by decide +kernel
theorem test_hold_up_by_class : ok (exec (.holdUpCheck 12000 200) { st with tun := { checking := true } }) (fun u => fld u.pstat 6 4 = 1 ∧ u.effMib = 48) = true := by decide +kernel
theorem test_hold_up : ok (exec (.holdUpCheck 11399 200) { st with tun := { checking := true }, dev := [(aTun 0x40, 7)] }) (fun u => fld u.pstat 6 4 = 2) && ok (exec (.holdUpCheck 11400 22400) { st with tun := { checking := true }, dev := [(aTun 0x40, 7)] }) (fun u => fld u.pstat 6 4 = 0 ∧ u.pstat.getLsbD 3 = true) = true := by decide +kernel
theorem test_format : ok (exec (.tunFormat .pf) { st with phase := .nores }) (fun u => u.phase = .boot ∧ u.tun.cold = true ∧ u.tun.src.isSome) = true := by decide +kernel

def fr : FlushRec := { seq := 1, ms := 0, pcyc := 0, tbase := 0, base := 0, trig := 1 }
def flSt : State := { st with phase := .flush, tun := { flush := some fr }, dbits := [10], ms := [(960, 9)] }
theorem wit_TripsAndFlush : st.phase = .run ∧ ({ st with phase := .boot } : State).phase = .boot ∧ ({ st with phase := .boot, boot := some ⟨0x050123, true, 7, 0, 0⟩ } : State).boot = some ⟨0x050123, true, 7, 0, 0⟩ ∧ (⟨0x050123, true, 7, 0, 0⟩ : Boot).brassOk ≠ 0 ∧ ({ st with phase := .boot, boot := some ⟨0x050123, true, 7, 0, 0⟩ } : State).viaReach .pf 8 = true ∧ ({ st with phase := .fatal } : State).phase = .fatal ∧ st.viaReach .pf (aTun 0) = true ∧ st.viaReach .pf 8 = true ∧
    fld (0x5A7000000001 : Word) 47 36 = 0x5A7 ∧ fld (0x5A7000000001 : Word) 3 0 = 1 ∧ fld (0x5A7000000002 : Word) 3 0 ≠ 1 ∧ flSt.tun.flush = some fr ∧ flSt.tun.restart = false ∧ flSt.procsStopped = true ∧ ({ flSt with procs := [(0, { pr with tries := 1 })] } : State).procsStopped = false := by decide +kernel
theorem test_pfail_trips : ok (exec (.pfailTrip 80) st) (fun u => u.phase = .flush ∧ u.outbox = [.value 5 1] ∧ (u.tun.flush.map fun f => (f.trig, f.seq)) = some (1, 1)) && ok (exec (.vholdTrip 11000) st) (fun u => u = st) = true := by decide +kernel
theorem test_flush_done : ok (exec (.flushDone 9000) flSt) (fun u => u.phase = .flushed ∧ (u.tun.flush.map fun f => (f.committed, f.lines)) = some (true, [(10, (9 :: List.replicate 95 0, false))])) = true := by decide +kernel
theorem test_flush_aborted : ok (exec .flushAbort flSt) (fun u => u.phase = .flushed ∧ u.outbox = [.value 5 15] ∧ (u.tun.flush.map fun f => f.committed) = some false) = true := by decide +kernel
theorem test_bad_key : ok (exec (.sysResetRestart .pf 1) st) (fun u => u.phase = .run ∧ (u.rg 0x10).getLsbD 15 = true) = true := by decide +kernel
theorem test_restart_in_boot : ok (exec (.sysResetRestart .pf 0x5A7000000001) { st with phase := .boot, boot := some ⟨0x050123, true, 7, 0, 0⟩ }) (fun u => u.phase = .boot ∧ u.pew.pcyc = 1) = true := by decide +kernel

def bt (x : BitVec 3) : Boot := ⟨0x050123, true, x, 0, 0⟩
/-- A boot at PHASE 8 after a cold start, boot source 1. -/
def bootSt : State := { phase := .boot, dev := [(0x10, 0x108)], boot := some (bt 7), procs := [(0, { g := [(3, 4)] })], tun := { src := some { src := 0 } } }
theorem wit_PowerBootAndRelease : State.reset.phase = .off ∧ State.reset.vaux = true ∧ (bt 0).brassOk = 0 ∧ (bt 7).brassOk ≠ 0 ∧ st.phase ≠ .off ∧ ({ vaux := false } : State).vaux = false ∧ bootSt.tun.checking = false ∧
    fld (bootSt.rg 0x10) 3 0 = 8 ∧ bootSt.icmd = [] ∧ bootSt.insts = [] ∧ bootSt.bprog = none ∧ st.kept = none ∧
    fld (bootSt.rg 0x10) 9 8 = 1 ∧ bootSt.hasProc 0 = true ∧ st.viaReach .pf 0 = true ∧ st.viaReach .pf 0x28 = true ∧ fld (10922 : Word) 13 0 = 10922 ∧ (10922 : Word).getLsbD 17 = false ∧ 96 * 10922 ≤ st.part.msBytes ∧
    fld (10923 : Word) 13 0 = 10923 ∧ st.bpW = none ∧ NoInjection st ∧
    (((({ st with bpW := some (0, 1) } : State).sg 0x28 (setBit (st.rg 0x28) 16 true)).uncRead 0 96 0x603).1 = some (List.replicate 96 0, false)) := by
  and_intros <;> first | exact noInj rfl | decide +kernel
theorem test_pwrok : ok (exec (.pwrokRise (bt 7)) State.reset) (fun u => u.phase = .boot ∧ u.rg 0x18 = 0x050123 ∧ u.pew.pcyc = 1 ∧ fld (u.rg 0x10) 3 0 = 1) && ok (exec .pwrokFall { st with ms := [(5, 6)] }) (fun u => u.phase = .off ∧ u.ms = [] ∧ u.procs = []) = true := by decide +kernel
theorem test_boot_program : ok (exec (.bootProgramInstall .pf 1) { st with ms := [(5, 6)] }) (fun u => (u.bprog.map fun b => (b.lines, b.data.take 6)) = some (1, [0, 0, 0, 0, 0, 6]) ∧ u.bpW = none) = true := by decide +kernel
theorem test_release_waits : ok (exec .processorsReleased { bootSt with tun := { bootSt.tun with checking := true } }) (fun u => u.phase = .boot) = true := by decide +kernel

def rec1 : PRec := { seq := 0, ms := 0, pcyc := 0, code := 0x0E01, sev := 1, cls := 0, supp := 0, master := 0, inst := 0, instv := false, flags := 0, payload := [] }
def pewSt : State := { st with pew := { queue := [rec1], buckets := [(5, { spent := 1, supp := 3 })], ms := 1000 }, ticks := 25000000 }
theorem wit_PewterRecorder : pewSt.pewOn = true ∧ pewSt.pew.queue = [rec1] ∧ (pewSt.pew.slotFor rec1.sev).isSome = true ∧ NoInjection pewSt ∧ (spGet pewSt.pew.buckets 5).isSome = true ∧ 0 + 25000 * (pewSt.rate 5).2 ≤ pewSt.ticks ∧
    st.viaReach .pf (aPew 0x60) = true ∧ (spGetD {} st.pew.buckets 0x0E01).spent < (st.rate 0x0E01).1 ∧ st.viaReach .pf (aPew 0x80) = true ∧ 2 ≤ fld (2 : Word) 7 0 ∧ st.viaReach .pf (aPew 0x90) = true ∧ pewSt.pew.ck.1 + 1000 ≤ pewSt.pew.ms := by
  refine ⟨by decide +kernel, by decide +kernel, by decide +kernel, noInj rfl, ?_⟩; decide +kernel
theorem test_record : ok (exec (.pewterRecordWrite true) pewSt) (fun u => u.pew.queue = [] ∧ u.pew.seq = 1 ∧ u.pew.log.length = 1) && ok (exec (.pewterRecordWrite false) pewSt) (fun u => u.pew.dropped = 1 ∧ u.pew.log = []) = true := by decide +kernel
theorem test_summary : ok (exec (.tokenBucketRefill 5) pewSt) (fun u => (u.pew.queue.map fun r => (r.code, r.supp)) = [(0x0E01, 0), (5, 3)]) = true := by decide +kernel
theorem test_note : ok (exec (.notew .pf 0x302) { st with dev := [(aPew 0x68, 7)] }) (fun u => (u.pew.queue.map fun r => (r.code, r.sev, r.payload)) = [(0x0E02, 3, [7, 0, 0])]) = true := by decide +kernel
theorem test_anchor : ok (exec (.ancw .pf 0) { st with dev := [(aPew 0x50, 7)], pew := { lastAnchor := 8 } }) (fun u => (u.pew.queue.map fun r => (r.sev, r.payload)) = [(2, [7, 0, 8])]) = true := by decide +kernel

def relk : State := with0 { pr with relock := some 12 }
def off0 : State := with0 { pr with run := .resetStopped }
theorem wit_ClocksAndIslands : st.viaReach .pf (aClk 0x1000) = true ∧ st.hasProc 0 = true ∧ (off0.proc 0).run ≠ .running ∧ (st.proc 0).run = .running ∧ (st.proc 0).relock = none ∧ (relk.proc 0).relock = some 12 ∧
    (({ phase := .boot, dev := [(aClk 0, 7)] } : State).rg (aClk 0)).getLsbD (refNominal .mbv).2 = true ∧ ({ phase := .boot } : State).links = [] ∧ (∀ l, l < 4 → ({ phase := .boot } : State).linkState l = 0) ∧
    st.brassOn = true ∧ (8 : Nat) < 9 * st.part.clusters ∧ (7 : BitVec 3).toNat < st.part.clusters := by decide +kernel
theorem test_clock_set : ok (exec (.clkProcSet .pf 0 10) off0) (fun u => fld (u.clkReg 0) 13 8 = 10) && ok (exec (.clkProcSet .pf 0 41) off0) (fun u => u = off0) = true := by decide +kernel
theorem test_core_island : ok (exec (.islandReset (.core 0)) st) (fun u => (u.core 0).ic = [] ∧ u.rearms = 1) = true := by decide +kernel
theorem test_clock_waits : ok (exec (.clkProcSet .pf 0 10) st) (fun u => (u.proc 0).relock = some 10 ∧ fld (u.clkReg 0) 13 8 = 40) = true := by decide +kernel

def mgSt : State := { st with mgmt := { trctl := 1, trq := [rec1] } }
def temps (t : Int) : Sensors := ⟨[0, 0, t], [0, 0, 0, 0, 0, 12000], []⟩
theorem wit_SidebandAndSensors : st.mdioOn = true ∧ st.cxlLive = true ∧ mgSt.mgmt.trctl.getLsbD 0 = true ∧ mgSt.mgmt.trq = [rec1] ∧ mgSt.mgmt.gap = none ∧ ({ st with phase := .fatal } : State).mdioOn = true ∧ st.mgmt.thr = [] ∧ st.mgmt.warm = [] ∧ (∀ g, g < 12 → (temps 0).temp.getD g 0 < (tempLimits g).1) ∧
    (temps 400).temp = [0, 0, 400] ∧ (railNominal 0).isSome = true ∧ fld (({ st with dev := [(aCxl 0x10, 0x10)] } : State).rg (aCxl 0x10)) 4 0 ≠ 0 ∧ st.mstat 1 = false ∧ st.bisnp = [] := by decide +kernel
theorem test_alert_clears : ok (exec (.managementWrite 0x41 3) { st with mgmt := { alert := 7 } }) (fun u => u.mgmt.alert = 4) = true := by decide +kernel
theorem test_warning : ok (exec (.sensorRead (temps 400)) st) (fun u => u.mgmt.alert.getLsbD 0 = true) && ok (exec (.sensorRead (temps 399)) st) (fun u => u.mgmt.alert.getLsbD 0 = false) = true := by decide +kernel
theorem test_trace : ok (exec .traceFrame mgSt) (fun u => u.mgmt.trq = [] ∧ u.outbox.length = 1) = true := by decide +kernel

/-- Ring pair 0 enabled with 64 slots and a ring area; the link up. -/
def ringSt (r : RP) : State := { st with dev := [(aCxl 8, 5), (aCxl 0x10000, 2 ^ 44), (aElc 0x1000, 0x4000)], rps := [(0, r)], ticks := 50 }
theorem wit_RingDoorbellsAndFetches : (ringSt {}).pageRing 0 0 = some 0 ∧ ({} : State).pageRing 0 0 = none ∧ (ringSt {}).rpEn 0 = true ∧ ((ringSt {}).rp 0).held = 0 ∧ ((64 : BitVec 32) - 0).toNat ≤ ((0 : BitVec 32) + BitVec.ofNat 32 (ringSize ((ringSt {}).sqb 0)) - 0).toNat ∧
    raSize ((ringSt {}).ra 0) ≠ 0 ∧ ((0 : BitVec 32) + BitVec.ofNat 32 (ringSize ((ringSt {}).sqb 0)) - 0).toNat < ((65 : BitVec 32) - 0).toNat ∧ (ringSt { sqpi := 1 }).mayFetch 0 = true ∧ ((ringSt { sqpi := 1 }).rp 0).covered 0 = true ∧
    ((ringSt { sqpi := 1 }).cxl.dcache.any fun x => x.1 = (ringSt { sqpi := 1 }).slotLine 0 0) = false ∧ (ringSt {}).viaReach .pf (aCxl 0x10000) = true ∧ st.rpEn 0 = false ∧ st.reptWaits 0 = false ∧ fld (0xA0000000000 : Word) 43 40 = 10 ∧ (ringSt {}).unretired 0 = false ∧
    ((List.range 32).find? fun i => ((ringSt { sqpi := 1 }).rp 0).covered (BitVec.ofNat 32 i)) = some 0 := by decide +kernel
theorem test_sqpi : ok (exec (.sqpi 0 0 64) (ringSt {})) (fun u => (u.rp 0).sqpi = 64) && ok (exec (.sqpi 0 0 65) (ringSt {})) (fun u => (u.rp 0).sqpi = 0 ∧ (u.rp 0).err = true ∧ (u.rp 0).code = 1) = true := by decide +kernel
theorem test_cqci_beyond : ok (exec (.cqci 0 0 3) (ringSt { cqpi := 2 })) (fun u => (u.rp 0).cqci = 0 ∧ (u.rp 0).err = true) = true := by decide +kernel
theorem test_fetch : ok (exec (.descriptorFetchComplete 0 0 [1] false) (ringSt { sqpi := 1 })) (fun u => ((u.rp 0).got.map fun x => (x.1, x.2.length)) = [(0, 64)]) && ok (exec (.descriptorFetchTimeout 0) (ringSt { sqpi := 1 })) (fun u => (u.rp 0).err = true ∧ (u.rp 0).code = 2) = true := by decide +kernel

def done1 : LEnt := { st := .done, idem := false, inst := 0, sidx := 0, tacc := 0, desc := [], comp := [0x80], addr := 0, ord := 0 }
def postSt (w : List CWr) : State := { ringSt { wrs := w, irq := 0x800 + 1, visN := 1 } with led := [(0, done1)], dev := [(aCxl 8, 5), (aCxl 0x10000, 2 ^ 44), (aCxl 0x10008, 3)] }
theorem wit_CompletionsReachTheHost : (postSt []).mayPost 0 = true ∧ (((postSt []).entsOf 0).find? fun x => x.2.st = .done ∧ x.2.cidx = 0 ∧ 0 ≤ x.1 ∧ x.2.wait = false) = some (0, done1) ∧ (0 : Nat) < ringSize ((postSt []).cqb 0) ∧
    (postSt [⟨0, 0, false⟩]).mirSync = false ∧ 0 + 50 ≤ (postSt [⟨0, 0, false⟩]).ticks ∧ ((postSt []).rp 0).irq.getLsbD 11 = true ∧ fld ((postSt []).rp 0).irq 10 0 ≠ 0 ∧ max 1 (fld ((postSt []).rp 0).irq 19 12) ≤ ((postSt []).rp 0).visN := by decide +kernel
theorem test_completion : ok (exec (.completionWrite 0) (postSt [])) (fun u => (u.rp 0).wrs = [⟨0, 50, false⟩] ∧ (u.outbox.map fun o => match o with | .hostWrite a b => (a, b.length) | _ => (0, 0)) = [(12288, 1)]) = true := by decide +kernel
theorem test_go : ok (exec (.completionGo 0 0) (postSt [⟨0, 50, false⟩])) (fun u => (u.rp 0).cqpi = 1 ∧ (u.rp 0).wrs = []) && ok (exec (.completionGoTimeout 0) (postSt [⟨0, 0, false⟩])) (fun u => (u.rp 0).cqpi = 0 ∧ (u.rp 0).code = 4) = true := by decide +kernel

def hostSt : State := { st with dev := [(aCxl 8, 0xD)] }
theorem wit_HostMemoryRequests : hostSt.mstat 2 = true ∧ hostSt.mstat 1 = false ∧ hostSt.stalling = false ∧ hostSt.hdmLine 1 = some 1 ∧ hostLines 1 = [0, 1] ∧ hostSt.dbits.length < mibLines hostSt.effMib ∧ st.lineOk 10 = true ∧
    takeMsg (fun m => decide (m.line = 10) && decide (m.dst = .ag .host) && (match m.kind with | .data _ | .done => true | _ => false)) [] [{ fromHome .done with dst := .ag .host }] = some ({ fromHome .done with dst := .ag .host }, []) ∧
    (({ hostSt with cxl := { reqs := [{ h := 15, kind := .rdU, todo := [], cur := some 10, resp := 1 }] } } : State).hostReqOf 10).isSome = true ∧
    (({ hostSt with cxl := { reqs := [{ h := 16, kind := .rdU, todo := [11], cur := some 10, resp := 1 }] } } : State).hostReqOf 10).isSome = true ∧ ({ h := 16, kind := .rdU, todo := [11], cur := some 10, resp := 1 } : HReq).writes = false ∧ (0 : Int) + 0 = 0 := by decide +kernel
theorem test_memrd : ok (exec (.memrd 1 .a) hostSt) (fun u => (u.net.map fun m => (m.kind, m.line, m.req)) = [(.rdX, 0, .host)] ∧ (u.cxl.reqs.map fun r => r.todo) = [[1]]) = true := by decide +kernel
theorem test_memwr_marks : ok (exec (.memwr 0 .noop (List.replicate 64 7) false) hostSt) (fun u => u.dirtyD 0 = true ∧ (u.net.map fun m => m.bytes.length) = [64]) = true := by decide +kernel
theorem test_two_lines : ok (exec (.dataGrant 10 .host) { hostSt with net := [{ fromHome (.data .none) with dst := .ag .host }], cxl := { reqs := [{ h := 16, kind := .rdU, todo := [11], cur := some 10, resp := 1 }] } })
    (fun u => (u.net.map fun m => (m.kind, m.line)) = [(.rdU, 11)] ∧ (u.dirOf 10).opens = 1) = true := by decide +kernel

def linkSt (b : Word) : State := { st with dev := [(aClk 0, 7), (aCxl 8, b)], cxl := { dcache := [(7, [1])] } }
theorem wit_LinkAndAttachment : ((linkSt 5).cxl.dcache.find? fun x => x.1 = 7) = some (7, [1]) ∧ ((linkSt 5).cxl.dcache.find? fun x => x.1 = 8) = none ∧ (linkSt 5).mstat 0 = true ∧ (linkSt 5).mstat 1 = false ∧ (2 ^ 28 : Nat) % 2 ^ 28 = 0 ∧ (96 : Nat) % 2 ^ 28 ≠ 0 ∧
    (linkSt 5).mstat 2 = true ∧ (linkSt 5).viaReach .pf (aCxl 0) = true ∧ (linkSt 5).cxl.detach = none ∧ (linkSt 6).mstat 1 = true ∧ (linkSt 6).mstat 2 = true ∧ (linkSt 5).bisnp = [] ∧ (linkSt 5).goAwaited 0 = false ∧ (linkSt 5).refOk .cxl = true ∧ st.refOk .cxl = false := by decide +kernel
theorem test_hdm : ok (exec (.hdmCommit (2 ^ 28)) (linkSt 5)) (fun u => u.cxl.hdm = 1 ∧ u.mstat 3 = true) && ok (exec (.hdmCommit 96) (linkSt 5)) (fun u => u.mstat 3 = false ∧ u.outbox = [.value 2 0]) = true := by decide +kernel
theorem test_snoop : ok (exec (.hostSnoop .inv 7) (linkSt 5)) (fun u => u.cxl.dcache = []) && ok (exec (.hostSnoop .cur 7) (linkSt 5)) (fun u => u.outbox = [.memAnswer 7 19 [1] false]) = true := by decide +kernel
theorem test_link_too_narrow : ok (exec (.linkTrained 4 5 1) (linkSt 1)) (fun u => u.mstat 2 = false) && ok (exec (.linkTrained 8 5 1) (linkSt 1)) (fun u => u.mstat 2 = true) = true := by decide +kernel

def desc1 (dle : BitVec 8) : List Byte := [0, dle] ++ List.replicate 62 0
def acc (d : List Byte) : State := { ringSt { sqpi := 1, got := [(0, d)] } with dev := [(aCxl 8, 5), (aCxl 0x10000, 2 ^ 44), (aElc 0x1000, 0x4000)] }
def late1 : LEnt := { done1 with st := .started, timer := true, desc := desc1 2 }
def breakSt : State := { st with mirw := [⟨5, true, 0, 0, false⟩], ticks := 500 }
/-- An entry that the partner has not acknowledged as the mirror breaks, with ONFAIL as given. -/
def heldSt (onfail : Bool) : State :=
  { breakSt with mirw := [⟨5, false, 0, 0, false⟩], led := [(0, { done1 with st := .accepted, wait := true, sidx := 0 })], rps := [(0, { acc := 1 })],
                 dev := [(aElc 0, if onfail then 0x18000 else 0x8000)] }
theorem test_onfail_holds : ok (exec .mirrorBreak (heldSt true)) (fun u => ((spGet u.led 0).map fun e => e.wait) = some true ∧ (u.rp 0).sqfp = 0) = true := by decide +kernel
theorem test_onfail_goes_on : ok (exec .mirrorBreak (heldSt false)) (fun u => ((spGet u.led 0).map fun e => e.wait) = some false ∧ (u.rp 0).sqfp = 1) = true := by decide +kernel
theorem wit_LedgerEntriesAndMirror : ((acc (desc1 0)).rp 0).got.find? (fun x => x.1 = 0) = some (0, desc1 0) ∧ (acc (desc1 0)).mirMode = 0 ∧ (acc (desc1 0)).mirResync = false ∧ (acc (desc1 0)).slotFree 0 0 = true ∧ NoInjection (acc (desc1 0)) ∧ descDle (desc1 0) = false ∧
    (acc (desc1 0)).descOk (desc1 0) = false ∧ (acc (desc1 0)).viaReach .pf (aElc 0) = true ∧ spRising none [(0, late1)] = true ∧ late1.missed 1 = true ∧
    (breakSt.mirw.any fun m => m.tick + 500 ≤ breakSt.ticks) = true ∧ (breakSt.mirw.all fun m => m.ring && (breakSt.rp m.key).cqpiW.isNone) = true ∧ (breakSt.led.any fun x => x.2.wait) = false ∧ fld (0xC000 : Word) 15 14 = 3 ∧ ({ st with dev := [(aElc 0x38, 2)] } : State).mirResync = true := by
  refine ⟨by decide +kernel, by decide +kernel, by decide +kernel, by decide +kernel, noInj rfl, ?_⟩; decide +kernel
theorem test_accept_of_bad_form : ok (exec (.descriptorAccept 0) (acc (desc1 0))) (fun u => ((u.ent 0 0).map fun e => (e.st, e.comp.head?)) = some (.done, some 4) ∧ (u.rp 0).sqfp = 1 ∧ (u.rp 0).nextSeq = 1) = true := by decide +kernel
theorem test_deadline : ok (exec .deadlineCheck { st with led := [(0, late1)], tb := 1 }) (fun u => ((spGet u.led 0).map fun e => e.late) = some true) = true := by decide +kernel
theorem test_mirror_ack : ok (exec (.mirrorWriteAck 5) { st with mirw := [⟨5, false, 0, 0, false⟩], led := [(0, { done1 with wait := true })] }) (fun u => u.mirw = [] ∧ ((spGet u.led 0).map fun e => e.wait) = some false) = true := by decide +kernel

/-- Queue 1 enabled with 64 slots at 96. -/
def qSt (k : Queue) : State := { st with dev := [(aQ 1 0, 96), (aQ 1 8, 0x26)], qs := [(1, k)] }
def it (n : Nat) (p : BitVec 3) : QItem := ⟨n, p, 0, 0, n, false⟩
theorem wit_InternalQueues : (qSt {}).qReach (.via .pf) 1 0x10 = true ∧ (qSt {}).qReach (.via .pf) 1 0x18 = true ∧ (qSt {}).qReach (.via .pf) 1 0x20 = true ∧ (qSt {}).qReach (.via .pf) 1 0x28 = true ∧ (qSt {}).qReach (.via .pf) 1 8 = true ∧ (qSt {}).qEn 1 = true ∧
    (qSt {}).qEng 1 = false ∧ ((List.range ((qSt {}).qSlots 1)).find? fun n => !((qSt {}).queue 1).used n) = some 0 ∧ (([⟨0, 0x400, none⟩] : List QResv).any fun r => r.slot = 0 ∧ r.master = clientMaster (.via .pf)) = true ∧
    firstItem [it 0 1, it 1 0] = some (it 0 1) ∧ (qSt { items := [it 0 1] }).qs = [(1, (qSt { items := [it 0 1] }).queue 1)] := by decide +kernel
theorem test_commit_read : ok (exec (.resv (.via .pf) 1) (qSt {})) (fun u => u.outbox = [.value 1 65536] ∧ ok (exec (.commit (.via .pf) 1 0x300000) u) fun v => ((v.queue 1).items.map fun x => (x.slot, x.prio)) = [(0, 3)]) = true := by decide +kernel
theorem test_rewind : ok (exec (.rewind (.via .pf) 1) (qSt { held := [it 0 1, it 1 0], mark := 1 })) (fun u => (u.queue 1).held = [it 0 1] ∧ ((u.queue 1).items.map fun x => x.slot) = [1]) = true := by decide +kernel

/-- A microword from its fields: (lowest bit, value). -/
def mwd (l : List (Nat × Nat)) : Mw := BitVec.ofNat 144 (l.foldl (fun a x => a + x.2 * 2 ^ x.1) 0)
def ent0 : LEnt := { done1 with st := .started }
/-- Engine 0 runs a program of entry (0, 0) at word 5 of its private store. -/
def mwSt (w : Mw) (p : Prog) : State := { st with led := [(0, ent0)], dev := [(aQ 1 8, 0x65)], eng := [(0, { run := some p, store := [(5, w)], bufs := [(1, { data := [1, 2, 3] })] })] }
def prog1 : Prog := { q := 0, seq := 0, ua := 5, v := [(1, 7), (2, 9), (3, 3)], fields := 8, started := true }
theorem ready {w : Mw} {p : Prog} (h : (mwSt w p).uword 0 p.ua.toNat = w) (g : (mwSt w p).uPre 0 p w = .go (mwSt w p) p) (n : p.std = none := by rfl) : WordReady (mwSt w p) 0 w (mwSt w p) p :=
  ⟨rfl, noInj rfl, p, rfl, n, h.symm, g⟩
def wAlu : Mw := mwd [(115, 1), (110, 4), (105, 1), (100, 2), (80, 1), (75, 5), (70, 1), (58, 3), (54, 1), (49, 1), (44, 2), (42, 1)]
def wPort (n q : Nat) : Mw := mwd [(38, n), (33, 3), (24, q)]
theorem wit_MicrowordFields : WordReady (mwSt wAlu prog1) 0 wAlu (mwSt wAlu prog1) prog1 ∧ wAlu.aop = 1 ∧ wAlu.sop = 1 ∧ wAlu.mop = 1 ∧ prog1.fields.getLsbD 0 = false ∧ prog1.fields.getLsbD 1 = false ∧ prog1.fields.getLsbD 2 = false ∧
    (mwd [(54, 4)]).mop = 4 ∧ (∀ q, q < 2 → WordReady (mwSt (wPort 1 q) { prog1 with fields := 1 }) 0 (wPort 1 q) (mwSt (wPort 1 q) { prog1 with fields := 1 }) { prog1 with fields := 1 }) ∧ (wPort 1 0).xop = 1 ∧
    (mwSt (wPort 1 0) prog1).qEn (prog1.queueOf (wPort 1 0)) = false ∧ (mwSt (wPort 1 1) prog1).qEn (prog1.queueOf (wPort 1 1)) = true := by
  refine ⟨ready (by decide +kernel) rfl, by decide +kernel, by decide +kernel, by decide +kernel, by decide, by decide, by decide, by decide +kernel, fun q h => ?_, by decide +kernel, by decide +kernel, by decide +kernel⟩
  exact ready (by revert q; decide +kernel) rfl
theorem test_word_fields : ok (exec (.aopAdd 0) (mwSt wAlu prog1)) (fun u => ((u.engine 0).run.map fun p => p.alu) = some (some (4, 16))) && ok (exec (.sopExt 0) (mwSt wAlu prog1)) (fun u => ((u.engine 0).run.map fun p => p.shf) = some (some (5, 7))) = true := by decide +kernel
theorem test_word_moves : ok (exec (.mopRd 0) (mwSt wAlu prog1)) (fun u => ((u.engine 0).run.map fun p => (p.mops.map (·.n), p.movs)) = some ([9], [(1, 16), (2, 0)])) = true := by decide +kernel
theorem test_port_off : ok (exec (.xopResv 0) (mwSt (wPort 1 0) { prog1 with fields := 1 })) (fun u => ((u.engine 0).run.map fun p => p.pops.map (·.st)) = some [4]) = true := by decide +kernel
theorem test_port_absent : ok (exec (.xopZn 0) { mwSt (wPort 7 0) { prog1 with fields := 1 } with part := .cx }) (fun u => ((u.engine 0).run.map fun p => p.pops.map fun o => (o.st, o.val)) = some [(0x0C, some 0)]) = true := by decide +kernel

def progE : Prog := { prog1 with fields := 15, alu := some (4, 0), aluR := some (0, true), status := 3 }
def wSq (n : Nat) : Mw := mwd [(140, n), (125, 0x4001)]
theorem wit_MicrowordSequencing : WordReady (mwSt (wSq 1) progE) 0 (wSq 1) (mwSt (wSq 1) progE) progE ∧ progE.fields = 15 ∧ (wSq 1).sw = false ∧ progE.shf = none ∧ progE.movs = [] ∧ (∀ n, n < 8 → (wSq n).sq = n ∧ (wSq n).sw = false) ∧
    storeAddr (wSq 1).next.toNat = true ∧ storeAddr (progE.ua.toNat + 1) = true ∧ progE.mops = [] ∧ progE.pops = [] ∧ (mwSt (wSq 7) progE).ent 0 0 = some ent0 ∧ ent0.st = .started ∧ WordReady (mwSt (wSq 7) progE) 0 (wSq 7) (mwSt (wSq 7) progE) progE := by
  refine ⟨ready (by decide +kernel) rfl, ?_, ?_, ?_, ?_, ?_, ?_, ?_, ?_, ?_, ?_, ?_, ready (by decide +kernel) rfl⟩ <;> decide +kernel
theorem test_word_jumps : ok (exec (.sqJump 0) (mwSt (wSq 1) progE)) (fun u => ((u.engine 0).run.map fun p => (p.ua, p.z, p.cycles, p.fields)) = some (0x4001, true, 5, 0)) && ok (exec (.sqCall 0) (mwSt (wSq 3) progE)) (fun u => ((u.engine 0).run.map fun p => p.stack) = some [6]) = true := by decide +kernel
theorem test_word_parks : ok (exec (.sqPark 0) (mwSt (wSq 6) progE)) (fun u => (u.engine 0).run = none ∧ (u.engine 0).parked.length = 1) && ok (exec (.sqEnd 0) (mwSt (wSq 7) progE)) (fun u => ((u.ent 0 0).map fun x => (x.st, x.comp.head?)) = some (.done, some 3)) = true := by decide +kernel

def waitE : LEnt := { done1 with st := .accepted, desc := desc1 0 }
def dispSt : State := { st with led := [(0, waitE)], dev := [(aChq 0, 0x7FFFC0004001)], rps := [(0, { nextSeq := 1 })] }
def runE (p : Prog) : State := { st with led := [(0, ent0)], eng := [(0, { run := some p })] }
def fillOp : MOp := { kind := 2, buf := 1, addr := 9, n := 4 }
def pop1 : POp := { id := 0, op := 1, reg := 3, val := some 77 }
theorem wit_EnginePrograms : (dispSt.engine 0).run = none ∧ firstReply (dispSt.engine 0).parked = none ∧ dispSt.firstDesc 0 = some (0, 0, waitE) ∧ waitE.redo = false ∧ ((List.range 0).any fun k => dispSt.mayTake k 0 0 waitE) = false ∧
    ({ prog1 with mops := [fillOp] } : Prog).ending = false ∧ fillOp.void = false ∧ fillOp.kind = 2 ∧ pop1.unit = false ∧ pop1.outs = [] ∧ pop1.rst = 0 ∧ ({ parked := [{ prog1 with rpend := some [5] }] } : Engine).parked[0]? = some { prog1 with rpend := some [5] } ∧
    ((runE { prog1 with cycles := 32768 }).engine 0).run = some { prog1 with cycles := 32768 } ∧ dispSt.viaReach .pf (aElc 0x18) = true ∧ dispSt.abt = none ∧ st.ent 0 0 = none ∧ dispSt.ent 0 0 = some waitE ∧ waitE.st = .accepted ∧ dispSt.taken 0 0 = false ∧
    (runE prog1).ent 0 0 = some ent0 ∧ done1.st = .done := by decide +kernel
theorem test_dispatch : ok (exec (.dispatch 0) dispSt) (fun u => ((u.engine 0).run.map fun p => (p.ua, p.r 17)) = some (0x4001, 0)) && ok (exec (.moverOpComplete 0 1 0 []) (runE { prog1 with mops := [fillOp] })) (fun u => (spGetD {} (u.engine 0).bufs 1 : Buf).data = [9, 9, 9, 9]) = true := by decide +kernel
theorem test_port_result : ok (exec (.portResultArrival 0 0) (runE { prog1 with pops := [pop1] })) (fun u => ((u.engine 0).run.map fun p => p.r 3) = some 77) = true := by decide +kernel
theorem test_watchdog : ok (exec (.bndWatchdogExpiry 0) (runE { prog1 with cycles := 32768 })) (fun u => (u.engine 0).run = none ∧ u.rg (aChan 0 0x1030) = 0x800005) = true := by decide +kernel
theorem test_abort_waiting : ok (exec (.abort .pf 0) dispSt) (fun u => ((u.ent 0 0).map fun x => x.comp.head?) = some (some 0x0A) ∧ u.rg (aElc 0x20) = 1) && ok (exec (.abort .pf 0) st) (fun u => u.rg (aElc 0x20) = 3) = true := by decide +kernel

/-- Main store with an image header at 0: magic, version 1, no lines. -/
def imgSt : State := { st with ms := [(0, 0x4C), (1, 0x44), (2, 0x5A), (3, 0x49), (4, 1)] }
def imgRead (s : State) (ins : Bool) (a n : Nat) : Option (List Byte × Bool) × State := (({ s with imgW := some (ins, 0) } : State).imgBusy true).uncRead a n 0x603
def imgHdr : List Byte := [0x4C, 0x44, 0x5A, 0x49, 1] ++ List.replicate 91 0
theorem wit_ControlStoreAndImages : st.viaReach .pf (aChan 0 0x1018) = true ∧ ({ st with dev := [(aChan 0 0, 0)] } : State).storeOk 0 0 = true ∧ st.storeOk 0 0 = false ∧ st.viaReach .pf (aChan 0 0x1020) = true ∧ st.imgW = none ∧
    ({ st with imgW := some (true, 0) } : State).imgW ≠ none ∧ (imgRead imgSt true 0 96).1 = some (imgHdr, false) ∧ (imgRead st true 0 96).1 = some (List.replicate 96 0, false) ∧
    ((imgRead imgSt true 0 96).2.uncRead 96 0 0x603).1 = some ([], false) ∧ fld (lineWord imgHdr 0) 31 0 = 0x495A444C ∧ fld (lineWord imgHdr 0) 47 32 = 1 ∧ fld (lineWord imgHdr 2) 23 0 = 0 ∧ 96 ≤ imgSt.part.msBytes ∧
    (crc32c []).toNat = fld (lineWord imgHdr 3) 31 0 ∧ imgSects [] 0 1 0 = some [] := by decide +kernel
theorem test_udata2 : ok (exec (.udata2Write .pf 0 0x123) { st with dev := [(aChan 0 0, 0), (aChan 0 0x1000, 3), (aChan 0 0x1008, 5)] }) (fun u => u.uword 0 3 = (0x123 : BitVec 48) ++ (0 : BitVec 48) ++ (5 : BitVec 48) ∧ u.rg (aChan 0 0x1000) = 4) = true := by decide +kernel
theorem test_install : ok (exec (.install .pf) imgSt) (fun u => u.images.length = 1) && ok (exec (.install .pf) st) (fun u => u.images = [] ∧ (u.rg (aChan 0 0x1020)).getLsbD 9 = true) = true := by decide +kernel
theorem test_image_waits : ok (exec (.install .pf) { imgSt with net := [{ src := .ag (.cluster 0), dst := .home 0, kind := .rdS, line := 0, req := .cluster 0 }] }) (fun u => u.imgW = some (true, 0) ∧ (u.rg (aChan 0 0x1020)).getLsbD 8 = true ∧ u.images = []) &&
    ok (exec (.remove .pf) { imgSt with imgW := some (true, 0) }) (fun u => (u.rg (aChan 0 0x1020)).getLsbD 9 = true) = true := by decide +kernel

/-- R382, R388: an injected single bit is corrected and counted in UCE; two bits end the program. -/
theorem test_control_word_corrected :
    let one : State := st.setFe (feBase (.chan 0)) { inj := BitVec.ofNat 48 (2 ^ 32 + 4) }
    let two : State := st.setFe (feBase (.chan 0)) { inj := BitVec.ofNat 48 (2 ^ 32 + 5) }
    (one.wordCheck 0 5).1 = false ∧ (one.wordCheck 0 5).2.rg (aChan 0 0x1038) = 1 ∧ (two.wordCheck 0 5).1 = true := by
  decide +kernel

/-- Key slot 3 of instance 0; a program whose Cobalt request encrypts buffer 1 into buffer 2, and one whose Zinc request encodes it with format 4. -/
def key3 : KSlot := { key := List.replicate 16 1, big := false, pre := 5, inst := 0 }
def cobReq : BitVec 64 := BitVec.ofNat 64 (3 + 2 ^ 30 + 2 ^ 31 + 5 * 2 ^ 32 + 6 * 2 ^ 35)
def popC : POp := { id := 0, op := 6, reg := 3, req := [cobReq, 0, 0, 3, 0, 0, 0, 0] }
def popZ : POp := { id := 0, op := 7, reg := 3, req := [BitVec.ofNat 64 (4 + 2 ^ 6 + 2 ^ 7 + 5 * 2 ^ 8 + 6 * 2 ^ 11), 0, 0, 6, 0, 0, 0, 0] }
def unitSt (o : POp) : State := { st with led := [(0, ent0)], kslots := [(3, key3)], dev := [], eng := [(0, { run := some { prog1 with pops := [o] }, bufs := [(1, { data := [1, 2, 3, 4, 5, 6] })] })] }
def cob3 : CobOp := { e := 0, q := 0, seq := 0, slot := 3, dec := false, key := key3.key, iv := natBe 4 5 ++ natBe 8 0, y := ghash (gcmH key3.key) 0 [] 2, aad := 0 }
def zn3 : ZnOp := { e := 0, q := 0, seq := 0, inst := 0, eng := 0, fmt := 4, sgn := false, dec := false }
def kc3 : KCmd := { v := 5, slot := 3, key := List.replicate 32 7, at_ := 1 }
theorem wit_CobaltZincAndKeys : (cob3.run [1, 2, 3] true).2.1.length = 19 ∧ fld cobReq 11 0 = 3 ∧ cobReq.getLsbD 30 = true ∧ cobReq.getLsbD 31 = true ∧ cobReq.getLsbD 12 = false ∧ fld cobReq 63 38 = 0 ∧ fld cobReq 29 13 = 0 ∧ fld cobReq 34 32 = 4 + 1 ∧ fld cobReq 37 35 = 4 + 2 ∧
    popC.op = 6 ∧ popC.reg ≤ 22 ∧ popC.ovr = false ∧ ((unitSt popC).rg (aCob 0)).getLsbD 0 = false ∧ spGet (unitSt popC).kslots 3 = some key3 ∧ (unitSt popC).progInst { prog1 with pops := [popC] } = 0 ∧ key3.ctr < key3.ceil ∧
    (zn3.go [1, 2, 3, 4, 5, 6] true 12304).st = 0 ∧ (zn3.go [1, 2, 3, 4, 5, 6] true 12304).more = false ∧ (zn3.go [1, 2, 3, 4, 5, 6] true 12304).new.length ≤ 6144 ∧ (unitSt popZ).znCap 0 ≠ 0 ∧ (unitSt popZ).zns = [] ∧ (unitSt popZ).znAhead 0 = [] ∧ NoInjection (unitSt popZ) ∧
    st.viaReach .pf (aCob 0x60) = true ∧ (st.rg (aCob 0x68)).getLsbD 0 = false ∧ (({ st with dev := [(aCob 0x68, 1)] } : State).rg (aCob 0x68)).getLsbD 0 = true ∧ ({ st with kcmd := some kc3 } : State).slotBusy kc3 = false ∧
    ({ unitSt popC with kcmd := some kc3 } : State).slotBusy kc3 = true ∧ key3.ceil < (key3.ctr / 16777216 + 2) * 16777216 ∧ st.part.cobalt = true := by
  and_intros <;> first | exact noInj rfl | decide +kernel
theorem test_cobalt_from_buffer : ok (exec (.cobaltPieceComplete 0 0 [] [] 0) (unitSt popC)) (fun u => (spGetD {} (u.engine 0).bufs 2 : Buf).data.length = 19 ∧ ((spGet u.kslots 3).map fun k => k.ctr) = some 1) = true := by decide +kernel
theorem test_zinc_from_buffer : ok (exec (.zincPieceComplete 0 0 [] 0) (unitSt popZ)) (fun u => (spGetD {} (u.engine 0).bufs 2 : Buf).data = (zn3.go [1, 2, 3, 4, 5, 6] true 12304).new ∧ u.zns = []) = true := by decide +kernel
theorem test_key_load : ok (exec .keySlotCommandComplete { st with kcmd := some kc3 }) (fun u => ((spGet u.kslots 3).map fun k => (k.big, k.ctr)) = some (true, 0) ∧ u.kcmd = none) = true := by decide +kernel
theorem test_ceiling : ok (exec (.ceilingWriteComplete 3) { st with kslots := [(3, key3)] }) (fun u => ((spGet u.kslots 3).map fun k => k.ceil) = some 33554432) = true := by decide +kernel

/-- Instance 5 in force with processor 1 in a state: 1 ACTIVE, 2 FROZEN; a processor 1. -/
def instSt (x : Nat) (r : Run) : State := { st with insts := [(5, { procs := 2 })], dev := [(aVi 5 0x88, BitVec.ofNat 48 x)], procs := [(0, pr), (1, { run := r, frz := true, segs := [(15, segX)] })] }
def instImg : List Byte := [0x54, 0x53, 0x4E, 0x49, 3]
def hostImg (x : Nat) : State := { st with insts := [(5, {})], dev := [(aVi 5 0x88, BitVec.ofNat 48 x), (aVi 5 0xB0, 2)] }
theorem wit_InstanceCommands : st.viaReach .pf (aVi 5 0x80) = true ∧ st.instBusy 5 = false ∧ st.instCheck 5 true = 0 ∧ st.instCheck 0 true = 5 + 1 ∧ (instSt 1 .stopped).instCheck 5 false = 0 ∧ st.instCheck 5 false = 5 + 1 ∧ st.instState 5 = 0 ∧
    (instSt 2 .stopped).instState 5 = 2 ∧ ({ instSt 2 .stopped with isaved := 32 } : State).isaved.getLsbD 5 = true ∧ (instSt 1 .stopped).allStopped 5 = true ∧ (instSt 1 .stopped).instState 5 = 1 ∧ (instSt 1 .stopped).phase = .run ∧
    ((instSt 2 .stopped).inst 5).procs.getLsbD 1 = true ∧ ((instSt 2 .stopped).proc 1).frz = true ∧ ((instSt 2 .stopped).proc 1).run = .stopped ∧ (hostImg 2).imgAddr 5 = (2, 0, 0) ∧ (hostImg 2).instState 5 = 2 ∧ ((hostImg 2).winRead 5).1 = some [] ∧ ((hostImg 2).instImage 5 []).length ≤ 2 ^ 52 ∧
    imgHdrOk instImg = true ∧ imgHdrOk [] = false ∧ fld (bWord instImg 2) 31 0 = 0 ∧ (secOf [] 8).1 = 0 ∧ (crc32c []).toNat = fld (bWord instImg 3) 31 0 ∧ sections [] 1 0 = some [] ∧
    (secOf [] 1).1 = popProcs ((hostImg 0).staged 5).procs ∧ (hostImg 0).rgVi 5 0x10 = bWord (secOf [] 7).2 0 ∧ ((hostImg 0).staged 5).lgcount = fld (bWord (secOf [] 7).2 5) 27 14 ∧ ((hostImg 0).sgVi 5 0xB8 96).instCheck 5 true = 0 ∧
    st.viaReach .pf (aVi 5 0x90) = true ∧ ((instSt 1 .running).proc 1).run = .running ∧ ((instSt 1 .running).proc 1).interruptible = true ∧ ((instSt 1 .running).proc 1).comb = [] := by decide +kernel
theorem test_create_and_fail : ok (exec (.create .pf 5) st) (fun u => u.instState 5 = 1 ∧ fld (u.rgVi 5 0x88) 11 4 = 0) && ok (exec (.create .pf 0) st) (fun u => fld (u.rgVi 0 0x88) 15 4 = 0x604) = true := by decide +kernel
theorem test_destroy : ok (exec (.destroy .pf 5) (instSt 1 .running)) (fun u => u.instState 5 = 0 ∨ spGet u.icmd 5 = some 3) && ok (exec (.destroy .pf 5) { instSt 2 .stopped with isaved := 32 }) (fun u => u.instState 5 = 0 ∧ u.inst 5 = {}) = true := by decide +kernel
theorem test_thaw : ok (exec (.thaw .pf 5) (instSt 2 .stopped)) (fun u => u.instState 5 = 1 ∧ (u.proc 1).run = .running) && ok (exec (.stop .pf 5 1) (instSt 1 .running)) (fun u => (u.proc 1).run = .stopped) = true := by decide +kernel
theorem test_restore : ok (exec (.restore .pf 5 instImg 0) (hostImg 0)) (fun u => fld (u.rgVi 5 0x88) 11 4 = 0 ∧ u.irest = 32) && ok (exec (.restore .pf 5 [] 0) (hostImg 0)) (fun u => fld (u.rgVi 5 0x88) 15 4 = 0x404) = true := by decide +kernel
theorem test_freeze : ok (exec (.freeze .pf 5) (instSt 1 .stopped)) (fun u => spGet u.icmd 5 = some 5) && ok (exec (.reset .pf 5) (instSt 1 .stopped)) (fun u => u.instState 5 = 1 ∧ fld (u.rgVi 5 0x88) 11 4 = 0) = true := by decide +kernel

def frzSt : State := { instSt 1 .stopped with icmd := [(5, 5)] }
def mailSt (c : Nat) : State := { instSt 1 .stopped with dev := [(aVi 5 0x88, 1), (aVi 5 0x1E8, BitVec.ofNat 48 c)] }
def rept1 : Rept := { bytes := List.replicate 64 2, tick := 0 }
def rptSt : State := { hostSt with dev := [(aCxl 8, 5), (aInstm 0, 0x100000000000)], repts := [rept1], ticks := 25000001 }
theorem wit_MailboxesAndReports : spGet frzSt.icmd 5 = some 5 ∧ frzSt.progsLeft 5 = false ∧ frzSt.allStopped 5 = true ∧ (mailSt 0).viaReach .pf (aVi 5 0x158) = true ∧ (mailSt 0).mailMay .pf 5 true = true ∧ ((mailSt 0).rgVi 5 0x1E8).getLsbD 0 = false ∧
    ((mailSt 3).rgVi 5 0x1E8).getLsbD 0 = true ∧ ((mailSt 3).rgVi 5 0x1E8).getLsbD 1 = true ∧ (mailSt 0).mailMay (.proc 1) 5 false = true ∧ (mailSt 0).viaReach (.proc 1) (aVi 5 0x160) = true ∧ (mailSt 0).viaReach (.proc 1) (aVi 5 0x1D8) = true ∧ (mailSt 0).viaReach .pf (aVi 5 0x1E0) = true ∧
    rptSt.mayReport = true ∧ ({ rptSt with rptW := some 0 } : State).rptW = some 0 ∧ 0 + 50 ≤ rptSt.ticks ∧ rept1.tick + 25000000 < rptSt.ticks ∧ rptSt.rptLate = false ∧ rptSt.viaReach .pf (aInstm 0x10) = true ∧
    ({ rptSt with dev := [(aInstm 8, 2)] } : State).rptPi = 2 ∧ (2 + 2 ^ 32 - 0) % 2 ^ 32 < (3 + 2 ^ 32 - 0) % 2 ^ 32 := by decide +kernel
theorem test_freeze_ends : ok (exec (.freezeDrainComplete 5) frzSt) (fun u => u.instState 5 = 2 ∧ u.icmd = []) = true := by decide +kernel
theorem test_mail : ok (exec (.mbidb .pf 5) (mailSt 0)) (fun u => u.rgVi 5 0x1E8 = 1) && ok (exec (.mbidb .pf 5) (mailSt 1)) (fun u => u.rgVi 5 0x1E8 = 5) && ok (exec (.mbodb (.proc 1) 5) (mailSt 0)) (fun u => u.rgVi 5 0x1E8 = 2) = true := by decide +kernel
theorem test_report : ok (exec .reportPost rptSt) (fun u => u.rptW = some 25000001 ∧ u.outbox.length = 1) && ok (exec .reportGo { rptSt with rptW := some 0 }) (fun u => u.rptPi = 1 ∧ u.repts = []) && ok (exec .reportGoTimeout { rptSt with rptW := some 0 }) (fun u => (u.rg (aInstm 0x20)).getLsbD 32) = true := by decide +kernel

/-- Link 0 in a state: its status word and what its ends hold. -/
def lnkSt (x : Nat) (k : Lnk) : State := { st with dev := [(aClk 0, 7), (aMbv 0 8, BitVec.ofNat 48 x)], links := [(0, k)] }
theorem wit_LinkTrainingAndHandshake : NoInjection (lnkSt 0 {}) ∧ (lnkSt 0 {}).mbvLive = true ∧ (lnkSt 0 {}).away = false ∧ (lnkSt 0 {}).refOk .mbv = true ∧ st.refOk .mbv = false ∧ ({ st with phase := .flush } : State).mbvLive = false ∧ ((lnkSt 1 { up := true }).lnk 0).half = false ∧ 0 < st.part.links ∧ ((lnkSt 0 {}).rg (aMbv 0 0) 3).getLsbD 0 = true ∧ (lnkSt 0 {}).linkState 0 = 0 ∧ (lnkSt 1 {}).linkState 0 = 1 ∧ (lnkSt 3 { up := true, retr := true }).lnk 0 = { up := true, retr := true } ∧
    (lnkSt 1 { up := true }).linkDir 0 = some 0 ∧ dimSize (lnkSt 1 { up := true }).shape 0 = 1 ∧ (1 : BitVec 3).toNat = (if 0 % 2 = 0 then 0 + 1 else 0 - 1) ∧
    (∀ y, y < 3 → coord (lnkSt 1 { up := true }).shape 0 y = 0 ∧ dimSize (lnkSt 1 { up := true }).shape y = 1) ∧ (5 : Word) ≠ (lnkSt 1 { up := true }).shape ∧ (lnkSt 1 { up := true, mine := true }).linkState 0 ≠ 3 := by
  refine ⟨noInj rfl, ?_⟩; decide +kernel
theorem test_training : ok (exec (.linkTrainingAttempt 0 0xFF 0xFF) (lnkSt 0 {})) (fun u => u.linkState 0 = 1) && ok (exec (.mbovaTrainingComplete 0 0xFF 0xFF) (lnkSt 1 {})) (fun u => (u.lnk 0).up ∧ (u.lnk 0).replay.length = 1) = true := by decide +kernel
theorem test_handshake : ok (exec (.accept 0) (lnkSt 1 { up := true, mine := true })) (fun u => u.active 0) && ok (exec (.reject 0) (lnkSt 1 { up := true })) (fun u => u.linkState 0 = 2) && ok (exec (.gone 0) (lnkSt 3 { up := true })) (fun u => (u.lnk 0).up = false) = true := by decide +kernel

def flit0 (x : Byte) (c : Nat) : List Byte := let h : List Byte := [x, 0, 0, 0, 4, 0, 0, 0, 0, 0, 0, 0]; let d : List Byte := List.replicate 144 0
  h ++ natLe 4 ((crc32c (h ++ d)).toNat + c) ++ d
def flitA : Flit := { m := { typ := 4, dst := 1 } }
def upSt (r : List (BitVec 8 × Flit)) : State := { lnkSt 3 { up := true, replay := r, tx := 2 } with ticks := 25 }
theorem leNat4 (x : Nat) : leNat (natLe 4 x) = x % 2 ^ 32 := by simp [leNat, natLe]; omega
theorem flit0_crc (x : Byte) (c : Nat) : leNat (((flit0 x c).drop 12).take 4) = (((crc32c ((flit0 x c).take 12 ++ (flit0 x c).drop 16)).toNat + c) % 2 ^ 32) := leNat4 _
theorem wit_LinkReplay : NoInjection (upSt []) ∧ (upSt []).mbvLive = true ∧ ((upSt [(0, flitA)]).lnk 0).reps < 8 ∧ ({ up := true, replay := [(0, flitA)], reps := 8 } : Lnk).reps = 8 ∧ ((upSt []).lnk 0).up = true ∧ ((upSt []).lnk 0).retr = false ∧ (flit0 0 0).length = 160 ∧ (flit0 0 1).length = 160 ∧
    leNat (((flit0 0 0).drop 12).take 4) = (crc32c ((flit0 0 0).take 12 ++ (flit0 0 0).drop 16)).toNat ∧ leNat (((flit0 3 0).drop 12).take 4) = (crc32c ((flit0 3 0).take 12 ++ (flit0 3 0).drop 16)).toNat ∧
    leNat (((flit0 0 1).drop 12).take 4) ≠ (crc32c ((flit0 0 1).take 12 ++ (flit0 0 1).drop 16)).toNat ∧ (flit0 0 0).take 6 = [0, 0, 0, 0, 4, 0] ∧ (flit0 3 0).take 6 = [3, 0, 0, 0, 4, 0] ∧ ((upSt []).lnk 0).rx + 1 = 0 ∧ (upSt []).active 0 = true ∧
    ((upSt [(0, flitA), (1, flitA)]).lnk 0).replay = [] ++ (0, flitA) :: [(1, flitA)] ∧ ((upSt [(0, flitA)]).lnk 0).ackT + 25 ≤ (upSt []).ticks ∧ st.ticks < ((lnkSt 3 { up := true }).lnk 0).ackT + 25 := by
  refine ⟨noInj rfl, by decide +kernel, by decide +kernel, rfl, by decide +kernel, by decide +kernel, rfl, rfl, ?_, ?_, ?_, ?_⟩
  · rw [flit0_crc]; have := (crc32c ((flit0 0 0).take 12 ++ (flit0 0 0).drop 16)).isLt; omega
  · rw [flit0_crc]; have := (crc32c ((flit0 3 0).take 12 ++ (flit0 3 0).drop 16)).isLt; omega
  · rw [flit0_crc]; have := (crc32c ((flit0 0 1).take 12 ++ (flit0 0 1).drop 16)).isLt; omega
  · decide +kernel
theorem test_nak : ok (exec (.nak 0 0) (upSt [(0, flitA), (1, flitA)])) (fun u => (u.lnk 0).replay = [(1, flitA)] ∧ u.outbox.length = 1) && ok (exec (.replayTimeout 0) (upSt [(0, flitA)])) (fun u => (u.lnk 0).reN = 1) = true := by decide +kernel

/-- An export window over the whole first 24 MiB for every node, with every right. -/
def expSt : State := { st with dev := [(aMbg 0x200, 0x1F00400), (aQ 1 0, 0x600), (aQ 1 8, 0x25)] }
def rmsg (ws : List Word) : RMsg := { src := 9, tag := 5, status := 0, pois := false, words := ws }
/-- A request of cluster 0 for line 10 is on its way. -/
def rdx10 : List Msg := [{ src := .ag (.cluster 0), dst := .home 0, kind := .rdX, line := 10, req := .cluster 0 }]
def hq : HomeQ := { m := { typ := 0x14, dst := 0, src := 9, tag := 5, words := [1, 7] }, tick := 0, db := true }
theorem wit_RemoteRequestsServed : expSt.away = false ∧ expSt.exported 9 10 .r = true ∧ expSt.exported 9 10 .w = true ∧ st.exported 9 10 .r = false ∧ expSt.readNow 10 = true ∧ expSt.dataFor 10 (.unc mbvMaster) = none ∧
    (expSt.uncRead 960 96 mbvMaster).1 = some (List.replicate 96 0, false) ∧ ({ expSt with net := rdx10 } : State).writeNow 10 = false ∧ (({ expSt with net := rdx10 } : State).uncRead 960 96 mbvMaster).1 = none ∧ expSt.writeNow 10 = true ∧ expSt.ownerClu 10 = none ∧
    (expSt.stack (expSt.homeOf 10)).held = [] ∧ expSt.dbits.length < mibLines expSt.effMib ∧ CleanLine expSt 10 ∧ (960 : Nat) % 6 = 0 ∧ ({ expSt with leaving := some 0 } : State).away = true ∧ expSt.exported 9 (expSt.qBase 1 / 96) .db = true ∧ expSt.qEn 0 = false ∧
    expSt.qEn 1 = true ∧ expSt.qEng 1 = false := by
  and_intros <;> first | exact clean10 rfl (by decide +kernel) | decide +kernel
theorem wit_RemoteRequestsServed_doorbell : ((List.range (expSt.qSlots 1)).find? fun n => !(expSt.queue 1).used n) = some 0 ∧ (expSt.uncWrite (expSt.qBase 1) (lineBytes [7]) false mbvMaster).1 = true ∧
    (({ expSt with net := [{ src := .ag (.cluster 0), dst := .home 0, kind := .rdX, line := 16, req := .cluster 0 }] } : State).uncWrite (expSt.qBase 1) (lineBytes [7]) false mbvMaster).1 = false ∧ (expSt.inq.filter fun x => x.db).length < 64 ∧ st.exported 9 (st.qBase 1 / 96) .db = false ∧
    hq.db = true ∧ hq.m.typ = 0x14 ∧ fld (hq.m.words.getD 0 0) 8 0 = 1 := by decide +kernel
theorem test_rrd : ok (exec (.rrd (rmsg [960])) { expSt with ms := [(961, 4)] }) (fun u => (u.fabq.map fun f => (f.m.typ, f.m.status, f.m.words.headD 0)) = [(4, 0, 0x400)]) && ok (exec (.rrd (rmsg [960])) st) (fun u => (u.fabq.map fun f => f.m.status) = [7]) = true := by decide +kernel
theorem test_rat : ok (exec (.rat (rmsg [960, 0x40000, 5, 0])) { expSt with ms := [(960, 4)] }) (fun u => (u.fabq.map fun f => f.m.words) = [[4]] ∧ u.byteAt 960 = 9) = true := by decide +kernel
theorem test_dbl : ok (exec (.dbl (rmsg [1, 7])) expSt) (fun u => (u.queue 1).items.length = 1) && ok (exec .doorbellRetry { expSt with inq := [hq] }) (fun u => (u.queue 1).items.length = 1 ∧ u.inq = []) = true := by decide +kernel

def ropA (w : RWho) (t : BitVec 6) : ROp := { tag := 5, who := w, msg := { typ := t, dst := 9 }, line := 0, sent := true, tick := 0 }
def ropSt (r : ROp) : State := { with0 { pr with slots := [sl 3 .sent], loads := [ld .lw 4 1 none] } with rops := [r], ticks := 2500 }
def mirSt : State := { st with dev := [(aElc 8, 0x4009)] }
theorem wit_RemoteAnswersAndMirrorWrites : (st.rops.find? fun x => x.tag = (rmsg []).tag ∧ x.sent = true) = none ∧
    ((ropSt (ropA (.ops 0) 3)).rops.find? fun x => x.tag = (rmsg []).tag ∧ x.sent = true) = some (ropA (.ops 0) 3) ∧ (ropSt (ropA (.ops 0) 3)).sbWait = [] ∧
    (((ropSt (ropA (.load 0 (ld .lw 4 1 none).sn) 1)).proc 0).loads.findIdx? fun l => l.sn = (ld .lw 4 1 none).sn ∧ l.data.isNone) = some 0 ∧ (((ropSt (ropA (.store 0 (sl 3 .sent).id) 2)).proc 0).slots.find? fun x => x.id = (sl 3 .sent).id) = some (sl 3 .sent) ∧
    (ropA (.load 0 0) 1).pt + 25 ≤ 2500 ∧ ({ ropA (.load 0 0) 1 with sent := false } : ROp).sent = false ∧ (ropA (.ops 0) 3).tick + 2500 ≤ (ropSt (ropA (.ops 0) 3)).ticks ∧ st.ticks < (ropA (.ops 0) 3).tick + 2500 ∧
    (mirSt.rg (aElc 8)).getLsbD 14 = true ∧ (mirSt.rg (aElc 8)).extractLsb' 0 14 = (rmsg []).src ∧ ((rmsg [960]).words.getD 0 0).toNat < 0x18000 ∧ (st.rg (aElc 8)).getLsbD 14 = false := by decide +kernel
theorem test_rsp : ok (exec (.rsp { rmsg [77] with tag := 5 }) (ropSt (ropA (.ops 0) 3))) (fun u => u.rg (aOp 0 0x20) = 77 ∧ u.rops = []) && ok (exec (.rsp (rmsg [77, 0])) (ropSt (ropA (.load 0 (ld .lw 4 1 none).sn) 1))) (fun u => u.rops = []) = true := by decide +kernel
theorem test_fabric_timeout : ok (exec (.fabricTimeout 5) (ropSt (ropA (.ops 0) 3))) (fun u => fld (u.rg (aOp 0 0x28)) 15 8 = 8 ∧ u.ftos = 1) && ok (exec (.lmw (rmsg [960, 0, 4])) mirSt) (fun u => (u.fabq.map fun f => f.m.typ) = [0x11]) = true := by decide +kernel
theorem test_store_answered : ok (exec (.rsp (rmsg [])) (ropSt (ropA (.store 0 (sl 3 .sent).id) 2))) (fun u => (u.proc 0).slots = [] ∧ u.rops = []) = true := by decide +kernel

/-- Node 9 is member 2 of the group; a window lets it read. -/
def cohSt : State := { st with dev := [(aMbg 0x200, 0x1F00400), (aMs 0xC018, 0x4009)] }
theorem wit_CoherenceOverTheFabric : cohSt.phase = .run ∧ cohSt.away = false ∧ ({ cohSt with leaving := some 0 } : State).away = true ∧ cohSt.cheld = [] ∧ cohSt.listed 9 = some 2 ∧ fld ((rmsg [960, 0]).words.getD 1 0) 47 32 = spGetD 0 cohSt.cseqRx 9 ∧ cohSt.exported 9 10 .r = true ∧ (10 : Nat) < cohSt.part.msLines ∧
    ({ cohSt with dev := [(aMs 0xC018, 0x4009)] } : State).exported 9 10 .r = false ∧ fld ((rmsg [960, 10]).words.getD 1 0) 3 0 = 10 ∧ fld ((rmsg [960, 3]).words.getD 1 0) 3 0 = 3 ∧ cohSt.fwdIn = [] ∧ cohSt.remQuiet (3 * 2 ^ 44 + 10) = true ∧
    (cohSt.dirOf (3 * 2 ^ 44 + 10)).txn = none ∧ fld ((rmsg [960, 0x100000000]).words.getD 1 0) 47 32 ≠ spGetD 0 cohSt.cseqRx 9 ∧ cohSt.listed 8 = none := by decide +kernel
theorem test_crq : ok (exec (.crq (rmsg [960, 0])) cohSt) (fun u => (u.net.map fun m => (m.kind, m.line)) = [(.rdS, 10)]) && ok (exec (.crq (rmsg [960, 0x100000000])) cohSt) (fun u => u.net = [] ∧ u.cheld.length = 1) && ok (exec (.crs (rmsg [960, 3])) cohSt) (fun u => (u.fabq.map fun f => fld (f.m.words.getD 1 0) 3 0) = [9]) = true := by decide +kernel

def opSt (v : Word) : State := { st with dev := [(aOp 0 0, 960), (aOp 0 0x10, 5), (aOp 0 0x28, v)] }
theorem wit_OperationsAndSystemBarriers_slots : (opSt 0).viaReach .pf (aOp 0 8) = true ∧ ((opSt 1).rg (aOp 0 0x28)).getLsbD 0 = true ∧ ((opSt 0).rg (aOp 0 0x28)).getLsbD 0 = false ∧ ((opSt 0).rg (aOp 0 0)).toNat % 6 = 0 ∧ ((1 : Word)).toNat % 6 ≠ 0 ∧ (opSt 0).away = false ∧ ({ opSt 0 with leaving := some 0 } : State).away = true ∧ (opSt 0).rops = [] := by decide +kernel
theorem test_operation : ok (exec (.opFadd .pf 0 9) (opSt 0)) (fun u => (u.fabq.map fun f => (f.m.typ, f.m.words)) = [(3, [960, 0x40000, 5, 0])] ∧ u.rg (aOp 0 0x28) = 1) && ok (exec (.opSwap .pf 0 9) (opSt 1)) (fun u => u.rg (aOp 0 0x28) = 3) = true := by decide +kernel

/-- Context 1's root is node 0, its count 2. -/
def sbSt (v : Word) : State := { st with dev := [(aSb 1 0, 0x8000), (aSb 1 0x10, v)] }
theorem wit_OperationsAndSystemBarriers_barriers : (sbSt 0).viaReach .pf (aSb 1 8) = true ∧ ((sbSt 1).sbStat 1).getLsbD 0 = true ∧ ((sbSt 0).sbStat 1).getLsbD 0 = false ∧ ((sbSt 0).rops.all fun r => r.msg.typ = 1) = true ∧
    (({ sbSt 0 with rops := [ropA (.ops 0) 3] } : State).rops.all fun r => r.msg.typ = 1) = false ∧ fld ((rmsg [1]).words.getD 0 0) 1 0 = 1 ∧ fld ((sbSt 0).rg (aSb 1 0)) 28 14 = 2 ∧
    ((spGetD [] ({ sbSt 0 with sbArr := [(1, [(7, 0)])] } : State).sbArr 1).filter fun x => x.2 = 0).length + 1 = 2 ∧ (sbSt 1).sbGen 1 = 0 ∧ (sbSt 0).viaReach .pf (aSb 1 0x18) = true ∧ (((sbSt 0).rg (aSb 1 0)).extractLsb' 0 14 : BitVec 14) = (sbSt 0).node ∧
    (({ sbSt 0 with dev := [(aSb 1 0, 0x8003)] } : State).rg (aSb 1 0)).extractLsb' 0 14 ≠ (sbSt 0).node ∧ (sbSt 0).viaReach .pf (aMbg 0x20) = true ∧ (sbSt 0).away = false := by decide +kernel
theorem test_barrier : ok (exec (.arrive .pf 1) (sbSt 0)) (fun u => u.sbStat 1 = 1 ∧ (u.fabq.map fun f => f.m.typ) = [0x18]) && ok (exec (.sba (rmsg [1])) { sbSt 0 with sbArr := [(1, [(7, 0)])] }) (fun u => (u.fabq.map fun f => f.m.dst) = [7, 9]) = true := by decide +kernel
theorem test_release : ok (exec (.sbr 1 0 false) (sbSt 1)) (fun u => u.sbStat 1 = 0x102) && ok (exec (.leave .pf) st) (fun u => u.leaving = some 0) = true := by decide +kernel

def voteSt (v : Word) : State := { st with dev := [(aBrs 0, v)] }
theorem wit_BrassTriad_votes : NoInjection st ∧ st.brassOn = true ∧ st.voters = [0, 1, 2] ∧ (voteSt 0xC0).voters = [0, 1] ∧ (∀ x, (voteSt 0xC0).standby x = false) ∧ (voteSt 0x40).voters = [0] ∧ st.voters ≠ [0] := by
  refine ⟨noInj rfl, by decide +kernel, by decide +kernel, by decide +kernel, fun x => ?_, by decide +kernel, by decide +kernel⟩
  by_cases h : x < 3
  · revert x; decide +kernel
  · simp [State.standby, h]
theorem test_votes : ok (exec (.voterDisagreement 1 1 2) st) (fun u => u.voters = [0, 1]) && ok (exec (.voterDisagreement 1 2 3) st) (fun u => u.phase = .fatal) && ok (exec (.brassInternalCheck 1) st) (fun u => u.claimOf 1 = 0xF9) = true := by decide +kernel
def rotSt (o : Option (BitVec 2)) (t : BitVec 3) : State := { st with brs := { rot := some 0, out := o, test := t }, ticks := 90000000000 }
theorem wit_BrassTriad_rotation : NoInjection st ∧ st.feMay .pf (aBrs 0x10) = true ∧ (1 : Word).getLsbD 0 = true ∧ st.brsStat.getLsbD 3 = false ∧ (voteSt 0x1C8).brsStat.getLsbD 3 = true ∧ (rotSt none 0).brs.rot = some 0 ∧ (rotSt none 0).sparingRuns = false ∧
    (rotSt none 0).voters ≠ [0] ∧ (rotSt none 0).votes 0 = true ∧ (rotSt (some 1) 0).brs.out = some 1 ∧ (rotSt (some 2) 0).brs.out = some 2 ∧ (rotSt none 2).brs.out ≠ some 1 ∧ (rotSt none 2).brs.test.getLsbD 1 = true ∧ (rotSt none 0).brs.test.getLsbD 1 = false ∧
    (rotSt none 0).brs.hourT + 90000000000 ≤ (rotSt none 0).ticks ∧ st.ticks < st.brs.hourT + 90000000000 := by
  refine ⟨noInj rfl, ?_⟩; decide +kernel
theorem test_rotation : ok (exec .rotationStep (rotSt none 0)) (fun u => u.voters = [1, 2] ∧ u.brs.out = some 0) && ok (exec (.unitSelfTestComplete 2 true) (rotSt (some 2) 0)) (fun u => u.brs.rots = 1 ∧ u.brs.rot = none) && ok (exec (.unitSelfTestComplete 1 true) (rotSt none 2)) (fun u => u.standby 1) = true := by decide +kernel

/-- Cluster 0's block holds a capture that wants a claim: class 3 or 4 in CLS, its domain and channel, its time 7. -/
def feSt (x : Word) (i : Word) (t : Option Nat) : State := { st with fe := [(feBase (.clu 0), { stat := x, info := i, time := 7, timer := t })], ticks := 25000000000, icont := 1 }
theorem wit_ClaimsEscalationAndRelease : (feSt 0x21 0 none).feMay .pf (feBase (.clu 0) + 0x20) = true ∧ ((feSt 0x21 0 none).feAt (feBase (.clu 0))).stat.getLsbD 0 = true ∧ ((feSt 0x21 0 none).feAt (feBase (.clu 0))).stat.getLsbD 5 = true ∧ fld (7 : Word) 23 0 = fld (7 : Word) 23 0 ∧
    fld (8 : Word) 23 0 ≠ fld (7 : Word) 23 0 ∧ (feSt 0x21 0 none).feMay .pf (feBase (.clu 0)) = true ∧ ((feSt 0x21 0 none).feAt (feBase (.clu 0))).wants = true ∧ ((feSt 1 0 none).feAt (feBase (.clu 0))).wants = false ∧ (feSt 1 0 none).feMay .pf (feBase (.clu 0) + 0x38) = true ∧
    fld (0 : Word) 19 16 < injUnits (.clu 0) (fld (0 : Word) 27 24) ∧ ((feSt 0xE1 0x1000000 (some 0)).feAt (feBase (.clu 0))).timer = some 0 ∧ 0 + 25 * fld ((feSt 0 0 none).rg (aBrs 0x800) 0x3E8000A) 35 16 ≤ (feSt 0 0 none).ticks ∧ fld (0xE1 : Word) 8 6 = 3 ∧
    fld (0x1000000 : Word) 27 24 ≠ 0 ∧ (0x1000000 : Word).getLsbD 2 = false ∧ fld (0x121 : Word) 8 6 = 4 ∧ (0x10000000000 : Word).getLsbD (39 + 1) = true ∧ spGetD 0 ((feSt 0x10000000000 0 none).feAt (feBase (.clu 0))).quiet 1 + 25000000 * fld ((feSt 0 0 none).rg (aBrs 0x800) 0x3E8000A) 15 0 ≤ (feSt 0 0 none).ticks ∧
    (feSt 0 0 none).feMay .pf (aBrs 0x820) = true ∧ (0x80 : Word).getLsbD 7 = true ∧ (0 : Word).getLsbD 7 = false ∧ (feSt 0 0 none).icont.getLsbD (fld (0 : Word) 5 0) = true := by decide +kernel
theorem test_claim : ok (exec (.feClaim .pf (.clu 0) 7) (feSt 0x21 0 none)) (fun u => (u.feAt (feBase (.clu 0))).stat = 0x31) && ok (exec (.feClaim .pf (.clu 0) 8) (feSt 0x21 0 none)) (fun u => (u.feAt (feBase (.clu 0))).stat = 0x821) = true := by decide +kernel
theorem test_escalation : ok (exec (.escalationTimerExpiry (.clu 0)) (feSt 0xE1 0x1000000 (some 0))) (fun u => fld (u.feAt (feBase (.clu 0))).stat 8 6 = 4) && ok (exec (.escalationTimerExpiry (.clu 0)) (feSt 0x121 0 (some 0))) (fun u => u.phase = .fatal) = true := by decide +kernel
theorem test_release_of_contained : ok (exec (.crel .pf 0) (feSt 0 0 none)) (fun u => u.icont = 0) = true := by decide +kernel

def snapSt (b : SnapBlk) : State := { st with snaps := [b], rearms := 3, refLost := 2 }
theorem wit_RegisterWritesAndSnapshots : st.viaReach .pf (aTun 0x10) = true ∧ SnapBlk.tun ∉ st.snaps ∧ SnapBlk.tun ∈ (snapSt .tun).snaps ∧ (snapSt .tun).snaps.Nodup ∧ st.viaReach .pf (aMbv 0 0x10) = true ∧ st.feMay .pf (aBrs 0x840) = true ∧ st.hasProc 0 = true ∧
    locate (aPew 8) = .pew 8 ∧ feOff (locate (aPew 8)) = none ∧ (regOf st.part (locate (aPew 8))).isSome = true ∧ st.viaReach .pf (aPew 8) = true ∧ ({ st with phase := .off } : State).viaReach .pf (aPew 8) = false ∧ (aPew 8) % 8 = 0 ∧ st.cxl.on.Nodup ∧ st.pewOn = true ∧ st.phase ≠ .fatal ∧
    (0 : BitVec 64).getLsbD 0 = false ∧ (1 : BitVec 64).getLsbD 0 = true ∧ (5 : Nat) ∈ ({ st with cxl := { pend := [5] } } : State).cxl.pend ∧ st.viaReach .pf (aClu 0 0x400) = true := by decide +kernel
theorem test_snapshot : ok (exec (.snapshotCapture .clk) (snapSt .clk)) (fun u => u.rg (aClk 8) = 2 ∧ u.rg (aClk 0x10) = 0x3000002 ∧ u.snaps = []) && ok (exec (.tunSnapReq .pf) st) (fun u => u.snaps = [.tun]) = true := by decide +kernel
theorem test_msix_mask : ok (exec (.registerWrite .pf (.msix 5) 8 0) { st with cxl := { pend := [5] } }) (fun u => u.outbox = [.msix 0 5] ∧ u.cxl.pend = []) && ok (exec (.registerWrite .pf (.dev (aPew 8)) 4 1) st) (fun u => u.dev = []) = true := by decide +kernel

def boot0 : Boot := { straps := 0, stable := true, brassOk := 7, cmpBad := 0, chanBad := 0 }
/-- A boot in a phase, as a cold start. -/
def ladderSt (n : Nat) : State := { st with phase := .boot, dev := [(0x10, BitVec.ofNat 48 n)], boot := some boot0, tun := { src := some { src := 0 } } }
/-- A boot whose commit records are all bad. -/
def noneSt : State := { ladderSt 3 with tun := { ring := [(0, { seq := 1, ms := 0, pcyc := 0, tbase := 0, base := 0, groups := 0, lines := 0, mapver := 0, ok := false })] } }
theorem wit_EmptyQueueTicks : State.reset.pending = [] ∧ State.reset.vaux = true ∧ State.reset.phase = .off ∧ ({ State.reset with vaux := false } : State).vaux = false ∧ ({ st with phase := .fatal } : State).phase = .fatal ∧ fld ((ladderSt 3).rg 0x10) 3 0 = 3 ∧ (ladderSt 3).boot = some boot0 ∧ ((ladderSt 3).source.isSome) = true ∧ (ladderSt 4).tun.src = some { src := 0 } ∧ (ladderSt 5).pairTests = false ∧
    ({ ladderSt 5 with clus := [(0, { sparing := [{ p := 0, core := 1, bg := false, kind := 0 }] })] } : State).pairTests = true ∧ noneSt.source = none := by decide +kernel
theorem test_tick : ok (step { st with phase := .fatal }) (fun u => u.ticks = 1 ∧ u.tb = 1) && ok (step State.reset) (fun u => u.sel = 1 ∧ u.ticks = 0) = true := by decide +kernel
theorem test_step_takes_the_front : ok (step { st with pending := [.leave .pf, .leave .pf] }) (fun u => u.pending = [.leave .pf] ∧ u.leaving = some 0) = true := by decide +kernel
theorem wit_MainStoreStaysCanonical : StoresWf { st with ms := [(960, 9)], pending := [.leave .pf] } ∧ ∃ u, step { st with ms := [(960, 9)], pending := [.leave .pf] } = .next u :=
  ⟨⟨by decide +kernel, by decide +kernel, fun _ h => nomatch h⟩, _, rfl⟩
theorem test_reset_is_canonical : Memory.wf State.reset.ms = true := by decide
theorem test_boot_phases : ok (step (ladderSt 2)) (fun u => fld (u.rg 0x10) 3 0 = 3) && ok (step (ladderSt 7)) (fun u => fld (u.rg 0x10) 3 0 = 8 ∧ u.tun.checking) && ok (step noneSt) (fun u => u.phase = .nores) = true := by decide +kernel

/-- Each check of WellFormed refuses an ill-formed command. -/
theorem ill_formed : [Instr.loadDataArrival 0 0 (List.replicate 9 0) false, .microRoutineStep 0 (List.replicate 193 0) false, .checkerPathFault 0 9, .spctlRetest .pf 0 9 true, .rds (2 ^ 58) .host,
    .mainStoreReadResult 10 (List.replicate 17 0) 0, .persistGrantRequest (2 ^ 58) .host, .descriptorFetchComplete 0 0 [1] false, .memrd (2 ^ 46) .a, .memwr 0 .noop [1] false, .hostSnoop .inv (2 ^ 46), .hdmCommit (2 ^ 52),
    .moverOpComplete 0 0 0 (List.replicate 6145 0), .cobaltPieceComplete 0 0 [] (List.replicate 6145 0) 0, .zincPieceComplete 0 0 (List.replicate 6145 0) 0, .linkTrainingAttempt 6 0 0, .flitReceive 0 [1], .nak 6 0, .hello 0 0 0 6 0, .accept 7,
    .rrd { src := 0, tag := 0, status := 0, pois := false, words := List.replicate 25 0 }, .sba { src := 0, tag := 0, status := 0, pois := false, words := List.replicate 25 0 }, .opFadd .pf 65 0, .mbvSnapReq .pf 6, .brassInternalCheck 3,
    .quietPeriodExpiry (.clu 0) 7, .islandReset (.core 72), .crossingRearmTimeout (.network 2), .sensorRead ⟨[], [], []⟩, .railOutOfTolerance 5 0 0, .registerWrite .pf (.dev 0) 3 0, .registerWrite .pf (.db 0 4096) 8 0].all (fun i => !i.wf) = true := by decide +kernel

end Sys2Proof.Tests
end
end

namespace Sys2Proof.Machine

open Sys2Proof

/-! Module reset: every table of the state is empty, so each read gives the reset value that its accessor names (R511). -/

theorem State.reset_rg (off : Nat) (d : Word) : State.reset.rg off d = d := rfl

theorem State.reset_qEn (q : Nat) : State.reset.qEn q = false := by
  unfold State.qEn State.qCfg
  rw [State.reset_rg]
  decide

theorem State.reset_rpEn (q : Nat) : State.reset.rpEn q = false := by
  unfold State.rpEn State.sqb
  rw [State.reset_rg]
  decide

theorem State.reset_active (l : Nat) : State.reset.active l = false := by
  unfold State.active State.linkState State.mbvStat
  rw [State.reset_rg]
  simp [fld]

theorem procInit_gR (pt : Part) (n : Nat) (r : BitVec 5) : (procInit pt n).gR r = 0 := by
  unfold Proc.gR
  split <;> rfl

theorem procInit_seg_fifteen (pt : Part) (n : Nat) : (procInit pt n).seg 15 = entrySeg 0 pt.msBytes := rfl

theorem procInit_seg_ne (pt : Part) (m : Nat) {n : Nat} (h : n ≠ 15) : (procInit pt m).seg n = {} := by
  unfold Proc.seg procInit spGetD spGet
  rw [if_neg (Ne.symm h)]
  rfl

theorem State.reset_storesWf : StoresWf State.reset := ⟨rfl, rfl, fun k h => absurd h (Option.some_ne_none k).symm⟩

/-- A processor as module reset leaves it (R23, R511). -/
theorem procInit_isReset (pt : Part) (n : Nat) :
    let q := procInit pt n
    q.run = .resetStopped ∧ q.ip = 0 ∧ q.psw = 0 ∧ q.fpsw = 0 ∧ (∀ r, q.gR r = 0) ∧ (∀ r, q.fR r = 0) ∧
      q.seg 15 = ⟨0, BitVec.ofNat 48 (pt.msBytes - 1), 0x2E0000, 0, 0⟩ ∧ ∀ n, n ≠ 15 → (q.seg n).present = false := by
  refine ⟨rfl, rfl, rfl, rfl, procInit_gR pt n, fun _ => rfl, procInit_seg_fifteen pt n, fun m hm => ?_⟩
  rw [procInit_seg_ne pt n hm]
  decide

/-- Settles O59: each table of the reset state is empty and each register reads its reset value. -/
theorem resetState : Obligations.ResetState := by
  unfold Obligations.ResetState
  exact ⟨rfl, rfl, rfl, rfl, rfl, rfl, rfl, rfl, State.reset_rg, State.reset_qEn, State.reset_rpEn, State.reset_active, fun _ => rfl,
    by decide, by decide, by decide, by decide, State.reset_storesWf, fun p => procInit_isReset .ax p.toNat⟩

/-! Issue of a privileged instruction (R55), and what retiring an instruction leaves of its processor. -/

theorem State.Ready.fetch_eq {s t : State} {p : BitVec 6} {reads writes : List Reg} (h : s.Ready p reads writes t) : s.fetch p = .ok t := by
  obtain ⟨-, hf, -, -⟩ := h
  unfold State.afterFetch at hf
  split at hf
  case h_1 u e => rw [e, Option.some.inj hf]
  all_goals cases hf

/-- A privileged instruction at user level raises 0x02 before it looks at its operands (R55, R70). -/
theorem issue_privileged {s t : State} {p : BitVec 6} {reads writes : List Reg} (h : s.Ready p reads writes t)
    (hu : (t.proc p).user = true) {illegal : Bool} (hi : illegal = false) (rs ws : List Reg) (body : State → State) :
    Raises t p (s.issue p illegal true rs ws body) 0x02 := by
  have hf := h.fetch_eq
  obtain ⟨hable, -⟩ := h
  unfold State.issue State.pre
  rw [hable, hf]
  dsimp only
  rw [hi, hu]
  exact ⟨_, rfl, rfl, rfl⟩

theorem State.proc_simple (t : State) (p : BitVec 6) (F : Proc → Proc) :
    (t.simple p F).proc p = (F { t.proc p with ip := (t.proc p).ip + 6 }).finish (t.proc p).ss := by
  rw [State.simple, State.proc_modProc]

/-- Retiring leaves IP, PSW and the control registers as they stand. -/
theorem Proc.finish_keeps (q : Proc) (ss : Bool) : (q.finish ss).ip = q.ip ∧ (q.finish ss).psw = q.psw ∧ (q.finish ss).cr = q.cr := by
  obtain ⟨g, f, ls, ok, e⟩ := Proc.finish_eq q ss
  rw [e]
  exact ⟨rfl, rfl, rfl⟩

theorem RegsKept.finish (q : Proc) (ip : Word) (ss : Bool) (but : List Reg) : RegsKept q (Proc.finish { q with ip := ip } ss) but :=
  ⟨fun n _ hl => Proc.finish_gR { q with ip := ip } ss n fun l h hd => absurd hd (hl l h),
   fun n _ hl => Proc.finish_fR { q with ip := ip } ss n fun l h hd => absurd hd (hl l h)⟩

theorem OnlyProc.trans {t u v : State} {p : BitVec 6} (h : OnlyProc t u p) (g : OnlyProc u v p) : OnlyProc t v p := by
  obtain ⟨hs, hp⟩ := h
  obtain ⟨gs, gp⟩ := g
  refine ⟨?_, fun r hr => (gp r hr).trans (hp r hr)⟩
  rw [gs, hs]

/-! Control registers (R30, R31, R35): what one reads after a write, and what the registers that act do. -/

theorem spGet_spPut_ne {α : Type} [DecidableEq α] (d : α) (m : Sp α) {k j : Nat} (v : α) (h : j ≠ k) :
    spGet (spPut d m k v) j = spGet m j := by
  unfold spPut
  split
  · exact spGet_spDel_ne m h
  · exact spGet_spIns_ne m v h

theorem Proc.crGet_congr {q q' : Proc} (h : q'.cr = q.cr) (c : Nat) : q'.crGet c = q.crGet c := by
  unfold Proc.crGet
  rw [h]

theorem Proc.crGet_crSet_same (q : Proc) (c : Nat) (v : Word) : (q.crSet c v).crGet c = v := spGetD_spPut_same _ _ c v

theorem Proc.crGet_crSet_ne (q : Proc) {c n : Nat} (v : Word) (h : n ≠ c) : (q.crSet c v).crGet n = q.crGet n := by
  unfold Proc.crGet Proc.crSet spGetD
  rw [spGet_spPut_ne _ _ _ h]

/-- Only a claim changes the state (R141). -/
theorem State.crRead_state (s : State) (p : BitVec 6) {c : Nat} (h : c ≠ 33) : (s.crRead p c).2 = s := by
  unfold State.crRead
  dsimp only
  split
  case h_2 => exact absurd rfl h
  all_goals rfl

/-- A register whose value is not made up at the read reads as it is stored (R31). -/
theorem State.crRead_plain (s : State) (p : BitVec 6) {c : Nat} (h : c ∉ [0, 33, 34, 67, 68, 97, 98]) :
    (s.crRead p c).1 = (s.proc p).crGet c := by
  unfold State.crRead
  dsimp only
  split
  case h_8 => rfl
  all_goals exact absurd (by decide) h

/-- A processor may write its own registers at any time (R35). -/
theorem State.crOpen_self (s : State) (p : BitVec 6) (c : Nat) : s.crOpen (.proc p) p c = true := by
  simp [State.crOpen]

theorem State.crWrite_self_plain (s : State) (p : BitVec 6) {c : Nat} {d : RegD} (v : Word) (hd : crReg c = some d)
    (h : c ∉ [64, 68, 96, 98]) :
    s.crWrite (.proc p) p c v = (s.modProc p fun q => q.crSet c (writeFlds false (q.crGet c) v d.flds)).seenFall := by
  unfold State.crWrite
  simp only [State.crOpen_self, Bool.not_true, Bool.false_eq_true, if_false]
  split
  case h_5 => rw [hd]
  all_goals exact absurd (by decide) h

theorem State.crWrite_self_absent (s : State) (p : BitVec 6) {c : Nat} (v : Word) (hd : crReg c = none) :
    s.crWrite (.proc p) p c v = s := by
  unfold State.crWrite
  simp only [State.crOpen_self, Bool.not_true, Bool.false_eq_true, if_false]
  split
  case h_5 => rw [hd]
  all_goals cases hd

theorem State.crWrite_self_rsnap (s : State) (p : BitVec 6) (v : Word) :
    s.crWrite (.proc p) p 64 v = if v.getLsbD 0 then s.rsnapWrite p else s := by
  simp [State.crWrite, State.crOpen_self]

theorem State.crWrite_self_chkinj (s : State) (p : BitVec 6) (v : Word) :
    s.crWrite (.proc p) p 68 v = s.chkinjWrite p (v.extractLsb' 0 3) := by
  simp [State.crWrite, State.crOpen_self]

theorem State.crWrite_self_l1ctl (s : State) (p : BitVec 6) (v : Word) :
    s.crWrite (.proc p) p 96 v = (s.dstWrite (.proc p) p (fld v 3 2)).istWrite p (fld v 1 0) := by
  simp [State.crWrite, State.crOpen_self]

theorem State.crWrite_self_l1inv (s : State) (p : BitVec 6) (v : Word) : s.crWrite (.proc p) p 98 v = s.l1invWrite p v := by
  simp [State.crWrite, State.crOpen_self]

/-! MFCR and MTCR (R106). -/

/-- MTCR at supervisor level retires and then writes the register as the processor itself (R35). -/
theorem mtcr_ready {s t : State} {p : BitVec 6} {f : RI} (hd : f.rd = 0) (hc : f.imm.toNat < 512) (hu : (t.proc p).user = false)
    (h : s.Ready p [.g f.ra] [] t) :
    exec (.mtcr p f) s = .next ((t.simple p id).crWrite (.proc p) p f.imm.toNat ((t.proc p).gR f.ra)) := by
  rw [exec_mtcr, execMtcr, State.issue_ready h _ _ _ (by simp [hd, hc]) fun _ => hu]

/-- MFCR at supervisor level reads the register and writes its value as an instruction that only computes. -/
theorem mfcr_computed {s t : State} {p : BitVec 6} {f : RI} (ha : f.ra = 0) (hc : f.imm.toNat < 512) (hu : (t.proc p).user = false)
    (h : s.Ready p [] [.g f.rd] t) :
    Computed (t.crRead p f.imm.toNat).2 p (exec (.mfcr p f) s) f.rd (t.crRead p f.imm.toNat).1 false := by
  rw [exec_mfcr, execMfcr, State.issue_ready h _ _ _ (by simp [ha, hc]) fun _ => hu]
  exact State.simple_computed _ p _ _ _ _ rfl

/-- What an instruction leaves alone that retires and then changes control register c of its processor by `F`. -/
theorem simple_crSet_frame (t : State) (p : BitVec 6) (c : Nat) (F : Word → Word) :
    let q := t.proc p
    let u := (t.simple p id).modProc p fun q => q.crSet c (F (q.crGet c))
    OnlyProc t u p ∧ (u.proc p).crGet c = F (q.crGet c) ∧ (∀ n, n ≠ c → (u.proc p).crGet n = q.crGet n) ∧
      (u.proc p).ip = q.ip + 6 ∧ (u.proc p).psw = q.psw ∧ RegsKept q (u.proc p) [] := by
  intro q u
  obtain ⟨hip, hpsw, hcr⟩ := Proc.finish_keeps { q with ip := q.ip + 6 } q.ss
  have hu : u.proc p = (Proc.finish { q with ip := q.ip + 6 } q.ss).crSet c (F (q.crGet c)) := by
    rw [State.proc_modProc, State.proc_simple, id, Proc.crGet_congr hcr]
    rfl
  rw [hu]
  exact ⟨(OnlyProc.modProc t p _).trans (OnlyProc.modProc _ p _), Proc.crGet_crSet_same _ c _,
    fun n hn => (Proc.crGet_crSet_ne _ _ hn).trans (Proc.crGet_congr hcr n), hip, hpsw, RegsKept.finish q (q.ip + 6) q.ss []⟩

/-- Settles O14: at user level the issue itself raises the exception; at supervisor level MFCR is `mfcr_computed` and MTCR is
`mtcr_ready` with the meaning of the register that is written. -/
theorem privilegeAndControlRegisters : Obligations.PrivilegeAndControlRegisters := by
  unfold Obligations.PrivilegeAndControlRegisters
  refine ⟨fun s t p hu => ⟨fun f h => ⟨fun hd => ?_, fun ha hc => ?_, fun hd hc => ?_⟩, fun f h hz hd ha hb => ?_⟩,
    fun s t p f hc hu => ⟨fun ha h => ?_, fun d hd h hr hn => ?_, fun hd h => ?_⟩⟩
  · exact issue_privileged h hu hd _ _ _
  · exact issue_privileged h hu (by simp [ha, hc]) _ _ _
  · exact issue_privileged h hu (by simp [hd, hc]) _ _ _
  · have hf : decide (f.z ≠ 0 ∨ f.rd ≠ 0 ∨ f.ra ≠ 0 ∨ f.rb ≠ 0) = false := by simp [hz, hd, ha, hb]
    exact ⟨issue_privileged h hu hf _ _ _, issue_privileged h hu hf _ _ _, issue_privileged h hu hf _ _ _⟩
  · exact ⟨mfcr_computed ha hc hu h, State.crRead_state t p, State.crRead_plain t p⟩
  · rw [mtcr_ready hd hc hu h, State.crWrite_self_plain _ _ _ hr hn]
    exact ⟨_, rfl, simple_crSet_frame t p _ fun old => writeFlds false old _ d.flds⟩
  · rw [mtcr_ready hd hc hu h]
    refine ⟨fun e => ?_, fun e => ?_, fun e => ?_, fun e => ?_, fun hr _ => ?_⟩
    · rw [e, State.crWrite_self_rsnap]
    · rw [e, State.crWrite_self_chkinj]
    · rw [e, State.crWrite_self_l1ctl]
    · rw [e, State.crWrite_self_l1inv]
    · rw [State.crWrite_self_absent _ _ _ hr]

end Sys2Proof.Machine

namespace Sys2Proof.Machine

open Sys2Proof

/-! Integer functions and immediates (R77, R79). -/

/-- An instruction found illegal by its fields raises 0x01 (R69). -/
theorem issue_illegal_of {s t : State} {p : BitVec 6} {reads writes : List Reg} (h : s.Ready p reads writes t) {illegal : Bool}
    (hi : illegal = true) (priv : Bool) (body : State → State) : Raises t p (s.issue p illegal priv reads writes body) 0x01 := by
  rw [hi]
  exact issue_illegal h priv body

theorem rrOp_illegal {s t : State} {p : BitVec 6} {f : RR} (hz : f.z ≠ 0) (h : s.Ready p [.g f.ra, .g f.rb] [.g f.rd] t)
    (op : Word → Word → Word × Bool) : Raises t p (rrOp p f op s) 0x01 :=
  issue_illegal_of h (decide_eq_true hz) _ _

/-- NEG reads ra alone: its illegal forms and its result (R77). -/
theorem execNeg_illegal {s t : State} {p : BitVec 6} {f : RR} (hz : f.z ≠ 0 ∨ f.rb ≠ 0) (h : s.Ready p [.g f.ra] [.g f.rd] t) :
    Raises t p (execNeg p f s) 0x01 :=
  issue_illegal_of h (decide_eq_true hz) _ _

theorem execNeg_computed {s t : State} {p : BitVec 6} {f : RR} (hz : f.z = 0) (hb : f.rb = 0) (h : s.Ready p [.g f.ra] [.g f.rd] t) :
    Computed t p (execNeg p f s) f.rd (0 - (t.proc p).gR f.ra) (decide ((t.proc p).gR f.ra = 0x800000000000)) := by
  rw [execNeg, State.issue_ready h _ _ _ (by simp [hz, hb]) (by simp)]
  exact State.simple_computed t p _ _ _ _ rfl

/-- An instruction that reads or writes fewer registers can be done as well. -/
theorem State.Ready.mono {s t : State} {p : BitVec 6} {reads writes reads' writes' : List Reg} (h : s.Ready p reads writes t)
    (hr : reads' ⊆ reads) (hw : writes' ⊆ writes) : s.Ready p reads' writes' t := by
  obtain ⟨hable, hf, hb, hbw⟩ := h
  rw [List.any_eq_false] at hb hbw
  exact ⟨hable, hf, List.any_eq_false.2 fun r hm => hb r (hr hm), List.any_eq_false.2 fun r hm => hbw r (hw hm)⟩

theorem riOp_illegal {s t : State} {p : BitVec 6} {f : RI} {bad : Bool} (hb : bad = true) (h : s.Ready p [.g f.ra] [.g f.rd] t)
    (op : Word → BitVec 30 → Word × Bool) : Raises t p (riOp p f bad op s) 0x01 :=
  issue_illegal_of h hb _ _

/-- Settles O1: each function is `rrOp` or `riOp` with its table entry; NEG, which reads ra alone, has lemmas of its own. -/
theorem integerResults : Obligations.IntegerResults := by
  unfold Obligations.IntegerResults
  refine ⟨fun s t p f h => ?_, fun s t p f h => ?_⟩
  · have hneg : s.Ready p [.g f.ra] [.g f.rd] t := h.mono (by simp) (by simp)
    simp only [List.forall_mem_cons, List.not_mem_nil, false_implies, implies_true, and_true, exec_add, exec_addu, exec_sub, exec_subu,
      exec_and, exec_or, exec_xor, exec_andn, exec_nor, exec_slt, exec_sltu, exec_neg]
    refine ⟨fun hz => ?_, fun hb => execNeg_illegal (.inr hb) hneg, fun hz => ?_⟩
    · exact ⟨rrOp_illegal hz h _, rrOp_illegal hz h _, rrOp_illegal hz h _, rrOp_illegal hz h _, rrOp_illegal hz h _, rrOp_illegal hz h _,
        rrOp_illegal hz h _, rrOp_illegal hz h _, rrOp_illegal hz h _, rrOp_illegal hz h _, rrOp_illegal hz h _, execNeg_illegal (.inl hz) hneg⟩
    · exact ⟨rrOp_computed hz h _, rrOp_computed hz h _, rrOp_computed hz h _, rrOp_computed hz h _, rrOp_computed hz h _,
        rrOp_computed hz h _, rrOp_computed hz h _, rrOp_computed hz h _, rrOp_computed hz h _, rrOp_computed hz h _,
        rrOp_computed hz h _, fun hb => execNeg_computed hz hb hneg⟩
  · simp only [exec_addi, exec_addiu, exec_slti, exec_sltiu, exec_andi, exec_ori, exec_xori, exec_lhi]
    exact ⟨riOp_computed rfl h _, riOp_computed rfl h _, riOp_computed rfl h _, riOp_computed rfl h _, riOp_computed rfl h _,
      riOp_computed rfl h _, riOp_computed rfl h _,
      fun ha hi => riOp_computed (decide_eq_false (by simp only [ha, ne_eq, not_true_eq_false, false_or]; omega)) h _,
      fun hb => riOp_illegal (decide_eq_true hb) h _⟩

end Sys2Proof.Machine

namespace Sys2Proof.Machine

open Sys2Proof

/-! Retiring: what stands after `Proc.finish`, told by what stood before it. -/

/-- `r` is processor `q` after an effect that writes at most the registers `but` and changes nothing else that `ProcKept` names:
each of its loads is to write a register that a load of `q` is to write. -/
structure Effect (q r : Proc) (but : List Reg) : Prop where
  loads : ∀ l ∈ r.loads, ∃ x ∈ q.loads, x.dst = l.dst
  g : ∀ n, Reg.g n ∉ but → r.gR n = q.gR n
  f : ∀ n, Reg.f n ∉ but → r.fR n = q.fR n

/-- An effect that changes no register and no outstanding load. -/
theorem Effect.of_eq {q r : Proc} (hg : r.g = q.g) (hf : r.f = q.f) (hl : r.loads = q.loads) (but : List Reg) : Effect q r but where
  loads l h := ⟨l, hl ▸ h, rfl⟩
  g n _ := by rw [Proc.gR, Proc.gR, hg]
  f n _ := by rw [Proc.fR, Proc.fR, hf]

theorem Effect.supersede (q : Proc) (d : Reg) (but : List Reg) : Effect q (q.supersede d) but where
  loads l h := by
    obtain ⟨x, hx, rfl⟩ := List.mem_map.1 h
    exact ⟨x, hx, by split <;> rfl⟩
  g _ _ := rfl
  f _ _ := rfl

/-- A register write changes no outstanding load. -/
theorem Proc.put_loads (q : Proc) (d : Reg) (v : BitVec 64) : (q.put d v).loads = q.loads := by
  obtain ⟨g, f, e⟩ := Proc.put_eq q d v
  rw [e]

theorem Effect.gW (q : Proc) (n : BitVec 5) (v : Word) : Effect q (q.gW n v) [.g n] where
  loads l h := (Effect.supersede q (.g n) []).loads l (by rwa [Proc.gW, Proc.put_loads] at h)
  g m hm := Proc.gW_ne q v fun e => hm (by simp [e])
  f m _ := Proc.gW_fR q n m v

theorem Effect.fW (q : Proc) (n : BitVec 5) (v : BitVec 64) : Effect q (q.fW n v) [.f n] where
  loads l h := (Effect.supersede q (.f n) []).loads l (by rwa [Proc.fW, Proc.put_loads] at h)
  g m _ := Proc.fW_gR q n m v
  f m hm := Proc.fW_ne q v fun e => hm (by simp [e])

/-- Retiring writes only registers that a load was to write before. -/
theorem Effect.finish {q r : Proc} {but : List Reg} (h : Effect q r but) (ss : Bool) : RegsKept q (r.finish ss) but := by
  refine ⟨fun n hn hd => ?_, fun n hn hd => ?_⟩
  · rw [Proc.finish_gR _ _ _ fun l hl e => ?_, h.g n hn]
    obtain ⟨x, hx, hxd⟩ := h.loads l hl
    exact absurd (hxd.trans e) (hd x hx)
  · rw [Proc.finish_fR _ _ _ fun l hl e => ?_, h.f n hn]
    obtain ⟨x, hx, hxd⟩ := h.loads l hl
    exact absurd (hxd.trans e) (hd x hx)

/-- A write supersedes every outstanding load of its register (R62). -/
theorem Proc.supersede_sup (q : Proc) (d : Reg) : ∀ l ∈ (q.supersede d).loads, l.dst = d → l.sup = true := by
  intro l hl hd
  obtain ⟨x, hx, rfl⟩ := List.mem_map.1 hl
  by_cases e : x.dst = d
  · rw [if_pos e]
  · rw [if_neg e] at hd
    exact absurd hd e

/-- What an instruction wrote to G[n] stands after it has retired. -/
theorem Proc.finish_gW (q : Proc) (n : BitVec 5) (v : Word) (ss : Bool) (ip : Word) :
    (Proc.finish { q.gW n v with ip := ip } ss).gR n = if n = 0 then 0 else v := by
  rw [Proc.finish_gR _ _ _ fun l hl hd => ?_]
  · exact Proc.gW_same q n v
  · exact Proc.supersede_sup q (.g n) l (by rwa [Proc.gW, Proc.put_loads] at hl) hd

theorem Proc.finish_fW (q : Proc) (n : BitVec 5) (v : BitVec 64) (ss : Bool) : ((q.fW n v).finish ss).fR n = v := by
  rw [Proc.finish_fR _ _ _ fun l hl hd => ?_]
  · exact Proc.fW_same q n v
  · exact Proc.supersede_sup q (.f n) l (by rwa [Proc.fW, Proc.put_loads] at hl) hd

/-- What retiring leaves as it stands. -/
theorem Proc.finish_frame (q : Proc) (ss : Bool) :
    (q.finish ss).ip = q.ip ∧ (q.finish ss).psw = q.psw ∧ (q.finish ss).fpsw = q.fpsw ∧ (q.finish ss).trap = q.trap ∧
      (q.finish ss).longs = q.longs ∧ ProcKept q (q.finish ss) := by
  obtain ⟨g, f, ls, ok, e⟩ := Proc.finish_eq q ss
  rw [e]
  exact ⟨rfl, rfl, rfl, rfl, rfl, rfl, rfl, rfl, rfl, rfl, rfl, rfl, rfl, rfl, rfl, rfl⟩

/-! Branches and calls (R82 to R84). -/

/-- An instruction that changes nothing but IP (R82). -/
theorem State.retire_computed' (t : State) (p : BitVec 6) (ss : Bool) (ip : Word) : Computed' t p (.next (t.retire p ss ip)) 0 0 ip := by
  have hu : (t.retire p ss ip).proc p = Proc.finish { t.proc p with ip := ip } ss := by rw [State.retire, State.proc_modProc]
  obtain ⟨hip, hpsw, hfpsw, htrap, hlongs, hk⟩ := Proc.finish_frame { t.proc p with ip := ip } ss
  refine ⟨_, rfl, OnlyProc.modProc t p _, rfl, ?_⟩
  rw [hu]
  exact ⟨hpsw, htrap, hfpsw, hip, (Effect.of_eq (q := t.proc p) (r := { t.proc p with ip := ip }) rfl rfl rfl _).finish ss, hk, hlongs⟩

/-- An instruction that writes one general register and goes on at `ip` (R83, R84). -/
theorem State.gW_retire_computed' (t : State) (p : BitVec 6) (ss : Bool) (rd : BitVec 5) (ip : Word) (v : Proc → Word) :
    Computed' t p (.next ((t.modProc p fun q => q.gW rd (v q)).retire p ss ip)) rd (v (t.proc p)) ip := by
  have hu : ((t.modProc p fun q => q.gW rd (v q)).retire p ss ip).proc p =
      Proc.finish { (t.proc p).gW rd (v (t.proc p)) with ip := ip } ss := by
    rw [State.retire, State.proc_modProc, State.proc_modProc]
  obtain ⟨hip, hpsw, hfpsw, htrap, hlongs, hk⟩ := Proc.finish_frame { (t.proc p).gW rd (v (t.proc p)) with ip := ip } ss
  obtain ⟨hl, hg, hf⟩ := Effect.gW (t.proc p) rd (v (t.proc p))
  obtain ⟨g, f, e⟩ := Proc.gW_eq (t.proc p) rd (v (t.proc p))
  refine ⟨_, rfl, (OnlyProc.modProc t p _).trans (OnlyProc.modProc _ p _), ?_⟩
  rw [hu]
  refine ⟨Proc.finish_gW _ _ _ _ _, ?_, ?_, ?_, hip, Effect.finish (r := { (t.proc p).gW rd (v (t.proc p)) with ip := ip }) ⟨hl, hg, hf⟩ ss, ?_, ?_⟩
  · rw [hpsw, e]
  · rw [htrap, e]
  · rw [hfpsw, e]
  · rw [e] at hk ⊢
    exact hk
  · rw [hlongs, e]

/-- The condition of a branch (R43), for the conditions that are not reserved. -/
theorem condTrue_iff {c : BitVec 4} (hc : c.toNat ≤ 8) (v : Word) :
    condTrue c v = true ↔ (c = 0 ∧ v = 0) ∨ (c = 1 ∧ v ≠ 0) ∨ (c = 2 ∧ v.toInt < 0) ∨ (c = 3 ∧ 0 ≤ v.toInt) ∨
      (c = 4 ∧ v.toInt ≤ 0) ∨ (c = 5 ∧ 0 < v.toInt) ∨ (c = 6 ∧ v.getLsbD 0 = true) ∨ (c = 7 ∧ v.getLsbD 0 = false) ∨ c = 8 := by
  obtain rfl | rfl | rfl | rfl | rfl | rfl | rfl | rfl | rfl :
      c = 0 ∨ c = 1 ∨ c = 2 ∨ c = 3 ∨ c = 4 ∨ c = 5 ∨ c = 6 ∨ c = 7 ∨ c = 8 := by bv_omega
  all_goals simp [condTrue]
  all_goals exact Iff.rfl

/-- BC of a condition that is not reserved goes to its target or to the next instruction (R82). -/
theorem execBc_ready {s t : State} {p : BitVec 6} {f : BF} (h : s.Ready p [.g f.test] [] t) (hc : f.cond.toNat ≤ 8)
    (ht : f.cond = 8 → f.test = 0) :
    execBc p f s = .next (t.retire p (t.proc p).ss
      (if condTrue f.cond ((t.proc p).gR f.test) then branchTo (t.proc p).ip f.disp else (t.proc p).ip + 6)) := by
  have hr : s.Ready p (if f.cond = 8 then [] else [.g f.test]) [] t := h.mono (by split <;> simp) (by simp)
  have hi : ¬(f.cond.toNat > 8 ∨ (f.cond = 8 ∧ f.test ≠ 0)) := by
    rintro (hgt | ⟨he, hne⟩)
    · omega
    · exact hne (ht he)
  rw [execBc, State.issue_ready hr _ _ _ (decide_eq_false hi) (by simp)]

theorem execBc_illegal {s t : State} {p : BitVec 6} {f : BF} (h : s.Ready p [.g f.test] [] t)
    (hi : ¬(f.cond.toNat ≤ 8 ∧ (f.cond = 8 → f.test = 0))) : Raises t p (execBc p f s) 0x01 := by
  have hr : s.Ready p (if f.cond = 8 then [] else [.g f.test]) [] t := h.mono (by split <;> simp) (by simp)
  refine issue_illegal_of hr (decide_eq_true ?_) _ _
  rw [not_and_or, not_le, Classical.not_imp] at hi
  exact hi

/-- Settles O9: BC is a case split on its condition, CALL and JR write their link before they retire. -/
theorem branchesAndCalls : Obligations.BranchesAndCalls := by
  unfold Obligations.BranchesAndCalls
  refine ⟨fun s t p f h => ?_, fun s t p f h hc => ?_, fun s t p f h hz hb hn => ?_, fun s t p f h hc => ?_, fun s t p f h hz => ?_⟩
  · rw [exec_bc]
    dsimp only
    split
    case isTrue hl =>
      obtain ⟨hc, ht⟩ := hl
      rw [execBc_ready h hc ht]
      refine ⟨fun hv => ?_, fun hv => ?_⟩
      · rw [if_pos ((condTrue_iff hc _).2 hv)]
        exact State.retire_computed' t p _ _
      · rw [if_neg (mt (condTrue_iff hc _).1 hv)]
        exact State.retire_computed' t p _ _
    case isFalse hl => exact execBc_illegal h hl
  · rw [exec_call, execCall, State.issue_ready h _ _ _ (by simp [hc]) (by simp)]
    exact State.gW_retire_computed' t p _ _ _ fun q => q.ip + 6
  · rw [exec_jr, execJr, State.issue_ready h _ _ _ (by simp [hz, hb, hn]) (by simp)]
    exact State.gW_retire_computed' t p _ _ _ fun q => q.ip + 6
  · rw [exec_call]
    exact issue_illegal_of h (decide_eq_true hc) _ _
  · rw [exec_jr]
    exact issue_illegal_of h (decide_eq_true hz) _ _

end Sys2Proof.Machine

namespace Sys2Proof.Machine

open Sys2Proof

/-! Floating instructions (R98 to R100). -/

/-- The processor as an instruction's effect finds it: IP at the next instruction. -/
def Proc.stepped (q : Proc) : Proc := { q with ip := q.ip + 6 }

theorem State.proc_simple_stepped (t : State) (p : BitVec 6) (F : Proc → Proc) :
    (t.simple p F).proc p = (F (t.proc p).stepped).finish (t.proc p).ss := State.proc_simple t p F

/-- The long result that a floating instruction leaves waiting (R73, R29). -/
theorem Proc.longFp_longs (q : Proc) (dst : Reg) (v : BitVec 64) (fl : BitVec 5) (fdiv : Bool) :
    ∃ x, (q.longFp dst v fl fdiv).longs = q.longs ++ [x] ∧ x.dst = dst ∧ x.val = v ∧ x.setV = false ∧ x.setDZ = false ∧
      x.trap = (if q.fpsw.extractLsb' 8 5 &&& fl ≠ 0 then 0x09 else 0) ∧ x.fl = fl :=
  ⟨_, rfl, rfl, rfl, rfl, rfl, rfl, rfl⟩

/-- A floating instruction has issued with result and flags `x`, and with the floating trap when a flag is enabled (R29, R121). -/
def FpStarted (t : State) (p : BitVec 6) (r : Res) (dst : Reg) (x : Nat × BitVec 5) : Prop :=
  LongStarted t p r dst (BitVec.ofNat 64 x.1) false false (if (t.proc p).fpsw.extractLsb' 8 5 &&& x.2 ≠ 0 then 0x09 else 0) x.2

/-- What a long floating instruction comes to at its issue. -/
theorem longFp_started {t : State} {p : BitVec 6} {dst : Reg} {x : Nat × BitVec 5} {v : BitVec 64} {fdiv : Bool} {F : Proc → Proc}
    (hv : v = BitVec.ofNat 64 x.1) (hF : F (t.proc p).stepped = (t.proc p).stepped.longFp dst v x.2 fdiv) :
    FpStarted t p (.next (t.simple p F)) dst x := by
  subst hv
  have hu := State.proc_simple_stepped t p F
  rw [hF] at hu
  obtain ⟨l, hl, hd, hval, hv, hz, ht, hfl⟩ := Proc.longFp_longs (t.proc p).stepped dst (BitVec.ofNat 64 x.1) x.2 fdiv
  obtain ⟨hip, hpsw, hfpsw, -, hlongs, hk⟩ :=
    Proc.finish_frame ((t.proc p).stepped.longFp dst (BitVec.ofNat 64 x.1) x.2 fdiv) (t.proc p).ss
  have he : Effect (t.proc p) ((t.proc p).stepped.longFp dst (BitVec.ofNat 64 x.1) x.2 fdiv) [] := by
    obtain ⟨hl, hg, hf⟩ := Effect.supersede (t.proc p) dst []
    exact ⟨hl, hg, hf⟩
  refine ⟨_, l, rfl, OnlyProc.modProc t p _, ?_⟩
  rw [hu]
  exact ⟨hlongs.trans hl, hd, hval, hv, hz, ht, hfl, hip, hpsw, hfpsw, he.finish _, hk⟩

section
variable {s t : State} {p : BitVec 6}

theorem fpOp2_started {f : FR} (hz : f.z = 0) (h : s.Ready p [.f f.ra, .f f.rb] [.f f.rd] t)
    (op : Bool → Nat → BitVec 64 → BitVec 64 → Nat × BitVec 5) :
    let q := t.proc p
    FpStarted t p (fpOp2 p f op s) (.f f.rd) (op f.p (fld q.fpsw 2 0) (q.fR f.ra) (q.fR f.rb)) := by
  rw [fpOp2, State.issue_ready h _ _ _ (by simp [hz]) (by simp)]
  exact longFp_started rfl rfl

theorem cmpOp_started {f : FR} (hz : f.z = 0) (h : s.Ready p [.f f.ra, .f f.rb] [.g f.rd] t) (op : Nat) :
    let q := t.proc p
    FpStarted t p (cmpOp p f op s) (.g f.rd) (fpCmp f.p op (q.fR f.ra) (q.fR f.rb)) := by
  rw [cmpOp, State.issue_ready h _ _ _ (by simp [hz]) (by simp)]
  exact longFp_started rfl rfl

theorem fmaOp_started {f : F4} (hz : f.z = 0) (hz5 : f.z5 = 0) (h : s.Ready p [.f f.ra, .f f.rb, .f f.rc] [.f f.rd] t) (np na : Bool) :
    let q := t.proc p
    FpStarted t p (fmaOp p f np na s) (.f f.rd) (fpFma f.p (fld q.fpsw 2 0) np na (q.fR f.ra) (q.fR f.rb) (q.fR f.rc)) := by
  rw [fmaOp, State.issue_ready h _ _ _ (by simp [hz, hz5]) (by simp)]
  exact longFp_started rfl rfl

/-- FDIV and FSQRT issue when the floating divider is free (R73). -/
theorem execFdiv_started {f : FR} (hz : f.z = 0) (h : s.Ready p [.f f.ra, .f f.rb] [.f f.rd] t)
    (hd : (t.proc p).longs.any (fun x => x.fdiv) = false) :
    let q := t.proc p
    FpStarted t p (execFdiv p f s) (.f f.rd) (fpDiv f.p (fld q.fpsw 2 0) ((q.crGet 1).getLsbD 0) (q.fR f.ra) (q.fR f.rb)) := by
  rw [execFdiv, State.issue_ready h _ _ _ (by simp [hz]) (by simp), hd, if_neg Bool.false_ne_true]
  exact longFp_started rfl rfl

theorem execFsqrt_started {f : FR} (hz : f.z = 0) (hb : f.rb = 0) (h : s.Ready p [.f f.ra] [.f f.rd] t)
    (hd : (t.proc p).longs.any (fun x => x.fdiv) = false) :
    let q := t.proc p
    FpStarted t p (execFsqrt p f s) (.f f.rd) (fpSqrt f.p (fld q.fpsw 2 0) ((q.crGet 1).getLsbD 0) (q.fR f.ra)) := by
  rw [execFsqrt, State.issue_ready h _ _ _ (by simp [hz, hb]) (by simp), hd, if_neg Bool.false_ne_true]
  exact longFp_started rfl rfl

end

/-- Settles O10: each operation is `longFp` with the value and the flags of its arithmetic. -/
theorem floatingOperationsIssue : Obligations.FloatingOperationsIssue := by
  unfold Obligations.FloatingOperationsIssue
  intro s t p
  simp only [exec_fadd, exec_fsub, exec_fmul, exec_fdiv, exec_fcvtP, exec_fsqrt, exec_feq, exec_flt, exec_fle, exec_funord, exec_fcvtI,
    exec_fcvtF, exec_fmadd, exec_fmsub, exec_fnmsub, exec_fnmadd]
  refine ⟨fun f hz h => ⟨fpOp2_started hz h _, fpOp2_started hz h _, fpOp2_started hz h _, execFdiv_started hz h⟩,
    fun f hz hb h => ⟨?_, execFsqrt_started hz hb h⟩,
    fun f hz h => ⟨cmpOp_started hz h 8, cmpOp_started hz h 9, cmpOp_started hz h 10, cmpOp_started hz h 11⟩,
    fun f hz hb h => ?_, fun f hz hb h => ?_,
    fun f hz hz5 h => ⟨fmaOp_started hz hz5 h _ _, fmaOp_started hz hz5 h _ _, fmaOp_started hz hz5 h _ _, fmaOp_started hz hz5 h _ _⟩⟩
  · rw [execFcvtP, State.issue_ready h _ _ _ (by simp [hz, hb]) (by simp)]
    exact longFp_started rfl rfl
  · rw [execFcvtI, State.issue_ready h _ _ _ (by simp [hz, hb]) (by simp)]
    exact longFp_started (x := ((fpToInt f.p _ _).1.toNat, _)) (BitVec.ofNat_toNat _ _).symm rfl
  · rw [execFcvtF, State.issue_ready h _ _ _ (by simp [hz, hb]) (by simp)]
    exact longFp_started rfl rfl

end Sys2Proof.Machine

namespace Sys2Proof.Machine

open Sys2Proof

/-! Sign and move instructions (R98 note d, R25, R114). -/

/-- An instruction that writes one floating register and nothing else. -/
theorem State.simple_fW_computed (t : State) (p : BitVec 6) (rd : BitVec 5) (v : BitVec 64) (F : Proc → Proc)
    (hF : F (t.proc p).stepped = (t.proc p).stepped.fW rd v) : ComputedF t p (.next (t.simple p F)) rd v := by
  have hu := State.proc_simple_stepped t p F
  rw [hF] at hu
  obtain ⟨hip, hpsw, hfpsw, htrap, hlongs, hk⟩ := Proc.finish_frame ((t.proc p).stepped.fW rd v) (t.proc p).ss
  obtain ⟨hl, hg, hf⟩ := Effect.fW (t.proc p).stepped rd v
  refine ⟨_, rfl, OnlyProc.modProc t p _, ?_⟩
  rw [hu]
  exact ⟨Proc.finish_fW _ _ _ _, hpsw, htrap, hfpsw, hip, Effect.finish ⟨hl, hg, hf⟩ _, hk, hlongs⟩

/-- The operand of a sign instruction as the model takes it, with its sign inverted (R98). -/
theorem ofNat_flip_sign (d : Bool) (a : BitVec 64) :
    BitVec.ofNat 64 ((if d then a.toNat else a.toNat % 2 ^ 32) ^^^ fpSign d true) =
      if d then a ^^^ 0x8000000000000000 else (a.extractLsb' 0 32 ^^^ 0x80000000).setWidth 64 := by
  cases d
  · refine BitVec.eq_of_toNat_eq ?_
    have hx : a.toNat % 2 ^ 32 ^^^ 2 ^ 31 < 2 ^ 32 := Nat.xor_lt_two_pow (Nat.mod_lt _ (by decide)) (by decide)
    simp [fpSign, fracBits, expBits] at hx ⊢
  · refine BitVec.eq_of_toNat_eq ?_
    have hx : a.toNat ^^^ 2 ^ 63 < 2 ^ 64 := Nat.xor_lt_two_pow a.isLt (by decide)
    simp [fpSign, fracBits, expBits] at hx ⊢

/-- The same with the sign cleared. -/
theorem ofNat_clear_sign (d : Bool) (a : BitVec 64) :
    BitVec.ofNat 64 ((if d then a.toNat else a.toNat % 2 ^ 32) % fpSign d true) =
      if d then a &&& 0x7FFFFFFFFFFFFFFF else (a.extractLsb' 0 32 &&& 0x7FFFFFFF).setWidth 64 := by
  cases d
  · refine BitVec.eq_of_toNat_eq ?_
    have hx := Nat.and_two_pow_sub_one_eq_mod (a.toNat % 2 ^ 32 % 2 ^ 64) 31
    simp [fpSign, fracBits, expBits] at hx ⊢
    omega
  · refine BitVec.eq_of_toNat_eq ?_
    have hx := Nat.and_two_pow_sub_one_eq_mod a.toNat 63
    simp [fpSign, fracBits, expBits] at hx ⊢
    omega

/-- FNEG and FABS are `signOp` with their function of the operand's bits. -/
theorem signOp_computed {s t : State} {p : BitVec 6} {f : FR} (hz : f.z = 0) (hb : f.rb = 0) (h : s.Ready p [.f f.ra] [.f f.rd] t)
    (op : Bool → Nat → Nat) :
    ComputedF t p (signOp p f op s) f.rd
      (BitVec.ofNat 64 (op f.p (if f.p then ((t.proc p).fR f.ra).toNat else ((t.proc p).fR f.ra).toNat % 2 ^ 32))) := by
  rw [signOp, State.issue_ready h _ _ _ (by simp [hz, hb]) (by simp)]
  exact State.simple_fW_computed t p _ _ _ rfl

/-! Rounding (R28). -/

/-- Does rounding take the multiple above `n`, `r` being what is left over it and `half` half a step? -/
def roundsUp (rm : Nat) (neg : Bool) (n r half : Nat) : Prop :=
  match rm with
  | 0 => half < r ∨ r = half ∧ n % 2 = 1
  | 1 => False
  | 2 => r ≠ 0 ∧ neg = false
  | 3 => r ≠ 0 ∧ neg = true
  | _ => half ≤ r

theorem roundQ_exact (rm : Nat) (neg : Bool) (m : Nat) (e : Int) : roundQ rm neg m e e = (m, false) := by
  simp [roundQ]

/-- Rounding to a multiple of a larger power of two is a division with a remainder. -/
theorem roundQ_step (rm : Nat) (neg : Bool) (m k : Nat) (e : Int) (hk : 0 < k) :
    let r := roundQ rm neg m e (e + k)
    (r.2 = true ↔ m % 2 ^ k ≠ 0) ∧
      (roundsUp rm neg (m / 2 ^ k) (m % 2 ^ k) (2 ^ (k - 1)) → r.1 = m / 2 ^ k + 1) ∧
      (¬ roundsUp rm neg (m / 2 ^ k) (m % 2 ^ k) (2 ^ (k - 1)) → r.1 = m / 2 ^ k) := by
  have hq : ¬ e + (k : Int) ≤ e := by omega
  have hke : (e + (k : Int) - e).toNat = k := by omega
  unfold roundQ
  rw [if_neg hq, hke]
  unfold roundsUp
  split <;> simp +contextual

/-- Only a number that is no multiple is rounded up. -/
theorem roundsUp.rest_ne_zero {rm : Nat} {neg : Bool} {n r half : Nat} (h : roundsUp rm neg n r half) (hh : 0 < half) : r ≠ 0 := by
  unfold roundsUp at h
  split at h
  case h_2 => exact h.elim
  case h_3 | h_4 => exact h.1
  all_goals omega

/-- What each rounding mode says of the multiple `n` of `step` that it makes of `m`. -/
def RoundedTo (rm : Nat) (neg : Bool) (m step n : Nat) : Prop :=
  (rm = 1 ∨ (rm = 2 ∧ neg = true) ∨ (rm = 3 ∧ neg = false) → n * step ≤ m ∧ m < (n + 1) * step) ∧
  ((rm = 2 ∧ neg = false) ∨ (rm = 3 ∧ neg = true) → m ≤ n * step ∧ n * step < m + step) ∧
  (rm = 0 ∨ rm = 4 → 2 * m ≤ 2 * n * step + step ∧ 2 * n * step ≤ 2 * m + step) ∧
  (rm = 0 → 2 * m = 2 * n * step + step ∨ 2 * n * step = 2 * m + step → n % 2 = 0) ∧
  (rm = 4 → 2 * m ≠ 2 * n * step + step)

theorem RoundedTo.exact (rm : Nat) (neg : Bool) (m : Nat) : RoundedTo rm neg m 1 m := by
  refine ⟨fun _ => ?_, fun _ => ?_, fun _ => ?_, fun _ => ?_, fun _ => ?_⟩ <;> omega

section
variable {rm n r half : Nat} {neg : Bool}

/-- The multiple above: the modes that go down never take it, the nearest ones only from half a step on. -/
theorem RoundedTo.up (hh : 0 < half) (hr : r < 2 * half) (h : roundsUp rm neg n r half) :
    RoundedTo rm neg (n * (2 * half) + r) (2 * half) (n + 1) := by
  have hne : r ≠ 0 := h.rest_ne_zero hh
  unfold RoundedTo
  rw [Nat.mul_assoc 2, Nat.succ_mul (n + 1), Nat.succ_mul n]
  generalize n * (2 * half) = x
  refine ⟨fun hm => ?_, fun _ => by omega, fun hm => ?_, fun hm ht => ?_, fun hm => ?_⟩
  · obtain rfl | ⟨rfl, rfl⟩ | ⟨rfl, rfl⟩ := hm
    · exact h.elim
    · exact nomatch h.2
    · exact nomatch h.2
  · have hle : half ≤ r := by
      obtain rfl | rfl := hm
      · obtain hlt | ⟨heq, -⟩ := h
        · exact hlt.le
        · exact heq.ge
      · exact h
    omega
  · subst hm
    obtain hlt | ⟨-, hodd⟩ := h <;> omega
  · subst hm
    have hle : half ≤ r := h
    omega

/-- The multiple below: the modes that go up take it only when nothing is left over it. -/
theorem RoundedTo.down (hr : r < 2 * half) (h : ¬ roundsUp rm neg n r half) :
    RoundedTo rm neg (n * (2 * half) + r) (2 * half) n := by
  unfold RoundedTo
  rw [Nat.mul_assoc 2, Nat.succ_mul n]
  generalize n * (2 * half) = x
  refine ⟨fun _ => by omega, fun hm => ?_, fun hm => ?_, fun hm ht => ?_, fun hm => ?_⟩
  · have hz : r = 0 := by
      obtain ⟨rfl, rfl⟩ | ⟨rfl, rfl⟩ := hm
      · exact not_not.1 fun hne => h ⟨hne, rfl⟩
      · exact not_not.1 fun hne => h ⟨hne, rfl⟩
    omega
  · have hle : r ≤ half := by
      obtain rfl | rfl := hm
      · exact not_lt.1 fun hlt => h (.inl hlt)
      · exact (not_le.1 h).le
    omega
  · subst hm
    have hodd : r = half → n % 2 ≠ 1 := fun heq hodd => h (.inr ⟨heq, hodd⟩)
    omega
  · subst hm
    have hlt : r < half := not_le.1 h
    omega

end

/-- The multiple that `roundQ` makes of m, and when it says that it differs from m (R28). -/
theorem roundQ_spec (rm : Nat) (neg : Bool) (m k : Nat) (e : Int) :
    let r := roundQ rm neg m e (e + k)
    (r.2 = true ↔ r.1 * 2 ^ k ≠ m) ∧ RoundedTo rm neg m (2 ^ k) r.1 := by
  intro r
  rcases Nat.eq_zero_or_pos k with rfl | hk
  · have hr : r = (m, false) := (congrArg _ (Int.add_zero e)).trans (roundQ_exact rm neg m e)
    rw [hr]
    exact ⟨by simp, RoundedTo.exact rm neg m⟩
  · obtain ⟨hi, hup, hdown⟩ := roundQ_step rm neg m k e hk
    have hs : 2 ^ k = 2 * 2 ^ (k - 1) := by rw [← Nat.pow_succ', Nat.succ_eq_add_one, Nat.sub_add_cancel hk]
    have hm : m / 2 ^ k * 2 ^ k + m % 2 ^ k = m := Nat.div_add_mod' m _
    have hlt : m % 2 ^ k < 2 ^ k := Nat.mod_lt _ (Nat.two_pow_pos k)
    have hsucc : (m / 2 ^ k + 1) * 2 ^ k = m / 2 ^ k * 2 ^ k + 2 ^ k := Nat.succ_mul _ _
    by_cases h : roundsUp rm neg (m / 2 ^ k) (m % 2 ^ k) (2 ^ (k - 1))
    · have hr := RoundedTo.up (Nat.two_pow_pos _) (hs ▸ hlt) h
      have hne : m % 2 ^ k ≠ 0 := h.rest_ne_zero (Nat.two_pow_pos _)
      rw [← hs, hm] at hr
      rw [hi, hup h, hsucc]
      exact ⟨iff_of_true hne (by omega), hr⟩
    · have hr := RoundedTo.down (hs ▸ hlt) h
      rw [← hs, hm] at hr
      rw [hi, hdown h]
      exact ⟨by omega, hr⟩

/-- Settles O11: the moves write one register and no flag (`signOp_computed`, `State.simple_fW_computed`), and rounding is
`roundQ_spec`. -/
theorem floatingMovesAndRounding : Obligations.FloatingMovesAndRounding := by
  unfold Obligations.FloatingMovesAndRounding
  refine ⟨fun s t p => ?_, fun rm neg m k e _ => roundQ_spec rm neg m k e⟩
  simp only [exec_fneg, exec_fabs, exec_fmvgfLo, exec_fmvgfHi, exec_fmvfgLo, exec_fmvfgHi]
  refine ⟨fun f hz hb h => ⟨?_, ?_⟩, fun f hz hb h => ⟨?_, ?_⟩, fun f hz hb h => ⟨?_, ?_⟩⟩
  · rw [← ofNat_flip_sign]
    exact signOp_computed hz hb h fun d w => w ^^^ fpSign d true
  · rw [← ofNat_clear_sign]
    exact signOp_computed hz hb h fun d w => w % fpSign d true
  · have hr : s.Ready p [.g f.ra] [.f f.rd] t := h.mono (by simp) (by simp)
    rw [execFmvgfLo, State.issue_ready hr _ _ _ (by simp [hz, hb]) (by simp)]
    exact State.simple_fW_computed t p _ _ _ rfl
  · rw [execFmvgfHi, State.issue_ready h _ _ _ (by simp [hz, hb]) (by simp)]
    exact State.simple_fW_computed t p _ _ _ rfl
  · rw [execFmvfgLo, State.issue_ready h _ _ _ (by simp [hz, hb]) (by simp)]
    exact State.simple_computed t p _ _ _ _ rfl
  · rw [execFmvfgHi, State.issue_ready h _ _ _ (by simp [hz, hb]) (by simp)]
    exact State.simple_computed t p _ _ _ _ rfl

end Sys2Proof.Machine

namespace Sys2Proof.Machine

open Sys2Proof

/-! Stores (R86, R93, R157, R169). -/

/-- Draining a line of the combining buffer moves bytes between the two buffers and changes nothing else (R170). -/
theorem Proc.drainFor_eq {q q1 : Proc} {a : Acc} {n : Nat} (h : q.drainFor a n = some q1) : q1 = { q with comb := q1.comb, sb := q1.sb } := by
  unfold Proc.drainFor Proc.drainComb at h
  split at h
  · dsimp only at h
    split at h <;> cases h
    rfl
  · cases h
    rfl

/-- An access outside space 0 drains nothing. -/
theorem Proc.drainFor_of_space_ne {q q1 : Proc} {a : Acc} {n : Nat} (ha : a.space ≠ 0) (h : q.drainFor a n = some q1) : q1 = q := by
  rw [Proc.drainFor, if_neg ha] at h
  exact (Option.some.inj h).symm

/-- A processor whose next instruction has left its bytes in these two buffers. -/
def Proc.buffered (q : Proc) (sb : List SbItem) (comb : List Comb) : Proc := { q with ip := q.ip + 6, sb := sb, comb := comb }

section
variable {s t : State} {p : BitVec 6} {f : MF}

/-- A store whose check fails raises the exception of the check (R51). -/
theorem storeOp_fault {n : Nat} {src : Reg} (val : Proc → Nat) {d : Due} (h : s.Ready p [.g f.ra, src] [] t)
    (ha : t.access p .store f.seg ((t.proc p).gR f.ra + f.disp.signExtend 48) n n (t.proc p).ip = .error d) :
    storeOp p f n src val s = .next (t.setFault p d) := by
  rw [storeOp, State.issue_ready h _ _ _ rfl (by simp)]
  dsimp only
  rw [effOff, ha]

/-- A store whose check passes goes into the store buffer where there is room (R157). -/
theorem storeOp_pushes {n : Nat} {src : Reg} (val : Proc → Nat) {a : Acc} {q1 : Proc} (h : s.Ready p [.g f.ra, src] [] t)
    (ha : t.access p .store f.seg ((t.proc p).gR f.ra + f.disp.signExtend 48) n n (t.proc p).ip = .ok a)
    (hd : (t.proc p).drainFor a n = some q1) (hr : q1.sbRoom 1 = true) :
    storeOp p f n src val s = .next (t.pushStore p q1 a f.seg (natLe n (val (t.proc p)))) := by
  rw [storeOp, State.issue_ready h _ _ _ rfl (by simp)]
  dsimp only
  rw [effOff, ha]
  dsimp only
  rw [hd]
  dsimp only
  rw [hr, if_pos rfl]

theorem execStnt_fault {d : Due} (h : s.Ready p [.g f.ra, .g f.rd] [] t)
    (ha : t.access p .store f.seg ((t.proc p).gR f.ra + f.disp.signExtend 48) 6 6 (t.proc p).ip = .error d) :
    execStnt p f s = .next (t.setFault p d) := by
  rw [execStnt, State.issue_ready h _ _ _ rfl (by simp)]
  dsimp only
  rw [effOff, ha]

/-- STNT outside space 0 is SW (R93). -/
theorem execStnt_pushes {a : Acc} {q1 : Proc} (h : s.Ready p [.g f.ra, .g f.rd] [] t)
    (ha : t.access p .store f.seg ((t.proc p).gR f.ra + f.disp.signExtend 48) 6 6 (t.proc p).ip = .ok a)
    (hd : (t.proc p).drainFor a 6 = some q1) (hr : q1.sbRoom 1 = true) (hs : a.space ≠ 0) :
    execStnt p f s = .next (t.pushStore p q1 a f.seg (natLe 6 ((t.proc p).gR f.rd).toNat)) := by
  rw [Proc.drainFor_of_space_ne hs hd] at hr ⊢
  rw [execStnt, State.issue_ready h _ _ _ rfl (by simp)]
  dsimp only
  rw [effOff, ha]
  dsimp only
  rw [if_pos hs, hr, if_pos rfl, wordLe]

/-- STNT to a line of space 0 that the combining buffer does not hold gives it an entry there (R93, R169): with its six bytes the
line is not full yet. -/
theorem execStnt_combines {a : Acc} (h : s.Ready p [.g f.ra, .g f.rd] [] t)
    (ha : t.access p .store f.seg ((t.proc p).gR f.ra + f.disp.signExtend 48) 6 6 (t.proc p).ip = .ok a) (hs : a.space = 0)
    (hroom : (t.proc p).comb.length < 4) (hnew : ∀ x ∈ (t.proc p).comb, x.line ≠ a.addr / 96) :
    execStnt p f s = .next (t.setProc p (Proc.finish ((t.proc p).buffered (t.proc p).sb
      ((t.proc p).comb ++ [⟨a.addr / 96, cellsAt a.addr (wordLe ((t.proc p).gR f.rd)), a.persist, f.seg, (t.proc p).sn⟩]))
      (t.proc p).ss)) := by
  have hany : ((t.proc p).comb.any fun c => decide (c.line = a.addr / 96)) = false := by
    simpa using hnew
  have hfull : ((t.proc p).comb.any fun c => decide (c.line = a.addr / 96) && decide (c.bytes.length = 96)) = false := by
    simpa using fun x hx e => absurd e (hnew x hx)
  rw [execStnt, State.issue_ready h _ _ _ rfl (by simp)]
  dsimp only
  rw [effOff, ha]
  dsimp only
  rw [if_neg (not_not.2 hs), hany]
  simp only [Bool.false_eq_true, if_false, if_pos hroom, hany, List.any_append, hfull, List.any_cons, List.any_nil]
  rfl

end

/-- What stands after an instruction that changed the two buffers alone has retired. -/
theorem Proc.buffered_finish (q : Proc) (sb : List SbItem) (comb : List Comb) (ss : Bool) :
    let r := (q.buffered sb comb).finish ss
    r.sb = sb ∧ r.comb = comb ∧ r.ip = q.ip + 6 ∧ r.psw = q.psw ∧ RegsKept q r [] ∧ r.segs = q.segs ∧ r.cr = q.cr ∧
      r.slots = q.slots ∧ r.resv = q.resv := by
  intro r
  obtain ⟨hip, hpsw, -, -, -, hsegs, hcr, hresv, hsb, hslots, hcomb, -⟩ := Proc.finish_frame (q.buffered sb comb) ss
  have he := Effect.of_eq (q := q) (r := q.buffered sb comb) rfl rfl rfl []
  exact ⟨hsb, hcomb, hip, hpsw, he.finish ss, hsegs, hcr, hslots, hresv⟩

/-- What entering the store buffer changes (R157): the buffer, IP and what retiring changes. -/
theorem State.pushStore_spec (t : State) (p : BitVec 6) {q1 : Proc} {a : Acc} {n : Nat} (seg : BitVec 4) (bs : List Byte)
    (hd : (t.proc p).drainFor a n = some q1) :
    let q := t.proc p
    let u := t.pushStore p q1 a seg bs
    OnlyProc t u p ∧
      (u.proc p).sb = q1.sb ++ [.entry ⟨q.sn, a.space, a.node, seg, 2, a.persist && decide (a.space = 0), false, cellsAt a.addr bs⟩] ∧
      (u.proc p).comb = q1.comb ∧ (u.proc p).ip = q.ip + 6 ∧ (u.proc p).psw = q.psw ∧ RegsKept q (u.proc p) [] ∧
      (u.proc p).segs = q.segs ∧ (u.proc p).cr = q.cr ∧ (u.proc p).slots = q.slots ∧ (u.proc p).resv = q.resv := by
  intro q u
  have hu : u.proc p = Proc.finish (q.buffered
      (q1.sb ++ [.entry ⟨q.sn, a.space, a.node, seg, 2, a.persist && decide (a.space = 0), false, cellsAt a.addr bs⟩]) q1.comb) q.ss := by
    show (t.pushStore p q1 a seg bs).proc p = _
    rw [Proc.drainFor_eq hd]
    exact State.proc_setProc _ _ _
  rw [hu]
  exact ⟨⟨rfl, fun r hr => State.proc_setProc_ne t _ hr⟩, Proc.buffered_finish _ _ _ _⟩

/-- The stores of O6: each but STNT is `storeOp` of its size and its register. -/
theorem store_cases {n : Nat} {fl : Bool} {c : BitVec 6 → MF → Instr}
    (hc : (c, n, fl) ∈ [(Instr.sb, 1, false), (.sh, 3, false), (.sw, 6, false), (.sfs, 4, true), (.sfd, 8, true), (.stnt, 6, false)])
    (p : BitVec 6) (f : MF) (s : State) :
    exec (c p f) s = storeOp p f n (if fl then .f f.rd else .g f.rd) (fun q => if fl then (q.fR f.rd).toNat else (q.gR f.rd).toNat) s ∨
      (c = .stnt ∧ n = 6 ∧ fl = false) := by
  simp only [List.mem_cons, Prod.mk.injEq, List.not_mem_nil, or_false] at hc
  obtain ⟨rfl, rfl, rfl⟩ | ⟨rfl, rfl, rfl⟩ | ⟨rfl, rfl, rfl⟩ | ⟨rfl, rfl, rfl⟩ | ⟨rfl, rfl, rfl⟩ | hstnt := hc
  · exact .inl (exec_sb s p f)
  · exact .inl (exec_sh s p f)
  · exact .inl (exec_sw s p f)
  · exact .inl (exec_sfs s p f)
  · exact .inl (exec_sfd s p f)
  · exact .inr hstnt

/-- Settles O6: a store is `pushStore` or, for STNT to space 0, an entry of the combining buffer; `State.pushStore_spec` and
`Proc.buffered_finish` say what that changes. -/
theorem storesEnterTheBuffers : Obligations.StoresEnterTheBuffers := by
  unfold Obligations.StoresEnterTheBuffers
  refine ⟨fun s t p f n fl c hc h => ⟨fun d hd => ?_, fun a q1 ha hd hr hs => ?_⟩, fun s t p f a h ha hs hroom hnew => ?_⟩
  · obtain he | ⟨rfl, rfl, rfl⟩ := store_cases hc p f s
    · exact he.trans (storeOp_fault _ h hd)
    · exact (exec_stnt s p f).trans (execStnt_fault h hd)
  · refine ⟨_, ?_, State.pushStore_spec t p f.seg _ hd⟩
    obtain he | ⟨rfl, rfl, rfl⟩ := store_cases hc p f s
    · exact he.trans (storeOp_pushes _ h ha hd hr)
    · exact (exec_stnt s p f).trans (execStnt_pushes h ha hd hr (hs rfl))
  · rw [exec_stnt, execStnt_combines h ha hs hroom hnew]
    refine ⟨_, rfl, ⟨rfl, fun r hr => State.proc_setProc_ne t _ hr⟩, ?_⟩
    rw [State.proc_setProc]
    obtain ⟨hsb, hcomb, hip, -, hk, -⟩ := Proc.buffered_finish (t.proc p) (t.proc p).sb
      ((t.proc p).comb ++ [⟨a.addr / 96, cellsAt a.addr (wordLe ((t.proc p).gR f.rd)), a.persist, f.seg, (t.proc p).sn⟩]) (t.proc p).ss
    exact ⟨hcomb, hsb, hip, hk⟩

end Sys2Proof.Machine

namespace Sys2Proof.Machine

open Sys2Proof

/-! Segments (R45, R46) and status registers (R97, R107). -/

theorem Proc.seg_congr {q q' : Proc} (h : q'.segs = q.segs) (n : Nat) : q'.seg n = q.seg n := by
  unfold Proc.seg
  rw [h]

theorem Proc.seg_setSeg_same (q : Proc) (n : Nat) (d : Seg) : (q.setSeg n d).seg n = d := spGetD_spPut_same _ _ n d

theorem Proc.seg_setSeg_ne (q : Proc) {n m : Nat} (d : Seg) (h : m ≠ n) : (q.setSeg n d).seg m = q.seg m := by
  unfold Proc.seg Proc.setSeg spGetD
  rw [spGet_spPut_ne _ _ _ h]

/-- What an instruction that loads segment register n leaves alone. -/
theorem State.simple_setSeg (t : State) (p : BitVec 6) (n : Nat) (d : Seg) :
    let q := t.proc p
    let u := t.simple p fun q => q.setSeg n d
    OnlyProc t u p ∧ (u.proc p).seg n = d ∧ (∀ m, m ≠ n → (u.proc p).seg m = q.seg m) ∧ (u.proc p).ip = q.ip + 6 ∧
      (u.proc p).psw = q.psw ∧ RegsKept q (u.proc p) [] := by
  intro q u
  obtain ⟨hip, hpsw, -, -, -, hsegs, -⟩ := Proc.finish_frame (q.stepped.setSeg n d) q.ss
  have he := Effect.of_eq (q := q) (r := q.stepped.setSeg n d) rfl rfl rfl []
  refine ⟨OnlyProc.modProc t p _, ?_⟩
  rw [show u.proc p = (q.stepped.setSeg n d).finish q.ss from State.proc_simple_stepped t p _]
  exact ⟨(Proc.seg_congr hsegs n).trans (Proc.seg_setSeg_same _ n d),
    fun m hm => (Proc.seg_congr hsegs m).trans (Proc.seg_setSeg_ne q.stepped d hm), hip, hpsw, he.finish q.ss⟩

section
variable {s t : State} {p : BitVec 6} {f : RI}

/-- What SEGLD reads (R46): the index, the address of the descriptor in the table. -/
abbrev segIndex (q : Proc) (f : RI) : Word := q.gR f.ra + f.imm.signExtend 48
abbrev segAddr (q : Proc) (f : RI) : Nat := (q.crGet 2).toNat + 24 * (segIndex q f).toNat

/-- The segment register that SEGLD makes of a descriptor's bytes. -/
def segOf (bs : List Byte) (i : Word) : Seg := ⟨lineWord bs 0, lineWord bs 1, lineWord bs 2, lineWord bs 3, i.setWidth 24⟩

section
variable (h : s.Ready p [.g f.ra] [] t) (hu : (t.proc p).user = false) (hrd : f.rd.getLsbD 4 = false)
include h hu hrd

/-- Step 1 of R46: the index lies within the table. -/
theorem execSegld_index (hi : fld ((t.proc p).crGet 3) 23 0 ≤ (segIndex (t.proc p) f).toNat) : Raises t p (execSegld p f s) 0x03 := by
  rw [execSegld, State.issue_ready h _ _ _ hrd fun _ => hu]
  dsimp only
  rw [if_pos hi]
  exact ⟨_, rfl, rfl, rfl⟩

section
variable (hi : (segIndex (t.proc p) f).toNat < fld ((t.proc p).crGet 3) 23 0)
include hi

/-- Step 2: the base of the table is a multiple of 24. -/
theorem execSegld_align (ha : ((t.proc p).crGet 2).toNat % 24 ≠ 0) : Raises t p (execSegld p f s) 0x06 := by
  rw [execSegld, State.issue_ready h _ _ _ hrd fun _ => hu]
  dsimp only
  rw [if_neg (Nat.not_le.2 hi), if_pos ha]
  exact ⟨_, rfl, rfl, rfl⟩

section
variable (ha : ((t.proc p).crGet 2).toNat % 24 = 0)
include ha

/-- Step 3: the descriptor lies in the window of the processor's own part of the main store (R51). -/
theorem execSegld_window (hw : t.inWindow p (segAddr (t.proc p) f) 24 = false) : Raises t p (execSegld p f s) 0x03 := by
  rw [execSegld, State.issue_ready h _ _ _ hrd fun _ => hu]
  dsimp only
  unfold segAddr segIndex at hw
  rw [if_neg (Nat.not_le.2 hi), if_neg (not_not.2 ha), hw]
  exact ⟨_, rfl, rfl, rfl⟩

variable {bs : List Byte} (hw : t.inWindow p (segAddr (t.proc p) f) 24 = true)
include hw

/-- A poisoned descriptor (R46 step 4). -/
theorem execSegld_poison (hr : t.ownRead p (segAddr (t.proc p) f) 24 = (some (bs, true), t)) : Raises t p (execSegld p f s) 0x0B := by
  rw [execSegld, State.issue_ready h _ _ _ hrd fun _ => hu]
  dsimp only
  unfold segAddr segIndex at hw hr
  rw [if_neg (Nat.not_le.2 hi), if_neg (not_not.2 ha), hw, hr]
  exact ⟨_, rfl, rfl, rfl⟩

/-- A descriptor that passes its checks is taken. -/
theorem execSegld_takes (hr : t.ownRead p (segAddr (t.proc p) f) 24 = (some (bs, false), t))
    (hd : (segOf bs (segIndex (t.proc p) f)).present = true → descCheck (lineWord bs 0) (lineWord bs 1) (lineWord bs 2) = none) :
    execSegld p f s = .next (t.simple p fun q => q.setSeg (f.rd.toNat % 16) (segOf bs (segIndex (t.proc p) f))) := by
  have hc : (if (segOf bs (segIndex (t.proc p) f)).present then descCheck (lineWord bs 0) (lineWord bs 1) (lineWord bs 2) else none) = none := by
    split
    · exact hd ‹_›
    · rfl
  unfold segOf segIndex at hc
  rw [execSegld, State.issue_ready h _ _ _ hrd fun _ => hu]
  dsimp only
  unfold segAddr segIndex at hw hr
  rw [if_neg (Nat.not_le.2 hi), if_neg (not_not.2 ha), hw, hr]
  dsimp only
  rw [hc]
  rfl

end
end
end
end

section
variable {s t : State} {p : BitVec 6} {f : RR}

/-- SEGIX writes the index of a segment register and whether it is present (R97). -/
theorem execSegix_computed {f : RRF} (hz : f.z = 0) (hb : f.rb = 0) (hn : f.fn = 0) (ha : f.ra.getLsbD 4 = false)
    (h : s.Ready p [] [.g f.rd] t) :
    let d := (t.proc p).seg (f.ra.toNat % 16)
    Computed t p (execSegix p f s) f.rd (BitVec.ofNat 48 ((if d.w2.getLsbD 21 then 2 ^ 24 else 0) + d.index.toNat)) false := by
  intro d
  have hp : (if d.w2.getLsbD 21 then 2 ^ 24 else 0) = b2n d.present * 2 ^ 24 := by
    unfold Seg.present b2n
    split <;> rfl
  rw [execSegix, State.issue_ready h _ _ _ (by simp only [hz, hb, hn, ha]; rfl) (by simp), hp]
  exact State.simple_computed t p _ _ _ _ rfl

/-- RDPSW while an earlier multiply or divide is under way waits; otherwise it reads PSW (R112). -/
theorem execRdpsw_ready (hz : f.z = 0) (ha : f.ra = 0) (hb : f.rb = 0) (h : s.Ready p [] [.g f.rd] t) :
    execRdpsw p f s = .next (if (t.proc p).longs.any (fun x => x.psw) then t else t.simple p fun q => q.gW f.rd q.psw) := by
  rw [execRdpsw, State.issue_ready h _ _ _ (by simp [hz, ha, hb]) (by simp)]

theorem execRdfpsw_ready (hz : f.z = 0) (ha : f.ra = 0) (hb : f.rb = 0) (h : s.Ready p [] [.g f.rd] t) :
    execRdfpsw p f s = .next (if (t.proc p).longs.any (fun x => x.fp) then t else t.simple p fun q => q.gW f.rd q.fpsw) := by
  rw [execRdfpsw, State.issue_ready h _ _ _ (by simp [hz, ha, hb]) (by simp)]

end

/-- A processor whose next instruction has set its status registers. -/
def Proc.withStatus (q : Proc) (psw fpsw : Word) : Proc := { q with psw := psw, fpsw := fpsw, ip := q.ip + 6 }

/-- What an instruction that sets the status registers leaves alone. -/
theorem Proc.withStatus_finish (q : Proc) (psw fpsw : Word) (ss : Bool) :
    let r := (q.withStatus psw fpsw).finish ss
    r.ip = q.ip + 6 ∧ r.psw = psw ∧ r.fpsw = fpsw ∧ RegsKept q r [] ∧ ProcKept q r := by
  intro r
  obtain ⟨hip, hpsw, hfpsw, -, -, hk⟩ := Proc.finish_frame (q.withStatus psw fpsw) ss
  have he := Effect.of_eq (q := q) (r := q.withStatus psw fpsw) rfl rfl rfl []
  exact ⟨hip, hpsw, hfpsw, he.finish ss, hk⟩

/-- WRFPSW keeps RM on a reserved mode (R28). -/
theorem wrFpsw_eq (old v : Word) :
    wrFpsw old v = if 4 < (v &&& 7).toNat then (v &&& 0x3FFF8) ||| (old &&& 7) else v &&& 0x3FFFF := by
  have hm : fld v 2 0 = (v &&& 7).toNat := by
    have := Nat.and_two_pow_sub_one_eq_mod v.toNat 3
    simpa [fld] using this.symm
  unfold wrFpsw
  rw [hm]

/-- Settles O15: SEGLD is a case for each step of R46, the reads are `State.simple_computed`, the writes `Proc.withStatus`. -/
theorem segmentsAndStatus : Obligations.SegmentsAndStatus := by
  unfold Obligations.SegmentsAndStatus
  refine ⟨fun s t p f h hu hrd => ?_, fun s t p => ?_⟩
  · rw [exec_segld]
    refine ⟨execSegld_index h hu hrd, execSegld_align h hu hrd, execSegld_window h hu hrd,
      fun bs hi ha hw hr => execSegld_poison h hu hrd hi ha hw hr, fun bs hi ha hw hr hd => ?_⟩
    exact ⟨_, execSegld_takes h hu hrd hi ha hw hr hd, State.simple_setSeg t p _ _⟩
  · simp only [exec_segix, exec_rdpsw, exec_rdfpsw, exec_rdtime, exec_wrpsw, exec_wrfpsw]
    refine ⟨fun f hz hb hn ha h => execSegix_computed hz hb hn ha h,
      fun f hz ha hb h => ⟨fun hl => ?_, fun hl => ?_, fun hl => ?_, fun hl => ?_, ?_⟩, fun f hz hd hb h => ⟨fun hl => ?_, fun hl => ?_⟩⟩
    · rw [execRdpsw_ready hz ha hb h, hl, if_neg Bool.false_ne_true]
      exact State.simple_computed t p _ _ _ _ rfl
    · rw [execRdpsw_ready hz ha hb h, hl, if_pos rfl]
    · rw [execRdfpsw_ready hz ha hb h, hl, if_neg Bool.false_ne_true]
      exact State.simple_computed t p _ _ _ _ rfl
    · rw [execRdfpsw_ready hz ha hb h, hl, if_pos rfl]
    · rw [execRdtime, State.issue_ready h _ _ _ (by simp [hz, ha, hb]) (by simp)]
      exact State.simple_computed t p _ _ _ _ rfl
    · rw [execWrpsw, State.issue_ready h _ _ _ (by simp [hz, hd, hb]) (by simp)]
      dsimp only
      rw [hl, if_neg Bool.false_ne_true]
      refine ⟨_, rfl, OnlyProc.modProc t p _, ?_⟩
      rw [State.proc_modProc]
      obtain ⟨hip, hpsw, hfpsw, hregs, hk⟩ := Proc.withStatus_finish (t.proc p) (wrPsw (t.proc p).psw ((t.proc p).gR f.ra)) (t.proc p).fpsw (t.proc p).ss
      exact ⟨hip, hpsw, hfpsw, hregs, hk⟩
    · rw [execWrfpsw, State.issue_ready h _ _ _ (by simp [hz, hd, hb]) (by simp)]
      rw [hl, if_neg Bool.false_ne_true]
      refine ⟨_, rfl, OnlyProc.modProc t p _, ?_⟩
      rw [State.proc_simple]
      obtain ⟨hip, hpsw, hfpsw, hregs, hk⟩ := Proc.withStatus_finish (t.proc p) (t.proc p).psw (wrFpsw (t.proc p).fpsw ((t.proc p).gR f.ra)) (t.proc p).ss
      exact ⟨hip, hfpsw.trans (wrFpsw_eq _ _), hpsw, hregs, hk⟩

end Sys2Proof.Machine

namespace Sys2Proof.Machine

open Sys2Proof

/-! A sound line of a cluster (R194, R196): looking it up changes nothing. -/

section
variable {s : State} {k l : Nat} {c : CLine}

theorem SoundLine.ccTag (h : SoundLine s k l c) : s.ccTag k l = s := by
  obtain ⟨-, -, hs, ht, -, -⟩ := h
  have hf : ((s.ccSet k l).find? fun x => x.2.tagBad) = none := by simpa using ht
  unfold State.ccTag
  rw [hs, if_neg (by simp)]
  split
  · next e => exact absurd (hf.symm.trans e) (by simp)
  · rfl

theorem SoundLine.hidden (h : SoundLine s k l c) : s.hidden k l = false := by
  obtain ⟨-, -, hs, -⟩ := h
  unfold State.hidden
  rw [hs]
  rfl

theorem SoundLine.ccRead (h : SoundLine s k l c) : s.ccRead k l = s := by
  obtain ⟨hc, hf, -⟩ := h
  unfold State.ccRead
  rw [hc]
  exact if_pos hf

/-- A readable line needs no request to be read (R199). -/
theorem SoundLine.wantLine_read (h : SoundLine s k l c) (hr : c.st.readable = true) (preload : Bool) (m : Nat) :
    s.wantLine k l false preload m = (.ready, s) := by
  unfold State.wantLine
  rw [h.ccTag]
  dsimp only
  rw [h.hidden, if_neg Bool.false_ne_true, h.1]
  dsimp only
  generalize c.st = st at hr
  cases st
  case i | is | im | eb | sb => cases hr
  all_goals rfl

/-- A line held exclusively needs no request to be written (R199). -/
theorem SoundLine.wantLine_own (h : SoundLine s k l c) (ho : c.st = .m ∨ c.st = .e) (preload : Bool) (m : Nat) :
    s.wantLine k l true preload m = (.ready, s) := by
  unfold State.wantLine
  rw [h.ccTag]
  dsimp only
  rw [h.hidden, if_neg Bool.false_ne_true, h.1]
  dsimp only
  obtain e | e := ho <;> rw [e]

end

theorem Effect.trans {q r x : Proc} {but : List Reg} (h : Effect q r but) (g : Effect r x but) : Effect q x but where
  loads l hl := by
    obtain ⟨y, hy, e⟩ := g.loads l hl
    obtain ⟨z, hz, e'⟩ := h.loads y hy
    exact ⟨z, hz, e'.trans e⟩
  g n hn := (g.g n hn).trans (h.g n hn)
  f n hn := (g.f n hn).trans (h.f n hn)

/-! The request of a load (R160, R314). -/

/-- The requests of a host read go to the outbox, and nothing else changes. -/
theorem State.hostReads_eq (s : State) (a n : Nat) : ∃ o, s.hostReads a n = { s with outbox := o } := by
  unfold State.hostReads
  generalize hostPieces a n = xs
  induction xs generalizing s with
  | nil => exact ⟨_, rfl⟩
  | cons x xs ih => exact ih _

/-- The load `l` of processor p counts as asked for (R167). -/
def State.markAsked (s : State) (p : BitVec 6) (l : Load) : State :=
  s.modProc p fun q => { q with loads := q.loads.map fun x => if x.sn = l.sn then { x with asked := true, tick := s.ticks } else x }

/-- Caches hold lines of spaces 0 and 4 only (R176). -/
theorem State.loadLine_uncached (s : State) {l : Load} (h0 : l.space ≠ 0) (h4 : l.space ≠ 4) : s.loadLine l = none := by
  unfold State.loadLine State.cacheLine
  rw [if_neg h0, if_neg h4]

section
variable {t : State} {p : BitVec 6} {ld : Load}

/-- A load from host memory asks the host for its lines once no own store overlaps it. -/
theorem State.loadAsk_host (ha : ld.asked = false) (hs : ld.space = 3) (ho : (t.proc p).overlapped ld = false) :
    t.loadAsk p ld = (t.hostReads ld.addr ld.kind.size).markAsked p ld := by
  unfold State.loadAsk
  dsimp only
  rw [ha, if_neg Bool.false_ne_true, State.loadLine_uncached t (by rw [hs]; decide) (by rw [hs]; decide)]
  dsimp only
  rw [ho, if_neg Bool.false_ne_true, if_pos hs]
  rfl

/-- A load whose line the cluster holds is asked at once, and nothing leaves. -/
theorem State.loadAsk_held {l : Nat} {c : CLine} (ha : ld.asked = false) (hl : t.loadLine ld = some l) (hc : SoundLine t (cluOf p) l c)
    (hr : c.st.readable = true) (hk : ld.kind ≠ .llw) : t.loadAsk p ld = t.markAsked p ld := by
  have hsome : (t.cline (cluOf p) l).isSome = true := by rw [hc.1]; rfl
  unfold State.loadAsk
  dsimp only
  rw [ha, if_neg Bool.false_ne_true, hl]
  dsimp only
  rw [decide_eq_false hk, hc.wantLine_read hr]
  dsimp only
  rw [if_pos hsome]
  rfl

end

/-! Loads issue (R61, R67, R86). -/

/-- The processor as a load finds it when it retires: LLW ends the reservation (R90) and draws a delay when `draw` says so (R172). -/
def Proc.loadStepped (q : Proc) (kind : LKind) (line draw : Bool) : Proc :=
  let q := if draw then { q with lfsr := lfsrStep q.lfsr, backoff := some ((lfsrStep q.lfsr).extractLsb' 0 6), scwFailed := false } else q
  let q := if kind = .llw then { q with resv := none, resvExc := false, resvFor := if line then some q.sn else none } else q
  { q with ip := q.ip + 6, third := none }

/-- What that changes of what a load's statement speaks of. -/
theorem Proc.loadStepped_frame (q : Proc) (kind : LKind) (line draw : Bool) :
    let r := q.loadStepped kind line draw
    r.ip = q.ip + 6 ∧ r.psw = q.psw ∧ r.fpsw = q.fpsw ∧ r.sb = q.sb ∧ r.slots = q.slots ∧ Effect q r [] ∧
      (kind = .llw → r.resv = none) ∧ (kind ≠ .llw → r.resv = q.resv) := by
  unfold Proc.loadStepped
  cases draw <;> by_cases hk : kind = .llw <;> simp only [hk, if_true, if_false, Bool.false_eq_true,
    not_true_eq_false, not_false_eq_true, false_implies, true_implies, and_true, true_and, ne_eq]
  all_goals refine Effect.of_eq ?_ ?_ ?_ [] <;> rfl

/-- The load that issues with its address and the bytes forwarded to it. -/
def issuedLoad (t : State) (q : Proc) (f : MF) (kind : LKind) (off : Word) (a : Acc) : Load :=
  { kind := kind, rd := f.rd, seg := f.seg, space := a.space, node := a.node, addr := a.addr, off := off, ip := q.ip, sn := q.sn, pos := 0,
    fwd := if a.space = 0 then (match q.forward a.addr kind.size with | .full bs => some bs | _ => none) else none,
    data := none, sup := false, tick := t.ticks }

/-- A load takes the bytes of its own stores when they hold all of them (R160). -/
theorem issuedLoad_fwd (t : State) (q : Proc) (f : MF) (kind : LKind) (off : Word) (a : Acc) (bs : List Byte) :
    (issuedLoad t q f kind off a).fwd = some bs ↔ a.space = 0 ∧ q.forward a.addr kind.size = .full bs := by
  unfold issuedLoad
  dsimp only
  split
  case isTrue hs =>
    split
    · next e => rw [e]; simp [hs]
    · next e => exact iff_of_false (fun h => nomatch h) fun h => e bs h.2
  case isFalse hs => exact iff_of_false (fun h => nomatch h) fun h => hs h.1

/-- The state when a load has issued: it stands behind the outstanding ones, and its request has left unless nothing is to be asked
or an LLW waits its delay. -/
def State.loadIssued (t : State) (p : BitVec 6) (f : MF) (kind : LKind) (off : Word) (a : Acc) (q : Proc) : State :=
  let ld := issuedLoad t q f kind off a
  let line := (t.cacheLine a).isSome
  let draw := decide (kind = .llw) && q.scwFailed && line
  let r := (q.loadStepped kind line draw).finish q.ss
  let u := t.setProc p { r with loads := r.loads ++ [ld] }
  if (ld.fwd.isSome && decide (kind ≠ .llw)) || draw then u else u.loadAsk p ld

/-- The effect of a load at the issue stage (R51, R67, R170). -/
def State.loadEffect (t : State) (p : BitVec 6) (f : MF) (kind : LKind) : State :=
  let q := t.proc p
  let off := q.gR f.ra + f.disp.signExtend 48
  match t.access p .load f.seg off kind.size kind.size q.ip with
  | .error d => t.setFault p d
  | .ok a =>
    match q.loadStall with
    | some n => t.setProc p { q with third := some n }
    | none =>
      match q.drainFor a kind.size with
      | none => t
      | some q => t.loadIssued p f kind off a q

/-- The register that a load of this kind writes. -/
def loadDst (kind : LKind) (rd : BitVec 5) : Reg := match kind with | .lfs | .lfd => .f rd | _ => .g rd

theorem loadOp_eq (p : BitVec 6) (f : MF) (kind : LKind) (s : State) :
    loadOp p f kind s = s.issue p false false [.g f.ra] [loadDst kind f.rd] fun t => t.loadEffect p f kind := rfl

/-- What stands when a load has issued. -/
theorem State.loadIssued_spec (t : State) (p : BitVec 6) (f : MF) (kind : LKind) (off : Word) {a : Acc} {q1 : Proc} {n : Nat}
    (hd : (t.proc p).drainFor a n = some q1) :
    let q := t.proc p
    ∃ (ld : Load) (q2 : Proc),
      t.loadIssued p f kind off a q1 = (if (ld.fwd.isSome ∧ kind ≠ .llw) ∨ (kind = .llw ∧ q.scwFailed = true ∧ (t.cacheLine a).isSome)
          then t.setProc p q2 else (t.setProc p q2).loadAsk p ld) ∧
        ld.kind = kind ∧ ld.rd = f.rd ∧ ld.seg = f.seg ∧ ld.addr = a.addr ∧ ld.space = a.space ∧ ld.node = a.node ∧ ld.off = off ∧ ld.ip = q.ip ∧
        ld.sn = q.sn ∧ ld.pos = 0 ∧ ld.data = none ∧ ld.sup = false ∧ ld.asked = false ∧
        (∀ bs, ld.fwd = some bs ↔ a.space = 0 ∧ q1.forward a.addr kind.size = .full bs) ∧
        (∃ older, q2.loads = older ++ [ld]) ∧ q2.ip = q.ip + 6 ∧ q2.psw = q.psw ∧ q2.fpsw = q.fpsw ∧ RegsKept q q2 [] ∧ q2.sb = q1.sb ∧
        q2.slots = q.slots ∧ (kind = .llw → q2.resv = none) ∧ (kind ≠ .llw → q2.resv = q.resv) := by
  intro q
  have hq1 : q1 = { q with comb := q1.comb, sb := q1.sb } := Proc.drainFor_eq hd
  have hip : q1.ip = q.ip := by rw [hq1]
  have hsn : q1.sn = q.sn := by rw [hq1]
  have hpsw : q1.psw = q.psw := by rw [hq1]
  have hfpsw : q1.fpsw = q.fpsw := by rw [hq1]
  have hslots : q1.slots = q.slots := by rw [hq1]
  have hresv : q1.resv = q.resv := by rw [hq1]
  have hscw : q1.scwFailed = q.scwFailed := by rw [hq1]
  have hq : Effect q q1 [] := by
    rw [hq1]
    refine Effect.of_eq ?_ ?_ ?_ [] <;> rfl
  obtain ⟨rip, rpsw, rfpsw, rsb, rslots, hr, hllw, hother⟩ :=
    Proc.loadStepped_frame q1 kind (t.cacheLine a).isSome (decide (kind = .llw) && q1.scwFailed && (t.cacheLine a).isSome)
  refine ⟨issuedLoad t q1 f kind off a, _, if_congr ?_ rfl rfl, rfl, rfl, rfl, rfl, rfl, rfl, rfl, hip, hsn, rfl, rfl, rfl, rfl,
    issuedLoad_fwd t q1 f kind off a, ⟨_, rfl⟩, ?_⟩
  · simp [hscw, and_assoc]
  · obtain ⟨fip, fpsw, ffpsw, -, -, -, -, fresv, fsb, fslots, -⟩ :=
      Proc.finish_frame (q1.loadStepped kind (t.cacheLine a).isSome (decide (kind = .llw) && q1.scwFailed && (t.cacheLine a).isSome)) q1.ss
    refine ⟨by rw [fip, rip, hip], by rw [fpsw, rpsw, hpsw], by rw [ffpsw, rfpsw, hfpsw], ?_, fsb.trans rsb,
      (fslots.trans rslots).trans hslots, fun h => fresv.trans (hllw h), fun h => (fresv.trans (hother h)).trans hresv⟩
    exact (hq.trans hr).finish q1.ss

section
variable {s t : State} {p : BitVec 6} {f : MF} {kind : LKind} (h : s.Ready p [.g f.ra] [loadDst kind f.rd] t)
include h

theorem loadOp_fault {d : Due}
    (ha : t.access p .load f.seg ((t.proc p).gR f.ra + f.disp.signExtend 48) kind.size kind.size (t.proc p).ip = .error d) :
    loadOp p f kind s = .next (t.setFault p d) := by
  rw [loadOp_eq, State.issue_ready h _ _ _ rfl (by simp)]
  dsimp only [State.loadEffect]
  rw [ha]

theorem loadOp_issues {a : Acc} {q1 : Proc}
    (ha : t.access p .load f.seg ((t.proc p).gR f.ra + f.disp.signExtend 48) kind.size kind.size (t.proc p).ip = .ok a)
    (hs : (t.proc p).loadStall = none) (hd : (t.proc p).drainFor a kind.size = some q1) :
    loadOp p f kind s = .next (t.loadIssued p f kind ((t.proc p).gR f.ra + f.disp.signExtend 48) a q1) := by
  rw [loadOp_eq, State.issue_ready h _ _ _ rfl (by simp)]
  dsimp only [State.loadEffect]
  rw [ha]
  dsimp only
  rw [hs]
  dsimp only
  rw [hd]

end

/-- The loads of O4: each is `loadOp` of its kind. -/
theorem exec_load {c : BitVec 6 → MF → Instr} {k : LKind}
    (hc : (c, k) ∈ [(Instr.lb, LKind.lb), (.lbu, .lbu), (.lh, .lh), (.lhu, .lhu), (.lw, .lw), (.lfs, .lfs), (.lfd, .lfd), (.llw, .llw)])
    (p : BitVec 6) (f : MF) (s : State) : exec (c p f) s = loadOp p f k s := by
  simp only [List.mem_cons, Prod.mk.injEq, List.not_mem_nil, or_false] at hc
  obtain ⟨rfl, rfl⟩ | ⟨rfl, rfl⟩ | ⟨rfl, rfl⟩ | ⟨rfl, rfl⟩ | ⟨rfl, rfl⟩ | ⟨rfl, rfl⟩ | ⟨rfl, rfl⟩ | ⟨rfl, rfl⟩ := hc
  · exact exec_lb s p f
  · exact exec_lbu s p f
  · exact exec_lh s p f
  · exact exec_lhu s p f
  · exact exec_lw s p f
  · exact exec_lfs s p f
  · exact exec_lfd s p f
  · exact exec_llw s p f

/-- Settles O4: the issue is `loadOp_issues` with `State.loadIssued_spec`, the request `State.loadAsk_host` and `State.loadAsk_held`. -/
theorem loadsIssue : Obligations.LoadsIssue := by
  unfold Obligations.LoadsIssue
  refine ⟨fun s t p f k c hc h => ?_, fun t p ld ha => ⟨fun hs ho => ?_, fun l c hl hc hr hk => State.loadAsk_held ha hl hc hr hk⟩⟩
  · have h' : s.Ready p [.g f.ra] [loadDst k f.rd] t := h
    rw [exec_load hc]
    refine ⟨fun d hd => loadOp_fault h' hd, fun a q1 haccess hs hd => ?_⟩
    obtain ⟨ld, q2, e, hspec⟩ := State.loadIssued_spec t p f k ((t.proc p).gR f.ra + f.disp.signExtend 48) hd
    exact ⟨ld, q2, (loadOp_issues h' haccess hs hd).trans (congrArg _ e), hspec⟩
  · obtain ⟨o, e⟩ := State.hostReads_eq t ld.addr ld.kind.size
    refine ⟨_, State.loadAsk_host ha hs ho, rfl, ?_, ?_, fun r => ?_⟩
    · rw [e]; rfl
    · rw [e]; rfl
    · rw [State.markAsked, State.proc_modProc, e]
      rfl

end Sys2Proof.Machine

namespace Sys2Proof.Machine

open Sys2Proof

/-! The value a load makes of its bytes (R86, R37). -/

theorem toNat_append_byte {n : Nat} (x : BitVec n) (b : Byte) : (x ++ b).toNat = 256 * x.toNat + b.toNat := by
  rw [BitVec.toNat_append, ← Nat.shiftLeft_add_eq_or_of_lt b.isLt, Nat.shiftLeft_eq, Nat.mul_comm]

/-- The bytes of a load, the lowest address first, put together. -/
theorem ofNat_leNat_one (b0 : Byte) : BitVec.ofNat 8 (leNat [b0]) = b0 := by
  simp [leNat]

theorem ofNat_leNat_three (b0 b1 b2 : Byte) : BitVec.ofNat 24 (leNat [b0, b1, b2]) = b2 ++ b1 ++ b0 := by
  refine BitVec.eq_of_toNat_eq ?_
  rw [BitVec.toNat_ofNat]
  simp only [toNat_append_byte, leNat]
  omega

theorem ofNat_leNat_four (b0 b1 b2 b3 : Byte) : BitVec.ofNat 32 (leNat [b0, b1, b2, b3]) = b3 ++ b2 ++ b1 ++ b0 := by
  refine BitVec.eq_of_toNat_eq ?_
  rw [BitVec.toNat_ofNat]
  simp only [toNat_append_byte, leNat]
  omega

theorem ofNat_leNat_six (b0 b1 b2 b3 b4 b5 : Byte) :
    BitVec.ofNat 48 (leNat [b0, b1, b2, b3, b4, b5]) = b5 ++ b4 ++ b3 ++ b2 ++ b1 ++ b0 := by
  refine BitVec.eq_of_toNat_eq ?_
  rw [BitVec.toNat_ofNat]
  simp only [toNat_append_byte, leNat]
  omega

theorem ofNat_leNat_eight (b0 b1 b2 b3 b4 b5 b6 b7 : Byte) :
    BitVec.ofNat 64 (leNat [b0, b1, b2, b3, b4, b5, b6, b7]) = b7 ++ b6 ++ b5 ++ b4 ++ b3 ++ b2 ++ b1 ++ b0 := by
  refine BitVec.eq_of_toNat_eq ?_
  rw [BitVec.toNat_ofNat]
  simp only [toNat_append_byte, leNat]
  omega

/-- A value of `w` bits with zeros above them. -/
theorem ofNat_mod_eq_setWidth (w v : Nat) : BitVec.ofNat 64 (v % 2 ^ w) = (BitVec.ofNat w v).setWidth 64 := by
  refine BitVec.eq_of_toNat_eq ?_
  rw [BitVec.toNat_setWidth, BitVec.toNat_ofNat, BitVec.toNat_ofNat]

/-- What each kind of load makes of its bytes, the lowest address first (R86, R37). -/
theorem loadVal_bytes (b0 b1 b2 b3 b4 b5 b6 b7 : Byte) :
    loadVal .lb [b0] = (b0.signExtend 48 : Word).setWidth 64 ∧
    loadVal .lbu [b0] = b0.setWidth 64 ∧
    loadVal .lh [b0, b1, b2] = ((b2 ++ b1 ++ b0 : BitVec 24).signExtend 48 : Word).setWidth 64 ∧
    loadVal .lhu [b0, b1, b2] = (b2 ++ b1 ++ b0 : BitVec 24).setWidth 64 ∧
    loadVal .lw [b0, b1, b2, b3, b4, b5] = (b5 ++ b4 ++ b3 ++ b2 ++ b1 ++ b0 : Word).setWidth 64 ∧
    loadVal .llw [b0, b1, b2, b3, b4, b5] = (b5 ++ b4 ++ b3 ++ b2 ++ b1 ++ b0 : Word).setWidth 64 ∧
    loadVal .lfs [b0, b1, b2, b3] = (b3 ++ b2 ++ b1 ++ b0 : BitVec 32).setWidth 64 ∧
    loadVal .lfd [b0, b1, b2, b3, b4, b5, b6, b7] = b7 ++ b6 ++ b5 ++ b4 ++ b3 ++ b2 ++ b1 ++ b0 := by
  refine ⟨?_, ?_, ?_, ?_, ?_, ?_, ?_, ofNat_leNat_eight b0 b1 b2 b3 b4 b5 b6 b7⟩
  · exact congrArg (fun x : Byte => (x.signExtend 48 : Word).setWidth 64) (ofNat_leNat_one b0)
  · exact (ofNat_mod_eq_setWidth 8 _).trans (congrArg _ (ofNat_leNat_one b0))
  · exact congrArg (fun x : BitVec 24 => (x.signExtend 48 : Word).setWidth 64) (ofNat_leNat_three b0 b1 b2)
  · exact (ofNat_mod_eq_setWidth 24 _).trans (congrArg _ (ofNat_leNat_three b0 b1 b2))
  · exact (ofNat_mod_eq_setWidth 48 _).trans (congrArg _ (ofNat_leNat_six b0 b1 b2 b3 b4 b5))
  · exact (ofNat_mod_eq_setWidth 48 _).trans (congrArg _ (ofNat_leNat_six b0 b1 b2 b3 b4 b5))
  · exact (ofNat_mod_eq_setWidth 32 _).trans (congrArg _ (ofNat_leNat_four b0 b1 b2 b3))

end Sys2Proof.Machine

namespace Sys2Proof.Machine

open Sys2Proof

/-! Loads that retire (R61, R62). -/

theorem getElem?_middle {α : Type} (pre post : List α) (x : α) : (pre ++ x :: post)[pre.length]? = some x := by simp

theorem listSet_middle {α : Type} (pre post : List α) (x y : α) : listSet (pre ++ x :: post) pre.length y = pre ++ y :: post := by
  induction pre with
  | nil => rfl
  | cons z pre ih => exact congrArg (z :: ·) ih

theorem listDrop1_middle {α : Type} (pre post : List α) (x : α) : listDrop1 (pre ++ x :: post) pre.length = pre ++ post := by
  induction pre with
  | nil => rfl
  | cons z pre ih => exact congrArg (z :: ·) ih

/-- Retiring writes G and F from the loads that are done, and removes these. -/
theorem Proc.retireLoads_eq (q : Proc) :
    let ws := q.loads.filter fun l => q.ready l && !l.sup
    q.retireLoads = Proc.putLoads { q with loads := (q.loads.filter fun l => !q.ready l).map fun l => { l with sup := l.sup || l.late ws } } ws ws := rfl

/-- While no load is done, retiring changes nothing. -/
theorem Proc.retireLoads_none {q : Proc} (h : ∀ l ∈ q.loads, q.ready l = false) : q.retireLoads = q := by
  have hw : (q.loads.filter fun l => q.ready l && !l.sup) = [] := List.filter_eq_nil_iff.2 fun l hl => by simp [h l hl]
  have hk : (q.loads.filter fun l => !q.ready l) = q.loads := List.filter_eq_self.2 fun l hl => by simp [h l hl]
  rw [Proc.retireLoads_eq, hw, hk]
  simp [Proc.putLoads, Load.late]

/-- Not done: no data, or still in the shadow. -/
theorem Proc.ready_false {q : Proc} {l : Load} (h : (l.data.isSome && decide (2 ≤ l.pos)) = false) : q.ready l = false := by
  unfold Proc.ready
  rw [h, Bool.false_and]

section
variable {q : Proc} {pre post : List Load} {l : Load}

/-- Only load `l` of the list writes its register, and it alone may be done. -/
def OnlyLoad (q : Proc) (pre post : List Load) (l : Load) : Prop :=
  q.loads = pre ++ l :: post ∧ l.data.isSome = true ∧ ∀ x ∈ pre ++ post, x.dst ≠ l.dst ∧ (x.data.isSome && decide (2 ≤ x.pos)) = false

theorem OnlyLoad.not_held (h : OnlyLoad q pre post l) : q.held l = false := by
  obtain ⟨hq, -, ho⟩ := h
  unfold Proc.held
  rw [hq, List.any_eq_false]
  intro y hy
  by_cases hyl : y = l
  · rw [hyl]; simp
  · have hy' : y ∈ pre ++ post := by simp_all
    simp [(ho y hy').1]

theorem OnlyLoad.ready_self (h : OnlyLoad q pre post l) : q.ready l = decide (2 ≤ l.pos) := by
  unfold Proc.ready
  rw [h.not_held, h.2.1]
  simp

/-- Retiring when one load alone may be done (R61, R62). -/
theorem OnlyLoad.retireLoads_eq (h : OnlyLoad q pre post l) :
    q.retireLoads = if 2 ≤ l.pos then
        if l.sup then { q with loads := pre ++ post } else Proc.put { q with loads := pre ++ post } l.dst (loadVal l.kind (l.data.getD []))
      else q := by
  have hself := h.ready_self
  obtain ⟨hq, -, ho⟩ := h
  have hother : ∀ x ∈ pre ++ post, q.ready x = false := fun x hx => Proc.ready_false (ho x hx).2
  split
  case isFalse hp =>
    refine Proc.retireLoads_none fun x hx => ?_
    rw [hq, List.mem_append, List.mem_cons] at hx
    obtain hx | rfl | hx := hx
    · exact hother x (List.mem_append_left _ hx)
    · rw [hself, decide_eq_false hp]
    · exact hother x (List.mem_append_right _ hx)
  case isTrue hp =>
    have hdone : q.ready l = true := hself.trans (decide_eq_true hp)
    have hkeep : (q.loads.filter fun x => !q.ready x) = pre ++ post := by
      rw [hq, List.filter_append, List.filter_cons, hdone, if_neg (by simp), ← List.filter_append]
      exact List.filter_eq_self.2 fun x hx => by simp [hother x hx]
    have hws : (q.loads.filter fun x => q.ready x && !x.sup) = if l.sup then [] else [l] := by
      have hnone : ∀ xs ⊆ pre ++ post, (xs.filter fun x => q.ready x && !x.sup) = [] := fun xs hs =>
        List.filter_eq_nil_iff.2 fun x hx => by simp [hother x (hs hx)]
      rw [hq, List.filter_append, List.filter_cons, hnone pre (by simp), hnone post (by simp), hdone]
      cases l.sup <;> rfl
    have hlate : ∀ ws, (ws = [] ∨ ws = [l]) → (pre ++ post).map (fun x => { x with sup := x.sup || x.late ws }) = pre ++ post := by
      intro ws hw
      refine (List.map_congr_left fun x hx => ?_).trans (List.map_id _)
      have : x.late ws = false := by
        obtain rfl | rfl := hw
        · rfl
        · simp [Load.late, Ne.symm (ho x hx).1]
      rw [this, Bool.or_false]
      rfl
    rw [Proc.retireLoads_eq, hkeep, hws]
    cases l.sup
    · rw [if_neg Bool.false_ne_true, if_neg Bool.false_ne_true, hlate _ (.inr rfl)]
      simp [Proc.putLoads, Load.late]
    · rw [if_pos rfl, if_pos rfl, hlate _ (.inl rfl)]
      rfl

end
end Sys2Proof.Machine

namespace Sys2Proof.Machine

open Sys2Proof

/-! Loads complete (R61, R62, R88, R167). -/

section
variable {q : Proc} {pre post : List Load} {l : Load}

/-- What stands after a retirement in which one load alone may be done. -/
theorem OnlyLoad.retire_spec (h : OnlyLoad q pre post l) :
    let r := q.retireLoads
    let v := loadVal l.kind (l.data.getD [])
    (r.loads = pre ++ (if 2 ≤ l.pos then [] else [l]) ++ post ∧
      (∀ n, l.dst = .g n → r.gR n = if n = 0 then 0 else if 2 ≤ l.pos ∧ l.sup = false then v.setWidth 48 else q.gR n) ∧
      (∀ n, l.dst = .f n → r.fR n = if 2 ≤ l.pos ∧ l.sup = false then v else q.fR n) ∧
      (∀ n, l.dst ≠ .g n → r.gR n = q.gR n) ∧ (∀ n, l.dst ≠ .f n → r.fR n = q.fR n) ∧ r.ip = q.ip ∧ r.psw = q.psw ∧ r.fpsw = q.fpsw) ∧
      r.resv = q.resv := by
  intro r v
  have hzero : ∀ n, q.gR n = if n = 0 then 0 else q.gR n := by
    intro n
    unfold Proc.gR
    split <;> rfl
  have hr : r = q.retireLoads := rfl
  rw [hr, h.retireLoads_eq]
  by_cases hp : 2 ≤ l.pos
  · rw [if_pos hp, if_pos hp, List.append_nil]
    cases hs : l.sup
    · rw [if_neg Bool.false_ne_true]
      obtain ⟨g, f, e⟩ := Proc.put_eq { q with loads := pre ++ post } l.dst v
      refine ⟨⟨by rw [e], fun n hn => ?_, fun n hn => ?_, fun n hn => Proc.put_g_ne _ v hn, fun n hn => Proc.put_f_ne _ v hn,
        by rw [e], by rw [e], by rw [e]⟩, by rw [e]⟩
      · rw [if_pos (show 2 ≤ l.pos ∧ false = false from ⟨hp, rfl⟩), hn]
        exact Proc.put_g_same _ n v
      · rw [if_pos (show 2 ≤ l.pos ∧ false = false from ⟨hp, rfl⟩), hn]
        exact Proc.put_f_same _ n v
    · rw [if_pos rfl]
      refine ⟨⟨rfl, fun n _ => ?_, fun n _ => ?_, fun _ _ => rfl, fun _ _ => rfl, rfl, rfl, rfl⟩, rfl⟩
      · rw [if_neg (show ¬(2 ≤ l.pos ∧ true = false) by simp)]
        exact hzero n
      · rw [if_neg (show ¬(2 ≤ l.pos ∧ true = false) by simp)]
        rfl
  · rw [if_neg hp, if_neg hp]
    refine ⟨⟨?_, fun n _ => ?_, fun n _ => ?_, fun _ _ => rfl, fun _ _ => rfl, rfl, rfl, rfl⟩, rfl⟩
    · rw [h.1, List.append_assoc, List.singleton_append]
    · rw [if_neg (show ¬(2 ≤ l.pos ∧ l.sup = false) from fun h => hp h.1)]
      exact hzero n
    · rw [if_neg (show ¬(2 ≤ l.pos ∧ l.sup = false) from fun h => hp h.1)]

end

section
variable {s : State} {p : BitVec 6} {pre post : List Load} {l : Load}

/-- The processor with the bytes of a load that waits alone, before it retires. -/
def Proc.withData (q : Proc) (pre post : List Load) (l : Load) (bs : List Byte) (key : Option Nat) : Proc :=
  let mine : Bool := decide (l.kind = .llw ∧ q.resvFor = some l.sn)
  { q with loads := pre ++ { l with data := some bs } :: post, resv := if mine then key else q.resv,
           resvFor := if mine then none else q.resvFor }

/-- Data that arrives for a load that waits alone supersedes no other load. -/
theorem State.loadGets_alone (h : LoadAlone (s.proc p) pre post l) (bs : List Byte) :
    s.loadGets p pre.length l bs false =
      s.modProc p fun _ => ((s.proc p).withData pre post l bs ((s.loadLine l).map fun j => 96 * j + l.addr % 96)).retireLoads := by
  obtain ⟨hq, -, ho⟩ := h
  have hmap : ((listSet (s.proc p).loads pre.length { l with data := some bs }).map fun x =>
      if x.dst = l.dst ∧ x.sn < l.sn ∧ l.sn ≤ x.sn + 2 then { x with sup := true } else x) = pre ++ { l with data := some bs } :: post := by
    rw [hq, listSet_middle]
    refine (List.map_congr_left fun x hx => ?_).trans (List.map_id _)
    refine if_neg fun hd => ?_
    rw [List.mem_append, List.mem_cons] at hx
    obtain hx | rfl | hx := hx
    · exact (ho x (List.mem_append_left _ hx)).1 hd.1
    · exact absurd hd.2.1 (lt_irrefl _)
    · exact (ho x (List.mem_append_right _ hx)).1 hd.1
  unfold State.loadGets State.modProc
  rw [if_neg Bool.false_ne_true]
  dsimp only
  rw [hmap]
  rfl

/-- A load that waits alone takes its bytes (R61, R62), and an LLW its reservation (R90). -/
theorem State.loadGets_delivers (h : LoadAlone (s.proc p) pre post l) (bs : List Byte) :
    let u := s.loadGets p pre.length l bs false
    Delivered s u p pre post l bs ∧
      (l.kind = .llw → (s.proc p).resvFor = some l.sn → (u.proc p).resv = (s.loadLine l).map fun j => 96 * j + l.addr % 96) := by
  intro u
  have hu : u = _ := State.loadGets_alone h bs
  obtain ⟨-, -, ho⟩ := h
  have hone : OnlyLoad ((s.proc p).withData pre post l bs ((s.loadLine l).map fun j => 96 * j + l.addr % 96)) pre post { l with data := some bs } :=
    ⟨rfl, rfl, ho⟩
  obtain ⟨hd, hresv⟩ := hone.retire_spec
  rw [hu]
  refine ⟨⟨OnlyProc.modProc s p _, ?_⟩, fun hk hf => ?_⟩
  · rw [State.proc_modProc]
    exact hd
  · rw [State.proc_modProc, hresv]
    exact if_pos (decide_eq_true ⟨hk, hf⟩)

/-- A poisoned or lost load is gone, and poison consumed is due on it (R88, R167). -/
theorem State.loadPoison_spec (hq : (s.proc p).loads = pre ++ l :: post) (hd : ∀ x ∈ pre ++ post, x.data = none)
    (hf : (s.proc p).fault = none) (pa : Nat) :
    let u := s.loadPoison p pre.length l pa
    OnlyProc s u p ∧ ∃ d, (u.proc p).fault = some d ∧ d.code = 0x0B ∧ d.xip = l.ip ∧ d.addr = l.off ∧ d.seg = l.seg ∧
      d.acc = 1 ∧ d.paddr = BitVec.ofNat 48 pa ∧ (u.proc p).loads = pre ++ post ∧
      (∀ r, (u.proc p).gR r = (s.proc p).gR r) ∧ (∀ r, (u.proc p).fR r = (s.proc p).fR r) ∧ u.ms = s.ms := by
  intro u
  have hret : Proc.retireLoads { s.proc p with loads := listDrop1 (s.proc p).loads pre.length } = { s.proc p with loads := pre ++ post } := by
    rw [hq, listDrop1_middle]
    exact Proc.retireLoads_none fun x hx => Proc.ready_false (by rw [hd x hx]; rfl)
  have honly : OnlyProc s (s.loadPoison p pre.length l pa) p := by
    unfold State.loadPoison
    exact OnlyProc.modProc s p _
  refine ⟨honly, ?_⟩
  have hu : u.proc p = { s.proc p with
      loads := pre ++ post,
      fault := some { code := 0x0B, xip := l.ip, addr := l.off, paddr := BitVec.ofNat 48 pa, seg := l.seg, acc := 1, sn := some l.sn } } := by
    show (s.loadPoison p pre.length l pa).proc p = _
    unfold State.loadPoison
    rw [State.proc_modProc, hret]
    unfold Proc.loadFault
    dsimp only
    rw [hf]
  rw [hu]
  exact ⟨_, rfl, rfl, rfl, rfl, rfl, rfl, rfl, rfl, fun _ => rfl, fun _ => rfl, rfl⟩

end
end Sys2Proof.Machine

namespace Sys2Proof.Machine

open Sys2Proof

/-! Where a load's data comes from (R159, R160, R175, R314). -/

/-- Without an armed injection the L1 data cache's check of a line finds nothing (R194, R485). -/
theorem State.l1dCheck_clean {s : State} (h : NoInjection s) (n l : Nat) : s.l1dCheck n l = s := by
  have hit : ∀ b chk u, s.injHit b chk u = none := by
    intro b chk u
    unfold State.injHit
    dsimp only
    rw [h b]
    rfl
  unfold State.l1dCheck
  split
  · rfl
  · dsimp only
    have hn : ∀ (b : Blk) (us : List Nat), (us.findSome? fun u => (s.injHit b 0 u).orElse fun _ => s.injHit b 1 u) = none := by
      intro b us
      rw [List.findSome?_eq_none_iff]
      intro u _
      rw [hit, hit]
      rfl
    rw [hn]

section
variable {s : State} {p : BitVec 6} {n key : Nat} {l : Load} {c : CLine}

theorem State.loadAsk_asked (h : l.asked = true) : s.loadAsk p l = s := by
  unfold State.loadAsk
  dsimp only
  rw [h, if_pos rfl]

/-- A load takes its bytes from a line that its cluster can give and that its core's L1 data cache holds. -/
theorem State.loadCached_hit (hf : l.fwd = none) (hc : SoundLine s (cluOf p) key c)
    (hw : s.wantLine (cluOf p) key (decide (l.kind = .llw)) false p.toNat = (.ready, s)) (hp : c.pois = false)
    (h1 : (spGet (s.core (s.hostCore p)).dc key).isSome = true) :
    s.loadCached p n l key = s.loadGets p n l ((c.data.drop (l.addr % 96)).take l.kind.size) false := by
  obtain ⟨hline, -, -, -, -, hinj⟩ := hc
  have hwait : s.l1dWait (s.hostCore p) key = false := by
    unfold State.l1dWait
    rw [Option.isNone_eq_false_iff.2 h1]
    simp
  have hcheck : (if decide (l.kind = .llw) = true then s else s.l1dCheck (s.hostCore p) key) = s := by
    rw [State.l1dCheck_clean hinj, ite_self]
  unfold State.loadCached
  dsimp only
  rw [hcheck, hw]
  dsimp only
  rw [hwait, if_neg Bool.false_ne_true, if_pos h1, hline, hf]
  dsimp only
  rw [hp]
  rfl

/-- A load without a line that caches may hold takes what its target gives: Tungsten's bytes, a register, or what the host brings. -/
def State.loadUncached (s : State) (p : BitVec 6) (n : Nat) (l : Load) (ext : List Byte) (pois : Bool) : State :=
  match l.space.toNat with
  | 1 => (s.tungRead p l.addr l.kind.size ext).2.loadGets p n l (s.tungRead p l.addr l.kind.size ext).1 false
  | 2 => if (s.proc p).devTurn l.sn l.addr then (s.devRead p l.addr).2.loadGets p n l (wordLe (s.devRead p l.addr).1) false else s
  | 3 => if s.mstat 2 && !s.mstat 1 then s.loadGets p n l ((List.range l.kind.size).map fun i => ext.getD i 0) pois else s
  | _ => s

section
variable {ext : List Byte} {pois : Bool} (hl : (s.proc p).loads[n]? = some l) (hd : l.data = none)
include hl hd

/-- Forwarded bytes arrive at once (R160). -/
theorem State.loadArrives_forwarded {bs : List Byte} (hk : l.kind ≠ .llw) (hf : l.fwd = some bs) :
    s.loadArrives p n ext pois = s.loadGets p n l bs false := by
  unfold State.loadArrives
  dsimp only
  rw [hl]
  dsimp only
  rw [hd, decide_eq_false hk, if_neg hk, hf]
  rfl

/-- A load that has its turn takes its bytes from the caches or from its target (R159, R160). -/
theorem State.loadArrives_turn (hb : l.kind = .llw → (s.proc p).backoff = none) (hf : l.fwd = none)
    (ho : (s.proc p).overlapped l = false) (ht : (s.proc p).loadTurn l = true) (ha : l.asked = true) :
    s.loadArrives p n ext pois =
      match s.loadLine l with
      | some key => s.loadCached p n l key
      | none => s.loadUncached p n l ext pois := by
  have hwait : (l.data.isSome || (decide (l.kind = .llw) && (s.proc p).backoff.isSome)) = false := by
    rw [hd]
    by_cases h : l.kind = .llw
    · simp [hb h]
    · simp [h]
  unfold State.loadArrives
  dsimp only
  rw [hl]
  dsimp only
  rw [hwait, if_neg Bool.false_ne_true, hf, ite_self, ho, ht]
  dsimp only
  rw [State.loadAsk_asked ha, ha]
  rfl

end
end

theorem execLoadDataArrival_run {s : State} (h : s.phase = .run) (p : BitVec 6) (n : Nat) (ext : List Byte) (pois : Bool) :
    execLoadDataArrival p n ext pois s = .next (s.loadArrives p n ext pois) := by
  have hf : s.finishing = true := by
    unfold State.finishing
    rw [h]
  rw [execLoadDataArrival, hf, if_pos rfl]

section
variable {s : State} {p : BitVec 6} {pre post : List Load} {l : Load} {ext : List Byte} {pois : Bool}

/-- A load that waits alone and takes a line of its cluster. -/
theorem loadArrives_sound {key : Nat} {c : CLine} (h : LoadAlone (s.proc p) pre post l)
    (hb : l.kind = .llw → (s.proc p).backoff = none) (hf : l.fwd = none) (ho : (s.proc p).overlapped l = false)
    (ht : (s.proc p).loadTurn l = true) (ha : l.asked = true) (hk : s.loadLine l = some key) (hc : SoundLine s (cluOf p) key c)
    (hw : s.wantLine (cluOf p) key (decide (l.kind = .llw)) false p.toNat = (.ready, s)) (hp : c.pois = false)
    (h1 : (spGet (s.core (s.hostCore p)).dc key).isSome = true) :
    s.loadArrives p pre.length ext pois = s.loadGets p pre.length l ((c.data.drop (l.addr % 96)).take l.kind.size) false := by
  obtain ⟨hq, hd, -⟩ := h
  have hl : (s.proc p).loads[pre.length]? = some l := hq ▸ getElem?_middle pre post l
  rw [State.loadArrives_turn hl hd hb hf ho ht ha, hk]
  exact State.loadCached_hit hf hc hw hp h1

/-- A load that waits alone for host memory, a register or Tungsten. -/
theorem loadArrives_target (h : LoadAlone (s.proc p) pre post l) (hk : l.kind ≠ .llw) (hf : l.fwd = none)
    (ho : (s.proc p).overlapped l = false) (ht : (s.proc p).loadTurn l = true) (ha : l.asked = true) (h0 : l.space ≠ 0) (h4 : l.space ≠ 4) :
    s.loadArrives p pre.length ext pois = s.loadUncached p pre.length l ext pois := by
  obtain ⟨hq, hd, -⟩ := h
  have hl : (s.proc p).loads[pre.length]? = some l := hq ▸ getElem?_middle pre post l
  rw [State.loadArrives_turn hl hd (fun h => absurd h hk) hf ho ht ha, State.loadLine_uncached s h0 h4]

/-- While the host is connected, its bytes or its poison arrive (R314). -/
theorem State.loadUncached_host (n : Nat) (hs : l.space = 3) (h2 : s.mstat 2 = true) (h1 : s.mstat 1 = false) :
    s.loadUncached p n l ext pois = s.loadGets p n l ((List.range l.kind.size).map fun i => ext.getD i 0) pois := by
  unfold State.loadUncached
  rw [hs, h2, h1]
  rfl

end

/-! Time-outs (R167). -/

theorem State.forget_frame (s : State) (l : Nat) (me : Agent) (p : BitVec 6) :
    (s.forget l me).proc p = s.proc p ∧ (s.forget l me).ms = s.ms := by
  unfold State.forget
  dsimp only
  split <;> exact ⟨rfl, rfl⟩

/-- Recording an event leaves the processors and the main store as they are. -/
theorem EventOnly.frame {s u : State} (h : EventOnly s u) (p : BitVec 6) : u.proc p = s.proc p ∧ u.ms = s.ms := by
  rw [h]
  exact ⟨rfl, rfl⟩

/-- A load that is lost is poisoned once its request is forgotten, and an event tells of it. -/
theorem State.loadLost_eq (s : State) (p : BitVec 6) (n : Nat) (l : Load) :
    ∃ t : State, t.proc p = s.proc p ∧ t.ms = s.ms ∧ EventOnly (t.loadPoison p n l l.addr) (s.loadLost p n l) := by
  unfold State.loadLost
  cases s.loadLine l with
  | none => exact ⟨s, rfl, rfl, EventOnly.event _ _⟩
  | some k =>
    obtain ⟨hp, hms⟩ := State.forget_frame s k (.unc (p.zeroExtend 12)) p
    exact ⟨_, hp, hms, EventOnly.event _ _⟩

/-- Settles O5: the bytes are `loadVal_bytes`; each source of data comes to `loadGets` and so to `State.loadGets_delivers`; poison and a
time-out come to `State.loadPoison_spec`. -/
theorem loadsComplete : Obligations.LoadsComplete := by
  unfold Obligations.LoadsComplete
  refine ⟨loadVal_bytes, fun s p ext pois pre post l hrun h => ?_, fun s p ext pre post l hq hd hall hf => ?_⟩
  · have hl : (s.proc p).loads[pre.length]? = some l := h.1 ▸ getElem?_middle pre post l
    intro cut
    rw [exec_loadDataArrival, execLoadDataArrival_run hrun]
    refine ⟨fun bs hb hk => ?_, fun hf ho ht ha => ⟨fun key c hk hline hc hr hp h1 => ?_, fun key c hk hbo hresv hline hc hown hp h1 => ?_,
      fun hk hs h2 h1 hp => ?_, fun hk hs hturn => ?_, fun hk hs => ?_⟩⟩
    · rw [State.loadArrives_forwarded hl h.2.1 hk hb]
      exact ⟨_, rfl, (State.loadGets_delivers h bs).1⟩
    · rw [loadArrives_sound h (fun e => absurd e hk) hf ho ht ha hline hc (by rw [decide_eq_false hk, hc.wantLine_read hr]) hp h1]
      exact ⟨_, rfl, (State.loadGets_delivers h _).1⟩
    · rw [loadArrives_sound h (fun _ => hbo) hf ho ht ha hline hc (by rw [decide_eq_true hk, hc.wantLine_own hown]) hp h1]
      obtain ⟨hdel, hr⟩ := State.loadGets_delivers h (cut c.data)
      refine ⟨_, rfl, hdel, (hr hk hresv).trans ?_⟩
      rw [hline]
      rfl
    · rw [loadArrives_target h hk hf ho ht ha (by rw [hs]; decide) (by rw [hs]; decide), State.loadUncached_host _ hs h2 h1, hp]
      exact ⟨_, rfl, (State.loadGets_delivers h _).1⟩
    · rw [loadArrives_target h hk hf ho ht ha (by rw [hs]; decide) (by rw [hs]; decide)]
      unfold State.loadUncached
      rw [hs, hturn]
      rfl
    · rw [loadArrives_target h hk hf ho ht ha (by rw [hs]; decide) (by rw [hs]; decide)]
      unfold State.loadUncached
      rw [hs]
      rfl
  · have hl : (s.proc p).loads[pre.length]? = some l := hq ▸ getElem?_middle pre post l
    intro gone
    refine ⟨fun hrun hk hfwd ha hs ho ht h2 h1 => ?_, fun hlate => ?_⟩
    · rw [exec_loadDataArrival, execLoadDataArrival_run hrun, State.loadArrives_turn hl hd (fun e => absurd e hk) hfwd ho ht ha,
        State.loadLine_uncached s (by rw [hs]; decide) (by rw [hs]; decide), State.loadUncached_host _ hs h2 h1]
      exact ⟨_, rfl, State.loadPoison_spec hq hall hf _⟩
    · obtain ⟨t, hp, hms, he⟩ := State.loadLost_eq s p pre.length l
      obtain ⟨hup, hums⟩ := he.frame p
      obtain ⟨-, d, hfault, hcode, hxip, haddr, hseg, hacc, hpa, hloads, hg, hfr, hmem⟩ :=
        State.loadPoison_spec (s := t) ((congrArg Proc.loads hp).trans hq) hall ((congrArg Proc.fault hp).trans hf) l.addr
      refine ⟨_, ?_, d, (congrArg Proc.fault hup).trans hfault, hcode, hxip, haddr, hseg, hacc, hpa,
        (congrArg Proc.loads hup).trans hloads, fun r => ?_, fun r => ?_, (hums.trans hmem).trans hms⟩
      · rw [exec_loadTimeout, execLoadTimeout, hl]
        dsimp only
        rw [hlate, if_pos rfl]
      · rw [hup, hg r, hp]
      · rw [hup, hfr r, hp]

end Sys2Proof.Machine

namespace Sys2Proof.Machine

open Sys2Proof

/-! Shifts and rotates (R78): the model's word functions are those of the bit vectors. -/

/-- An arithmetic shift by 48 or more fills the word with its sign. -/
theorem sarW_eq (a : Word) (n : Nat) : sarW a n = a.sshiftRight n := by
  unfold sarW
  split
  case isTrue h =>
    refine BitVec.eq_of_getLsbD_eq fun i hi => ?_
    have hn : ¬ n + i < 48 := by omega
    rw [BitVec.getLsbD_sshiftRight, if_neg hn]
    cases a.msb
    case false => simp
    case true =>
      rw [if_pos rfl, BitVec.getLsbD_allOnes, decide_eq_true hi, decide_eq_false (Nat.not_le.2 hi)]
      rfl
  case isFalse => rfl

theorem rorW_eq (a : Word) (n : Nat) : rorW a n = a.rotateRight (n % 48) := by
  rw [BitVec.rotateRight_def, Nat.mod_mod]
  rfl

theorem rolW_eq (a : Word) (n : Nat) : rolW a n = a.rotateLeft (n % 48) := by
  rw [BitVec.rotateLeft_def, Nat.mod_mod]
  rfl

/-- Settles O2: each shift is `rrOp` or `riOp` with its word function. -/
theorem shiftAndRotateResults : Obligations.ShiftAndRotateResults := by
  unfold Obligations.ShiftAndRotateResults
  refine ⟨fun s t p f hz h => ?_, fun s t p f hz h => ?_, fun s t p f h => ?_⟩
  · simp only [List.forall_mem_cons, List.not_mem_nil, false_implies, implies_true, and_true, exec_shl, exec_shr, exec_sar, exec_ror, exec_rol]
    exact ⟨rrOp_illegal hz h _, rrOp_illegal hz h _, rrOp_illegal hz h _, rrOp_illegal hz h _, rrOp_illegal hz h _⟩
  · simp only [exec_shl, exec_shr, exec_sar, exec_ror, exec_rol, ← sarW_eq, ← rorW_eq, ← rolW_eq]
    exact ⟨rrOp_computed hz h _, rrOp_computed hz h _, rrOp_computed hz h _, rrOp_computed hz h _, rrOp_computed hz h _⟩
  · simp only [exec_shli, exec_shri, exec_sari, exec_rori, ← sarW_eq, ← rorW_eq]
    split
    case isTrue hi =>
      have hb : decide (f.imm.toNat ≥ 64) = false := decide_eq_false (Nat.not_le.2 hi)
      exact ⟨riOp_computed hb h _, riOp_computed hb h _, riOp_computed hb h _, riOp_computed hb h _⟩
    case isFalse hi =>
      have hb : decide (f.imm.toNat ≥ 64) = true := decide_eq_true (Nat.not_lt.1 hi)
      exact ⟨riOp_illegal hb h _, riOp_illegal hb h _, riOp_illegal hb h _, riOp_illegal hb h _⟩

end Sys2Proof.Machine

namespace Sys2Proof.Machine

open Sys2Proof

/-! Multiplies and divides (R73, R80, R81, R112). -/

/-- The upper half of a product, signed and unsigned (R80). -/
theorem extractLsb'_ofInt_high (x : Int) : (BitVec.ofInt 96 x).extractLsb' 48 48 = BitVec.ofInt 48 (x / 2 ^ 48) := by
  apply BitVec.eq_of_toNat_eq
  rw [BitVec.extractLsb'_toNat, BitVec.toNat_ofInt, BitVec.toNat_ofInt, Nat.shiftRight_eq_div_pow]
  omega

theorem extractLsb'_ofNat_high (x : Nat) : (BitVec.ofNat 96 x).extractLsb' 48 48 = BitVec.ofNat 48 (x / 2 ^ 48) := by
  apply BitVec.eq_of_toNat_eq
  rw [BitVec.extractLsb'_toNat, BitVec.toNat_ofNat, BitVec.toNat_ofNat, Nat.shiftRight_eq_div_pow]
  omega

/-- The operands of the signed division that overflows (R80). -/
theorem overflowing_division_iff (a b : Word) : (a.toInt = -(2 ^ 47) ∧ b.toInt = -1) ↔ a = 0x800000000000 ∧ b = BitVec.allOnes 48 := by
  have ha : (0x800000000000 : Word).toInt = -(2 ^ 47) := by decide
  have hb : (BitVec.allOnes 48).toInt = -1 := by decide
  rw [← ha, ← hb, BitVec.toInt_inj, BitVec.toInt_inj]

/-- What the division function answers in each of its cases (R80). -/
theorem divS_zero {a b : Word} (h : b = 0) : divS a b = (0, a, false, true) := if_pos h

theorem divU_zero {a b : Word} (h : b = 0) : divU a b = (0, a, false, true) := if_pos h

theorem divS_overflow {a b : Word} (h : a.toInt = -(2 ^ 47) ∧ b.toInt = -1) : divS a b = (0x800000000000, 0, true, false) := by
  obtain ⟨rfl, rfl⟩ := (overflowing_division_iff a b).1 h
  rfl

theorem divS_quotient {a b : Word} (h : b ≠ 0) (ho : ¬ (a.toInt = -(2 ^ 47) ∧ b.toInt = -1)) :
    divS a b = (BitVec.ofInt 48 (a.toInt.tdiv b.toInt), BitVec.ofInt 48 (a.toInt - b.toInt * a.toInt.tdiv b.toInt), false, false) := by
  rw [overflowing_division_iff] at ho
  rw [divS, if_neg h, if_neg ho, sval, sval, Int.tmod_def]

theorem divU_quotient {a b : Word} (h : b ≠ 0) :
    divU a b = (BitVec.ofNat 48 (a.toNat / b.toNat), BitVec.ofNat 48 (a.toNat % b.toNat), false, false) := by
  rw [divU, if_neg h, BitVec.udiv_def, BitVec.umod_def]

section
variable {s t : State} {p : BitVec 6} {f : RR} (hz : f.z = 0) (h : s.Ready p [.g f.ra, .g f.rb] [.g f.rd] t)
include hz h

theorem mulOp_started (op : Word → Word → Word × Bool) (flags psw : Bool) :
    let r := op ((t.proc p).gR f.ra) ((t.proc p).gR f.rb)
    LongStarted t p (mulOp p f op flags psw s) (.g f.rd) (r.1.setWidth 64) r.2 false (if r.2 && (t.proc p).ovt then 7 else 0) 0 := by
  rw [mulOp, State.issue_ready h _ _ _ (by simp [hz]) (by simp)]
  exact longInt_started _ _ false _ _ _ _ _ rfl

/-- A divide issues when it needs no divider or finds it free (R73, R81). -/
theorem divOp_started (op : Word → Word → Word × Word × Bool × Bool) (rem : Bool) {quo res : Word} {ov dz : Bool}
    (hr : op ((t.proc p).gR f.ra) ((t.proc p).gR f.rb) = (quo, res, ov, dz))
    (hd : (ov || dz) = true ∨ ((t.proc p).longs.any fun x => x.idiv) = false) :
    LongStarted t p (divOp p f op rem s) (.g f.rd) ((if rem then res else quo).setWidth 64) ov dz
      (if dz && (t.proc p).dzt then 8 else if ov && (t.proc p).ovt then 7 else 0) 0 := by
  have hgo : (!(ov || dz) && (t.proc p).longs.any fun x => x.idiv) = false := by
    obtain e | e := hd <;> simp [e]
  rw [divOp, State.issue_ready h _ _ _ (by simp [hz]) (by simp)]
  dsimp only
  rw [hr, hgo, if_neg Bool.false_ne_true]
  exact longInt_started (if rem then res else quo) ov dz (!(ov || dz)) false true true _ rfl

end

theorem ite_or (a b : Word) (c : Bool) : (if c then a ||| b else a) = a ||| (if c then b else 0) := by
  cases c <;> simp

/-- What a completion changes (R71, R112, R121): the result's register, the flags and the trap that is due. -/
theorem Proc.completeLong_eq (q : Proc) (x : Long) : q.completeLong x = { q.put x.dst x.val with
    psw := q.psw ||| (if x.setV then 8 else 0) ||| (if x.setDZ then 16 else 0)
    fpsw := if x.trap = 0x09 then setFld (q.fpsw ||| (x.fl.setWidth 48 <<< 3)) 17 13 x.cause.toNat else q.fpsw ||| (x.fl.setWidth 48 <<< 3)
    trap := if x.trap = 0 then q.trap else some { code := x.trap, xip := q.ip, kind := 1 } } := by
  obtain ⟨g, f, e⟩ := Proc.put_eq q x.dst x.val
  unfold Proc.completeLong
  rw [e]
  dsimp only
  rw [ite_or, ite_or]
  split <;> rfl

/-- What stands after a completion, the register of the result being told by `Proc.put`. -/
theorem Proc.completeLong_frame (q : Proc) (x : Long) :
    let r := q.completeLong x
    r.psw = q.psw ||| (if x.setV then 8 else 0) ||| (if x.setDZ then 16 else 0) ∧
      (x.trap = 0 → r.fpsw = q.fpsw ||| (x.fl.setWidth 48 <<< 3) ∧ r.trap = q.trap) ∧
      (x.trap ≠ 0 → r.trap = some { code := x.trap, xip := q.ip, kind := 1 }) ∧
      r.ip = q.ip ∧ r.loads = q.loads ∧ r.longs = q.longs ∧ ProcKept q r ∧
      (∀ n, r.gR n = (q.put x.dst x.val).gR n) ∧ (∀ n, r.fR n = (q.put x.dst x.val).fR n) := by
  obtain ⟨g, f, e⟩ := Proc.put_eq q x.dst x.val
  dsimp only
  rw [Proc.completeLong_eq, e]
  refine ⟨rfl, fun h => ⟨if_neg (by rw [h]; decide), if_pos h⟩, fun h => if_neg h, rfl, rfl, rfl, ?_, fun _ => rfl, fun _ => rfl⟩
  exact ⟨rfl, rfl, rfl, rfl, rfl, rfl, rfl, rfl, rfl, rfl, rfl⟩

theorem listDrop1_eq_eraseIdx {α : Type} (xs : List α) (n : Nat) : listDrop1 xs n = xs.eraseIdx n := by
  induction xs generalizing n with
  | nil => rfl
  | cons x xs ih => cases n with
    | zero => rfl
    | succ n => exact congrArg _ (ih n)

/-- Settles O3: each multiply and divide is `mulOp` or `divOp`; `Proc.completeLong_frame` says what the completion changes. -/
theorem multiplyAndDivide : Obligations.MultiplyAndDivide := by
  unfold Obligations.MultiplyAndDivide
  refine ⟨fun s t p f hz h => ?_, fun s p n x hx => ?_⟩
  · intro a b ovt dzt tr free big w
    simp only [exec_mul, exec_mulh, exec_mulhu, exec_div, exec_divu, exec_rem, exec_remu]
    refine ⟨mulOp_started hz h _ _ _, ?_, ?_, fun hb => ?_, fun ho => ?_, fun hb hfree => ⟨fun ho => ?_, ?_, ?_⟩⟩
    · have e := mulOp_started hz h (fun a b => ((BitVec.ofInt 96 (sval a * sval b)).extractLsb' 48 48, false)) false true
      rwa [extractLsb'_ofInt_high] at e
    · have e := mulOp_started hz h (fun a b => ((BitVec.ofNat 96 (a.toNat * b.toNat)).extractLsb' 48 48, false)) false false
      rwa [extractLsb'_ofNat_high] at e
    · exact ⟨divOp_started hz h divS false (divS_zero hb) (.inl rfl), divOp_started hz h divU false (divU_zero hb) (.inl rfl),
        divOp_started hz h divS true (divS_zero hb) (.inl rfl), divOp_started hz h divU true (divU_zero hb) (.inl rfl)⟩
    · exact ⟨divOp_started hz h divS false (divS_overflow ho) (.inl rfl), divOp_started hz h divS true (divS_overflow ho) (.inl rfl)⟩
    · exact ⟨divOp_started hz h divS false (divS_quotient hb ho) (.inr hfree), divOp_started hz h divS true (divS_quotient hb ho) (.inr hfree)⟩
    · exact divOp_started hz h divU false (divU_quotient hb) (.inr hfree)
    · exact divOp_started hz h divU true (divU_quotient hb) (.inr hfree)
  · rw [exec_longResultComplete, execLongResultComplete, hx]
    refine ⟨_, rfl, OnlyProc.modProc s p _, ?_⟩
    rw [State.proc_modProc]
    obtain ⟨hpsw, hok, htrap, hip, hloads, hlongs, hkept, hg, hf⟩ := Proc.completeLong_frame { s.proc p with longs := listDrop1 (s.proc p).longs n } x
    refine ⟨hlongs.trans (listDrop1_eq_eraseIdx _ n), fun r hd => ?_, fun r hd => ?_, fun r hd => ?_, fun r hd => ?_,
      hpsw, hok, fun h => ⟨_, htrap h, rfl, rfl⟩, hip, hloads, hkept⟩
    · rw [hg, hd, Proc.put_g_same]
    · rw [hf, hd, Proc.put_f_same]
    · rw [hg, Proc.put_g_ne _ _ hd]
      rfl
    · rw [hf, Proc.put_f_ne _ _ hd]
      rfl

end Sys2Proof.Machine

namespace Sys2Proof.Machine

open Sys2Proof

/-! The caches of a cluster without an armed injection (R156, R177, R485): what a write in an owned line touches. -/

/-- No armed injection makes none hit (R485). -/
theorem NoInjection.injHit {s : State} (h : NoInjection s) (b : Blk) (chk u : Nat) : s.injHit b chk u = none := by
  unfold State.injHit
  dsimp only
  rw [h b]
  rfl

/-- Between `s` and `u` only L1 caches and the processors' reservations differ. -/
structure CoresOnly (s u : State) : Prop where
  state : u = { s with procs := u.procs, cores := u.cores }
  proc : ∀ p, ∃ r, u.proc p = { s.proc p with resv := r }

namespace CoresOnly

theorem refl (s : State) : CoresOnly s s := ⟨rfl, fun _ => ⟨_, rfl⟩⟩

theorem trans {s t u : State} (h : CoresOnly s t) (g : CoresOnly t u) : CoresOnly s u where
  state := by rw [g.state, h.state]
  proc p := by
    obtain ⟨r, hr⟩ := h.proc p
    obtain ⟨r', hr'⟩ := g.proc p
    exact ⟨r', by rw [hr', hr]⟩

theorem modCore (s : State) (n : Nat) (f : CoreS → CoreS) : CoresOnly s (s.modCore n f) := ⟨rfl, fun _ => ⟨_, rfl⟩⟩

/-- A processor that loses its reservation. -/
theorem modProc_resv (s : State) (p : BitVec 6) (r : Option Nat) : CoresOnly s (s.modProc p fun q => { q with resv := r }) where
  state := rfl
  proc x := by
    by_cases h : x = p
    · exact ⟨r, by rw [h, State.proc_modProc]⟩
    · exact ⟨_, State.proc_modProc_ne s _ h⟩

theorem killResvCore (s : State) (n l : Nat) : CoresOnly s (s.killResvCore n l) := by
  unfold State.killResvCore
  split
  · split
    · exact modProc_resv s _ _
    · exact refl s
  · exact refl s

theorem noInjection {s u : State} (h : CoresOnly s u) (hs : NoInjection s) : NoInjection u := by
  rw [h.state]
  exact hs

end CoresOnly

/-- A table whose values were changed one by one. -/
theorem spGet_map {α : Type} {g : Nat × α → Nat × α} (hg : ∀ x, (g x).1 = x.1) (m : Sp α) (k : Nat) :
    spGet (m.map g) k = (spGet m k).map fun v => (g (k, v)).2 := by
  induction m with
  | nil => rfl
  | cons x m ih =>
    obtain ⟨j, v⟩ := x
    show (if (g (j, v)).1 = k then some (g (j, v)).2 else spGet (m.map g) k) = Option.map _ (if j = k then some v else spGet m k)
    rw [hg, ih]
    by_cases h : j = k
    · subst h
      simp
    · simp [h]

/-- Reservations that `g` picks fall, of whatever processors. -/
theorem CoresOnly.mapResv (s : State) {g : Nat × Proc → Nat × Proc} (hg : ∀ x, (g x).1 = x.1)
    (hr : ∀ x, ∃ r, (g x).2 = { x.2 with resv := r }) : CoresOnly s { s with procs := s.procs.map g } where
  state := rfl
  proc p := by
    unfold State.proc spGetD
    dsimp only
    rw [spGet_map hg]
    cases spGet s.procs p.toNat with
    | none => exact ⟨_, rfl⟩
    | some q => exact hr (p.toNat, q)

theorem CoresOnly.killResv (s : State) (l : Nat) (keep : Option (BitVec 6)) : CoresOnly s (s.killResv l keep) := by
  refine CoresOnly.mapResv s (fun x => ?_) fun x => ?_
  · dsimp only
    split <;> rfl
  · dsimp only
    split
    · exact ⟨none, rfl⟩
    · exact ⟨_, rfl⟩

/-- A fold of steps each of which touches only those. -/
theorem CoresOnly.foldl {α : Type} (f : State → α → State) (h : ∀ s a, CoresOnly s (f s a)) (xs : List α) (s : State) : CoresOnly s (xs.foldl f s) := by
  induction xs generalizing s with
  | nil => exact CoresOnly.refl s
  | cons x xs ih => exact (h s x).trans (ih _)

theorem CoresOnly.dropL1D (s : State) (k l : Nat) (keep : Option Nat) : CoresOnly s (s.dropL1D k l keep) := by
  unfold State.dropL1D
  refine CoresOnly.foldl _ (fun s c => ?_) _ s
  dsimp only
  split
  · exact CoresOnly.refl s
  · split
    · exact (CoresOnly.modCore s _ _).trans (CoresOnly.killResvCore _ _ _)
    · exact CoresOnly.refl s

theorem CoresOnly.fillL1D {s : State} (h : NoInjection s) (n l : Nat) (st : L1S) : CoresOnly s (s.fillL1D n l st) := by
  unfold State.fillL1D
  split
  · exact CoresOnly.modCore s _ _
  · split
    · exact CoresOnly.refl s
    · split
      · exact CoresOnly.refl s
      · next old _ _ =>
        refine CoresOnly.trans ?_ (CoresOnly.modCore _ _ _)
        cases old with
        | none => exact CoresOnly.refl s
        | some j =>
          dsimp only
          rw [State.l1dCheck_clean h]
          simp only [ite_self]
          split
          all_goals exact (CoresOnly.modCore s _ _).trans (CoresOnly.killResvCore _ _ _)

/-- What a cluster's write leaves of its line when no check bit is inverted (R195). -/
def CLine.written (c : CLine) (bs : List Host.Cell) : CLine :=
  { c with st := .m, data := overlay 0 c.data bs, pois := c.pois && !decide ((List.range 96).all fun o => (spGet bs o).isSome) }

theorem State.proc_setLine (s : State) (k l : Nat) (c : CLine) (p : BitVec 6) : (s.setLine k l c).proc p = s.proc p := rfl

theorem State.cline_setLine_same (s : State) (k l : Nat) (c : CLine) : (s.setLine k l c).cline k l = some c := by
  simp [State.cline, State.setLine, State.clu, State.modClu, spGetD, spGet_spIns_same]

theorem State.cline_setLine_ne (s : State) {k l i j : Nat} (c : CLine) (h : (i, j) ≠ (k, l)) : (s.setLine k l c).cline i j = s.cline i j := by
  unfold State.cline State.setLine State.clu State.modClu
  dsimp only
  by_cases hi : i = k
  · subst hi
    have hj : j ≠ l := fun e => h (by rw [e])
    simp only [spGetD, spGet_spIns_same, Option.getD_some]
    exact spGet_spIns_ne _ _ hj
  · rw [spGetD, spGet_spIns_ne _ _ hi, spGetD]

theorem CoresOnly.ms {s u : State} (h : CoresOnly s u) : u.ms = s.ms := by
  rw [h.state]

theorem CoresOnly.cline {s u : State} (h : CoresOnly s u) (k l : Nat) : u.cline k l = s.cline k l := by
  rw [h.state]
  rfl

/-- Check bits of a good line stay so where no injection is armed (R485). -/
theorem CoresOnly.ccWritten {s u : State} (h : CoresOnly s u) {k l : Nat} {c : CLine} (hi : NoInjection s) (hc : s.cline k l = some c)
    (hf : c.flip = 0) (full : Bool) : CoresOnly s (u.ccWritten k l full) := by
  have hu := h.noInjection hi
  unfold State.ccWritten
  rw [h.cline, hc]
  dsimp only
  rw [hu.injHit]
  dsimp only
  rw [hu.injHit]
  simpa [hf] using h

/-- A write in an owned sound line (R156): the line holds the bytes and is M, and besides only L1 caches and reservations differ. -/
theorem SoundLine.cluWrite {s : State} {k l : Nat} {c : CLine} (h : SoundLine s k l c) (ho : c.st = .m ∨ c.st = .e) (n : Nat)
    (p : Option (BitVec 6)) (bs : List Host.Cell) : CoresOnly (s.setLine k l (c.written bs)) (s.cluWrite k l (some n) p bs) := by
  obtain ⟨hc, hf, -, -, hcc, hinj⟩ := h
  have hinj' : NoInjection (s.setLine k l (c.written bs)) := hinj
  have hst : (if c.st = .e ∧ false = false then LS.m else c.st) = .m := by
    obtain e | e := ho <;> rw [e] <;> rfl
  have hdrop : CoresOnly (s.setLine k l (c.written bs)) ((s.setLine k l (c.written bs)).dropL1D k l (some n)) := CoresOnly.dropL1D _ _ _ _
  unfold State.cluWrite
  dsimp only
  rw [State.l1dCheck_clean hinj, hc]
  dsimp only
  rw [hcc, show decide ((1 : Nat) = 2) = false from rfl, hst, if_neg Bool.false_ne_true]
  refine CoresOnly.ccWritten (c := c.written bs) (CoresOnly.trans ?_ (CoresOnly.killResv _ l p)) hinj' (State.cline_setLine_same _ _ _ _) hf _
  split
  · exact hdrop.trans (CoresOnly.modCore _ _ _)
  · exact hdrop.trans (CoresOnly.fillL1D (hdrop.noInjection hinj') _ _ _)

end Sys2Proof.Machine

namespace Sys2Proof.Machine

open Sys2Proof

/-! Store conditional (R91, R92). -/

/-- An empty combining buffer drains at once (R170). -/
theorem Proc.drainComb_nil {q : Proc} (h : q.comb = []) (pick : Comb → Bool) : q.drainComb pick = some q := by
  unfold Proc.drainComb
  simp only [h, List.filter_nil, List.length_nil, List.map_nil, List.append_nil]
  rw [if_pos (by simp [Proc.sbRoom]), ← h]

theorem Proc.drainFor_nil {q : Proc} (h : q.comb = []) (a : Acc) (n : Nat) : q.drainFor a n = some q := by
  unfold Proc.drainFor
  split
  · exact Proc.drainComb_nil h _
  · rfl

/-- What stands after an instruction has written G[rd] and retired, told by the processor `r` that it wrote in. -/
theorem Proc.gW_finish {q r : Proc} {rd : BitVec 5} (h : Effect q r [.g rd]) (v : Word) (ss : Bool) :
    let x := (r.gW rd v).finish ss
    x.gR rd = (if rd = 0 then 0 else v) ∧ RegsKept q x [.g rd] ∧ x.ip = r.ip ∧ x.psw = r.psw ∧ x.sb = r.sb ∧ x.slots = r.slots ∧
      x.resv = r.resv ∧ x.scwFailed = r.scwFailed := by
  intro x
  refine ⟨Proc.finish_gW r rd v ss (r.gW rd v).ip, (h.trans (Effect.gW r rd v)).finish ss, ?_⟩
  obtain ⟨g, f, e⟩ := Proc.gW_eq r rd v
  obtain ⟨g', f', ls, ok, e'⟩ := Proc.finish_eq (r.gW rd v) ss
  show _ = _ ∧ _
  have hx : x = _ := e'
  rw [hx, e]
  exact ⟨rfl, rfl, rfl, rfl, rfl, rfl⟩

section
variable {s t : State} {p : BitVec 6} {f : MF} (h : s.Ready p [.g f.ra, .g f.rd] [.g f.rd] t)
include h

/-- SCW whose check fails raises the exception of the check and ends the reservation (R51, R92). -/
theorem execScw_fault {d : Due}
    (ha : t.access p .store f.seg ((t.proc p).gR f.ra + f.disp.signExtend 48) 6 6 (t.proc p).ip = .error d) :
    execScw p f s = .next ((t.setFault p d).modProc p fun q => { q with resv := none, resvFor := none }) := by
  rw [execScw, State.issue_ready h _ _ _ rfl (by simp)]
  dsimp only
  rw [effOff, ha]

/-- SCW whose reservation is not valid on its address fails (R91). -/
theorem execScw_fails {a : Acc} {q1 : Proc}
    (ha : t.access p .store f.seg ((t.proc p).gR f.ra + f.disp.signExtend 48) 6 6 (t.proc p).ip = .ok a)
    (hd : (t.proc p).drainFor a 6 = some q1) (hr : ∀ l, t.cacheLine a = some l → (t.proc p).resv ≠ some (96 * l + a.addr % 96)) :
    execScw p f s = .next ((t.setProc p q1).scwFail p f.rd) := by
  have hresv : q1.resv = (t.proc p).resv := by rw [Proc.drainFor_eq hd]
  have hline : (t.setProc p q1).cacheLine a = t.cacheLine a := rfl
  rw [execScw, State.issue_ready h _ _ _ rfl (by simp)]
  dsimp only
  rw [effOff, ha]
  dsimp only
  rw [hd]
  dsimp only
  rw [hline, hresv]
  cases hl : t.cacheLine a with
  | none => rfl
  | some l => exact congrArg _ (if_pos (hr l hl))

/-- SCW with its reservation valid and no own store before it goes on to its line (R91). -/
theorem execScw_goes {a : Acc} {l : Nat}
    (ha : t.access p .store f.seg ((t.proc p).gR f.ra + f.disp.signExtend 48) 6 6 (t.proc p).ip = .ok a)
    (hl : t.cacheLine a = some l) (hr : (t.proc p).resv = some (96 * l + a.addr % 96))
    (hc : (t.proc p).comb = []) (hb : (t.proc p).sb = []) (hs : (t.proc p).slots = []) :
    execScw p f s = .next ((t.setProc p (t.proc p)).scwStore p f a l) := by
  have hown : (t.proc p).ownStores = [] := by simp [Proc.ownStores, Proc.entries, hb, hs]
  have hline : (t.setProc p (t.proc p)).cacheLine a = some l := hl
  rw [execScw, State.issue_ready h _ _ _ rfl (by simp)]
  dsimp only
  rw [effOff, ha]
  dsimp only
  rw [Proc.drainFor_nil hc]
  dsimp only
  rw [hline]
  dsimp only
  rw [if_neg (not_not.2 hr), hb, hown]
  rfl

end

/-- The bytes of a word at an address, by their offsets in the line. -/
def wordCells (a : Acc) (w : Word) : List Host.Cell := (cellsAt a.addr (wordLe w)).map fun x => (x.1 % 96, x.2)

/-- SCW writes a line that its cluster owns (R91, R156). -/
theorem State.scwStore_owned {t : State} {p : BitVec 6} {a : Acc} {l : Nat} {c : CLine} (f : MF) (hc : SoundLine t (cluOf p) l c)
    (ho : c.st = .m ∨ c.st = .e) (hp : a.persist = true → c.pg = true) (hw : t.l1dWait (t.hostCore p) l = false) :
    t.scwStore p f a l = ((t.modProc p fun q => q.writesPersist l a.persist).cluWrite (cluOf p) l (some (t.hostCore p)) (some p)
      (wordCells a ((t.proc p).gR f.rd))).scwDone p f.rd := by
  have hline := hc.1
  have hma : c.st ≠ .ma := by obtain e | e := ho <;> rw [e] <;> decide
  have hpg : t.linePg (cluOf p) l a.persist = (true, t) := by
    unfold State.linePg
    rw [hline]
    cases hx : a.persist
    · rfl
    · rw [Option.any_some, hp hx]
      rfl
  unfold State.scwStore
  dsimp only
  rw [hc.wantLine_own ho]
  dsimp only
  rw [hline, hw, hpg, Option.any_some, decide_eq_false hma]
  simp only [Bool.false_and, Bool.or_false, Bool.false_eq_true, if_false]
  congr 3
  funext q
  split <;> rfl

theorem OnlyProc.setProc (t : State) (p : BitVec 6) (q : Proc) : OnlyProc t (t.setProc p q) p :=
  ⟨rfl, fun _ hr => State.proc_setProc_ne t q hr⟩

/-- A processor that is set to what it holds: no read of a processor changes. -/
theorem State.proc_setProc_self (t : State) (p r : BitVec 6) : (t.setProc p (t.proc p)).proc r = t.proc r := by
  by_cases h : r = p
  · rw [h, State.proc_setProc]
  · exact State.proc_setProc_ne t _ h

theorem State.l1dWait_setProc_self (t : State) (p : BitVec 6) (n l : Nat) : (t.setProc p (t.proc p)).l1dWait n l = t.l1dWait n l := by
  have hon : (t.setProc p (t.proc p)).l1dOn n = t.l1dOn n := by
    unfold State.l1dOn
    simp only [State.proc_setProc_self]
    rfl
  unfold State.l1dWait
  rw [hon]
  rfl

/-- A persist write is noted with the lines to capture, where it is one (R165). -/
theorem Proc.writesPersist_eq (q : Proc) (l : Nat) (persist : Bool) : ∃ ls, q.writesPersist l persist = { q with unclosed := ls } := by
  cases persist
  · exact ⟨q.unclosed, rfl⟩
  · exact ⟨_, rfl⟩

/-- What SCW leaves of its processor once it has stored (R91). -/
theorem State.scwDone_spec {w : State} {p : BitVec 6} {q : Proc} {r : Option Nat} {ls : List Nat}
    (hw : w.proc p = { q with resv := r, unclosed := ls }) (rd : BitVec 5) :
    let u := w.scwDone p rd
    (u.proc p).gR rd = (if rd = 0 then 0 else 1) ∧ (u.proc p).resv = none ∧ (u.proc p).ip = q.ip + 6 ∧ (u.proc p).psw = q.psw ∧
      RegsKept q (u.proc p) [.g rd] := by
  have he : Effect q { q with ip := q.ip + 6, resv := none, resvFor := none, resvExc := false, scwFailed := false, unclosed := ls } [.g rd] := by
    refine Effect.of_eq ?_ ?_ ?_ _ <;> rfl
  intro u
  have hu : u.proc p = _ := State.proc_simple w p _
  rw [hw] at hu
  rw [hu]
  obtain ⟨hg, hk, hip, hpsw, -, -, hresv, -⟩ := Proc.gW_finish he 1 q.ss
  exact ⟨hg, hresv, hip, hpsw, hk⟩

/-- Settles O7: the failing forms come to `State.scwFail`, the successful one to `SoundLine.cluWrite`; `Proc.gW_finish` tells what retiring leaves. -/
theorem storeConditional : Obligations.StoreConditional := by
  unfold Obligations.StoreConditional
  intro s t p f h q off
  refine ⟨fun d hd => ?_, fun a q1 ha hq hr => ?_, fun a l c ha hl hr hcomb hsb hslots hc ho hp hw => ?_⟩
  · rw [exec_scw, execScw_fault h hd]
    refine ⟨_, rfl, (OnlyProc.modProc t p _).trans (OnlyProc.modProc _ p _), ?_⟩
    rw [State.proc_modProc, State.setFault, State.proc_modProc]
    exact ⟨rfl, rfl, rfl⟩
  · rw [exec_scw, execScw_fails h ha hq hr, State.scwFail]
    refine ⟨_, rfl, (OnlyProc.setProc t p q1).trans (OnlyProc.modProc _ p _), ?_⟩
    rw [State.proc_simple, State.proc_setProc]
    have he : Effect q { q1 with ip := q1.ip + 6, resv := none, resvFor := none, scwFailed := !q1.resvExc, resvExc := false } [.g f.rd] := by
      rw [Proc.drainFor_eq hq]
      refine Effect.of_eq ?_ ?_ ?_ _ <;> rfl
    obtain ⟨hg, hk, hip, hpsw, hb, hslots, hresv, hfail⟩ := Proc.gW_finish he 0 q1.ss
    have hq1 := Proc.drainFor_eq hq
    refine ⟨hg.trans (ite_self _), hresv, ?_, ?_, hb, ?_, ?_, hk⟩
    · rw [hip, hq1]
    · rw [hpsw, hq1]
    · rw [hslots, hq1]
    · rw [hfail, hq1]
  · have hc' : SoundLine (t.setProc p q) (cluOf p) l c := hc
    rw [exec_scw, execScw_goes h ha hl hr hcomb hsb hslots,
      State.scwStore_owned f hc' ho hp ((State.l1dWait_setProc_self t p _ l).trans hw)]
    have hpq : (t.setProc p q).proc p = q := State.proc_setProc t p q
    rw [hpq]
    have hwr := SoundLine.cluWrite (s := (t.setProc p q).modProc p fun q => q.writesPersist l a.persist) hc' ho
      ((t.setProc p q).hostCore p) (some p) (wordCells a (q.gR f.rd))
    obtain ⟨r, hproc⟩ := hwr.proc p
    obtain ⟨ls, hls⟩ := Proc.writesPersist_eq q l a.persist
    rw [State.proc_setLine, State.proc_modProc, hpq, hls] at hproc
    obtain ⟨hg, hresv, hip, hpsw, hk⟩ := State.scwDone_spec hproc f.rd
    refine ⟨_, rfl, hg, hresv, hip, hpsw, hwr.ms, hk, ⟨c.written (wordCells a (q.gR f.rd)), ?_, rfl, rfl⟩, fun k j hne => ?_⟩
    · exact (hwr.cline _ _).trans (State.cline_setLine_same _ _ _ _)
    · exact (hwr.cline _ _).trans (State.cline_setLine_ne _ _ hne)

end Sys2Proof.Machine

namespace Sys2Proof.Machine

open Sys2Proof

/-! Barriers (R94, R95, R161 to R165, R168). -/

/-- Does a barrier report the drops that its wait covered (R168)? -/
def Proc.barFaults (q : Proc) (b : BarWait) : Bool :=
  (!b.store || b.pbar) && decide (q.drops ≠ 0) && (decide (b.sc ≠ 0) && !b.store || (b.pbar && q.dropP))

/-- The processor that a barrier completes on, before it retires. -/
def Proc.barPassed (q : Proc) : Proc := { q with bar := none, ip := q.ip + 6 }

/-- A barrier without a drop to report completes (R95). -/
theorem State.barFinish_passes {s : State} {p : BitVec 6} {b : BarWait} (h : (s.proc p).barFaults b = false) :
    s.barFinish p b = s.setProc p ((s.proc p).barPassed.finish (s.proc p).ss) :=
  if_neg (ne_true_of_eq_false h)

/-- The barrier fault (0x0A) that reports the drops, the first of which is `d` (R168). -/
def Proc.barFault (q : Proc) (d : Drop) : Due :=
  { code := 0x0A, xip := q.ip, paddr := d.paddr, seg := d.seg, acc := d.acc, info := BitVec.ofNat 16 (min q.drops 0xFFFF) }

/-- A barrier with a drop to report raises the barrier fault (R168). -/
theorem State.barFinish_faults {s : State} {p : BitVec 6} {b : BarWait} {d : Drop} (h : (s.proc p).barFaults b = true)
    (hd : (s.proc p).drop1 = some d) :
    s.barFinish p b = s.setProc p { s.proc p with bar := none, fault := some ((s.proc p).barFault d) } := by
  have hx : (s.proc p).drop1.getD { space := 0, seg := 0, acc := 2, paddr := 0 } = d := by rw [hd, Option.getD_some]
  exact (if_pos h).trans (congrArg (fun d => s.setProc p { s.proc p with bar := none, fault := some ((s.proc p).barFault d) }) hx)

theorem Proc.barFaults_noDrops {q : Proc} (h : q.drops = 0) (b : BarWait) : q.barFaults b = false := by
  simp [Proc.barFaults, h]

/-- BAR reports drops as a full barrier of scope 1 or 2 only. -/
theorem Proc.barFaults_bar {q : Proc} {b : BarWait} (h : b.pbar = false) (hs : b.store = true ∨ b.sc = 0) : q.barFaults b = false := by
  obtain e | e := hs <;> simp [Proc.barFaults, h, e]

theorem Proc.barFaults_full {q : Proc} {b : BarWait} (hd : q.drops ≠ 0) (hs : b.store = false) (hsc : b.sc ≠ 0) : q.barFaults b = true := by
  rw [Proc.barFaults, hs, decide_eq_true hd, decide_eq_true hsc]
  rfl

/-- What stands after a completed barrier has retired. -/
theorem Proc.barPassed_finish (q : Proc) (ss : Bool) :
    let r := q.barPassed.finish ss
    r.ip = q.ip + 6 ∧ r.bar = none ∧ r.sb = q.sb ∧ r.psw = q.psw ∧ r.fpsw = q.fpsw ∧ r.trap = q.trap ∧ r.longs = q.longs ∧
      r.fault = q.fault ∧ r.drops = q.drops ∧ RegsKept q r [] ∧ (q.bar = none → ProcKept q r) := by
  have he : Effect q q.barPassed [] := by
    refine Effect.of_eq ?_ ?_ ?_ _ <;> rfl
  have hk := he.finish ss
  obtain ⟨g, f, ls, ok, e⟩ := Proc.finish_eq q.barPassed ss
  rw [e] at hk ⊢
  exact ⟨rfl, rfl, rfl, rfl, rfl, rfl, rfl, rfl, rfl, hk, fun hb => ⟨rfl, rfl, rfl, rfl, rfl, rfl, rfl, rfl, rfl, hb.symm, rfl⟩⟩

/-- What a barrier waits for (R161 to R164), and the buffer with a store barrier's marker. -/
def barWaitOf (q : Proc) (f : BarF) (pbar : Bool) : BarWait := { pbar := pbar, store := f.store, sc := f.sc, sn := q.sn }

def Proc.marked (q : Proc) (f : BarF) : Proc := if f.store then { q with sb := q.sb ++ [.marker f.sc q.sn] } else q

section
variable {s t : State} {p : BitVec 6} {f : BarF}

theorem barOp_reserved (h : s.Ready p [] [] t) (hsc : f.sc = 3) (pbar : Bool) : Raises t p (barOp p f pbar s) 0x01 :=
  issue_illegal_of h (decide_eq_true (by simp [hsc])) _ _

/-- A barrier that finds the combining buffer empty: it completes or waits. -/
theorem barOp_ready (h : s.Ready p [] [] t) (hrd : f.rd = 0) (hra : f.ra = 0) (hrb : f.rb = 0) (hfn : f.fnHi = 0) (hz : f.z = 0)
    (hsc : f.sc ≠ 3) (hc : (t.proc p).comb = []) (pbar : Bool) :
    barOp p f pbar s = .next (
      let u := t.setProc p ((t.proc p).marked f)
      let b := barWaitOf (t.proc p) f pbar
      if u.barDone p b then u.barFinish p b else u.setProc p { (t.proc p).marked f with bar := some b }) := by
  have hill : decide (f.rd ≠ 0 ∨ f.ra ≠ 0 ∨ f.rb ≠ 0 ∨ f.fnHi ≠ 0 ∨ f.z ≠ 0 ∨ f.sc = 3) = false := by
    rw [hrd, hra, hrb, hfn, hz]
    simpa using hsc
  rw [barOp, State.issue_ready h _ _ _ hill (by simp)]
  dsimp only
  rw [Proc.drainComb_nil hc]
  rfl

/-- A barrier that waits for nothing and has no drop to report completes at once. -/
theorem barOp_completes (h : s.Ready p [] [] t) (hrd : f.rd = 0) (hra : f.ra = 0) (hrb : f.rb = 0) (hfn : f.fnHi = 0) (hz : f.z = 0)
    (hsc : f.sc ≠ 3) (hc : (t.proc p).comb = []) {pbar : Bool}
    (hdone : (t.setProc p ((t.proc p).marked f)).barDone p (barWaitOf (t.proc p) f pbar) = true)
    (hf : ((t.proc p).marked f).barFaults (barWaitOf (t.proc p) f pbar) = false) :
    ∃ u, barOp p f pbar s = .next u ∧ OnlyProc t u p ∧
      u.proc p = ((t.proc p).marked f).barPassed.finish ((t.proc p).marked f).ss := by
  have hp := State.proc_setProc t p ((t.proc p).marked f)
  have e := State.barFinish_passes (s := t.setProc p ((t.proc p).marked f)) ((congrArg (Proc.barFaults · _) hp).trans hf)
  refine ⟨_, (barOp_ready h hrd hra hrb hfn hz hsc hc pbar).trans (congrArg _ ((if_pos hdone).trans e)), ?_, ?_⟩
  · exact (OnlyProc.setProc t p _).trans (OnlyProc.setProc _ p _)
  · rw [State.proc_setProc, hp]

end

theorem OnlyProc.barFinish (s : State) (p : BitVec 6) (b : BarWait) : OnlyProc s (s.barFinish p b) p := by
  unfold State.barFinish
  dsimp only
  split
  · exact OnlyProc.setProc s p _
  · exact OnlyProc.setProc s p _

/-- The wait of a full barrier is over where nothing is buffered, outstanding or uncaptured (R161, R164). -/
theorem State.barDone_idle {s : State} {p : BitVec 6} {b : BarWait} (hb : (s.proc p).sb = []) (hs : (s.proc p).slots = [])
    (hl : (s.proc p).loads = []) (hc : (s.proc p).cmos = 0) (hu : (s.proc p).unclosed = []) : s.barDone p b = true := by
  simp [State.barDone, State.persisted, Proc.slotsAt, Proc.entries, hb, hs, hl, hc, hu]

/-- What a completed store barrier leaves of its processor: its marker stands behind the stores of the buffer (R162). -/
theorem marked_passed_spec {q r : Proc} {f : BarF} (hst : f.store = true) (hr : r = (q.marked f).barPassed.finish (q.marked f).ss) :
    r.sb = q.sb ++ [.marker f.sc q.sn] ∧ r.ip = q.ip + 6 ∧ r.bar = none ∧ RegsKept q r [] := by
  have hmark : q.marked f = { q with sb := q.sb ++ [.marker f.sc q.sn] } := if_pos hst
  have he : Effect q (q.marked f).barPassed [] := by
    rw [hmark]
    refine Effect.of_eq ?_ ?_ ?_ _ <;> rfl
  obtain ⟨hip, hbn, hsb, -⟩ := Proc.barPassed_finish (q.marked f) (q.marked f).ss
  rw [hr]
  refine ⟨hsb.trans ?_, hip.trans ?_, hbn, he.finish _⟩
  all_goals rw [hmark]

theorem State.persisted_idle (s : State) {q : Proc} (he : q.entries = []) (hs : q.slots = []) (hu : q.unclosed = []) (n : Nat) :
    s.persisted q n = true := by
  simp [State.persisted, he, hs, hu]

/-- A store barrier waits for what it persists and, at system scope, for earlier CMOs (R109, R162, R164). -/
theorem State.barDone_store {s : State} {p : BitVec 6} {b : BarWait} (hs : b.store = true)
    (hp : b.pbar = true → s.persisted (s.proc p) b.sn = true) (hc : b.sc = 2 → (s.proc p).cmos = 0) : s.barDone p b = true := by
  have h1 : (!b.pbar || s.persisted (s.proc p) b.sn) = true := by
    cases e : b.pbar
    · rfl
    · exact hp e
  have h2 : (decide (b.sc ≠ 2) || decide ((s.proc p).cmos = 0)) = true := by
    rw [Bool.or_eq_true, decide_eq_true_eq, decide_eq_true_eq]
    exact Decidable.or_iff_not_imp_left.2 fun e => hc (not_not.1 e)
  unfold State.barDone
  dsimp only
  rw [hs, h1, h2]
  rfl

/-- A full barrier waits for every store of the buffer that is older (R161). -/
theorem State.barDone_entry {s : State} {p : BitVec 6} {b : BarWait} {e : Entry} (hs : b.store = false) (he : e ∈ (s.proc p).entries)
    (hn : e.sn < b.sn) : s.barDone p b = false := by
  have hany : ((s.proc p).entries.any fun e => decide (e.sn < b.sn)) = true := List.any_eq_true.2 ⟨e, he, decide_eq_true hn⟩
  unfold State.barDone
  dsimp only
  rw [hs, hany]
  simp

/-- Settles O12: `barOp_ready` gives each barrier its wait; `State.barFinish_passes` and `State.barFinish_faults` end it. -/
theorem barriers : Obligations.Barriers := by
  unfold Obligations.Barriers
  refine ⟨fun s t p f h hrd hra hrb hfn hz => ?_, fun s p b hbar hdone => ?_⟩
  · rw [exec_bar, exec_pbar]
    have go := fun hsc hc pbar => barOp_ready h hrd hra hrb hfn hz hsc hc pbar
    refine ⟨fun hsc => ⟨barOp_reserved h hsc _, barOp_reserved h hsc _⟩, fun hsc hst hc hb hs hl hm hun hdr hbar => ?_,
      fun hsc hst hc hn hm => ?_, fun hsc hst hc hb hs hm hun hdr => ?_, fun e hsc hst hc hb he => ?_⟩
    · have full (pbar : Bool) : Computed' t p (barOp p f pbar s) 0 0 ((t.proc p).ip + 6) := by
        have hq : (t.proc p).marked f = t.proc p := if_neg (by simp [hst])
        obtain ⟨u, he, ho, hu⟩ := barOp_completes h hrd hra hrb hfn hz hsc hc (pbar := pbar)
          (State.barDone_idle (by simpa [hq] using hb) (by simpa [hq] using hs) (by simpa [hq] using hl) (by simpa [hq] using hm)
            (by simpa [hq] using hun)) (Proc.barFaults_noDrops (by rw [hq, hdr]) _)
        rw [hq] at hu
        obtain ⟨hip, -, -, hpsw, hfpsw, htrap, hlongs, -, -, hk, hkept⟩ := Proc.barPassed_finish (t.proc p) (t.proc p).ss
        refine ⟨u, he, ho, rfl, ?_⟩
        rw [hu]
        exact ⟨hpsw, htrap, hfpsw, hip, ⟨fun n _ => hk.1 n (List.not_mem_nil), fun n _ => hk.2 n (List.not_mem_nil)⟩, hkept hbar, hlongs⟩
      exact ⟨full false, full true⟩
    · have hmark : (t.proc p).marked f = { t.proc p with sb := (t.proc p).sb ++ [.marker f.sc (t.proc p).sn] } := if_pos hst
      obtain ⟨u, he, ho, hu⟩ := barOp_completes h hrd hra hrb hfn hz hsc hc (pbar := false)
        (State.barDone_store hst (fun e => nomatch e) fun e => by rw [State.proc_setProc, hmark]; exact hm e) (Proc.barFaults_bar rfl (.inl hst))
      exact ⟨u, he, ho, marked_passed_spec hst hu⟩
    · have hmark : (t.proc p).marked f = { t.proc p with sb := (t.proc p).sb ++ [.marker f.sc (t.proc p).sn] } := if_pos hst
      have hpers (v : State) : v.persisted ((t.proc p).marked f) (t.proc p).sn = true := by
        rw [hmark]
        refine State.persisted_idle v ?_ ?_ ?_ _
        · simp [Proc.entries, hb]
        · exact hs
        · exact hun
      obtain ⟨u, he, ho, hu⟩ := barOp_completes h hrd hra hrb hfn hz hsc hc (pbar := true)
        (State.barDone_store hst (fun _ => by rw [State.proc_setProc]; exact hpers _) fun _ => by rw [State.proc_setProc, hmark]; exact hm)
        (Proc.barFaults_noDrops (by rw [hmark]; exact hdr) _)
      obtain ⟨hsb, hrest⟩ := marked_passed_spec hst hu
      exact ⟨u, he, ho, by rw [hsb, hb, List.nil_append], hrest⟩
    · have hmark : (t.proc p).marked f = t.proc p := if_neg (by simp [hst])
      have hwait : (t.setProc p (t.proc p)).barDone p (barWaitOf (t.proc p) f false) = false :=
        State.barDone_entry hst (by rw [State.proc_setProc]; simp [Proc.entries, hb]) he
      have hgo := barOp_ready h hrd hra hrb hfn hz hsc hc false
      rw [hmark] at hgo
      refine ⟨_, hgo.trans (congrArg _ (if_neg (ne_true_of_eq_false hwait))),
        (OnlyProc.setProc t p _).trans (OnlyProc.setProc _ p _), ?_, ?_, ?_, ?_⟩
      · rw [State.proc_setProc, barWaitOf, hst]
      · rw [State.proc_setProc]
      · rw [State.proc_setProc]
      · simp [State.able, State.proc_setProc]
  · rw [exec_barrierComplete]
    have go : execBarrierComplete p s = .next (s.barFinish p b) := by
      rw [execBarrierComplete, hbar]
      exact congrArg _ (if_pos hdone)
    rw [go]
    refine ⟨fun hdr => ⟨_, rfl, OnlyProc.barFinish s p b, ?_⟩, fun d hdr hd hst hsc => ⟨_, (s.proc p).barFault d, rfl, OnlyProc.barFinish s p b, ?_⟩,
      fun hdr hst hpb hsc => ⟨_, rfl, ?_⟩⟩
    · rw [State.barFinish_passes (Proc.barFaults_noDrops hdr b), State.proc_setProc]
      obtain ⟨hip, hbn, -, -, -, -, -, -, -, hk, -⟩ := Proc.barPassed_finish (s.proc p) (s.proc p).ss
      exact ⟨hbn, hip, hk⟩
    · rw [State.barFinish_faults (Proc.barFaults_full hdr hst hsc) hd, State.proc_setProc]
      exact ⟨rfl, rfl, rfl, rfl, rfl, rfl, rfl, rfl, rfl, rfl⟩
    · rw [State.barFinish_passes (Proc.barFaults_bar hpb (.inr hsc)), State.proc_setProc]
      obtain ⟨hip, -, -, -, -, -, -, hfault, hdrops, -, -⟩ := Proc.barPassed_finish (s.proc p) (s.proc p).ss
      exact ⟨hfault, hdrops, hip⟩

end Sys2Proof.Machine

namespace Sys2Proof.Machine

open Sys2Proof

/-! Micro-routines (R101 to R105): what one step reads and checks. -/

/-- A segment all of whose bytes pass their check gives a step no fault (R103). -/
theorem State.routineFault_none {s : State} {p : BitVec 6} {r : Routine} {isA : Bool} {kind : AccKind} {n : Nat}
    (h : ∀ i, i < n → ∃ a, s.routineAccess p r isA kind i = .ok a) (rank : Nat) : s.routineFault p r isA kind rank n = none := by
  unfold State.routineFault
  rw [List.findSome?_eq_none_iff]
  intro i hi
  obtain ⟨a, ha⟩ := h i (List.mem_range.1 hi)
  rw [ha]

/-- A segment whose first byte fails stops a step there. -/
theorem State.routineFault_first {s : State} {p : BitVec 6} {r : Routine} {isA : Bool} {kind : AccKind} {n : Nat} {d : Due}
    (h : s.routineAccess p r isA kind 0 = .error d) (hn : n ≠ 0) (rank : Nat) :
    s.routineFault p r isA kind rank n = some { at_ := 0, rank := rank, due := { d with mr := true } } := by
  obtain ⟨m, rfl⟩ := Nat.exists_eq_succ_of_ne_zero hn
  unfold State.routineFault
  rw [List.range_succ_eq_map, List.findSome?_cons, h]

/-- A step of a routine that has bytes left takes one at least, and no more than a line holds (R104). -/
theorem State.routineLen_pos {s : State} {p : BitVec 6} (h : (s.proc p).gR 3 ≠ 0) (r : Routine) : 0 < s.routineLen p r := by
  have h3 : 0 < ((s.proc p).gR 3).toNat := Nat.pos_of_ne_zero fun e => h (BitVec.eq_of_toNat_eq e)
  have room (b : Bool) (x : Nat) : 0 < (if b then 96 - x % 96 else 96) := by
    cases b
    · exact Nat.succ_pos 95
    · have := Nat.mod_lt x (show 0 < 96 by decide)
      simp only [if_true]
      omega
  exact lt_min h3 (lt_min (room _ _) (room _ _))

theorem State.routineLen_le (s : State) (p : BitVec 6) (r : Routine) : s.routineLen p r ≤ 96 := by
  refine le_trans (min_le_right _ _) (le_trans (min_le_left _ _) ?_)
  dsimp only
  split <;> omega

/-- Bytes that no own store overlays are read as they stand. -/
theorem map_getD_zip_none (bs : List Byte) {n : Nat} (h : bs.length ≤ n) :
    ((List.replicate n (none : Option Byte)).zip bs).map (fun x => x.1.getD x.2) = bs := by
  induction bs generalizing n with
  | nil => rw [List.zip_nil_right, List.map_nil]
  | cons b bs ih =>
    cases n with
    | zero => exact absurd h (Nat.not_succ_le_zero _)
    | succ m => rw [List.replicate_succ, List.zip_cons_cons, List.map_cons, ih (Nat.le_of_succ_le_succ h), Option.getD_none]

/-- What a step reads of a sound line that its cluster may read, when no own store is buffered (R88, R103). -/
theorem State.routineRead_held {s : State} {p : BitVec 6} {a : Acc} {l : Nat} {c : CLine} {n : Nat} (ho : (s.proc p).ownStores = []) (hn : n ≠ 0)
    (hl : s.cacheLine a = some l) (hc : SoundLine s (cluOf p) l c) (hr : c.st.readable = true) (hp : c.pois = false) (r : Routine) (isA : Bool)
    (ext : List Byte) (pois : Bool) :
    s.routineRead p r isA a n ext pois = (some ((c.data.drop (a.addr % 96)).take n, false), s) := by
  have hbyte (x : Nat) : (s.proc p).ownByte x = none := by
    unfold Proc.ownByte
    rw [ho]
    rfl
  have hread : s.procRead p l a.addr n = (some ((c.data.drop (a.addr % 96)).take n, false), s) := by
    unfold State.procRead State.procLine
    dsimp only
    rw [hc.wantLine_read hr]
    dsimp only
    rw [hc.ccRead, hc.1, ← hp]
    rfl
  have hown : ((List.range n).map fun i => if a.space = 0 then (s.proc p).ownByte (a.addr + i) else none) = List.replicate n none := by
    simp [hbyte, List.map_const']
  have hall : (List.replicate n (none : Option Byte)).all Option.isSome = false := by
    simpa using hn
  unfold State.routineRead
  simp only [ho, List.any_nil, Bool.and_false, Bool.false_eq_true, if_false, hl, hown, hall, hread, map_getD_zip_none _ (List.length_take_le _ _)]

section
variable {s : State} {p : BitVec 6} {r : Routine} {n : Nat} {a b : Acc} {xs ys : List Byte} {go : Bool} {x : Proc}

/-- Every byte of a step can be accessed in one segment, the first one at `a`. -/
def State.RoutineClear (s : State) (p : BitVec 6) (r : Routine) (isA : Bool) (kind : AccKind) (a : Acc) : Prop :=
  s.routineAccess p r isA kind 0 = .ok a ∧ ∀ i, i < s.routineLen p r → ∃ x, s.routineAccess p r isA kind i = .ok x

/-- The processor's step is ready to read these bytes in one segment. -/
def State.RoutineReads (s : State) (p : BitVec 6) (r : Routine) (isA : Bool) (a : Acc) (bs : List Byte) : Prop :=
  ∀ ext pois, (s.setProc p (s.proc p)).routineRead p r isA a (s.routineLen p r) ext pois = (some (bs, false), s.setProc p (s.proc p))

/-- The state after a step that did its work: the routine goes on to its next boundary or, where `go` is false, has ended. -/
def State.routineNext (s : State) (p : BitVec 6) (r : Routine) (go : Bool) (x : Proc) : State :=
  (s.setProc p (s.proc p)).setProc p (if go then x.stepEnd r else x)

variable (h3 : (s.proc p).gR 3 ≠ 0) (hc : (s.proc p).comb = [])
include h3 hc

/-- A step that only writes (R102). -/
theorem State.routineStep_write (hs : routineSides r.fn = [(true, .mrWrite)]) (ha : s.RoutineClear p r true .mrWrite a)
    (hw : (s.proc p).routineWork r (some a) false 0 (s.routineLen p r) [] [] = some (go, x)) (ext : List Byte) (pois : Bool) :
    s.routineStep p r ext pois = s.routineNext p r go x := by
  unfold State.routineStep
  simp only [if_neg h3, hs, Proc.drainComb_nil hc]
  simp [State.routineFault_none ha.2, ha.1, hw]
  cases go <;> rfl

/-- A step that reads in B and writes in A. -/
theorem State.routineStep_move (hs : routineSides r.fn = [(false, .mrRead), (true, .mrWrite)]) (ha : s.RoutineClear p r true .mrWrite a)
    (hb : s.RoutineClear p r false .mrRead b) (hy : s.RoutineReads p r false b ys)
    (hw : (s.proc p).routineWork r (some a) (decide (a.space = b.space ∧ a.node = b.node)) b.addr (s.routineLen p r) [] ys = some (go, x))
    (ext : List Byte) (pois : Bool) : s.routineStep p r ext pois = s.routineNext p r go x := by
  have hn := (State.routineLen_pos h3 r).ne'
  unfold State.routineStep
  simp only [if_neg h3, hs, Proc.drainComb_nil hc]
  simp [State.routineFault_none ha.2, State.routineFault_none hb.2, ha.1, hb.1, hn, hy _ _, hw, -Bool.decide_and]
  cases go <;> rfl

/-- A step that reads in both segments. -/
theorem State.routineStep_compare (hs : routineSides r.fn = [(true, .mrRead), (false, .mrRead)]) (ha : s.RoutineClear p r true .mrRead a)
    (hb : s.RoutineClear p r false .mrRead b) (hx : s.RoutineReads p r true a xs) (hy : s.RoutineReads p r false b ys)
    (hw : (s.proc p).routineWork r (some a) (decide (a.space = b.space ∧ a.node = b.node)) b.addr (s.routineLen p r) xs ys = some (go, x))
    (ext : List Byte) (pois : Bool) : s.routineStep p r ext pois = s.routineNext p r go x := by
  have hn := (State.routineLen_pos h3 r).ne'
  unfold State.routineStep
  simp only [if_neg h3, hs, Proc.drainComb_nil hc]
  simp [State.routineFault_none ha.2, State.routineFault_none hb.2, ha.1, hb.1, hn, hx _ _, hy _ _, hw, -Bool.decide_and]
  cases go <;> rfl

/-- A step that reads in B alone. -/
theorem State.routineStep_read (hs : routineSides r.fn = [(false, .mrRead)]) (hb : s.RoutineClear p r false .mrRead b)
    (hy : s.RoutineReads p r false b ys)
    (hw : (s.proc p).routineWork r none false b.addr (s.routineLen p r) [] ys = some (go, x))
    (ext : List Byte) (pois : Bool) : s.routineStep p r ext pois = s.routineNext p r go x := by
  have hn := (State.routineLen_pos h3 r).ne'
  unfold State.routineStep
  simp only [if_neg h3, hs, Proc.drainComb_nil hc]
  simp [State.routineFault_none hb.2, hb.1, hn, hy _ _, hw]
  cases go <;> rfl

/-- A step whose only segment fails at its first byte does nothing and raises that exception, marked MR (R103, R105). -/
theorem State.routineStep_fault {d : Due} (hs : routineSides r.fn = [(true, .mrWrite)]) (hf : r.fn = 1)
    (hd : s.routineAccess p r true .mrWrite 0 = .error d) (ext : List Byte) (pois : Bool) :
    s.routineStep p r ext pois = (s.setProc p (s.proc p)).setProc p { s.proc p with routine := none, fault := some { d with mr := true } } := by
  have hn := (State.routineLen_pos h3 r).ne'
  have hw (src : Nat) : (s.proc p).routineWork r none false src 0 [] [] = some (true, s.proc p) := by
    unfold Proc.routineWork
    rw [hf]
    rfl
  unfold State.routineStep
  simp only [if_neg h3, hs, Proc.drainComb_nil hc]
  simp [State.routineFault_first hd hn, hd, hw]

end

end Sys2Proof.Machine

namespace Sys2Proof.Machine

open Sys2Proof

/-! What a step leaves of its processor (R102, R104, R105). -/

/-- No outstanding load is to write G[n] any more (R62). -/
def Proc.Settled (q : Proc) (n : BitVec 5) : Prop := ∀ l ∈ q.loads, l.dst = .g n → l.sup = true

theorem Proc.gW_settled (q : Proc) (n : BitVec 5) (v : Word) : (q.gW n v).Settled n := fun _ hl hd => (Proc.gW_loads hl).1 hd

theorem Proc.Settled.gW {q : Proc} {n : BitVec 5} (h : q.Settled n) (m : BitVec 5) (v : Word) : (q.gW m v).Settled n := by
  intro l hl hd
  obtain ⟨g, f, e⟩ := Proc.gW_eq q m v
  rw [e] at hl
  obtain ⟨x, hx, rfl⟩ := List.mem_map.1 hl
  by_cases hm : x.dst = .g m
  · rw [if_pos hm]
  · rw [if_neg hm] at hd ⊢
    exact h x hx hd

/-- The registers that a routine's progress writes (R104). -/
def Routine.moved (r : Routine) : List Reg := (if r.uses true then [.g 1] else []) ++ (if r.uses false then [.g 2] else []) ++ [.g 3]

/-- Processor `x` is `q` after progress of `m` bytes of routine r, perhaps with other registers of `but` written: G3 and the offsets have
moved, and no load is to write them. -/
structure Progressed (q x : Proc) (r : Routine) (m : Nat) (but : List Reg) : Prop where
  count : x.gR 3 = q.gR 3 - BitVec.ofNat 48 m ∧ x.Settled 3
  offA : r.uses true = true → x.gR 1 = q.gR 1 + BitVec.ofNat 48 m ∧ x.Settled 1
  offB : r.uses false = true → x.gR 2 = q.gR 2 + BitVec.ofNat 48 m ∧ x.Settled 2
  effect : Effect q x but
  ip : x.ip = q.ip

theorem Effect.mono {q r : Proc} {but but' : List Reg} (h : Effect q r but) (hb : but ⊆ but') : Effect q r but' where
  loads := h.loads
  g n hn := h.g n fun hm => hn (hb hm)
  f n hn := h.f n fun hm => hn (hb hm)

theorem Proc.gW_ip (q : Proc) (n : BitVec 5) (v : Word) : (q.gW n v).ip = q.ip := by
  obtain ⟨g, f, e⟩ := Proc.gW_eq q n v
  rw [e]

theorem Proc.gW_sb (q : Proc) (n : BitVec 5) (v : Word) : (q.gW n v).sb = q.sb := by
  obtain ⟨g, f, e⟩ := Proc.gW_eq q n v
  rw [e]

/-- The offset in G[n] moves on by `m` where its segment is touched. -/
def Proc.moveOff (q : Proc) (c : Bool) (n : BitVec 5) (m : Nat) : Proc := if c then q.gW n (q.gR n + BitVec.ofNat 48 m) else q

section
variable (q : Proc) (c : Bool) (n : BitVec 5) (m : Nat)

theorem Proc.moveOff_effect : Effect q (q.moveOff c n m) (if c then [.g n] else []) := by
  cases c
  · exact Effect.of_eq rfl rfl rfl _
  · exact Effect.gW q n _

theorem Proc.moveOff_frame : (q.moveOff c n m).ip = q.ip ∧ (q.moveOff c n m).sb = q.sb := by
  cases c
  · exact ⟨rfl, rfl⟩
  · exact ⟨Proc.gW_ip q n _, Proc.gW_sb q n _⟩

variable {q c n}

theorem Proc.moveOff_same (h : c = true) (hn : n ≠ 0) : (q.moveOff c n m).gR n = q.gR n + BitVec.ofNat 48 m ∧ (q.moveOff c n m).Settled n := by
  rw [h]
  exact ⟨(Proc.gW_same q n _).trans (if_neg hn), Proc.gW_settled q n _⟩

theorem Proc.moveOff_ne {k : BitVec 5} (h : k ≠ n) : (q.moveOff c n m).gR k = q.gR k := by
  cases c
  · rfl
  · exact Proc.gW_ne q _ h

theorem Proc.Settled.moveOff {k : BitVec 5} (h : q.Settled k) : (q.moveOff c n m).Settled k := by
  cases c
  · exact h
  · exact h.gW n _

end

theorem Proc.progress_eq (q : Proc) (r : Routine) (m : Nat) :
    let y := (q.moveOff (r.uses true) 1 m).moveOff (r.uses false) 2 m
    q.progress r m = y.gW 3 (y.gR 3 - BitVec.ofNat 48 m) := rfl

theorem Proc.progress_sb (q : Proc) (r : Routine) (m : Nat) : (q.progress r m).sb = q.sb := by
  rw [Proc.progress_eq, Proc.gW_sb, (Proc.moveOff_frame _ _ _ _).2, (Proc.moveOff_frame _ _ _ _).2]

theorem Proc.progress_spec (q : Proc) (r : Routine) (m : Nat) : Progressed q (q.progress r m) r m r.moved where
  count := by
    rw [Proc.progress_eq]
    refine ⟨?_, Proc.gW_settled _ 3 _⟩
    rw [Proc.gW_same, if_neg (by decide), Proc.moveOff_ne m (by decide), Proc.moveOff_ne m (by decide)]
  offA h := by
    obtain ⟨hv, hs⟩ := Proc.moveOff_same (q := q) m h (n := 1) (by decide)
    rw [Proc.progress_eq]
    exact ⟨by rw [Proc.gW_ne _ _ (by decide), Proc.moveOff_ne m (by decide), hv], (hs.moveOff m).gW 3 _⟩
  offB h := by
    obtain ⟨hv, hs⟩ := Proc.moveOff_same (q := q.moveOff (r.uses true) 1 m) m h (n := 2) (by decide)
    rw [Proc.progress_eq]
    exact ⟨by rw [Proc.gW_ne _ _ (by decide), hv, Proc.moveOff_ne m (by decide)], hs.gW 3 _⟩
  effect := by
    rw [Proc.progress_eq]
    refine (Effect.trans ((Proc.moveOff_effect _ _ _ _).mono ?_) ((Proc.moveOff_effect _ _ _ _).mono ?_)).trans ((Effect.gW _ 3 _).mono ?_)
    all_goals simp [Routine.moved]
  ip := by rw [Proc.progress_eq, Proc.gW_ip, (Proc.moveOff_frame _ _ _ _).1, (Proc.moveOff_frame _ _ _ _).1]

/-- What stands after a routine has ended (R105). -/
theorem Proc.routineDone_spec {q x : Proc} {but : List Reg} (he : Effect q x but) :
    x.routineDone.ip = x.ip + 6 ∧ x.routineDone.routine = none ∧ x.routineDone.sb = x.sb ∧ RegsKept q x.routineDone but ∧
      ∀ n, x.Settled n → x.routineDone.gR n = x.gR n := by
  have he' : Effect x { x with routine := none, ip := x.ip + 6 } but := by
    refine Effect.of_eq ?_ ?_ ?_ _ <;> rfl
  obtain ⟨g, f, ls, ok, e⟩ := Proc.finish_eq { x with routine := none, ip := x.ip + 6 } x.ss
  have hd : x.routineDone = _ := e
  refine ⟨by rw [hd], by rw [hd], by rw [hd], (he.trans he').finish x.ss, fun n hn => ?_⟩
  exact Proc.finish_gR { x with routine := none, ip := x.ip + 6 } x.ss n hn

/-- The end of a step that did all its bytes: the routine completes at G3 = 0 and else stands at a marked boundary (R104). -/
theorem Proc.stepEnd_spec {q x : Proc} {r : Routine} {but : List Reg} (he : Effect q x but) (hip : x.ip = q.ip) :
    let y := x.stepEnd r
    (if x.gR 3 = 0 then y.ip = q.ip + 6 ∧ y.routine = none else y.ip = q.ip ∧ y.routine = some { r with started := true, far := [] }) ∧
      y.sb = x.sb ∧ (∀ n, x.Settled n → n ≠ 4 ∨ r.fn ≠ 2 → y.gR n = x.gR n) ∧ (r.fn = 2 → y.gR 4 = if x.gR 3 = 0 then 0 else x.gR 4) ∧
      (r.fn ≠ 2 → RegsKept q y but) := by
  intro y
  by_cases h : x.gR 3 = 0
  · have hy : y = (if r.fn = 2 then x.gW 4 0 else x).routineDone := if_pos h
    rw [hy, if_pos h]
    by_cases hf : r.fn = 2
    · rw [if_pos hf]
      obtain ⟨hip', hr, hsb, -, hg⟩ := Proc.routineDone_spec (Effect.gW x 4 0)
      refine ⟨⟨by rw [hip', Proc.gW_ip, hip], hr⟩, by rw [hsb, Proc.gW_sb], fun n hn hne => ?_, fun _ => ?_, fun e => absurd hf e⟩
      · have hne' : n ≠ 4 := hne.resolve_right fun e => e hf
        rw [hg n (hn.gW 4 0), Proc.gW_ne x 0 hne']
      · rw [hg 4 (Proc.gW_settled x 4 0), Proc.gW_same, if_pos h]
        rfl
    · rw [if_neg hf]
      obtain ⟨hip', hr, hsb, hk, hg⟩ := Proc.routineDone_spec he
      exact ⟨⟨by rw [hip', hip], hr⟩, hsb, fun n hn _ => hg n hn, fun e => absurd e hf, fun _ => hk⟩
  · have hy : y = { x.checkpoint with routine := some { r with started := true, far := [] } } := if_neg h
    rw [hy, if_neg h]
    refine ⟨⟨hip, rfl⟩, rfl, fun n _ _ => rfl, fun _ => (if_neg h).symm, fun _ => ?_⟩
    exact ⟨fun n hn _ => he.g n hn, fun n hn _ => he.f n hn⟩

/-! What the bytes of a step come to (R102). -/

/-- The store of a step's bytes, and the processor once it stands in the store buffer. -/
def Proc.mrEntry (q : Proc) (r : Routine) (a : Acc) (cells : List Host.Cell) : Entry :=
  { sn := q.sn, space := a.space, node := a.node, seg := r.a, acc := 6, persist := a.persist && decide (a.space = 0), comb := false, bytes := cells }

def Proc.mrStored (q : Proc) (r : Routine) (a : Acc) (cells : List Host.Cell) : Proc := { q with sb := q.sb ++ [.entry (q.mrEntry r a cells)] }

section
variable {q : Proc} {r : Routine} {m : Nat}

theorem Proc.routineWork_fill (hf : r.fn = 1) (hm : m ≠ 0) (hr : q.sbRoom 1 = true) (a : Acc) (same : Bool) (src : Nat) (xs ys : List Byte) :
    q.routineWork r (some a) same src m xs ys =
      some (true, (q.mrStored r a (cellsAt a.addr (List.replicate m ((q.gR 4).setWidth 8)))).progress r m) := by
  unfold Proc.routineWork
  rw [hf]
  exact (if_neg hm).trans (if_pos hr)

theorem Proc.routineWork_move (hf : r.fn = 0) (hm : m ≠ 0) (hr : q.sbRoom 1 = true) (a : Acc) (same : Bool) (src : Nat) (xs ys : List Byte) :
    q.routineWork r (some a) same src m xs ys =
      some (true, (q.mrStored r a (moveBytes same src a.addr (ys.take m) 0 [])).progress r m) := by
  unfold Proc.routineWork
  rw [hf]
  exact (if_neg hm).trans (if_pos hr)

theorem Proc.routineWork_equal (hf : r.fn = 2) {xs ys : List Byte} (h : firstDiff (xs.take m) (ys.take m) 0 = none) (wr : Option Acc) (same : Bool)
    (src : Nat) : q.routineWork r wr same src m xs ys = some (true, q.progress r m) := by
  unfold Proc.routineWork
  rw [hf]
  cases wr <;> simp [h]

theorem Proc.routineWork_differ (hf : r.fn = 2) {xs ys : List Byte} {j : Nat} (h : firstDiff (xs.take m) (ys.take m) 0 = some j) (wr : Option Acc)
    (same : Bool) (src : Nat) : q.routineWork r wr same src m xs ys =
      some (false, (Proc.gW (q.progress r j) 4 (if (ys.getD j 0).toNat < (xs.getD j 0).toNat then 1 else BitVec.allOnes 48)).routineDone) := by
  unfold Proc.routineWork
  rw [hf]
  cases wr <;> simp [h]

theorem Proc.routineWork_missed (hf : r.fn = 3) {ys : List Byte} (h : ((ys.take m).findIdx? fun y => y = (q.gR 4).setWidth 8) = none)
    (wr : Option Acc) (same : Bool) (src : Nat) (xs : List Byte) : q.routineWork r wr same src m xs ys = some (true, q.progress r m) := by
  unfold Proc.routineWork
  rw [hf]
  cases wr <;> simp only [show (3 : BitVec 3).toNat = 3 from rfl, h]

theorem Proc.routineWork_found (hf : r.fn = 3) {ys : List Byte} {j : Nat} (h : ((ys.take m).findIdx? fun y => y = (q.gR 4).setWidth 8) = some j)
    (wr : Option Acc) (same : Bool) (src : Nat) (xs : List Byte) :
    q.routineWork r wr same src m xs ys = some (false, (q.progress r j).routineDone) := by
  unfold Proc.routineWork
  rw [hf]
  cases wr <;> simp only [show (3 : BitVec 3).toNat = 3 from rfl, h]

theorem Proc.routineWork_cksum (hf : r.fn = 4) (wr : Option Acc) (same : Bool) (src : Nat) (xs ys : List Byte) :
    q.routineWork r wr same src m xs ys = some (true, (q.progress r m).gW 4 ((crcRun ((q.gR 4).setWidth 32) (ys.take m)).setWidth 48)) := by
  unfold Proc.routineWork
  rw [hf]
  cases wr <;> rfl

end

end Sys2Proof.Machine

namespace Sys2Proof.Machine

open Sys2Proof

/-! The byte functions of the routines (R102). -/

theorem firstDiff_self (xs : List Byte) (i : Nat) : firstDiff xs xs i = none := by
  induction xs generalizing i with
  | nil => rfl
  | cons x xs ih => rw [firstDiff, if_pos rfl, ih]

/-- Lists that agree before index j and differ there have their first difference there. -/
theorem firstDiff_first {xs ys : List Byte} {j : Nat} {x y : Byte} (ha : ∀ i, i < j → xs[i]? = ys[i]?) (hx : xs[j]? = some x)
    (hy : ys[j]? = some y) (hne : x ≠ y) (i : Nat) : firstDiff xs ys i = some (i + j) := by
  induction j generalizing xs ys i with
  | zero =>
    cases xs with
    | nil => cases hx
    | cons x' xs => cases ys with
      | nil => cases hy
      | cons y' ys =>
        cases hx
        cases hy
        rw [firstDiff, if_neg hne, Nat.add_zero]
  | succ j ih =>
    cases xs with
    | nil => cases hx
    | cons x' xs => cases ys with
      | nil => cases hy
      | cons y' ys =>
        have h0 : x' = y' := Option.some.inj (ha 0 (Nat.succ_pos j))
        rw [firstDiff, if_pos h0, ih (fun k hk => ha (k + 1) (Nat.succ_lt_succ hk)) hx hy (i + 1), Nat.add_assoc, Nat.add_comm 1 j]

/-- An insertion behind the last cell appends. -/
theorem spIns_append (w : List Host.Cell) (k : Nat) (v : Byte) (h : ∀ x ∈ w, x.1 < k) : spIns w k v = w ++ [(k, v)] := by
  induction w with
  | nil => rfl
  | cons x w ih =>
    obtain ⟨j, b⟩ := x
    have hj : j < k := h (j, b) (by simp)
    rw [spIns, if_neg (by omega), if_neg (by omega), ih fun y hy => h y (by simp [hy])]
    rfl

/-- A move between different places writes the bytes it read. -/
theorem moveBytes_apart (src dst : Nat) (bs : List Byte) (i : Nat) (w : List Host.Cell) (h : ∀ x ∈ w, x.1 < dst + i) :
    moveBytes false src dst bs i w = w ++ cellsAt (dst + i) bs := by
  induction bs generalizing i w with
  | nil => simp [moveBytes, cellsAt]
  | cons b bs ih =>
    have hw : spIns w (dst + i) b = w ++ [(dst + i, b)] := spIns_append w _ b h
    have hlt : ∀ x ∈ w ++ [(dst + i, b)], x.1 < dst + (i + 1) := by
      intro x hx
      rcases List.mem_append.1 hx with hx | hx
      · have := h x hx
        omega
      · rw [List.mem_singleton.1 hx]
        exact Nat.lt_succ_self _
    show moveBytes false src dst bs (i + 1) (spIns w (dst + i) b) = _
    rw [hw, ih (i + 1) _ hlt, List.append_assoc]
    rfl

/-- A move to the next address that has written `b` so far reads `b` back (R102 note a). -/
theorem moveBytes_next (src : Nat) (b : Byte) (bs : List Byte) (i : Nat) (w : List Host.Cell) (hw : spGet w (src + i) = some b)
    (h : ∀ x ∈ w, x.1 < src + 1 + i) :
    moveBytes true src (src + 1) bs i w = w ++ cellsAt (src + 1 + i) (List.replicate bs.length b) := by
  induction bs generalizing i w with
  | nil => simp [moveBytes, cellsAt]
  | cons c bs ih =>
    have hv : (spGet w (src + i)).getD c = b := by rw [hw, Option.getD_some]
    have hlt : ∀ x ∈ spIns w (src + 1 + i) b, x.1 < src + 1 + (i + 1) := by
      rw [spIns_append w _ b h]
      intro x hx
      rcases List.mem_append.1 hx with hx | hx
      · have := h x hx
        omega
      · rw [List.mem_singleton.1 hx]
        exact Nat.lt_succ_self _
    have hget : spGet (spIns w (src + 1 + i) b) (src + (i + 1)) = some b := by
      rw [show src + (i + 1) = src + 1 + i by omega]
      exact spGet_spIns_same w _ b
    show moveBytes true src (src + 1) bs (i + 1) (spIns w (src + 1 + i) ((spGet w (src + i)).getD c)) = _
    rw [hv, ih (i + 1) _ hget hlt, spIns_append w _ b h, List.append_assoc]
    rfl

theorem moveBytes_onward (src : Nat) (b : Byte) (bs : List Byte) :
    moveBytes true src (src + 1) (b :: bs) 0 [] = cellsAt (src + 1) (List.replicate (bs.length + 1) b) := by
  show moveBytes true src (src + 1) bs 1 [(src + 1, b)] = _
  rw [moveBytes_next src b bs 1 _ (by simp [spGet]) (by simp)]
  rfl

end Sys2Proof.Machine

namespace Sys2Proof.Machine

open Sys2Proof

/-! The instructions that start a routine, and its steps (R101, R104). -/

section
variable {s t : State} {p : BitVec 6} {f : RR} {fn : BitVec 3} {useA useB : Bool}

/-- The instructions of O13: each is `routineOp` of its function. -/
theorem exec_routine {c : BitVec 6 → RR → Instr}
    (hc : (c, fn, useA, useB) ∈ [(Instr.bmove, 0, true, true), (.bfill, 1, true, false), (.bcmp, 2, true, true), (.bscan, 3, false, true),
      (.cksum, 4, false, true)]) (p : BitVec 6) (f : RR) (s : State) : exec (c p f) s = routineOp p f fn useA useB s := by
  simp only [List.mem_cons, Prod.mk.injEq, List.not_mem_nil, or_false] at hc
  obtain ⟨rfl, rfl, rfl, rfl⟩ | ⟨rfl, rfl, rfl, rfl⟩ | ⟨rfl, rfl, rfl, rfl⟩ | ⟨rfl, rfl, rfl, rfl⟩ | ⟨rfl, rfl, rfl, rfl⟩ := hc
  · exact exec_bmove s p f
  · exact exec_bfill s p f
  · exact exec_bcmp s p f
  · exact exec_bscan s p f
  · exact exec_cksum s p f

variable (h : s.Ready p [.g 1, .g 2, .g 3, .g 4] [.g 1, .g 2, .g 3, .g 4] t)
include h

theorem routineOp_starts (hz : f.z = 0) (hb : f.rb = 0) (hd : f.rd.getLsbD 4 = false) (ha : f.ra.getLsbD 4 = false)
    (hA : useA = false → f.rd = 0) (hB : useB = false → f.ra = 0) :
    routineOp p f fn useA useB s =
      .next (t.modProc p fun q => { q with routine := some { fn := fn, a := f.rd.setWidth 4, b := f.ra.setWidth 4, started := false } }) := by
  refine State.issue_ready h _ _ _ (decide_eq_false ?_) (by simp)
  rw [hz, hb, hd, ha]
  simpa using ⟨hA, hB⟩

theorem routineOp_illegal (hi : f.rb ≠ 0 ∨ (useA = false ∧ f.rd ≠ 0) ∨ (useB = false ∧ f.ra ≠ 0)) :
    Raises t p (routineOp p f fn useA useB s) 0x01 :=
  issue_illegal_of h (decide_eq_true (by tauto)) _ _

end

/-- A processor whose routine can take its next step takes it (R104, R135). -/
theorem execMicroRoutineStep_ready {s : State} {p : BitVec 6} {r : Routine} (h : StepReady s p r) (ext : List Byte) (pois : Bool) :
    execMicroRoutineStep p ext pois s = .next (s.routineStep p r ext pois) := by
  obtain ⟨⟨hphase, hhas, hpaused, hrelock, hstop, hfault, htrap, hm, hres, hstep⟩, hrun, hr⟩ := h
  have hruns : s.runs p = true := by
    unfold State.runs
    rw [hphase]
    rfl
  unfold execMicroRoutineStep
  dsimp only
  rw [hr]
  dsimp only
  rw [hruns, hhas, hrun, hpaused, hrelock, hfault, htrap, hm, hres, hstep, hstop]
  rfl

/-- Without a byte left a routine makes no access and completes (R102). -/
theorem State.routineStep_done {s : State} {p : BitVec 6} (h3 : (s.proc p).gR 3 = 0) (r : Routine) (ext : List Byte) (pois : Bool) :
    s.routineStep p r ext pois = s.setProc p (if r.fn = 2 then (s.proc p).gW 4 0 else s.proc p).routineDone :=
  if_pos h3

section
variable {s : State} {p : BitVec 6} {r : Routine} {m : Nat} {x : Proc} {but : List Reg}

theorem State.routineNext_proc (s : State) (p : BitVec 6) (r : Routine) (go : Bool) (x : Proc) :
    OnlyProc s (s.routineNext p r go x) p ∧ (s.routineNext p r go x).proc p = if go then x.stepEnd r else x :=
  ⟨(OnlyProc.setProc s p _).trans (OnlyProc.setProc _ p _), State.proc_setProc _ p _⟩

/-- What a step leaves that did all its bytes (R104). -/
theorem State.routineNext_after (hx : Progressed (s.proc p) x r m but) :
    let q := s.proc p
    let g3 := q.gR 3 - BitVec.ofNat 48 m
    let u := s.routineNext p r true x
    (OnlyProc s u p ∧ (u.proc p).gR 3 = g3 ∧
      (if g3 = 0 then (u.proc p).ip = q.ip + 6 ∧ (u.proc p).routine = none
        else (u.proc p).ip = q.ip ∧ (u.proc p).routine = some { r with started := true, far := [] })) ∧
      (u.proc p).sb = x.sb ∧ (r.uses true = true → (u.proc p).gR 1 = q.gR 1 + BitVec.ofNat 48 m) ∧
      (r.uses false = true → (u.proc p).gR 2 = q.gR 2 + BitVec.ofNat 48 m) ∧ (r.fn = 2 → (u.proc p).gR 4 = if g3 = 0 then 0 else x.gR 4) ∧
      (r.fn ≠ 2 → RegsKept q (u.proc p) but ∧ (x.Settled 4 → (u.proc p).gR 4 = x.gR 4)) := by
  intro q g3 u
  obtain ⟨ho, hu⟩ := State.routineNext_proc s p r true x
  obtain ⟨hend, hsb, hg, h4, hk⟩ := Proc.stepEnd_spec (r := r) hx.effect hx.ip
  rw [hx.count.1] at hend h4
  have hu' : u.proc p = x.stepEnd r := hu
  rw [hu']
  exact ⟨⟨ho, (hg 3 hx.count.2 (.inl (by decide))).trans hx.count.1, hend⟩, hsb,
    fun h => (hg 1 (hx.offA h).2 (.inl (by decide))).trans (hx.offA h).1,
    fun h => (hg 2 (hx.offB h).2 (.inl (by decide))).trans (hx.offB h).1, h4, fun h => ⟨hk h, fun hs => hg 4 hs (.inr h)⟩⟩

/-- What a step leaves that ends its routine after `m` bytes. -/
theorem State.routineNext_stops (hx : Progressed (s.proc p) x r m but) :
    let q := s.proc p
    let u := s.routineNext p r false x.routineDone
    (OnlyProc s u p ∧ (u.proc p).gR 3 = q.gR 3 - BitVec.ofNat 48 m ∧ (u.proc p).ip = q.ip + 6 ∧ (u.proc p).routine = none ∧ (u.proc p).sb = x.sb) ∧
      (r.uses true = true → (u.proc p).gR 1 = q.gR 1 + BitVec.ofNat 48 m) ∧
      (r.uses false = true → (u.proc p).gR 2 = q.gR 2 + BitVec.ofNat 48 m) ∧ RegsKept q (u.proc p) but ∧
      (x.Settled 4 → (u.proc p).gR 4 = x.gR 4) := by
  intro q u
  obtain ⟨ho, hu⟩ := State.routineNext_proc s p r false x.routineDone
  obtain ⟨hip, hr, hsb, hk, hg⟩ := Proc.routineDone_spec hx.effect
  have hu' : u.proc p = x.routineDone := hu
  rw [hu']
  exact ⟨⟨ho, (hg 3 hx.count.2).trans hx.count.1, by rw [hip, hx.ip], hr, hsb⟩, fun h => (hg 1 (hx.offA h).2).trans (hx.offA h).1,
    fun h => (hg 2 (hx.offB h).2).trans (hx.offB h).1, hk, hg 4⟩

end

/-- Progress behind a store of the step's bytes. -/
theorem Proc.mrStored_progress (q : Proc) (r : Routine) (a : Acc) (cells : List Host.Cell) (m : Nat) :
    Progressed q ((q.mrStored r a cells).progress r m) r m r.moved := by
  obtain ⟨hc, hA, hB, he, hip⟩ := Proc.progress_spec (q.mrStored r a cells) r m
  have hs : Effect q (q.mrStored r a cells) r.moved := by
    refine Effect.of_eq ?_ ?_ ?_ _ <;> rfl
  exact ⟨hc, hA, hB, hs.trans he, hip⟩

/-- Progress and a result in G4. -/
theorem Proc.progress_gW (q : Proc) (r : Routine) (m : Nat) (v : Word) :
    Progressed q ((q.progress r m).gW 4 v) r m (r.moved ++ [.g 4]) := by
  obtain ⟨hc, hA, hB, he, hip⟩ := Proc.progress_spec q r m
  refine ⟨⟨(Proc.gW_ne _ v (by decide)).trans hc.1, hc.2.gW 4 v⟩, fun h => ⟨(Proc.gW_ne _ v (by decide)).trans (hA h).1, (hA h).2.gW 4 v⟩,
    fun h => ⟨(Proc.gW_ne _ v (by decide)).trans (hB h).1, (hB h).2.gW 4 v⟩, (he.mono ?_).trans ((Effect.gW _ 4 v).mono ?_),
    (Proc.gW_ip _ 4 v).trans hip⟩
  all_goals simp

end Sys2Proof.Machine

namespace Sys2Proof.Machine

open Sys2Proof

/-! The steps of each routine, from what they read. -/

section
variable {s : State} {p : BitVec 6} {r : Routine} {a b : Acc} {xs ys : List Byte}

/-- The cluster holds the line of `a`, not poisoned, and `bs` is what a step reads there. -/
def State.RoutineHeld (s : State) (p : BitVec 6) (r : Routine) (a : Acc) (bs : List Byte) : Prop :=
  ∃ l c, s.cacheLine a = some l ∧ SoundLine s (cluOf p) l c ∧ c.st.readable = true ∧ c.pois = false ∧ c.data.length = 96 ∧
    bs = (c.data.drop (a.addr % 96)).take (s.routineLen p r)

theorem State.RoutineHeld.reads (h : s.RoutineHeld p r a xs) (h3 : (s.proc p).gR 3 ≠ 0) (ho : (s.proc p).ownStores = []) (isA : Bool) :
    s.RoutineReads p r isA a xs := by
  obtain ⟨l, c, hl, hc, hr, hp, -, rfl⟩ := h
  have hc' : SoundLine (s.setProc p (s.proc p)) (cluOf p) l c := hc
  have ho' : ((s.setProc p (s.proc p)).proc p).ownStores = [] := by rw [State.proc_setProc, ho]
  exact fun ext pois => State.routineRead_held ho' (State.routineLen_pos h3 r).ne' hl hc' hr hp r isA ext pois

theorem State.RoutineHeld.take_eq (h : s.RoutineHeld p r a xs) : xs.take (s.routineLen p r) = xs := by
  obtain ⟨l, c, -, -, -, -, -, rfl⟩ := h
  rw [List.take_take, Nat.min_self]

/-- The segments of each routine, and the registers that it moves on (R102). -/
theorem Routine.moved_a (hf : r.fn = 1) : routineSides r.fn = [(true, .mrWrite)] ∧ r.uses true = true ∧ r.moved = [.g 1, .g 3] := by
  have hs : routineSides r.fn = [(true, .mrWrite)] := by rw [hf]; rfl
  exact ⟨hs, by rw [Routine.uses, hs]; rfl, by rw [Routine.moved, Routine.uses, Routine.uses, hs]; rfl⟩

theorem Routine.moved_b (hf : r.fn = 3 ∨ r.fn = 4) : routineSides r.fn = [(false, .mrRead)] ∧ r.uses false = true ∧ r.moved = [.g 2, .g 3] := by
  have hs : routineSides r.fn = [(false, .mrRead)] := by rcases hf with hf | hf <;> (rw [hf]; rfl)
  exact ⟨hs, by rw [Routine.uses, hs]; rfl, by rw [Routine.moved, Routine.uses, Routine.uses, hs]; rfl⟩

theorem Routine.moved_ab (hf : r.fn = 0 ∨ r.fn = 2) : r.uses true = true ∧ r.uses false = true ∧ r.moved = [.g 1, .g 2, .g 3] := by
  have hA : r.uses true = true := by rcases hf with hf | hf <;> (rw [Routine.uses, hf]; rfl)
  have hB : r.uses false = true := by rcases hf with hf | hf <;> (rw [Routine.uses, hf]; rfl)
  exact ⟨hA, hB, by rw [Routine.moved, hA, hB]; rfl⟩

/-- No routine's progress writes G4 (R104). -/
theorem Proc.progress_g4 (q : Proc) (r : Routine) (m : Nat) : (q.progress r m).gR 4 = q.gR 4 := by
  refine (Proc.progress_spec q r m).effect.g 4 ?_
  cases hA : r.uses true <;> cases hB : r.uses false <;> simp [Routine.moved, hA, hB]

/-- A routine that ends without a byte left: BCMP has found its bytes equal (R102). -/
theorem Proc.routineDone_empty (q : Proc) (r : Routine) :
    let x := (if r.fn = 2 then q.gW 4 0 else q).routineDone
    x.routine = none ∧ x.ip = q.ip + 6 ∧ x.sb = q.sb ∧ (r.fn = 2 → x.gR 4 = 0) ∧ RegsKept q x (if r.fn = 2 then [.g 4] else []) := by
  by_cases hf : r.fn = 2
  · simp only [if_pos hf]
    obtain ⟨hip, hr, hsb, hk, hg⟩ := Proc.routineDone_spec (Effect.gW q 4 0)
    exact ⟨hr, by rw [hip, Proc.gW_ip], by rw [hsb, Proc.gW_sb], fun _ => by rw [hg 4 (Proc.gW_settled q 4 0), Proc.gW_same, if_neg (by decide)], hk⟩
  · simp only [if_neg hf]
    obtain ⟨hip, hr, hsb, hk, -⟩ := Proc.routineDone_spec (Effect.of_eq (q := q) rfl rfl rfl [])
    exact ⟨hr, hip, hsb, fun h => absurd h hf, hk⟩

/-- BSCAN's search over bytes that do not hold the one it looks for (R102). -/
theorem findIdx?_eq_none_of_not_mem {v : Byte} (h : v ∉ ys) : (ys.findIdx? fun y => y = v) = none := by
  rw [List.findIdx?_eq_none_iff]
  exact fun y hy => decide_eq_false fun e => h (e ▸ hy)

/-- Its search over bytes that first hold it at index j. -/
theorem findIdx?_eq_first {v : Byte} {j : Nat} (hj : ys[j]? = some v) (hlt : ∀ i, i < j → ys[i]? ≠ some v) :
    (ys.findIdx? fun y => y = v) = some j := by
  obtain ⟨hl, hv⟩ := List.getElem?_eq_some_iff.1 hj
  rw [List.findIdx?_eq_some_iff_getElem]
  refine ⟨hl, decide_eq_true hv, fun i hi he => hlt i hi ?_⟩
  rw [List.getElem?_eq_getElem (hi.trans hl), of_decide_eq_true he]

end

/-- Settles O13: the issue is `routineOp`; a step is one of the `State.routineStep_` lemmas with the `Proc.routineWork_` lemma of its routine,
and `State.routineNext_after` or `State.routineNext_stops` tells what it leaves. -/
theorem microRoutines : Obligations.MicroRoutines := by
  unfold Obligations.MicroRoutines
  refine ⟨fun s t p f fn c useA useB hc h => ?_, fun s p r ext pois hready => ?_, fun src dst bs => ?_, moveBytes_onward⟩
  · rw [exec_routine hc]
    exact ⟨fun hz hb hd ha hA hB => routineOp_starts h hz hb hd ha hA hB, fun hi => routineOp_illegal h hi⟩
  · intro q n g3 clear held after stops
    rw [exec_microRoutineStep, execMicroRoutineStep_ready hready]
    refine ⟨fun h3 => ?_, fun h3 hcomb hown => ⟨fun d hf hd => ?_, fun a hf ha hroom => ?_, fun a b ys hf ha hb hys hroom => ?_,
      fun a b xs ys hf ha hb hxs hys => ?_, fun b ys hf hb hys => ?_, fun b ys hf hb hys => ?_⟩⟩
    · rw [State.routineStep_done h3]
      refine ⟨_, rfl, OnlyProc.setProc s p _, ?_⟩
      rw [State.proc_setProc]
      exact Proc.routineDone_empty q r
    · obtain ⟨hs, -, -⟩ := Routine.moved_a hf
      rw [State.routineStep_fault h3 hcomb hs hf hd]
      refine ⟨_, rfl, (OnlyProc.setProc s p _).trans (OnlyProc.setProc _ p _), ?_⟩
      rw [State.proc_setProc]
      exact ⟨rfl, rfl, rfl, rfl, rfl⟩
    · obtain ⟨hs, hA, hmoved⟩ := Routine.moved_a hf
      have hn := State.routineLen_pos h3 r
      rw [State.routineStep_write h3 hcomb hs ha (Proc.routineWork_fill hf hn.ne' hroom a false 0 [] [])]
      obtain ⟨hafter, hsb, h1, -, -, hk⟩ := State.routineNext_after (Proc.mrStored_progress q r a (cellsAt a.addr (List.replicate n ((q.gR 4).setWidth 8))) n)
      obtain ⟨hk, -⟩ := hk (by rw [hf]; decide)
      rw [Proc.progress_sb] at hsb
      rw [hmoved] at hk
      exact ⟨_, q.mrEntry r a (cellsAt a.addr (List.replicate n ((q.gR 4).setWidth 8))), rfl, hafter, hn, State.routineLen_le s p r, hsb, rfl, rfl, h1 hA, hk⟩
    · obtain ⟨hA, hB, hmoved⟩ := Routine.moved_ab (.inl hf)
      have hn := State.routineLen_pos h3 r
      have hys : s.RoutineHeld p r b ys := hys
      rw [State.routineStep_move h3 hcomb (by rw [hf]; rfl) ha hb (hys.reads h3 hown false) (Proc.routineWork_move hf hn.ne' hroom a _ b.addr [] ys), hys.take_eq]
      obtain ⟨hafter, hsb, h1, h2, -, hk⟩ :=
        State.routineNext_after (Proc.mrStored_progress q r a (moveBytes (decide (a.space = b.space ∧ a.node = b.node)) b.addr a.addr ys 0 []) n)
      obtain ⟨hk, -⟩ := hk (by rw [hf]; decide)
      rw [Proc.progress_sb] at hsb
      rw [hmoved] at hk
      exact ⟨_, q.mrEntry r a _, rfl, hafter, hsb, rfl, rfl, h1 hA, h2 hB, hk⟩
    · obtain ⟨hA, hB, -⟩ := Routine.moved_ab (.inr hf)
      have hs : routineSides r.fn = [(true, .mrRead), (false, .mrRead)] := by rw [hf]; rfl
      have hxs : s.RoutineHeld p r a xs := hxs
      have hys : s.RoutineHeld p r b ys := hys
      have hstep {go : Bool} {x : Proc} := State.routineStep_compare (go := go) (x := x) h3 hcomb hs ha hb (hxs.reads h3 hown true) (hys.reads h3 hown false)
      refine ⟨fun heq => ?_, fun j x y hlt hx hy hne => ?_⟩
      · rw [hstep (Proc.routineWork_equal hf (by rw [heq, firstDiff_self]) _ _ _)]
        obtain ⟨hafter, hsb, h1, h2, h4, -⟩ := State.routineNext_after (Proc.progress_spec q r n)
        rw [Proc.progress_sb] at hsb
        rw [Proc.progress_g4] at h4
        exact ⟨_, rfl, hafter, hsb, h4 hf, h1 hA, h2 hB⟩
      · have hd : firstDiff (xs.take (s.routineLen p r)) (ys.take (s.routineLen p r)) 0 = some j := by
          rw [hxs.take_eq, hys.take_eq, firstDiff_first hlt hx hy hne, Nat.zero_add]
        rw [hstep (Proc.routineWork_differ hf hd _ _ _)]
        obtain ⟨⟨ho, h3', hip, hr, hsb⟩, h1, h2, -, h4⟩ :=
          State.routineNext_stops (Proc.progress_gW q r j (if (ys.getD j 0).toNat < (xs.getD j 0).toNat then 1 else BitVec.allOnes 48))
        rw [Proc.gW_sb, Proc.progress_sb] at hsb
        refine ⟨_, rfl, ⟨ho, h3', hip, hr, hsb⟩, ?_, h1 hA, h2 hB⟩
        rw [h4 (Proc.gW_settled _ 4 _), Proc.gW_same, if_neg (by decide), List.getD_eq_getElem?_getD, List.getD_eq_getElem?_getD, hx, hy]
        rfl
    · obtain ⟨hs, hB, hmoved⟩ := Routine.moved_b (.inl hf)
      have hys : s.RoutineHeld p r b ys := hys
      have hstep {go : Bool} {x : Proc} := State.routineStep_read (go := go) (x := x) h3 hcomb hs hb (hys.reads h3 hown false)
      refine ⟨fun hmem => ?_, fun j hj hlt => ?_⟩
      · rw [hstep (Proc.routineWork_missed hf (by rw [hys.take_eq]; exact findIdx?_eq_none_of_not_mem hmem) _ _ _ _)]
        obtain ⟨hafter, hsb, -, h2, -, hk⟩ := State.routineNext_after (Proc.progress_spec q r n)
        obtain ⟨hk, -⟩ := hk (by rw [hf]; decide)
        rw [Proc.progress_sb] at hsb
        rw [hmoved] at hk
        exact ⟨_, rfl, hafter, hsb, h2 hB, hk⟩
      · rw [hstep (Proc.routineWork_found hf (by rw [hys.take_eq]; exact findIdx?_eq_first hj hlt) _ _ _ _)]
        obtain ⟨⟨ho, h3', hip, hr, hsb⟩, -, h2, hk, -⟩ := State.routineNext_stops (Proc.progress_spec q r j)
        rw [Proc.progress_sb] at hsb
        rw [hmoved] at hk
        exact ⟨_, rfl, ⟨ho, h3', hip, hr, hsb⟩, h2 hB, hk⟩
    · obtain ⟨hs, hB, hmoved⟩ := Routine.moved_b (.inr hf)
      have hys : s.RoutineHeld p r b ys := hys
      rw [State.routineStep_read h3 hcomb hs hb (hys.reads h3 hown false) (Proc.routineWork_cksum hf _ _ _ _ _), hys.take_eq]
      obtain ⟨hafter, hsb, -, h2, -, hk⟩ := State.routineNext_after (Proc.progress_gW q r n ((crcRun ((q.gR 4).setWidth 32) ys).setWidth 48))
      obtain ⟨hk, h4⟩ := hk (by rw [hf]; decide)
      rw [Proc.gW_sb, Proc.progress_sb] at hsb
      rw [hmoved] at hk
      refine ⟨_, rfl, hafter, hsb, h2 hB, ?_, hk⟩
      rw [h4 (Proc.gW_settled _ 4 _), Proc.gW_same, if_neg (by decide)]
  · exact moveBytes_apart src dst bs 0 [] (by simp)

end Sys2Proof.Machine

namespace Sys2Proof.Machine

open Sys2Proof

/-! CMO (R109): a request to the line's home, or a line that leaves the instruction caches. -/

section
variable {s t : State} {p : BitVec 6} {f : CmoF} {a : Acc} {q1 : Proc}

/-- The processor of a CMO behind its check: what it combined has drained, and the instruction has been done. -/
def State.cmoDone (t : State) (p : BitVec 6) (q1 : Proc) : State := (t.setProc p q1).simple p id

theorem State.cmoDone_spec (hd : (t.proc p).drainFor a 1 = some q1) :
    let q := t.proc p
    let u := t.cmoDone p q1
    OnlyProc t u p ∧ (u.proc p).ip = q.ip + 6 ∧ (u.proc p).cmos = q.cmos ∧ RegsKept q (u.proc p) [] := by
  intro q u
  have hu : u.proc p = Proc.finish { q1 with ip := q1.ip + 6 } q1.ss := by
    show ((t.setProc p q1).simple p id).proc p = _
    rw [State.proc_simple, State.proc_setProc, id]
  have he : Effect q { q1 with ip := q1.ip + 6 } [] := by
    rw [Proc.drainFor_eq hd]
    refine Effect.of_eq ?_ ?_ ?_ _ <;> rfl
  have hip : q1.ip = q.ip := by rw [Proc.drainFor_eq hd]
  have hcmos : q1.cmos = q.cmos := by rw [Proc.drainFor_eq hd]
  have ho : OnlyProc (t.setProc p q1) ((t.setProc p q1).simple p id) p := OnlyProc.modProc _ p _
  refine ⟨(OnlyProc.setProc t p q1).trans ho, ?_⟩
  rw [hu]
  refine ⟨?_, ?_, he.finish q1.ss⟩
  · rw [(Proc.finish_keeps _ _).1, hip]
  · obtain ⟨g, f, ls, ok, e⟩ := Proc.finish_eq { q1 with ip := q1.ip + 6 } q1.ss
    rw [e, ← hcmos]

variable (h : s.Ready p [.g f.ra] [] t) (hu : (t.proc p).user = false)
include h hu

theorem cmoOp_fault {d : Due} (kind : MK)
    (ha : t.access p .cmo f.seg ((t.proc p).gR f.ra + f.disp.signExtend 48) 1 1 (t.proc p).ip = .error d) :
    cmoOp p f kind s = .next (t.setFault p d) := by
  rw [cmoOp, State.issue_ready h _ _ _ rfl fun _ => hu]
  dsimp only
  rw [effOff, ha]

theorem execCmoIinv_fault {d : Due}
    (ha : t.access p .cmo f.seg ((t.proc p).gR f.ra + f.disp.signExtend 48) 1 1 (t.proc p).ip = .error d) :
    execCmoIinv p f s = .next (t.setFault p d) := by
  rw [execCmoIinv, State.issue_ready h _ _ _ rfl fun _ => hu]
  dsimp only
  rw [effOff, ha]

variable (ha : t.access p .cmo f.seg ((t.proc p).gR f.ra + f.disp.signExtend 48) 1 1 (t.proc p).ip = .ok a)
  (hd : (t.proc p).drainFor a 1 = some q1)
include ha hd

/-- Of an address that no cache may hold a CMO only goes on. -/
theorem cmoOp_uncached (kind : MK) (hl : t.cacheLine a = none) : cmoOp p f kind s = .next (t.cmoDone p q1) := by
  have hl' : (t.cmoDone p q1).cacheLine a = none := hl
  rw [cmoOp, State.issue_ready h _ _ _ rfl fun _ => hu]
  dsimp only
  rw [effOff, ha]
  dsimp only
  rw [hd]
  dsimp only
  rw [← State.cmoDone, hl']

theorem execCmoIinv_uncached (hl : t.cacheLine a = none) : execCmoIinv p f s = .next (t.cmoDone p q1) := by
  have hl' : (t.cmoDone p q1).cacheLine a = none := hl
  rw [execCmoIinv, State.issue_ready h _ _ _ rfl fun _ => hu]
  dsimp only
  rw [effOff, ha]
  dsimp only
  rw [hd]
  dsimp only
  rw [← State.cmoDone, hl']

/-- CLEAN and CLINV count a request and send it to the line's home. -/
theorem cmoOp_sends {l : Nat} (kind : MK) (hl : t.cacheLine a = some l) :
    cmoOp p f kind s = .next (((t.cmoDone p q1).modProc p fun q => { q with cmos := q.cmos + 1 }).send
      { src := .ag (cluAg (cluOf p)), dst := t.homeNode l, kind := kind, line := l, req := cluAg (cluOf p), tag := p.toNat + 1, mast := some p.toNat }) := by
  have hl' : (t.cmoDone p q1).cacheLine a = some l := hl
  rw [cmoOp, State.issue_ready h _ _ _ rfl fun _ => hu]
  dsimp only
  rw [effOff, ha]
  dsimp only
  rw [hd]
  dsimp only
  rw [← State.cmoDone, hl']
  rfl

end

/-- A line leaves the instruction cache of core n. -/
def State.dropIc (s : State) (n l : Nat) : State := s.modCore n fun c => { c with ic := spDel c.ic l }

theorem State.core_modCore_same (s : State) (n : Nat) (f : CoreS → CoreS) : (s.modCore n f).core n = f (s.core n) := by
  simp [State.core, State.modCore, spGetD, spGet_spIns_same]

theorem State.core_modCore_ne (s : State) {n m : Nat} (f : CoreS → CoreS) (h : m ≠ n) : (s.modCore n f).core m = s.core m := by
  simp [State.core, State.modCore, spGetD, spGet_spIns_ne _ _ h]

theorem State.clu_modClu_same (s : State) (k : Nat) (f : Clu → Clu) : (s.modClu k f).clu k = f (s.clu k) := by
  simp [State.clu, State.modClu, spGetD, spGet_spIns_same]

/-- What core m holds after a line has left the instruction cache of core n. -/
theorem State.dropIc_core (s : State) (n l m : Nat) :
    let c := (s.dropIc n l).core m
    c.dc = (s.core m).dc ∧ (∀ j, j ≠ l → spGet c.ic j = spGet (s.core m).ic j) ∧ (m = n ∨ spGet (s.core m).ic l = none → spGet c.ic l = none) := by
  intro c
  by_cases h : m = n
  · have hc : c = { s.core m with ic := spDel (s.core m).ic l } := by
      subst h
      exact State.core_modCore_same s m _
    rw [hc]
    exact ⟨rfl, fun j hj => spGet_spDel_ne _ hj, fun _ => spGet_spDel_same _ l⟩
  · have hc : c = s.core m := State.core_modCore_ne s _ h
    rw [hc]
    exact ⟨rfl, fun _ _ => rfl, fun hm => hm.resolve_left h⟩

/-- IINV drops a line from the instruction cache of the processor's core and of its checker's. -/
def State.iinv (s : State) (p : BitVec 6) (l : Nat) : State :=
  match s.chkCore p with
  | some n => (s.dropIc (s.hostCore p) l).dropIc n l
  | none => s.dropIc (s.hostCore p) l

theorem State.iinv_spec (s : State) (p : BitVec 6) (l : Nat) :
    let n := s.hostCore p
    let u := s.iinv p l
    (∃ cores, u = { s with cores := cores }) ∧ spGet (u.core n).ic l = none ∧
      (∀ j, j ≠ l → spGet (u.core n).ic j = spGet (s.core n).ic j) ∧ (u.core n).dc = (s.core n).dc := by
  intro n u
  obtain ⟨hdc, hic, hl⟩ := State.dropIc_core s n l n
  cases hk : s.chkCore p with
  | none =>
    have hu : u = s.dropIc n l := by
      show s.iinv p l = _
      rw [State.iinv, hk]
    rw [hu]
    exact ⟨⟨_, rfl⟩, hl (.inl rfl), hic, hdc⟩
  | some m =>
    have hu : u = (s.dropIc n l).dropIc m l := by
      show s.iinv p l = _
      rw [State.iinv, hk]
    obtain ⟨hdc', hic', hl'⟩ := State.dropIc_core (s.dropIc n l) m l n
    rw [hu]
    exact ⟨⟨_, rfl⟩, hl' (.inr (hl (.inl rfl))), fun j hj => (hic' j hj).trans (hic j hj), hdc'.trans hdc⟩

theorem execCmoIinv_drops {s t : State} {p : BitVec 6} {f : CmoF} {a : Acc} {q1 : Proc} {l : Nat} (h : s.Ready p [.g f.ra] [] t)
    (hu : (t.proc p).user = false)
    (ha : t.access p .cmo f.seg ((t.proc p).gR f.ra + f.disp.signExtend 48) 1 1 (t.proc p).ip = .ok a)
    (hd : (t.proc p).drainFor a 1 = some q1) (hl : t.cacheLine a = some l) : execCmoIinv p f s = .next ((t.cmoDone p q1).iinv p l) := by
  have hl' : (t.cmoDone p q1).cacheLine a = some l := hl
  rw [execCmoIinv, State.issue_ready h _ _ _ rfl fun _ => hu]
  dsimp only
  rw [effOff, ha]
  dsimp only
  rw [hd]
  dsimp only
  rw [← State.cmoDone, hl']
  rfl

/-- The three CMO instructions: their fault, and what they do of an address that no cache may hold. -/
theorem exec_cmo {c : BitVec 6 → CmoF → Instr} (hc : c ∈ [Instr.cmoClean, .cmoClinv, .cmoIinv]) (p : BitVec 6) (f : CmoF) (s : State) :
    (∃ kind, exec (c p f) s = cmoOp p f kind s) ∨ exec (c p f) s = execCmoIinv p f s := by
  simp only [List.mem_cons, List.not_mem_nil, or_false] at hc
  obtain rfl | rfl | rfl := hc
  · exact .inl ⟨.cln, exec_cmoClean s p f⟩
  · exact .inl ⟨.clInv, exec_cmoClinv s p f⟩
  · exact .inr (exec_cmoIinv s p f)

/-- CLEAN and CLINV are the requests Cln and ClInv (R205). -/
theorem exec_cmoRequest {c : BitVec 6 → CmoF → Instr} {kind : MK} (hc : (c, kind) ∈ [(Instr.cmoClean, MK.cln), (.cmoClinv, .clInv)])
    (p : BitVec 6) (f : CmoF) (s : State) : exec (c p f) s = cmoOp p f kind s := by
  simp only [List.mem_cons, Prod.mk.injEq, List.not_mem_nil, or_false] at hc
  obtain ⟨rfl, rfl⟩ | ⟨rfl, rfl⟩ := hc
  · exact exec_cmoClean s p f
  · exact exec_cmoClinv s p f

/-! CMR (R110). -/

/-- An instruction that computes from a state whose processor was put back as it stood. -/
theorem Computed.of_setProc_self {t : State} {p : BitVec 6} {r : Res} {rd : BitVec 5} {v : Word} {ov : Bool}
    (h : Computed (t.setProc p (t.proc p)) p r rd v ov) : Computed t p r rd v ov := by
  obtain ⟨u, hr, ho, hrest⟩ := h
  rw [State.proc_setProc] at hrest
  exact ⟨u, hr, (OnlyProc.setProc t p _).trans ho, hrest⟩

section
variable {s t : State} {p : BitVec 6} {f : CmrF} (hfn : f.fnMid = 0) (hz : f.z = 0) (h : s.Ready p [.g f.ra, .g f.rb] [.g f.rd] t)
  (hu : (t.proc p).user = false)
include hfn hz h hu

theorem cmrOp_empty (op : BitVec 4) (hb : (t.proc p).gR f.rb = 0) : Computed t p (cmrOp p f op s) f.rd 1 false := by
  rw [cmrOp, State.issue_ready h _ _ _ (by simp [hfn, hz]) fun _ => hu]
  dsimp only
  rw [if_pos hb]
  exact State.simple_computed t p _ _ _ _ rfl

variable (hb : (t.proc p).gR f.rb ≠ 0)
include hb

theorem cmrOp_fault (op : BitVec 4) {d : Due} (hd : t.cmrCheck p f.seg ((t.proc p).gR f.ra) ((t.proc p).gR f.rb) = some d) :
    cmrOp p f op s = .next (t.setFault p d) := by
  rw [cmrOp, State.issue_ready h _ _ _ (by simp [hfn, hz]) fun _ => hu]
  dsimp only
  rw [if_neg hb, hd]

variable (hd : t.cmrCheck p f.seg ((t.proc p).gR f.ra) ((t.proc p).gR f.rb) = none) (hc : (t.proc p).comb = [])
include hd hc

theorem cmrOp_busy (op : BitVec 4) (he : (t.clu (cluOf p)).engineBusy = true) : Computed t p (cmrOp p f op s) f.rd 0 false := by
  have he' : ((t.setProc p (t.proc p)).clu (cluOf p)).engineBusy = true := he
  rw [cmrOp, State.issue_ready h _ _ _ (by simp [hfn, hz]) fun _ => hu]
  dsimp only
  rw [if_neg hb, hd]
  dsimp only
  rw [Proc.drainComb_nil hc]
  dsimp only
  rw [if_pos he']
  exact (State.simple_computed _ p _ _ _ _ rfl).of_setProc_self

/-- The job that a CMR starts. -/
def cmrJob (q : Proc) (p : BitVec 6) (f : CmrF) (op : BitVec 4) : Job :=
  ctlJob (.proc p) (.range op ((q.seg f.seg.toNat).w0.toNat + (q.gR f.ra).toNat) (q.gR f.rb).toNat)

theorem cmrOp_starts (op : BitVec 4) (he : (t.clu (cluOf p)).engineBusy = false) :
    let j := cmrJob (t.proc p) p f op
    let w := ((t.setProc p (t.proc p)).jobRuns (cluOf p) j).modClu (cluOf p) fun c => { c with job := some j }
    Computed w p (cmrOp p f op s) f.rd 1 false := by
  have he' : ¬ ((t.setProc p (t.proc p)).clu (cluOf p)).engineBusy = true := by
    rw [show (t.setProc p (t.proc p)).clu (cluOf p) = t.clu (cluOf p) from rfl, he]
    decide
  intro j w
  rw [cmrOp, State.issue_ready h _ _ _ (by simp [hfn, hz]) fun _ => hu]
  dsimp only
  rw [if_neg hb, hd]
  dsimp only
  rw [Proc.drainComb_nil hc]
  dsimp only
  rw [if_neg he']
  exact State.simple_computed w p _ _ _ _ rfl

end

theorem exec_cmr {c : BitVec 6 → CmrF → Instr} {op : BitVec 4}
    (hc : (c, op) ∈ [(Instr.cmrClean, 0), (.cmrCleanInvalidate, 1), (.cmrPreload, 2)]) (p : BitVec 6) (f : CmrF) (s : State) :
    exec (c p f) s = cmrOp p f op s := by
  simp only [List.mem_cons, Prod.mk.injEq, List.not_mem_nil, or_false] at hc
  obtain ⟨rfl, rfl⟩ | ⟨rfl, rfl⟩ | ⟨rfl, rfl⟩ := hc
  · exact exec_cmrClean s p f
  · exact exec_cmrCleanInvalidate s p f
  · exact exec_cmrPreload s p f

end Sys2Proof.Machine

namespace Sys2Proof.Machine

open Sys2Proof

/-! The end of a job of the maintenance engine (R181, R183, R186). -/

theorem OffLine.cc (k : Nat) {o : Nat} (h : o < 0x80) : OffLine (aCc k o) := by
  intro i j _ hj
  unfold aCc aClu
  omega

theorem aCc_ne (k : Nat) {a b : Nat} (h : a ≠ b) : aCc k a ≠ aCc k b := by
  unfold aCc
  omega

/-- A cluster block's event reaches device space alone. -/
theorem State.raiseIn_eq (s : State) (k a : Nat) : ∃ dev, s.raiseIn k a = { s with dev := dev } := by
  unfold State.raiseIn State.pend
  dsimp only
  split
  · split
    · exact ⟨_, rfl⟩
    · exact ⟨_, rfl⟩
  · exact ⟨_, rfl⟩

theorem State.rg_raiseIn (s : State) (k b : Nat) {a : Nat} (d : Word) (h : OffLine a) : (s.raiseIn k b).rg a d = s.rg a d := by
  unfold State.raiseIn
  dsimp only
  split
  · exact State.rg_pend s k _ d h
  · rfl

/-- The status of a job reaches CR 97 of the processor that started it. -/
def State.tellStatus (s : State) (j : Job) (status : Nat) : State :=
  if j.byProc && decide (j.master.toNat < 64) then
    s.modProc (j.master.setWidth 6) fun q => q.crSet 97 (setFld (q.crGet 97) 15 8 status)
  else s

theorem State.tellStatus_spec (s : State) (j : Job) (status : Nat) :
    (∃ procs, s.tellStatus j status = { s with procs := procs }) ∧
      ∀ p, (s.tellStatus j status).proc p = s.proc p ∨ ∃ v, (s.tellStatus j status).proc p = (s.proc p).crSet 97 v := by
  unfold State.tellStatus
  split
  · refine ⟨⟨_, rfl⟩, fun p => ?_⟩
    by_cases h : p = j.master.setWidth 6
    · subst h
      exact .inr ⟨_, State.proc_modProc _ _ _⟩
    · exact .inl (State.proc_modProc_ne s _ h)
  · exact ⟨⟨_, rfl⟩, fun p => .inl rfl⟩

/-- What stands after a job of cluster k has ended with a status. -/
structure JobEnded (s u : State) (k : Nat) (status : Nat) : Prop where
  state : ∃ procs clus dev, u = { s with procs := procs, clus := clus, dev := dev }
  clu : u.clu k = { s.clu k with job := none }
  proc : ∀ p, u.proc p = s.proc p ∨ ∃ v, u.proc p = (s.proc p).crSet 97 v
  status : fld (u.rg (aCc k 0x38)) 15 8 = status % 2 ^ 8
  rg : ∀ o d, o < 0x80 → o ≠ 0x38 → u.rg (aCc k o) d = s.rg (aCc k o) d

theorem State.jobEnd_spec (s : State) (k : Nat) (j : Job) (status : Nat) : JobEnded s (s.jobEnd k j status) k status := by
  let v := s.jobRuns k j
  let w := v.sg (aCc k 0x38) (setFld (v.rg (aCc k 0x38)) 15 8 status)
  let x := (w.tellStatus j status).modClu k fun c => { c with job := none }
  have hu : s.jobEnd k j status = x.raiseIn k (aCc k 0x40) := rfl
  obtain ⟨⟨procs, hw⟩, hp⟩ := State.tellStatus_spec w j status
  obtain ⟨dev, hr⟩ := State.raiseIn_eq x k (aCc k 0x40)
  obtain ⟨d, hd⟩ : ∃ d, w = { s with dev := d } := ⟨_, rfl⟩
  have hx : x = { s with procs := procs, clus := (s.modClu k fun c => { c with job := none }).clus, dev := d } := by
    show (w.tellStatus j status).modClu k _ = _
    rw [hw, hd]
    rfl
  have hrg (a : Nat) (v : Word) : x.rg a v = w.rg a v := by
    rw [hx, hd]
    rfl
  rw [hu]
  refine ⟨⟨procs, (s.modClu k fun c => { c with job := none }).clus, dev, ?_⟩, ?_, ?_, ?_, fun o d ho hne => ?_⟩
  · rw [hr, hx]
  · have hclu : x.clu k = { s.clu k with job := none } := by
      rw [hx]
      exact State.clu_modClu_same s k fun c => { c with job := none }
    rw [hr]
    exact hclu
  · rw [hr]
    exact hp
  · rw [State.rg_raiseIn x k _ 0 (OffLine.cc k (by decide)), hrg, State.rg_sg_same]
    exact fld_setFld_same _ 15 8 status (by decide)
  · rw [State.rg_raiseIn x k _ d (OffLine.cc k ho), hrg, State.rg_sg_ne _ _ _ _ (aCc_ne k hne)]
    exact State.rg_sg_ne _ _ _ _ (aCc_ne k hne)

theorem JobEnded.ms {s u : State} {k status : Nat} (h : JobEnded s u k status) : u.ms = s.ms := by
  obtain ⟨procs, clus, dev, rfl⟩ := h.state
  rfl

theorem JobEnded.core {s u : State} {k status : Nat} (h : JobEnded s u k status) (n : Nat) : u.core n = s.core n := by
  obtain ⟨procs, clus, dev, rfl⟩ := h.state
  rfl

/-- A job's end leaves the registers of every processor but CR 97. -/
theorem JobEnded.proc_frame {s u : State} {k status : Nat} (h : JobEnded s u k status) (p : BitVec 6) :
    (u.proc p).g = (s.proc p).g ∧ (u.proc p).dst = (s.proc p).dst := by
  rcases h.proc p with e | ⟨v, e⟩
  · rw [e]
    exact ⟨rfl, rfl⟩
  · rw [e, Proc.dst, Proc.crGet_crSet_ne _ _ (by decide)]
    exact ⟨rfl, rfl⟩

/-! The next control job (R184, R192). -/

section
variable {s : State} {k : Nat} {j : Job} {rest : List Job} (hj : (s.clu k).job = none) (hq : (s.clu k).ctlq = j :: rest)
include hj hq

/-- The engine takes its next control job. -/
def State.ctlTaken (s : State) (k : Nat) (j : Job) (rest : List Job) : State :=
  (s.jobRuns k j).modClu k fun c => { c with job := some j, ctlq := rest }

theorem State.ctlStart_taken (h : ∀ r, j.k = .power r → popFld (r.zeroExtend 48) 15 0 ≤ 12 ∧
      r &&& ~~~((s.rg (aCc k 0x18)).extractLsb' 16 16) &&& (s.rg (aCc k 0x10)).extractLsb' 0 16 = 0) :
    s.ctlStart k = s.ctlTaken k j rest := by
  have hrg {o : Nat} (ho : o ≠ 0x38) : (s.ctlTaken k j rest).rg (aCc k o) = s.rg (aCc k o) := State.rg_sg_ne _ _ _ _ (aCc_ne k ho)
  unfold State.ctlStart
  dsimp only
  rw [hj, hq]
  dsimp only
  rw [← State.ctlTaken, hrg (by decide), hrg (by decide)]
  split
  · next r hr =>
    obtain ⟨hpop, hlock⟩ := h r hr
    rw [if_neg (Nat.not_lt.2 hpop), if_neg (not_not_intro hlock)]
  · rfl

theorem State.ctlStart_many {r : BitVec 16} (hr : j.k = .power r) (h : 12 < popFld (r.zeroExtend 48) 15 0) :
    let off : BitVec 16 := (s.rg (aCc k 0x18)).extractLsb' 16 16
    s.ctlStart k = ((s.ctlTaken k j rest).sg (aCc k 0x18) (setFld (s.rg (aCc k 0x18)) 15 0 off.toNat)).jobEnd k j 4 := by
  have hrg : (s.ctlTaken k j rest).rg (aCc k 0x18) = s.rg (aCc k 0x18) := State.rg_sg_ne _ _ _ _ (aCc_ne k (by decide))
  intro off
  unfold State.ctlStart
  dsimp only
  rw [hj, hq]
  dsimp only
  rw [← State.ctlTaken, hrg, hr]
  exact if_pos h

end

theorem State.ctlTaken_clu (s : State) (k : Nat) (j : Job) (rest : List Job) :
    (s.ctlTaken k j rest).clu k = { s.clu k with job := some j, ctlq := rest } := State.clu_modClu_same _ _ _

/-- MASTER names the agent of the job that runs (R183). -/
theorem State.jobRuns_master (s : State) (k : Nat) (j : Job) : fld ((s.jobRuns k j).rg (aCc k 0x38)) 27 16 = j.master.toNat := by
  rw [State.jobRuns, State.rg_sg_same, fld_setFld_same _ _ _ _ (by decide)]
  exact Nat.mod_eq_of_lt j.master.isLt

/-- REQ put back to OFF. -/
theorem extractLsb'_setFld_low (v : Word) (x : BitVec 16) : (setFld v 15 0 x.toNat).extractLsb' 0 16 = x := by
  refine BitVec.eq_of_getLsbD_eq fun i hi => ?_
  rw [BitVec.getLsbD_extractLsb', getLsbD_setFld _ _ _ _ _ (by omega)]
  rw [if_pos (by omega), decide_eq_true hi, Bool.true_and, Nat.zero_add, Nat.sub_zero, BitVec.testBit_toNat]

/-! A job over an L1 data cache (R187). -/

theorem State.l1Purge_spec {s : State} (h : NoInjection s) (p : BitVec 6) :
    CoresOnly s (s.l1Purge p).2 ∧ ((s.l1Purge p).2.core (s.hostCore p)).dc = [] := by
  let n := s.hostCore p
  have hfix : (s.core n).dc.foldl (fun s (l, x) => if x.st = .m then s.l1dCheck n l else s) s = s := by
    refine List.foldl_fixed' (a := s) ?_ _
    rintro ⟨l, x⟩
    dsimp only
    split
    · exact State.l1dCheck_clean h n l
    · rfl
  let v := (s.core n).dc.foldl (fun s (l, _) => s.killResvCore n l) s
  have hv : CoresOnly s v := CoresOnly.foldl _ (fun s (l, _) => CoresOnly.killResvCore s n l) _ s
  have hw := hv.trans (CoresOnly.modCore v n fun q => { q with dc := [] })
  have hdc : ((v.modCore n fun q => { q with dc := [] }).core n).dc = [] := by rw [State.core_modCore_same]
  unfold State.l1Purge
  dsimp only
  rw [hfix]
  split
  · next c _ =>
    refine ⟨hw.trans (CoresOnly.modCore _ c _), ?_⟩
    by_cases hn : n = c
    · rw [← hn, State.core_modCore_same]
    · rw [State.core_modCore_ne _ _ hn]
      exact hdc
  · exact ⟨hw, hdc⟩

theorem State.maintEnd_l1 {s : State} {k : Nat} {j : Job} {slot : BitVec 3} (hj : (s.clu k).job = some j) (hk : j.k = .l1 slot) :
    let p : BitVec 6 := BitVec.ofNat 6 (8 * k + slot.toNat)
    s.maintEnd k = ((s.l1Purge p).2.modProc p fun q => q.setDst 0).jobEnd k j (poisonStatus (s.l1Purge p).1) := by
  unfold State.maintEnd
  rw [hj]
  dsimp only
  rw [hk]

theorem Proc.dst_setDst (q : Proc) (v : Nat) : (q.setDst v).dst = v % 4 := by
  rw [Proc.dst, Proc.setDst, Proc.crGet_crSet_same, fld_setFld_same _ _ _ _ (by decide)]
  rfl

/-! A job over a cluster cache (R189). -/

/-- The L1 caches of a cluster's nine cores are emptied. -/
def State.emptyCores (s : State) (k : Nat) : State :=
  (List.range 9).foldl (fun s c => s.modCore (9 * k + c) fun q => { q with dc := [], ic := [] }) s

theorem CoresOnly.emptyCores (s : State) (k : Nat) : CoresOnly s (s.emptyCores k) :=
  CoresOnly.foldl _ (fun s c => CoresOnly.modCore s (9 * k + c) _) _ s

/-- The cluster's caches are emptied, and its STATE is 0. -/
def State.cacheOff (s : State) (k : Nat) : State := ((s.emptyCores k).modClu k fun q => { q with lines := [] }).sg (aCc k 0) 0 1

theorem State.cacheOff_spec (s : State) (k : Nat) :
    let u := s.cacheOff k
    u.ms = s.ms ∧ (u.clu k).lines = [] ∧ u.ccState k = 0 := by
  obtain ⟨v, hv⟩ : ∃ v, v = s.emptyCores k := ⟨_, rfl⟩
  have hu : s.cacheOff k = (v.modClu k fun q => { q with lines := [] }).sg (aCc k 0) 0 1 := by rw [hv, State.cacheOff]
  have hms : v.ms = s.ms := hv ▸ (CoresOnly.emptyCores s k).ms
  have hlines : ((v.modClu k fun q => { q with lines := [] }).clu k).lines = [] := by rw [State.clu_modClu_same]
  rw [hu]
  refine ⟨hms, hlines, ?_⟩
  rw [State.ccState, State.rg_sg_same]
  rfl

theorem State.maintEnd_cache {s : State} {k : Nat} {j : Job} (hj : (s.clu k).job = some j) (hk : j.k = .cache)
    (hq : (s.cluQuiet k fun _ _ => true) = true) :
    let x := s.purgeAll k fun _ _ => true
    s.maintEnd k = (x.2.cacheOff k).jobEnd k j (poisonStatus x.1) := by
  unfold State.maintEnd
  rw [hj]
  dsimp only
  rw [hk]
  exact if_pos hq

/-- What a job over a cluster cache leaves, whatever its lines were. -/
theorem State.cacheOff_jobEnd (s : State) (k : Nat) (j : Job) (status : Nat) :
    let u := (s.cacheOff k).jobEnd k j status
    (u.clu k).job = none ∧ (u.clu k).lines = [] ∧ u.ccState k = 0 ∧ u.ms = s.ms ∧ fld (u.rg (aCc k 0x38)) 15 8 = status % 2 ^ 8 := by
  intro u
  obtain ⟨hms, hl, hst⟩ := State.cacheOff_spec s k
  have h := State.jobEnd_spec (s.cacheOff k) k j status
  refine ⟨?_, ?_, ?_, h.ms.trans hms, h.status⟩
  · rw [h.clu]
  · rw [h.clu]
    exact hl
  · rw [State.ccState, h.rg 0 1 (by decide) (by decide)]
    exact hst

/-! A whole line in the array (R233, R237). -/

theorem spGet_cellsAt (k : Nat) (d : List Byte) (i : Nat) : spGet (cellsAt k d) (k + i) = d[i]? := by
  induction d generalizing k i with
  | nil => rfl
  | cons b d ih =>
    cases i with
    | zero => simp [cellsAt, spGet]
    | succ i =>
      have := ih (k + 1) i
      rw [cellsAt, spGet, if_neg (by omega), ← Nat.add_assoc, Nat.add_right_comm, this]
      rfl

theorem lt_of_mem_cellsAt {k : Nat} {d : List Byte} {x : Host.Cell} (h : x ∈ cellsAt k d) : x.1 < k + d.length := by
  induction d generalizing k with
  | nil => cases h
  | cons b d ih =>
    rw [List.length_cons]
    rcases List.mem_cons.1 h with rfl | h
    · exact Nat.lt_add_of_pos_right (Nat.succ_pos _)
    · have := ih h
      omega

/-- Bytes put one after the other are read back, and no other one changes. -/
theorem spGetD_foldl_cellsAt (base k : Nat) (d : List Byte) (m : List Host.Cell) (a : Nat) :
    spGetD 0 ((cellsAt k d).foldl (fun m (o, b) => spPut 0 m (base + o) b) m) a =
      if base + k ≤ a ∧ a < base + k + d.length then d.getD (a - (base + k)) 0 else spGetD 0 m a := by
  induction d generalizing k m with
  | nil => rw [if_neg (by simp)]; rfl
  | cons b d ih =>
    rw [cellsAt, List.foldl_cons, ih, List.length_cons]
    by_cases h : a = base + k
    · subst h
      rw [if_neg (by omega), if_pos (by omega), spGetD_spPut_same, Nat.sub_self]
      rfl
    · rw [spGetD_spPut_ne _ _ _ h]
      by_cases hr : base + (k + 1) ≤ a ∧ a < base + (k + 1) + d.length
      · rw [if_pos hr, if_pos (by omega), show a - (base + k) = a - (base + (k + 1)) + 1 by omega]
        rfl
      · rw [if_neg hr, if_neg (by omega)]

/-- What a whole line that is not poisoned leaves in the main store. -/
theorem State.arrayLine_ms {s : State} {l : Nat} {d : List Byte} (hf : s.fenced l = false) (hl : l < s.part.msLines) (hd : d.length = 96)
    (master : Nat) : (s.arrayLine l d false master).ms = (cellsAt 0 d).foldl (fun m (o, b) => spPut 0 m (96 * l + o) b) s.ms := by
  have hget {o : Nat} (ho : o < 96) : (spGet (cellsAt 0 d) o).isSome = true := by
    have := spGet_cellsAt 0 d o
    rw [Nat.zero_add] at this
    rw [this, List.getElem?_eq_getElem (by omega)]
    rfl
  have hfilter : (cellsAt 0 d).filter (fun x => decide (x.1 < 96)) = cellsAt 0 d := by
    refine List.filter_eq_self.2 fun x hx => decide_eq_true ?_
    have := lt_of_mem_cellsAt hx
    omega
  have hmerge : s.mergeRead l (cellsAt 0 d) master = s := by
    refine if_neg ?_
    rw [Bool.not_eq_true, List.any_eq_false]
    intro w hw
    have hw16 : w < 16 := List.mem_range.1 (List.mem_filter.1 hw).1
    rw [Bool.not_eq_true, List.any_eq_false]
    intro i hi
    have := List.mem_range.1 hi
    rw [← Option.not_isSome, hget (by omega)]
    decide
  have hfull : decide (((List.range 96).all fun o => (spGet (cellsAt 0 d) o).isSome) = true) = true := by
    refine decide_eq_true (List.all_eq_true.2 fun o ho => hget (List.mem_range.1 ho))
  unfold State.arrayLine State.arrayWrite
  rw [if_neg (by simp [hf, hl])]
  dsimp only
  rw [hfilter, hmerge, hf, hfull]
  simp only [Bool.false_eq_true, if_false, Bool.not_true, Bool.and_false]
  rw [foldl_keeps State.ms _ fun a b => State.inject_ms a l b]

theorem Part.msLines_lt (p : Part) : p.msLines < 2 ^ 44 := by
  cases p <;> decide

/-! One dirty line of a cluster cache leaves it (R189). -/

theorem State.setDir_ms (s : State) (l : Nat) (d : Dir) : (s.setDir l d).ms = s.ms := by
  unfold State.setDir
  split <;> rfl

/-- The directory's loss of a line of the module's own store touches no byte. -/
theorem State.dirLose_ms (s : State) {l : Nat} (hl : l < 2 ^ 44) (k : Nat) (wrote : Bool) : (s.dirLose k l wrote).ms = s.ms := by
  have hback (w : Bool) : s.remoteBack l w = s := if_pos hl
  unfold State.dirLose
  dsimp only
  simp only [hback]
  split
  · rfl
  · split <;> exact State.setDir_ms s l _
  · split
    · exact State.setDir_ms s l _
    · rfl
  · split
    · split <;> exact State.setDir_ms s l _
    · exact State.setDir_ms s l _

theorem State.dropLine_ms (s : State) (k l : Nat) : (s.dropLine k l).ms = s.ms := by
  unfold State.dropLine
  split
  · rfl
  · split <;> rfl

theorem CoresOnly.dropL1I (s : State) (k l : Nat) : CoresOnly s (s.dropL1I k l) :=
  CoresOnly.foldl _ (fun s c => CoresOnly.modCore s (9 * k + c) _) _ s

theorem CoresOnly.fenced {s u : State} (h : CoresOnly s u) (l : Nat) : u.fenced l = s.fenced l := by
  rw [h.state]
  rfl

theorem CoresOnly.clu {s u : State} (h : CoresOnly s u) (k : Nat) : u.clu k = s.clu k := by
  rw [h.state]
  rfl

theorem CoresOnly.part {s u : State} (h : CoresOnly s u) : u.part = s.part := by
  rw [h.state]

/-- A read of a line that no injection hits changes nothing (R194). -/
theorem State.checkLine_clean {s : State} {k l : Nat} {c : CLine} (h : NoInjection s) (hc : s.cline k l = some c) (hf : c.flip = 0) :
    s.checkLine k l = s := by
  unfold State.checkLine
  rw [List.foldl_fixed' fun c => State.l1dCheck_clean h (9 * k + c) l]
  unfold State.ccRead
  rw [hc]
  exact if_pos hf

theorem State.purge_dirty {s : State} {k l : Nat} {c : CLine} (h : NoInjection s) (hc : s.cline k l = some c) (hf : c.flip = 0) (hm : c.st = .m)
    (hp : c.pois = false) (hd : c.data.length = 96) (hfence : s.fenced l = false) (hl : l < s.part.msLines) :
    (s.purge k l).2.ms = (cellsAt 0 c.data).foldl (fun m (o, b) => spPut 0 m (96 * l + o) b) s.ms := by
  have h44 : l < 2 ^ 44 := hl.trans (Part.msLines_lt _)
  let v := (s.dropL1D k l none).dropL1I k l
  have hv : CoresOnly s v := (CoresOnly.dropL1D s k l none).trans (CoresOnly.dropL1I _ k l)
  have hvf : v.fenced l = false := (hv.fenced l).trans hfence
  have hvl : l < v.part.msLines := hv.part.symm ▸ hl
  have hw : v.homeWrite l c.data c.pois = v.arrayLine l c.data false := by
    rw [hp]
    exact if_pos h44
  have hpurge : s.purge k l = (c.pois, (((v.homeWrite l c.data c.pois).dirLose k l true).killResvClu k l).dropLine k l) := by
    unfold State.purge
    dsimp only
    rw [State.checkLine_clean h hc hf, hc]
    dsimp only
    simp only [hm, decide_true, Bool.true_or, if_true, reduceCtorEq, if_false, Bool.true_and, v]
  rw [hpurge, State.dropLine_ms]
  show ((v.homeWrite l c.data c.pois).dirLose k l true).ms = _
  rw [State.dirLose_ms _ h44, hw, State.arrayLine_ms hvf hvl hd, hv.ms]

end Sys2Proof.Machine

namespace Sys2Proof.Machine

open Sys2Proof

/-! A job over a range (R185), and the search for a lost tag (R196). -/

theorem State.maintEnd_range {s : State} {k : Nat} {j : Job} {op : BitVec 4} {base len : Nat} (hj : (s.clu k).job = some j)
    (hk : j.k = .range op base len) {j' : Job} {u : State} (h : s.rangeGo k j op ((linesOf base len).drop j.pos) = (true, j', u)) :
    s.maintEnd k = u.jobEnd k j' (poisonStatus j'.pois) := by
  unfold State.maintEnd
  rw [hj]
  dsimp only
  rw [hk]
  dsimp only
  rw [h]

/-- A CLEAN goes on past a last line that it may read. -/
theorem State.rangeGo_clean {s : State} {k : Nat} {j : Job} {l : Nat} (hs : j.sent = false) (hr : s.readNow l = true) :
    s.rangeGo k j 0 [l] =
      (true, { j with pos := j.pos + 1, pois := j.pois || (s.cleanLine l).1, sent := false, was := false }, (s.cleanLine l).2) := by
  have hstep : s.cleanStep j false l = (.done (s.cleanLine l).1, j, (s.cleanLine l).2) := by
    simp only [State.cleanStep, hs, hr, Bool.false_eq_true, if_false, if_true]
  have h2 : ¬ (0 : BitVec 4) = 2 := by decide
  have h1 : decide ((0 : BitVec 4) = 1) = false := rfl
  rw [State.rangeGo, if_neg h2, h1, hstep]
  rfl

/-- With no line in the cluster and none in a directory, a search ends with its event alone. -/
theorem State.searchEnd_empty {s : State} {k : Nat} {x : BitVec 11 × BitVec 4} (hs : (s.clu k).search = some x) (hd : s.dir = [])
    (hl : (s.clu k).lines = []) :
    let u := s.searchEnd k
    (u.clu k).search = none ∧ (u.clu k).lines = [] ∧ u.ms = s.ms ∧ u.procs = s.procs := by
  intro u
  let v := s.modClu k fun q => { q with search := none }
  have hv : v.clu k = { s.clu k with search := none } := State.clu_modClu_same s k _
  have hu : ∃ e, u = v.event e := by
    show ∃ e, s.searchEnd k = _
    unfold State.searchEnd
    rw [hs]
    dsimp only
    rw [hl, hd]
    exact ⟨_, rfl⟩
  obtain ⟨e, he⟩ := hu
  have hclu : u.clu k = { s.clu k with search := none } := by
    rw [he, EventOnly.event v e]
    exact hv
  refine ⟨by rw [hclu], by rw [hclu]; exact hl, by rw [he]; exact State.event_ms v e, ?_⟩
  rw [he, EventOnly.event v e]
  rfl

/-- The one line of a cluster leaves with the purge of all. -/
theorem State.purgeAll_one {s : State} {k l : Nat} {c : CLine} (h : (s.clu k).lines = [(l, c)]) :
    (s.purgeAll k fun _ _ => true).2 = (s.purge k l).2 := by
  simp only [State.purgeAll, h, List.foldl_cons, List.foldl_nil, if_true]

theorem State.purgeAll_none {s : State} {k : Nat} (h : (s.clu k).lines = []) : s.purgeAll k (fun _ _ => true) = (false, s) := by
  unfold State.purgeAll
  rw [h]
  rfl

theorem State.cluQuiet_all {s : State} {k : Nat} (h : ∀ x ∈ (s.clu k).lines, s.quietLine x.1 = true) : (s.cluQuiet k fun _ _ => true) = true := by
  unfold State.cluQuiet
  exact List.all_eq_true.2 h

/-- The main store after a whole line has been put into it. -/
theorem LineOnly.of_ms {s u : State} {l : Nat} {d : List Byte} (h : u.ms = (cellsAt 0 d).foldl (fun m (o, b) => spPut 0 m (96 * l + o) b) s.ms)
    (hd : d.length = 96) : LineOnly s u l ∧ ∀ i, i < 96 → u.byteAt (96 * l + i) = d.getD i 0 := by
  refine ⟨fun a ha => ?_, fun i hi => ?_⟩
  · rw [State.byteAt, h, spGetD_foldl_cellsAt, if_neg (by omega)]
    rfl
  · rw [State.byteAt, h, spGetD_foldl_cellsAt, if_pos (by omega), Nat.add_zero, Nat.add_sub_cancel_left]

/-- The end of a job over a cluster cache that holds one line, dirty and at rest. -/
theorem State.maintEnd_dirty {s : State} {k l : Nat} {c : CLine} {j : Job} (hj : (s.clu k).job = some j) (hk : j.k = .cache)
    (hl : (s.clu k).lines = [(l, c)]) (hquiet : s.quietLine l = true) (hm : c.st = .m) (hp : c.pois = false) (hf : c.flip = 0)
    (hd : c.data.length = 96) (hi : NoInjection s) (hms : l < s.part.msLines) (hclean : CleanLine s l) :
    let u := s.maintEnd k
    (u.clu k).job = none ∧ (u.clu k).lines = [] ∧ u.ccState k = 0 ∧ LineOnly s u l ∧ ∀ i, i < 96 → u.byteAt (96 * l + i) = c.data.getD i 0 := by
  intro u
  have hc : s.cline k l = some c := by
    rw [State.cline, hl]
    exact if_pos rfl
  have hquiet' : ∀ x ∈ (s.clu k).lines, s.quietLine x.1 = true := by
    intro x hx
    rw [hl, List.mem_singleton] at hx
    rw [hx]
    exact hquiet
  have hu : u = _ := State.maintEnd_cache hj hk (State.cluQuiet_all hquiet')
  obtain ⟨hjob, hlines, hstate, hbytes, -⟩ := State.cacheOff_jobEnd (s.purgeAll k fun _ _ => true).2 k j (poisonStatus (s.purgeAll k fun _ _ => true).1)
  rw [← hu] at hjob hlines hstate hbytes
  rw [State.purgeAll_one hl, State.purge_dirty hi hc hf hm hp hd hclean.1 hms] at hbytes
  exact ⟨hjob, hlines, hstate, LineOnly.of_ms hbytes hd⟩

/-- The end of a job over an L1 data cache (R187). -/
theorem State.maintEnd_l1_spec {s : State} {k : Nat} {j : Job} {slot : BitVec 3} (hj : (s.clu k).job = some j) (hk : j.k = .l1 slot) (hi : NoInjection s) :
    let p : BitVec 6 := BitVec.ofNat 6 (8 * k + slot.toNat)
    let u := s.maintEnd k
    (u.clu k).job = none ∧ (u.proc p).dst = 0 ∧ (u.core (s.hostCore p)).dc = [] ∧ (u.proc p).g = (s.proc p).g ∧ u.ms = s.ms ∧
      (u.clu k).lines = (s.clu k).lines := by
  intro p u
  have hu : u = _ := State.maintEnd_l1 hj hk
  obtain ⟨hv, hdc⟩ := State.l1Purge_spec hi p
  have hend := State.jobEnd_spec ((s.l1Purge p).2.modProc p fun q => q.setDst 0) k j (poisonStatus (s.l1Purge p).1)
  rw [← hu] at hend
  obtain ⟨r, hproc⟩ := hv.proc p
  obtain ⟨hg, hdst⟩ := hend.proc_frame p
  rw [State.proc_modProc] at hg hdst
  refine ⟨by rw [hend.clu], hdst.trans (Proc.dst_setDst _ 0), ?_, ?_, hend.ms.trans hv.ms, ?_⟩
  · rw [hend.core]
    exact hdc
  · rw [hg, hproc]
    rfl
  · rw [hend.clu]
    show ((s.l1Purge p).2.clu k).lines = _
    rw [hv.clu]

/-- A control job that the engine takes (R184). -/
theorem State.ctlStart_spec {s : State} {k : Nat} {j : Job} {rest : List Job} (hj : (s.clu k).job = none) (hq : (s.clu k).ctlq = j :: rest) :
    let u := s.ctlStart k
    let off : BitVec 16 := (s.rg (aCc k 0x18)).extractLsb' 16 16
    ((∀ r, j.k = .power r → popFld (r.zeroExtend 48) 15 0 ≤ 12 ∧ r &&& ~~~off &&& (s.rg (aCc k 0x10)).extractLsb' 0 16 = 0) →
      u = { s with clus := u.clus, dev := u.dev } ∧ (u.clu k).job = some j ∧ (u.clu k).ctlq = rest ∧ fld (u.rg (aCc k 0x38)) 27 16 = j.master.toNat) ∧
    (∀ r, j.k = .power r → 12 < popFld (r.zeroExtend 48) 15 0 →
      (u.clu k).job = none ∧ (u.clu k).ctlq = rest ∧ u.ms = s.ms ∧ (u.rg (aCc k 0x18)).extractLsb' 0 16 = off ∧
        fld (u.rg (aCc k 0x38)) 15 8 = 4) := by
  intro u off
  have hclu := State.ctlTaken_clu s k j rest
  refine ⟨fun hp => ?_, fun r hr hpop => ?_⟩
  · have hu : u = s.ctlTaken k j rest := State.ctlStart_taken hj hq hp
    rw [hu, hclu]
    exact ⟨rfl, rfl, rfl, State.jobRuns_master s k j⟩
  · have hu : u = _ := State.ctlStart_many hj hq hr hpop
    have hend := State.jobEnd_spec ((s.ctlTaken k j rest).sg (aCc k 0x18) (setFld (s.rg (aCc k 0x18)) 15 0 off.toNat)) k j 4
    rw [← hu] at hend
    refine ⟨by rw [hend.clu], ?_, hend.ms, ?_, hend.status⟩
    · rw [hend.clu]
      exact congrArg Clu.ctlq hclu
    · rw [hend.rg 0x18 0 (by decide) (by decide), State.rg_sg_same]
      exact extractLsb'_setFld_low _ off

/-! What the instructions leave (R109, R110). -/

/-- A message sent behind changes of one processor. -/
theorem OnlyProc.modProc_send {t v : State} {p : BitVec 6} (h : OnlyProc t v p) (f : Proc → Proc) (m : Msg) :
    let u := (v.modProc p f).send m
    u = { t with procs := u.procs, net := t.net ++ [m] } := by
  obtain ⟨procs, rfl⟩ : ∃ procs, v = { t with procs := procs } := ⟨_, h.1⟩
  rfl

/-- What a counted request leaves of its processor and the net. -/
theorem cmo_request {t : State} {p : BitVec 6} {a : Acc} {q1 : Proc} {l : Nat} (hd : (t.proc p).drainFor a 1 = some q1) (kind : MK) :
    let q := t.proc p
    let m : Msg := { src := .ag (cluAg (cluOf p)), dst := t.homeNode l, kind := kind, line := l, req := cluAg (cluOf p), tag := p.toNat + 1,
                     mast := some p.toNat }
    let u := ((t.cmoDone p q1).modProc p fun q => { q with cmos := q.cmos + 1 }).send m
    u = { t with procs := u.procs, net := t.net ++ [m] } ∧ (u.proc p).cmos = q.cmos + 1 ∧ (u.proc p).ip = q.ip + 6 ∧
      RegsKept q (u.proc p) [] ∧ ∀ r, r ≠ p → u.proc r = t.proc r := by
  intro q m u
  obtain ⟨ho, hip, hcmos, hk⟩ := State.cmoDone_spec hd
  have hproc : u.proc p = { (t.cmoDone p q1).proc p with cmos := ((t.cmoDone p q1).proc p).cmos + 1 } :=
    State.proc_modProc (t.cmoDone p q1) p fun q => { q with cmos := q.cmos + 1 }
  refine ⟨ho.modProc_send _ m, ?_⟩
  rw [hproc]
  refine ⟨congrArg (· + 1) hcmos, hip, hk, fun r hr => ?_⟩
  have hr' : u.proc r = (t.cmoDone p q1).proc r := State.proc_modProc_ne (t.cmoDone p q1) (fun q => { q with cmos := q.cmos + 1 }) hr
  rw [hr', ho.2 r hr]

/-- What IINV leaves. -/
theorem cmo_iinv {t : State} {p : BitVec 6} {a : Acc} {q1 : Proc} (hd : (t.proc p).drainFor a 1 = some q1) (l : Nat) :
    let q := t.proc p
    let n := t.hostCore p
    let u := (t.cmoDone p q1).iinv p l
    u = { t with procs := u.procs, cores := u.cores } ∧ spGet (u.core n).ic l = none ∧
      (∀ j, j ≠ l → spGet (u.core n).ic j = spGet (t.core n).ic j) ∧ (u.core n).dc = (t.core n).dc ∧
      (u.proc p).ip = q.ip + 6 ∧ RegsKept q (u.proc p) [] := by
  intro q n u
  obtain ⟨-, hip, -, hk⟩ := State.cmoDone_spec hd
  obtain ⟨⟨cores, hcores⟩, hnone, hic, hdc⟩ := State.iinv_spec (t.cmoDone p q1) p l
  have hproc : u.proc p = (t.cmoDone p q1).proc p := by
    show ((t.cmoDone p q1).iinv p l).proc p = _
    rw [hcores]
    rfl
  rw [hproc]
  refine ⟨?_, hnone, hic, hdc, hip, hk⟩
  show (t.cmoDone p q1).iinv p l = { t with procs := ((t.cmoDone p q1).iinv p l).procs, cores := ((t.cmoDone p q1).iinv p l).cores }
  rw [hcores]
  rfl

/-- What a CMR leaves that starts its job. -/
theorem cmr_started {t : State} {p : BitVec 6} {rd : BitVec 5} {r : Res} {j : Job}
    (h : Computed (((t.setProc p (t.proc p)).jobRuns (cluOf p) j).modClu (cluOf p) fun c => { c with job := some j }) p r rd 1 false) :
    ∃ u, r = .next u ∧ u = { t with procs := u.procs, clus := u.clus, dev := u.dev } ∧ (u.clu (cluOf p)).job = some j ∧
      (u.clu (cluOf p)).lines = (t.clu (cluOf p)).lines ∧ (u.proc p).gR rd = (if rd = 0 then 0 else 1) ∧ (u.proc p).ip = (t.proc p).ip + 6 ∧
      RegsKept (t.proc p) (u.proc p) [.g rd] := by
  let w := ((t.setProc p (t.proc p)).jobRuns (cluOf p) j).modClu (cluOf p) fun c => { c with job := some j }
  have h : Computed w p r rd 1 false := h
  obtain ⟨u, hr, ⟨hstate, -⟩, hg, -, -, -, hip, hk, -⟩ := h
  have hproc : w.proc p = t.proc p := State.proc_setProc_self t p p
  rw [hproc] at hip hk
  have hw : w.clu (cluOf p) = { t.clu (cluOf p) with job := some j } := State.clu_modClu_same _ _ _
  have hclu : u.clu (cluOf p) = { t.clu (cluOf p) with job := some j } := by
    rw [hstate]
    exact hw
  refine ⟨u, hr, ?_, by rw [hclu], by rw [hclu], hg, hip, hk⟩
  rw [hstate]
  rfl

/-- Settles O22: the CMO and CMR instructions are the cases of `cmoOp`, `execCmoIinv` and `cmrOp`; a control job is `State.ctlStart_spec`; what a
job leaves at its end is `State.maintEnd_l1_spec`, `State.cacheOff_jobEnd`, `State.maintEnd_dirty` or `State.maintEnd_range`. -/
theorem cacheMaintenance : Obligations.CacheMaintenance := by
  unfold Obligations.CacheMaintenance
  refine ⟨fun s t p f h hu => ?_, fun s t p f op c hc hfn hz h hu => ?_, fun s k j rest hj hq => ?_, fun s k slot j hj hk hi => ?_,
    fun s k j hj hk => ⟨fun hl => ?_, fun l c hl hquiet hm hp hf hd hi hms hclean => ?_⟩, fun s k j op base len hj hk => ⟨fun hl => ?_, fun l hl hop hs hr => ?_⟩,
    fun s k set way hs hd hl => ?_⟩
  · intro q off
    refine ⟨fun c hc => ?_, fun a q1 l ha hd hl => ⟨fun kind c hc => ?_, ?_⟩⟩
    · obtain ⟨kind, hx⟩ | hx := exec_cmo hc p f s
      · rw [hx]
        exact ⟨fun d ha => cmoOp_fault h hu kind ha, fun a q1 ha hd hl => ⟨_, cmoOp_uncached h hu ha hd kind hl, State.cmoDone_spec hd⟩⟩
      · rw [hx]
        exact ⟨fun d ha => execCmoIinv_fault h hu ha, fun a q1 ha hd hl => ⟨_, execCmoIinv_uncached h hu ha hd hl, State.cmoDone_spec hd⟩⟩
    · rw [exec_cmoRequest hc, cmoOp_sends h hu ha hd kind hl]
      obtain ⟨hstate, hcmos, hrest⟩ := cmo_request (l := l) hd kind
      exact ⟨_, _, rfl, hstate, rfl, rfl, rfl, rfl, hcmos, hrest⟩
    · rw [exec_cmoIinv, execCmoIinv_drops h hu ha hd hl]
      exact ⟨_, rfl, cmo_iinv hd l⟩
  · intro a b
    rw [exec_cmr hc]
    exact ⟨cmrOp_empty hfn hz h hu op, fun d hb hd => cmrOp_fault hfn hz h hu hb op hd, fun hb hd hcomb =>
      ⟨cmrOp_busy hfn hz h hu hb hd hcomb op, fun he => cmr_started (cmrOp_starts hfn hz h hu hb hd hcomb op he)⟩⟩
  · intro off
    obtain ⟨htaken, hmany⟩ := State.ctlStart_spec hj hq
    rw [exec_controlJobStart]
    exact ⟨fun hp => ⟨_, rfl, htaken hp⟩, fun r hr hpop => ⟨_, rfl, hmany r hr hpop⟩⟩
  · intro p
    rw [exec_maintenanceJobEnd]
    exact ⟨_, rfl, State.maintEnd_l1_spec hj hk hi⟩
  · rw [exec_maintenanceJobEnd, execMaintenanceJobEnd,
      State.maintEnd_cache hj hk (State.cluQuiet_all fun x hx => absurd (hl ▸ hx) List.not_mem_nil), State.purgeAll_none hl]
    exact ⟨_, rfl, State.cacheOff_jobEnd s k.toNat j 0⟩
  · rw [exec_maintenanceJobEnd]
    exact ⟨_, rfl, State.maintEnd_dirty hj hk hl hquiet hm hp hf hd hi hms hclean⟩
  · rw [exec_maintenanceJobEnd, execMaintenanceJobEnd, State.maintEnd_range hj hk (by rw [hl]; rfl)]
    rfl
  · subst hop
    rw [exec_maintenanceJobEnd, execMaintenanceJobEnd, State.maintEnd_range hj hk (by rw [hl]; exact State.rangeGo_clean hs hr)]
    exact ⟨_, rfl, rfl, rfl⟩
  · rw [exec_tagParitySearchComplete]
    exact ⟨_, rfl, State.searchEnd_empty hs hd hl⟩

end Sys2Proof.Machine

namespace Sys2Proof.Machine

open Sys2Proof

/-! Entry to an exception (R127 to R136). -/

/-- Control registers are set one after the other. -/
def Proc.crSets (q : Proc) (ws : List (Nat × Word)) : Proc := ws.foldl (fun q w => q.crSet w.1 w.2) q

theorem Proc.crGet_crSets_ne (ws : List (Nat × Word)) (q : Proc) {c : Nat} (h : c ∉ ws.map Prod.fst) : (q.crSets ws).crGet c = q.crGet c := by
  induction ws generalizing q with
  | nil => rfl
  | cons w ws ih =>
    have hc : c ≠ w.1 := fun e => h (e ▸ List.mem_cons_self)
    exact (ih (q.crSet w.1 w.2) fun hm => h (List.mem_cons_of_mem _ hm)).trans (Proc.crGet_crSet_ne q w.2 hc)

/-- Of registers that are set once each, every one reads what was put. -/
theorem Proc.crGet_crSets_mem (ws : List (Nat × Word)) (q : Proc) {c : Nat} {v : Word} (hd : (ws.map Prod.fst).Nodup) (h : (c, v) ∈ ws) :
    (q.crSets ws).crGet c = v := by
  induction ws generalizing q with
  | nil => exact absurd h List.not_mem_nil
  | cons w ws ih =>
    obtain ⟨hw, hws⟩ := List.nodup_cons.1 hd
    obtain rfl | hm := List.mem_cons.1 h
    · exact (Proc.crGet_crSets_ne ws _ hw).trans (Proc.crGet_crSet_same q c v)
    · exact ih (q.crSet w.1 w.2) hws hm

theorem Proc.completeLongs_nil {q : Proc} (h : q.longs = []) : q.completeLongs = q := by
  unfold Proc.completeLongs
  rw [h, List.foldl_nil, ← h]

theorem Proc.flushLoads_nil {q : Proc} (h : q.loads = []) : q.flushLoads = q := by
  unfold Proc.flushLoads
  rw [h, List.map_nil, ← h]
  exact Proc.retireLoads_none fun l hl => absurd (h ▸ hl) List.not_mem_nil

/-- What the saved registers XIP, XPSW, XCAUSE, XADDR, XPADDR and XS15 take (R128, R133). -/
def Proc.xregs (q : Proc) (d : Due) : List (Nat × Word) :=
  [(16, d.xip), (17, q.psw &&& 0x7F), (18, d.cause), (19, d.addr), (20, d.paddr), (21, (q.seg 15).w0), (22, (q.seg 15).w1), (23, (q.seg 15).w2),
   (24, BitVec.ofNat 48 (b2n (q.seg 15).present * 2 ^ 24 + (q.seg 15).index.toNat))]

/-- What taking an exception clears (R128 step 4, R135, R136, R168). -/
def Proc.cleared (q : Proc) (d : Due) : Proc :=
  { q with
    psw := q.psw &&& ~~~7#48, run := .running, resvExc := q.resvExc || q.resv.isSome || q.resvFor.isSome, resv := none, resvFor := none,
    fault := if d.kind = 1 then q.fault.filter (fun e => e.sn.isSome) else none, trap := none, stepDue := false,
    drops := if d.code = 0x0A then 0 else q.drops, drop1 := if d.code = 0x0A then none else q.drop1,
    dropP := if d.code = 0x0A then false else q.dropP, third := none, mcheck := if d.code = 0x0C then none else q.mcheck,
    resume := if d.code = 0x12 then none else q.resume, resumeMr := q.resumeMr && d.code ≠ 0x12, bar := none, routine := none }

/-- Saving the state of a processor with nothing outstanding sets the saved registers and clears the rest. -/
theorem Proc.saveState_eq {q : Proc} (hl : q.longs = []) (hq : q.loads = []) (d : Due) : q.saveState d = (q.crSets (q.xregs d)).cleared d := by
  unfold Proc.saveState
  rw [Proc.completeLongs_nil hl, Proc.flushLoads_nil hq]
  extract_lets q0 s15 q1 q2 q3 q4 q5 q6 q7 q8 q9 r x y
  have h9 : q9 = q.crSets (q.xregs d) := rfl
  rw [← h9]
  subst y x r
  -- From here the nine writes are one value, so that the record updates below are compared field by field only once.
  clear_value q9
  unfold Proc.cleared
  by_cases hd : d.code = 0x0A
  · simp only [if_pos hd]
    rfl
  · simp only [if_neg hd]
    rfl

theorem Proc.crSets_eq (ws : List (Nat × Word)) (q : Proc) : q.crSets ws = { q with cr := (q.crSets ws).cr } := by
  induction ws generalizing q with
  | nil => rfl
  | cons w ws ih => exact ih (q.crSet w.1 w.2)

/-- The processor after its state is saved and the vector entry is taken (R128 steps 5 and 6). -/
def Proc.entered (q : Proc) (d : Due) (ip : Word) (sg : Seg) : Proc := (Proc.setSeg { q.saveState d with ip := ip } 15 sg).crSet 25 1

theorem Proc.entered_act (q : Proc) (d : Due) (ip : Word) (sg : Seg) : (q.entered d ip sg).act = true := by
  unfold Proc.act Proc.entered
  rw [Proc.crGet_crSet_same]
  rfl

theorem Proc.entered_crGet {q : Proc} (hl : q.longs = []) (hq : q.loads = []) (d : Due) (ip : Word) (sg : Seg) {c : Nat} (hc : c ≠ 25) :
    (q.entered d ip sg).crGet c = (q.crSets (q.xregs d)).crGet c := by
  unfold Proc.entered
  rw [Proc.crGet_crSet_ne _ _ hc, Proc.saveState_eq hl hq]
  rfl

theorem Proc.xregs_nodup (q : Proc) (d : Due) : ((q.xregs d).map Prod.fst).Nodup := by
  show [16, 17, 18, 19, 20, 21, 22, 23, 24].Nodup
  decide

/-- Each saved register holds what it saves (R133). -/
theorem Proc.entered_saved {q : Proc} (hl : q.longs = []) (hq : q.loads = []) (d : Due) (ip : Word) (sg : Seg) :
    ∀ w ∈ q.xregs d, (q.entered d ip sg).crGet w.1 = w.2 := by
  intro w hw
  have hc : w.1 ∈ [16, 17, 18, 19, 20, 21, 22, 23, 24] := List.mem_map_of_mem (f := Prod.fst) hw
  have h25 : w.1 ≠ 25 := fun h => absurd (h ▸ hc) (by decide)
  rw [Proc.entered_crGet hl hq d ip sg h25]
  exact Proc.crGet_crSets_mem _ q (q.xregs_nodup d) hw

theorem Proc.entered_kept {q : Proc} (hl : q.longs = []) (hq : q.loads = []) (d : Due) (ip : Word) (sg : Seg) {c : Nat}
    (hc : c ∉ [16, 17, 18, 19, 20, 21, 22, 23, 24, 25]) : (q.entered d ip sg).crGet c = q.crGet c := by
  have h25 : c ≠ 25 := by
    rintro rfl
    exact hc (by decide)
  rw [Proc.entered_crGet hl hq d ip sg h25]
  exact Proc.crGet_crSets_ne _ q fun h => hc (List.mem_append_left [25] h)

/-- The processor behind an entry, field by field. -/
theorem Proc.entered_eq {q : Proc} (hl : q.longs = []) (hq : q.loads = []) (d : Due) (ip : Word) (sg : Seg) :
    q.entered d ip sg = { q.cleared d with ip := ip, segs := (q.setSeg 15 sg).segs, cr := (q.entered d ip sg).cr } := by
  unfold Proc.entered
  rw [Proc.saveState_eq hl hq, Proc.crSets_eq]
  rfl

/-- Entering the vector changes S15 of the segments. -/
theorem Proc.entered_seg {q : Proc} (hl : q.longs = []) (hq : q.loads = []) (d : Due) (ip : Word) (sg : Seg) :
    (q.entered d ip sg).seg 15 = sg ∧ ∀ n, n ≠ 15 → (q.entered d ip sg).seg n = q.seg n := by
  rw [Proc.entered_eq hl hq]
  exact ⟨Proc.seg_setSeg_same q 15 sg, fun n hn => Proc.seg_setSeg_ne q sg hn⟩

/-- What entering the vector clears, and what it leaves alone (R128). -/
theorem Proc.entered_frame {q : Proc} (hl : q.longs = []) (hq : q.loads = []) (d : Due) (ip : Word) (sg : Seg) :
    let r := q.entered d ip sg
    (r.ip = ip ∧ r.psw = q.psw &&& ~~~7#48 ∧ r.resv = none ∧ r.run = .running ∧ (d.kind ≠ 1 → r.fault = none) ∧ r.trap = none ∧
      r.drops = if d.code = 0x0A then 0 else q.drops) ∧
    r.g = q.g ∧ r.f = q.f ∧ r.fpsw = q.fpsw ∧ r.sb = q.sb := by
  rw [Proc.entered_eq hl hq]
  exact ⟨⟨rfl, rfl, rfl, rfl, fun hk => if_neg hk, rfl, rfl⟩, rfl, rfl, rfl, rfl⟩

/-- Processor p of a running module is at a boundary where it may take what is due, and nothing long is in progress. -/
structure State.AtBoundary (s : State) (p : BitVec 6) : Prop where
  phase : s.phase = .run
  has : s.hasProc p = true
  run : (s.proc p).run = .running
  paused : (s.proc p).paused = none
  relock : (s.proc p).relock = none
  stopReq : (s.proc p).stopReq = none
  longs : (s.proc p).longs = []

section
variable {s : State} {p : BitVec 6} {d : Due}

/-- At a boundary what is chosen is entered. -/
theorem execExceptionEntry_due (h : s.AtBoundary p) (hd : s.chosen p = some d) (w : BitVec 48) :
    execExceptionEntry p w s = .next (s.enter p d).2 := by
  unfold execExceptionEntry
  simp only [h.phase, h.has, h.run, h.paused, h.relock, h.stopReq, h.longs, hd]
  rfl

/-- With nothing due an illegal word that was fetched is an illegal instruction (R41). -/
theorem execExceptionEntry_illegal (h : s.AtBoundary p) (hd : s.chosen p = none) {w : BitVec 48} (hw : legalWord w = false)
    (ha : s.able p = true) (hf : s.afterFetch p = some s) : execExceptionEntry p w s = .next (s.enter p ((s.proc p).plainDue 0x01)).2 := by
  have hfetch : s.fetch p = .ok s := by
    unfold State.afterFetch at hf
    split at hf
    · next t ht => rw [ht, Option.some.inj hf]
    all_goals cases hf
  unfold execExceptionEntry
  simp only [h.phase, h.has, h.run, h.paused, h.relock, h.stopReq, h.longs, hd, hw, ha, hfetch]
  rfl

/-- The processor whose entry failed: CONTAINED, and nothing is due any more (R129, R134). -/
def Proc.entryFailed (q : Proc) : Proc :=
  { q with run := .contained, fault := none, trap := none, stepDue := false, mcheck := none, bar := none, routine := none }

/-- A failed entry contains the processor and tells it, and leaves the main store (R129, R134). -/
theorem State.entryFails_spec (s : State) (p : BitVec 6) (code : BitVec 6) :
    (s.entryFails p code).proc p = (s.proc p).entryFailed ∧ (s.entryFails p code).ms = s.ms := by
  obtain ⟨hp, hms⟩ := (EventOnly.event (s.modProc p Proc.entryFailed) _).frame p
  exact ⟨hp.trans (State.proc_modProc s p _), hms⟩

/-- An exception under ACT is a double fault (R134). -/
theorem State.enter_double (ha : (s.proc p).act = true) (hk : d.kind ≠ 2) : s.enter p d = (true, s.entryFails p d.code) := by
  unfold State.enter
  dsimp only
  rw [if_pos (by simpa [ha] using hk)]

/-- The vector entry of an exception as it is read: none outside the window of its processor (R51, R128 step 5, R129). -/
def State.VectorRead (s : State) (p : BitVec 6) (d : Due) (e : Option (List Byte)) : Prop :=
  let a := ((s.proc p).crGet 26).toNat + 48 * d.code.toNat
  let v := s.setProc p (s.proc p)
  match e with
  | none => s.inWindow p a 48 = false
  | some bs => s.inWindow p a 48 = true ∧ v.ownRead p a 48 = (some (bs, false), v)

/-- With no load outstanding and nothing combining, the state is saved and the vector entered (R128). -/
theorem State.enter_vector {e : Option (List Byte)} (ha : (s.proc p).act = false ∨ d.kind = 2) (hl : (s.proc p).loads = [])
    (hc : (s.proc p).comb = []) (he : s.VectorRead p d e) :
    s.enter p d = (true, ((s.setProc p (s.proc p)).modProc p fun q => q.saveState d).enterVector p d e) := by
  have hact : ((s.proc p).act && decide (d.kind ≠ 2)) = false := by
    obtain h | h := ha <;> simp [h]
  have hloads : ((s.proc p).loads.any fun l => l.data.isNone) = false := by rw [hl]; rfl
  have hwin (a : Nat) : (s.setProc p (s.proc p)).inWindow p a 48 = s.inWindow p a 48 := rfl
  unfold State.enter
  dsimp only
  rw [if_neg (by simpa using hact), if_neg (by simpa using hloads), Proc.drainComb_nil hc]
  dsimp only
  rw [hwin]
  cases e with
  | none => rw [show s.inWindow p _ 48 = false from he]; rfl
  | some bs =>
    obtain ⟨hw, hr⟩ := he
    rw [hw, hr]
    rfl

end

/-- Settles O17: EXCEPTION_ENTRY comes to `State.enter_vector` in either case, and what then stands is `Proc.entered`. -/
theorem exceptionEntrySavesAndVectors : Obligations.ExceptionEntrySavesAndVectors := by
  unfold Obligations.ExceptionEntrySavesAndVectors
  intro s p w d bs q a sg hphase hhas hrun hpaused hrelock hstop hlongs hloads hcomb hact hdue hwin hread hpres hspace hx hcheck
  have hb : s.AtBoundary p := ⟨hphase, hhas, hrun, hpaused, hrelock, hstop, hlongs⟩
  have hexec : execExceptionEntry p w s = .next (s.enter p d).2 := by
    obtain hd | ⟨hd, hw, hable, hf, rfl⟩ := hdue
    · exact execExceptionEntry_due hb hd w
    · exact execExceptionEntry_illegal hb hd hw hable hf
  have hsg : (sg.present && decide (sg.space = 0) && sg.w2.getLsbD 19 && (descCheck sg.w0 sg.w1 sg.w2).isNone) = true := by
    rw [hpres, hspace, hx, hcheck]
    rfl
  let v := (s.setProc p q).modProc p fun q => q.saveState d
  let u := v.modProc p fun q => (Proc.setSeg { q with ip := lineWord bs 4 } 15 sg).crSet 25 1
  have henter : s.enter p d = (true, u) := by
    rw [State.enter_vector (e := some bs) hact hloads hcomb ⟨hwin, hread⟩]
    exact congrArg (Prod.mk true) (if_pos hsg)
  have hu : u.proc p = q.entered d (lineWord bs 4) sg := by
    simp only [u, v, State.proc_modProc, State.proc_setProc, Proc.entered]
  have honly : OnlyProc s u p := ((OnlyProc.setProc s p q).trans (OnlyProc.modProc _ p _)).trans (OnlyProc.modProc v p _)
  have hsaved := Proc.entered_saved hlongs hloads d (lineWord bs 4) sg
  obtain ⟨h15, hsegs⟩ := Proc.entered_seg hlongs hloads d (lineWord bs 4) sg
  rw [exec_exceptionEntry, hexec, henter]
  refine ⟨u, rfl, honly, ?_⟩
  rw [hu]
  obtain ⟨⟨hip, hpsw, hresv, hrun', hfault, htrap, hdrops⟩, hg, hf, hfpsw, hsb⟩ := Proc.entered_frame hlongs hloads d (lineWord bs 4) sg
  have hpresent : b2n (q.seg 15).present * 2 ^ 24 = if (q.seg 15).present then 2 ^ 24 else 0 := by
    cases (q.seg 15).present <;> rfl
  simp only [Proc.xregs, List.forall_mem_cons, hpresent] at hsaved
  obtain ⟨h16, h17, h18, h19, h20, h21, h22, h23, h24, -⟩ := hsaved
  exact ⟨hip, h15, hpsw, Proc.entered_act q d _ sg, h16, h17, h18, h19, h20, h21, h22, h23, h24, hresv, hrun', hfault, htrap, hg, hf, hdrops,
    hfpsw, hsb, hsegs, fun c hc => Proc.entered_kept hlongs hloads d _ sg hc⟩

end Sys2Proof.Machine

namespace Sys2Proof.Machine

open Sys2Proof

/-! What is taken first at a boundary, and an entry that fails (R129, R134, R135). -/

section
variable {s : State} {p : BitVec 6}

theorem Proc.told_code (q : Proc) (d : Due) : (q.told d).code = d.code := by
  unfold Proc.told
  split <;> rfl

theorem State.chosen_mcheck {d : Due} (h : (s.proc p).mcheck = some d) : (s.chosen p).map (fun d => d.code) = some d.code := by
  unfold State.chosen
  dsimp only
  rw [h]
  rfl

/-- With no machine check due, a resume notice comes first while ACT is clear. -/
theorem State.chosen_resume (hm : (s.proc p).mcheck = none) (hr : (s.proc p).resume.isSome = true ∧ (s.proc p).act = false) :
    (s.chosen p).map (fun d => d.code) = some 0x12 := by
  obtain ⟨r, hr'⟩ := Option.isSome_iff_exists.1 hr.1
  unfold State.chosen
  dsimp only
  rw [hm, hr.2, hr']
  rfl

/-- No resume notice is to be taken. -/
theorem State.resume_none (hr : ¬ ((s.proc p).resume.isSome = true ∧ (s.proc p).act = false)) :
    (if (s.proc p).act then none else (s.proc p).resume) = none := by
  cases ha : (s.proc p).act with
  | true => rfl
  | false => simpa [ha] using hr

theorem State.chosen_trap {d : Due} (hm : (s.proc p).mcheck = none) (hr : ¬ ((s.proc p).resume.isSome = true ∧ (s.proc p).act = false))
    (ht : (s.proc p).trap = some d) : (s.chosen p).map (fun d => d.code) = some d.code := by
  unfold State.chosen
  dsimp only
  rw [hm, State.resume_none hr, ht]
  rfl

/-- With no machine check, resume notice or trap due: single step, the interrupts by rank, the fault of the next instruction. -/
theorem State.chosen_rest (hm : (s.proc p).mcheck = none) (hr : ¬ ((s.proc p).resume.isSome = true ∧ (s.proc p).act = false))
    (ht : (s.proc p).trap = none) :
    (s.chosen p).map (fun d => d.code) =
      if (s.proc p).stepDue && !(s.proc p).inShadow then some 0x10
      else if ((s.proc p).ie && (s.proc p).interruptible) && s.mbxNow p then some 0x0D
      else if ((s.proc p).ie && (s.proc p).interruptible) && s.timNow p then some 0x0E
      else if ((s.proc p).ie && (s.proc p).interruptible) && s.extNow p then some 0x0F
      else (s.proc p).fault.map fun d => d.code := by
  have htold : ((s.proc p).fault.map (s.proc p).told).map (fun d => d.code) = (s.proc p).fault.map fun d => d.code := by
    rw [Option.map_map]
    exact congrArg (Option.map · _) (funext (Proc.told_code _))
  unfold State.chosen
  dsimp only
  rw [hm, State.resume_none hr, ht, ← htold]
  simp only [apply_ite (Option.map _)]
  rfl

end

/-- Settles O18: the ranks are those of `State.chosen`; a double fault and a vector outside the window come to `State.entryFails`. -/
theorem exceptionOrderAndDoubleFault : Obligations.ExceptionOrderAndDoubleFault := by
  unfold Obligations.ExceptionOrderAndDoubleFault
  refine ⟨fun s p => ⟨fun d hd => State.chosen_mcheck hd, fun hm hr => State.chosen_resume hm hr,
    fun hm hr d hd => State.chosen_trap hm hr hd, fun hm hr ht hs => ?_⟩, fun s p w d => ?_⟩
  · rw [State.chosen_rest hm hr ht, hs]
    refine ⟨fun hstep => by rw [hstep]; rfl, fun hstep => ?_⟩
    rw [hstep]
    refine ⟨fun ⟨hie, hint⟩ hmbx => ?_, fun ⟨hie, hint⟩ hmbx htim => ?_, fun ⟨hie, hint⟩ hmbx htim hext => ?_,
      fun ⟨hie, hint⟩ hmbx htim hext => ?_, fun hie => ?_⟩
    · rw [hie, hint, hmbx]
      rfl
    · rw [hie, hint, hmbx, htim]
      rfl
    · rw [hie, hint, hmbx, htim, hext]
      rfl
    · rw [hie, hint, hmbx, htim, hext]
      rfl
    · rw [hie]
      rfl
  · intro q hphase hhas hrun hpaused hrelock hstop hlongs hd
    have hb : s.AtBoundary p := ⟨hphase, hhas, hrun, hpaused, hrelock, hstop, hlongs⟩
    rw [exec_exceptionEntry, execExceptionEntry_due hb hd w]
    refine ⟨fun hact hk => ?_, fun hact hloads hcomb hwin => ?_⟩
    · obtain ⟨hp, hms⟩ := State.entryFails_spec s p d.code
      rw [State.enter_double hact hk]
      refine ⟨_, rfl, ?_⟩
      rw [hp]
      exact ⟨rfl, rfl, rfl, rfl, rfl, hms⟩
    · let v := (s.setProc p q).modProc p fun q => q.saveState d
      obtain ⟨hp, hms⟩ := State.entryFails_spec v p d.code
      have hv : v.proc p = q.saveState d := by simp only [v, State.proc_modProc, State.proc_setProc]
      have hg : (q.saveState d).g = q.g := by
        rw [Proc.saveState_eq hlongs hloads, Proc.crSets_eq]
        rfl
      rw [State.enter_vector (e := none) (.inl hact) hloads hcomb hwin]
      refine ⟨_, rfl, ?_⟩
      show ((v.entryFails p d.code).proc p).run = _ ∧ ((v.entryFails p d.code).proc p).g = q.g ∧ (v.entryFails p d.code).ms = s.ms
      rw [hp, hv]
      exact ⟨rfl, hg, hms⟩

end Sys2Proof.Machine

namespace Sys2Proof.Machine

open Sys2Proof

/-! Interrupt lines, their claim, and the timer (R138 to R143). -/

section
variable {s : State}

theorem State.iline_sg (s : State) (k j : Nat) (v : Word) :
    (s.sg (aClu k (0x100 + 8 * j)) v (BitVec.ofNat 48 (if j < 40 then 0 else (j - 40) <<< 8))).iline k j = v := State.rg_sg_same _ _ _ _

/-- A line that pends: its PEND sets, and no other register of device space changes (R138). -/
theorem State.pend_spec {k j : Nat} (hk : s.hasClu k = true) (hj : j < 48) :
    s.pend k j = { s with dev := (s.pend k j).dev } ∧ ((s.pend k j).iline k j).getLsbD 15 = true ∧
      ∀ a, a ≠ aClu k (0x100 + 8 * j) → ∀ d, (s.pend k j).rg a d = s.rg a d := by
  unfold State.pend
  rw [if_pos ⟨hk, hj⟩]
  refine ⟨rfl, ?_, fun a ha d => State.rg_sg_ne s _ _ d ha⟩
  rw [State.iline_sg, BitVec.getLsbD_or]
  exact Bool.or_true _

/-- A claimed line: its PEND clears, and no other register of device space changes (R141). -/
theorem State.unpend_spec (s : State) (k j : Nat) :
    ∃ u : State, s.unpend k j = u.seenFall ∧ u = { s with dev := u.dev } ∧ (u.iline k j).getLsbD 15 = false ∧
      ∀ a, a ≠ aClu k (0x100 + 8 * j) → ∀ d, u.rg a d = s.rg a d := by
  refine ⟨_, rfl, rfl, ?_, fun a ha d => State.rg_sg_ne s _ _ d ha⟩
  rw [State.iline_sg, getLsbD_setBit _ _ _ _ (by decide), if_pos rfl]

/-- A routing register with the cluster and the line in it (R139). -/
def State.routeAt (s : State) (r : Nat) : Nat × Nat × Nat := (r, fld (s.rg r) 9 7, fld (s.rg r) 5 0)

/-- The routing register of an event's source, and the cluster and line that it names (R139). -/
def State.lineRoute (s : State) : IntSrc → Nat × Nat × Nat
  | .cc c => (aCc c.toNat 0x40, c.toNat, fld (s.rg (aCc c.toNat 0x40)) 5 0)
  | .sp c => (aClu c.toNat 0x428, c.toNat, fld (s.rg (aClu c.toNat 0x428)) 5 0)
  | .tun => s.routeAt (aTun 0x50)
  | .cxl => s.routeAt (aCxl 0x20)
  | .chq i => s.routeAt (aChq (0x1038 + 64 * i.toNat))
  | .elc => s.routeAt (aElc 0x50)
  | .cob => s.routeAt (aCob 0x80)
  | .mbg => s.routeAt (aMbg 0x40)
  | .flt => s.routeAt (aBrs 0x818)
  | .pew => s.routeAt (aPew 8)

/-- An event pends the line that its routing register names, when EN is set there (R139). -/
theorem execInterruptLineEvent_eq (s : State) (src : IntSrc) :
    execInterruptLineEvent src s =
      .next (if (s.rg (s.lineRoute src).1).getLsbD 6 then s.pend (s.lineRoute src).2.1 (s.lineRoute src).2.2 else s) := by
  cases src with
  | chq i =>
    have hoff : 0x1000 + 64 * i.toNat + 0x38 = 0x1038 + 64 * i.toNat := by omega
    unfold execInterruptLineEvent
    dsimp only
    rw [hoff]
    rfl
  | _ => rfl

/-- One bit of CLU_IPI pends one line (R142). -/
theorem State.ipiWrite_one (s : State) (k : Nat) {i : Nat} (h : i < 8) : s.ipiWrite k (BitVec.ofNat 48 (2 ^ i)) = s.pend k (40 + i) := by
  interval_cases i <;> rfl

/-- The timer's PEND sets, and nothing else of the processor changes (R143). -/
theorem State.timerCheck_spec {p : BitVec 6} (hen : ((s.proc p).crGet 41).getLsbD 0 = true) (ht : (s.tb - (s.proc p).crGet 40).getLsbD 47 = false) :
    OnlyProc s (s.timerCheck p) p ∧ (s.timerCheck p).proc p = (s.proc p).crSet 41 ((s.proc p).crGet 41 ||| 2) := by
  unfold State.timerCheck
  dsimp only
  rw [if_pos (by rw [hen, ht]; rfl)]
  exact ⟨OnlyProc.setProc s p _, State.proc_setProc s p _⟩

theorem Proc.timPend_set (q : Proc) : (q.crSet 41 (q.crGet 41 ||| 2)).timPend = true := by
  unfold Proc.timPend
  rw [Proc.crGet_crSet_same, BitVec.getLsbD_or]
  exact Bool.or_true _

end

/-- Settles O19: an event and a CLU_IPI write come to `State.pend`, a claim to `State.unpend`, the timer to `State.timerCheck`. -/
theorem interruptsClaimAndTimer : Obligations.InterruptsClaimAndTimer := by
  unfold Obligations.InterruptsClaimAndTimer
  refine ⟨⟨fun s src r k j c i hm => ?_, fun s a k i ha hk hi => ?_⟩, fun s p j h => ?_, fun s p h => ?_, fun s p hphase hhas hen ht => ?_⟩
  · have hroute : s.lineRoute src = (r, k, j) := by
      simp only [List.mem_cons, Prod.mk.injEq, List.not_mem_nil, or_false] at hm
      rcases hm with h | h | h | h | h | h | h | h | h | h <;> (obtain ⟨rfl, rfl, rfl, rfl⟩ := h; rfl)
    rw [exec_interruptLineEvent, execInterruptLineEvent_eq, hroute]
    refine ⟨fun hen => by rw [hen]; rfl, fun hen hk hj => ?_⟩
    rw [hen]
    exact ⟨_, rfl, State.pend_spec hk hj⟩
  · rw [exec_cluIpi, execCluIpi, State.onWrite, if_pos ha, State.ipiWrite_one s k.toNat hi]
    exact ⟨_, rfl, State.pend_spec hk (by omega)⟩
  · obtain ⟨u, hu, hspec⟩ := State.unpend_spec s (cluOf p) j
    have hclaim : s.claim p = (BitVec.ofNat 48 (64 + j), u.seenFall) := by
      unfold State.claim
      rw [h, ← hu]
    rw [exec_iack, execIack, hclaim]
    exact ⟨u, rfl, hspec⟩
  · have hclaim : s.claim p = (0, s) := by
      unfold State.claim
      rw [h]
    rw [exec_iack, execIack, hclaim]
    rfl
  · obtain ⟨honly, hproc⟩ := State.timerCheck_spec hen ht
    rw [exec_timerCompareReached, execTimerCompareReached, if_pos ⟨hphase, hhas⟩]
    refine ⟨_, rfl, honly, ?_⟩
    rw [hproc]
    exact ⟨Proc.timPend_set _, fun c hc => Proc.crGet_crSet_ne _ _ hc, rfl, rfl⟩

end Sys2Proof.Machine

namespace Sys2Proof.Machine

open Sys2Proof

/-! An L1 data cache that is purged with any injection armed (R187, R194, R485): what stays of the processors and the main store. -/

/-- Between `s` and `u` the main store is the same, and of the processors only reservations and whether they run differ. -/
structure StoresKept (s u : State) : Prop where
  ms : u.ms = s.ms
  proc : ∀ p, ∃ r run, u.proc p = { s.proc p with resv := r, run := run }

namespace StoresKept

theorem refl (s : State) : StoresKept s s := ⟨rfl, fun _ => ⟨_, _, rfl⟩⟩

theorem trans {s t u : State} (h : StoresKept s t) (g : StoresKept t u) : StoresKept s u where
  ms := g.ms.trans h.ms
  proc p := by
    obtain ⟨r, run, hp⟩ := h.proc p
    obtain ⟨r', run', hp'⟩ := g.proc p
    exact ⟨r', run', by rw [hp', hp]⟩

theorem of_cores {s u : State} (h : CoresOnly s u) : StoresKept s u where
  ms := h.ms
  proc p := by
    obtain ⟨r, hr⟩ := h.proc p
    exact ⟨r, _, hr⟩

theorem of_event {s u : State} (h : EventOnly s u) : StoresKept s u where
  ms := (h.frame 0).2
  proc p := ⟨_, _, (h.frame p).1⟩

theorem stopContained (s : State) (p : BitVec 6) : StoresKept s (s.stopContained p) where
  ms := rfl
  proc x := by
    by_cases hx : x = p
    · rw [hx, State.stopContained, State.proc_modProc]
      split
      · exact ⟨_, _, rfl⟩
      · exact ⟨_, _, rfl⟩
    · exact ⟨_, _, State.proc_modProc_ne s _ hx⟩

theorem foldl {α : Type} (f : State → α → State) (h : ∀ s a, StoresKept s (f s a)) (xs : List α) (s : State) : StoresKept s (xs.foldl f s) := by
  induction xs generalizing s with
  | nil => exact refl s
  | cons x xs ih => exact (h s x).trans (ih _)

end StoresKept

/-- An injection that hits disarms its block (R485). -/
theorem State.injHit_some {s t : State} {b : Blk} {chk u inv : Nat} (h : s.injHit b chk u = some (inv, t)) : EventOnly s t := by
  unfold State.injHit at h
  dsimp only at h
  split at h
  · obtain ⟨-, rfl⟩ := Prod.mk.inj (Option.some.inj h)
    rfl
  · cases h

/-- A check of an L1 data line drops it, poisons it or stops its processor (R194). -/
theorem State.l1dCheck_kept (s : State) (n l : Nat) : StoresKept s (s.l1dCheck n l) := by
  unfold State.l1dCheck
  dsimp only
  split
  · exact StoresKept.refl s
  · next x _ =>
    split
    · exact StoresKept.refl s
    · next inv t ht =>
      have hs : StoresKept s t := by
        obtain ⟨u, -, hu⟩ := List.exists_of_findSome?_eq_some ht
        obtain h | ⟨-, h⟩ := (Option.orElse_eq_some _ _ _).1 hu
        · exact .of_event (State.injHit_some h)
        · exact .of_event (State.injHit_some h)
      have hdrop (v : State) : StoresKept v ((v.modCore n fun (q : CoreS) => { q with dc := spDel q.dc l }).killResvCore n l) :=
        .of_cores ((CoresOnly.modCore v n _).trans (CoresOnly.killResvCore _ n l))
      split
      · exact hs
      · split
        · exact (hs.trans (hdrop t)).trans (.of_event (EventOnly.event _ _))
        · split
          · exact hs.trans (.of_event (EventOnly.event _ _))
          · have hline : StoresKept t (match t.cline (n / 9) l with | some c => t.setLine (n / 9) l { c with pois := true } | none => t) := by
              split
              · exact ⟨rfl, fun p => ⟨_, _, State.proc_setLine t _ l _ p⟩⟩
              · exact StoresKept.refl t
            exact (((hs.trans hline).trans (hdrop _)).trans (StoresKept.stopContained _ _)).trans (.of_event (EventOnly.event _ _))

theorem State.l1Purge_kept (s : State) (p : BitVec 6) : StoresKept s (s.l1Purge p).2 := by
  let n := s.hostCore p
  let v := (s.core n).dc.foldl (fun s (l, x) => if x.st = .m then s.l1dCheck n l else s) s
  have hv : StoresKept s v := by
    refine StoresKept.foldl _ (fun s (l, x) => ?_) _ s
    dsimp only
    split
    · exact State.l1dCheck_kept s n l
    · exact StoresKept.refl s
  let w := (v.core n).dc.foldl (fun s (l, _) => s.killResvCore n l) v
  have hw : CoresOnly v w := CoresOnly.foldl _ (fun s (l, _) => CoresOnly.killResvCore s n l) _ v
  have hx := (hv.trans (.of_cores hw)).trans (.of_cores (CoresOnly.modCore w n fun q => { q with dc := [] }))
  unfold State.l1Purge
  dsimp only
  split
  · next c _ => exact hx.trans (.of_cores (CoresOnly.modCore _ c _))
  · exact hx

/-! Retry of transients (R149 to R152), and checked pairs (R280, R283, R284, R287). -/

/-- A transient of this kind is one that processor p answers: the processor runs, and a mismatch is of a checked pair (R149, R280, R287). -/
structure State.Detects (s : State) (p : BitVec 6) (kind : BitVec 4) : Prop where
  phase : s.phase = .run
  has : s.hasProc p = true
  run : (s.proc p).run = .running
  paused : (s.proc p).paused = none
  zero : kind ≠ 0
  seven : kind.toNat ≤ 7
  pair : kind = 1 ∨ s.pairChecked p = true

section
variable {s : State} {p : BitVec 6} {kind : BitVec 4}

theorem State.Detects.gates (h : s.Detects p kind) :
    (!(decide (s.phase = .run) && s.hasProc p && decide ((s.proc p).run = .running ∨ (s.proc p).run = .waiting) && (s.proc p).paused.isNone)) = false ∧
      ¬ (kind = 0 ∨ kind.toNat > 7 ∨ (decide (kind ≠ 1) && !s.pairChecked p) = true) := by
  refine ⟨by simp [h.phase, h.has, h.run, h.paused], ?_⟩
  rintro (h0 | h7 | hm)
  · exact h.zero h0
  · exact absurd h.seven (Nat.not_le.2 h7)
  · obtain h1 | hc := h.pair
    · simp [h1] at hm
    · simp [hc] at hm

/-- A pair that runs unchecked, and a split core, ignores a mismatch (R287). -/
theorem State.transient_ignored (hk : kind ≠ 1) (hc : s.pairChecked p = false) : s.transient p kind = s := by
  unfold State.transient
  dsimp only
  split
  · rfl
  · rw [if_pos (.inr (.inr (by simpa [hc] using hk)))]

/-- The processor when a transient is to be retried: the counts are one higher (R150, R151). -/
def Proc.retried (q : Proc) (mism : Bool) : Proc :=
  { q with resvExc := q.resvExc || q.resv.isSome || q.resvFor.isSome, resv := none, resvFor := none, tries := q.tries + 1,
           triesMism := q.triesMism + b2n mism, mism := satAdd 16 q.mism (b2n mism), par := satAdd 16 q.par (b2n (!mism)) }

/-- Below the limits a transient is retried (R149, R150): what else it writes is CHKSTAT and the injections. -/
theorem State.transient_retries (h : s.Detects p kind) (ht : (s.proc p).tries < 3) (hm : kind = 1 ∨ (s.proc p).triesMism = 0) :
    ∃ cr inj, s.transient p kind = s.setProc p { (s.proc p).retried (decide (kind ≠ 1)) with cr := cr, inj := inj } := by
  obtain ⟨h1, h2⟩ := h.gates
  have hesc : (decide ((s.proc p).tries ≥ 3) || (decide (kind ≠ 1) && decide ((s.proc p).triesMism ≥ 1))) = false := by
    obtain hm | hm := hm <;> simp [hm, ht]
  unfold State.transient
  dsimp only
  rw [if_neg (by rw [h1]; decide), if_neg h2, hesc]
  exact ⟨_, _, rfl⟩

/-- The self-test of a pair that a transient pauses (R284). -/
def State.pairTest (s : State) (p : BitVec 6) (kind : BitVec 4) : SelfTest :=
  { p := p, core := BitVec.ofNat 4 (mapAt (s.map (cluOf p)) (slotOf p)), bg := false, kind := kind }

/-- The machine check of a transient that nothing can take over, before the instruction at `ip` (R150, R286). -/
def transientCheck (ip : Word) : Due := { code := 0x0C, xip := ip, info := 1, kind := 3, restart := true }

/-- Past the limits: once the L1 data cache is clean, a checked pair pauses and its self-test begins (R284); a split core without a spare
raises the machine check (R286). -/
theorem State.transient_escalates (h : s.Detects p kind) (he : 3 ≤ (s.proc p).tries ∨ (kind ≠ 1 ∧ 1 ≤ (s.proc p).triesMism)) :
    ∃ v : State, (v.proc p).g = (s.proc p).g ∧ v.ms = s.ms ∧
      (s.pairChecked p = true →
        EventOnly ((v.modProc p fun q => { q with paused := some kind }).modClu (cluOf p) fun c =>
          { c with sparing := c.sparing ++ [s.pairTest p kind] })
          (s.transient p kind)) ∧
      (s.pairChecked p = false → 9 ≤ s.spare (cluOf p) →
        EventOnly (v.modProc p fun q => { q.dropResv with mcheck := some (transientCheck (s.proc p).ip), tries := 0, triesMism := 0 })
          (s.transient p kind)) := by
  obtain ⟨h1, h2⟩ := h.gates
  have hesc : (decide ((s.proc p).tries ≥ 3) || (decide (kind ≠ 1) && decide ((s.proc p).triesMism ≥ 1))) = true := by
    obtain ht | ⟨hk, hm⟩ := he
    · rw [decide_eq_true ht, Bool.true_or]
    · rw [decide_eq_true hk, decide_eq_true hm]
      exact Bool.or_true _
  unfold State.transient
  dsimp only
  rw [if_neg (by rw [h1]; decide), if_neg h2, hesc, Bool.not_true, if_neg Bool.false_ne_true]
  let w : State := s.setProc p
    { (s.proc p).crSet 66 (BitVec.ofNat 48 (min (s.proc p).tries 3 * 64 + b2n true * 32 + kind.toNat)) with
      inj := if decide (kind ≠ 1) then (s.proc p).inj &&& 6 else (s.proc p).inj &&& 3 }
  obtain ⟨hms, hproc⟩ := State.l1Purge_kept w p
  obtain ⟨r, run, hp⟩ := hproc p
  refine ⟨(w.l1Purge p).2, ?_, hms, fun hc => ?_, fun hc hs => ?_⟩
  · rw [hp, State.proc_setProc]
    rfl
  · rw [if_pos hc]
    exact EventOnly.event _ _
  · rw [if_neg (by simp [hc]), if_neg (Nat.not_lt.2 hs)]
    exact EventOnly.event _ _

theorem EventOnly.clu {s u : State} (h : EventOnly s u) (k : Nat) : u.clu k = s.clu k := by
  rw [h]
  rfl

theorem State.proc_modClu (s : State) (k : Nat) (f : Clu → Clu) (p : BitVec 6) : (s.modClu k f).proc p = s.proc p := rfl

/-- A paused processor does nothing. -/
theorem State.able_paused {k : BitVec 4} (h : (s.proc p).paused = some k) : s.able p = false := by
  simp [State.able, h]

end

/-- With no injection armed the agreement exchange only brings what is pending to both cores (R283, R485). -/
theorem execAgreementExchangeDelivery_quiet {s : State} {p : BitVec 6} (hc : s.checked (cluOf p) = true) (hh : s.hasProc p = true) (hi : NoInjection s) :
    execAgreementExchangeDelivery p s =
      .next (s.modProc p fun q => { q with extSeen := (s.presented p).isSome, timSeen := q.timPend, mbxSeen := s.mboxDue p }) := by
  unfold execAgreementExchangeDelivery
  rw [if_pos ⟨hc, hh⟩, hi.injHit]

/-- Settles O20: a retry is `State.transient_retries`, a pause and a machine check are `State.transient_escalates`. -/
theorem checkingAndRetry : Obligations.CheckingAndRetry := by
  unfold Obligations.CheckingAndRetry
  refine ⟨fun s p hc hh hi => ?_, fun s p kind => ?_⟩
  · rw [exec_agreementExchangeDelivery, execAgreementExchangeDelivery_quiet hc hh hi]
    refine ⟨_, rfl, OnlyProc.modProc s p _, ?_⟩
    rw [State.proc_modProc]
    exact ⟨rfl, rfl, rfl, rfl, rfl, rfl⟩
  · intro q hphase hhas hrun hpaused
    have hparity : s.Detects p 1 := ⟨hphase, hhas, hrun, hpaused, by decide, by decide, .inl rfl⟩
    have hne (n : BitVec 4) (hn : n.toNat < 2) (h2 : 2 ≤ kind.toNat) : kind ≠ n := fun h => absurd hn (Nat.not_lt.2 (h ▸ h2))
    have hmism (h2 : 2 ≤ kind.toNat) (h7 : kind.toNat ≤ 7) (hc : s.pairChecked p = true) : s.Detects p kind :=
      ⟨hphase, hhas, hrun, hpaused, hne 0 (by decide) h2, h7, .inr hc⟩
    have hexec (h2 : 2 ≤ kind.toNat) : execComparatorMismatch p kind s = .next (s.transient p kind) :=
      congrArg Host.Outcome.next (if_neg (hne 1 (by decide) h2))
    rw [exec_detectedTransient, exec_comparatorMismatch, execDetectedTransient]
    refine ⟨fun ht => ?_, fun h2 h7 hc ht hm => ?_, fun h2 h7 hc hm => ?_, fun h2 hc => ?_, fun ht hc hs => ?_⟩
    · obtain ⟨cr, inj, hu⟩ := State.transient_retries hparity ht (.inl rfl)
      rw [hu]
      refine ⟨_, rfl, OnlyProc.setProc s p _, ?_⟩
      rw [State.proc_setProc]
      exact ⟨rfl, rfl, rfl, rfl, rfl, rfl, rfl, rfl, rfl, rfl⟩
    · obtain ⟨cr, inj, hu⟩ := State.transient_retries (hmism h2 h7 hc) ht (.inr hm)
      have hk : decide (kind ≠ 1) = true := decide_eq_true (hne 1 (by decide) h2)
      rw [hexec h2, hu, hk]
      refine ⟨_, rfl, OnlyProc.setProc s p _, ?_⟩
      rw [State.proc_setProc]
      exact ⟨rfl, congrArg (· + 1) hm, rfl, rfl, rfl, rfl, rfl⟩
    · obtain ⟨v, hg, hms, hpause, -⟩ := State.transient_escalates (hmism h2 h7 hc) (.inr ⟨hne 1 (by decide) h2, hm⟩)
      have hev := hpause hc
      obtain ⟨hp, hms'⟩ := hev.frame p
      have hpaused' : ((s.transient p kind).proc p).paused = some kind := by
        rw [hp, State.proc_modClu, State.proc_modProc]
      rw [hexec h2]
      refine ⟨_, rfl, hpaused', State.able_paused hpaused', ?_, ?_, hms'.trans hms⟩
      · rw [hp, State.proc_modClu, State.proc_modProc]
        exact hg
      · rw [hev.clu, State.clu_modClu_same]
        exact ⟨_, List.mem_append_right _ List.mem_cons_self, rfl, rfl⟩
    · rw [hexec h2, State.transient_ignored (hne 1 (by decide) h2) hc]
    · obtain ⟨v, hg, hms, -, hcheck⟩ := State.transient_escalates hparity (.inl ht)
      obtain ⟨hp, hms'⟩ := (hcheck hc hs).frame p
      refine ⟨_, transientCheck q.ip, rfl, ?_⟩
      rw [hp, State.proc_modProc]
      exact ⟨rfl, rfl, rfl, rfl, rfl, hg, hms'.trans hms⟩

end Sys2Proof.Machine

namespace Sys2Proof.Machine

open Sys2Proof

/-! The head of the store buffer departs (R158, R159). -/

section
variable {s : State} {p : BitVec 6} {rest : List SbItem} {e : Entry} {l : Nat} {c : CLine}

/-- The head of the store buffer is gone. -/
def Proc.popped (q : Proc) (rest : List SbItem) : Proc := { q with sb := rest }

/-- The head of the store buffer has left for the new slot i, as its entry `y`. -/
def State.slotted (s : State) (p : BitVec 6) (rest : List SbItem) (i : Nat) (y : SEnt) : State :=
  s.setProc p { s.proc p with sb := rest, slots := (s.proc p).slots ++ [⟨i, [y], true⟩] }

theorem State.depart_marker {sc : BitVec 2} {sn : Nat} (h : (s.proc p).sb = .marker sc sn :: rest) (hs : (s.proc p).slotsAt sc sn = true) :
    s.depart p = s.setProc p { s.proc p with sb := rest } := by
  unfold State.depart
  dsimp only
  rw [h]
  dsimp only
  rw [if_pos hs]

/-- A store whose line no cache may hold is posted: to a register, in pieces to host memory (R314), over Mbova to another node. -/
theorem State.depart_posted {i : Nat} (h : Departs (s.proc p) e rest) (hi : (s.proc p).freeSlot = some i) (hl : s.entryLine e = none) :
    s.depart p =
      let u := s.slotted p rest i { e := e, st := .sent, tick := s.ticks }
      if e.space = 3 then (if u.cxl.gpf ∨ u.mstat 1 then u else u.hostWrites e.at_ (e.bytes.map fun x => x.2))
      else if e.space = 4 then u.rWrite (.store p i) e.node (e.at_ / 96) ((u.instOfProc p).getD 0) p.toNat e.bytes
      else u := by
  obtain ⟨hsb, hw⟩ := h
  have hi' : Proc.freeSlot { s.proc p with sb := rest } = some i := hi
  unfold State.depart State.newSlot
  dsimp only
  rw [hsb]
  dsimp only
  rw [hw, if_neg Bool.false_ne_true, hl]
  dsimp only
  rw [hi']
  rfl

/-- A store whose line has a slot joins it. -/
theorem State.depart_joins {x : Slot} {y : Entry} (h : Departs (s.proc p) e rest) (hl : s.entryLine e = some l) (hs : (s.proc p).slots = [x])
    (hy : y ∈ x.entries) (hyl : s.entryLine y = some l) (hp : e.persist = false) :
    s.depart p = s.setProc p { s.proc p with
      sb := rest, slots := [{ x with ents := x.ents ++ [{ e := e, st := .waiting, tick := s.ticks }] }] } := by
  obtain ⟨hsb, hw⟩ := h
  have hx : ((s.proc p).slots.find? fun x => x.entries.any fun y => s.entryLine y = some l) = some x := by
    rw [hs]
    exact List.find?_cons_of_pos (List.any_eq_true.2 ⟨y, hy, decide_eq_true hyl⟩)
  unfold State.depart
  dsimp only
  rw [hsb]
  dsimp only
  rw [hw, if_neg Bool.false_ne_true, hl]
  dsimp only
  rw [hx]
  dsimp only
  rw [hs, hp]
  simp

section
variable (h : Departs (s.proc p) e rest) (hl : s.entryLine e = some l) (hs : (s.proc p).slots = []) (hsound : SoundLine s (cluOf p) l c)
include h hl hs hsound

/-- A store to a line that its core's L1 data cache may write goes into the line at once. -/
theorem State.depart_writes {x : L1Line} (hc : e.comb = false) (hp : e.persist = true → c.pg = true) (hx : spGet (s.core (s.hostCore p)).dc l = some x)
    (h1 : x.st ≠ .s) (ho : c.st = .m ∨ c.st = .e) :
    s.depart p = (s.setProc p (((s.proc p).popped rest).writesPersist l e.persist)).cluWrite (cluOf p) l (some (s.hostCore p)) (some p)
      e.rel := by
  obtain ⟨hsb, hw⟩ := h
  have hnone : ((s.proc p).slots.find? fun x => x.entries.any fun y => s.entryLine y = some l) = none := by
    rw [hs]
    rfl
  have hpg : e.persist = false ∨ c.pg = true := by
    cases hper : e.persist
    · exact .inl rfl
    · exact .inr (hp hper)
  unfold State.depart
  dsimp only
  rw [hsb]
  dsimp only
  rw [hw, if_neg Bool.false_ne_true, hl]
  dsimp only
  rw [hnone, hx, hsound.hidden, hsound.1]
  exact if_pos (by simpa [h1, ho, hc] using hpg)

/-- A store to a line that its cluster only shares takes slot 0 and asks for ownership. -/
theorem State.depart_asks (hp : e.persist = false) (ho : c.st = .s) :
    s.depart p = (s.slotted p rest 0 { e := e, st := .waiting, tick := s.ticks }).slotGo p 0 := by
  obtain ⟨hsb, hw⟩ := h
  have hfree : Proc.freeSlot { s.proc p with sb := rest } = some 0 := by
    unfold Proc.freeSlot
    rw [hs]
    rfl
  unfold State.depart State.newSlot
  dsimp only
  rw [hsb]
  dsimp only
  rw [hw, if_neg Bool.false_ne_true, hl]
  dsimp only
  rw [hsound.1, hfree, hs, hp, State.slotted, hs]
  simp [ho]

end
end

/-! Slots (R158, R201). -/

/-- A line that the cluster shares is asked for with Upg when it is to be written (R199, R205). -/
theorem SoundLine.wantLine_upg {s : State} {k l : Nat} {c : CLine} (h : SoundLine s k l c) (hst : c.st = .s) (preload : Bool) (m : Nat) :
    s.wantLine k l true preload m = (.waiting, (s.setLine k l { c with st := .sm, tick := s.ticks }).send
      { src := .ag (cluAg k), dst := s.homeNode l, kind := .upg, line := l, req := cluAg k, mast := some m }) := by
  unfold State.wantLine
  rw [h.ccTag]
  dsimp only
  rw [h.hidden, if_neg Bool.false_ne_true, h.1]
  dsimp only
  rw [hst]
  rfl

section
variable {s : State} {p : BitVec 6} {n l : Nat} {x : Slot} {y : SEnt} {more : List SEnt} {c : CLine}

section
variable (hx : ((s.proc p).slots.find? fun z => z.id = n) = some x) (he : x.ents = y :: more) (hl : s.entryLine y.e = some l)
  (hst : y.st = .waiting) (hc : y.e.comb = false)
include hx he hl hst hc

/-- A slot whose line its cluster has just asked for waits. -/
theorem State.slotGo_waits {u : State} (hw : s.wantLine (cluOf p) l true false p.toNat = (.waiting, u)) : s.slotGo p n = u := by
  unfold State.slotGo
  dsimp only
  rw [hx]
  dsimp only
  rw [he]
  dsimp only
  rw [hl]
  dsimp only
  rw [hst]
  dsimp only
  rw [hc, if_neg Bool.false_ne_true, hw]

/-- A slot whose line its cluster owns writes. -/
theorem State.slotGo_writes (hs : SoundLine s (cluOf p) l c) (ho : c.st = .m ∨ c.st = .e) : s.slotGo p n = s.slotWrite p x l c := by
  unfold State.slotGo
  dsimp only
  rw [hx]
  dsimp only
  rw [he]
  dsimp only
  rw [hl]
  dsimp only
  rw [hst]
  dsimp only
  rw [hc, if_neg Bool.false_ne_true, hs.wantLine_own ho]
  dsimp only
  rw [hs.1]

end

/-- The line as a slot's write finds it: with the persist grant that a persist-class store has brought (R255). -/
def State.granting (s : State) (k l : Nat) (c : CLine) (persist : Bool) : State := if persist then s.setLine k l { c with pg := true } else s

/-- A slot that holds one store writes it into the line that its cluster owns, and is free then. -/
theorem State.slotWrite_one (he : x.ents = [y]) (hst : y.st = .waiting) (hc : y.e.comb = false)
    (hp : y.e.persist = true → x.granted = true ∨ c.pg = true) (ho : c.st = .m ∨ c.st = .e) (hw : s.l1dWait (s.hostCore p) l = false) :
    s.slotWrite p x l c = ((s.granting (cluOf p) l c y.e.persist).cluWrite (cluOf p) l (some (s.hostCore p)) (some p) y.e.rel).modProc p
      fun q => (q.writesPersist l y.e.persist).setEnts x.id [] := by
  have hma : c.st ≠ .ma := by obtain e | e := ho <;> rw [e] <;> decide
  have hpre : x.owned = [y] := by simp [Slot.owned, he, hc, hst]
  have hpg : (y.e.persist && !(x.granted || c.pg)) = false := by
    cases hx : y.e.persist
    · rfl
    · obtain h | h := hp hx <;> simp [h]
  unfold State.slotWrite
  dsimp only
  rw [hpre, he, hw, decide_eq_false hma]
  simp only [List.any_cons, List.any_nil, Bool.or_false]
  rw [hpg]
  simp [hma, State.granting]

end

theorem mem_of_spGet {α : Type} {m : Sp α} {k : Nat} {v : α} (h : spGet m k = some v) : (k, v) ∈ m := by
  induction m with
  | nil => cases h
  | cons x m ih =>
    obtain ⟨j, w⟩ := x
    by_cases hj : j = k
    · have hw : some w = some v := (if_pos hj).symm.trans h
      rw [hj, Option.some.inj hw]
      exact List.mem_cons_self
    · exact List.mem_cons_of_mem _ (ih ((if_neg hj).symm.trans h))

theorem mem_spIns {α : Type} {m : Sp α} {k : Nat} {v : α} {x : Nat × α} (h : x ∈ spIns m k v) : x = (k, v) ∨ x ∈ m := by
  induction m with
  | nil => exact .inl (List.mem_singleton.1 h)
  | cons y m ih =>
    obtain ⟨j, w⟩ := y
    unfold spIns at h
    split at h
    · exact List.mem_cons.1 h
    · split at h
      · exact (List.mem_cons.1 h).imp_right (List.mem_cons_of_mem _)
      · obtain h | h := List.mem_cons.1 h
        · exact .inr (h ▸ List.mem_cons_self)
        · exact (ih h).imp_right (List.mem_cons_of_mem _)

/-- A sound line stays sound when its entry takes the persist grant. -/
theorem SoundLine.granting {s : State} {k l : Nat} {c : CLine} (h : SoundLine s k l c) (ho : c.st = .m ∨ c.st = .e) (persist : Bool) :
    ∃ c', SoundLine (s.granting k l c persist) k l c' ∧ c'.st = c.st ∧ c'.data = c.data := by
  cases persist
  · exact ⟨c, h, rfl, rfl⟩
  · obtain ⟨hc, hf, hs, ht, hcc, hinj⟩ := h
    have hclu : (s.setLine k l { c with pg := true }).clu k = { s.clu k with lines := spIns (s.clu k).lines l { c with pg := true } } :=
      State.clu_modClu_same s k _
    have hbad : c.tagBad = false := by
      refine ht (l, c) (List.mem_filter.2 ⟨mem_of_spGet hc, decide_eq_true ⟨rfl, ?_⟩⟩)
      obtain e | e := ho <;> rw [e] <;> decide
    refine ⟨{ c with pg := true }, ⟨State.cline_setLine_same s k l _, hf, ?_, fun x hx => ?_, hcc, hinj⟩, rfl, rfl⟩
    · exact (congrArg Clu.search hclu).trans hs
    · obtain ⟨hm, hset⟩ := List.mem_filter.1 hx
      rw [State.granting, if_pos rfl, hclu] at hm
      obtain rfl | hm := mem_spIns hm
      · exact hbad
      · exact ht x (List.mem_filter.2 ⟨hm, hset⟩)

/-- What a write in an owned line leaves of the cluster's lines. -/
theorem CoresOnly.written_line {s u : State} {k l : Nat} {c : CLine} {bs : List Host.Cell} (h : CoresOnly (s.setLine k l (c.written bs)) u) :
    (∃ c', u.cline k l = some c' ∧ c'.st = .m ∧ c'.data = overlay 0 c.data bs) ∧ ∀ i j, (i, j) ≠ (k, l) → u.cline i j = s.cline i j :=
  ⟨⟨_, (h.cline k l).trans (State.cline_setLine_same s k l _), rfl, rfl⟩, fun i j hne => (h.cline i j).trans (State.cline_setLine_ne s _ hne)⟩

theorem State.granting_frame (s : State) (k l : Nat) (c : CLine) (persist : Bool) (p : BitVec 6) :
    (s.granting k l c persist).proc p = s.proc p ∧ (s.granting k l c persist).ms = s.ms := by
  cases persist <;> exact ⟨rfl, rfl⟩

/-- A slot left without entries is free. -/
theorem Proc.mem_setEnts_nil {q : Proc} {n : Nat} {z : Slot} (h : z ∈ (q.setEnts n []).slots) : z.id ≠ n := by
  obtain ⟨hm, he⟩ := List.mem_filter.1 h
  obtain ⟨x, -, rfl⟩ := List.mem_map.1 hm
  by_cases hx : x.id = n
  · rw [if_pos hx] at he
    cases he
  · rwa [if_neg hx]

/-! What a posted write's target does (R158), and stores that are dropped (R166, R168). -/

section
variable {s : State} {p : BitVec 6} {n : Nat} {x : Slot} {y : SEnt} {more : List SEnt}

section
variable (hx : ((s.proc p).slots.find? fun z => z.id = n) = some x) (he : x.ents = y :: more)
include hx he

/-- Host memory acknowledges a posted write: its entry goes. -/
theorem State.postedAck_host (hs : y.e.space = 3) : s.postedAck p n = s.setProc p ((s.proc p).setEnts n more) := by
  unfold State.postedAck
  dsimp only
  rw [hx]
  dsimp only
  rw [he]
  dsimp only
  rw [hs]
  rfl

/-- A register block acts on a posted write when it is that write's turn. -/
theorem State.postedAck_device (hrun : s.phase = .run) (hs : y.e.space = 2) (ht : (s.proc p).devTurn y.e.sn y.e.at_ = true) :
    s.postedAck p n =
      (s.setProc p ((s.proc p).setEnts n more)).devWrite (.proc p) y.e.at_ (leWord (y.e.bytes.map fun z => z.2)) := by
  unfold State.postedAck
  dsimp only
  rw [hx]
  dsimp only
  rw [he]
  dsimp only
  rw [hs]
  exact if_pos ⟨hrun, ht⟩

end

theorem execPostedWriteAck_run (h : s.phase = .run) (p : BitVec 6) (n : Nat) : execPostedWriteAck p n s = .next (s.postedAck p n) := by
  have hf : s.finishing = true := by
    unfold State.finishing
    rw [h]
  rw [execPostedWriteAck, hf, if_pos rfl]

/-- `n` stores of p have been dropped: they are counted, the first drop is kept, and nothing is written. -/
structure StoresDropped (s u : State) (p : BitVec 6) (n : Nat) : Prop where
  drops : (u.proc p).drops = (s.proc p).drops + n
  first : 0 < n ∨ (s.proc p).drop1.isSome = true → (u.proc p).drop1.isSome = true
  slots : (u.proc p).slots = (s.proc p).slots
  g : (u.proc p).g = (s.proc p).g
  ms : u.ms = s.ms
  clus : u.clus = s.clus

/-- The processor behind one dropped store (R168). -/
def Proc.dropped (q : Proc) (e : Entry) : Proc :=
  { q with drops := q.drops + 1
           drop1 := some (q.drop1.getD { space := e.space, seg := e.seg, acc := e.acc, paddr := BitVec.ofNat 48 e.at_ })
           dropP := q.dropP || e.persist }

theorem State.dropStore_event (s : State) (p : BitVec 6) (e : Entry) : EventOnly (s.modProc p fun q => q.dropped e) (s.dropStore p e) :=
  EventOnly.event _ _

theorem State.dropStore_spec (s : State) (p : BitVec 6) (e : Entry) : StoresDropped s (s.dropStore p e) p 1 := by
  have hev := State.dropStore_event s p e
  obtain ⟨hp, hms⟩ := hev.frame p
  rw [State.proc_modProc] at hp
  refine ⟨?_, fun _ => ?_, ?_, ?_, hms, ?_⟩
  · rw [hp, Proc.dropped]
  · rw [hp, Proc.dropped]
    rfl
  · rw [hp, Proc.dropped]
  · rw [hp, Proc.dropped]
  · rw [hev]
    rfl

theorem State.dropAll_spec (ys : List SEnt) (s : State) (p : BitVec 6) :
    StoresDropped s (ys.foldl (fun s y => s.dropStore p y.e) s) p ys.length := by
  induction ys generalizing s with
  | nil => exact ⟨rfl, fun h => h.resolve_left (lt_irrefl 0), rfl, rfl, rfl, rfl⟩
  | cons y ys ih =>
    obtain ⟨hd, hf, hs, hg, hms, hc⟩ := State.dropStore_spec s p y.e
    obtain ⟨hd', hf', hs', hg', hms', hc'⟩ := ih (s.dropStore p y.e)
    refine ⟨?_, fun _ => hf' (.inr (hf (.inl Nat.one_pos))), hs'.trans hs, hg'.trans hg, hms'.trans hms, hc'.trans hc⟩
    rw [List.foldl_cons, hd', hd, List.length_cons, Nat.add_assoc, Nat.add_comm 1]

/-- All stores of a slot whose time is over are dropped, and the slot is free. -/
theorem State.storesTimeOut (hx : ((s.proc p).slots.find? fun z => z.id = n) = some x) (he : x.ents ≠ [])
    (hl : ∀ y ∈ x.ents, s.storeLate p x y = true) : execStoreTimeout p n s = .next (s.dropStores p x (s.storeLate p x)) := by
  obtain ⟨y, hy⟩ := List.exists_mem_of_ne_nil _ he
  unfold execStoreTimeout
  rw [hx]
  exact congrArg _ (if_pos (List.any_eq_true.2 ⟨y, hy, hl y hy⟩))

theorem State.dropStores_all {pick : SEnt → Bool} (hl : ∀ y ∈ x.ents, pick y = true) :
    ∃ t : State, t.proc p = (s.proc p).setEnts x.id [] ∧ t.ms = s.ms ∧ t.clus = s.clus ∧
      StoresDropped t (s.dropStores p x pick) p x.ents.length := by
  have hall : x.ents.filter pick = x.ents := List.filter_eq_self.2 hl
  have hnone : (x.ents.filter fun y => !pick y) = [] := List.filter_eq_nil_iff.2 fun y hy => by simp [hl y hy]
  unfold State.dropStores
  dsimp only
  rw [hall, hnone]
  refine ⟨_, ?_, ?_, ?_, State.dropAll_spec _ _ p⟩
  · rw [State.proc_modProc]
    split <;> rfl
  · split <;> rfl
  · split <;> rfl

end

/-- Settles O8: each form of a departure is one of the `State.depart_` lemmas; what is written in a line is `SoundLine.cluWrite`, what a
time-out drops `State.dropStores_all`. -/
theorem storesDepartAndEnd : Obligations.StoresDepartAndEnd := by
  unfold Obligations.StoresDepartAndEnd
  refine ⟨fun s p rest => ⟨fun sc sn h hs => ?_, fun e i h hi hl => ?_, fun e l c x h hl hc hp hs hx h1 hsound ho => ?_,
    fun e l c h hl hc hp hs hsound ho => ?_, fun e l x y h hl hs hy hyl hp => ?_⟩,
    fun s p x y l c hs he hst hl hc hp hsound ho hw => ?_, fun s p x y more hrun hx he => ?_, fun s p x hx he hlate => ?_,
    fun s p b hb => ?_⟩
  · rw [exec_storeDepart, execStoreDepart, State.depart_marker h hs]
  · intro posted
    rw [exec_storeDepart, execStoreDepart, State.depart_posted h hi hl]
    refine ⟨fun h2 => ?_, fun h3 hg hm => ?_, fun h4 => ?_⟩
    · rw [h2]
      rfl
    · rw [h3]
      exact congrArg _ ((if_pos rfl).trans (if_neg (not_or.2 ⟨ne_true_of_eq_false hg, ne_true_of_eq_false hm⟩)))
    · rw [h4]
      rfl
  · rw [exec_storeDepart, execStoreDepart, State.depart_writes h hl hs hsound hc hp hx h1 ho]
    obtain ⟨ls, hls⟩ := Proc.writesPersist_eq ((s.proc p).popped rest) l e.persist
    have hwr := SoundLine.cluWrite (s := s.setProc p (((s.proc p).popped rest).writesPersist l e.persist)) hsound ho (s.hostCore p) (some p) e.rel
    obtain ⟨r, hproc⟩ := hwr.proc p
    rw [State.proc_setLine, State.proc_setProc] at hproc
    obtain ⟨hline, hothers⟩ := hwr.written_line
    refine ⟨_, rfl, ?_, ?_, hwr.ms, hline, hothers⟩
    · rw [hproc, hls]
      rfl
    · rw [hproc, hls]
      exact hs
  · let t := s.slotted p rest 0 { e := e, st := .waiting, tick := s.ticks }
    have hslots : (t.proc p).slots = [⟨0, [{ e := e, st := .waiting, tick := s.ticks }], true⟩] := by
      show (State.proc (s.setProc p _) p).slots = _
      rw [State.proc_setProc, hs]
      rfl
    have hfind : ((t.proc p).slots.find? fun z => z.id = 0) = some ⟨0, [{ e := e, st := .waiting, tick := s.ticks }], true⟩ := by
      rw [hslots]
      rfl
    have hsound' : SoundLine t (cluOf p) l c := hsound
    rw [exec_storeDepart, execStoreDepart, State.depart_asks h hl hs hsound hp ho,
      State.slotGo_waits hfind rfl hl rfl hc (hsound'.wantLine_upg ho _ _)]
    exact ⟨_, rfl, congrArg Proc.sb (State.proc_setProc s p _), hslots, rfl, _, rfl, rfl, rfl, rfl, rfl⟩
  · rw [exec_storeDepart, execStoreDepart, State.depart_joins h hl hs hy hyl hp]
    exact ⟨_, rfl, rfl, rfl⟩
  · have hfind : ((s.proc p).slots.find? fun z => z.id = x.id) = some x := by
      rw [hs]
      exact List.find?_cons_of_pos (decide_eq_true rfl)
    obtain ⟨c', hsound', hst', hdata⟩ := hsound.granting ho y.e.persist
    obtain ⟨hproc, hms⟩ := State.granting_frame s (cluOf p) l c y.e.persist p
    have hwr := hsound'.cluWrite (hst' ▸ ho) (s.hostCore p) (some p) y.e.rel
    obtain ⟨r, hw'⟩ := hwr.proc p
    rw [State.proc_setLine, hproc] at hw'
    rw [exec_ownershipArrival, execOwnershipArrival, State.slotGo_writes hfind he hl hst hc hsound ho, State.slotWrite_one he hst hc hp ho hw]
    refine ⟨_, rfl, ?_, hwr.ms.trans hms, hdata ▸ hwr.written_line.1⟩
    obtain ⟨ls, hls⟩ := Proc.writesPersist_eq { s.proc p with resv := r } l y.e.persist
    rw [State.proc_modProc, hw', hls]
    simp [Proc.setEnts, hs]
  · rw [exec_postedWriteAck, execPostedWriteAck_run hrun]
    exact ⟨fun h3 => congrArg _ (State.postedAck_host hx he h3), fun h2 ht => congrArg _ (State.postedAck_device hx he hrun h2 ht)⟩
  · obtain ⟨t, hp, hms, hclus, hd, hf, hsl, hg, hms', hclus'⟩ := State.dropStores_all (s := s) (p := p) hlate
    rw [exec_storeTimeout, State.storesTimeOut hx he hlate]
    refine ⟨_, rfl, fun z hz => ?_, ?_, hf (.inl (List.length_pos_iff.2 he)), hms'.trans hms, hclus'.trans hclus, fun r => ?_⟩
    · rw [hsl, hp] at hz
      exact Proc.mem_setEnts_nil hz
    · rw [hd, hp]
      rfl
    · rw [Proc.gR, Proc.gR, hg, hp]
      rfl
  · rw [exec_llwBackoffExpiry]
    have hsome : ¬ (s.proc p).backoff.isNone = true := by simp [hb]
    refine ⟨fun hn => ?_, fun l hl => ?_⟩
    · unfold execLlwBackoffExpiry
      dsimp only
      rw [if_neg hsome, hn]
    · unfold execLlwBackoffExpiry
      dsimp only
      rw [if_neg hsome, hl]

end Sys2Proof.Machine

namespace Sys2Proof.Machine

open Sys2Proof

/-! Retry, Pending and reservations (R209, R210). -/

section
variable {s : State} {l : Nat}

theorem State.onLine_ok (h : s.lineOk l = true) (f : State → State) : s.onLine l f = .next (f s) := if_pos h

/-- Cluster k has been answered about line l (R166, R167): the loads of its processors that asked for the line count as answered. -/
structure AnsweredBy (s u : State) (k l : Nat) (p : BitVec 6) : Prop where
  loads : cluOf p = k →
    (u.proc p).loads = (s.proc p).loads.map fun x => if x.asked && decide (s.loadLine x = some l) then { x with ans := true } else x
  other : cluOf p ≠ k → u.proc p = s.proc p
  g : (u.proc p).g = (s.proc p).g
  ip : (u.proc p).ip = (s.proc p).ip

/-- The processor of the answered cluster. -/
def State.answeredProc (s : State) (l : Nat) (q : Proc) : Proc :=
  { q with
      slots := q.slots.map (fun x => { x with ents := x.ents.map fun y => if s.entryLine y.e = some l then { y with ans := true } else y }),
      loads := q.loads.map (fun x => if x.asked && decide (s.loadLine x = some l) then { x with ans := true } else x) }

theorem State.answered_proc (s : State) (k l : Nat) (p : BitVec 6) :
    (s.answered k l).proc p = if cluOf p = k then s.answeredProc l (s.proc p) else s.proc p := by
  have hg : ∀ x : Nat × Proc, (if x.1 / 8 = k then (x.1, s.answeredProc l x.2) else (x.1, x.2)).1 = x.1 := fun x => by split <;> rfl
  unfold State.proc spGetD
  show (spGet (s.procs.map fun x => if x.1 / 8 = k then (x.1, s.answeredProc l x.2) else (x.1, x.2)) p.toNat).getD _ = _
  rw [spGet_map hg]
  cases spGet s.procs p.toNat with
  | none => by_cases h : cluOf p = k <;> simp [h, State.answeredProc, State.answered, procInit]
  | some q => by_cases h : p.toNat / 8 = k <;> simp [h, cluOf]

theorem State.answered_spec (s : State) (k l : Nat) (p : BitVec 6) : AnsweredBy s (s.answered k l) k l p := by
  have hp := State.answered_proc s k l p
  by_cases h : cluOf p = k
  · rw [if_pos h] at hp
    exact ⟨fun _ => by rw [hp]; rfl, fun hn => absurd h hn, by rw [hp]; rfl, by rw [hp]; rfl⟩
  · rw [if_neg h] at hp
    exact ⟨fun hk => absurd hk h, fun _ => hp, congrArg Proc.g hp, congrArg Proc.ip hp⟩

def MK.isRetry (k : MK) : Bool := match k with | .retry _ => true | _ => false

theorem State.retryAt_cluster {k : BitVec 3} {m : Msg} {net : List Msg}
    (h : takeMsg (fun m => decide (m.line = l) && decide (m.dst = .ag (.cluster k)) && m.kind.isRetry) [] s.net = some (m, net)) :
    s.retryAt l (.cluster k) = State.answered { s with net := net, parked := s.parked ++ [{ m with tries := m.tries + 1 }] } k.toNat l := by
  unfold State.retryAt
  split
  · next e => cases h.symm.trans e
  · next e =>
    cases h.symm.trans e
    rfl

theorem State.pendAt_cluster {k : BitVec 3} {m : Msg} {net : List Msg}
    (h : takeMsg (fun m => m.line = l ∧ m.dst = .ag (.cluster k) ∧ m.kind = .pend) [] s.net = some (m, net)) :
    s.pendAt l (.cluster k) = State.answered { s with net := net } k.toNat l := by
  unfold State.pendAt
  rw [h]

/-- A cluster's request whose back-off is over is sent to the home again. -/
theorem State.resend_cluster {k : BitVec 3} {m : Msg} (h : (s.parked.find? fun m => m.line = l ∧ m.dst = .ag (.cluster k)) = some m) :
    s.resend l (.cluster k) = State.send { s with parked := s.parked.erase m }
      { m with src := .ag (.cluster k), dst := s.homeNode l, kind := m.orig.getD .rdS, orig := none, sticky := decide (8 ≤ m.tries) } := by
  unfold State.resend
  rw [h]
  exact if_neg (by simp)

theorem State.stack_modStack (s : State) (n : Nat) (f : Stack → Stack) : (s.modStack n f).stack n = f (s.stack n) := by
  simp [State.stack, State.modStack, spGetD, spGet_spIns_same]

/-- Pending goes to every requester the home works for. -/
theorem State.pendTick_eq (s : State) (l : Nat) : s.pendTick l = { s with
    net := s.net ++ (s.working l).map fun a => { src := s.homeNode l, dst := .ag a, kind := .pend, line := l, req := a } } := by
  unfold State.pendTick
  generalize s.working l = xs
  induction xs generalizing s with
  | nil => rw [List.map_nil, List.append_nil]; rfl
  | cons a xs ih =>
    rw [List.foldl_cons, ih, List.map_cons]
    simp only [State.send, List.append_assoc, List.singleton_append]
    rfl

theorem State.mem_working_txn {t : Txn} (h : (s.dirOf l).txn = some t) : t.msg.req ∈ s.working l := by
  unfold State.working
  rw [h]
  simp

theorem State.mem_working_queue {m : Msg} (h : m ∈ (s.stack (s.sliceOf l)).queue) (hl : m.line = l) : m.req ∈ s.working l := by
  have hm : m.req ∈ ((s.stack (s.sliceOf l)).queue.filter fun m => m.line = l).map fun m => m.req :=
    List.mem_map_of_mem (List.mem_filter.2 ⟨h, decide_eq_true hl⟩)
  unfold State.working
  simp [hm]

theorem State.mem_working_held {a : Agent} (h : (l, a) ∈ (s.stack (s.sliceOf l)).held) : a ∈ s.working l := by
  unfold State.working
  simp [h]

end

/-! What an access to the array touches (R227, R233, R237, R239, R242). -/

/-- Between `s` and `u` only the array with its check bits, the controllers' counters, registers and what records an event differ. -/
def ArrayOnly (s u : State) : Prop :=
  u = { s with ms := u.ms, flips := u.flips, stks := u.stks, fe := u.fe, dev := u.dev, outbox := u.outbox, cxl := u.cxl, pew := u.pew }

namespace ArrayOnly

theorem refl (s : State) : ArrayOnly s s := rfl

theorem trans {s t u : State} (h : ArrayOnly s t) (g : ArrayOnly t u) : ArrayOnly s u := by
  unfold ArrayOnly at *; rw [g, h]

theorem of_event {s u : State} (h : EventOnly s u) : ArrayOnly s u := by
  rw [h]
  rfl

theorem modStack (s : State) (n : Nat) (f : Stack → Stack) : ArrayOnly s (s.modStack n f) := rfl

theorem sg (s : State) (a : Nat) (v d : Word) : ArrayOnly s (s.sg a v d) := rfl

theorem event (s : State) (e : Ev) : ArrayOnly s (s.event e) := .of_event (EventOnly.event s e)

theorem ite {s t u : State} {c : Prop} [Decidable c] (h : ArrayOnly s t) (g : ArrayOnly s u) : ArrayOnly s (if c then t else u) := by
  split
  · exact h
  · exact g

/-- Bytes of the array with their check bits. -/
theorem bytes (s : State) (ms : Sp Byte) (flips : Sp Byte) : ArrayOnly s { s with ms := ms, flips := flips } := rfl

theorem foldl {α : Type} (f : State → α → State) (h : ∀ s a, ArrayOnly s (f s a)) (xs : List α) (s : State) : ArrayOnly s (xs.foldl f s) := by
  induction xs generalizing s with
  | nil => exact refl s
  | cons x xs ih => exact (h s x).trans (ih _)

theorem inject (s : State) (l w : Nat) : ArrayOnly s (s.inject l w) := by
  unfold State.inject; dsimp only; split <;> rfl

theorem poisonWords (s : State) (l : Nat) (ws : List Nat) : ArrayOnly s (s.poisonWords l ws) :=
  (bytes s s.ms _).trans (foldl _ (fun s w => inject s l w) ws _)

theorem poisonLine (s : State) (l : Nat) : ArrayOnly s (s.poisonLine l) := by
  unfold State.poisonLine
  split
  · exact refl s
  · exact (poisonWords s l _).trans (modStack _ _ _)

theorem wordEvent (s : State) (l a b c d : Nat) (ys : List (BitVec 7)) : ArrayOnly s (s.wordEvent l a b c d ys) := by
  unfold State.wordEvent
  split
  · exact refl s
  · exact event s _

theorem addrMismatch (s : State) (l m : Nat) : ArrayOnly s (s.addrMismatch l m) := by
  unfold State.addrMismatch
  dsimp only
  split
  · exact ((((modStack s _ _).trans (event _ _)).trans (modStack _ _ _)).trans (sg _ _ _ _)).trans (event _ _)
  · exact (modStack s _ _).trans (event _ _)

theorem correct (s : State) (l : Nat) (fixes : List (Nat × Word × BitVec 7 × Nat)) : ArrayOnly s (s.correct l fixes) := by
  unfold State.correct
  dsimp only
  exact foldl _ (fun s x => ((modStack s _ _).trans (bytes _ _ _)).trans (inject _ l x.1)) fixes s

theorem arrayRead (s : State) (l : Nat) (err : List (BitVec 56)) (m : Nat) : ArrayOnly s (s.arrayRead l err m).2.2 := by
  unfold State.arrayRead
  dsimp only
  split
  · dsimp only
    exact modStack s _ _
  · have hread := (correct s l (fixesOf (s.lineOuts l err))).trans
      (wordEvent _ l 0x0301 0 1 m ((fixesOf (s.lineOuts l err)).map fun x => x.2.2.1))
    split
    · dsimp only
      have hserved := hread.trans (modStack _ (s.homeOf l) fun k => { k with served := satAdd 24 k.served 1 })
      have hamm := ite (c := ((s.lineOuts l err).any fun o => o = .mismatch) = true) (hserved.trans (addrMismatch _ l m)) hserved
      split
      · exact (hamm.trans (modStack _ _ _)).trans (wordEvent _ l _ _ _ _ _)
      · exact ((hamm.trans (modStack _ _ _)).trans (wordEvent _ l _ _ _ _ _)).trans (poisonLine _ l)
    · exact hread

theorem mergeRead (s : State) (l : Nat) (bs : List Host.Cell) (m : Nat) : ArrayOnly s (s.mergeRead l bs m) := by
  unfold State.mergeRead
  split
  · exact arrayRead s l [] m
  · exact refl s

theorem arrayWrite (s : State) (l : Nat) (cells : List Host.Cell) (pois : Bool) (master : Nat) :
    ArrayOnly s (s.arrayWrite l cells pois master) := by
  unfold State.arrayWrite
  dsimp only
  split
  · exact refl s
  · have hread := mergeRead s l (cells.filter fun (o, _) => o < 96) master
    generalize s.mergeRead l (cells.filter fun (o, _) => o < 96) master = t at hread ⊢
    split
    · exact hread
    · have hput := hread.trans (bytes t ((cells.filter fun (o, _) => o < 96).foldl (fun m (o, b) => spPut 0 m (96 * l + o) b) t.ms) t.flips)
      split
      · exact hput.trans (poisonLine _ l)
      · split
        · exact hput.trans (poisonWords _ l _)
        · exact (hput.trans (bytes _ _ _)).trans (foldl _ (fun s w => inject s l w) _ _)

end ArrayOnly

/-- An entry that a fold inserts, or that stood before, with the same value for each key. -/
theorem spGet_foldl_spIns {α : Type} {l w : Nat} {v : α} (ws : List Nat) {m : Sp α} (h : w ∈ ws ∨ spGet m (16 * l + w) = some v) :
    spGet (ws.foldl (fun m w => spIns m (16 * l + w) v) m) (16 * l + w) = some v := by
  induction ws generalizing m with
  | nil => exact h.resolve_left List.not_mem_nil
  | cons x ws ih =>
    refine ih ?_
    by_cases hx : w = x
    · exact .inr (hx ▸ spGet_spIns_same m _ v)
    · refine h.imp (fun h => (List.mem_cons.1 h).resolve_left hx) fun h => ?_
      rw [spGet_spIns_ne m v (by omega), h]

/-- Without an armed injection a poisoned line has all check bits of its words inverted (R226, R242). -/
theorem State.poisonLine_flips {s : State} {l w : Nat} (hf : s.fenced l = false) (hl : l < s.part.msLines)
    (hi : (s.rg (aStk (s.homeOf l) 0x38)).getLsbD 8 = false) (hw : w < 16) : spGetD 0 (s.poisonLine l).flips (16 * l + w) = 0x7F := by
  have hinj (f : Sp Byte) (v : Nat) : State.inject { s with flips := f } l v = { s with flips := f } := by
    unfold State.inject
    exact if_neg fun h => absurd h.1 (ne_true_of_eq_false hi)
  have hwords : s.poisonWords l (List.range 16) =
      { s with flips := (List.range 16).foldl (fun m w => spIns m (16 * l + w) 0x7F) s.flips } := List.foldl_fixed' (hinj _) _
  unfold State.poisonLine
  rw [hf, decide_eq_false (Nat.not_le.2 hl), if_neg (by decide), hwords, State.modStack_flips, spGetD]
  rw [spGet_foldl_spIns _ (.inl (List.mem_range.2 hw)), Option.getD_some]

/-! Back-invalidations (R215, R216). -/

section
variable {s : State} {l : Nat} {b : BiSnp}

/-- The code of the back-invalidation that a request brings: 3 BISnpCur, 2 BISnpData, 1 BISnpInv. -/
def snoopCode (kind : MK) : Nat := if kind = .rdU ∨ kind = .cln then 3 else if kind = .rdS then 2 else 1

/-- The back-invalidation that starts for a request. -/
def State.snoop (s : State) (l : Nat) (kind : MK) : BiSnp :=
  { line := l, lo := false, hi := false, inval := decide (snoopCode kind = 1), cur := decide (snoopCode kind = 3), dirty := [], tick := s.ticks }

/-- A line that the host holds is asked back, as two host lines, for the request that waits. -/
theorem State.biStart_waits {t : Txn} (ht : (s.dirOf l).txn = some t) (hh : t.host = true) (ho : (s.dirOf l).h = true ∨ (s.dirOf l).owner = .host)
    (hb : (s.bisnp.any fun b => b.line = l) = false) :
    s.biStart l = { s with
      bisnp := s.bisnp ++ [s.snoop l t.msg.kind]
      outbox := .bisnp (s.hostNo (3 * l / 2 + 1)) (snoopCode t.msg.kind) :: .bisnp (s.hostNo (3 * l / 2)) (snoopCode t.msg.kind) :: s.outbox } := by
  have hheld : (!(s.dirOf l).h && decide ((s.dirOf l).owner ≠ .host)) = false := by
    obtain h | h := ho <;> simp [h]
  unfold State.biStart State.snoop snoopCode
  dsimp only
  rw [hheld, hb, if_neg (by decide), ht]
  dsimp only
  simp only [hh, if_true, Option.isNone_some, Bool.false_eq_true, false_and, if_false]
  by_cases hcur : t.msg.kind = .rdU ∨ t.msg.kind = .cln
  · obtain h | h := hcur <;> rw [h] <;> rfl
  · obtain ⟨hu, hc⟩ := not_or.1 hcur
    by_cases hs : t.msg.kind = .rdS
    · rw [hs]
      rfl
    · simp [hu, hc, hs, State.out, State.hostNo]

/-- The array and the list of back-invalidations once one has ended: dirty bytes are written, an owned line whose answer is lost is
poisoned. -/
def State.biWritten (s : State) (b : BiSnp) (lost : Bool) : State :=
  let u : State := { s with bisnp := s.bisnp.filter fun x => x.line ≠ b.line }
  if decide ((s.dirOf b.line).owner = .host) && lost then u.poisonLine b.line
  else if b.dirty.isEmpty then u else u.arrayWrite b.line b.dirty false 0x400

/-- The directory entry once a back-invalidation has ended. -/
def BiSnp.dirAfter (b : BiSnp) (d : Dir) (owned lost : Bool) : Dir :=
  if b.cur && !lost then d
  else if b.inval || lost then
    if owned then { d with owner := .none, st := if decide (d.shr = 0) && decide (d.grp = 0) then .free else .s, h := false }
    else { d with h := false, st := if d.st = .s ∧ d.shr = 0 ∧ d.grp = 0 then .free else d.st }
  else { d with owner := .none, st := .s, h := true }

theorem ArrayOnly.biWritten (s : State) (b : BiSnp) (lost : Bool) :
    ArrayOnly { s with bisnp := s.bisnp.filter fun x => x.line ≠ b.line } (s.biWritten b lost) :=
  ite (poisonLine _ _) (ite (refl _) (arrayWrite _ _ _ _ _))

/-- A back-invalidation that no request waits for ends with the line's directory entry. -/
theorem State.biFinish_idle (h : (s.dirOf b.line).txn = none) (lost : Bool) :
    s.biFinish b lost =
      (s.biWritten b lost).setDir b.line (b.dirAfter (s.dirOf b.line) (decide ((s.dirOf b.line).owner = .host)) lost) := by
  have hd : (s.biWritten b lost).dirOf b.line = s.dirOf b.line := by
    rw [ArrayOnly.biWritten s b lost]
    rfl
  have hend : s.biFinish b lost = (s.biWritten b lost).setDir b.line
      (b.dirAfter ((s.biWritten b lost).dirOf b.line) (decide ((s.dirOf b.line).owner = .host)) lost) := by
    unfold State.biFinish
    dsimp only
    split
    · next e => cases ((congrArg Dir.txn hd).trans h).symm.trans e
    · rfl
  rw [hend, hd]

/-- A back-invalidation for ownership, or one whose answer is lost, leaves nothing of the line with the host. -/
theorem BiSnp.dirAfter_gone {d : Dir} {lost : Bool} (h : lost = true ∨ (b.inval = true ∧ b.cur = false)) :
    let x := b.dirAfter d (decide (d.owner = .host)) lost
    x.h = false ∧ x.owner ≠ .host := by
  have hcur : (b.cur && !lost) = false := by obtain h | ⟨-, h⟩ := h <;> simp [h]
  have hinval : (b.inval || lost) = true := by obtain h | ⟨h, -⟩ := h <;> simp [h]
  unfold BiSnp.dirAfter
  rw [hcur, hinval, if_neg Bool.false_ne_true, if_pos rfl]
  by_cases ho : d.owner = .host
  · simp [ho]
  · simp [ho]

theorem State.setDir_eq (s : State) (l : Nat) (d : Dir) : s.setDir l d = { s with dir := (s.setDir l d).dir } := by
  unfold State.setDir
  split <;> rfl

/-- An entry that nothing of the host stands in is listed so, or not at all. -/
theorem State.dirOf_setDir_gone {d : Dir} (h : d.h = false ∧ d.owner ≠ .host) :
    ((s.setDir l d).dirOf l).h = false ∧ ((s.setDir l d).dirOf l).owner ≠ .host := by
  unfold State.setDir State.dirOf spGetD
  split
  · rw [spGet_spDel_same]
    exact ⟨rfl, by decide⟩
  · rw [spGet_spIns_same]
    exact h

/-- What stands once a back-invalidation that no request waits for has ended. -/
theorem State.biFinish_gone (ht : (s.dirOf b.line).txn = none) {lost : Bool} (h : lost = true ∨ (b.inval = true ∧ b.cur = false)) :
    let u := s.biFinish b lost
    u = { s.biWritten b lost with dir := u.dir } ∧ (u.dirOf b.line).h = false ∧ (u.dirOf b.line).owner ≠ .host := by
  intro u
  have hu : u = _ := State.biFinish_idle ht lost
  rw [hu]
  exact ⟨State.setDir_eq _ _ _, State.dirOf_setDir_gone (BiSnp.dirAfter_gone h)⟩

/-- The answer to one host line only, without dirty bytes. -/
theorem State.biAnswer_first (hb : (s.bisnp.find? fun b => b.line = l) = some b) (hlo : b.lo = false) (hhi : b.hi = false) (hi : Bool) :
    s.biAnswer l hi none false = { s with bisnp := s.bisnp.map fun x => if x.line = l then { b with lo := !hi, hi := hi } else x } := by
  unfold State.biAnswer
  rw [hb]
  dsimp only
  rw [hlo, hhi]
  cases hi <;> rfl

theorem State.biAnswer_conflict (hb : (s.bisnp.find? fun b => b.line = l) = some b) (hi : Bool) (d : Option (List Byte)) :
    s.biAnswer l hi d true =
      s.out (.bisnp (s.hostNo (3 * l / 2 + (if hi then 1 else 0))) (if b.inval then 1 else if b.cur then 3 else 2)) := by
  unfold State.biAnswer
  rw [hb]
  exact if_pos rfl

/-- The answer to the second host line ends the back-invalidation. -/
theorem State.biAnswer_last (hb : (s.bisnp.find? fun b => b.line = l) = some b) (hlo : b.lo = true) (d : Option (List Byte)) :
    s.biAnswer l true d false = s.biFinish { b with
      lo := true, hi := true
      dirty := d.elim b.dirty fun data => mergeCells b.dirty (hostPart l (3 * l / 2 + 1) data) } false := by
  unfold State.biAnswer
  rw [hb]
  dsimp only
  rw [hlo, Bool.or_true]
  cases d <;> rfl

/-- An answer that has not come for 100 µs is lost (R216). -/
theorem State.biLost_late (hb : (s.bisnp.find? fun b => b.line = l) = some b) (ht : b.tick + 2500 ≤ s.ticks) :
    EventOnly (s.biFinish b true) (s.biLost l) := by
  unfold State.biLost
  rw [hb]
  dsimp only
  rw [if_neg (Nat.not_lt.2 ht)]
  exact EventOnly.event _ _

theorem State.cxlEvt_spec (s : State) {i : Nat} (h : i < 48) : EventOnly s (s.cxlEvt i) ∧ ((s.cxlEvt i).rg (aCxl 0x18)).getLsbD i = true := by
  unfold State.cxlEvt
  refine ⟨(EventOnly.sg s _ _ _).trans (EventOnly.raise _ _), ?_⟩
  rw [State.rg_raise _ _ _ (OffLine.high (by decide)), State.rg_sg_same, getLsbD_setBit _ _ _ _ h, if_pos rfl]

/-- What stands once the host's answer has been lost for a line that no request waits for. -/
theorem State.biLost_gone (hb : (s.bisnp.find? fun b => b.line = l) = some b) (ht : b.tick + 2500 ≤ s.ticks) (hn : (s.dirOf l).txn = none) :
    let u := (s.biLost l).cxlEvt 3
    u.bisnp = s.bisnp.filter (fun x => x.line ≠ l) ∧ u.procs = s.procs ∧ (u.dirOf l).h = false ∧ (u.dirOf l).owner ≠ .host ∧
      (u.rg (aCxl 0x18)).getLsbD 3 = true ∧ u.flips = (s.biWritten b true).flips := by
  have hl : b.line = l := of_decide_eq_true (List.find?_some (p := fun b : BiSnp => decide (b.line = l)) hb)
  subst hl
  intro u
  obtain ⟨hevt, hbit⟩ := State.cxlEvt_spec (s.biLost b.line) (i := 3) (by decide)
  have hev : EventOnly (s.biFinish b true) u := (State.biLost_late hb ht).trans hevt
  obtain ⟨hfin, hh, ho⟩ := State.biFinish_gone hn (lost := true) (.inl rfl)
  have harr := ArrayOnly.biWritten s b true
  have hdir : u.dirOf b.line = (s.biFinish b true).dirOf b.line := by rw [hev]; rfl
  refine ⟨?_, ?_, hdir ▸ hh, hdir ▸ ho, hbit, ?_⟩
  · rw [hev]
    show (s.biFinish b true).bisnp = _
    rw [hfin]
    show (s.biWritten b true).bisnp = _
    rw [harr]
  · rw [hev]
    show (s.biFinish b true).procs = _
    rw [hfin]
    show (s.biWritten b true).procs = _
    rw [harr]
  · rw [hev]
    show (s.biFinish b true).flips = _
    rw [hfin]

end

/-! Members of the coherence group (R220, R221). -/

section
variable {s : State} {i : BitVec 4}

/-- A member that owes nothing for 100 µs is not lost. -/
theorem execMemberLost_none (h : ∀ x ∈ s.memWait, x.dst = .ag (.member i) → s.ticks < x.tick + 2500) : execMemberLost i s = .next s := by
  have hany : (s.memWait.any fun x => decide (x.dst = .ag (.member i) ∧ x.tick + 2500 ≤ s.ticks)) = false :=
    List.any_eq_false.2 fun x hx => by simpa using h x hx
  unfold execMemberLost
  dsimp only
  rw [hany]
  rfl

/-- A lost member that owed one acknowledgement: it counts as given, and the member is marked lost. -/
theorem execMemberLost_owed {x : Msg} (hone : (s.memWait ++ s.net).filter (fun x => x.dst = .ag (.member i)) = [x]) (hx : x ∈ s.memWait)
    (ht : x.tick + 2500 ≤ s.ticks) (hk : x.kind = .inv) (hd : s.dir = []) (hen : (s.rg (aMs 0xC000)).getLsbD 4 = true) :
    ∃ u, execMemberLost i s = .next u ∧ EventOnly { s with
      lost := setBit s.lost i.toNat true
      memWait := s.memWait.filter fun x => !(x.dst = Node.ag (.member i))
      net := (s.net.filter fun x => !(x.dst = Node.ag (.member i))) ++
        [{ src := .ag (.member i), dst := .ag x.req, kind := .invAck, line := x.line, req := x.req }] } u := by
  have hmem : x ∈ (s.memWait ++ s.net).filter fun x => x.dst = .ag (.member i) := by
    rw [hone]
    exact List.mem_singleton_self x
  have hdst : x.dst = .ag (.member i) := of_decide_eq_true (List.mem_filter.1 hmem).2
  have hany : (s.memWait.any fun x => decide (x.dst = .ag (.member i) ∧ x.tick + 2500 ≤ s.ticks)) = true :=
    List.any_eq_true.2 ⟨x, hx, decide_eq_true ⟨hdst, ht⟩⟩
  have hnodir (f : State → Nat × Dir → State) (v : State) : s.dir.foldl f v = v := by
    rw [hd]
    rfl
  have hsettle (net memWait : List Msg) : State.settle { s with net := net, memWait := memWait } x =
      State.send { s with net := net, memWait := memWait }
        { src := .ag (.member i), dst := .ag x.req, kind := .invAck, line := x.line, req := x.req } := by
    unfold State.settle State.ackTo State.dirOf
    rw [hk, hdst]
    dsimp only
    rw [hd]
    rfl
  unfold execMemberLost
  dsimp only
  rw [hany, hen, if_neg (by decide), hone, hnodir]
  dsimp only [List.foldl_cons, List.foldl_nil]
  rw [hsettle]
  exact ⟨_, rfl, EventOnly.event _ _⟩

end

/-- MS_CGCTL once `v` is written: while EN is set only EN and the clearing of MEMBERS bits take effect. -/
def cgctlNext (old v : Word) : Word :=
  if old.getLsbD 4 then setFld (setFld old 20 5 (fld (old &&& v) 20 5)) 4 4 (fld v 4 4) else v &&& 0x1FFFFF

theorem State.cgctlSet_spec (s : State) (v : Word) :
    let u := s.cgctlSet v
    u = { s with dev := u.dev, lost := s.lost &&& (u.rg (aMs 0xC000)).extractLsb' 5 16 } ∧ u.rg (aMs 0xC000) = cgctlNext (s.rg (aMs 0xC000)) v := by
  intro u
  have hrg : u.rg (aMs 0xC000) = cgctlNext (s.rg (aMs 0xC000)) v := State.rg_sg_same s (aMs 0xC000) _ 0
  refine ⟨?_, hrg⟩
  rw [hrg]
  rfl

theorem cgctlNext_enabled {old v : Word} (h : old.getLsbD 4 = true) :
    (cgctlNext old v).getLsbD 4 = v.getLsbD 4 ∧ (cgctlNext old v).extractLsb' 0 4 = old.extractLsb' 0 4 ∧
      (cgctlNext old v).extractLsb' 5 16 = old.extractLsb' 5 16 &&& v.extractLsb' 5 16 := by
  rw [cgctlNext, if_pos h]
  refine ⟨?_, ?_, ?_⟩
  · rw [getLsbD_setFld _ _ _ _ _ (by decide), if_pos (by decide), testBit_fld]
    simp
  · refine BitVec.eq_of_getLsbD_eq fun j hj => ?_
    rw [BitVec.getLsbD_extractLsb', BitVec.getLsbD_extractLsb', getLsbD_setFld _ _ _ _ _ (by omega), if_neg (by omega),
      getLsbD_setFld _ _ _ _ _ (by omega), if_neg (by omega)]
  · refine BitVec.eq_of_getLsbD_eq fun j hj => ?_
    rw [BitVec.getLsbD_extractLsb', BitVec.getLsbD_and, BitVec.getLsbD_extractLsb', BitVec.getLsbD_extractLsb',
      getLsbD_setFld _ _ _ _ _ (by omega), if_neg (by omega), getLsbD_setFld _ _ _ _ _ (by omega), if_pos (by omega), testBit_fld]
    simp [hj]

/-- Settles O27: an answer to a requester is `State.answered_spec`, the end of a back-invalidation `State.biFinish_gone`, its loss
`State.biLost_gone`. -/
theorem retriesAndBackInvalidations : Obligations.RetriesAndBackInvalidations := by
  unfold Obligations.RetriesAndBackInvalidations
  intro s l hl answeredBy
  have answers (v : State) (k : BitVec 3) (hp : ∀ p, v.proc p = s.proc p) (hload : ∀ x, v.loadLine x = s.loadLine x) :
      answeredBy k (v.answered k.toNat l) := by
    intro p
    obtain ⟨hloads, hother, hg, hip⟩ := State.answered_spec v k.toNat l p
    simp only [hp, hload] at hloads hother hg hip
    exact ⟨hloads, hother, hg, hip⟩
  refine ⟨fun k m net h => ?_, fun k m h => ?_, fun r => ?_, fun k m net h => ?_, ⟨?_, ?_, ?_, ?_⟩, fun t ht hh ho hb hm => ?_, fun b hb => ?_,
    fun i h => ?_, fun i x hone hx ht hk hd hen => ?_, fun a v hr => ?_⟩
  · rw [exec_retry, execRetry, State.onLine_ok hl]
    exact ⟨_, congrArg _ (State.retryAt_cluster h), rfl, answers _ k (fun _ => rfl) fun _ => rfl⟩
  · rw [exec_retryBackoffExpiry, execRetryBackoffExpiry, State.onLine_ok hl, State.resend_cluster h]
    rfl
  · rw [exec_persistentReservationExpiry, execPersistentReservationExpiry, State.onLine_ok hl]
    exact ⟨_, rfl, rfl, congrArg Stack.resv (State.stack_modStack s _ _)⟩
  · rw [exec_pending, execPending, State.onLine_ok hl]
    exact ⟨_, congrArg _ (State.pendAt_cluster h), rfl, answers _ k (fun _ => rfl) fun _ => rfl⟩
  · rw [exec_pendingTick, execPendingTick, State.onLine_ok hl, State.pendTick_eq]
  · exact fun t ht => State.mem_working_txn ht
  · exact fun m hm hml => State.mem_working_queue hm hml
  · exact fun a ha => State.mem_working_held ha
  · intro code sent
    have hgo : s.biGo l = s.biStart l := by
      unfold State.biGo
      exact if_neg (ne_true_of_eq_false hm)
    rw [exec_backInvalidation, execBackInvalidation, State.onLine_ok hl, hgo, State.biStart_waits ht hh ho hb]
    exact ⟨_, rfl, rfl, rfl, rfl, rfl, rfl, rfl⟩
  · have hbl : b.line = l := of_decide_eq_true (List.find?_some (p := fun b : BiSnp => decide (b.line = l)) hb)
    rw [exec_backInvalidationTimeout, execBackInvalidationTimeout, State.onLine_ok hl, hb]
    refine ⟨fun ht => ?_, fun ht hn => ?_, fun hlo hhi hi => ?_, fun hi d => ?_, fun hlo data => ?_, fun hlo hd hinv hcur hn => ?_⟩
    · exact congrArg _ (if_pos ht)
    · obtain ⟨hbi, hprocs, hh, ho, hbit, hflips⟩ := State.biLost_gone hb ht hn
      refine ⟨_, congrArg _ (if_neg (Nat.not_lt.2 ht)), hbi, hprocs, hh, ho, hbit, fun howner hlt hf hinj w hw => ?_⟩
      have hpois : s.biWritten b true = State.poisonLine { s with bisnp := s.bisnp.filter fun x => x.line ≠ b.line } l := by
        unfold State.biWritten
        rw [hbl, howner]
        rfl
      rw [hflips, hpois]
      exact State.poisonLine_flips hf hlt hinj hw
    · rw [exec_backInvalidationResponse, execBackInvalidationResponse, State.onLine_ok hl, State.biAnswer_first hb hlo hhi]
    · rw [exec_backInvalidationResponse, execBackInvalidationResponse, State.onLine_ok hl, State.biAnswer_conflict hb]
      rfl
    · rw [exec_backInvalidationResponse, execBackInvalidationResponse, State.onLine_ok hl, State.biAnswer_last hb hlo]
      rfl
    · subst hbl
      rw [exec_backInvalidationResponse, execBackInvalidationResponse, State.onLine_ok hl, State.biAnswer_last hb hlo]
      obtain ⟨hu, hh, ho⟩ := State.biFinish_gone (b := { b with lo := true, hi := true }) hn (lost := false) (.inr ⟨hinv, hcur⟩)
      have hw : s.biWritten { b with lo := true, hi := true } false = { s with bisnp := s.bisnp.filter fun x => x.line ≠ b.line } := by
        unfold State.biWritten
        rw [Bool.and_false, if_neg Bool.false_ne_true]
        dsimp only
        rw [hd]
        rfl
      exact ⟨_, rfl, hu.trans (by rw [hw]; rfl), hh, ho⟩
  · rw [exec_memberLost, execMemberLost_none h]
  · obtain ⟨u, hu, hev⟩ := execMemberLost_owed hone hx ht hk hd hen
    rw [exec_memberLost]
    refine ⟨u, hu, ?_⟩
    rw [hev]
    exact ⟨rfl, rfl, rfl, rfl, rfl⟩
  · intro old
    obtain ⟨hu, hrg⟩ := State.cgctlSet_spec s v
    rw [exec_cgctlWrite, execCgctlWrite, State.onWrite, if_pos hr]
    refine ⟨_, rfl, hu, fun hen => ?_, fun hen => ?_⟩
    · rw [hrg, cgctlNext, if_neg (ne_true_of_eq_false hen)]
    · rw [hrg]
      exact cgctlNext_enabled hen

end Sys2Proof.Machine

namespace Sys2Proof.Machine

open Sys2Proof

/-! What the writes of L1CTL and L1INV do (R180, R181, R187, R188). -/

/-- A write that reaches its register has its effect. -/
theorem State.onWrite_reach {s : State} {a : Via} {off : Nat} (h : s.viaReach a off = true) (f : State → State) :
    s.onWrite a off f = .next (f s) := by
  rw [State.onWrite, if_pos h]

theorem Proc.ist_setIst (q : Proc) (v : Nat) : (q.setIst v).ist = v % 4 := by
  rw [Proc.ist, Proc.setIst, Proc.crGet_crSet_same, fld_setFld_same _ _ _ _ (by decide)]
  rfl

/-- A control job joins the end of a cluster's queue (R184). -/
def State.queueJob (s : State) (k : Nat) (j : Job) : State := s.modClu k fun c => { c with ctlq := c.ctlq ++ [j] }

theorem State.queueJob_clu (s : State) (k : Nat) (j : Job) : (s.queueJob k j).clu k = { s.clu k with ctlq := (s.clu k).ctlq ++ [j] } :=
  State.clu_modClu_same _ _ _

section
variable {s : State} {p : BitVec 6} (a : Via)

theorem State.dstWrite_disables (h : (s.proc p).dst = 1) :
    s.dstWrite a p 0 = (s.setProc p ((s.proc p).setDst 2)).queueJob (cluOf p) (ctlJob a (.l1 (BitVec.ofNat 3 (slotOf p)))) :=
  if_pos ⟨rfl, h⟩

/-- Nothing but an enabled data cache can be disabled. -/
theorem State.dstWrite_ignored (h : (s.proc p).dst ≠ 1) : s.dstWrite a p 0 = s := by
  unfold State.dstWrite
  dsimp only
  rw [if_neg fun hc => h hc.2, if_neg fun hc => absurd hc.1 (by decide)]

theorem State.dstWrite_enables (h : (s.proc p).dst = 0) : s.dstWrite a p 1 = s.setProc p ((s.proc p).setDst 1) := by
  unfold State.dstWrite
  dsimp only
  rw [if_neg fun hc => absurd hc.1 (by decide), if_pos ⟨rfl, h⟩]

/-- A data cache that is being disabled: its control job waits, and no line of the cluster changes. -/
theorem State.dstWrite_disables_spec (h : (s.proc p).dst = 1) :
    let u := s.dstWrite a p 0
    u = { s with procs := u.procs, clus := u.clus } ∧ (u.proc p).dst = 2 ∧
      (u.clu (cluOf p)).ctlq = (s.clu (cluOf p)).ctlq ++ [ctlJob a (.l1 (BitVec.ofNat 3 (slotOf p)))] ∧
      (u.clu (cluOf p)).lines = (s.clu (cluOf p)).lines := by
  intro u
  have hu : u = _ := State.dstWrite_disables a h
  have hproc : u.proc p = (s.proc p).setDst 2 := by
    rw [hu]
    exact State.proc_setProc s p _
  have hclu : u.clu (cluOf p) = { s.clu (cluOf p) with ctlq := (s.clu (cluOf p)).ctlq ++ [ctlJob a (.l1 (BitVec.ofNat 3 (slotOf p)))] } := by
    rw [hu]
    exact State.queueJob_clu _ _ _
  rw [hproc, hclu]
  exact ⟨by rw [hu]; rfl, Proc.dst_setDst _ 2, rfl, rfl⟩

theorem State.dstWrite_enables_spec (h : (s.proc p).dst = 0) :
    OnlyProc s (s.dstWrite a p 1) p ∧ ((s.dstWrite a p 1).proc p).dst = 1 := by
  rw [State.dstWrite_enables a h, State.proc_setProc]
  exact ⟨OnlyProc.setProc s p _, Proc.dst_setDst _ 1⟩

end

/-- Core n's instruction cache is empty, and no more than instruction caches differ between `s` and `u`. -/
def IcEmptied (s u : State) (n : Nat) : Prop :=
  u = { s with cores := u.cores } ∧ (u.core n).ic = [] ∧ (u.core n).dc = (s.core n).dc

theorem IcEmptied.modCore (s : State) (n : Nat) : IcEmptied s (s.modCore n fun q => { q with ic := [] }) n := by
  refine ⟨rfl, ?_⟩
  rw [State.core_modCore_same]
  exact ⟨rfl, rfl⟩

/-- An empty cache stays so when another one, or the same, is emptied too. -/
theorem IcEmptied.and_modCore {s u : State} {n : Nat} (h : IcEmptied s u n) (m : Nat) :
    IcEmptied s (u.modCore m fun q => { q with ic := [] }) n := by
  obtain ⟨hu, hic, hdc⟩ := h
  refine ⟨?_, ?_⟩
  · rw [hu]
    rfl
  · by_cases hm : n = m
    · rw [hm, State.core_modCore_same]
      exact ⟨rfl, hm ▸ hdc⟩
    · rw [State.core_modCore_ne u _ hm]
      exact ⟨hic, hdc⟩

/-- The instruction caches of the processor's core and of its checker are emptied together (R180, R188). -/
theorem State.clearIall_spec (s : State) (p : BitVec 6) : IcEmptied s (s.clearIall p) (s.hostCore p) := by
  have h := IcEmptied.modCore s (s.hostCore p)
  unfold State.clearIall
  dsimp only
  split
  · next n _ => exact h.and_modCore n
  · exact h

theorem State.l1invWrite_one (s : State) (p : BitVec 6) : s.l1invWrite p 1 = s.clearIall p := if_pos (by decide)

theorem State.istWrite_disables (s : State) (p : BitVec 6) :
    let u := s.istWrite p 0
    u = { s with procs := u.procs, cores := u.cores } ∧ (u.proc p).ist = 0 ∧ (u.core (s.hostCore p)).ic = [] ∧
      (u.core (s.hostCore p)).dc = (s.core (s.hostCore p)).dc := by
  intro u
  have hu : u = (s.clearIall p).modProc p fun q => q.setIst 0 := if_pos rfl
  obtain ⟨hcores, hic, hdc⟩ := State.clearIall_spec s p
  rw [hu, State.proc_modProc]
  refine ⟨?_, Proc.ist_setIst _ 0, hic, hdc⟩
  rw [hcores]
  rfl

theorem State.istWrite_enables (s : State) (p : BitVec 6) : OnlyProc s (s.istWrite p 1) p ∧ ((s.istWrite p 1).proc p).ist = 1 := by
  have hu : s.istWrite p 1 = s.modProc p fun q => q.setIst 1 := (if_neg (by decide)).trans (if_pos rfl)
  rw [hu, State.proc_modProc]
  exact ⟨OnlyProc.modProc s p _, Proc.ist_setIst _ 1⟩

end Sys2Proof.Machine

namespace Sys2Proof.Machine

open Sys2Proof

/-! What the writes of a cluster cache's registers do (R184, R185, R189, R191 to R193). -/

/-- An engine is idle when no job runs and none waits. -/
theorem Clu.engineBusy_eq_false {q : Clu} : q.engineBusy = false ↔ q.job = none ∧ q.ctlq = [] := by
  simp [Clu.engineBusy]

theorem viaMaster_lt (a : Via) : viaMaster a < 2 ^ 12 := by
  cases a with
  | proc p => simp only [viaMaster]; omega
  | pf => decide
  | vf i => simp only [viaMaster]; omega

theorem ctlJob_master (a : Via) (k : JobK) : (ctlJob a k).master.toNat = viaMaster a := Nat.mod_eq_of_lt (viaMaster_lt a)

/-- The STATE that stands in CC[k]_CTL (R189). -/
theorem State.ccState_sg (s : State) (k : Nat) (v : Word) : (s.sg (aCc k 0) v 1).ccState k = fld v 1 0 := by
  rw [State.ccState, State.rg_sg_same]

section
variable {s : State} {k : Nat} (a : Via)

theorem State.ccCtlWrite_disables (h : s.ccState k = 1) :
    let u := s.ccCtlWrite a k 0
    u = { s with dev := u.dev, clus := u.clus } ∧ u.ccState k = 2 ∧ (u.clu k).ctlq = (s.clu k).ctlq ++ [ctlJob a .cache] ∧
      (u.clu k).lines = (s.clu k).lines := by
  intro u
  have hu : u = (s.sg (aCc k 0) 2 1).queueJob k (ctlJob a .cache) := if_pos ⟨rfl, h⟩
  rw [hu, State.queueJob_clu]
  exact ⟨rfl, State.ccState_sg s k 2, rfl, rfl⟩

theorem State.ccCtlWrite_enables (h : s.ccState k = 0) :
    let u := s.ccCtlWrite a k 1
    u = { s with dev := u.dev } ∧ u.ccState k = 1 := by
  intro u
  have hu : u = s.sg (aCc k 0) 1 1 := by
    show s.ccCtlWrite a k 1 = _
    unfold State.ccCtlWrite
    dsimp only
    rw [if_neg fun hc => absurd hc.1 (by decide), if_pos ⟨rfl, h⟩]
  rw [hu]
  exact ⟨rfl, State.ccState_sg s k 1⟩

/-- A MOP on a busy engine is lost (R184). -/
theorem State.mopWrite_busy (op : Nat) (h : (s.clu k).engineBusy = true) :
    let u := s.mopWrite a k op
    u = { s with dev := u.dev } ∧ (u.rg (aCc k 0x38)).getLsbD 2 = true := by
  intro u
  have hu : u = s.mstatLost k := if_pos h
  rw [hu]
  refine ⟨rfl, ?_⟩
  rw [State.mstatLost, State.rg_sg_same, getLsbD_setBit _ _ _ _ (by decide), if_pos rfl]

/-- A MOP on an idle engine starts its job over ADDR and LEN (R185). -/
theorem State.mopWrite_starts {op : Nat} (hop : op ≤ 2) (h : (s.clu k).engineBusy = false) (hlen : (s.rg (aCc k 0x28)).toNat ≠ 0)
    (hfit : (s.rg (aCc k 0x20)).toNat + (s.rg (aCc k 0x28)).toNat ≤ s.part.msBytes) :
    let u := s.mopWrite a k op
    let j := ctlJob a (.range (BitVec.ofNat 4 op) (s.rg (aCc k 0x20)).toNat (s.rg (aCc k 0x28)).toNat)
    u = { s with dev := u.dev, clus := u.clus } ∧ (u.clu k).job = some j ∧ fld (u.rg (aCc k 0x38)) 27 16 = viaMaster a := by
  intro u j
  have hu : u = (s.jobRuns k j).modClu k fun c => { c with job := some j } := by
    show s.mopWrite a k op = _
    unfold State.mopWrite
    dsimp only
    rw [if_neg (ne_true_of_eq_false h), if_neg (Nat.not_lt.2 hop), if_neg hlen, if_neg (Nat.not_lt.2 hfit)]
  rw [hu, State.clu_modClu_same]
  exact ⟨rfl, rfl, (State.jobRuns_master s k j).trans (ctlJob_master a _)⟩

/-- A new PWR.REQ on an idle engine queues a power job (R192). -/
theorem State.pwrWrite_asks {v : Word} (h : (s.clu k).engineBusy = false)
    (hv : v.extractLsb' 0 16 ≠ (s.rg (aCc k 0x18)).extractLsb' 0 16) :
    let u := s.pwrWrite a k v
    u = { s with dev := u.dev, clus := u.clus } ∧ (u.clu k).ctlq = (s.clu k).ctlq ++ [ctlJob a (.power (v.extractLsb' 0 16))] ∧
      (u.rg (aCc k 0x18)).extractLsb' 0 16 = v.extractLsb' 0 16 := by
  intro u
  obtain ⟨hjob, hctlq⟩ := Clu.engineBusy_eq_false.1 h
  have hu : u = (s.sg (aCc k 0x18) (setFld (s.rg (aCc k 0x18)) 15 0 (v.extractLsb' 0 16).toNat)).queueJob k (ctlJob a (.power (v.extractLsb' 0 16))) := by
    show s.pwrWrite a k v = _
    unfold State.pwrWrite
    dsimp only
    rw [hjob, hctlq]
    exact (if_neg Bool.false_ne_true).trans (if_neg hv)
  have hrg : u.rg (aCc k 0x18) = setFld (s.rg (aCc k 0x18)) 15 0 (v.extractLsb' 0 16).toNat := by
    rw [hu]
    exact State.rg_sg_same s _ _ _
  rw [hrg, hu, State.queueJob_clu]
  exact ⟨rfl, rfl, extractLsb'_setFld_low _ _⟩

end

/-- The lower half of a word made of two halves. -/
theorem extractLsb'_halves_low (r w : BitVec 16) : (r.zeroExtend 48 <<< 16 ||| w.zeroExtend 48 : Word).extractLsb' 0 16 = w := by
  refine BitVec.eq_of_getLsbD_eq fun i hi => ?_
  rw [BitVec.getLsbD_extractLsb', Nat.zero_add, BitVec.getLsbD_or, BitVec.getLsbD_shiftLeft, decide_eq_true hi]
  simp [BitVec.getLsbD_setWidth, Nat.lt_trans hi (by decide : 16 < 48)]

/-- LOCK takes at most 14 ways, and no way that has no power or is losing it (R191, R193). -/
theorem State.lockWrite_spec (s : State) (k : Nat) (v : Word) :
    let u := s.lockWrite k v
    let ways : BitVec 16 := (s.rg (aCc k 0x10)).extractLsb' 0 16
    let gone : BitVec 16 := (s.rg (aCc k 0x18)).extractLsb' 16 16 ||| s.pwrGoing k
    let want : BitVec 16 := v.extractLsb' 0 16
    u = { s with dev := u.dev, clus := u.clus } ∧
      (u.rg (aCc k 0x10)).extractLsb' 0 16 = if popFld v 15 0 ≤ 14 then want &&& ~~~(want &&& ~~~ways &&& gone) else ways := by
  intro u ways gone want
  refine ⟨rfl, ?_⟩
  have hrg : u.rg (aCc k 0x10) = _ := State.rg_sg_same s _ _ _
  rw [hrg, extractLsb'_halves_low]
  exact ite_congr (by rw [decide_eq_true_eq]) (fun _ => rfl) fun _ => rfl

/-- The three MOP commands are the three operations of CC[k]_MOP (R185). -/
theorem exec_mop {c : Via → BitVec 3 → Instr} {op : BitVec 4}
    (hc : (c, op) ∈ [(Instr.mopClean, 0), (.mopCleanInvalidate, 1), (.mopPreload, 2)]) {s : State} {a : Via} {k : BitVec 3}
    (ha : s.viaReach a (aCc k.toNat 0x30) = true) : op.toNat ≤ 2 ∧ exec (c a k) s = .next (s.mopWrite a k.toNat op.toNat) := by
  simp only [List.mem_cons, Prod.mk.injEq, List.not_mem_nil, or_false] at hc
  obtain ⟨rfl, rfl⟩ | ⟨rfl, rfl⟩ | ⟨rfl, rfl⟩ := hc
  · exact ⟨by decide, (exec_mopClean s a k).trans (State.onWrite_reach ha _)⟩
  · exact ⟨by decide, (exec_mopCleanInvalidate s a k).trans (State.onWrite_reach ha _)⟩
  · exact ⟨by decide, (exec_mopPreload s a k).trans (State.onWrite_reach ha _)⟩

/-- Settles O23: each write that reaches its register is one of `State.dstWrite`, `State.istWrite`, `State.l1invWrite`, `State.ccCtlWrite`,
`State.mopWrite`, `State.lockWrite` and `State.pwrWrite`, whose lemmas say what it leaves. -/
theorem cacheControl : Obligations.CacheControl := by
  unfold Obligations.CacheControl
  refine ⟨fun s a p ha => ⟨fun hd => ?_, fun hd => ?_, fun hd => ?_, ?_, ?_, fun hi => ?_⟩, fun s a k ha => ⟨fun hst => ?_, fun hst => ?_⟩,
    fun s a k op c hc ha => ?_, fun s a k v ha => ?_, fun s a k v ha he hv => ?_⟩
  · rw [exec_l1DataDisable, execL1DataDisable, State.onWrite_reach ha]
    exact ⟨_, rfl, State.dstWrite_disables_spec a hd⟩
  · rw [exec_l1DataEnable, execL1DataEnable, State.onWrite_reach ha]
    exact ⟨_, rfl, State.dstWrite_enables_spec a hd⟩
  · rw [exec_l1DataDisable, execL1DataDisable, State.onWrite_reach ha, State.dstWrite_ignored a hd]
  · rw [exec_l1InstructionDisable, execL1InstructionDisable, State.onWrite_reach ha]
    exact ⟨_, rfl, State.istWrite_disables s p⟩
  · rw [exec_l1InstructionEnable, execL1InstructionEnable, State.onWrite_reach ha]
    exact ⟨_, rfl, State.istWrite_enables s p⟩
  · rw [exec_l1invIall, execL1invIall, State.onWrite_reach hi, State.l1invWrite_one]
    exact ⟨_, rfl, State.clearIall_spec s p⟩
  · rw [exec_clusterCacheDisable, execClusterCacheDisable, State.onWrite_reach ha]
    exact ⟨_, rfl, State.ccCtlWrite_disables a hst⟩
  · rw [exec_clusterCacheEnable, execClusterCacheEnable, State.onWrite_reach ha]
    exact ⟨_, rfl, State.ccCtlWrite_enables a hst⟩
  · intro base len
    obtain ⟨hop, hx⟩ := exec_mop hc ha
    have hstarts := State.mopWrite_starts (s := s) (k := k.toNat) a hop
    rw [BitVec.ofNat_toNat, BitVec.setWidth_eq] at hstarts
    rw [hx]
    exact ⟨fun hb => ⟨_, rfl, State.mopWrite_busy a _ hb⟩, fun hb hlen hfit => ⟨_, rfl, hstarts hb hlen hfit⟩⟩
  · intro ways gone want
    obtain ⟨hu, hways⟩ := State.lockWrite_spec s k.toNat v
    rw [exec_ccLockWrite, execCcLockWrite, State.onWrite_reach ha]
    exact ⟨_, rfl, hu, fun h => hways.trans (if_pos h), fun h => hways.trans (if_neg (Nat.not_le.2 h))⟩
  · rw [exec_ccPwrWrite, execCcPwrWrite, State.onWrite_reach ha]
    exact ⟨_, rfl, State.pwrWrite_asks a he hv⟩

end Sys2Proof.Machine

namespace Sys2Proof.Machine

open Sys2Proof

/-! The requests RdS, RdX and Upg at the home (R205). -/

/-- RdS of cluster 0 for line 10, whose home is stack 2. -/
def ownerRdS : Msg := { src := .ag (.cluster 0), dst := .home 2, kind := .rdS, line := 10, req := .cluster 0 }

/-- The directory records cluster 0 as owner of line 10, and RdS of that same cluster is in flight to the home. -/
def ownerAsks : State := { net := [ownerRdS], dir := [(10, { st := .em, owner := .clu 0 })] }

theorem ownerAsks_cleanLine : CleanLine ownerAsks 10 := ⟨by decide +kernel, fun _ _ => rfl⟩

theorem ownerAsks_dirRoom : DirRoom ownerAsks 10 (.cluster 0) := by
  unfold DirRoom
  decide +kernel

theorem ownerAsks_atHome : AtHome ownerAsks 10 (.cluster 0) (fun x => x = .rdS) ownerRdS [] := by
  unfold AtHome
  decide +kernel

/-- The home answers its recorded owner with data and leaves the entry in EM. -/
theorem ownerAsks_stays_em : ((ownerAsks.reqRow 10 (.cluster 0) .rdS).dirOf 10).st = .em := by decide +kernel

/-- Refutes O24: the clause on RdS of a line in EM or O does not except the recorded owner. For RdS of the owner itself the home sends the
data and keeps the state, where the clause has a FwdS to the requester and the state O. -/
theorem not_homeGrantsLines : ¬ Obligations.HomeGrantsLines := by
  unfold Obligations.HomeGrantsLines
  intro h
  obtain ⟨hrds, -⟩ := h ownerAsks 10 0 ownerRdS [] ownerAsks_cleanLine ownerAsks_dirRoom
  obtain ⟨-, -, howned⟩ := hrds ownerAsks_atHome rfl
  obtain ⟨u, hu, -, -, hst, -⟩ := howned (.cluster 0) (.inl rfl) rfl
  rw [exec_rds, execRds, State.onLine_ok (by decide +kernel)] at hu
  cases hu
  exact DS.noConfusion (ownerAsks_stays_em.symm.trans hst)

/-! The host's requests to the main store (R213, R214, R317). -/

/-- A word of the home of line 10 to the host that a write is done, marked as the answer to a transaction that a Cmp closes. -/
def openDone : Msg := { src := .home 2, dst := .ag .host, kind := .done, line := 10, req := .host, op := true }

/-- The host's RdU of lines 10 and 11, at its first line. -/
def twoLines : HReq := { h := 16, kind := .rdU, todo := [11], cur := some 10, resp := 1 }

/-- The request `twoLines` is under way, and `openDone` is in flight to the host. -/
def hostAwaits : State := { phase := .run, net := [openDone], cxl := { reqs := [twoLines] } }

/-- The line's transaction is taken as open already, so that the home counts no further one. -/
theorem hostAwaits_opens_kept : ((hostAwaits.hostGot 10).dirOf 10).opens = 0 := by decide +kernel

/-- Refutes O37: the last clause has the line's count of open transactions rise after every `done`, whatever its mark `op`. The home lets it
rise for an unmarked answer only: no home marks a `done`, but the clause speaks of every message that may be in flight. -/
theorem not_hostMemoryRequests : ¬ Obligations.HostMemoryRequests := by
  unfold Obligations.HostMemoryRequests
  rintro ⟨-, -, -, hnext⟩
  obtain ⟨u, hu, -, -, hopens⟩ := hnext hostAwaits 10 11 openDone [] twoLines [] (by decide +kernel) (by decide) (by decide +kernel)
    (by decide +kernel) rfl (by decide +kernel) (by decide +kernel)
  rw [exec_dataGrant, execDataGrant, State.onLine_ok (by decide +kernel)] at hu
  cases hu
  exact Nat.zero_ne_one (hostAwaits_opens_kept.symm.trans (hopens (.inl rfl)))

end Sys2Proof.Machine

namespace Sys2Proof.Machine

open Sys2Proof

/-! What a holder gives up or keeps (R177, R191, R205): one line of one cluster differs, and besides L1 caches and reservations. -/

theorem cluAg_toNat (k : BitVec 3) : cluAg k.toNat = .cluster k := by
  unfold cluAg
  rw [BitVec.ofNat_toNat, BitVec.setWidth_eq]

/-- Between `s` and `u` only the caches and what the processors wait for differ; of the clusters' lines only line l of cluster k. -/
structure OneLine (s u : State) (k l : Nat) : Prop where
  state : u = { s with clus := u.clus, cores := u.cores, procs := u.procs }
  other : ∀ i j, (i, j) ≠ (k, l) → u.cline i j = s.cline i j
  regs : ∀ p, (u.proc p).g = (s.proc p).g ∧ (u.proc p).f = (s.proc p).f ∧ (u.proc p).ip = (s.proc p).ip

namespace OneLine

theorem trans {s t u : State} {k l : Nat} (h : OneLine s t k l) (g : OneLine t u k l) : OneLine s u k l where
  state := by rw [g.state, h.state]
  other i j hne := (g.other i j hne).trans (h.other i j hne)
  regs p := by
    obtain ⟨hg, hf, hip⟩ := g.regs p
    rw [hg, hf, hip]
    exact h.regs p

theorem of_cores {s u : State} (h : CoresOnly s u) (k l : Nat) : OneLine s u k l where
  state := by
    rw [h.state]
  other i j _ := h.cline i j
  regs p := by
    obtain ⟨r, hr⟩ := h.proc p
    rw [hr]
    exact ⟨rfl, rfl, rfl⟩

theorem setLine (s : State) (k l : Nat) (c : CLine) : OneLine s (s.setLine k l c) k l where
  state := rfl
  other _ _ hne := State.cline_setLine_ne s c hne
  regs _ := ⟨rfl, rfl, rfl⟩

end OneLine

theorem CoresOnly.killResvClu (s : State) (k l : Nat) : CoresOnly s (s.killResvClu k l) := by
  refine CoresOnly.mapResv s (fun x => ?_) fun x => ?_
  · dsimp only
    split <;> rfl
  · dsimp only
    split
    · exact ⟨none, rfl⟩
    · exact ⟨_, rfl⟩

/-- The L1 copies of a line and the reservations on it go from a cluster (R177, R92). -/
def State.dropCopies (s : State) (k l : Nat) : State := ((s.dropL1D k l none).dropL1I k l).killResvClu k l

theorem CoresOnly.dropCopies (s : State) (k l : Nat) : CoresOnly s (s.dropCopies k l) :=
  ((CoresOnly.dropL1D s k l none).trans (CoresOnly.dropL1I _ k l)).trans (CoresOnly.killResvClu _ k l)

/-- A line leaves a cluster's tables. -/
def State.unlist (s : State) (k l : Nat) : State := s.modClu k fun q => { q with lines := spDel q.lines l }

theorem State.cline_unlist_same (s : State) (k l : Nat) : (s.unlist k l).cline k l = none := by
  unfold State.cline State.unlist
  rw [State.clu_modClu_same]
  exact spGet_spDel_same _ l

theorem OneLine.unlist (s : State) (k l : Nat) : OneLine s (s.unlist k l) k l where
  state := rfl
  other i j hne := by
    unfold State.cline State.unlist
    by_cases hi : i = k
    · subst hi
      rw [State.clu_modClu_same]
      exact spGet_spDel_ne _ fun e => hne (by rw [e])
    · unfold State.clu State.modClu
      dsimp only
      rw [spGetD, spGet_spIns_ne _ _ hi, spGetD]
  regs _ := ⟨rfl, rfl, rfl⟩

/-- Cluster k holds line l no more, but for the tag of a locked way (R191). -/
def State.LineGone (s : State) (k l : Nat) : Prop := ∀ c, s.cline k l = some c → c.st = .i

theorem State.dropLine_spec (s : State) (k l : Nat) : OneLine s (s.dropLine k l) k l ∧ (s.dropLine k l).LineGone k l := by
  unfold State.dropLine
  split
  · next h => exact ⟨.of_cores (.refl s) k l, fun c hc => by rw [h] at hc; cases hc⟩
  · split
    · refine ⟨.setLine s k l _, fun c hc => ?_⟩
      rw [State.cline_setLine_same] at hc
      cases hc
      rfl
    · refine ⟨.unlist s k l, fun c hc => ?_⟩
      cases (State.cline_unlist_same s k l).symm.trans hc

theorem State.giveUp_spec (s : State) (k l : Nat) : OneLine s (s.giveUp k l) k l ∧ (s.giveUp k l).LineGone k l := by
  obtain ⟨hline, hgone⟩ := State.dropLine_spec (s.dropCopies k l) k l
  exact ⟨(OneLine.of_cores (.dropCopies s k l) k l).trans hline, hgone⟩

/-- The copies go and the entry takes another state, as one in SM or OM goes to IM (R205 note a). -/
theorem State.dropCopies_setLine_spec (s : State) (k l : Nat) (c : CLine) :
    OneLine s ((s.dropCopies k l).setLine k l c) k l ∧ ((s.dropCopies k l).setLine k l c).cline k l = some c :=
  ⟨(OneLine.of_cores (.dropCopies s k l) k l).trans (.setLine _ k l c), State.cline_setLine_same _ k l c⟩

/-! A message of the home reaches a line of a cluster (R201). -/

section
variable {s : State} {l : Nat} {k : BitVec 3} {m : Msg} {net : List Msg} {c : CLine}

/-- A message for a line whose state allows it, and where none waits, is taken at once. -/
theorem State.lineTurn_now {P : MK → Prop} [DecidablePred P] (hc : s.cline k.toNat l = some c) (hq : c.fq = [])
    (hm : takeMsg (fun m => m.line = l ∧ m.dst = .ag (.cluster k) ∧ P m.kind) [] s.net = some (m, net)) :
    s.lineTurn k.toNat l (fun x => decide (P x)) true = (some m, { s with net := net }) := by
  have hpick : (fun m : Msg => decide (m.line = l ∧ m.dst = .ag (cluAg k.toNat)) && decide (P m.kind)) =
      fun m => decide (m.line = l ∧ m.dst = .ag (.cluster k) ∧ P m.kind) := by
    funext m
    rw [cluAg_toNat, ← Bool.decide_and]
    exact decide_eq_decide.2 and_assoc
  unfold State.lineTurn
  rw [hc]
  dsimp only
  rw [hq]
  dsimp only
  rw [hpick, hm]
  rfl

/-- An owner whose line no store of its own waits for serves forwards, invalidations and recalls at once (R201). -/
theorem State.owner_serves (hh : s.hidden k.toNat l = false) (hc : s.cline k.toNat l = some c) (ho : c.st = .m ∨ c.st = .o ∨ c.st = .e)
    (hw : s.slotWaits k.toNat l = false) : s.canServe k.toNat l = true ∧ s.invNow k.toNat l = true ∧ s.recallNow k.toNat l = true := by
  unfold State.canServe State.invNow State.recallNow
  rw [hh, hc, hw]
  obtain h | h | h := ho <;> simp [h]

theorem State.buffer_serves (hh : s.hidden k.toNat l = false) (hc : s.cline k.toNat l = some c) (ho : c.st = .eb) :
    s.canServe k.toNat l = true := by
  unfold State.canServe
  rw [hh, hc]
  simp [ho]

/-! Forwards (R205, R206, R211). -/

/-- The data that a holder sends for a forward. -/
def CLine.answer (c : CLine) (k : BitVec 3) (l : Nat) (m : Msg) (g : Grant) : Msg :=
  { src := .ag (.cluster k), dst := .ag m.req, kind := .data g, line := l, req := m.req, data := c.data, pois := c.pois, acks := m.acks,
    tag := m.tag, op := m.op }

/-- A forward that the holder may serve, on its way to `serveFwd`. -/
theorem State.fwdRow_serves {mk : MK} (hc : s.cline k.toNat l = some c) (hq : c.fq = []) (hs : s.canServe k.toNat l = true)
    (hm : takeMsg (fun m => m.line = l ∧ m.dst = .ag (.cluster k) ∧ m.kind = mk) [] s.net = some (m, net)) :
    s.fwdRow l (.cluster k) mk = State.serveFwd { s with net := net } k.toNat l m := by
  unfold State.fwdRow
  dsimp only
  rw [hs, State.lineTurn_now (P := fun x => x = mk) hc hq hm]

/-- The L1 data caches of a cluster may write the line no more. -/
def State.shareL1 (s : State) (k l : Nat) : State :=
  (List.range 9).foldl (fun s i => s.modCore (9 * k + i) fun q =>
    { q with dc := (match spGet q.dc l with | some x => spIns q.dc l { x with st := .s } | none => q.dc) }) s

theorem CoresOnly.shareL1 (s : State) (k l : Nat) : CoresOnly s (s.shareL1 k l) :=
  CoresOnly.foldl _ (fun s i => CoresOnly.modCore s (9 * k + i) _) _ s

theorem State.shareL1_eq (s : State) (k l : Nat) : ∃ cores, s.shareL1 k l = { s with cores := cores } := by
  unfold State.shareL1
  generalize List.range 9 = is
  induction is generalizing s with
  | nil => exact ⟨_, rfl⟩
  | cons i is ih =>
    obtain ⟨cores, h⟩ := ih (s.modCore (9 * k + i) _)
    exact ⟨cores, h⟩

section
variable (hi : NoInjection s) (hc : s.cline k.toNat l = some c) (hf : c.flip = 0)
include hi hc hf

theorem State.serveFwd_uncached (hk : m.kind = .fwdU) : s.serveFwd k.toNat l m = s.send (c.answer k l m .none) := by
  unfold State.serveFwd
  dsimp only
  rw [State.checkLine_clean hi hc hf, hc]
  dsimp only
  rw [hk, cluAg_toNat]
  rfl

theorem State.serveFwd_owned (hk : m.kind = .fwdX) (ho : c.st ≠ .eb) :
    s.serveFwd k.toNat l m = (s.giveUp k.toNat l).send (c.answer k l m .m) := by
  unfold State.serveFwd
  dsimp only
  rw [State.checkLine_clean hi hc hf, hc]
  dsimp only
  rw [hk, cluAg_toNat]
  dsimp only
  rw [if_neg ho]
  rfl

/-- The eviction buffer serves the first FwdX and passes a later one to the requester of the one before (R211). -/
theorem State.serveFwd_buffered (hk : m.kind = .fwdX) (ho : c.st = .eb) :
    s.serveFwd k.toNat l m = (s.setLine k.toNat l { c with heir := some m.req }).send
      (match c.heir with | none => c.answer k l m .m | some a => { m with src := .ag (.cluster k), dst := .ag a }) := by
  unfold State.serveFwd
  dsimp only
  rw [State.checkLine_clean hi hc hf, hc]
  dsimp only
  rw [hk, cluAg_toNat]
  dsimp only
  rw [if_pos ho]
  cases c.heir <;> rfl

/-- FwdS leaves the owner in O, its L1 copies readable only. -/
theorem State.serveFwd_shared (hk : m.kind = .fwdS) (ho : c.st = .m ∨ c.st = .o ∨ c.st = .e) :
    s.serveFwd k.toNat l m =
      ((if c.st = .m ∨ c.st = .e then s.setLine k.toNat l { c with st := .o } else s).shareL1 k.toNat l).send (c.answer k l m .s) := by
  have hne : c.st ≠ .eb := by obtain h | h | h := ho <;> simp [h]
  unfold State.serveFwd
  dsimp only
  rw [State.checkLine_clean hi hc hf, hc]
  dsimp only
  rw [hk, cluAg_toNat]
  dsimp only
  rw [if_neg hne]
  rfl

end

end

end Sys2Proof.Machine

namespace Sys2Proof.Machine

open Sys2Proof

/-! Directory entries (R203). -/

theorem State.dirOf_setDir_same (s : State) (l : Nat) (d : Dir) :
    (s.setDir l d).dirOf l = if d.st = .free ∧ d.opens = 0 ∧ d.txn.isNone then {} else d := by
  unfold State.setDir State.dirOf spGetD
  split
  · rw [spGet_spDel_same]
    rfl
  · rw [spGet_spIns_same]
    rfl

theorem State.dirOf_setDir_ne (s : State) {l j : Nat} (d : Dir) (h : j ≠ l) : (s.setDir l d).dirOf j = s.dirOf j := by
  unfold State.setDir State.dirOf spGetD
  split
  · rw [spGet_spDel_ne _ h]
  · rw [spGet_spIns_ne _ _ h]

/-- An entry whose home works on a request is listed. -/
theorem State.dirOf_setDir_txn (s : State) (l : Nat) {d : Dir} {t : Txn} (h : d.txn = some t) : (s.setDir l d).dirOf l = d := by
  rw [State.dirOf_setDir_same, if_neg]
  rintro ⟨-, -, hn⟩
  rw [h] at hn
  cases hn

/-- An entry in a state other than I is listed. -/
theorem State.dirOf_setDir_held (s : State) (l : Nat) {d : Dir} (h : d.st ≠ .free) : (s.setDir l d).dirOf l = d := by
  rw [State.dirOf_setDir_same, if_neg fun hf => h hf.1]

/-! Invalidations and recalls (R205, R201). -/

section
variable {s : State} {l : Nat} {k : BitVec 3} {m : Msg} {net : List Msg} {c : CLine}

theorem OneLine.others {s u : State} (h : OneLine s u k.toNat l) (j : BitVec 3) (i : Nat) (hne : ¬ (j = k ∧ i = l)) :
    u.cline j.toNat i = s.cline j.toNat i :=
  h.other j.toNat i fun e => hne ⟨BitVec.eq_of_toNat_eq (Prod.mk.inj e).1, (Prod.mk.inj e).2⟩

/-- The acknowledgement of an Inv by cluster k. -/
def State.invAckOf (s : State) (k : BitVec 3) (l : Nat) (m : Msg) : Msg :=
  { src := .ag (.cluster k), dst := s.ackTo l m.req, kind := .invAck, line := l, req := m.req }

theorem OneLine.invAckOf {s u : State} {n j : Nat} (h : OneLine s u n j) (k : BitVec 3) (l : Nat) (m : Msg) :
    u.invAckOf k l m = s.invAckOf k l m := by
  rw [h.state]
  rfl

theorem State.invAt_absent (hc : s.cline k.toNat l = none)
    (hm : takeMsg (fun m => m.line = l ∧ m.dst = .ag (.cluster k) ∧ m.kind = .inv) [] s.net = some (m, net)) :
    s.invAt l (.cluster k) = State.send { s with net := net } (s.invAckOf k l m) := by
  unfold State.invAt
  dsimp only
  rw [hc, hm]
  rfl

/-- An Inv for a sharer never waits (R205 note a). -/
theorem State.invAt_sharer (hc : s.cline k.toNat l = some c)
    (hm : takeMsg (fun m => m.line = l ∧ m.dst = .ag (.cluster k) ∧ m.kind = .inv ∧ m.owner = false) [] s.net = some (m, net)) :
    let t : State := { s with net := net }
    let v := if c.st = .im ∨ c.st = .ma then t else t.invDrop k.toNat l
    s.invAt l (.cluster k) = v.send (v.invAckOf k l m) := by
  intro t v
  have hct : t.cline k.toNat l = some c := hc
  unfold State.invAt
  dsimp only
  rw [hc, hm]
  dsimp only
  rw [hct]
  dsimp only
  rw [if_neg (by simp)]
  by_cases h : c.st = .im ∨ c.st = .ma
  · simp only [v, if_pos h]
    rfl
  · simp only [v, if_neg h]
    rfl

/-- An Inv for the owner is obeyed at once where no store of its own waits. -/
theorem State.invAt_owner (hc : s.cline k.toNat l = some c) (hq : c.fq = []) (hn : s.invNow k.toNat l = true)
    (hno : takeMsg (fun m => m.line = l ∧ m.dst = .ag (.cluster k) ∧ m.kind = .inv ∧ m.owner = false) [] s.net = none)
    (hm : takeMsg (fun m => m.line = l ∧ m.dst = .ag (.cluster k) ∧ m.kind = .inv) [] s.net = some (m, net)) :
    let v := State.invDrop { s with net := net } k.toNat l
    s.invAt l (.cluster k) = v.send (v.invAckOf k l m) := by
  intro v
  unfold State.invAt
  dsimp only
  rw [hc, hno, hn]
  dsimp only
  rw [if_neg (by simp), State.lineTurn_now (P := fun x => x = .inv) hc hq hm]
  rfl

theorem State.invDrop_held (hc : s.cline k.toNat l = some c) (hst : c.st = .m ∨ c.st = .o ∨ c.st = .e ∨ c.st = .s) :
    s.invDrop k.toNat l = s.giveUp k.toNat l := by
  unfold State.invDrop
  rw [hc]
  dsimp only
  obtain h | h | h | h := hst <;> rw [h]

theorem State.invDrop_upgrading (hc : s.cline k.toNat l = some c) (hst : c.st = .sm ∨ c.st = .om) :
    s.invDrop k.toNat l = (s.dropCopies k.toNat l).setLine k.toNat l { c with st := .im, data := [], pg := false } := by
  unfold State.invDrop
  rw [hc]
  dsimp only
  obtain h | h := hst <;> rw [h] <;> rfl

/-- A message leaves for the network behind what one line's change left. -/
theorem OneLine.send_eq {s v : State} {n j : Nat} (h : OneLine { s with net := net } v n j) (m : Msg) :
    v.send m = { s with net := net ++ [m], clus := v.clus, cores := v.cores, procs := v.procs } := by
  unfold State.send
  rw [h.state]

/-- The home that awaits more than the line does not go on when the line has come back. -/
theorem State.homeBack_waits {t : Txn} (ht : (s.dirOf l).txn = some t) (ha : t.acks ≠ 0) (x : List Byte × Bool) :
    s.homeBack l (some x) = s.setDir l { s.dirOf l with txn := some { t with need := false, data := some x } } := by
  unfold State.homeBack
  dsimp only
  rw [ht]
  dsimp only
  unfold State.finishTxn
  rw [State.dirOf_setDir_txn _ _ rfl]
  exact if_pos (by simp [ha])

theorem State.recallAt_owner (hc : s.cline k.toNat l = some c) (hq : c.fq = []) (hn : s.recallNow k.toNat l = true)
    (hm : takeMsg (fun m => m.line = l ∧ m.dst = .ag (.cluster k) ∧ (m.kind = .recall ∨ m.kind = .down)) [] s.net = some (m, net)) :
    s.recallAt l (.cluster k) = State.recallDo { s with net := net } k.toNat l m.kind := by
  unfold State.recallAt
  dsimp only
  rw [hc, hn, if_neg (by simp), State.lineTurn_now (P := fun x => x = .recall ∨ x = .down) hc hq hm]

section
variable (hi : NoInjection s) (hc : s.cline k.toNat l = some c) (hf : c.flip = 0)
include hi hc hf

theorem State.recallDo_recall (ho : c.st = .m ∨ c.st = .o ∨ c.st = .e) :
    s.recallDo k.toNat l .recall = (s.giveUp k.toNat l).homeBack l (some (c.data, c.pois)) := by
  unfold State.recallDo
  dsimp only
  rw [State.checkLine_clean hi hc hf, hc]
  dsimp only
  rw [if_pos rfl]
  obtain h | h | h := ho <;> rw [h]

/-- The order to write back leaves the owner with a clean line. -/
theorem State.recallDo_down (ho : c.st = .m ∨ c.st = .o) :
    s.recallDo k.toNat l .down =
      (s.setLine k.toNat l { c with st := if c.st = .m then .e else .s }).homeBack l (some (c.data, c.pois)) := by
  unfold State.recallDo
  dsimp only
  rw [State.checkLine_clean hi hc hf, hc]
  dsimp only
  rw [if_neg (by decide)]
  obtain h | h := ho <;> rw [h] <;> rfl

end

/-! Grants and acknowledgements (R199, R201, R205). -/

theorem State.answered_oneLine (s : State) (k l : Nat) : OneLine s (s.answered k l) k l where
  state := rfl
  other _ _ _ := rfl
  regs p := by
    have hp := State.answered_proc s k l p
    split at hp <;> rw [hp] <;> exact ⟨rfl, rfl, rfl⟩

/-- Check bits that a write of a sound line leaves are good where no injection is armed (R485). -/
theorem State.ccWritten_clean (h : NoInjection s ∧ ∃ x, s.cline k.toNat l = some x ∧ x.flip = 0) (empty : Bool) :
    (if empty = true then s else s.ccWritten k.toNat l true) = s := by
  obtain ⟨hi, x, hx, hf⟩ := h
  have hw : s.ccWritten k.toNat l true = s := by
    unfold State.ccWritten
    rw [hx]
    dsimp only
    rw [hi.injHit]
    dsimp only
    rw [hi.injHit]
    exact if_neg (by simp [hf])
  rw [hw, ite_self]

/-- The line with what a grant brings; `pg` says whether a store with its persist grant waits for it. -/
def CLine.filled (c : CLine) (m : Msg) (pg : Bool) (st : LS) (acks : Int) : CLine :=
  { c with data := if m.data.isEmpty then c.data else m.data, pois := if m.data.isEmpty then c.pois else m.pois, pg := c.pg || pg, st := st, acks := acks }

/-- The completion that cluster k sends to the home (R208). -/
def State.cmpOf (s : State) (k : BitVec 3) (l : Nat) : Msg :=
  { src := .ag (.cluster k), dst := s.homeNode l, kind := .cmp, line := l, req := .cluster k }

theorem State.cmpl_eq (s : State) (k : BitVec 3) (l : Nat) : s.cmpl k.toNat l = s.send (s.cmpOf k l) := by
  unfold State.cmpl State.cmpOf
  rw [cluAg_toNat]

section
variable (hi : NoInjection s) (hc : s.cline k.toNat l = some c) (hf : c.flip = 0)
  (hm : takeMsg (fun m => m.line = l ∧ m.dst = .ag (.cluster k) ∧ m.kind.grants = true) [] s.net = some (m, net))
include hi hc hf hm

/-- A miss is completed by the data that comes with its grant. -/
theorem State.grantAt_miss {g : Grant} {x : LS} (hg : (g, x) ∈ [(Grant.s, LS.s), (.e, .e), (.m, .m)]) (hst : c.st = .is) (hk : m.kind = .data g) :
    ∃ pg, s.grantAt k.toNat l =
      ((State.answered { s with net := net } k.toNat l).setLine k.toNat l (c.filled m pg x 0)).send (s.cmpOf k l) := by
  unfold State.grantAt
  dsimp only
  rw [cluAg_toNat, hm]
  dsimp only
  rw [hc]
  dsimp only
  simp only [State.cmpl_eq]
  rw [hst, hk]
  simp only [List.mem_cons, Prod.mk.injEq, List.not_mem_nil, or_false] at hg
  obtain ⟨rfl, rfl⟩ | ⟨rfl, rfl⟩ | ⟨rfl, rfl⟩ := hg
  all_goals exact ⟨_, State.ccWritten_clean (by exact ⟨hi, _, State.cline_setLine_same _ _ _ _, hf⟩) _⟩

/-- Ownership completes a request once no acknowledgement is outstanding; until then the line is in MA. -/
theorem State.grantAt_owned (hst : c.st = .im ∨ c.st = .sm ∨ c.st = .om) (hk : m.kind = .data .m) :
    ∃ pg, s.grantAt k.toNat l = if c.acks + m.acks = 0 then
        ((State.answered { s with net := net } k.toNat l).setLine k.toNat l (c.filled m pg .m 0)).send (s.cmpOf k l)
      else (State.answered { s with net := net } k.toNat l).setLine k.toNat l (c.filled m pg .ma (c.acks + m.acks)) := by
  unfold State.grantAt
  dsimp only
  rw [cluAg_toNat, hm]
  dsimp only
  rw [hc]
  dsimp only
  simp only [State.cmpl_eq]
  rw [hk]
  by_cases ha : c.acks + m.acks = 0
  · simp only [if_pos ha]
    obtain h | h | h := hst <;> rw [h]
    all_goals exact ⟨_, State.ccWritten_clean (by exact ⟨hi, _, State.cline_setLine_same _ _ _ _, hf⟩) _⟩
  · simp only [if_neg ha]
    obtain h | h | h := hst <;> rw [h]
    all_goals exact ⟨_, State.ccWritten_clean (by exact ⟨hi, _, State.cline_setLine_same _ _ _ _, hf⟩) _⟩

end

/-- The requester counts an acknowledgement; the last one in MA completes its request. -/
theorem State.ackAt_requester (hc : s.cline k.toNat l = some c)
    (hm : takeMsg (fun m => m.line = l ∧ m.req = .cluster k ∧ m.kind = .invAck) [] s.net = some (m, net)) (hd : m.dst = .ag (.cluster k)) :
    let t : State := { s with net := net }
    s.ackAt l (.cluster k) = if c.st = .ma ∧ c.acks = 1 then
        ((t.setLine k.toNat l { c with st := .m, acks := 0 }).answered k.toNat l).send (s.cmpOf k l)
      else t.setLine k.toNat l { c with acks := c.acks - 1 } := by
  intro t
  have hct : t.cline k.toNat l = some c := hc
  have hone : c.acks - 1 = 0 ↔ c.acks = 1 := sub_eq_zero
  unfold State.ackAt
  rw [hm]
  dsimp only
  rw [hd]
  dsimp only
  rw [hct]
  dsimp only
  rw [State.cmpl_eq]
  simp only [hone]
  rfl

/-- The home counts an acknowledgement for a request that it completes itself, and awaits more. -/
theorem State.ackAt_home {a : BitVec 3} {t : Txn}
    (hm : takeMsg (fun m => m.line = l ∧ m.req = .cluster k ∧ m.kind = .invAck) [] s.net = some (m, net)) (hd : m.dst = s.homeNode l)
    (hs : m.src = .ag (.cluster a)) (ht : (s.dirOf l).txn = some t) (ha : 2 ≤ t.acks) :
    s.ackAt l (.cluster k) =
      State.setDir { s with net := net } l { (s.dirOf l).share (.cluster a) false with txn := some { t with acks := t.acks - 1 } } := by
  obtain ⟨h, hh⟩ : ∃ h, m.dst = .home h := by
    rw [hd]
    unfold State.homeNode
    split <;> exact ⟨_, rfl⟩
  have htn : (State.dirOf { s with net := net } l).txn = some t := ht
  unfold State.ackAt
  rw [hm]
  dsimp only
  rw [hh]
  dsimp only
  rw [htn, hs]
  dsimp only
  unfold State.finishTxn
  rw [State.dirOf_setDir_txn _ _ rfl]
  exact if_pos (by simp; omega)

/-- No request of the line waits at its home. -/
theorem State.drainQueue_idle (h : ((s.stack (s.sliceOf l)).queue.find? fun m => m.line = l) = none) (n : Nat) : s.drainQueue l n = s := by
  cases n with
  | zero => rfl
  | succ n =>
    unfold State.drainQueue
    dsimp only
    rw [h]
    exact ite_self _

theorem State.cmpAt_idle (hm : takeMsg (fun m => m.line = l ∧ m.src = .ag (.cluster k) ∧ m.kind = .cmp) [] s.net = some (m, net))
    (hq : ((s.stack (s.sliceOf l)).queue.find? fun m => m.line = l) = none) :
    s.cmpAt l (.cluster k) = State.setDir { s with net := net } l { s.dirOf l with opens := (s.dirOf l).opens - 1 } := by
  have hq' : (((State.setDir { s with net := net } l { s.dirOf l with opens := (s.dirOf l).opens - 1 }).stack
      ((State.setDir { s with net := net } l { s.dirOf l with opens := (s.dirOf l).opens - 1 }).sliceOf l)).queue.find? fun m => m.line = l) = none := by
    rw [State.setDir_eq]
    exact hq
  unfold State.cmpAt
  rw [hm]
  exact State.drainQueue_idle hq' 64

/-- The eviction buffer's entry is free once the home has answered (R200). -/
theorem State.evbFree_frees {kind : MK} (hc : s.cline k.toNat l = some c) (ho : c.st = .eb ∨ c.st = .sb) (hq : c.fq = [])
    (hm : takeMsg (fun m => m.line = l ∧ m.dst = .ag (.cluster k) ∧ m.kind = kind) [] s.net = some (m, net)) :
    s.evbFree l (.cluster k) kind = State.unlist { s with net := net } k.toNat l := by
  have hct : State.cline { s with net := net } k.toNat l = some c := hc
  unfold State.evbFree
  rw [hm]
  dsimp only
  rw [hct]
  dsimp only
  rw [hq, if_neg (by simp), if_pos ho]
  rfl

end

end Sys2Proof.Machine

namespace Sys2Proof.Machine

open Sys2Proof

/-! What the commands of holders and requesters leave (R199 to R201, R205, R208, R211). -/

/-- The messages in flight are `net`, line l of cluster k may have changed with L1 copies and reservations, and nothing else has: no other
line, no register. -/
def LineStep (s u : State) (k : BitVec 3) (l : Nat) (net : List Msg) : Prop :=
  u = { s with net := net, clus := u.clus, cores := u.cores, procs := u.procs } ∧
    (∀ (j : BitVec 3) (i : Nat), ¬ (j = k ∧ i = l) → u.cline j.toNat i = s.cline j.toNat i) ∧
    ∀ p : BitVec 6, (u.proc p).g = (s.proc p).g ∧ (u.proc p).f = (s.proc p).f ∧ (u.proc p).ip = (s.proc p).ip

/-- Cluster k holds line l as `c` with good check bits, under no tag search, and no injection is armed (R194, R196, R485). -/
structure HeldSound (s : State) (k : BitVec 3) (l : Nat) (c : CLine) : Prop where
  ok : s.lineOk l = true
  inj : NoInjection s
  seen : s.hidden k.toNat l = false
  line : s.cline k.toNat l = some c
  good : c.flip = 0

/-- Cluster k owns the line, nothing waits there, and no store of its own waits for it (R201). -/
structure OwnsFree (s : State) (k : BitVec 3) (l : Nat) (c : CLine) : Prop extends HeldSound s k l c where
  owner : c.st = .m ∨ c.st = .o ∨ c.st = .e
  idle : c.fq = []
  free : s.slotWaits k.toNat l = false

section
variable {s : State} {l : Nat} {k : BitVec 3} {m : Msg} {net : List Msg} {c : CLine}

theorem OneLine.sent {v : State} (h : OneLine { s with net := net } v k.toNat l) (x : Msg) : LineStep s (v.send x) k l (net ++ [x]) :=
  ⟨h.send_eq x, h.others, h.regs⟩

theorem State.LineGone.send {v : State} (h : v.LineGone k.toNat l) (x : Msg) : (v.send x).LineGone k.toNat l := h

/-- The line came back to the home, which awaits more: the entry has its data, and the caches are as the line's change left them. -/
theorem OneLine.homeBack {v : State} (h : OneLine { s with net := net } v k.toNat l) {t : Txn} (ht : (s.dirOf l).txn = some t) (ha : t.acks ≠ 0)
    (x : List Byte × Bool) :
    let u := v.homeBack l (some x)
    (u.dirOf l).txn = some { t with need := false, data := some x } ∧ ∃ dir, u = { v with dir := dir } := by
  intro u
  have hd : v.dirOf l = s.dirOf l := by
    rw [h.state]
    rfl
  have hu : u = v.setDir l { s.dirOf l with txn := some { t with need := false, data := some x } } := by
    rw [← hd]
    exact State.homeBack_waits (by rw [hd]; exact ht) ha x
  rw [hu]
  exact ⟨by rw [State.dirOf_setDir_txn _ _ rfl], _, State.setDir_eq _ _ _⟩

/-- A directory entry of its own changed beside the line. -/
theorem OneLine.with_dir {v : State} (h : OneLine { s with net := net } v k.toNat l) (dir : Sp Dir) :
    let u : State := { v with dir := dir }
    u = { s with net := net, dir := u.dir, clus := u.clus, cores := u.cores, procs := u.procs } ∧
      (∀ (j : BitVec 3) (i : Nat), ¬ (j = k ∧ i = l) → u.cline j.toNat i = s.cline j.toNat i) ∧
      ∀ p : BitVec 6, (u.proc p).g = (s.proc p).g ∧ (u.proc p).f = (s.proc p).f ∧ (u.proc p).ip = (s.proc p).ip :=
  ⟨by rw [h.state], h.others, h.regs⟩

theorem State.LineGone.with_dir {v : State} (h : v.LineGone k.toNat l) (dir : Sp Dir) : State.LineGone { v with dir := dir } k.toNat l := h

theorem HeldSound.fwdRow_eq (h : HeldSound s k l c) {mk : MK} (hq : c.fq = []) (hs : s.canServe k.toNat l = true)
    (hm : takeMsg (fun m => m.line = l ∧ m.dst = .ag (.cluster k) ∧ m.kind = mk) [] s.net = some (m, net)) :
    s.onLine l (fun s => s.fwdRow l (.cluster k) mk) = .next (State.serveFwd { s with net := net } k.toNat l m) := by
  rw [State.onLine_ok h.ok, State.fwdRow_serves h.line hq hs hm]

theorem OwnsFree.serves (h : OwnsFree s k l c) : s.canServe k.toNat l = true ∧ s.invNow k.toNat l = true ∧ s.recallNow k.toNat l = true :=
  State.owner_serves h.seen h.line h.owner h.free

/-- FwdS leaves the owner in O, with the bytes it had. -/
theorem OwnsFree.fwds (h : OwnsFree s k l c)
    (hm : takeMsg (fun m => m.line = l ∧ m.dst = .ag (.cluster k) ∧ m.kind = .fwdS) [] s.net = some (m, net)) (hk : m.kind = .fwdS) :
    ∃ u c', exec (.fwds l (.cluster k)) s = .next u ∧
      u = { s with net := net ++ [c.answer k l m .s], clus := u.clus, cores := u.cores } ∧ LineStep s u k l (net ++ [c.answer k l m .s]) ∧
      u.cline k.toNat l = some c' ∧ c'.st = .o ∧ c'.data = c.data := by
  let t : State := { s with net := net }
  have hserve := State.serveFwd_shared (s := t) h.inj h.line h.good hk h.owner
  have hx : exec (.fwds l (.cluster k)) s = .next _ := (exec_fwds s _ _).trans (h.fwdRow_eq h.idle h.serves.1 hm)
  rw [hx, hserve]
  by_cases hst : c.st = .m ∨ c.st = .e
  · rw [if_pos hst]
    obtain ⟨cores, hcores⟩ := State.shareL1_eq (t.setLine k.toNat l { c with st := .o }) k.toNat l
    have hline := (OneLine.setLine t k.toNat l { c with st := .o }).trans (.of_cores (CoresOnly.shareL1 _ k.toNat l) k.toNat l)
    have hcl := (CoresOnly.shareL1 (t.setLine k.toNat l { c with st := .o }) k.toNat l).cline k.toNat l
    exact ⟨_, _, rfl, by rw [hcores]; rfl, hline.sent _, hcl.trans (State.cline_setLine_same t k.toNat l _), rfl, rfl⟩
  · rw [if_neg hst]
    have ho : c.st = .o := by
      obtain e | e | e := h.owner
      · exact absurd (.inl e) hst
      · exact e
      · exact absurd (.inr e) hst
    obtain ⟨cores, hcores⟩ := State.shareL1_eq t k.toNat l
    have hline : OneLine t _ k.toNat l := .of_cores (CoresOnly.shareL1 t k.toNat l) k.toNat l
    exact ⟨_, c, rfl, by rw [hcores]; rfl, hline.sent _, ((CoresOnly.shareL1 t k.toNat l).cline k.toNat l).trans h.line, ho, rfl⟩

/-- FwdU takes a copy and leaves the line as it is. -/
theorem OwnsFree.fwdu (h : OwnsFree s k l c)
    (hm : takeMsg (fun m => m.line = l ∧ m.dst = .ag (.cluster k) ∧ m.kind = .fwdU) [] s.net = some (m, net)) (hk : m.kind = .fwdU) :
    exec (.fwdu l (.cluster k)) s = .next { s with net := net ++ [c.answer k l m .none] } := by
  have hserve := State.serveFwd_uncached (s := { s with net := net }) h.inj h.line h.good hk
  have hx : exec (.fwdu l (.cluster k)) s = .next _ := (exec_fwdu s _ _).trans (h.fwdRow_eq h.idle h.serves.1 hm)
  rw [hx, hserve]
  rfl

/-- FwdX takes the line from its owner. -/
theorem OwnsFree.fwdx (h : OwnsFree s k l c)
    (hm : takeMsg (fun m => m.line = l ∧ m.dst = .ag (.cluster k) ∧ m.kind = .fwdX) [] s.net = some (m, net)) (hk : m.kind = .fwdX) :
    ∃ u, exec (.fwdx l (.cluster k)) s = .next u ∧ LineStep s u k l (net ++ [c.answer k l m .m]) ∧ u.LineGone k.toNat l := by
  have hne : c.st ≠ .eb := by obtain e | e | e := h.owner <;> simp [e]
  have hserve := State.serveFwd_owned (s := { s with net := net }) h.inj h.line h.good hk hne
  have hx : exec (.fwdx l (.cluster k)) s = .next _ := (exec_fwdx s _ _).trans (h.fwdRow_eq h.idle h.serves.1 hm)
  obtain ⟨hline, hgone⟩ := State.giveUp_spec { s with net := net } k.toNat l
  rw [hx, hserve]
  exact ⟨_, rfl, hline.sent _, hgone.send _⟩

/-- FwdX that meets the line in the eviction buffer: the first is served, a later one goes on to the requester of the one before (R211). -/
theorem HeldSound.fwdx_buffered (h : HeldSound s k l c) (ho : c.st = .eb) (hq : c.fq = [])
    (hm : takeMsg (fun m => m.line = l ∧ m.dst = .ag (.cluster k) ∧ m.kind = .fwdX) [] s.net = some (m, net)) (hk : m.kind = .fwdX) :
    let x : Msg := match c.heir with | none => c.answer k l m .m | some a => { m with src := .ag (.cluster k), dst := .ag a }
    ∃ u, exec (.fwdx l (.cluster k)) s = .next u ∧ u = { s with net := net ++ [x], clus := u.clus } ∧
      u.cline k.toNat l = some { c with heir := some m.req } ∧ LineStep s u k l (net ++ [x]) := by
  intro x
  let t : State := { s with net := net }
  have hserve := State.serveFwd_buffered (s := t) h.inj h.line h.good hk ho
  have hx : exec (.fwdx l (.cluster k)) s = .next _ := (exec_fwdx s _ _).trans (h.fwdRow_eq hq (State.buffer_serves h.seen h.line ho) hm)
  rw [hx, hserve]
  exact ⟨_, rfl, rfl, State.cline_setLine_same t k.toNat l _, (OneLine.setLine t k.toNat l _).sent _⟩

theorem HeldSound.recall_eq (h : HeldSound s k l c) (hq : c.fq = []) (hn : s.recallNow k.toNat l = true)
    (hm : takeMsg (fun m => m.line = l ∧ m.dst = .ag (.cluster k) ∧ (m.kind = .recall ∨ m.kind = .down)) [] s.net = some (m, net)) :
    exec (.recall l (.cluster k)) s = .next (State.recallDo { s with net := net } k.toNat l m.kind) := by
  rw [exec_recall, execRecall, State.onLine_ok h.ok]
  exact congrArg _ (State.recallAt_owner h.line hq hn hm)

/-- Recall hands the line to its home. -/
theorem OwnsFree.recall (h : OwnsFree s k l c) {t : Txn} (ht : (s.dirOf l).txn = some t) (ha : t.acks ≠ 0)
    (hm : takeMsg (fun m => m.line = l ∧ m.dst = .ag (.cluster k) ∧ (m.kind = .recall ∨ m.kind = .down)) [] s.net = some (m, net))
    (hk : m.kind = .recall) :
    ∃ u, exec (.recall l (.cluster k)) s = .next u ∧
      u = { s with net := net, dir := u.dir, clus := u.clus, cores := u.cores, procs := u.procs } ∧
      (u.dirOf l).txn = some { t with need := false, data := some (c.data, c.pois) } ∧ u.LineGone k.toNat l ∧
      (∀ (j : BitVec 3) (i : Nat), ¬ (j = k ∧ i = l) → u.cline j.toNat i = s.cline j.toNat i) ∧
      ∀ p : BitVec 6, (u.proc p).g = (s.proc p).g ∧ (u.proc p).f = (s.proc p).f ∧ (u.proc p).ip = (s.proc p).ip := by
  have hdo := State.recallDo_recall (s := { s with net := net }) h.inj h.line h.good h.owner
  have hx := h.recall_eq h.idle h.serves.2.2 hm
  obtain ⟨hline, hgone⟩ := State.giveUp_spec { s with net := net } k.toNat l
  obtain ⟨htxn, dir, hu⟩ := hline.homeBack ht ha (c.data, c.pois)
  rw [hk, hdo] at hx
  rw [hu] at hx htxn
  obtain ⟨hstate, hothers, hregs⟩ := hline.with_dir dir
  exact ⟨_, hx, hstate, htxn, hgone.with_dir dir, hothers, hregs⟩

/-- The order to write back leaves the owner with the line, clean (R205). -/
theorem OwnsFree.down (h : OwnsFree s k l c) {t : Txn} (ht : (s.dirOf l).txn = some t) (ha : t.acks ≠ 0)
    (hm : takeMsg (fun m => m.line = l ∧ m.dst = .ag (.cluster k) ∧ (m.kind = .recall ∨ m.kind = .down)) [] s.net = some (m, net))
    (hk : m.kind = .down) (hst : c.st ≠ .e) :
    ∃ u, exec (.recall l (.cluster k)) s = .next u ∧ u = { s with net := net, dir := u.dir, clus := u.clus } ∧
      (u.dirOf l).txn = some { t with need := false, data := some (c.data, c.pois) } ∧
      u.cline k.toNat l = some { c with st := if c.st = .m then .e else .s } ∧
      ∀ (j : BitVec 3) (i : Nat), ¬ (j = k ∧ i = l) → u.cline j.toNat i = s.cline j.toNat i := by
  have ho : c.st = .m ∨ c.st = .o := by
    obtain e | e | e := h.owner
    · exact .inl e
    · exact .inr e
    · exact absurd e hst
  let v : State := { s with net := net }
  have hdo := State.recallDo_down (s := v) h.inj h.line h.good ho
  have hx := h.recall_eq h.idle h.serves.2.2 hm
  have hline := OneLine.setLine v k.toNat l { c with st := if c.st = .m then .e else .s }
  obtain ⟨htxn, dir, hu⟩ := hline.homeBack ht ha (c.data, c.pois)
  rw [hk, hdo] at hx
  rw [hu] at hx htxn
  exact ⟨_, hx, rfl, htxn, State.cline_setLine_same v k.toNat l _, hline.others⟩

end

end Sys2Proof.Machine

namespace Sys2Proof.Machine

open Sys2Proof

section
variable {s : State} {l : Nat} {k : BitVec 3} {m : Msg} {net : List Msg} {c : CLine}

/-- An Inv is acknowledged by whoever changed its line for it. -/
theorem OneLine.acked {v : State} (h : OneLine { s with net := net } v k.toNat l) (m : Msg) :
    LineStep s (v.send (v.invAckOf k l m)) k l (net ++ [s.invAckOf k l m]) := by
  rw [h.invAckOf]
  exact h.sent _

theorem execInv_cluster (hl : s.lineOk l = true) : exec (.inv l (.cluster k)) s = .next (s.invAt l (.cluster k)) := by
  rw [exec_inv, execInv, State.onLine_ok hl]

/-- The owner obeys an Inv of a WrF. -/
theorem OwnsFree.inv (h : OwnsFree s k l c)
    (hno : takeMsg (fun m => m.line = l ∧ m.dst = .ag (.cluster k) ∧ m.kind = .inv ∧ m.owner = false) [] s.net = none)
    (hm : takeMsg (fun m => m.line = l ∧ m.dst = .ag (.cluster k) ∧ m.kind = .inv) [] s.net = some (m, net)) :
    ∃ u, exec (.inv l (.cluster k)) s = .next u ∧ LineStep s u k l (net ++ [s.invAckOf k l m]) ∧ u.LineGone k.toNat l := by
  have hst : c.st = .m ∨ c.st = .o ∨ c.st = .e ∨ c.st = .s := by
    obtain e | e | e := h.owner <;> simp [e]
  have hdrop := State.invDrop_held (s := { s with net := net }) h.line hst
  have hat := State.invAt_owner h.line h.idle h.serves.2.1 hno hm
  obtain ⟨hline, hgone⟩ := State.giveUp_spec { s with net := net } k.toNat l
  dsimp only at hat
  rw [hdrop] at hat
  rw [execInv_cluster h.ok, hat]
  exact ⟨_, rfl, hline.acked m, hgone.send _⟩

/-- A sharer obeys an Inv. -/
theorem HeldSound.inv_shared (h : HeldSound s k l c) (hst : c.st = .s)
    (hm : takeMsg (fun m => m.line = l ∧ m.dst = .ag (.cluster k) ∧ m.kind = .inv ∧ m.owner = false) [] s.net = some (m, net)) :
    ∃ u, exec (.inv l (.cluster k)) s = .next u ∧ LineStep s u k l (net ++ [s.invAckOf k l m]) ∧ u.LineGone k.toNat l := by
  have hdrop := State.invDrop_held (s := { s with net := net }) h.line (.inr (.inr (.inr hst)))
  have hat := State.invAt_sharer h.line hm
  obtain ⟨hline, hgone⟩ := State.giveUp_spec { s with net := net } k.toNat l
  dsimp only at hat
  rw [if_neg (by simp [hst]), hdrop] at hat
  rw [execInv_cluster h.ok, hat]
  exact ⟨_, rfl, hline.acked m, hgone.send _⟩

/-- A message sent is no matter of any line. -/
theorem State.cline_send (v : State) (m : Msg) (k l : Nat) : (v.send m).cline k l = v.cline k l := rfl

/-- A copy whose ownership is asked for is lost to an Inv and waits for data (R205 note a). -/
theorem HeldSound.inv_upgrading (h : HeldSound s k l c) (hst : c.st = .sm ∨ c.st = .om)
    (hm : takeMsg (fun m => m.line = l ∧ m.dst = .ag (.cluster k) ∧ m.kind = .inv ∧ m.owner = false) [] s.net = some (m, net)) :
    ∃ u, exec (.inv l (.cluster k)) s = .next u ∧ LineStep s u k l (net ++ [s.invAckOf k l m]) ∧
      u.cline k.toNat l = some { c with st := .im, data := [], pg := false } := by
  have hne : ¬ (c.st = .im ∨ c.st = .ma) := by obtain e | e := hst <;> simp [e]
  have hdrop := State.invDrop_upgrading (s := { s with net := net }) h.line hst
  have hat := State.invAt_sharer h.line hm
  obtain ⟨hline, hcl⟩ := State.dropCopies_setLine_spec { s with net := net } k.toNat l { c with st := .im, data := [], pg := false }
  dsimp only at hat
  rw [if_neg hne, hdrop] at hat
  rw [execInv_cluster h.ok, hat]
  exact ⟨_, rfl, hline.acked m, (State.cline_send _ _ _ _).trans hcl⟩

/-- A line that waits for data or acknowledgements has nothing to give up. -/
theorem HeldSound.inv_waiting (h : HeldSound s k l c) (hst : c.st = .im ∨ c.st = .ma)
    (hm : takeMsg (fun m => m.line = l ∧ m.dst = .ag (.cluster k) ∧ m.kind = .inv ∧ m.owner = false) [] s.net = some (m, net)) :
    exec (.inv l (.cluster k)) s = .next { s with net := net ++ [s.invAckOf k l m] } := by
  have hat := State.invAt_sharer h.line hm
  dsimp only at hat
  rw [if_pos hst] at hat
  rw [execInv_cluster h.ok, hat]
  rfl

theorem execDataGrant_cluster (hl : s.lineOk l = true) : exec (.dataGrant l (.cluster k)) s = .next (s.grantAt k.toNat l) := by
  rw [exec_dataGrant, execDataGrant, State.onLine_ok hl]

/-- An answered line with its new entry: caches and registers, and that no core's cache differs. -/
theorem State.answered_setLine (s : State) (net : List Msg) (k : BitVec 3) (l : Nat) (x : CLine) :
    let v := (State.answered { s with net := net } k.toNat l).setLine k.toNat l x
    v = { s with net := net, procs := v.procs, clus := v.clus } ∧ v.cline k.toNat l = some x ∧ OneLine { s with net := net } v k.toNat l :=
  ⟨rfl, State.cline_setLine_same _ _ _ x, (State.answered_oneLine _ k.toNat l).trans (OneLine.setLine _ k.toNat l x)⟩

theorem CLine.filled_data {x : LS} {a : Int} (c : CLine) (m : Msg) (pg : Bool) : (c.filled m pg x a).data = if m.data = [] then c.data else m.data := by
  unfold CLine.filled
  simp only [List.isEmpty_iff]

/-- A grant of data ends a miss. -/
theorem HeldSound.grant_miss (h : HeldSound s k l c) {g : Grant} {x : LS} (hg : (g, x) ∈ [(Grant.s, LS.s), (.e, .e), (.m, .m)])
    (hst : c.st = .is) (hk : m.kind = .data g) (hd : m.data ≠ [])
    (hm : takeMsg (fun m => m.line = l ∧ m.dst = .ag (.cluster k) ∧ m.kind.grants = true) [] s.net = some (m, net)) :
    ∃ u c', exec (.dataGrant l (.cluster k)) s = .next u ∧ u = { s with net := net ++ [s.cmpOf k l], procs := u.procs, clus := u.clus } ∧
      u.cline k.toNat l = some c' ∧ c'.st = x ∧ c'.data = m.data ∧ c'.acks = 0 ∧ LineStep s u k l (net ++ [s.cmpOf k l]) := by
  obtain ⟨pg, hgr⟩ := State.grantAt_miss h.inj h.line h.good hm hg hst hk
  obtain ⟨hv, hcl, hline⟩ := State.answered_setLine s net k l (c.filled m pg x 0)
  rw [execDataGrant_cluster h.ok, hgr]
  refine ⟨_, _, rfl, ?_, hcl, rfl, (c.filled_data m pg).trans (if_neg hd), rfl, hline.sent _⟩
  rw [State.send, hv]

/-- A grant of ownership ends the request, or awaits acknowledgements in MA. -/
theorem HeldSound.grant_owned (h : HeldSound s k l c) (hst : c.st = .im ∨ c.st = .sm ∨ c.st = .om) (hk : m.kind = .data .m)
    (hm : takeMsg (fun m => m.line = l ∧ m.dst = .ag (.cluster k) ∧ m.kind.grants = true) [] s.net = some (m, net)) :
    ∃ u c', exec (.dataGrant l (.cluster k)) s = .next u ∧ u = { s with net := u.net, procs := u.procs, clus := u.clus } ∧
      u.cline k.toNat l = some c' ∧ c'.data = (if m.data = [] then c.data else m.data) ∧ LineStep s u k l u.net ∧
      (c.acks + m.acks = 0 → c'.st = .m ∧ u.net = net ++ [s.cmpOf k l]) ∧
      (c.acks + m.acks ≠ 0 → c'.st = .ma ∧ c'.acks = c.acks + m.acks ∧ u.net = net) := by
  obtain ⟨pg, hgr⟩ := State.grantAt_owned h.inj h.line h.good hm hst hk
  rw [execDataGrant_cluster h.ok, hgr]
  by_cases ha : c.acks + m.acks = 0
  · obtain ⟨hv, hcl, hline⟩ := State.answered_setLine s net k l (c.filled m pg .m 0)
    rw [if_pos ha]
    refine ⟨_, _, rfl, ?_, hcl, c.filled_data m pg, hline.sent _, fun _ => ⟨rfl, rfl⟩, fun hn => absurd ha hn⟩
    rw [State.send, hv]
  · obtain ⟨hv, hcl, hline⟩ := State.answered_setLine s net k l (c.filled m pg .ma (c.acks + m.acks))
    rw [if_neg ha]
    exact ⟨_, _, rfl, hv, hcl, c.filled_data m pg, ⟨hline.state, hline.others, hline.regs⟩, fun hz => absurd hz ha, fun _ => ⟨rfl, rfl, rfl⟩⟩

theorem execInvAck_cluster (hl : s.lineOk l = true) : exec (.invAck l (.cluster k)) s = .next (s.ackAt l (.cluster k)) := by
  rw [exec_invAck, execInvAck, State.onLine_ok hl, if_neg (by simp)]

/-- The requester counts an acknowledgement; with the last one in MA its request is complete. -/
theorem HeldSound.ack (h : HeldSound s k l c) (hd : m.dst = .ag (.cluster k))
    (hm : takeMsg (fun m => m.line = l ∧ m.req = .cluster k ∧ m.kind = .invAck) [] s.net = some (m, net)) :
    ∃ u c', exec (.invAck l (.cluster k)) s = .next u ∧ u = { s with net := u.net, procs := u.procs, clus := u.clus } ∧
      u.cline k.toNat l = some c' ∧ c'.data = c.data ∧ c'.acks = c.acks - 1 ∧ LineStep s u k l u.net ∧
      (c.st = .ma → c.acks = 1 → c'.st = .m ∧ u.net = net ++ [s.cmpOf k l]) ∧ (c.st ≠ .ma ∨ c.acks ≠ 1 → c'.st = c.st ∧ u.net = net) := by
  have hat := State.ackAt_requester h.line hm hd
  dsimp only at hat
  rw [execInvAck_cluster h.ok, hat]
  by_cases hlast : c.st = .ma ∧ c.acks = 1
  · let t : State := { s with net := net }
    let x : CLine := { c with st := .m, acks := 0 }
    have hline : OneLine t ((t.setLine k.toNat l x).answered k.toNat l) k.toNat l :=
      (OneLine.setLine t k.toNat l x).trans (State.answered_oneLine _ k.toNat l)
    rw [if_pos hlast]
    refine ⟨_, x, rfl, rfl, State.cline_setLine_same t k.toNat l x, rfl, by rw [hlast.2]; rfl, hline.sent _, fun _ _ => ⟨rfl, rfl⟩, fun hn => ?_⟩
    exact absurd hlast (not_and_or.2 hn)
  · let t : State := { s with net := net }
    let x : CLine := { c with acks := c.acks - 1 }
    have hline := OneLine.setLine t k.toNat l x
    rw [if_neg hlast]
    exact ⟨_, x, rfl, rfl, State.cline_setLine_same t k.toNat l x, rfl, rfl, ⟨hline.state, hline.others, hline.regs⟩,
      fun hma hone => absurd ⟨hma, hone⟩ hlast, fun _ => ⟨rfl, rfl⟩⟩

/-- WBAck and EvAck free the eviction buffer's entry (R200). -/
theorem HeldSound.evictionAcked (h : HeldSound s k l c) (ho : c.st = .eb ∨ c.st = .sb) (hq : c.fq = []) {kind : MK} {o : Nat → Agent → Instr}
    (hok : (o, kind) ∈ [(Instr.wback, MK.wbAck), (.evack, .evAck)])
    (hm : takeMsg (fun m => m.line = l ∧ m.dst = .ag (.cluster k) ∧ m.kind = kind) [] s.net = some (m, net)) :
    exec (o l (.cluster k)) s = .next (State.unlist { s with net := net } k.toNat l) := by
  have hfree := State.evbFree_frees h.line ho hq hm
  simp only [List.mem_cons, Prod.mk.injEq, List.not_mem_nil, or_false] at hok
  obtain ⟨rfl, rfl⟩ | ⟨rfl, rfl⟩ := hok
  · rw [exec_wback, execWback, State.onLine_ok h.ok]
    exact congrArg _ hfree
  · rw [exec_evack, execEvack, State.onLine_ok h.ok]
    exact congrArg _ hfree

end

/-- Settles O26: an owner's answers are the lemmas of `OwnsFree`, those of another holder and of a requester the lemmas of `HeldSound`; the home's
parts are `State.ackAt_home` and `State.cmpAt_idle`. -/
theorem holdersAnswer : Obligations.HoldersAnswer := by
  unfold Obligations.HoldersAnswer
  intro s l k m net hl hi hh r taken mine data cmp acked others gone regs
  refine ⟨fun c hc hf => ?_, fun hc hm => ?_, fun t a hm hd hs ht ha => ?_, fun hm hq => ?_⟩
  · have held : HeldSound s k l c := ⟨hl, hi, hh, hc, hf⟩
    refine ⟨fun ho hq hw => ?_, fun ho hq hm => ⟨fun hn => ?_, fun a hn => ?_⟩, fun hm => ⟨fun hst => ?_, fun hst => ?_, fun hst => ?_⟩,
      fun hm => ⟨fun g x hg hst hk hd => ?_, fun hst hk => ?_⟩, fun hm hd => ?_, fun ho hq kind o hok hm => ?_⟩
    · have owns : OwnsFree s k l c := ⟨held, ho, hq, hw⟩
      refine ⟨fun hm => ?_, fun hm => owns.fwdu hm.1 hm.2, fun hm => ?_, fun t hm ht ha => ⟨fun hk => ?_, fun hk hst => ?_⟩, fun hno hm => ?_⟩
      · obtain ⟨u, c', hu, hs, hstep, hcl, hst, hdata⟩ := owns.fwds hm.1 hm.2
        exact ⟨u, c', hu, hs, hcl, hst, hdata, hstep.2.1⟩
      · obtain ⟨u, hu, ⟨hs, hothers, hregs⟩, hgone⟩ := owns.fwdx hm.1 hm.2
        exact ⟨u, hu, hs, hgone, hothers, hregs⟩
      · exact owns.recall ht ha hm hk
      · obtain ⟨u, hu, hs, htxn, hcl, hothers⟩ := owns.down ht ha hm hk hst
        exact ⟨u, _, hu, hs, htxn, hcl, rfl, rfl, hothers⟩
      · obtain ⟨u, hu, ⟨hs, hothers, hregs⟩, hgone⟩ := owns.inv hno hm.1
        exact ⟨u, hu, hs, hgone, hothers, hregs⟩
    · obtain ⟨u, hu, hs, hcl, hstep⟩ := held.fwdx_buffered ho hq hm.1 hm.2
      rw [hn] at hs
      exact ⟨u, hu, hs, hcl, hstep.2.1⟩
    · obtain ⟨u, hu, hs, hcl, hstep⟩ := held.fwdx_buffered ho hq hm.1 hm.2
      rw [hn] at hs
      exact ⟨u, hu, hs, hcl, hstep.2.1⟩
    · obtain ⟨u, hu, ⟨hs, hothers, hregs⟩, hgone⟩ := held.inv_shared hst hm
      exact ⟨u, hu, hs, hgone, hothers, hregs⟩
    · obtain ⟨u, hu, ⟨hs, hothers, hregs⟩, hcl⟩ := held.inv_upgrading hst hm
      exact ⟨u, _, hu, hs, hcl, rfl, rfl, hothers, hregs⟩
    · exact held.inv_waiting hst hm
    · obtain ⟨u, c', hu, hs, hcl, hx, hdata, hacks, hstep⟩ := held.grant_miss hg hst hk hd hm
      exact ⟨u, c', hu, hs, hcl, hx, hdata, hacks, hstep.2⟩
    · obtain ⟨u, c', hu, hs, hcl, hdata, hstep, hdone, hwait⟩ := held.grant_owned hst hk hm
      exact ⟨u, c', hu, hs, hcl, hdata, hstep.2.1, hstep.2.2, hdone, hwait⟩
    · obtain ⟨u, c', hu, hs, hcl, hdata, hacks, hstep, hdone, hwait⟩ := held.ack hd hm
      exact ⟨u, c', hu, hs, hcl, hdata, hacks, hstep.2.1, hstep.2.2, hdone, hwait⟩
    · have hx := held.evictionAcked ho hq hok hm.1
      exact ⟨_, hx, rfl, State.cline_unlist_same _ _ _, (OneLine.unlist { s with net := net } k.toNat l).others⟩
  · rw [execInv_cluster hl, State.invAt_absent hc hm.1]
    rfl
  · rw [execInvAck_cluster hl, State.ackAt_home hm hd hs ht ha]
    refine ⟨_, rfl, State.setDir_eq _ _ _, ?_, ?_, fun j hj => State.dirOf_setDir_ne _ _ hj⟩
    · rw [State.dirOf_setDir_txn _ _ rfl]
    · rw [State.dirOf_setDir_txn _ _ rfl]
      rfl
  · rw [exec_cmp, execCmp, State.onLine_ok hl, State.cmpAt_idle hm hq]
    refine ⟨_, rfl, State.setDir_eq _ _ _, ?_, fun j hj => State.dirOf_setDir_ne _ _ hj⟩
    rw [State.dirOf_setDir_same]
    split
    · next h => exact h.2.1.symm
    · rfl

end Sys2Proof.Machine

namespace Sys2Proof.Machine

open Sys2Proof

/-! Words of a line and the bytes they stand for (R37). -/

theorem leNat_lt (bs : List Byte) : leNat bs < 256 ^ bs.length := by
  induction bs with
  | nil => exact Nat.one_pos
  | cons b bs ih =>
    have hb := b.isLt
    rw [leNat, List.length_cons, Nat.pow_succ]
    omega

theorem natLe_leNat (bs : List Byte) : natLe bs.length (leNat bs) = bs := by
  induction bs with
  | nil => rfl
  | cons b bs ih =>
    have hb := b.isLt
    rw [leNat, List.length_cons, natLe, show (b.toNat + 256 * leNat bs) / 256 = leNat bs by omega, ih]
    refine congrArg (· :: bs) (BitVec.eq_of_toNat_eq ?_)
    rw [BitVec.toNat_ofNat]
    omega

theorem wordLe_leWord {bs : List Byte} (h : bs.length = 6) : wordLe (leWord bs) = bs := by
  have hlt := leNat_lt bs
  rw [h] at hlt
  have hnat := natLe_leNat bs
  rw [h] at hnat
  rw [wordLe, leWord, BitVec.toNat_ofNat, Nat.mod_eq_of_lt (by omega), hnat]

theorem spBytes_length (d : Byte) (m : Sp Byte) (a n : Nat) : (spBytes d m a n).length = n := by
  induction n generalizing a with
  | zero => rfl
  | succ n ih => rw [spBytes, List.length_cons, ih]

theorem flatten_words (bs : List Byte) (n : Nat) : ((List.range n).map fun w => (bs.drop (6 * w)).take 6).flatten = bs.take (6 * n) := by
  induction n with
  | zero => simp
  | succ n ih => rw [List.range_succ, List.map_append, List.flatten_append, ih, Nat.mul_succ, List.take_add]; simp

/-! A line whose words are read as written (R227). -/

/-- A word whose check bits agree is delivered as it stands. -/
theorem decodeWord_clean (w : Word) : decodeWord w 0 0 = .ok w := by
  have hdev : (0 : BitVec 56) ^^^ ((0 : Byte).zeroExtend 56 <<< 48) = 0 := by decide
  have hsynd : synd 0 = 0 := by decide
  unfold decodeWord
  simp only [hdev, hsynd, if_true]
  simp

section
variable {s : State} {l : Nat}

theorem CleanLine.outs (h : CleanLine s l) : s.lineOuts l [] = (List.range 16).map fun w => .ok (lineWord (s.msLine l) w) := by
  refine List.map_congr_left fun w hw => ?_
  rw [h.2 w (List.mem_range.1 hw)]
  exact decodeWord_clean _

/-- A read of a clean line delivers its bytes and changes nothing. -/
theorem CleanLine.arrayRead (h : CleanLine s l) (master : Nat) : s.arrayRead l [] master = (s.msLine l, false, s) := by
  have hlen : (s.msLine l).length = 96 := spBytes_length _ _ _ _
  have hfix : fixesOf (s.lineOuts l []) = [] := by
    rw [h.outs]
    rfl
  have hbad : (s.lineOuts l []).any WordOut.bad = false := by
    rw [h.outs]
    rfl
  have hbytes : ((s.lineOuts l []).zipIdx.map fun (o, w) => wordLe (o.val (lineWord (s.msLine l) w))).flatten = s.msLine l := by
    have hzip : (s.lineOuts l []).zipIdx.map (fun (o, w) => wordLe (o.val (lineWord (s.msLine l) w))) =
        (List.range 16).map fun w => wordLe (lineWord (s.msLine l) w) := by
      rw [h.outs]
      rfl
    have hword : ∀ w ∈ List.range 16, wordLe (lineWord (s.msLine l) w) = ((s.msLine l).drop (6 * w)).take 6 := by
      intro w hw
      have := List.mem_range.1 hw
      exact wordLe_leWord (by rw [List.length_take, List.length_drop, hlen]; omega)
    rw [hzip, List.map_congr_left hword, flatten_words, List.take_of_length_le (by omega)]
  unfold State.arrayRead
  dsimp only
  rw [h.1, if_neg Bool.false_ne_true, hbad, if_neg Bool.false_ne_true, hbytes, hfix]
  rfl

/-! A write into the array that needs no correction (R233, R237). -/

/-- Between `s` and `u` only the array with its check bits, the controllers' counters and registers differ. -/
def BytesOnly (s u : State) : Prop := u = { s with ms := u.ms, flips := u.flips, stks := u.stks, dev := u.dev }

namespace BytesOnly

theorem refl (s : State) : BytesOnly s s := rfl

theorem trans {s t u : State} (h : BytesOnly s t) (g : BytesOnly t u) : BytesOnly s u := by
  unfold BytesOnly at *
  rw [g, h]

theorem foldl {α : Type} (f : State → α → State) (h : ∀ s a, BytesOnly s (f s a)) (xs : List α) (s : State) : BytesOnly s (xs.foldl f s) := by
  induction xs generalizing s with
  | nil => exact refl s
  | cons x xs ih => exact (h s x).trans (ih _)

theorem inject (s : State) (l w : Nat) : BytesOnly s (s.inject l w) := by
  unfold State.inject
  dsimp only
  split <;> rfl

theorem bytes (s : State) (ms flips : Sp Byte) : BytesOnly s { s with ms := ms, flips := flips } := rfl

theorem poisonWords (s : State) (l : Nat) (ws : List Nat) : BytesOnly s (s.poisonWords l ws) :=
  (bytes s s.ms _).trans (foldl _ (fun s w => inject s l w) ws _)

theorem poisonLine (s : State) (l : Nat) : BytesOnly s (s.poisonLine l) := by
  unfold State.poisonLine
  split
  · exact refl s
  · exact (poisonWords s l _).trans rfl

end BytesOnly

/-- The bytes a write puts into the array. -/
def putBytes (l : Nat) (bs : List Host.Cell) (ms : Sp Byte) : Sp Byte := bs.foldl (fun m (o, b) => spPut 0 m (96 * l + o) b) ms

/-- A write to a line that its merging read leaves alone puts its bytes below 96 into the array, poisoned or not. -/
theorem State.arrayWrite_put (hf : s.fenced l = false) (hl : l < s.part.msLines) {cells : List Host.Cell} {master : Nat}
    (hm : s.mergeRead l (cells.filter fun (o, _) => o < 96) master = s) (pois : Bool) :
    BytesOnly s (s.arrayWrite l cells pois master) ∧
      (s.arrayWrite l cells pois master).ms = putBytes l (cells.filter fun (o, _) => o < 96) s.ms := by
  let t : State := { s with ms := putBytes l (cells.filter fun (o, _) => o < 96) s.ms }
  have ht : BytesOnly s t := rfl
  have hwrite : s.arrayWrite l cells pois master = _ := if_neg (show ¬ (s.fenced l || decide (s.part.msLines ≤ l)) = true by simp [hf, hl])
  dsimp only at hwrite
  rw [hm, if_neg (ne_true_of_eq_false hf)] at hwrite
  rw [hwrite]
  split
  · exact ⟨ht.trans (.poisonLine t l), State.poisonLine_ms t l⟩
  · split
    · exact ⟨ht.trans (.poisonWords t l _), State.poisonWords_ms t l _⟩
    · refine ⟨(ht.trans (.bytes t t.ms _)).trans (.foldl _ (fun s w => .inject s l w) _ _), ?_⟩
      rw [foldl_keeps State.ms _ fun a b => State.inject_ms a l b]
      rfl

/-- A write that fills each word it touches needs no read of the line. -/
theorem State.mergeRead_words {bs : List Host.Cell} {master : Nat} (h : ∀ o, o < 96 → (spGet bs o).isSome = true) : s.mergeRead l bs master = s := by
  refine if_neg ?_
  rw [Bool.not_eq_true, List.any_eq_false]
  intro w hw
  have hw16 : w < 16 := List.mem_range.1 (List.mem_filter.1 hw).1
  rw [Bool.not_eq_true, List.any_eq_false]
  intro i hi
  have := List.mem_range.1 hi
  rw [← Option.not_isSome, h _ (by omega)]
  decide

theorem CleanLine.mergeRead (h : CleanLine s l) (bs : List Host.Cell) (master : Nat) : s.mergeRead l bs master = s := by
  unfold State.mergeRead
  rw [h.arrayRead]
  exact ite_self s

/-- A whole line put into the array: its bytes, and no other line's. -/
theorem State.arrayWrite_line (hf : s.fenced l = false) (hl : l < s.part.msLines) {d : List Byte} (hd : d.length = 96) (pois : Bool) (master : Nat) :
    let u := s.arrayWrite l (cellsAt 0 d) pois master
    BytesOnly s u ∧ LineOnly s u l ∧ ∀ i, i < 96 → u.byteAt (96 * l + i) = d.getD i 0 := by
  have hfilter : (cellsAt 0 d).filter (fun (o, _) => o < 96) = cellsAt 0 d := by
    refine List.filter_eq_self.2 fun x hx => decide_eq_true ?_
    have := lt_of_mem_cellsAt hx
    omega
  have hget (o : Nat) (ho : o < 96) : (spGet (cellsAt 0 d) o).isSome = true := by
    have := spGet_cellsAt 0 d o
    rw [Nat.zero_add] at this
    rw [this, List.getElem?_eq_getElem (by omega)]
    rfl
  obtain ⟨hbytes, hms⟩ := State.arrayWrite_put hf hl (cells := cellsAt 0 d) (master := master) (by rw [hfilter]; exact State.mergeRead_words hget) pois
  rw [hfilter] at hms
  exact ⟨hbytes, LineOnly.of_ms hms hd⟩

/-! Bytes put at rising offsets (R233). -/

theorem spRising_above {α : Type} {m : Sp α} {lo : Nat} (h : spRising (some lo) m = true) : ∀ x ∈ m, lo < x.1 := by
  induction m generalizing lo with
  | nil => exact fun x hx => nomatch hx
  | cons y m ih =>
    simp only [spRising, Bool.and_eq_true, decide_eq_true_eq] at h
    obtain ⟨hy, hm⟩ := h
    intro x hx
    rcases List.mem_cons.1 hx with rfl | hx
    · exact hy
    · exact hy.trans (ih hm x hx)

theorem spRising_distinct {α : Type} {m : Sp α} (h : spRising none m = true) : m.Pairwise fun x y => x.1 ≠ y.1 := by
  induction m with
  | nil => exact .nil
  | cons x m ih =>
    simp only [spRising, Bool.true_and] at h
    exact .cons (fun y hy => (spRising_above h y hy).ne) (ih (spRising_none m x.1 h))

theorem spGet_eq_none {α : Type} {m : Sp α} {k : Nat} (h : ∀ x ∈ m, k ≠ x.1) : spGet m k = none := by
  induction m with
  | nil => rfl
  | cons x m ih =>
    rw [spGet, if_neg (h x List.mem_cons_self).symm]
    exact ih fun y hy => h y (List.mem_cons_of_mem _ hy)

theorem spGet_filter_lt {α : Type} (m : Sp α) {k n : Nat} (h : k < n) : spGet (m.filter fun (o, _) => o < n) k = spGet m k := by
  induction m with
  | nil => rfl
  | cons x m ih =>
    obtain ⟨j, v⟩ := x
    by_cases hj : j < n
    · rw [List.filter_cons_of_pos (by simpa using hj), spGet, spGet, ih]
    · rw [List.filter_cons_of_neg (by simpa using hj), ih, spGet, if_neg (by omega)]

/-- Each byte put stands at its offset; the others are as they were. -/
theorem spGetD_putBytes {l : Nat} {bs : List Host.Cell} (h : bs.Pairwise fun x y => x.1 ≠ y.1) (ms : Sp Byte) (i : Nat) :
    spGetD 0 (putBytes l bs ms) (96 * l + i) = (spGet bs i).getD (spGetD 0 ms (96 * l + i)) := by
  induction bs generalizing ms with
  | nil => rfl
  | cons x bs ih =>
    obtain ⟨o, b⟩ := x
    obtain ⟨hx, hbs⟩ := List.pairwise_cons.1 h
    show spGetD 0 (putBytes l bs (spPut 0 ms (96 * l + o) b)) (96 * l + i) = _
    rw [ih hbs, spGet]
    by_cases hi : o = i
    · subst hi
      rw [if_pos rfl, spGet_eq_none hx, Option.getD_none, spGetD_spPut_same, Option.getD_some]
    · rw [if_neg hi, spGetD_spPut_ne _ _ _ (by omega)]

/-- Bytes put at offsets below 96 stand in their line. -/
theorem spGetD_putBytes_ne {l a : Nat} {bs : List Host.Cell} (h : ∀ x ∈ bs, x.1 < 96) (ha : a / 96 ≠ l) (ms : Sp Byte) :
    spGetD 0 (putBytes l bs ms) a = spGetD 0 ms a := by
  induction bs generalizing ms with
  | nil => rfl
  | cons x bs ih =>
    obtain ⟨o, b⟩ := x
    have ho : o < 96 := h (o, b) List.mem_cons_self
    show spGetD 0 (putBytes l bs (spPut 0 ms (96 * l + o) b)) a = _
    rw [ih (fun y hy => h y (List.mem_cons_of_mem _ hy)), spGetD_spPut_ne _ _ _ (by omega)]

/-- Bytes put into a clean line: those given, and no other line's. -/
theorem CleanLine.arrayWrite (h : CleanLine s l) (hl : l < s.part.msLines) {bs : List Host.Cell} (hb : spRising none bs = true) (pois : Bool)
    (master : Nat) :
    let u := s.arrayWrite l bs pois master
    BytesOnly s u ∧ LineOnly s u l ∧ ∀ i, i < 96 → u.byteAt (96 * l + i) = (spGet bs i).getD (s.byteAt (96 * l + i)) := by
  obtain ⟨hbytes, hms⟩ := State.arrayWrite_put h.1 hl (h.mergeRead _ master) pois (cells := bs)
  refine ⟨hbytes, fun a ha => ?_, fun i hi => ?_⟩
  · rw [State.byteAt, hms, spGetD_putBytes_ne (fun x hx => of_decide_eq_true (List.mem_filter.1 hx).2) ha]
    rfl
  · rw [State.byteAt, hms, spGetD_putBytes ((spRising_distinct hb).filter _), spGet_filter_lt bs hi]
    rfl

end

end Sys2Proof.Machine

namespace Sys2Proof.Machine

open Sys2Proof

/-! A request reaches the table of its home (R205). -/

section
variable {s : State} {l : Nat} {k : BitVec 3} {m : Msg} {net : List Msg}

theorem State.stack_modStack_ne (s : State) {n j : Nat} (f : Stack → Stack) (h : j ≠ n) : (s.modStack n f).stack j = s.stack j := by
  unfold State.stack State.modStack spGetD
  rw [spGet_spIns_ne _ _ h]

/-- A change of a controller that fences nothing. -/
theorem State.fenced_modStack (s : State) (n : Nat) {f : Stack → Stack} (hf : ∀ x, (f x).fenced = x.fenced) (l : Nat) :
    (s.modStack n f).fenced l = s.fenced l := by
  have hstack (j : Nat) : ((s.modStack n f).stack j).fenced = (s.stack j).fenced := by
    by_cases h : j = n
    · rw [h, State.stack_modStack, hf]
    · rw [State.stack_modStack_ne s f h]
  unfold State.fenced
  dsimp only
  rw [hstack]
  rfl

/-- The home acts on a request: a way that was reserved for it is so no longer (R209). -/
def State.unreserve (s : State) (m : Msg) : State :=
  s.modStack (s.sliceOf m.line) fun k => { k with resv := k.resv.filter fun x => !(x.line = m.line ∧ x.req = m.req) }

theorem State.fenced_unreserve (s : State) (m : Msg) (l : Nat) : (s.unreserve m).fenced l = s.fenced l := by
  unfold State.unreserve
  rw [State.fenced_modStack]
  exact fun _ => rfl

/-- A request that needs no entry of its own goes to the table of the idle home. -/
theorem State.homeAct_table (hl : m.line < 2 ^ 44) (ht : (s.dirOf m.line).txn = none) (hh : (s.dirOf m.line).hostFirst m = false)
    (hn : m.kind.needsEntry = false) : s.homeAct m = (s.unreserve m).homeTable m := by
  have hremote : ((s.unreserve m).dirOf m.line).remoteFirst m = false := by
    unfold Dir.remoteFirst
    rw [decide_eq_false (Nat.not_le.2 hl)]
    rfl
  have hgo : (s.unreserve m).homeGo m = (s.unreserve m).homeTable m := by
    unfold State.homeGo
    dsimp only
    rw [hremote, if_neg Bool.false_ne_true]
  unfold State.homeAct
  dsimp only
  rw [ht, hh, hn]
  simp only [Bool.and_false, Bool.false_eq_true, if_false, Option.isSome_none, false_and]
  exact hgo

/-- What the home of a line finds when an agent's request reaches its table: the state but for the message and the reserved ways. -/
structure AtTable (s t : State) (l : Nat) (r : Agent) (m : Msg) (net : List Msg) : Prop where
  state : t = { s with net := net, stks := t.stks }
  fence : t.fenced l = s.fenced l
  stored : l < s.part.msLines
  line : m.line = l
  req : m.req = r

theorem AtHome.table {ok : MK → Bool} (h : AtHome s l (.cluster k) ok m net) (hn : m.kind.needsEntry = false) :
    ∃ t, s.homeRow l (.cluster k) ok = t.homeTable m ∧ AtTable s t l (.cluster k) m net := by
  obtain ⟨hl, hm, hline, hreq, ht, hh⟩ := h
  refine ⟨State.unreserve { s with net := net } m, ?_, rfl, State.fenced_unreserve { s with net := net } m l, hl, hline, hreq⟩
  unfold State.homeRow
  rw [hm]
  subst hline
  exact State.homeAct_table (s := { s with net := net }) (hl.trans (Part.msLines_lt _)) ht hh hn

theorem AtHome.lineOk {r : Agent} {ok : MK → Bool} (h : AtHome s l r ok m net) : s.lineOk l = true := by
  unfold State.lineOk
  rw [decide_eq_true h.1]
  rfl

/-- The commands that hand a home a cluster's request. -/
theorem exec_homeRow {kind : MK} {c : Nat → Agent → Instr} (hl : s.lineOk l = true)
    (hc : (c, kind) ∈ [(Instr.wrf, MK.wrF), (.wrp, .wrP), (.clinv, .clInv), (.cln, .cln), (.evc, .evC)]) :
    exec (c l (.cluster k)) s = .next (s.homeRow l (.cluster k) fun x => x = kind) := by
  simp only [List.mem_cons, List.not_mem_nil, or_false, Prod.mk.injEq] at hc
  obtain ⟨rfl, rfl⟩ | ⟨rfl, rfl⟩ | ⟨rfl, rfl⟩ | ⟨rfl, rfl⟩ | ⟨rfl, rfl⟩ := hc
  · rw [exec_wrf, execWrf, State.onLine_ok hl]; rfl
  · rw [exec_wrp, execWrp, State.onLine_ok hl]; rfl
  · rw [exec_clinv, execClinv, State.onLine_ok hl]; rfl
  · rw [exec_cln, execCln, State.onLine_ok hl]; rfl
  · rw [exec_evc, execEvc, State.onLine_ok hl]; rfl

theorem exec_wb_homeRow (hl : s.lineOk l = true) :
    exec (.wb l (.cluster k)) s = .next (s.homeRow l (.cluster k) fun x => match x with | .wb _ => true | _ => false) := by
  rw [exec_wb, execWb, State.onLine_ok hl]
  rfl

end

end Sys2Proof.Machine

namespace Sys2Proof.Machine

open Sys2Proof

/-! Write-backs and evictions at the home (R205). -/

section
variable {s t : State} {l : Nat} {k : BitVec 3} {r : Agent} {m : Msg} {net : List Msg}

theorem AtTable.dirOf (h : AtTable s t l r m net) (j : Nat) : t.dirOf j = s.dirOf j := by
  rw [h.state]
  rfl

theorem AtTable.lt (h : AtTable s t l r m net) : l < 2 ^ 44 := h.stored.trans (Part.msLines_lt _)

theorem AtTable.part_lt (h : AtTable s t l r m net) : l < t.part.msLines := by
  rw [h.state]
  exact h.stored

/-- An answer of the home of a line to a cluster. -/
def State.homeAns (s : State) (l : Nat) (k : BitVec 3) (kind : MK) : Msg :=
  { src := s.homeNode l, dst := .ag (.cluster k), kind := kind, line := l, req := .cluster k }

theorem State.remoteBack_own (s : State) {l : Nat} (hl : l < 2 ^ 44) (w : Bool) : s.remoteBack l w = s := if_pos hl

/-- What a line's entry becomes when its owner writes the line back. -/
def Dir.writtenBack (d : Dir) : Dir :=
  if d.st = .em then { d with st := .free, owner := .none, shr := 0, grp := 0, rem := .free, rdat := none, rw := false }
  else { d with st := .s, owner := .none }

theorem State.homeTable_wb_owner {n : BitVec 2} (hk : m.kind = .wb n) (hr : m.req = .cluster k) (hl : m.line < 2 ^ 44) (hb : m.bytes = [])
    (hst : (s.dirOf m.line).st = .em ∨ (s.dirOf m.line).st = .o) (ho : (s.dirOf m.line).owns (.cluster k) = true)
    (hd : (s.arrayWrite m.line (cellsAt 0 m.data) m.pois).dirOf m.line = s.dirOf m.line) :
    s.homeTable m = ((s.arrayWrite m.line (cellsAt 0 m.data) m.pois).setDir m.line (s.dirOf m.line).writtenBack).send
      (s.homeAns m.line k .wbAck) := by
  have hwrite : s.homeWrite m.line m.data m.pois = s.arrayWrite m.line (cellsAt 0 m.data) m.pois := if_pos hl
  unfold State.homeTable
  dsimp only
  rw [hk, hr]
  dsimp only
  rw [if_pos ⟨hst, ho⟩, hb, List.isEmpty_nil, if_pos rfl, hwrite]
  simp only [State.remoteBack_own _ hl, ite_self, hd, reduceCtorEq, false_and, if_false, if_pos hl]
  unfold Dir.writtenBack
  split <;> rfl

theorem State.homeTable_wb_other {n : BitVec 2} (hk : m.kind = .wb n) (hr : m.req = .cluster k) (ho : (s.dirOf m.line).owns (.cluster k) = false) :
    s.homeTable m = s.send (s.homeAns m.line k .wbAck) := by
  unfold State.homeTable
  dsimp only
  rw [hk, hr]
  dsimp only
  rw [ho, if_neg fun h => Bool.false_ne_true h.2]
  rfl

/-- What an entry of a line and an answer leave behind a write to the line's bytes. -/
theorem AtTable.written {v : State} (h : AtTable s t l r m net) (hv : BytesOnly t v) (d : Dir) (a : Msg) :
    let u := (v.setDir l d).send a
    u = { s with net := net ++ [a], dir := u.dir, stks := u.stks, ms := u.ms, flips := u.flips, dev := u.dev } ∧
      (∀ j, j ≠ l → u.dirOf j = s.dirOf j) ∧ u.dirOf l = (v.setDir l d).dirOf l ∧ ∀ i, u.byteAt i = v.byteAt i := by
  have hother (j : Nat) (hj : j ≠ l) : (v.setDir l d).dirOf j = s.dirOf j := by
    rw [State.dirOf_setDir_ne v d hj, hv, ← h.dirOf]
    rfl
  have hbyte (i : Nat) : (v.setDir l d).byteAt i = v.byteAt i := by
    rw [State.byteAt, State.setDir_ms]
    rfl
  refine ⟨?_, hother, rfl, hbyte⟩
  rw [State.setDir_eq, hv, h.state]
  rfl

theorem AtTable.byteAt (h : AtTable s t l r m net) (i : Nat) : t.byteAt i = s.byteAt i := by
  rw [h.state]
  rfl

theorem AtTable.homeAns (h : AtTable s t l r m net) (k : BitVec 3) (kind : MK) : t.homeAns l k kind = s.homeAns l k kind := by
  rw [h.state]
  rfl

/-- The owner's write-back. -/
theorem AtTable.wb_owner {n : BitVec 2} (h : AtTable s t l (.cluster k) m net) (hk : m.kind = .wb n) (hb : m.bytes = []) (hd : m.data.length = 96)
    (hf : s.fenced l = false) (hst : (s.dirOf l).st = .em ∨ (s.dirOf l).st = .o) (ho : (s.dirOf l).owns (.cluster k) = true) :
    let u := t.homeTable m
    u = { s with net := net ++ [s.homeAns l k .wbAck], dir := u.dir, stks := u.stks, ms := u.ms, flips := u.flips, dev := u.dev } ∧
      (∀ i, i < 96 → u.byteAt (96 * l + i) = m.data.getD i 0) ∧ LineOnly s u l ∧
      (u.dirOf l).st = (if (s.dirOf l).st = .o then .s else .free) ∧ (u.dirOf l).owner = .none ∧ ∀ j, j ≠ l → u.dirOf j = s.dirOf j := by
  obtain ⟨hbytes, hother, hline⟩ := State.arrayWrite_line (h.fence.trans hf) h.part_lt hd m.pois 0x603
  have hdir : (t.arrayWrite l (cellsAt 0 m.data) m.pois).dirOf l = s.dirOf l := by
    rw [hbytes, ← h.dirOf]
    rfl
  have hu := State.homeTable_wb_owner (s := t) hk h.req (by rw [h.line]; exact h.lt) hb (by rw [h.line, h.dirOf]; exact hst)
    (by rw [h.line, h.dirOf]; exact ho) (by rw [h.line, h.dirOf]; exact hdir)
  rw [h.line, h.dirOf, h.homeAns k] at hu
  obtain ⟨hs, hdirs, hown, hbyte⟩ := h.written hbytes (s.dirOf l).writtenBack (s.homeAns l k .wbAck)
  intro u
  rw [← hu] at hs hdirs hown hbyte
  rw [State.dirOf_setDir_same] at hown
  refine ⟨hs, fun i hi => (hbyte _).trans (hline i hi), fun a ha => (hbyte a).trans ((hother a ha).trans (h.byteAt a)), ?_, ?_, hdirs⟩
  · rw [hown]
    unfold Dir.writtenBack
    obtain e | e := hst <;> simp [e]
    split <;> rfl
  · rw [hown]
    unfold Dir.writtenBack
    obtain e | e := hst <;> simp [e]
    split <;> rfl

theorem AtTable.wb_other {n : BitVec 2} (h : AtTable s t l (.cluster k) m net) (hk : m.kind = .wb n) (ho : (s.dirOf l).owns (.cluster k) = false) :
    let u := t.homeTable m
    u = { s with net := net ++ [s.homeAns l k .wbAck], stks := u.stks } := by
  have hu := State.homeTable_wb_other (s := t) hk h.req (by rw [h.line, h.dirOf]; exact ho)
  rw [h.line, h.homeAns] at hu
  intro u
  rw [show u = _ from hu, h.state]
  rfl

end

end Sys2Proof.Machine

namespace Sys2Proof.Machine

open Sys2Proof

section
variable {s t : State} {l : Nat} {k : BitVec 3} {m : Msg} {net : List Msg}

/-- What a line's entry becomes when an agent evicts its clean line. -/
def Dir.evicted (d : Dir) (r : Agent) : Dir :=
  let gone (d : Dir) : Dir := { d with st := .free, rem := .free, rdat := none, rw := false }
  match d.st with
  | .free => d
  | .s => if (d.share r false).noSharer then gone (d.share r false) else d.share r false
  | .em => if d.owns r then { gone d with owner := .none } else d
  | .o => if d.owns r then (if d.noSharer then { gone d with owner := .none } else { d with st := .s, owner := .none }) else d.share r false

theorem Dir.share_shares (d : Dir) (k : BitVec 3) : (d.share (.cluster k) false).shares (.cluster k) = false := by
  show (setBit d.shr k.toNat false).getLsbD k.toNat = false
  rw [getLsbD_setBit _ _ _ _ (by omega)]
  simp

/-- An evicting agent is no sharer of a line in S or O afterwards, unless it owned the line. -/
theorem Dir.evicted_shares (d : Dir) (k : BitVec 3) (hf : d.st ≠ .free) :
    (d.evicted (.cluster k)).shares (.cluster k) = false ∨ d.st = .em ∨ d.owns (.cluster k) = true := by
  have hs := d.share_shares k
  unfold Dir.evicted
  cases hst : d.st <;> dsimp only
  case free => exact absurd hst hf
  case em => exact .inr (.inl rfl)
  case s => exact .inl (by split <;> exact hs)
  case o =>
    cases ho : d.owns (.cluster k)
    · exact .inl hs
    · exact .inr (.inr rfl)

/-- An evicting agent owns the line no longer. -/
theorem Dir.evicted_owns (d : Dir) (k : BitVec 3) (hst : d.st = .em ∨ d.st = .o) : (d.evicted (.cluster k)).owns (.cluster k) = false := by
  unfold Dir.evicted
  obtain e | e := hst <;> rw [e] <;> dsimp only
  · split
    · rfl
    · next h => exact Bool.eq_false_of_not_eq_true h
  · split
    · split <;> rfl
    · next h => exact Bool.eq_false_of_not_eq_true h

theorem Dir.evicted_em (d : Dir) (k : BitVec 3) (hst : d.st = .em) (ho : d.owns (.cluster k) = true) : (d.evicted (.cluster k)).st = .free := by
  unfold Dir.evicted
  rw [hst, ho]
  rfl

/-- The home of a line acts on EvC: it lists the new entry where that differs, and answers. -/
theorem State.homeTable_evC (hk : m.kind = .evC) (hr : m.req = .cluster k) (hl : m.line < 2 ^ 44) :
    ∃ v, s.homeTable m = v.send (s.homeAns m.line k .evAck) ∧
      (v = s ∧ (s.dirOf m.line).evicted (.cluster k) = s.dirOf m.line ∨ v = s.setDir m.line ((s.dirOf m.line).evicted (.cluster k))) := by
  have hhost : ¬ Agent.cluster k = .host := nofun
  unfold State.homeTable
  dsimp only
  rw [hk, hr]
  dsimp only
  unfold Dir.evicted
  dsimp only
  generalize s.dirOf m.line = d
  simp only [State.remoteBack_own _ hl, if_neg hhost]
  cases d.st <;> dsimp only
  case free => exact ⟨_, rfl, .inl ⟨rfl, rfl⟩⟩
  case s => split <;> exact ⟨_, rfl, .inr rfl⟩
  case em =>
    split
    · exact ⟨_, rfl, .inr rfl⟩
    · exact ⟨_, rfl, .inl ⟨rfl, rfl⟩⟩
  case o =>
    split
    · split <;> exact ⟨_, rfl, .inr rfl⟩
    · exact ⟨_, rfl, .inr rfl⟩

/-- The entry that is read back after it was set: the one set, or the empty one. -/
theorem State.dirOf_setDir_cases (s : State) (l : Nat) (d : Dir) : (s.setDir l d).dirOf l = d ∨ (s.setDir l d).dirOf l = {} := by
  rw [State.dirOf_setDir_same]
  split
  · exact .inr rfl
  · exact .inl rfl

/-- A clean eviction. -/
theorem AtTable.evC (h : AtTable s t l (.cluster k) m net) (hk : m.kind = .evC) :
    let d := s.dirOf l
    let u := t.homeTable m
    u = { s with net := net ++ [s.homeAns l k .evAck], dir := u.dir, stks := u.stks } ∧
      (d.st ≠ .free → (u.dirOf l).shares (.cluster k) = false ∨ d.st = .em ∨ d.owns (.cluster k) = true) ∧
      (d.st = .em ∨ d.st = .o → (u.dirOf l).owns (.cluster k) = false) ∧ (d.st = .em → d.owns (.cluster k) = true → (u.dirOf l).st = .free) ∧
      ∀ j, j ≠ l → u.dirOf j = s.dirOf j := by
  obtain ⟨v, hu, hv⟩ := State.homeTable_evC (s := t) hk h.req (by rw [h.line]; exact h.lt)
  rw [h.line, h.dirOf] at hv
  rw [h.line, h.homeAns] at hu
  intro d u
  have hstate : v = { t with dir := v.dir } := by
    obtain ⟨rfl, -⟩ | rfl := hv
    · rfl
    · exact State.setDir_eq t l _
  have hother (j : Nat) (hj : j ≠ l) : v.dirOf j = s.dirOf j := by
    rw [← h.dirOf]
    obtain ⟨rfl, -⟩ | rfl := hv
    · rfl
    · exact State.dirOf_setDir_ne t _ hj
  have hdir : v.dirOf l = d.evicted (.cluster k) ∨ v.dirOf l = {} := by
    obtain ⟨rfl, he⟩ | rfl := hv
    · exact .inl ((h.dirOf l).trans he.symm)
    · exact State.dirOf_setDir_cases t l _
  have hdirs (j : Nat) : u.dirOf j = v.dirOf j := by
    rw [show u = _ from hu]
    rfl
  rw [hdirs l]
  refine ⟨?_, fun hf => ?_, fun hst => ?_, fun hst ho => ?_, fun j hj => (hdirs j).trans (hother j hj)⟩
  · rw [show u = _ from hu, hstate, h.state]
    rfl
  · obtain e | e := hdir <;> rw [e]
    · exact d.evicted_shares k hf
    · exact .inl (by simp [Dir.shares])
  · obtain e | e := hdir <;> rw [e]
    · exact d.evicted_owns k hst
    · rfl
  · obtain e | e := hdir <;> rw [e]
    exact d.evicted_em k hst ho

end

end Sys2Proof.Machine

namespace Sys2Proof.Machine

open Sys2Proof

/-! Uncached reads at the home (R205, R211). -/

section
variable {s t : State} {l : Nat} {n : BitVec 12} {m : Msg} {net : List Msg}

/-- A message sent is no matter of the directory. -/
theorem State.dirOf_send (v : State) (x : Msg) (j : Nat) : (v.send x).dirOf j = v.dirOf j := rfl

/-- The RdU that a command makes for an uncached agent. -/
def State.rduOf (s : State) (l : Nat) (n : BitVec 12) : Msg :=
  { src := .ag (.unc n), dst := s.homeNode l, kind := .rdU, line := l, req := .unc n, tag := cmdTag }

theorem exec_rdu_table (hl : l < s.part.msLines) (ht : (s.dirOf l).txn = none) (ho : (s.dirOf l).owner ≠ .host)
    (hnew : (s.net.any fun x => x.line = l ∧ x.src = .ag (.unc n) ∧ x.kind = .rdU) = false) :
    ∃ t, exec (.rdu l (.unc n)) s = .next (t.homeTable (s.rduOf l n)) ∧ AtTable s t l (.unc n) (s.rduOf l n) s.net := by
  have hok : s.lineOk l = true := by
    unfold State.lineOk
    rw [decide_eq_true hl]
    rfl
  refine ⟨s.unreserve (s.rduOf l n), ?_, rfl, State.fenced_unreserve _ _ _, hl, rfl, rfl⟩
  rw [exec_rdu, execRdu, State.onLine_ok hok]
  unfold State.reqRow
  dsimp only
  rw [hnew, if_neg Bool.false_ne_true]
  exact congrArg _ (State.homeAct_table (s := s) (m := s.rduOf l n) (hl.trans (Part.msLines_lt _)) ht (decide_eq_false ho) rfl)

/-- A directory entry has no part in how a line is read. -/
theorem CleanLine.setDir (h : CleanLine s l) (j : Nat) (d : Dir) : CleanLine (s.setDir j d) l := by
  rw [State.setDir_eq]
  exact h

/-- The home's answer to an uncached read. -/
def State.rduAns (s : State) (l : Nat) (n : BitVec 12) (tag : Nat) (d : Dir) : Msg :=
  { src := s.homeNode l, dst := .ag (.unc n), kind := .data .none, line := l, req := .unc n, data := s.msLine l, tag := tag, op := decide (d.st = .s) }

theorem State.homeTable_rdU_free (hk : m.kind = .rdU) (hr : m.req = .unc n) (hl : m.line < 2 ^ 44) (hc : CleanLine s m.line)
    (hst : (s.dirOf m.line).st = .free) : s.homeTable m = s.send (s.rduAns m.line n m.tag (s.dirOf m.line)) := by
  have hdata : s.homeData m.line m.master = (s.msLine m.line, false, s) := (if_pos hl).trans (hc.arrayRead _)
  unfold State.homeTable State.rduAns
  dsimp only
  rw [hk, hr, hst]
  simp only [reduceCtorEq, or_self, if_false, if_true, State.unopened, hdata]
  rfl

theorem State.homeTable_rdU_shared (hk : m.kind = .rdU) (hr : m.req = .unc n) (hl : m.line < 2 ^ 44) (hc : CleanLine s m.line)
    (hst : (s.dirOf m.line).st = .s) :
    s.homeTable m = (s.setDir m.line { s.dirOf m.line with opens := (s.dirOf m.line).opens + 1 }).send (s.rduAns m.line n m.tag (s.dirOf m.line)) := by
  let v := s.setDir m.line { s.dirOf m.line with opens := (s.dirOf m.line).opens + 1 }
  have hdata : v.homeData m.line m.master = (s.msLine m.line, false, v) := by
    refine (if_pos hl).trans (((hc.setDir _ _).arrayRead _).trans ?_)
    rw [State.msLine, State.setDir_ms]
    rfl
  have heq : s.homeTable m = v.send { s.rduAns m.line n m.tag (s.dirOf m.line) with op := decide ((s.dirOf m.line).st ≠ .free) && true } := by
    unfold State.homeTable
    dsimp only
    rw [hk, hr]
    dsimp only
    rw [if_neg (by simp [hst])]
    dsimp only
    rw [if_neg (by simp [hst]), hdata]
    rfl
  rw [heq]
  unfold State.rduAns
  rw [hst]
  rfl

theorem State.homeTable_rdU_owned {o : Agent} (hk : m.kind = .rdU) (hr : m.req = .unc n) (hst : (s.dirOf m.line).st = .em ∨ (s.dirOf m.line).st = .o)
    (ho : (s.dirOf m.line).owner.agent = some o) :
    s.homeTable m = (s.setDir m.line { s.dirOf m.line with opens := (s.dirOf m.line).opens + 1 }).send
      { src := s.homeNode m.line, dst := .ag o, kind := .fwdU, line := m.line, req := .unc n, tag := m.tag, op := true } := by
  have hne : ¬ o = .unc n := by
    rintro rfl
    cases h : (s.dirOf m.line).owner <;> rw [h] at ho <;> cases ho
  unfold State.homeTable
  dsimp only
  rw [hk, hr]
  dsimp only
  rw [if_pos hst, ho]
  dsimp only
  rw [if_neg hne]

end

section
variable {s t : State} {l : Nat} {n : BitVec 12} {m : Msg}

theorem AtTable.clean {r : Agent} {net : List Msg} (h : AtTable s t l r m net) (hc : CleanLine s l) : CleanLine t l := by
  refine ⟨h.fence.trans hc.1, ?_⟩
  rw [h.state]
  exact hc.2

/-- What an entry of a held line leaves, and messages. -/
theorem AtTable.listed {r : Agent} {net : List Msg} (h : AtTable s t l r m net) {d : Dir} (hd : d.st ≠ .free) (out : List Msg) :
    let u : State := { t.setDir l d with net := net ++ out }
    u = { s with stks := u.stks, dir := u.dir, net := net ++ out } ∧ (∀ j, j ≠ l → u.dirOf j = s.dirOf j) ∧ u.dirOf l = d := by
  refine ⟨?_, fun j hj => (State.dirOf_setDir_ne t d hj).trans (h.dirOf j), State.dirOf_setDir_held t l hd⟩
  rw [State.setDir_eq, h.state]

theorem AtTable.setDir_send {r : Agent} {net : List Msg} (h : AtTable s t l r m net) (d : Dir) (a : Msg) :
    (t.setDir l d).send a = { t.setDir l d with net := net ++ [a] } := by
  have hnet : (t.setDir l d).net = net := by
    rw [State.setDir_eq, h.state]
  rw [State.send, hnet]

/-- An uncached read of a line without owner. -/
theorem AtTable.rdU_read {net : List Msg} (h : AtTable s t l (.unc n) m net) (hk : m.kind = .rdU) (hc : CleanLine s l)
    (hst : (s.dirOf l).st = .free ∨ (s.dirOf l).st = .s) :
    let d := s.dirOf l
    let u := t.homeTable m
    u = { s with stks := u.stks, dir := u.dir, net := net ++ [s.rduAns l n m.tag d] } ∧
      (∀ j, j ≠ l → u.dirOf j = s.dirOf j) ∧ (u.dirOf l).st = d.st ∧ (u.dirOf l).owner = d.owner ∧
      (d.st = .s → u.dirOf l = { d with opens := d.opens + 1 }) := by
  have hl : m.line < 2 ^ 44 := by rw [h.line]; exact h.lt
  have hans : t.rduAns l n m.tag (s.dirOf l) = s.rduAns l n m.tag (s.dirOf l) := by
    rw [h.state]
    rfl
  have hclean : CleanLine t m.line := by rw [h.line]; exact h.clean hc
  intro d u
  obtain hst | hst := hst
  · have hu : u = _ := State.homeTable_rdU_free hk h.req hl hclean (by rw [h.line, h.dirOf]; exact hst)
    rw [h.line, h.dirOf, hans] at hu
    have hdir (j : Nat) : u.dirOf j = s.dirOf j := by
      rw [hu, State.dirOf_send, h.dirOf]
    refine ⟨?_, fun j _ => hdir j, by rw [hdir], by rw [hdir], fun e => ?_⟩
    · rw [hu, h.state]
      rfl
    · cases hst.symm.trans e
  · have hu : u = _ := State.homeTable_rdU_shared hk h.req hl hclean (by rw [h.line, h.dirOf]; exact hst)
    rw [h.line, h.dirOf, hans, h.setDir_send] at hu
    obtain ⟨hs, hother, hdir⟩ := h.listed (d := { d with opens := d.opens + 1 }) (by simp [d, hst]) [s.rduAns l n m.tag d]
    rw [hu]
    exact ⟨hs, hother, by rw [hdir], by rw [hdir], fun _ => hdir⟩

/-- An uncached read of an owned line. -/
theorem AtTable.rdU_owned {net : List Msg} {o : Agent} (h : AtTable s t l (.unc n) m net) (hk : m.kind = .rdU)
    (hst : (s.dirOf l).st = .em ∨ (s.dirOf l).st = .o) (ho : (s.dirOf l).owner.agent = some o) :
    let d := s.dirOf l
    let u := t.homeTable m
    u = { s with
      stks := u.stks, dir := u.dir,
      net := net ++ [{ src := s.homeNode l, dst := .ag o, kind := .fwdU, line := l, req := .unc n, tag := m.tag, op := true }] } ∧
      (∀ j, j ≠ l → u.dirOf j = s.dirOf j) ∧ u.dirOf l = { d with opens := d.opens + 1 } := by
  have hne : (s.dirOf l).st ≠ .free := by obtain e | e := hst <;> simp [e]
  have hnode : t.homeNode l = s.homeNode l := by
    rw [h.state]
    rfl
  intro d u
  have hu : u = _ := State.homeTable_rdU_owned hk h.req (by rw [h.line, h.dirOf]; exact hst) (by rw [h.line, h.dirOf]; exact ho)
  rw [h.line, h.dirOf, hnode, h.setDir_send] at hu
  rw [hu]
  exact h.listed (d := { d with opens := d.opens + 1 }) hne _

end

end Sys2Proof.Machine

namespace Sys2Proof.Machine

open Sys2Proof

/-! Writes without ownership and cleans at the home (R205, R208, R237). -/

section
variable {s t : State} {l : Nat} {k : BitVec 3} {m : Msg} {net : List Msg}

theorem State.sendInvs_eq (s : State) (l : Nat) (r : Agent) (own : Bool) (as : List Agent) :
    s.sendInvs l r own as = { s with net := s.net ++ as.map fun a => { src := s.homeNode l, dst := .ag a, kind := .inv, line := l, req := r, owner := own } } := by
  induction as generalizing s with
  | nil => rw [List.map_nil, List.append_nil]; rfl
  | cons a as ih =>
    rw [State.sendInvs, ih, List.map_cons, State.send, List.append_assoc]
    rfl

theorem State.homeNode_setDir (s : State) (j l : Nat) (d : Dir) : (s.setDir j d).homeNode l = s.homeNode l := by
  rw [State.setDir_eq]
  rfl

theorem State.setDir_send_invs (s : State) (l : Nat) (d : Dir) (x : Msg) (r : Agent) (as : List Agent) :
    ((s.setDir l d).send x).sendInvs l r false as =
      { s.setDir l d with net := s.net ++ x :: as.map fun a => { src := s.homeNode l, dst := .ag a, kind := .inv, line := l, req := r } } := by
  rw [State.sendInvs_eq, State.setDir_eq, State.send, List.append_assoc]
  rfl

/-- The entry of a line whose copies are being taken back for a request. -/
def Dir.takenBack (d : Dir) (m : Msg) (tick : Nat) : Dir :=
  { d with owner := .home, opens := d.opens + 1,
           txn := some { msg := m, acks := (d.sharers (.unc 0)).length + (if m.kind = .wrF then 1 else 0), need := decide (m.kind ≠ .wrF), tick := tick } }

theorem State.startTxn_owned {o : Agent} (ho : (s.dirOf m.line).owner.agent = some o) :
    s.startTxn m (s.dirOf m.line) (decide (m.kind ≠ .wrF)) = { s.setDir m.line ((s.dirOf m.line).takenBack m s.ticks) with
      net := s.net ++ { src := s.homeNode m.line, dst := .ag o, kind := if m.kind = .wrF then .inv else .recall, line := m.line, req := m.req,
                        owner := true } ::
        ((s.dirOf m.line).sharers (.unc 0)).map fun a => { src := s.homeNode m.line, dst := .ag a, kind := .inv, line := m.line, req := m.req } } := by
  unfold State.startTxn
  dsimp only
  rw [ho]
  dsimp only
  rw [State.setDir_send_invs, State.homeNode_setDir]
  unfold Dir.takenBack
  by_cases hk : m.kind = .wrF
  · simp only [hk, ne_eq, not_true_eq_false, decide_false, Bool.false_eq_true, if_false, if_true]
  · simp only [hk, ne_eq, not_false_eq_true, decide_true, if_false, if_true, Nat.add_zero]

theorem homeWrites_cases {kind : MK} {c : Nat → Agent → Instr} (h : (c, kind) ∈ [(Instr.wrf, MK.wrF), (.wrp, .wrP), (.clinv, .clInv)]) :
    kind = .wrF ∨ kind = .wrP ∨ kind = .clInv := by
  simp only [List.mem_cons, List.not_mem_nil, or_false, Prod.mk.injEq] at h
  obtain ⟨-, h⟩ | ⟨-, h⟩ | ⟨-, h⟩ := h
  · exact .inl h
  · exact .inr (.inl h)
  · exact .inr (.inr h)

/-- A write or ClInv of a cluster: of a line in I it is done, copies of another line are taken back first. -/
theorem State.homeTable_write (hk : m.kind = .wrF ∨ m.kind = .wrP ∨ m.kind = .clInv) (hr : m.req = .cluster k) :
    s.homeTable m = if (s.dirOf m.line).st = .free then s.txnWrite m none 0 else s.startTxn m (s.dirOf m.line) (decide (m.kind ≠ .wrF)) := by
  have hhost : ¬ (Agent.cluster k = .host ∧ (s.dirOf m.line).owner = .host) := fun h => nomatch h.1
  unfold State.homeTable
  dsimp only
  rw [hr]
  obtain hk | hk | hk := hk <;> rw [hk] <;> dsimp only <;> rw [if_neg hhost] <;> cases (s.dirOf m.line).st <;> rfl

/-- A write or ClInv of a held line. -/
theorem AtTable.takeBack {o : Agent} (h : AtTable s t l (.cluster k) m net) (hk : m.kind = .wrF ∨ m.kind = .wrP ∨ m.kind = .clInv)
    (hst : (s.dirOf l).st ≠ .free) (ho : (s.dirOf l).owner.agent = some o) :
    let u := t.homeTable m
    let out : List Msg := { src := s.homeNode l, dst := .ag o, kind := if m.kind = .wrF then .inv else .recall, line := l, req := .cluster k, owner := true } ::
      ((s.dirOf l).sharers (.unc 0)).map fun a => { src := s.homeNode l, dst := .ag a, kind := .inv, line := l, req := .cluster k }
    u = { s with stks := u.stks, dir := u.dir, net := net ++ out } ∧ (∀ j, j ≠ l → u.dirOf j = s.dirOf j) ∧
      u.dirOf l = (s.dirOf l).takenBack m s.ticks := by
  intro u out
  have hnet : t.net = net ∧ t.ticks = s.ticks ∧ t.homeNode l = s.homeNode l := by
    rw [h.state]
    exact ⟨rfl, rfl, rfl⟩
  obtain ⟨hnet, hticks, hnode⟩ := hnet
  have hu : u = _ := State.homeTable_write hk h.req
  rw [h.line, h.dirOf, if_neg hst] at hu
  have hstart := State.startTxn_owned (s := t) (m := m) (o := o) (by rw [h.line, h.dirOf]; exact ho)
  rw [h.line, h.dirOf, h.req, hnet, hticks, hnode] at hstart
  rw [hu, hstart]
  exact h.listed (d := (s.dirOf l).takenBack m s.ticks) hst out

/-- A clean of an owned line has the owner write it back. -/
theorem AtTable.clean_owned {o : Agent} (h : AtTable s t l (.cluster k) m net) (hk : m.kind = .cln) (hst : (s.dirOf l).st = .em ∨ (s.dirOf l).st = .o)
    (ho : (s.dirOf l).owner.agent = some o) :
    let d := s.dirOf l
    let u := t.homeTable m
    u = { s with
      stks := u.stks, dir := u.dir,
      net := net ++ [{ src := s.homeNode l, dst := .ag o, kind := .down, line := l, req := .cluster k, owner := true }] } ∧
      (∀ j, j ≠ l → u.dirOf j = s.dirOf j) ∧
      u.dirOf l = { d with opens := d.opens + 1, txn := some { msg := m, need := true, tick := s.ticks } } := by
  intro d u
  have hne : (s.dirOf l).st ≠ .free := by obtain e | e := hst <;> simp [e]
  have heq : t.homeTable m = (t.setDir m.line { t.dirOf m.line with
        opens := (t.dirOf m.line).opens + 1, txn := some { msg := m, need := true, tick := t.ticks } }).send
      { src := t.homeNode m.line, dst := .ag o, kind := .down, line := m.line, req := m.req, owner := true } := by
    unfold State.homeTable
    dsimp only
    rw [hk]
    dsimp only
    rw [h.line, h.dirOf, if_pos hst, ho]
  have hticks : t.ticks = s.ticks ∧ t.homeNode l = s.homeNode l := by
    rw [h.state]
    exact ⟨rfl, rfl⟩
  rw [h.line, h.dirOf, h.req, hticks.1, hticks.2, h.setDir_send] at heq
  rw [show u = _ from heq]
  exact h.listed (d := { d with opens := d.opens + 1, txn := some { msg := m, need := true, tick := s.ticks } }) hne _

end

end Sys2Proof.Machine

namespace Sys2Proof.Machine

open Sys2Proof

/-! Writes and cleans of a line that nobody holds (R205, R208, R92). -/

section
variable {s t : State} {l : Nat} {k : BitVec 3} {m : Msg} {net : List Msg}

/-- The entry of a line that nobody holds and no request works on. -/
def Dir.freed (d : Dir) : Dir :=
  { d with st := .free, owner := .none, shr := 0, grp := 0, h := false, txn := none, rem := .free, rdat := none, rw := false }

/-- The home writes the bytes of a request, which ends the reservations on the line (R92). -/
def State.wrote (s : State) (m : Msg) : State :=
  match m.kind with
  | .wrF => (s.arrayWrite m.line (cellsAt 0 m.data) m.pois m.master).killResv m.line none
  | .wrP => (s.arrayWrite m.line m.bytes m.pois m.master).killResv m.line none
  | _ => s

theorem State.txnWrite_none (hk : m.kind = .wrF ∨ m.kind = .wrP ∨ m.kind = .clInv) (hr : m.req = .cluster k) (hl : m.line < 2 ^ 44) :
    s.txnWrite m none 0 = ((s.wrote m).setDir m.line ((s.wrote m).dirOf m.line).freed).homeDone m := by
  have hmerge (bs : List Host.Cell) : s.homeMerge m.line bs m.pois m.master = s.arrayWrite m.line bs m.pois m.master := if_pos hl
  have hhost : decide (Agent.cluster k = .host) = false := rfl
  have hback (v : State) (d : Dir) (w : Bool) : (if d.rem = .free then v else v.remoteBack m.line w) = v := by
    rw [State.remoteBack_own _ hl, ite_self]
  unfold State.txnWrite State.wrote Dir.freed
  dsimp only
  rw [hr, hhost]
  obtain hk | hk | hk := hk <;> rw [hk] <;> dsimp only <;> simp only [hmerge, hback, Bool.false_and, Bool.false_eq_true, if_false, Nat.sub_zero]

/-- No reservation on a line outlives a write of it without ownership. -/
theorem State.killResv_resv (s : State) (l : Nat) (p : BitVec 6) {a : Nat} (h : ((s.killResv l none).proc p).resv = some a) : a / 96 ≠ l := by
  intro ha
  unfold State.killResv State.proc spGetD at h
  dsimp only at h
  rw [spGet_map fun x => by split <;> rfl] at h
  cases hp : spGet s.procs p.toNat with
  | none =>
    rw [hp] at h
    cases h
  | some q =>
    rw [hp] at h
    simp only [Option.map_some, Option.getD_some, Option.any_none, Bool.not_false, Bool.and_true] at h
    split at h
    · cases h
    · next hno =>
      dsimp only at h
      rw [h] at hno
      simp [ha] at hno

/-- What the bytes of a write leave: no line's but this one's, no reservation on it. -/
theorem AtTable.wrote (h : AtTable s t l (.cluster k) m net) (hf : s.fenced l = false) (hk : m.kind = .wrF ∨ m.kind = .wrP)
    (hw : m.kind = .wrF → m.data.length = 96) (hp : m.kind = .wrP → CleanLine s l ∧ spRising none m.bytes = true) :
    ∃ w : State, BytesOnly t w ∧ t.wrote m = w.killResv l none ∧ LineOnly s w l ∧
      ∀ i, i < 96 → w.byteAt (96 * l + i) = if m.kind = .wrF then m.data.getD i 0 else (spGet m.bytes i).getD (s.byteAt (96 * l + i)) := by
  obtain hk | hk := hk
  · obtain ⟨hbytes, hother, hline⟩ := State.arrayWrite_line (h.fence.trans hf) h.part_lt (hw hk) m.pois m.master
    refine ⟨_, hbytes, ?_, fun a ha => (hother a ha).trans (h.byteAt a), fun i hi => ?_⟩
    · unfold State.wrote
      rw [hk, h.line]
    · rw [if_pos hk]
      exact hline i hi
  · obtain ⟨hc, hrise⟩ := hp hk
    obtain ⟨hbytes, hother, hline⟩ := (h.clean hc).arrayWrite h.part_lt hrise m.pois m.master
    refine ⟨_, hbytes, ?_, fun a ha => (hother a ha).trans (h.byteAt a), fun i hi => ?_⟩
    · unfold State.wrote
      rw [hk, h.line]
    · rw [if_neg (by simp [hk]), ← h.byteAt]
      exact hline i hi

/-- A write that a posted line asked for is answered. -/
theorem State.homeDone_posted (hr : m.req = .cluster k) (ht : 100 ≤ m.tag) :
    s.homeDone m = s.send { s.homeAns m.line k .done with tag := m.tag } := by
  unfold State.homeDone
  rw [hr]
  dsimp only
  rw [if_neg (by omega), if_neg (by omega)]
  rfl

/-- The requesting processor counts its CMO. -/
theorem State.homeDone_counted {p : BitVec 6} (hr : m.req = .cluster k) (ht : m.tag = p.toNat + 1) :
    s.homeDone m = s.modProc p fun q => { q with cmos := q.cmos - 1 } := by
  have hp := p.isLt
  unfold State.homeDone
  rw [hr]
  dsimp only
  rw [if_neg (by omega), if_pos (by omega), ht, Nat.add_sub_cancel, BitVec.ofNat_toNat, BitVec.setWidth_eq]

/-- What an entry and an answer leave behind a write and the end of the line's reservations. -/
theorem AtTable.unreserved {w : State} (h : AtTable s t l (.cluster k) m net) (hw : BytesOnly t w) (d : Dir) (a : Msg) :
    let u := ((w.killResv l none).setDir l d).send a
    u = { s with net := net ++ [a], dir := u.dir, stks := u.stks, ms := u.ms, flips := u.flips, dev := u.dev, procs := u.procs } ∧
      (∀ j, j ≠ l → u.dirOf j = s.dirOf j) ∧ (∀ i, u.byteAt i = w.byteAt i) ∧
      ∀ p, (∀ x, (u.proc p).resv = some x → x / 96 ≠ l) ∧ (u.proc p).g = (s.proc p).g := by
  have hother (j : Nat) (hj : j ≠ l) : ((w.killResv l none).setDir l d).dirOf j = s.dirOf j := by
    rw [State.dirOf_setDir_ne _ d hj, ← h.dirOf, hw]
    rfl
  have hbyte (i : Nat) : ((w.killResv l none).setDir l d).byteAt i = w.byteAt i := by
    rw [State.byteAt, State.setDir_ms]
    rfl
  have hproc (p : BitVec 6) : ((w.killResv l none).setDir l d).proc p = (w.killResv l none).proc p := by
    rw [State.setDir_eq]
    rfl
  have hg (p : BitVec 6) : ((w.killResv l none).proc p).g = (s.proc p).g := by
    obtain ⟨r, hr⟩ := (CoresOnly.killResv w l none).proc p
    rw [hr, hw, h.state]
    rfl
  refine ⟨?_, hother, hbyte, fun p => ⟨fun x hx => State.killResv_resv w l p ?_, (congrArg Proc.g (hproc p)).trans (hg p)⟩⟩
  · have hkill : w.killResv l none = { w with procs := (w.killResv l none).procs } := rfl
    rw [State.setDir_eq, hkill, hw, h.state]
    rfl
  · exact (congrArg Proc.resv (hproc p)).symm.trans hx

/-- A write of a line that nobody holds. -/
theorem AtTable.write_free (h : AtTable s t l (.cluster k) m net) (hf : s.fenced l = false) (hk : m.kind = .wrF ∨ m.kind = .wrP)
    (hst : (s.dirOf l).st = .free) (ht : 100 ≤ m.tag) (hw : m.kind = .wrF → m.data.length = 96)
    (hp : m.kind = .wrP → CleanLine s l ∧ spRising none m.bytes = true) :
    let u := t.homeTable m
    let a : Msg := { s.homeAns l k .done with tag := m.tag }
    u = { s with net := net ++ [a], dir := u.dir, stks := u.stks, ms := u.ms, flips := u.flips, dev := u.dev, procs := u.procs } ∧
      (∀ i, i < 96 → u.byteAt (96 * l + i) = if m.kind = .wrF then m.data.getD i 0 else (spGet m.bytes i).getD (s.byteAt (96 * l + i))) ∧
      LineOnly s u l ∧ (∀ j, j ≠ l → u.dirOf j = s.dirOf j) ∧
      ∀ p, (∀ x, (u.proc p).resv = some x → x / 96 ≠ l) ∧ (u.proc p).g = (s.proc p).g := by
  have hk3 : m.kind = .wrF ∨ m.kind = .wrP ∨ m.kind = .clInv := hk.imp_right .inl
  obtain ⟨w, hbytes, hwrote, hother, hline⟩ := h.wrote hf hk hw hp
  have hnode (d : Dir) : ((w.killResv l none).setDir l d).homeAns l k .done = s.homeAns l k .done := by
    unfold State.homeAns
    rw [State.homeNode_setDir, show w.killResv l none = { w with procs := (w.killResv l none).procs } from rfl, hbytes, h.state]
    rfl
  intro u a
  have hu : u = _ := State.homeTable_write hk3 h.req
  rw [h.line, h.dirOf, if_pos hst, State.txnWrite_none hk3 h.req (by rw [h.line]; exact h.lt), h.line, hwrote, State.homeDone_posted h.req ht, h.line, hnode] at hu
  obtain ⟨hs, hdirs, hbyte, hprocs⟩ := h.unreserved hbytes ((w.killResv l none).dirOf l).freed a
  rw [hu]
  exact ⟨hs, fun i hi => (hbyte _).trans (hline i hi), fun x hx => (hbyte x).trans (hother x hx), hdirs, hprocs⟩

/-- What the end of a counted CMO leaves behind a change of the line's entry. -/
theorem AtTable.counted {v : State} (h : AtTable s t l (.cluster k) m net) (hv : v = { t with dir := v.dir }) (p : BitVec 6) :
    let u := v.modProc p fun q => { q with cmos := q.cmos - 1 }
    u = { s with net := net, stks := u.stks, procs := u.procs, dir := u.dir } ∧ (u.proc p).cmos = (s.proc p).cmos - 1 ∧
      (u.proc p).g = (s.proc p).g ∧ ∀ q, q ≠ p → u.proc q = s.proc q := by
  have hproc (q : BitVec 6) : v.proc q = s.proc q := by
    rw [hv, h.state]
    rfl
  refine ⟨?_, ?_, ?_, fun q hq => (State.proc_modProc_ne v _ hq).trans (hproc q)⟩
  · rw [hv, h.state]
    rfl
  · rw [State.proc_modProc, ← hproc]
  · rw [State.proc_modProc, ← hproc]

/-- A clean of a line that nobody holds ends the counted CMO. -/
theorem AtTable.clean_free {p : BitVec 6} (h : AtTable s t l (.cluster k) m net) (hk : m.kind = .cln ∨ m.kind = .clInv)
    (hst : (s.dirOf l).st = .free) (ht : m.tag = p.toNat + 1) :
    let u := t.homeTable m
    u = { s with net := net, stks := u.stks, procs := u.procs, dir := u.dir } ∧ (u.proc p).cmos = (s.proc p).cmos - 1 ∧
      (u.proc p).g = (s.proc p).g ∧ (∀ q, q ≠ p → u.proc q = s.proc q) ∧ (∀ j, j ≠ l → u.dirOf j = s.dirOf j) ∧ (u.dirOf l).st = .free := by
  have hv : ∃ v : State, t.homeTable m = v.homeDone m ∧ v = { t with dir := v.dir } ∧ (∀ j, j ≠ l → v.dirOf j = s.dirOf j) ∧ (v.dirOf l).st = .free := by
    obtain hk | hk := hk
    · refine ⟨t, ?_, rfl, fun j _ => h.dirOf j, by rw [h.dirOf]; exact hst⟩
      unfold State.homeTable
      dsimp only
      rw [hk]
      dsimp only
      rw [h.line, h.dirOf, if_neg (by simp [hst])]
    · have hu := State.homeTable_write (s := t) (.inr (.inr hk)) h.req
      rw [h.line, h.dirOf, if_pos hst, State.txnWrite_none (.inr (.inr hk)) h.req (by rw [h.line]; exact h.lt), h.line] at hu
      have hwrote : t.wrote m = t := by
        unfold State.wrote
        rw [hk]
      rw [hwrote] at hu
      refine ⟨_, hu, State.setDir_eq t l _, fun j hj => (State.dirOf_setDir_ne t _ hj).trans (h.dirOf j), ?_⟩
      obtain e | e := State.dirOf_setDir_cases t l (t.dirOf l).freed <;> rw [e]
      rfl
  obtain ⟨v, hu, hs, hdirs, hfree⟩ := hv
  rw [State.homeDone_counted h.req ht] at hu
  obtain ⟨hstate, hcmos, hg, hprocs⟩ := h.counted hs p
  intro u
  rw [show u = _ from hu]
  exact ⟨hstate, hcmos, hg, hprocs, hdirs, hfree⟩

end

end Sys2Proof.Machine

namespace Sys2Proof.Machine

open Sys2Proof

/-- Settles O25: each command hands the request to the table of the line's idle home (`AtHome.table`, `exec_rdu_table`), whose rows are the
lemmas of `AtTable`. -/
theorem homeWritesAndEvictions : Obligations.HomeWritesAndEvictions := by
  unfold Obligations.HomeWritesAndEvictions
  intro s l k m net hf r d h ack at_ others invs
  refine ⟨fun hat hk hb hd => ⟨fun hst ho => ?_, fun ho => ?_⟩, fun hat hk => ?_, fun n hl hc ht ho hnew => ⟨fun hst => ?_, fun o hst hown => ?_⟩,
    fun kind c hc hat hk hst htag hw hp => ?_, fun kind c hc hat hk o hst ho => ?_, fun hat hk o hst ho => ?_, fun kind c hc hat hk p htag hst => ?_⟩
  · obtain ⟨n, hk⟩ := hk
    obtain ⟨t, hrow, htab⟩ := hat.table (by rw [hk]; rfl)
    rw [(exec_wb_homeRow hat.lineOk).trans (congrArg Host.Outcome.next hrow)]
    exact ⟨_, rfl, htab.wb_owner hk hb hd hf hst ho⟩
  · obtain ⟨n, hk⟩ := hk
    obtain ⟨t, hrow, htab⟩ := hat.table (by rw [hk]; rfl)
    rw [(exec_wb_homeRow hat.lineOk).trans (congrArg Host.Outcome.next hrow)]
    exact ⟨_, rfl, htab.wb_other hk ho⟩
  · obtain ⟨t, hrow, htab⟩ := hat.table (by rw [hk]; rfl)
    rw [exec_homeRow (kind := .evC) hat.lineOk (by simp), hrow]
    exact ⟨_, rfl, htab.evC hk⟩
  · obtain ⟨t, hrow, htab⟩ := exec_rdu_table hl ht ho hnew
    rw [hrow]
    exact ⟨_, rfl, htab.rdU_read rfl hc hst⟩
  · obtain ⟨t, hrow, htab⟩ := exec_rdu_table hl ht ho hnew
    rw [hrow]
    exact ⟨_, rfl, htab.rdU_owned rfl hst hown⟩
  · subst hk
    have hkind : m.kind = .wrF ∨ m.kind = .wrP := by
      simp only [List.mem_cons, List.not_mem_nil, or_false, Prod.mk.injEq] at hc
      exact hc.imp And.right And.right
    obtain ⟨t, hrow, htab⟩ := hat.table (by obtain e | e := hkind <;> rw [e] <;> rfl)
    rw [exec_homeRow hat.lineOk (List.mem_of_mem_take (i := 2) hc), hrow]
    obtain ⟨hs, hbytes, hline, hdirs, hprocs⟩ := htab.write_free hf hkind hst htag hw hp
    have hnet := congrArg State.net hs
    exact ⟨_, rfl, hnet, by rw [hnet]; exact hs, hbytes, hline, hdirs, fun q => (hprocs q).1, fun q => (hprocs q).2⟩
  · subst hk
    obtain ⟨t, hrow, htab⟩ := hat.table (by obtain e | e | e := homeWrites_cases hc <;> rw [e] <;> rfl)
    rw [exec_homeRow hat.lineOk (List.mem_of_mem_take (i := 3) hc), hrow]
    obtain ⟨hs, hdirs, hdir⟩ := htab.takeBack (homeWrites_cases hc) hst ho
    have hnet := congrArg State.net hs
    refine ⟨_, rfl, by rw [hnet]; exact hs, hnet, by rw [hdir]; rfl, by rw [hdir]; rfl, hdirs, ?_⟩
    rw [hdir, Dir.takenBack, List.length_map]
  · obtain ⟨t, hrow, htab⟩ := hat.table (by rw [hk]; rfl)
    rw [exec_homeRow (kind := .cln) hat.lineOk (by simp), hrow]
    obtain ⟨hs, hdirs, hdir⟩ := htab.clean_owned hk hst ho
    exact ⟨_, rfl, hs, hdir, hdirs⟩
  · subst hk
    have hkind : m.kind = .cln ∨ m.kind = .clInv := by
      simp only [List.mem_cons, List.not_mem_nil, or_false, Prod.mk.injEq] at hc
      exact hc.imp And.right And.right
    have hmem : (c, m.kind) ∈ [(Instr.wrf, MK.wrF), (.wrp, .wrP), (.clinv, .clInv), (.cln, .cln), (.evc, .evC)] := by
      simp only [List.mem_cons, List.not_mem_nil, or_false] at hc ⊢
      exact .inr (.inr (hc.elim (fun e => .inr (.inl e)) .inl))
    obtain ⟨t, hrow, htab⟩ := hat.table (by obtain e | e := hkind <;> rw [e] <;> rfl)
    rw [exec_homeRow hat.lineOk hmem, hrow]
    exact ⟨_, rfl, htab.clean_free hkind hst htag⟩

end Sys2Proof.Machine

namespace Sys2Proof.Machine

open Sys2Proof

/-! Coherence messages are taken in the order of their numbers (R454). -/

section
variable {s : State} {m : FMsg} {i : Nat}

/-- A message of a remote node as it is delivered here. -/
def State.arrived (s : State) (typ : BitVec 6) (m : RMsg) : FMsg :=
  { typ := typ, dst := s.node, src := m.src, tag := m.tag, status := m.status, pois := m.pois, words := m.words }

theorem exec_coh {c : RMsg → Instr} {typ : BitVec 6} (hp : s.phase = .run) (hc : (c, typ) ∈ [(Instr.crq, 8), (.crs, 9)]) (m : RMsg) :
    exec (c m) s = .next (s.cohAt (s.arrived typ m)) := by
  simp only [List.mem_cons, List.not_mem_nil, or_false, Prod.mk.injEq] at hc
  obtain ⟨rfl, rfl⟩ | ⟨rfl, rfl⟩ := hc
  · rw [exec_crq, execCrq, State.fabRow, if_pos hp]
    rfl
  · rw [exec_crs, execCrs, State.fabRow, if_pos hp]
    rfl

/-- A message in its turn is taken, and nothing else waits. -/
theorem State.cohAt_turn (hl : s.listed m.src = some i) (hh : s.cheld = []) (ht : cseqOf m = spGetD 0 s.cseqRx m.src.toNat) :
    s.cohAt m = State.cohTake { s with cseqRx := spPut 0 s.cseqRx m.src.toNat ((cseqOf m + 1) % 65536) } m (BitVec.ofNat 4 i) := by
  have hfind : [m].find? (fun x => x.src = m.src ∧ cseqOf x = spGetD 0 s.cseqRx m.src.toNat) = some m :=
    List.find?_cons_of_pos (decide_eq_true ⟨rfl, ht⟩)
  unfold State.cohAt
  rw [hl]
  dsimp only
  rw [hh, List.nil_append, List.length_singleton, State.cohNext]
  dsimp only
  rw [hfind]
  dsimp only
  rw [State.cohNext, List.erase_cons_head, ← ht, ← hh]

/-- A message ahead of its turn is held back. -/
theorem State.cohAt_early (hl : s.listed m.src = some i) (hh : s.cheld = []) (ht : cseqOf m ≠ spGetD 0 s.cseqRx m.src.toNat) :
    s.cohAt m = { s with cheld := [m] } := by
  have hfind : [m].find? (fun x => x.src = m.src ∧ cseqOf x = spGetD 0 s.cseqRx m.src.toNat) = none := by
    rw [List.find?_cons_of_neg (by simp [ht]), List.find?_nil]
  unfold State.cohAt
  rw [hl]
  dsimp only
  rw [hh, List.nil_append, List.length_singleton, State.cohNext]
  dsimp only
  rw [hfind]

theorem State.cohTake_crq (s : State) (i : BitVec 4) (h : m.typ = 8) : s.cohTake m i = s.crqTake m i := if_pos h

theorem State.cohTake_crs (s : State) (i : BitVec 4) (h : m.typ = 9) : s.cohTake m i = s.crsTake m i := if_neg (by rw [h]; decide)

/-- A message of a node outside the group is recorded and discarded. -/
theorem State.cohAt_stranger (hl : s.listed m.src = none) : EventOnly s (s.cohAt m) := by
  unfold State.cohAt
  rw [hl]
  exact EventOnly.event s _

end

/-! A member's request at this home, and the answers to it (R449, R454). -/

section
variable {s : State} {m : FMsg} {i : BitVec 4}

/-- A coherence response leaves for a node: its kind, its status, its address and its code. -/
theorem State.coh_response (s : State) (node : BitVec 14) (code a acks : Nat) (d : List Byte) (pois : Bool) (status : BitVec 8) :
    ∃ f tx, s.coh node false code a acks d pois status = { s with fabq := s.fabq ++ [f], cseqTx := tx } ∧ f.m.typ = 9 ∧ f.m.dst = node ∧
      f.m.status = status ∧ f.m.pois = pois ∧ f.m.words.getD 0 0 = BitVec.ofNat 48 a ∧ fld (f.m.words.getD 1 0) 3 0 = code % 16 := by
  refine ⟨_, _, rfl, rfl, rfl, rfl, rfl, rfl, ?_⟩
  show fld (BitVec.ofNat 48 (code % 16 + fld (s.rg (aMs 0xC000)) 3 0 * 16 + acks % 64 * 256 + spGetD 0 s.cseqTx node.toNat * 2 ^ 32)) 3 0 = code % 16
  generalize fld (s.rg (aMs 0xC000)) 3 0 = x
  generalize spGetD 0 s.cseqTx node.toNat = q
  rw [fld, BitVec.toNat_ofNat, Nat.shiftRight_zero]
  omega

/-- What a member's RdS that nobody refuses puts before its line's home. -/
def State.memberRdS (s : State) (m : FMsg) (i : BitVec 4) : Msg :=
  let l := (m.words.getD 0 0).toNat / 96
  { src := .ag (.member i), dst := s.homeNode l, kind := .rdS, line := l, req := .member i, data := cohData m, pois := m.pois,
    sticky := decide (fld (m.words.getD 1 0) 13 8 = 1) }

theorem State.crqTake_rdS (hc : fld (m.words.getD 1 0) 3 0 = 0) (haway : s.away = false) (hl : (m.words.getD 0 0).toNat / 96 < s.part.msLines)
    (hx : s.exported m.src ((m.words.getD 0 0).toNat / 96) .r = true) : s.crqTake m i = s.send (s.memberRdS m i) := by
  unfold State.crqTake
  dsimp only
  rw [hc]
  simp only [true_or, if_true]
  rw [haway, hx, decide_eq_false (Nat.not_le.2 hl)]
  rfl

/-- The answer that refuses a member's RdS, which opens nothing at its home (R208). -/
def State.noRdS (s : State) (m : FMsg) (i : BitVec 4) (status : BitVec 8) : State :=
  (s.unopened ((m.words.getD 0 0).toNat / 96) (.member i)).coh m.src false 5 (m.words.getD 0 0).toNat 0 (List.replicate 96 0) true status

theorem State.noRdS_spec (s : State) (m : FMsg) (i : BitVec 4) (status : BitVec 8) :
    ∃ f tx, s.noRdS m i status = { s with
        fabq := s.fabq ++ [f], cseqTx := tx, noCmp := s.noCmp ++ [((m.words.getD 0 0).toNat / 96, i)] } ∧
      f.m.typ = 9 ∧ f.m.dst = m.src ∧ f.m.status = status ∧ f.m.pois = true ∧ f.m.words.getD 0 0 = m.words.getD 0 0 := by
  obtain ⟨f, tx, hcoh, htyp, hdst, hstatus, hpois, hword, -⟩ := State.coh_response
    (s.unopened ((m.words.getD 0 0).toNat / 96) (.member i)) m.src 5 (m.words.getD 0 0).toNat 0 (List.replicate 96 0) true status
  rw [BitVec.ofNat_toNat, BitVec.setWidth_eq] at hword
  exact ⟨f, tx, hcoh, htyp, hdst, hstatus, hpois, hword⟩

theorem EventOnly.refused (s : State) (m : FMsg) (a : Nat) : EventOnly s (s.refused m a) := EventOnly.event s _

/-- The answer, and the record that goes with it (R449). -/
theorem State.noRdS_refused (s : State) (m : FMsg) (i : BitVec 4) (status : BitVec 8) (a : Nat) :
    let u := (s.noRdS m i status).refused m a
    ∃ f, EventOnly { s with fabq := s.fabq ++ [f], cseqTx := u.cseqTx, noCmp := s.noCmp ++ [((m.words.getD 0 0).toNat / 96, i)] } u ∧
      f.m.typ = 9 ∧ f.m.dst = m.src ∧ f.m.status = status ∧ f.m.pois = true ∧ f.m.words.getD 0 0 = m.words.getD 0 0 := by
  obtain ⟨f, tx, hans, hf⟩ := State.noRdS_spec s m i status
  have hev := EventOnly.refused (s.noRdS m i status) m a
  generalize s.noRdS m i status = v at hans hev ⊢
  have hcseq : (v.refused m a).cseqTx = tx := by
    rw [hev, hans]
  intro u
  refine ⟨f, ?_, hf⟩
  rw [hcseq, ← hans]
  exact hev

theorem State.crqTake_refused (hc : fld (m.words.getD 1 0) 3 0 = 0) (haway : s.away = false)
    (h : s.part.msLines ≤ (m.words.getD 0 0).toNat / 96 ∨ s.exported m.src ((m.words.getD 0 0).toNat / 96) .r = false) :
    s.crqTake m i = (s.noRdS m i 7).refused m (m.words.getD 0 0).toNat := by
  have hno : (decide (s.part.msLines ≤ (m.words.getD 0 0).toNat / 96) || !s.exported m.src ((m.words.getD 0 0).toNat / 96) .r) = true := by
    rw [Bool.or_eq_true, decide_eq_true_eq, Bool.not_eq_true']
    exact h
  unfold State.crqTake
  dsimp only
  rw [hc]
  simp only [true_or, if_true]
  rw [haway, hno]
  rfl

theorem State.crqTake_away (hc : fld (m.words.getD 1 0) 3 0 = 0) (haway : s.away = true) : s.crqTake m i = s.noRdS m i 8 := by
  unfold State.crqTake
  dsimp only
  rw [hc, haway]
  rfl

/-- A completion message of a member reaches the home of its line. -/
theorem State.crsTake_cmp (hc : fld (m.words.getD 1 0) 3 0 = 10) :
    let l := (m.words.getD 0 0).toNat / 96
    s.crsTake m i = s.send { src := .ag (.member i), dst := s.homeNode l, kind := .cmp, line := l, req := .member i } := by
  unfold State.crsTake
  dsimp only
  rw [hc]
  rfl

end

end Sys2Proof.Machine

namespace Sys2Proof.Machine

open Sys2Proof

/-! The module gives a member's line up to its home's order (R205, R217). -/

/-- Between `s` and `u` only the caches and what the processors wait for differ. -/
structure CachesOnly (s u : State) : Prop where
  state : u = { s with clus := u.clus, cores := u.cores, procs := u.procs }
  regs : ∀ p, (u.proc p).g = (s.proc p).g

namespace CachesOnly

theorem refl (s : State) : CachesOnly s s := ⟨rfl, fun _ => rfl⟩

theorem trans {s t u : State} (h : CachesOnly s t) (g : CachesOnly t u) : CachesOnly s u where
  state := by rw [g.state, h.state]
  regs p := (g.regs p).trans (h.regs p)

theorem of_line {s u : State} {k l : Nat} (h : OneLine s u k l) : CachesOnly s u := ⟨h.state, fun p => (h.regs p).1⟩

theorem foldl {α : Type} (f : State → α → State) (h : ∀ s a, CachesOnly s (f s a)) (xs : List α) (s : State) : CachesOnly s (xs.foldl f s) := by
  induction xs generalizing s with
  | nil => exact refl s
  | cons x xs ih => exact (h s x).trans (ih _)

end CachesOnly

section
variable {s : State} {m : FMsg} {l : Nat}

/-- The module's copies go, then the line's entry holds nothing. -/
theorem State.remDrop_spec (s : State) (l : Nat) : ∃ v d, CachesOnly s v ∧ s.remDrop l = v.setDir l d ∧ d.rem = .free ∧ d.owner = .none ∧ d.rdat = none := by
  refine ⟨_, _, CachesOnly.foldl _ (fun v k => ?_) (List.range 8) s, rfl, rfl, rfl, rfl⟩
  split
  · exact .refl v
  · next c hc =>
    split
    · exact .of_line (v.giveUp_spec k l).1
    · exact .of_line (v.giveUp_spec k l).1
    · exact .of_line (v.giveUp_spec k l).1
    · exact .of_line (v.giveUp_spec k l).1
    · exact .of_line (v.dropCopies_setLine_spec k l _).1
    · exact .of_line (v.dropCopies_setLine_spec k l _).1
    · exact .of_line (.setLine v k l _)
    · exact .refl v

/-- What stands after the copies of a member's line went. -/
theorem State.remDrop_frame (s : State) (l : Nat) :
    let u := s.remDrop l
    u.fabq = s.fabq ∧ u.ms = s.ms ∧ u.fwdIn = s.fwdIn ∧ (∀ p, (u.proc p).g = (s.proc p).g) ∧
      (u.dirOf l).rem = .free ∧ (u.dirOf l).owner = .none ∧ (u.dirOf l).rdat = none := by
  obtain ⟨v, d, hv, hu, hrem, hown, hdat⟩ := State.remDrop_spec s l
  intro u
  have hframe : u = { v with dir := (v.setDir l d).dir } := hu.trans (State.setDir_eq v l d)
  refine ⟨?_, ?_, ?_, fun p => ?_, ?_⟩
  · rw [hframe, hv.state]
  · rw [hframe, hv.state]
  · rw [hframe, hv.state]
  · rw [hframe]
    exact hv.regs p
  · rw [show u = _ from hu]
    obtain e | e := State.dirOf_setDir_cases v l d <;> rw [e]
    · exact ⟨hrem, hown, hdat⟩
    · exact ⟨rfl, rfl, rfl⟩

/-- A line is given up with an answer to its home. -/
theorem State.coh_remDrop (s : State) (node : BitVec 14) (l : Nat) :
    let u := (s.coh node false 9 (96 * (l % 2 ^ 44)) 0 [] false 0).remDrop l
    ∃ f, u.fabq = s.fabq ++ [f] ∧ f.m.typ = 9 ∧ f.m.dst = node ∧ fld (f.m.words.getD 1 0) 3 0 = 9 ∧
      (u.dirOf l).rem = .free ∧ (u.dirOf l).owner = .none ∧ (u.dirOf l).rdat = none ∧ u.ms = s.ms ∧ u.fwdIn = s.fwdIn ∧
      ∀ p, (u.proc p).g = (s.proc p).g := by
  obtain ⟨f, tx, hcoh, htyp, hdst, -, -, -, hcode⟩ := State.coh_response s node 9 (96 * (l % 2 ^ 44)) 0 [] false 0
  generalize s.coh node false 9 (96 * (l % 2 ^ 44)) 0 [] false 0 = v at hcoh ⊢
  obtain ⟨hfab, hms, hin, hg, hrem, hown, hdat⟩ := State.remDrop_frame v l
  refine ⟨f, hfab.trans ?_, htyp, hdst, hcode, hrem, hown, hdat, hms.trans ?_, hin.trans ?_, fun p => (hg p).trans ?_⟩ <;> rw [hcoh]
  rfl

/-- The order of the remote home to give a line up, as it waits here. -/
def State.invOrder (s : State) (i : BitVec 4) (l : Nat) : Msg :=
  { src := .ag (.member i), dst := s.homeNode l, kind := .inv, line := l, req := .member i }

/-- An order for a quiet line is obeyed at once, where none waits before it. -/
theorem State.fwdInGo_quiet {o : Msg} (hf : s.fwdIn = []) (hq : s.remQuiet o.line = true) :
    State.fwdInGo { s with fwdIn := [o] } = s.remObey o := by
  have hs : ({ s with fwdIn := [] } : State) = s := by rw [← hf]
  have hq' : State.remQuiet { s with fwdIn := [o] } o.line = true := hq
  unfold State.fwdInGo
  rw [List.foldl_cons, List.foldl_nil, hq', if_pos rfl, List.erase_cons_head]
  exact congrArg (State.remObey · o) hs

/-- The order to give a line up is answered and obeyed. -/
theorem State.crsTake_inv {i : BitVec 4} (hc : fld (m.words.getD 1 0) 3 0 = 3) (hf : s.fwdIn = [])
    (hq : s.remQuiet ((i.toNat + 1) * 2 ^ 44 + (m.words.getD 0 0).toNat / 96) = true) :
    let l := (i.toNat + 1) * 2 ^ 44 + (m.words.getD 0 0).toNat / 96
    s.crsTake m i = (s.coh (s.memNode (l / 2 ^ 44 - 1)) false 9 (96 * (l % 2 ^ 44)) 0 [] false 0).remDrop l := by
  intro l
  have htake : s.crsTake m i = State.fwdInGo { s with fwdIn := s.fwdIn ++ [s.invOrder i l] } := by
    unfold State.crsTake
    dsimp only
    rw [hc]
    rfl
  rw [htake, hf, List.nil_append, State.fwdInGo_quiet hf hq]
  rfl

/-- A listed node's place in the group names it. -/
theorem State.memNode_listed {n : BitVec 14} {i : Nat} (h : s.listed n = some i) : s.memNode i = n := by
  have := List.find?_some h
  rw [Bool.and_eq_true, decide_eq_true_eq] at this
  exact this.2

end

end Sys2Proof.Machine

namespace Sys2Proof.Machine

open Sys2Proof

section
variable {s : State} {m : RMsg} {i : Nat}

/-- The state in which a message in its turn is taken. -/
def State.counted (s : State) (m : RMsg) : State :=
  { s with cseqRx := spPut 0 s.cseqRx m.src.toNat ((fld (m.words.getD 1 0) 47 32 + 1) % 65536) }

/-- A coherence message of a listed node is in its turn, and none waits. -/
structure InTurn (s : State) (m : RMsg) (i : Nat) : Prop where
  run : s.phase = .run
  held : s.cheld = []
  listed : s.listed m.src = some i
  turn : fld (m.words.getD 1 0) 47 32 = spGetD 0 s.cseqRx m.src.toNat

theorem InTurn.crq (h : InTurn s m i) : exec (.crq m) s = .next ((s.counted m).crqTake (s.arrived 8 m) (BitVec.ofNat 4 i)) := by
  rw [exec_coh h.run (typ := 8) (by simp), State.cohAt_turn (m := s.arrived 8 m) h.listed h.held h.turn]
  exact congrArg _ (State.cohTake_crq (s.counted m) _ rfl)

theorem InTurn.crs (h : InTurn s m i) : exec (.crs m) s = .next ((s.counted m).crsTake (s.arrived 9 m) (BitVec.ofNat 4 i)) := by
  rw [exec_coh h.run (typ := 9) (by simp), State.cohAt_turn (m := s.arrived 9 m) h.listed h.held h.turn]
  exact congrArg _ (State.cohTake_crs (s.counted m) _ rfl)

/-- A request that the windows refuse is answered with status 7 and recorded (R449). -/
theorem InTurn.refused (h : InTurn s m i) (hc : fld (m.words.getD 1 0) 3 0 = 0) (haway : s.away = false)
    (hno : s.part.msLines ≤ (m.words.getD 0 0).toNat / 96 ∨ s.exported m.src ((m.words.getD 0 0).toNat / 96) .r = false) :
    ∃ u f, exec (.crq m) s = .next u ∧
      EventOnly { s.counted m with
        fabq := s.fabq ++ [f], cseqTx := u.cseqTx, noCmp := s.noCmp ++ [((m.words.getD 0 0).toNat / 96, BitVec.ofNat 4 i)] } u ∧
      f.m.typ = 9 ∧ f.m.dst = m.src ∧ f.m.status = 7 ∧ f.m.pois = true ∧ f.m.words.getD 0 0 = m.words.getD 0 0 := by
  have htake := State.crqTake_refused (s := s.counted m) (m := s.arrived 8 m) (i := BitVec.ofNat 4 i) hc haway hno
  obtain ⟨f, hev, hf⟩ := State.noRdS_refused (s.counted m) (s.arrived 8 m) (BitVec.ofNat 4 i) 7 (m.words.getD 0 0).toNat
  exact ⟨_, f, h.crq.trans (congrArg _ htake), hev, hf⟩

/-- A leaving module refuses with status 8 (R449). -/
theorem InTurn.away (h : InTurn s m i) (hc : fld (m.words.getD 1 0) 3 0 = 0) (haway : s.away = true) :
    ∃ u f, exec (.crq m) s = .next u ∧
      u = { s.counted m with
        fabq := s.fabq ++ [f], cseqTx := u.cseqTx, noCmp := s.noCmp ++ [((m.words.getD 0 0).toNat / 96, BitVec.ofNat 4 i)] } ∧
      f.m.typ = 9 ∧ f.m.dst = m.src ∧ f.m.status = 8 := by
  have htake := State.crqTake_away (s := s.counted m) (m := s.arrived 8 m) (i := BitVec.ofNat 4 i) hc haway
  obtain ⟨f, tx, hans, htyp, hdst, hstatus, -, -⟩ := State.noRdS_spec (s.counted m) (s.arrived 8 m) (BitVec.ofNat 4 i) 8
  rw [hans] at htake
  exact ⟨_, f, h.crq.trans (congrArg _ htake), rfl, htyp, hdst, hstatus⟩

/-- An order to give a line up is answered and obeyed (R205, R217). -/
theorem InTurn.gaveUp (h : InTurn s m i) (hi : i < 16) (hc : fld (m.words.getD 1 0) 3 0 = 3) (hf : s.fwdIn = [])
    (hq : s.remQuiet ((i + 1) * 2 ^ 44 + (m.words.getD 0 0).toNat / 96) = true) :
    let key := (i + 1) * 2 ^ 44 + (m.words.getD 0 0).toNat / 96
    ∃ u f, exec (.crs m) s = .next u ∧ u.fabq = s.fabq ++ [f] ∧ f.m.typ = 9 ∧ f.m.dst = m.src ∧ fld (f.m.words.getD 1 0) 3 0 = 9 ∧
      (u.dirOf key).rem = .free ∧ (u.dirOf key).owner = .none ∧ (u.dirOf key).rdat = none ∧ u.ms = s.ms ∧ u.fwdIn = [] ∧
      ∀ p, (u.proc p).g = (s.proc p).g := by
  intro key
  have hto : (BitVec.ofNat 4 i).toNat = i := by
    rw [BitVec.toNat_ofNat]
    omega
  have hkey : key / 2 ^ 44 - 1 = i := by
    have := (m.words.getD 0 0).isLt
    omega
  have htake := State.crsTake_inv (s := s.counted m) (m := s.arrived 9 m) (i := BitVec.ofNat 4 i) hc hf (by rw [hto]; exact hq)
  have hnode : (s.counted m).memNode (key / 2 ^ 44 - 1) = m.src := by
    rw [hkey]
    exact State.memNode_listed (s := s.counted m) h.listed
  rw [hto] at htake
  obtain ⟨f, hfab, htyp, hdst, hcode, hrem, hown, hdat, hms, hin, hg⟩ := State.coh_remDrop (s.counted m) ((s.counted m).memNode (key / 2 ^ 44 - 1)) key
  exact ⟨_, f, h.crs.trans (congrArg _ htake), hfab, htyp, hdst.trans hnode, hcode, hrem, hown, hdat, hms, hin.trans hf, hg⟩

theorem cohCommand_typ {c : RMsg → Instr} (hc : c ∈ [Instr.crq, .crs]) : ∃ typ, (c, typ) ∈ [(Instr.crq, (8 : BitVec 6)), (.crs, 9)] := by
  simp only [List.mem_cons, List.not_mem_nil, or_false] at hc
  obtain rfl | rfl := hc
  · exact ⟨8, by simp⟩
  · exact ⟨9, by simp⟩

/-- A message ahead of its turn is held back. -/
theorem exec_coh_early {c : RMsg → Instr} (hc : c ∈ [Instr.crq, .crs]) (hp : s.phase = .run) (hh : s.cheld = []) (hl : s.listed m.src = some i)
    (ht : fld (m.words.getD 1 0) 47 32 ≠ spGetD 0 s.cseqRx m.src.toNat) :
    ∃ u x, exec (c m) s = .next u ∧ u = { s with cheld := [x] } ∧ x.src = m.src ∧ x.words = m.words := by
  obtain ⟨typ, htyp⟩ := cohCommand_typ hc
  rw [exec_coh hp htyp, State.cohAt_early (m := s.arrived typ m) hl hh ht]
  exact ⟨_, _, rfl, rfl, rfl, rfl⟩

/-- A message from a node outside the group is discarded. -/
theorem exec_coh_stranger {c : RMsg → Instr} (hc : c ∈ [Instr.crq, .crs]) (hp : s.phase = .run) (hl : s.listed m.src = none) :
    ∃ u, exec (c m) s = .next u ∧ EventOnly s u := by
  obtain ⟨typ, htyp⟩ := cohCommand_typ hc
  rw [exec_coh hp htyp]
  exact ⟨_, rfl, State.cohAt_stranger (m := s.arrived typ m) hl⟩

end

/-- Settles O52: a message in its turn is taken (`InTurn.crq`, `InTurn.crs`) and has the effect that `State.crqTake` and `State.crsTake` give
its code; one ahead of its turn waits (`exec_coh_early`), one of a stranger is discarded (`exec_coh_stranger`). -/
theorem coherenceOverTheFabric : Obligations.CoherenceOverTheFabric := by
  unfold Obligations.CoherenceOverTheFabric
  intro s m i hp hh hi hl a w1 key inTurn t
  have turn (ht : inTurn) : InTurn s m i := ⟨hp, hh, hl, ht⟩
  refine ⟨fun ht hc haway hlt hx => ?_, fun ht hc haway hno => (turn ht).refused hc haway hno, fun ht hc haway => (turn ht).away hc haway,
    fun ht hc => ?_, fun ht hc hf hq _ => (turn ht).gaveUp hi hc hf hq, fun c hc => ⟨fun ht => ?_, fun n hn => ?_⟩⟩
  · have htake := State.crqTake_rdS (s := s.counted m) (m := s.arrived 8 m) (i := BitVec.ofNat 4 i) hc haway hlt hx
    exact ⟨_, _, (turn ht).crq.trans (congrArg _ htake), rfl, rfl, rfl, rfl, rfl, rfl⟩
  · have htake := State.crsTake_cmp (s := s.counted m) (m := s.arrived 9 m) (i := BitVec.ofNat 4 i) hc
    exact ⟨_, _, (turn ht).crs.trans (congrArg _ htake), rfl, rfl, rfl, rfl⟩
  · exact exec_coh_early hc hp hh hl ht
  · exact exec_coh_stranger (m := { m with src := n }) hc hp hn

end Sys2Proof.Machine

namespace Sys2Proof.Machine

open Sys2Proof

/-! What `StoresWf` is about, and how it passes through the model's definitions. -/

/-- The next state of a command, if it ends in one, is in canonical form. -/
def NextWf (r : Res) : Prop := ∀ u, r = .next u → StoresWf u

section
variable {s u : State} {α β : Type}

/-- A record update that leaves the main store's bytes, the image's and what a resume found keeps the canonical form. -/
theorem StoresWf.upd (h : StoresWf s)
    {pending free part phase ticks tb dev procs cores clus net parked memWait noCmp lost dir stks flips dbits peakD bisnp tun fe pew insts cxl rps led
    accs abt acnt exh promos fabq links inq cseqTx cseqRx cheld fwdIn sbWait sbArr ftos leaving mirw mirTag mirIn qs commits eng ushare rops rtag
    kslots kbuf kcmd cobs zns ports cobBytes authF znIn znOut znErr images imgW bpW repts rptW rptLate icmd rests ifail isaved irest icont frzTb snaps
    saved bcfg bprog brs mgmt vaux sel boot rearms refLost outbox}
    (img : Tun.img tun = s.tun.img := by exact rfl) : StoresWf
      ⟨pending, free, part, phase, ticks, tb, dev, procs, cores, clus, net, parked, memWait, noCmp, lost, dir, stks, s.ms, flips, dbits, peakD, bisnp,
      tun, fe, pew, insts, cxl, rps, led, accs, abt, acnt, exh, promos, fabq, links, inq, cseqTx, cseqRx, cheld, fwdIn, sbWait, sbArr, ftos, leaving,
      mirw, mirTag, mirIn, qs, commits, eng, ushare, rops, rtag, kslots, kbuf, kcmd, cobs, zns, ports, cobBytes, authF, znIn, znOut, znErr, images,
      imgW, bpW, repts, rptW, rptLate, icmd, rests, ifail, isaved, irest, icont, frzTb, snaps, saved, s.kept, bcfg, bprog, brs, mgmt, vaux, sel, boot,
      rearms, refLost, outbox⟩ := by
  obtain ⟨hms, himg, hkept⟩ := h
  exact ⟨hms, img ▸ himg, hkept⟩

theorem StoresWf.of_array (h : StoresWf s) (a : ArrayOnly s u) (ms : Memory.wf u.ms = true) : StoresWf u := by
  have img : u.tun = s.tun := by rw [a]
  have kept : u.kept = s.kept := by rw [a]
  obtain ⟨-, himg, hkept⟩ := h
  exact ⟨ms, img ▸ himg, kept ▸ hkept⟩

/-- With nothing kept for a resume the two stores are left. -/
theorem StoresWf.of_kept_none (ms : Memory.wf u.ms = true) (img : Memory.wf u.tun.img = true) (e : u.kept = none) : StoresWf u := by
  refine ⟨ms, img, fun k hk => ?_⟩
  rw [e] at hk
  cases hk

theorem StoresWf.ite {c : Prop} {d : Decidable c} {t u : State} (h : StoresWf t) (g : StoresWf u) : StoresWf (if c then t else u) := by
  split
  exacts [h, g]

theorem StoresWf.iteFst {c : Prop} {d : Decidable c} {x y : State × α} (h : StoresWf x.1) (g : StoresWf y.1) :
    StoresWf (if c then x else y).1 := by
  split
  exacts [h, g]

theorem StoresWf.iteSnd {c : Prop} {d : Decidable c} {x y : α × State} (h : StoresWf x.2) (g : StoresWf y.2) :
    StoresWf (if c then x else y).2 := by
  split
  exacts [h, g]

theorem StoresWf.iteSnd2 {c : Prop} {d : Decidable c} {x y : α × β × State} (h : StoresWf x.2.2) (g : StoresWf y.2.2) :
    StoresWf (if c then x else y).2.2 := by
  split
  exacts [h, g]

theorem StoresWf.fst {x : State × α} {a : α} {t : State} (e : x = (t, a)) (h : StoresWf x.1) : StoresWf t := by
  subst e
  exact h

theorem StoresWf.snd {x : α × State} {a : α} {t : State} (e : x = (a, t)) (h : StoresWf x.2) : StoresWf t := by
  subst e
  exact h

theorem StoresWf.snd2 {x : α × β × State} {a : α} {b : β} {t : State} (e : x = (a, b, t)) (h : StoresWf x.2.2) : StoresWf t := by
  subst e
  exact h

/-- A fold whose every step keeps the canonical form of the state it carries keeps it. -/
theorem StoresWf.foldlBy (g : α → State) {f : α → β → α} {xs : List β} {a : α} (h : StoresWf (g a))
    (hf : ∀ a b, StoresWf (g a) → StoresWf (g (f a b))) : StoresWf (g (xs.foldl f a)) := by
  induction xs generalizing a with
  | nil => exact h
  | cons x xs ih => exact ih (hf a x h)

theorem StoresWf.foldl {f : State → α → State} (h : StoresWf s) {xs : List α} (hf : ∀ s a, StoresWf s → StoresWf (f s a)) :
    StoresWf (xs.foldl f s) := StoresWf.foldlBy id h hf

theorem NextWf.next (h : StoresWf u) : NextWf (.next u) := fun _ e => Host.Outcome.next.inj e ▸ h

theorem NextWf.fault {f : Fault} : NextWf (.fault f) := by
  rintro u ⟨⟩

theorem NextWf.ite {c : Prop} {d : Decidable c} {r q : Res} (h : NextWf r) (g : NextWf q) : NextWf (if c then r else q) := by
  split
  exacts [h, g]

/-- What an option holds of a list's search was found for one of its members. -/
theorem StoresWf.findSome? {f : β → Option (α × State)} {xs : List β} {x : α × State} (e : xs.findSome? f = some x)
    (hf : ∀ b x, f b = some x → StoresWf x.2) : StoresWf x.2 := by
  obtain ⟨b, -, hb⟩ := List.exists_of_findSome?_eq_some e
  exact hf b x hb

end

end Sys2Proof.Machine

namespace Sys2Proof.Machine

open Sys2Proof

/-! The canonical form of the stores through the state's own operations, its errors, and the caches and the home.
Its many short proofs are checked in turn, as the model's tests are: side by side they ask for more threads than the check's memory holds. -/

section
set_option Elab.async false
variable {s : State}

theorem StoresWf.setProc (h : StoresWf s) {p q} : StoresWf (s.setProc p q) :=
  h.upd

theorem StoresWf.modProc (h : StoresWf s) {p f} : StoresWf (s.modProc p f) :=
  h.setProc

theorem StoresWf.modCore (h : StoresWf s) {n f} : StoresWf (s.modCore n f) :=
  h.upd

theorem StoresWf.modClu (h : StoresWf s) {k f} : StoresWf (s.modClu k f) :=
  h.upd

theorem StoresWf.modStack (h : StoresWf s) {st f} : StoresWf (s.modStack st f) :=
  h.upd

theorem StoresWf.tick1 (h : StoresWf s) : StoresWf s.tick1 :=
  h.upd

theorem StoresWf.out (h : StoresWf s) {o} : StoresWf (s.out o) :=
  h.upd

theorem StoresWf.sg (h : StoresWf s) {a v d} : StoresWf (s.sg a v d) :=
  h.upd

theorem StoresWf.setInst (h : StoresWf s) {i c} : StoresWf (s.setInst i c) :=
  h.upd

theorem StoresWf.pend (h : StoresWf s) {k j} : StoresWf (s.pend k j) :=
  .ite h.sg h

theorem StoresWf.raise (h : StoresWf s) {a} : StoresWf (s.raise a) :=
  .ite h.pend h

theorem StoresWf.raiseIn (h : StoresWf s) {k a} : StoresWf (s.raiseIn k a) :=
  .ite h.pend h

theorem StoresWf.setFe (h : StoresWf s) {b f} : StoresWf (s.setFe b f) :=
  h.upd

theorem StoresWf.injHit (h : StoresWf s) {b chk unit n t} (e : s.injHit b chk unit = some (n, t)) : StoresWf t := by
  have ht := State.injHit_some e
  rw [ht]
  exact h.upd

theorem StoresWf.injHitIf (h : StoresWf s) {c : Prop} {d : Decidable c} {b chk unit n t}
    (e : (if c then s.injHit b chk unit else none) = some (n, t)) : StoresWf t := by
  split at e
  · exact h.injHit e
  · cases e

theorem StoresWf.tungInj (h : StoresWf s) : StoresWf s.tungInj.2 := by
  unfold State.tungInj
  split
  · next e => exact h.injHit e
  · exact h

theorem StoresWf.msix (h : StoresWf s) {fn vec} : StoresWf (s.msix fn vec) :=
  .ite h.out h.upd

theorem StoresWf.raiseFlt (h : StoresWf s) : StoresWf s.raiseFlt :=
  .ite h.raise.msix h.raise

theorem StoresWf.capture (h : StoresWf s) {e} : StoresWf (s.capture e) := by
  unfold State.capture
  split
  exacts [h, .ite h (.ite (.ite h.setFe.raiseFlt h.setFe) h.setFe)]

theorem StoresWf.pewter (h : StoresWf s) {e} : StoresWf (s.pewter e) :=
  .ite h.upd h.upd

theorem StoresWf.event (h : StoresWf s) {e} : StoresWf (s.event e) :=
  h.capture.pewter

theorem StoresWf.modRp (h : StoresWf s) {q f} : StoresWf (s.modRp q f) :=
  h.upd

theorem StoresWf.setMstat (h : StoresWf s) {i b} : StoresWf (s.setMstat i b) :=
  h.sg

theorem StoresWf.cxlEvt (h : StoresWf s) {i} : StoresWf (s.cxlEvt i) :=
  h.sg.raise

theorem StoresWf.modEng (h : StoresWf s) {e f} : StoresWf (s.modEng e f) :=
  h.upd

theorem StoresWf.modQ (h : StoresWf s) {i f} : StoresWf (s.modQ i f) :=
  h.upd

theorem StoresWf.report (h : StoresWf s) {typ inst ring seq status flags count prog tag} :
    StoresWf (s.report typ inst ring seq status flags count prog tag) :=
  h.upd

theorem StoresWf.badSlots (h : StoresWf s) {gone} : StoresWf (s.badSlots gone) :=
  h.upd

theorem StoresWf.fab (h : StoresWf s) {m} : StoresWf (s.fab m) :=
  h.upd

theorem StoresWf.coh (h : StoresWf s) {node rq code addr acks data pois status} : StoresWf (s.coh node rq code addr acks data pois status) :=
  h.upd.fab

theorem StoresWf.rPump (h : StoresWf s) : StoresWf s.rPump :=
  h.foldl fun _ _ h => .ite h.upd.fab h

theorem StoresWf.rIssue (h : StoresWf s) {who node typ line ws} : StoresWf (s.rIssue who node typ line ws) :=
  h.upd.rPump

theorem StoresWf.rRead (h : StoresWf s) {who node a inst master} : StoresWf (s.rRead who node a inst master) :=
  h.rIssue

theorem StoresWf.rWrite (h : StoresWf s) {who node l inst master bs} : StoresWf (s.rWrite who node l inst master bs) :=
  h.rIssue

theorem StoresWf.sgVi (h : StoresWf s) {i o v} : StoresWf (s.sgVi i o v) :=
  h.sg

theorem StoresWf.inject (h : StoresWf s) {l w} : StoresWf (s.inject l w) :=
  .ite h.upd.sg h

theorem StoresWf.poisonWords (h : StoresWf s) {l ws} : StoresWf (s.poisonWords l ws) :=
  h.upd.foldl fun _ _ h => h.inject

theorem StoresWf.poisonLine (h : StoresWf s) {l} : StoresWf (s.poisonLine l) :=
  .ite h h.poisonWords.modStack

theorem StoresWf.correct (h : StoresWf s) {l fixes} : StoresWf (s.correct l fixes) :=
  h.of_array (.correct s l fixes) (State.correct_wf s l fixes h.1)

theorem StoresWf.wordEvent (h : StoresWf s) {l code sev cls master ys} : StoresWf (s.wordEvent l code sev cls master ys) := by
  unfold State.wordEvent
  split
  exacts [h, h.event]

theorem StoresWf.arrayRead (h : StoresWf s) {l err master} : StoresWf (s.arrayRead l err master).2.2 :=
  h.of_array (.arrayRead s l err master) (State.arrayRead_wf s l err master h.1)

theorem StoresWf.arrayWrite (h : StoresWf s) {l cells pois master} : StoresWf (s.arrayWrite l cells pois master) :=
  h.of_array (.arrayWrite s l cells pois master) (State.arrayWrite_wf s l cells pois master h.1)

theorem StoresWf.arrayLine (h : StoresWf s) {l d pois master} : StoresWf (s.arrayLine l d pois master) :=
  h.arrayWrite

theorem StoresWf.tryGrant (h : StoresWf s) {l t} (e : s.tryGrant l = some t) : StoresWf t := by
  unfold State.tryGrant at e
  split at e
  · exact Option.some.inj e ▸ h
  · split at e
    · exact Option.some.inj e ▸ h.upd
    · cases e

theorem StoresWf.tunStatus (h : StoresWf s) {i} : StoresWf (s.tunStatus i) :=
  .ite h.sg.raise h.sg

theorem StoresWf.stallBegin (h : StoresWf s) : StoresWf s.stallBegin := by
  unfold State.stallBegin
  split
  exacts [h, h.upd.event.tunStatus]

theorem StoresWf.stallEnd (h : StoresWf s) : StoresWf s.stallEnd := by
  unfold State.stallEnd
  refine .ite h ?_
  split
  exacts [h, h.upd.event]

theorem StoresWf.grantOr (h : StoresWf s) {l r} : StoresWf (s.grantOr l r).2 := by
  unfold State.grantOr
  dsimp only
  split
  · next e =>
    split at e
    · exact h.tryGrant e
    · cases e
  · exact .iteSnd h h.upd.stallBegin

theorem StoresWf.setLine (h : StoresWf s) {k l c} : StoresWf (s.setLine k l c) :=
  h.modClu

theorem StoresWf.dropLine (h : StoresWf s) {k l} : StoresWf (s.dropLine k l) := by
  unfold State.dropLine
  split
  exacts [h, .ite h.setLine h.modClu]

theorem StoresWf.killResv (h : StoresWf s) {l keep} : StoresWf (s.killResv l keep) :=
  h.upd

theorem StoresWf.killResvCore (h : StoresWf s) {n l} : StoresWf (s.killResvCore n l) := by
  unfold State.killResvCore
  split
  exacts [.ite h.modProc h, h]

theorem StoresWf.killResvClu (h : StoresWf s) {k l} : StoresWf (s.killResvClu k l) :=
  h.upd

theorem StoresWf.dropL1D (h : StoresWf s) {k l keep} : StoresWf (s.dropL1D k l keep) :=
  h.foldl fun _ _ h => .ite h (.ite h.modCore.killResvCore h)

theorem StoresWf.dropL1I (h : StoresWf s) {k l} : StoresWf (s.dropL1I k l) :=
  h.foldl fun _ _ h => h.modCore

theorem StoresWf.l1dCheck (h : StoresWf s) {n l} : StoresWf (s.l1dCheck n l) := by
  unfold State.l1dCheck
  dsimp only
  split
  · exact h
  · split
    · exact h
    · next t e =>
      have ht : StoresWf t := StoresWf.findSome? e fun u x hx => by
        obtain hx | ⟨-, hx⟩ := (Option.orElse_eq_some _ _ _).1 hx
        exacts [h.injHit hx, h.injHit hx]
      refine .ite ht (.ite ht.upd.killResvCore.event (.ite ht.event (.event (.upd (.killResvCore (.upd ?_))))))
      split
      exacts [ht.upd, ht]

theorem StoresWf.fillL1D (h : StoresWf s) {n l st} : StoresWf (s.fillL1D n l st) := by
  unfold State.fillL1D
  split
  · exact h.modCore
  · refine .ite h ?_
    split
    · exact h
    · extract_lets s1
      have h1 : StoresWf s1 := by
        unfold s1
        split
        · extract_lets s2
          have h2 : StoresWf s2 := by
            unfold s2
            split
            exacts [.ite h.l1dCheck h, h]
          clear_value s2
          exact h2.modCore.killResvCore
        · exact h
      clear_value s1
      exact h1.modCore

theorem StoresWf.fillL1I (h : StoresWf s) {n l} : StoresWf (s.fillL1I n l) := by
  unfold State.fillL1I
  refine .ite h ?_
  split
  exacts [h, h.modCore]

theorem StoresWf.ccLfsr (h : StoresWf s) {k r} : StoresWf (s.ccLfsr k r) := by
  unfold State.ccLfsr
  split
  exacts [h.sg, h]

theorem StoresWf.send (h : StoresWf s) {m} : StoresWf (s.send m) :=
  h.upd

theorem StoresWf.freshLine (h : StoresWf s) {k l c} : StoresWf (s.freshLine k l c).2.2 := by
  unfold State.freshLine
  split
  · split
    exacts [h, h]
  · exact .iteSnd2 h.arrayRead h

theorem StoresWf.ccTag (h : StoresWf s) {k l} : StoresWf (s.ccTag k l) := by
  unfold State.ccTag
  refine .ite h ?_
  split
  exacts [h.modClu, h]

theorem StoresWf.ccRead (h : StoresWf s) {k l} : StoresWf (s.ccRead k l) := by
  unfold State.ccRead
  split
  · exact h
  · refine .ite h ?_
    extract_lets b ev
    refine .ite h.setLine.event (.ite ?_ ?_)
    · split
      next e => exact (StoresWf.snd2 e h.dropL1D.dropL1I.freshLine).setLine.event
    · exact h.setLine.event

theorem StoresWf.checkLine (h : StoresWf s) {k l} : StoresWf (s.checkLine k l) :=
  (h.foldl fun _ _ h => h.l1dCheck).ccRead

theorem StoresWf.evict (h : StoresWf s) {k l} : StoresWf (s.evict k l) := by
  unfold State.evict
  extract_lets s1 s2 home src
  have h1 : StoresWf s1 := h.checkLine
  have h2 : StoresWf s2 := h1.dropL1D.dropL1I.killResvClu
  clear_value s1 s2
  split
  · exact h1
  · split
    exacts [h2.setLine.send, h2.setLine.send, h2.setLine.send, h2.setLine.send, h2.modClu, h2]

theorem StoresWf.wantLine (h : StoresWf s) {k l own preload m} : StoresWf (s.wantLine k l own preload m).2 := by
  unfold State.wantLine
  extract_lets s1 ask miss
  have h1 : StoresWf s1 := h.ccTag
  have hask {t kind} (h : StoresWf t) : StoresWf (ask t kind).2 := h.send
  clear_value s1
  refine .iteSnd h1 ?_
  split
  · unfold miss
    refine .iteSnd h1 ?_
    split
    · exact h1
    · exact h1
    · extract_lets full s2 s3
      have h2 : StoresWf s2 := h1.ccLfsr
      have h3 : StoresWf s3 := by
        unfold s3
        split
        exacts [h2.evict, h2]
      clear_value s2 s3
      exact .iteSnd h1 (hask h3.setLine)
  · split
    · exact h1
    · exact h1
    · exact h1
    · exact .iteSnd (hask h1.setLine) h1
    · exact .iteSnd (hask h1.setLine) h1
    · exact .iteSnd h1 h1
    · exact .iteSnd h1 h1
    · unfold miss
      refine .iteSnd h1 ?_
      split
      · exact h1
      · exact h1
      · extract_lets full2 s4 s5
        have h4 : StoresWf s4 := h1.ccLfsr
        have h5 : StoresWf s5 := by
          unfold s5
          split
          exacts [h4.evict, h4]
        clear_value s4 s5
        exact .iteSnd h1 (hask h5.setLine)
    · exact h1
    · exact h1
    · exact h1
    · exact h1

theorem StoresWf.ccWritten (h : StoresWf s) {k l full} : StoresWf (s.ccWritten k l full) := by
  unfold State.ccWritten
  extract_lets b
  split
  · exact h
  · split
    · next e => exact (h.injHit e).setLine
    · split
      · next e => exact (h.injHit e).setLine
      · exact .ite h.setLine h

theorem StoresWf.l1iCheck (h : StoresWf s) {p n l} : StoresWf (s.l1iCheck p n l) := by
  unfold State.l1iCheck
  dsimp only
  split
  · next e =>
    have ht := StoresWf.findSome? e fun u x hx => h.injHit hx
    exact .ite ht ht.upd.event
  · exact h

theorem StoresWf.writeThrough (h : StoresWf s) {l bs pois} : StoresWf (s.writeThrough l bs pois) := by
  unfold State.writeThrough
  refine .ite h.arrayWrite ?_
  split
  exacts [h.upd, h]

theorem StoresWf.cluWrite (h : StoresWf s) {k l core p bs} : StoresWf (s.cluWrite k l core p bs) := by
  unfold State.cluWrite
  extract_lets s1 full thru
  have h1 : StoresWf s1 := by
    unfold s1
    split
    exacts [h.l1dCheck, h]
  clear_value s1
  split
  · exact h1
  · extract_lets c s2 s3 s4
    have h2 : StoresWf s2 := h1.setLine.dropL1D
    have h3 : StoresWf s3 := by
      unfold s3
      split
      · split
        exacts [h2.modCore, h2.fillL1D]
      · exact h2
    have h4 : StoresWf s4 := .ite h3.writeThrough h3
    clear_value s2 s3 s4
    exact h4.killResv.ccWritten

theorem StoresWf.readLine (h : StoresWf s) {l master} : StoresWf (s.readLine l master).2.2 := by
  unfold State.readLine
  split
  · extract_lets s1
    have h1 : StoresWf s1 := h.checkLine
    clear_value s1
    split
    exacts [h1, h1.arrayRead]
  · split
    exacts [h, h.arrayRead]

theorem StoresWf.invAll (h : StoresWf s) {l} : StoresWf (s.invAll l) := by
  unfold State.invAll
  extract_lets s1 s2
  have h1 : StoresWf s1 := by
    unfold s1
    refine h.foldl fun _ _ h => ?_
    split
    exacts [h, h.dropL1D.dropL1I.dropLine]
  have h2 : StoresWf s2 := by
    unfold s2
    split
    exacts [.ite h1.out.out h1, h1]
  clear_value s1 s2
  exact h2.upd

theorem StoresWf.pokeLine (h : StoresWf s) {l bs pois master} : StoresWf (s.pokeLine l bs pois master) := by
  unfold State.pokeLine
  extract_lets own s1 s2
  clear_value own
  have h1 : StoresWf s1 := by
    unfold s1
    split
    exacts [h.checkLine, h]
  have h2 : StoresWf s2 := h1.invAll
  clear_value s1 s2
  split
  extract_lets s3
  have h3 : StoresWf s3 := by
    unfold s3
    split
    exacts [h2.arrayLine, h2]
  clear_value s3
  exact h3.arrayWrite.killResv

theorem StoresWf.poke (h : StoresWf s) {a bs pois master} : StoresWf (s.poke a bs pois master) :=
  h.foldl fun _ _ h => h.pokeLine

theorem StoresWf.cleanLine (h : StoresWf s) {l} : StoresWf (s.cleanLine l).2 := by
  unfold State.cleanLine
  split
  · exact h
  · extract_lets s1
    have h1 : StoresWf s1 := h.checkLine
    clear_value s1
    split
    · exact h1
    · split
      · exact h1.arrayLine.setLine
      · extract_lets s2 s3 s4
        have h2 : StoresWf s2 := h1.arrayLine
        have h3 : StoresWf s3 := h2.setLine
        have h4 : StoresWf s4 := by
          unfold s4
          split
          exacts [h3.upd, h3]
        clear_value s2 s3 s4
        exact h4
      · exact h1

theorem StoresWf.clinvLine (h : StoresWf s) {l} : StoresWf (s.clinvLine l).2 := by
  unfold State.clinvLine
  split
  next e =>
  dsimp only
  exact (StoresWf.snd e h.cleanLine).invAll

theorem StoresWf.setDir (h : StoresWf s) {l d} : StoresWf (s.setDir l d) :=
  .ite h.upd h.upd

theorem StoresWf.homeData (h : StoresWf s) {l master} : StoresWf (s.homeData l master).2.2 := by
  unfold State.homeData
  refine .iteSnd2 h.arrayRead ?_
  split
  exacts [h, h]

theorem StoresWf.homeMerge (h : StoresWf s) {l bs p master} : StoresWf (s.homeMerge l bs p master) := by
  unfold State.homeMerge
  refine .ite h.arrayWrite ?_
  split
  exact h.upd

theorem StoresWf.homeWrite (h : StoresWf s) {l d p} : StoresWf (s.homeWrite l d p) :=
  h.homeMerge

theorem StoresWf.remoteBack (h : StoresWf s) {l wrote} : StoresWf (s.remoteBack l wrote) := by
  unfold State.remoteBack
  refine .ite h ?_
  extract_lets node a
  split
  exacts [.ite h.coh h.coh, h.coh]

theorem StoresWf.sendInvs (h : StoresWf s) {l req own as} : StoresWf (s.sendInvs l req own as) := by
  induction as generalizing s with
  | nil => exact h
  | cons a as ih => exact ih h.upd

theorem StoresWf.homeDone (h : StoresWf s) {m} : StoresWf (s.homeDone m) := by
  unfold State.homeDone
  split
  exacts [.ite h (.ite h.modProc h.send), h.send, h.coh, h]

theorem StoresWf.sendRetry (h : StoresWf s) {m} : StoresWf (s.sendRetry m) :=
  h.tick1.modStack.send

theorem StoresWf.enqueue (h : StoresWf s) {m} : StoresWf (s.enqueue m) :=
  .ite h.modStack h.sendRetry

theorem StoresWf.txnWrite (h : StoresWf s) {m data opened} : StoresWf (s.txnWrite m data opened) := by
  unfold State.txnWrite
  extract_lets l s1 s2 d d2 keep s3
  have h1 : StoresWf s1 := by
    unfold s1
    split
    exacts [h.homeWrite, h]
  have h2 : StoresWf s2 := by
    unfold s2
    split
    exacts [h1.homeMerge.killResv, h1.homeMerge.killResv, h1]
  have h3 : StoresWf s3 := by
    unfold s3
    split
    exacts [.ite h2.setDir h2.setDir, .setDir (.ite h2 h2.remoteBack)]
  clear_value s1 s2 s3
  exact h3.homeDone

theorem StoresWf.startTxn (h : StoresWf s) {m d recl} : StoresWf (s.startTxn m d recl) := by
  unfold State.startTxn
  extract_lets l inv t kind s1
  have h1 : StoresWf s1 := h.setDir
  clear_value s1
  split
  exacts [.ite h.txnWrite h.setDir.sendInvs, h1.send.sendInvs]

theorem StoresWf.holdFor (h : StoresWf s) {m remote} : StoresWf (s.holdFor m remote) :=
  h.setDir

theorem StoresWf.unopened (h : StoresWf s) {l r} : StoresWf (s.unopened l r) := by
  unfold State.unopened
  split
  exacts [h.upd, h]

theorem StoresWf.homeTable (h : StoresWf s) {m} : StoresWf (s.homeTable m) := by
  unfold State.homeTable
  extract_lets l d r home reply d2 inv rdx src inv2 ack s1 s2 d3 ack2 d4 s3
  clear_value l d r home d2 inv src inv2 d3 d4
  have hreply {t g acks} (h : StoresWf t) : StoresWf (reply t g acks) := by
    unfold reply
    split
    next e => exact (StoresWf.snd2 e h.homeData).send
  have hrdx {t} (h : StoresWf t) : StoresWf (rdx t) := by
    unfold rdx
    split
    · exact hreply h.setDir
    · exact (hreply h.setDir).sendInvs
    · split
      exacts [.ite (hreply h.setDir).sendInvs h.setDir.send.sendInvs, hreply h.setDir]
    · split
      exacts [.ite (hreply h.setDir).sendInvs h.setDir.send.sendInvs, hreply h.setDir]
  have hAck {t} (h : StoresWf t) : StoresWf (ack t) := by
    unfold ack
    split
    exacts [h.send, h.send]
  have h1 : StoresWf s1 := .ite h.homeWrite h.arrayWrite
  have h2 : StoresWf s2 := .ite h1.remoteBack h1
  have hAck2 {t} (h : StoresWf t) : StoresWf (ack2 t) := by
    unfold ack2
    split
    exacts [h.send, h.send]
  have h3 : StoresWf s3 := h.setDir
  clear_value reply rdx ack s1 s2 ack2 s3
  split
  · split
    · exact .ite (hreply h.setDir) (hreply h.setDir)
    · exact hreply h.setDir
    · split
      exacts [.ite (hreply h.setDir) h.setDir.send, hreply h.setDir]
    · split
      exacts [.ite (hreply h.setDir) h.setDir.send, hreply h.setDir]
  · exact hrdx h
  · exact .ite h.setDir.send.sendInvs (.ite h.setDir.send.sendInvs (hrdx h))
  · exact .ite (hAck (.ite h2 (.ite h2.setDir (.ite h2.setDir h2.setDir)))) (hAck h)
  · split
    exacts [hAck2 h, .ite (hAck2 h.remoteBack.setDir) (hAck2 h.setDir), .ite (hAck2 h.remoteBack.setDir) (hAck2 h),
      .ite (.ite (hAck2 h.remoteBack.setDir) (hAck2 h.setDir)) (hAck2 h.setDir)]
  · split
    exacts [.ite (hreply h3) h3.send, hreply (.ite h.unopened h.setDir)]
  · refine .ite h.homeMerge.killResv.homeDone ?_
    split
    exacts [h.txnWrite, h.startTxn]
  · refine .ite h.homeMerge.killResv.homeDone ?_
    split
    exacts [h.txnWrite, h.startTxn]
  · refine .ite h.homeMerge.killResv.homeDone ?_
    split
    exacts [h.txnWrite, h.startTxn]
  · split
    exacts [h.homeDone, h.setDir.send]
  · exact h

theorem StoresWf.takeWay (h : StoresWf s) {l} : StoresWf (s.takeWay l) :=
  h.upd

theorem StoresWf.homeGo (h : StoresWf s) {m} : StoresWf (s.homeGo m) :=
  .ite h.holdFor.coh h.homeTable

theorem StoresWf.victWait (h : StoresWf s) {m} : StoresWf (s.victWait m) :=
  h.setDir

theorem StoresWf.victOver (h : StoresWf s) {m} : StoresWf (s.victOver m) := by
  unfold State.victOver
  extract_lets d
  split
  exacts [.ite h.setDir h, h]

theorem StoresWf.victFor (h : StoresWf s) {j m} : StoresWf (s.victFor j m) :=
  h.setDir.victWait

theorem StoresWf.homeAct (h : StoresWf s) {m} : StoresWf (s.homeAct m) := by
  unfold State.homeAct
  extract_lets l d st first s1 set others idle r s2
  have h1 : StoresWf s1 := h.modStack
  have h2 : StoresWf s2 := h1.modStack
  clear_value s1 s2
  refine .ite h.homeTable (.ite h.enqueue ?_)
  refine .ite h1.holdFor (.ite ?_ ?_)
  · refine .ite h1.takeWay.homeGo (.ite h1.sendRetry ?_)
    split
    exacts [h2.sendRetry, .ite h2.setDir.victFor (.ite h2.startTxn.victFor h2.startTxn.takeWay.homeGo)]
  · exact h1.homeGo

theorem StoresWf.drainQueue (h : StoresWf s) {l n} : StoresWf (s.drainQueue l n) := by
  induction n generalizing s with
  | zero => exact h
  | succ n ih =>
    unfold State.drainQueue
    refine .ite h ?_
    split
    exacts [h, ih h.upd.homeAct]

theorem StoresWf.victDone (h : StoresWf s) {w} : StoresWf (s.victDone w) := by
  unfold State.victDone
  split
  exacts [h.victOver.homeAct.drainQueue, h]

theorem StoresWf.finishTxn (h : StoresWf s) {l} : StoresWf (s.finishTxn l) := by
  unfold State.finishTxn
  split
  exacts [h, .ite h h.txnWrite.victDone.drainQueue]

theorem StoresWf.homeRow (h : StoresWf s) {l r ok} : StoresWf (s.homeRow l r ok) := by
  unfold State.homeRow
  split
  exacts [h, h.upd.homeAct]

theorem StoresWf.answered (h : StoresWf s) {k l} : StoresWf (s.answered k l) :=
  h.upd

theorem StoresWf.giveUp (h : StoresWf s) {k l} : StoresWf (s.giveUp k l) :=
  h.dropL1D.dropL1I.killResvClu.dropLine

theorem StoresWf.serveFwd (h : StoresWf s) {k l m} : StoresWf (s.serveFwd k l m) := by
  unfold State.serveFwd
  extract_lets s1 me
  have h1 : StoresWf s1 := h.checkLine
  clear_value s1
  split
  · exact h1
  · extract_lets data s2 s3
    have h2 : StoresWf s2 := .ite h1.setLine h1
    have h3 : StoresWf s3 := .ite h2 (h2.foldl fun _ _ h => h.modCore)
    clear_value s2 s3
    split
    · exact h3.send
    · exact h1.send
    · refine .ite ?_ ?_
      · split
        exacts [h1.setLine.send, h1.setLine.send]
      · exact h1.giveUp.send

theorem StoresWf.sendMember (h : StoresWf s) {m i} : StoresWf (s.sendMember m i) :=
  .coh (.ite h.upd h)

theorem StoresWf.lineTurn (h : StoresWf s) {k l kind now} : StoresWf (s.lineTurn k l kind now).2 := by
  unfold State.lineTurn
  split
  · exact h
  · split
    · refine .iteSnd h.setLine ?_
      split
      exacts [h.upd.setLine, h]
    · split
      exacts [h, .iteSnd h.upd h.upd.setLine]

theorem StoresWf.fwdRow (h : StoresWf s) {l r mk} : StoresWf (s.fwdRow l r mk) := by
  unfold State.fwdRow
  split
  · extract_lets k
    split
    · next e => exact (StoresWf.snd e h.lineTurn).serveFwd
    · next e => exact StoresWf.snd e h.lineTurn
  · split
    exacts [h, h.upd.sendMember]
  · exact h

theorem StoresWf.cmpl (h : StoresWf s) {k l} : StoresWf (s.cmpl k l) :=
  h.send

theorem StoresWf.invDrop (h : StoresWf s) {k l} : StoresWf (s.invDrop k l) := by
  unfold State.invDrop
  split
  · exact h
  · split
    exacts [h.dropL1D.dropL1I.killResvClu.setLine, h.dropL1D.dropL1I.killResvClu.setLine, h.setLine, h.giveUp, h.giveUp, h.giveUp, h.giveUp, h]

theorem StoresWf.invAt (h : StoresWf s) {l r} : StoresWf (s.invAt l r) := by
  unfold State.invAt
  extract_lets ack
  have hAck {t m} (h : StoresWf t) : StoresWf (ack t m) := h.send
  split
  · extract_lets k
    refine .ite ?_ ?_
    · split
      exacts [h, hAck h.upd]
    · split
      · extract_lets s1
        have h1 : StoresWf s1 := h.upd
        clear_value s1
        split
        exacts [.ite (hAck h1) (hAck h1.invDrop), hAck h1]
      · split
        · next e => exact hAck (StoresWf.snd e h.lineTurn).invDrop
        · next e => exact StoresWf.snd e h.lineTurn
  · split
    exacts [h, hAck h.upd]

theorem StoresWf.homeBack (h : StoresWf s) {l data} : StoresWf (s.homeBack l data) := by
  unfold State.homeBack
  extract_lets d
  split
  exacts [h, h.setDir.finishTxn]

theorem StoresWf.recallDo (h : StoresWf s) {k l kind} : StoresWf (s.recallDo k l kind) := by
  unfold State.recallDo
  extract_lets s1
  have h1 : StoresWf s1 := h.checkLine
  clear_value s1
  split
  · exact h1.homeBack
  · refine .ite ?_ ?_
    · split
      exacts [h1.giveUp.homeBack, h1.giveUp.homeBack, h1.giveUp.homeBack, h1.setLine.homeBack, h1.homeBack]
    · split
      exacts [h1.setLine.homeBack, h1.setLine.homeBack, h1.homeBack, h1.homeBack]

theorem StoresWf.recallAt (h : StoresWf s) {l r} : StoresWf (s.recallAt l r) := by
  unfold State.recallAt
  split
  · extract_lets k
    refine .ite ?_ ?_
    · split
      exacts [h, h.upd.homeBack]
    · split
      · next e => exact (StoresWf.snd e h.lineTurn).recallDo
      · next e => exact StoresWf.snd e h.lineTurn
  · exact h

theorem StoresWf.grantAt (h : StoresWf s) {k l} : StoresWf (s.grantAt k l) := by
  unfold State.grantAt
  extract_lets r
  split
  · exact h
  · split
    · exact h
    · extract_lets s1 data pois pg c left s2
      have h1 : StoresWf s1 := h.upd.answered
      have h2 : StoresWf s2 := by
        unfold s2
        split
        exacts [h1.setLine.cmpl, h1.setLine.cmpl, h1.setLine.cmpl, .ite h1.setLine.cmpl h1.setLine, .ite h1.setLine.cmpl h1.setLine,
          .ite h1.setLine.cmpl h1.setLine, h1]
      clear_value s1 s2
      exact .ite h2 h2.ccWritten

theorem StoresWf.ackAt (h : StoresWf s) {l r} : StoresWf (s.ackAt l r) := by
  unfold State.ackAt
  split
  · exact h
  · extract_lets s1 d d2
    have h1 : StoresWf s1 := h.upd
    clear_value s1
    split
    · split
      exacts [h1.setDir.finishTxn, h1]
    · extract_lets k
      split
      exacts [h1, .ite h1.setLine.answered.cmpl h1.setLine]
    · exact h1

theorem StoresWf.cmpAt (h : StoresWf s) {l r} : StoresWf (s.cmpAt l r) := by
  unfold State.cmpAt
  split
  · exact h
  · extract_lets s1 d
    have h1 : StoresWf s1 := h.upd
    clear_value s1
    split
    exacts [.ite h1.upd h1.setDir.drainQueue, h1.setDir.drainQueue]

theorem StoresWf.evbFree (h : StoresWf s) {l r kind} : StoresWf (s.evbFree l r kind) := by
  unfold State.evbFree
  split
  · exact h
  · extract_lets s1 s2
    have h1 : StoresWf s1 := h
    have h2 : StoresWf s2 := h.upd
    clear_value s1 s2
    split
    · split
      exacts [.ite h1 (.ite h2.modClu h2), h2]
    · exact h2

theorem StoresWf.retryAt (h : StoresWf s) {l r} : StoresWf (s.retryAt l r) := by
  unfold State.retryAt
  split
  · exact h
  · extract_lets s1
    have h1 : StoresWf s1 := h.upd
    clear_value s1
    split
    exacts [h1.answered, h1]

theorem StoresWf.modTxn (h : StoresWf s) {l f} : StoresWf (s.modTxn l f) := by
  unfold State.modTxn
  extract_lets d
  split
  exacts [h.setDir, h]

theorem StoresWf.resend (h : StoresWf s) {l r} : StoresWf (s.resend l r) := by
  unfold State.resend
  split
  exacts [h, .ite h.upd.modTxn.coh h.upd.send]

theorem StoresWf.pendTick (h : StoresWf s) {l} : StoresWf (s.pendTick l) :=
  h.foldl fun _ _ h => h.send

theorem StoresWf.pendAt (h : StoresWf s) {l r} : StoresWf (s.pendAt l r) := by
  unfold State.pendAt
  split
  · exact h
  · extract_lets s1
    have h1 : StoresWf s1 := h.upd
    clear_value s1
    split
    exacts [h1.answered, h1]

theorem StoresWf.biStart (h : StoresWf s) {l} : StoresWf (s.biStart l) := by
  unfold State.biStart
  extract_lets d kind kind2 x
  clear_value d kind kind2 x
  refine .ite h ?_
  split
  exacts [h, h.upd.out.out]

theorem StoresWf.biFinish (h : StoresWf s) {b lost} : StoresWf (s.biFinish b lost) := by
  unfold State.biFinish
  extract_lets l s1 owned s2 d d2 s3
  clear_value l owned d d2
  have h1 : StoresWf s1 := h.upd
  have h2 : StoresWf s2 := .ite h1.poisonLine (.ite h1 h1.arrayWrite)
  have h3 : StoresWf s3 := h2.setDir
  clear_value s1 s2 s3
  split
  · refine .ite ?_ ?_
    · extract_lets m s4 src s5
      clear_value m src
      have h4 : StoresWf s4 := h3.homeTable
      have h5 : StoresWf s5 := by
        unfold s5
        refine .ite ?_ ?_
        · refine .ite h3.homeDone ?_
          split
          next e => exact (StoresWf.snd2 e h3.homeData).send
        · split
          exacts [h4.setDir, h4.victDone]
      clear_value s4 s5
      exact h5.drainQueue
    · exact h2.setDir
  · exact h2.setDir

theorem StoresWf.biAnswer (h : StoresWf s) {l hi dirty conflict} : StoresWf (s.biAnswer l hi dirty conflict) := by
  unfold State.biAnswer
  split
  exacts [h, .ite h.out (.ite h.biFinish h.upd)]

theorem StoresWf.biLost (h : StoresWf s) {l} : StoresWf (s.biLost l) := by
  unfold State.biLost
  split
  exacts [h, .ite h h.biFinish.event]

theorem StoresWf.lineAsk (h : StoresWf s) {l me} : StoresWf (s.lineAsk l me) :=
  .ite h h.homeAct

theorem StoresWf.lineRead (h : StoresWf s) {l me} : StoresWf (s.lineRead l me).2 := by
  unfold State.lineRead
  split
  · exact .ite h.upd.send h.upd
  · refine .iteSnd ?_ ?_
    · split
      next e => exact StoresWf.snd2 e h.readLine
    · exact h.lineAsk

theorem StoresWf.uncRead (h : StoresWf s) {a n master} : StoresWf (s.uncRead a n master).2 := by
  unfold State.uncRead
  refine .iteSnd ?_ (h.foldl fun _ _ h => h.lineAsk)
  refine StoresWf.foldlBy (fun x : List Byte × Bool × State => x.2.2) h fun (_, _, _) _ h => ?_
  dsimp only
  split
  · next e => exact .snd e h.lineRead
  · next e => exact .snd e h.lineRead

theorem StoresWf.lineClear (h : StoresWf s) {l me} : StoresWf (s.lineClear l me) :=
  .ite h h.homeAct

theorem StoresWf.grantAll (h : StoresWf s) {a n me} : StoresWf (s.grantAll a n me).2 :=
  StoresWf.foldlBy (fun x : Bool × State => x.2) h fun _ _ h => h.grantOr

theorem StoresWf.uncWrite (h : StoresWf s) {a bs pois master} : StoresWf (s.uncWrite a bs pois master).2 := by
  unfold State.uncWrite
  extract_lets me
  refine .iteSnd ?_ ?_
  · split
    · next e => exact (StoresWf.snd e h.grantAll).poke
    · next e => exact StoresWf.snd e h.grantAll
  · exact h.foldl fun _ _ h => h.lineClear

theorem StoresWf.procLine (h : StoresWf s) {p l} : StoresWf (s.procLine p l).2 := by
  unfold State.procLine
  extract_lets k
  split
  · next e => exact (StoresWf.snd e h.wantLine).ccRead
  · next e => exact StoresWf.snd e h.wantLine
  · next e => exact (StoresWf.snd e h.wantLine).lineRead

theorem StoresWf.procRead (h : StoresWf s) {p l a n} : StoresWf (s.procRead p l a n).2 := by
  unfold State.procRead
  split
  · next e => exact StoresWf.snd e h.procLine
  · next e => exact StoresWf.snd e h.procLine

theorem StoresWf.hostMsg (h : StoresWf s) {r l} : StoresWf (s.hostMsg r l) :=
  h.send

theorem StoresWf.setReq (h : StoresWf s) {r r'} : StoresWf (s.setReq r r') :=
  h.upd

theorem StoresWf.hostAnswer (h : StoresWf s) {r} : StoresWf (s.hostAnswer r) :=
  h.out

theorem StoresWf.hostNext (h : StoresWf s) {r} : StoresWf (s.hostNext r) := by
  unfold State.hostNext
  split
  · extract_lets s1 src s2
    have h1 : StoresWf s1 := h.foldl fun _ _ h => h.send
    have h2 : StoresWf s2 := h1.upd
    exact .ite h2.hostAnswer h2
  · extract_lets r'
    refine .ite ?_ h.setReq.hostMsg
    split
    · next e => exact (StoresWf.snd e h.grantOr).setReq.hostMsg
    · next e => exact (StoresWf.snd e h.grantOr).setReq

theorem StoresWf.hostLineDone (h : StoresWf s) {r} : StoresWf (s.hostLineDone r) :=
  .ite h.hostNext h

theorem StoresWf.hostGot (h : StoresWf s) {l} : StoresWf (s.hostGot l) := by
  unfold State.hostGot
  split
  · exact h
  · extract_lets s1 got op src
    have h1 : StoresWf s1 := h.upd
    clear_value s1
    split
    exacts [h1, .hostLineDone (.setReq (.ite h1.setDir h1))]

theorem StoresWf.hostAck (h : StoresWf s) {l} : StoresWf (s.hostAck l) := by
  unfold State.hostAck
  split
  · exact h
  · extract_lets s1
    have h1 : StoresWf s1 := h.upd
    clear_value s1
    split
    exacts [h1, h1.setReq.hostLineDone]

theorem StoresWf.hostGrant (h : StoresWf s) {l} : StoresWf (s.hostGrant l) := by
  unfold State.hostGrant
  split
  exacts [h, h.setReq.hostMsg]

end

end Sys2Proof.Machine

namespace Sys2Proof.Machine

open Sys2Proof

/-! The canonical form through the processor's instructions, its exceptions and the memory's commands. -/

section
set_option Elab.async false
variable {s : State}

theorem StoresWf.setFault (h : StoresWf s) {p d} : StoresWf (s.setFault p d) :=
  h.modProc

theorem StoresWf.retire (h : StoresWf s) {p ss ip'} : StoresWf (s.retire p ss ip') :=
  h.modProc

/-- The state of what stands before an instruction's effect is in canonical form. -/
def Pre.Wf : Pre → Prop
  | .stall t | .go t => StoresWf t

/-- The state of a fetch is in canonical form. -/
def Fetch.Wf : Fetch → Prop
  | .ok t | .wait t => StoresWf t
  | .bad _ => True

theorem StoresWf.fetch (h : StoresWf s) {p} : (s.fetch p).Wf := by
  unfold State.fetch
  extract_lets q n k
  split
  · trivial
  · split
    · exact h
    · next l _ =>
      extract_lets bad s1
      have h1 : StoresWf s1 := .ite h.l1iCheck h
      clear_value s1
      split
      · exact h1
      · split
        · exact h1
        · split
          · next e => exact StoresWf.snd e h1.procLine
          · next e =>
            have h2 := StoresWf.snd e h1.procLine
            split
            · trivial
            · split
              exacts [h2.fillL1I, h2]

theorem StoresWf.pre (h : StoresWf s) {p illegal priv reads writes} : (s.pre p illegal priv reads writes).Wf := by
  have hf := h.fetch (p := p)
  unfold State.pre
  split
  · exact h
  · split
    · next e =>
      rw [e] at hf
      exact hf
    · exact h.setFault
    · next t e =>
      rw [e] at hf
      have ht : StoresWf t := hf
      dsimp only
      split
      · exact ht.setFault
      · split
        · exact ht.setFault
        · split
          exacts [ht, ht]

theorem StoresWf.issue (h : StoresWf s) {p illegal priv reads writes} {body : State → State} (hk : ∀ t, StoresWf t → StoresWf (body t)) :
    NextWf (s.issue p illegal priv reads writes body) := by
  have hp := h.pre (p := p) (illegal := illegal) (priv := priv) (reads := reads) (writes := writes)
  unfold State.issue
  split
  · next e =>
    rw [e] at hp
    exact .next hp
  · next e =>
    rw [e] at hp
    exact .next (hk _ hp)

theorem StoresWf.simple (h : StoresWf s) {p f} : StoresWf (s.simple p f) :=
  h.modProc

theorem StoresWf.rrOp (h : StoresWf s) {p f op} : NextWf (rrOp p f op s) :=
  h.issue fun _ h => h.simple

theorem StoresWf.riOp (h : StoresWf s) {p f bad op} : NextWf (riOp p f bad op s) :=
  h.issue fun _ h => h.simple

theorem StoresWf.execAdd (h : StoresWf s) {p f} : NextWf (execAdd p f s) :=
  h.rrOp

theorem StoresWf.execAddu (h : StoresWf s) {p f} : NextWf (execAddu p f s) :=
  h.rrOp

theorem StoresWf.execSub (h : StoresWf s) {p f} : NextWf (execSub p f s) :=
  h.rrOp

theorem StoresWf.execSubu (h : StoresWf s) {p f} : NextWf (execSubu p f s) :=
  h.rrOp

theorem StoresWf.execNeg (h : StoresWf s) {p f} : NextWf (execNeg p f s) :=
  h.issue fun _ h => h.simple

theorem StoresWf.execAnd (h : StoresWf s) {p f} : NextWf (execAnd p f s) :=
  h.rrOp

theorem StoresWf.execOr (h : StoresWf s) {p f} : NextWf (execOr p f s) :=
  h.rrOp

theorem StoresWf.execXor (h : StoresWf s) {p f} : NextWf (execXor p f s) :=
  h.rrOp

theorem StoresWf.execAndn (h : StoresWf s) {p f} : NextWf (execAndn p f s) :=
  h.rrOp

theorem StoresWf.execNor (h : StoresWf s) {p f} : NextWf (execNor p f s) :=
  h.rrOp

theorem StoresWf.execSlt (h : StoresWf s) {p f} : NextWf (execSlt p f s) :=
  h.rrOp

theorem StoresWf.execSltu (h : StoresWf s) {p f} : NextWf (execSltu p f s) :=
  h.rrOp

theorem StoresWf.execShl (h : StoresWf s) {p f} : NextWf (execShl p f s) :=
  h.rrOp

theorem StoresWf.execShr (h : StoresWf s) {p f} : NextWf (execShr p f s) :=
  h.rrOp

theorem StoresWf.execSar (h : StoresWf s) {p f} : NextWf (execSar p f s) :=
  h.rrOp

theorem StoresWf.execRor (h : StoresWf s) {p f} : NextWf (execRor p f s) :=
  h.rrOp

theorem StoresWf.execRol (h : StoresWf s) {p f} : NextWf (execRol p f s) :=
  h.rrOp

theorem StoresWf.execAddi (h : StoresWf s) {p f} : NextWf (execAddi p f s) :=
  h.riOp

theorem StoresWf.execAddiu (h : StoresWf s) {p f} : NextWf (execAddiu p f s) :=
  h.riOp

theorem StoresWf.execSlti (h : StoresWf s) {p f} : NextWf (execSlti p f s) :=
  h.riOp

theorem StoresWf.execSltiu (h : StoresWf s) {p f} : NextWf (execSltiu p f s) :=
  h.riOp

theorem StoresWf.execAndi (h : StoresWf s) {p f} : NextWf (execAndi p f s) :=
  h.riOp

theorem StoresWf.execOri (h : StoresWf s) {p f} : NextWf (execOri p f s) :=
  h.riOp

theorem StoresWf.execXori (h : StoresWf s) {p f} : NextWf (execXori p f s) :=
  h.riOp

theorem StoresWf.execLhi (h : StoresWf s) {p f} : NextWf (execLhi p f s) :=
  h.riOp

theorem StoresWf.execShli (h : StoresWf s) {p f} : NextWf (execShli p f s) :=
  h.riOp

theorem StoresWf.execShri (h : StoresWf s) {p f} : NextWf (execShri p f s) :=
  h.riOp

theorem StoresWf.execSari (h : StoresWf s) {p f} : NextWf (execSari p f s) :=
  h.riOp

theorem StoresWf.execRori (h : StoresWf s) {p f} : NextWf (execRori p f s) :=
  h.riOp

theorem StoresWf.mulOp (h : StoresWf s) {p f op flags psw} : NextWf (mulOp p f op flags psw s) :=
  h.issue fun _ h => h.simple

theorem StoresWf.execMul (h : StoresWf s) {p f} : NextWf (execMul p f s) :=
  h.mulOp

theorem StoresWf.execMulh (h : StoresWf s) {p f} : NextWf (execMulh p f s) :=
  h.mulOp

theorem StoresWf.execMulhu (h : StoresWf s) {p f} : NextWf (execMulhu p f s) :=
  h.mulOp

theorem StoresWf.divOp (h : StoresWf s) {p f op rem} : NextWf (divOp p f op rem s) :=
  h.issue (fun _ h => .ite h h.simple)

theorem StoresWf.execDiv (h : StoresWf s) {p f} : NextWf (execDiv p f s) :=
  h.divOp

theorem StoresWf.execDivu (h : StoresWf s) {p f} : NextWf (execDivu p f s) :=
  h.divOp

theorem StoresWf.execRem (h : StoresWf s) {p f} : NextWf (execRem p f s) :=
  h.divOp

theorem StoresWf.execRemu (h : StoresWf s) {p f} : NextWf (execRemu p f s) :=
  h.divOp

theorem StoresWf.execLongResultComplete (h : StoresWf s) {p n} : NextWf (execLongResultComplete p n s) := by
  unfold Machine.execLongResultComplete
  refine .next ?_
  split
  exacts [h.modProc, h]

theorem StoresWf.execBc (h : StoresWf s) {p f} : NextWf (execBc p f s) :=
  h.issue fun _ h => h.retire

theorem StoresWf.execCall (h : StoresWf s) {p f} : NextWf (execCall p f s) :=
  h.issue fun _ h => h.modProc.retire

theorem StoresWf.execJr (h : StoresWf s) {p f} : NextWf (execJr p f s) :=
  h.issue fun _ h => h.modProc.retire

theorem StoresWf.hostReads (h : StoresWf s) {a n} : StoresWf (s.hostReads a n) := by
  unfold State.hostReads
  refine h.foldl fun _ _ h => ?_
  split
  exact h.out

theorem StoresWf.hostWrites (h : StoresWf s) {a bs} : StoresWf (s.hostWrites a bs) := by
  unfold State.hostWrites
  refine h.foldl fun _ _ h => ?_
  split
  exact h.out

theorem StoresWf.loadAsk (h : StoresWf s) {p l} : StoresWf (s.loadAsk p l) := by
  unfold State.loadAsk
  extract_lets laps mark
  have hmark {t} (h : StoresWf t) : StoresWf (mark t) := h.modProc
  refine .ite h ?_
  split
  · split
    · next e =>
      have h1 := StoresWf.snd e h.wantLine
      exact .ite h1 (hmark h1.lineAsk)
    · next e =>
      have h2 := StoresWf.snd e h.wantLine
      exact .ite (hmark h2) h2
  · exact .ite h (.ite (hmark h.hostReads) (.ite (hmark h.rRead) (hmark h)))

theorem StoresWf.loadOp (h : StoresWf s) {p f kind} : NextWf (loadOp p f kind s) :=
  h.issue fun _ h => by
    extract_lets q off
    split
    · exact h.setFault
    · split
      · exact h.setProc
      · split
        exacts [h, .ite h.setProc h.setProc.loadAsk]

theorem StoresWf.execLb (h : StoresWf s) {p f} : NextWf (execLb p f s) :=
  h.loadOp

theorem StoresWf.execLbu (h : StoresWf s) {p f} : NextWf (execLbu p f s) :=
  h.loadOp

theorem StoresWf.execLh (h : StoresWf s) {p f} : NextWf (execLh p f s) :=
  h.loadOp

theorem StoresWf.execLhu (h : StoresWf s) {p f} : NextWf (execLhu p f s) :=
  h.loadOp

theorem StoresWf.execLw (h : StoresWf s) {p f} : NextWf (execLw p f s) :=
  h.loadOp

theorem StoresWf.execLfs (h : StoresWf s) {p f} : NextWf (execLfs p f s) :=
  h.loadOp

theorem StoresWf.execLfd (h : StoresWf s) {p f} : NextWf (execLfd p f s) :=
  h.loadOp

theorem StoresWf.execLlw (h : StoresWf s) {p f} : NextWf (execLlw p f s) :=
  h.loadOp

theorem StoresWf.pushStore (h : StoresWf s) {p q a seg bs} : StoresWf (s.pushStore p q a seg bs) :=
  h.setProc

theorem StoresWf.storeOp (h : StoresWf s) {p f n src val} : NextWf (storeOp p f n src val s) :=
  h.issue fun _ h => by
    extract_lets q off
    split
    · exact h.setFault
    · split
      exacts [h, .ite h.pushStore h]

theorem StoresWf.execSb (h : StoresWf s) {p f} : NextWf (execSb p f s) :=
  h.storeOp

theorem StoresWf.execSh (h : StoresWf s) {p f} : NextWf (execSh p f s) :=
  h.storeOp

theorem StoresWf.execSw (h : StoresWf s) {p f} : NextWf (execSw p f s) :=
  h.storeOp

theorem StoresWf.execSfs (h : StoresWf s) {p f} : NextWf (execSfs p f s) :=
  h.storeOp

theorem StoresWf.execSfd (h : StoresWf s) {p f} : NextWf (execSfd p f s) :=
  h.storeOp

theorem StoresWf.execStnt (h : StoresWf s) {p f} : NextWf (execStnt p f s) :=
  h.issue fun _ h => by
    extract_lets q off bs
    clear_value q off bs
    split
    · exact h.setFault
    · refine .ite (.ite h.pushStore h) ?_
      extract_lets l room
      clear_value l room
      split
      · exact h
      · extract_lets comb q2 full
        clear_value comb q2 full
        split
        exacts [h, h.setProc]

theorem StoresWf.scwFail (h : StoresWf s) {p rd} : StoresWf (s.scwFail p rd) :=
  h.simple

theorem StoresWf.scwDone (h : StoresWf s) {p rd} : StoresWf (s.scwDone p rd) :=
  h.simple

theorem StoresWf.linePg (h : StoresWf s) {k l persist} : StoresWf (s.linePg k l persist).2 := by
  unfold State.linePg
  refine .iteSnd h ?_
  have hg := h.grantOr (l := l) (r := cluAg k)
  split
  · next e =>
    have ht := StoresWf.snd e hg
    dsimp only
    split
    exacts [ht.setLine, ht]
  · exact hg

theorem StoresWf.scwStore (h : StoresWf s) {p f a l} : StoresWf (s.scwStore p f a l) := by
  unfold State.scwStore
  extract_lets k core q bs rel e
  split
  · next e => exact StoresWf.snd e h.wantLine
  · next e =>
    have h2 := StoresWf.snd e h.wantLine
    extract_lets ma
    refine .ite h2 ?_
    split
    · next e => exact StoresWf.snd e h2.linePg
    · next e => exact (StoresWf.snd e h2.linePg).modProc.cluWrite.scwDone
  · next e =>
    have h6 := StoresWf.snd e h.wantLine
    refine .ite ?_ ?_
    · split
      · next e => exact StoresWf.snd e (.iteSnd h6.grantOr h6)
      · next e => exact (StoresWf.snd e (.iteSnd h6.grantOr h6)).pokeLine.modProc.scwDone
    · exact h6.lineClear

theorem StoresWf.execScw (h : StoresWf s) {p f} : NextWf (execScw p f s) :=
  h.issue fun _ h => by
    extract_lets q off
    split
    · exact h.setFault.modProc
    · split
      · exact h
      · extract_lets s1
        have h1 : StoresWf s1 := h.setProc
        clear_value s1
        split
        exacts [h1.scwFail, .ite h1.scwFail (.ite h1 h1.scwStore)]

theorem StoresWf.barFinish (h : StoresWf s) {p b} : StoresWf (s.barFinish p b) :=
  .ite h.setProc h.setProc

theorem StoresWf.barOp (h : StoresWf s) {p f pbar} : NextWf (barOp p f pbar s) :=
  h.issue fun _ h => by
    extract_lets q
    split
    exacts [h, .ite h.setProc.barFinish h.setProc.setProc]

theorem StoresWf.execBar (h : StoresWf s) {p f} : NextWf (execBar p f s) :=
  h.barOp

theorem StoresWf.execPbar (h : StoresWf s) {p f} : NextWf (execPbar p f s) :=
  h.barOp

theorem StoresWf.execBarrierComplete (h : StoresWf s) {p} : NextWf (execBarrierComplete p s) := by
  unfold Machine.execBarrierComplete
  refine .next ?_
  split
  exacts [.ite h.barFinish h, h]

theorem StoresWf.sendPosted (h : StoresWf s) {p id l e} : StoresWf (s.sendPosted p id l e) :=
  h.modProc.send

theorem StoresWf.slotPost (h : StoresWf s) {p x l y} : StoresWf (s.slotPost p x l y) :=
  .ite h h.modProc.sendPosted

theorem StoresWf.slotWrite (h : StoresWf s) {p x l c} : StoresWf (s.slotWrite p x l c) :=
  .ite h (.ite h.modProc (.modProc (.foldl (.ite h.setLine h) fun _ _ h => h.cluWrite)))

theorem StoresWf.slotGo (h : StoresWf s) {p n} : StoresWf (s.slotGo p n) := by
  unfold State.slotGo
  extract_lets k
  split
  · exact h
  · split
    · exact h
    · split
      · exact h
      · split
        · split
          exacts [h.upd.modProc, h]
        · exact .ite h h.modProc
        · refine .ite h.slotPost ?_
          split
          · next e =>
            have h1 := StoresWf.snd e h.wantLine
            split
            exacts [h1.slotWrite, h1]
          · next e => exact StoresWf.snd e h.wantLine
          · next e => exact (StoresWf.snd e h.wantLine).slotPost

theorem StoresWf.newSlot (h : StoresWf s) {p q e st granted n t} (eq : s.newSlot p q e st granted = some (n, t)) : StoresWf t := by
  obtain ⟨i, -, hi⟩ := Option.map_eq_some_iff.1 eq
  obtain ⟨-, rfl⟩ := Prod.mk.inj hi
  exact h.setProc

theorem StoresWf.depart (h : StoresWf s) {p} : StoresWf (s.depart p) := by
  unfold State.depart
  extract_lets q k n
  split
  · exact h
  · exact .ite h.setProc h
  · refine .ite h ?_
    extract_lets pop
    split
    · split
      · exact h
      · next e =>
        have h1 := h.newSlot e
        exact .ite (.ite h1 h1.hostWrites) (.ite h1.rWrite h1)
    · extract_lets line l own pg
      split
      · exact h.setProc
      · refine .ite h.setProc.cluWrite ?_
        split
        · exact h
        · next e => exact (h.newSlot e).slotGo

theorem StoresWf.execStoreDepart (h : StoresWf s) {p} : NextWf (execStoreDepart p s) :=
  .next h.depart

theorem StoresWf.execOwnershipArrival (h : StoresWf s) {p n} : NextWf (execOwnershipArrival p n s) :=
  .next h.slotGo

theorem StoresWf.dropStore (h : StoresWf s) {p e} : StoresWf (s.dropStore p e) :=
  h.modProc.event

theorem StoresWf.dropStores (h : StoresWf s) {p x pick} : StoresWf (s.dropStores p x pick) :=
  .foldl (.modProc (.ite h.upd h)) fun _ _ h => h.dropStore

theorem StoresWf.dropSlot (h : StoresWf s) {p x} : StoresWf (s.dropSlot p x) :=
  h.dropStores

theorem StoresWf.execStoreTimeout (h : StoresWf s) {p n} : NextWf (execStoreTimeout p n s) := by
  unfold Machine.execStoreTimeout
  refine .next ?_
  split
  exacts [h, .ite h.dropStores h]

theorem StoresWf.forget (h : StoresWf s) {l me} : StoresWf (s.forget l me) :=
  .ite h.upd.send h.upd

theorem StoresWf.loadPoison (h : StoresWf s) {p n l pa} : StoresWf (s.loadPoison p n l pa) :=
  h.modProc

theorem StoresWf.readLost (h : StoresWf s) {p addr space} : StoresWf (s.readLost p addr space) :=
  h.event

theorem StoresWf.loadLost (h : StoresWf s) {p n l} : StoresWf (s.loadLost p n l) := by
  unfold State.loadLost
  extract_lets s1
  have h1 : StoresWf s1 := by
    unfold s1
    split
    exacts [h.forget, h]
  clear_value s1
  exact h1.loadPoison.readLost

theorem StoresWf.execLoadTimeout (h : StoresWf s) {p n} : NextWf (execLoadTimeout p n s) := by
  unfold Machine.execLoadTimeout
  refine .next ?_
  split
  exacts [h, .ite h.loadLost h]

theorem StoresWf.loadGets (h : StoresWf s) {p n l bs pois} : StoresWf (s.loadGets p n l bs pois) :=
  .ite h.loadPoison h.modProc

theorem StoresWf.execLlwBackoffExpiry (h : StoresWf s) {p} : NextWf (execLlwBackoffExpiry p s) := by
  unfold Machine.execLlwBackoffExpiry
  extract_lets q s1
  have h1 : StoresWf s1 := h.setProc
  clear_value s1
  refine .next ?_
  refine .ite h ?_
  split
  exacts [h1.loadAsk, h1]

theorem StoresWf.mstatLost (h : StoresWf s) {k} : StoresWf (s.mstatLost k) :=
  h.sg

theorem StoresWf.clearIall (h : StoresWf s) {p} : StoresWf (s.clearIall p) := by
  unfold State.clearIall
  extract_lets s1
  have h1 : StoresWf s1 := h.modCore
  clear_value s1
  split
  exacts [h1.modCore, h1]

theorem StoresWf.dstWrite (h : StoresWf s) {a p v} : StoresWf (s.dstWrite a p v) :=
  .ite h.setProc.modClu (.ite h.setProc h)

theorem StoresWf.istWrite (h : StoresWf s) {p v} : StoresWf (s.istWrite p v) :=
  .ite h.clearIall.modProc (.ite h.modProc h)

theorem StoresWf.l1invWrite (h : StoresWf s) {p v} : StoresWf (s.l1invWrite p v) :=
  .ite h.clearIall h

theorem StoresWf.onWrite (h : StoresWf s) {a off} {f : State → State} (hk : ∀ t, StoresWf t → StoresWf (f t)) : NextWf (s.onWrite a off f) :=
  .next (.ite (hk _ h) h)

theorem StoresWf.execL1DataDisable (h : StoresWf s) {a p} : NextWf (execL1DataDisable a p s) :=
  h.onWrite fun _ h => h.dstWrite

theorem StoresWf.execL1DataEnable (h : StoresWf s) {a p} : NextWf (execL1DataEnable a p s) :=
  h.onWrite fun _ h => h.dstWrite

theorem StoresWf.execL1InstructionDisable (h : StoresWf s) {a p} : NextWf (execL1InstructionDisable a p s) :=
  h.onWrite fun _ h => h.istWrite

theorem StoresWf.execL1InstructionEnable (h : StoresWf s) {a p} : NextWf (execL1InstructionEnable a p s) :=
  h.onWrite fun _ h => h.istWrite

theorem StoresWf.execL1invIall (h : StoresWf s) {a p} : NextWf (execL1invIall a p s) :=
  h.onWrite fun _ h => h.l1invWrite

theorem StoresWf.ccCtlWrite (h : StoresWf s) {a k v} : StoresWf (s.ccCtlWrite a k v) :=
  .ite h.sg.modClu (.ite h.sg h)

theorem StoresWf.execClusterCacheDisable (h : StoresWf s) {a k} : NextWf (execClusterCacheDisable a k s) :=
  h.onWrite fun _ h => h.ccCtlWrite

theorem StoresWf.execClusterCacheEnable (h : StoresWf s) {a k} : NextWf (execClusterCacheEnable a k s) :=
  h.onWrite fun _ h => h.ccCtlWrite

theorem StoresWf.jobRuns (h : StoresWf s) {k j} : StoresWf (s.jobRuns k j) :=
  h.sg

theorem StoresWf.jobEnd (h : StoresWf s) {k j status} : StoresWf (s.jobEnd k j status) :=
  .raiseIn (.modClu (.ite h.jobRuns.sg.modProc h.jobRuns.sg))

theorem StoresWf.mopWrite (h : StoresWf s) {a k op} : StoresWf (s.mopWrite a k op) :=
  .ite h.mstatLost (.ite h.jobEnd (.ite h.jobEnd (.ite h.jobEnd h.jobRuns.modClu)))

theorem StoresWf.execMopClean (h : StoresWf s) {a k} : NextWf (execMopClean a k s) :=
  h.onWrite fun _ h => h.mopWrite

theorem StoresWf.execMopCleanInvalidate (h : StoresWf s) {a k} : NextWf (execMopCleanInvalidate a k s) :=
  h.onWrite fun _ h => h.mopWrite

theorem StoresWf.execMopPreload (h : StoresWf s) {a k} : NextWf (execMopPreload a k s) :=
  h.onWrite fun _ h => h.mopWrite

theorem StoresWf.lockWrite (h : StoresWf s) {k v} : StoresWf (s.lockWrite k v) :=
  h.sg.modClu

theorem StoresWf.execCcLockWrite (h : StoresWf s) {a k v} : NextWf (execCcLockWrite a k v s) :=
  h.onWrite fun _ h => h.lockWrite

theorem StoresWf.pwrWrite (h : StoresWf s) {a k v} : StoresWf (s.pwrWrite a k v) :=
  .ite h.mstatLost (.ite h h.sg.modClu)

theorem StoresWf.execCcPwrWrite (h : StoresWf s) {a k v} : NextWf (execCcPwrWrite a k v s) :=
  h.onWrite fun _ h => h.pwrWrite

theorem StoresWf.dirLose (h : StoresWf s) {k l wrote} : StoresWf (s.dirLose k l wrote) := by
  unfold State.dirLose
  extract_lets d a gone d2
  have hgone {t d wrote} (h : StoresWf t) : StoresWf (gone t d wrote) := h.remoteBack.setDir
  split
  exacts [h, .ite (hgone h) h.setDir, .ite (hgone h) h, .ite (.ite (hgone h) h.setDir) h.setDir]

theorem StoresWf.purge (h : StoresWf s) {k l} : StoresWf (s.purge k l).2 := by
  unfold State.purge
  extract_lets s1 s2
  have h1 : StoresWf s1 := h.checkLine
  have h2 : StoresWf s2 := h1.dropL1D.dropL1I
  clear_value s1 s2
  split
  · exact h1
  · extract_lets dirty s3 s4
    have h3 : StoresWf s3 := .ite h2.homeWrite h2
    have h4 : StoresWf s4 := .ite h3 h3.dirLose
    clear_value s3 s4
    exact h4.killResvClu.dropLine

theorem StoresWf.purgeAll (h : StoresWf s) {k pick} : StoresWf (s.purgeAll k pick).2 := by
  refine StoresWf.foldlBy (fun x : Bool × State => x.2) h ?_
  rintro ⟨b, t⟩ ⟨l, c⟩ h
  refine .iteSnd ?_ h
  split
  next e => exact .snd e (.purge (s := t) h)

theorem StoresWf.preloadMove (h : StoresWf s) {k l c} : StoresWf (s.preloadMove k l c).2 := by
  unfold State.preloadMove
  split
  · exact h
  · exact h
  · refine .iteSnd h ?_
    extract_lets s1 s2
    have h1 : StoresWf s1 := h.ccLfsr
    have h2 : StoresWf s2 := by
      unfold s2
      split
      exacts [h1.evict, h1]
    clear_value s1 s2
    exact h2.setLine

theorem StoresWf.cleanStep (h : StoresWf s) {j inv l} : StoresWf (s.cleanStep j inv l).2.2 := by
  unfold State.cleanStep
  extract_lets me
  refine .iteSnd2 (.iteSnd2 h h) (.iteSnd2 ?_ ?_)
  · split
    next e => exact StoresWf.snd e (.iteSnd h.clinvLine h.cleanLine)
  · exact .iteSnd2 h.homeAct h

theorem StoresWf.preloadStep (h : StoresWf s) {k j l} : StoresWf (s.preloadStep k j l).2.2 := by
  unfold State.preloadStep
  refine .iteSnd2 h ?_
  extract_lets pal
  split
  · refine .iteSnd2 h (.iteSnd2 ?_ ?_)
    · split
      next e => exact StoresWf.snd e h.wantLine
    · refine .iteSnd2 h (.iteSnd2 h ?_)
      refine .iteSnd2 h ?_
      split
      · next e => exact StoresWf.snd e h.preloadMove
      · next e => exact StoresWf.snd e h.preloadMove
  · split
    next e => exact StoresWf.snd e h.wantLine

theorem StoresWf.rangeGo (h : StoresWf s) {k j op ls} : StoresWf (s.rangeGo k j op ls).2.2 := by
  induction ls generalizing s j with
  | nil => exact h
  | cons l ls ih =>
    have hl : StoresWf (if op = 2 then s.preloadStep k j l else s.cleanStep j (op = 1) l).2.2 := .iteSnd2 h.preloadStep h.cleanStep
    unfold State.rangeGo
    split
    · next e => exact StoresWf.snd2 e hl
    · next e => exact ih (StoresWf.snd2 e hl)

theorem StoresWf.l1Purge (h : StoresWf s) {p} : StoresWf (s.l1Purge p).2 := by
  unfold State.l1Purge
  extract_lets n k s1 bad s2 s3
  have h1 : StoresWf s1 := by
    unfold s1
    refine h.foldl fun _ _ h => ?_
    split
    exact .ite h.l1dCheck h
  have h2 : StoresWf s2 := by
    unfold s2
    refine h1.foldl fun _ _ h => ?_
    split
    exact h.killResvCore
  have h3 : StoresWf s3 := h2.modCore
  clear_value s1 s2 s3
  split
  exacts [h3.modCore, h3]

theorem StoresWf.maintEnd (h : StoresWf s) {k} : StoresWf (s.maintEnd k) := by
  unfold State.maintEnd
  split
  · exact h
  · split
    · split
      · next e => exact (StoresWf.snd2 e h.rangeGo).jobEnd
      · next e => exact (StoresWf.snd2 e h.rangeGo).modClu
    · extract_lets p
      split
      next e => exact (StoresWf.snd e h.l1Purge).modProc.jobEnd
    · refine .ite ?_ ?_
      · split
        next e => exact ((StoresWf.snd e h.purgeAll).foldl fun _ _ h => h.modCore).modClu.sg.jobEnd
      · exact h
    · extract_lets old off down pick
      refine .ite ?_ ?_
      · split
        next e => exact (StoresWf.snd e h.purgeAll).modClu.sg.jobEnd
      · exact h

theorem StoresWf.execMaintenanceJobEnd (h : StoresWf s) {k} : NextWf (execMaintenanceJobEnd k s) :=
  .next h.maintEnd

theorem StoresWf.ctlStart (h : StoresWf s) {k} : StoresWf (s.ctlStart k) := by
  unfold State.ctlStart
  extract_lets q
  split
  · extract_lets s1 old off lock s2
    have h1 : StoresWf s1 := h.jobRuns.modClu
    have h2 : StoresWf s2 := h1.sg
    clear_value s1 s2
    split
    exacts [.ite h2.jobEnd (.ite h2.jobEnd h1), h1]
  · exact h

theorem StoresWf.execControlJobStart (h : StoresWf s) {k} : NextWf (execControlJobStart k s) :=
  .next h.ctlStart

theorem StoresWf.searchEnd (h : StoresWf s) {k} : StoresWf (s.searchEnd k) := by
  unfold State.searchEnd
  split
  · exact h
  · extract_lets mine inSet others lost s1 s2 blk
    clear_value mine inSet others lost blk
    have h1 : StoresWf s1 := by
      unfold s1
      refine h.foldl fun _ _ h => ?_
      split
      exact h.dropL1D.dropL1I.killResvClu.modClu
    have h2 : StoresWf s2 := h1.modClu
    clear_value s1 s2
    split
    exacts [.event (.dirLose (.ite h2.poisonLine h2.homeWrite)), h2.event]

theorem StoresWf.execTagParitySearchComplete (h : StoresWf s) {k} : NextWf (execTagParitySearchComplete k s) :=
  .next h.searchEnd

theorem StoresWf.cmoOp (h : StoresWf s) {p f kind} : NextWf (cmoOp p f kind s) :=
  h.issue fun _ h => by
    extract_lets q
    split
    · exact h.setFault
    · split
      · exact h
      · extract_lets s1
        have h1 : StoresWf s1 := h.setProc.simple
        clear_value s1
        split
        exacts [h1, h1.modProc.send]

theorem StoresWf.execCmoClean (h : StoresWf s) {p f} : NextWf (execCmoClean p f s) :=
  h.cmoOp

theorem StoresWf.execCmoClinv (h : StoresWf s) {p f} : NextWf (execCmoClinv p f s) :=
  h.cmoOp

theorem StoresWf.execCmoIinv (h : StoresWf s) {p f} : NextWf (execCmoIinv p f s) :=
  h.issue fun _ h => by
    extract_lets q
    split
    · exact h.setFault
    · split
      · exact h
      · extract_lets s1
        have h1 : StoresWf s1 := h.setProc.simple
        clear_value s1
        split
        · exact h1
        · extract_lets s2
          have h2 : StoresWf s2 := h1.modCore
          clear_value s2
          split
          exacts [h2.modCore, h2]

theorem StoresWf.cmrOp (h : StoresWf s) {p f op} : NextWf (cmrOp p f op s) :=
  h.issue fun _ h => by
    extract_lets q a b done pa k j
    have hdone {t v} (h : StoresWf t) : StoresWf (done t v) := h.simple
    refine .ite (hdone h) ?_
    split
    · exact h.setFault
    · split
      exacts [h, .ite (hdone h.setProc) (hdone h.setProc.jobRuns.modClu)]

theorem StoresWf.execCmrClean (h : StoresWf s) {p f} : NextWf (execCmrClean p f s) :=
  h.cmrOp

theorem StoresWf.execCmrCleanInvalidate (h : StoresWf s) {p f} : NextWf (execCmrCleanInvalidate p f s) :=
  h.cmrOp

theorem StoresWf.execCmrPreload (h : StoresWf s) {p f} : NextWf (execCmrPreload p f s) :=
  h.cmrOp

theorem StoresWf.seenFall (h : StoresWf s) : StoresWf s.seenFall :=
  h.upd

theorem StoresWf.unpend (h : StoresWf s) {k j} : StoresWf (s.unpend k j) :=
  h.sg.seenFall

theorem StoresWf.claim (h : StoresWf s) {p} : StoresWf (s.claim p).2 := by
  unfold State.claim
  split
  exacts [h.unpend, h]

theorem StoresWf.crRead (h : StoresWf s) {p c} : StoresWf (s.crRead p c).2 := by
  unfold State.crRead
  extract_lets q k inst chk mine
  split
  exacts [h, h.claim, h, h, h, h, h, h]

theorem StoresWf.chkinjWrite (h : StoresWf s) {p v} : StoresWf (s.chkinjWrite p v) :=
  h.modProc

theorem StoresWf.snapReq (h : StoresWf s) {b} : StoresWf (s.snapReq b) :=
  .ite h h.upd

theorem StoresWf.rsnapWrite (h : StoresWf s) {p} : StoresWf (s.rsnapWrite p) :=
  h.modProc.snapReq

theorem StoresWf.crWrite (h : StoresWf s) {a p c v} : StoresWf (s.crWrite a p c v) := by
  unfold State.crWrite
  refine .ite h ?_
  split
  · exact .ite h.rsnapWrite h
  · exact h.chkinjWrite
  · exact h.dstWrite.istWrite
  · exact h.l1invWrite
  · split
    exacts [h.modProc.seenFall, h]

theorem StoresWf.ownRead (h : StoresWf s) {p a n} : StoresWf (s.ownRead p a n).2 := by
  unfold State.ownRead
  split
  · exact h
  · exact h
  · exact StoresWf.foldlBy (fun x : Option (List Byte × Bool) × State => x.2) h fun _ _ h => h.procRead

theorem StoresWf.execSegld (h : StoresWf s) {p f} : NextWf (execSegld p f s) :=
  h.issue fun _ h => by
    extract_lets q i dtb due a take
    have htake {t bs} (h : StoresWf t) : StoresWf (take t bs) := by
      unfold take
      extract_lets d
      split
      exacts [h.setFault, h.simple]
    refine .ite h.setFault (.ite h.setFault ?_)
    refine .ite h.setFault ?_
    split
    · next e =>
      have h1 := StoresWf.snd e h.ownRead
      exact .ite h1.setFault (htake h1)
    · next e => exact StoresWf.snd e h.ownRead

theorem StoresWf.execSegix (h : StoresWf s) {p f} : NextWf (execSegix p f s) :=
  h.issue fun _ h => h.simple

theorem StoresWf.execRdpsw (h : StoresWf s) {p f} : NextWf (execRdpsw p f s) :=
  h.issue (fun _ h => .ite h h.simple)

theorem StoresWf.execWrpsw (h : StoresWf s) {p f} : NextWf (execWrpsw p f s) :=
  h.issue (fun _ h => .ite h h.modProc)

theorem StoresWf.execRdfpsw (h : StoresWf s) {p f} : NextWf (execRdfpsw p f s) :=
  h.issue (fun _ h => .ite h h.simple)

theorem StoresWf.execWrfpsw (h : StoresWf s) {p f} : NextWf (execWrfpsw p f s) :=
  h.issue (fun _ h => .ite h h.simple)

theorem StoresWf.execRdtime (h : StoresWf s) {p f} : NextWf (execRdtime p f s) :=
  h.issue fun _ h => h.simple

theorem StoresWf.execRfe (h : StoresWf s) {p f} : NextWf (execRfe p f s) :=
  h.issue fun _ h => h.modProc

theorem StoresWf.execHalt (h : StoresWf s) {p f} : NextWf (execHalt p f s) :=
  h.issue fun _ h => by
    split
    exacts [h, h.setProc.simple]

theorem StoresWf.execWait (h : StoresWf s) {p f} : NextWf (execWait p f s) :=
  h.issue fun _ h => by
    split
    exacts [h, h.setProc]

theorem StoresWf.execMfcr (h : StoresWf s) {p f} : NextWf (execMfcr p f s) :=
  h.issue fun _ h => by
    split
    next e => exact (StoresWf.snd e h.crRead).simple

theorem StoresWf.execMtcr (h : StoresWf s) {p f} : NextWf (execMtcr p f s) :=
  h.issue fun _ h => h.simple.crWrite

theorem StoresWf.codeTrap (h : StoresWf s) {p f code} : NextWf (codeTrap p f code s) :=
  h.issue fun _ h => h.setFault

theorem StoresWf.execSvc (h : StoresWf s) {p f} : NextWf (execSvc p f s) :=
  h.codeTrap

theorem StoresWf.execBrk (h : StoresWf s) {p f} : NextWf (execBrk p f s) :=
  h.codeTrap

theorem StoresWf.routineOp (h : StoresWf s) {p f fn useA useB} : NextWf (routineOp p f fn useA useB s) :=
  h.issue fun _ h => h.modProc

theorem StoresWf.execBmove (h : StoresWf s) {p f} : NextWf (execBmove p f s) :=
  h.routineOp

theorem StoresWf.execBfill (h : StoresWf s) {p f} : NextWf (execBfill p f s) :=
  h.routineOp

theorem StoresWf.execBcmp (h : StoresWf s) {p f} : NextWf (execBcmp p f s) :=
  h.routineOp

theorem StoresWf.execBscan (h : StoresWf s) {p f} : NextWf (execBscan p f s) :=
  h.routineOp

theorem StoresWf.execCksum (h : StoresWf s) {p f} : NextWf (execCksum p f s) :=
  h.routineOp

theorem StoresWf.entryFails (h : StoresWf s) {p code} : StoresWf (s.entryFails p code) :=
  h.modProc.event

theorem StoresWf.enterVector (h : StoresWf s) {p d entry} : StoresWf (s.enterVector p d entry) := by
  unfold State.enterVector
  split
  exacts [h.entryFails, .ite h.modProc h.entryFails]

theorem StoresWf.enter (h : StoresWf s) {p d} : StoresWf (s.enter p d).2 := by
  unfold State.enter
  extract_lets q go
  have hgo {t e} (h : StoresWf t) : StoresWf (go t e).2 := h.modProc.enterVector
  refine .iteSnd h.entryFails (.iteSnd h ?_)
  split
  · exact h
  · extract_lets a s1
    have h1 : StoresWf s1 := h.setProc
    clear_value s1
    refine .iteSnd (hgo h1) ?_
    split
    · next e => exact hgo (StoresWf.snd e h1.ownRead)
    · next e => exact StoresWf.snd e h1.ownRead

theorem StoresWf.waitEnds (h : StoresWf s) {p} : StoresWf (s.waitEnds p) := by
  unfold State.waitEnds
  extract_lets s1
  have h1 : StoresWf s1 := h.simple
  clear_value s1
  split
  · split
    · next e => exact StoresWf.snd e h1.enter
    · next e => exact (StoresWf.snd e h1.enter).setProc
  · exact h1

theorem StoresWf.execExceptionEntry (h : StoresWf s) {p word} : NextWf (execExceptionEntry p word s) := by
  have hf : (s.fetch p).Wf := h.fetch
  refine .next (.ite h ?_)
  refine .ite (.ite h.waitEnds h) ?_
  split
  · exact h.enter
  · refine .ite ?_ h
    split
    · next e => exact (e ▸ hf : Fetch.Wf (.wait _))
    · exact h.setFault.enter
    · next e => exact StoresWf.enter (e ▸ hf : Fetch.Wf (.ok _))

theorem StoresWf.execInterruptLineEvent (h : StoresWf s) {src} : NextWf (execInterruptLineEvent src s) := by
  unfold Machine.execInterruptLineEvent
  refine .next ?_
  split
  exacts [h.raiseIn, h.raiseIn, h.raise, h.raise, h.raise, h.raise, h.raise, h.raise, h.raise, h.raise]

theorem StoresWf.execIack (h : StoresWf s) {p} : NextWf (execIack p s) := by
  unfold Machine.execIack
  split
  next e => exact .next (StoresWf.snd e h.claim).out

theorem StoresWf.ipiWrite (h : StoresWf s) {k v} : StoresWf (s.ipiWrite k v) :=
  h.foldl fun _ _ h => .ite h.pend h

theorem StoresWf.execCluIpi (h : StoresWf s) {a k v} : NextWf (execCluIpi a k v s) :=
  h.onWrite fun _ h => h.ipiWrite

theorem StoresWf.timerCheck (h : StoresWf s) {p} : StoresWf (s.timerCheck p) :=
  .ite h.setProc h

theorem StoresWf.execTimerCompareReached (h : StoresWf s) {p} : NextWf (execTimerCompareReached p s) :=
  .next (.ite h.timerCheck h)

theorem StoresWf.bootWrite (h : StoresWf s) : StoresWf s.bootWrite :=
  h.upd

theorem StoresWf.setSpare (h : StoresWf s) {k v} : StoresWf (s.setSpare k v) :=
  .ite h.sg h.sg.bootWrite

theorem StoresWf.setRetired (h : StoresWf s) {k c b} : StoresWf (s.setRetired k c b) :=
  h.setSpare

theorem StoresWf.setChkBad (h : StoresWf s) {k c} : StoresWf (s.setChkBad k c) :=
  h.setSpare

theorem StoresWf.setSuspect (h : StoresWf s) {k c b} : StoresWf (s.setSuspect k c b) :=
  h.setSpare

theorem StoresWf.setSpareIdx (h : StoresWf s) {k c} : StoresWf (s.setSpareIdx k c) :=
  h.setSpare

theorem StoresWf.setMap (h : StoresWf s) {k t c} : StoresWf (s.setMap k t c) :=
  h.sg

theorem StoresWf.spEvent (h : StoresWf s) {p code sev cls c1 c2 kind} : StoresWf (s.spEvent p code sev cls c1 c2 kind) :=
  h.event

theorem StoresWf.clearL1 (h : StoresWf s) {n} : StoresWf (s.clearL1 n) :=
  h.modCore

theorem StoresWf.raiseSp (h : StoresWf s) {k} : StoresWf (s.raiseSp k) :=
  h.raiseIn

theorem StoresWf.unpause (h : StoresWf s) {p us sub} : StoresWf (s.unpause p us sub) :=
  h.modProc

theorem StoresWf.loseProc (h : StoresWf s) {p} : StoresWf (s.loseProc p) := by
  unfold State.loseProc
  extract_lets s1 s2
  have h1 : StoresWf s1 := h.modProc
  have h2 : StoresWf s2 := h1.badSlots
  clear_value s1 s2
  split
  exacts [h2.report, h2]

theorem StoresWf.transient (h : StoresWf s) {p kind} : StoresWf (s.transient p kind) := by
  unfold State.transient
  extract_lets q k mism checked esc last src q2 src2 lead sp s1 s2 t s3 s4 s5 t2 s6 s7 due s8
  have h1 : StoresWf s1 := h.setProc.l1Purge
  have h2 : StoresWf s2 := h1.modProc
  have h3 : StoresWf s3 := h2.modClu
  have h4 : StoresWf s4 := h1.clearL1.clearL1.setMap.setRetired.setSpareIdx
  have h5 : StoresWf s5 := h4.unpause.tick1
  have h6 : StoresWf s6 := h5.modClu
  have h7 : StoresWf s7 := h6.spEvent
  have h8 : StoresWf s8 := h1.modProc
  clear_value s1 s2 s3 s4 s5 s6 s7 s8
  exact .ite h (.ite h (.ite h.setProc (.ite h3.spEvent (.ite h7.spEvent.raiseSp h8.spEvent))))

theorem StoresWf.execDetectedTransient (h : StoresWf s) {p kind} : NextWf (execDetectedTransient p kind s) :=
  .next h.transient

theorem StoresWf.execComparatorMismatch (h : StoresWf s) {p kind} : NextWf (execComparatorMismatch p kind s) :=
  .next (.ite h h.transient)

theorem StoresWf.placePair (h : StoresWf s) {p lead chk failed spareLeft} : StoresWf (s.placePair p lead chk failed spareLeft) :=
  (h.setMap.setMap.setRetired.setSpareIdx.foldl fun _ _ h => .ite h.clearL1 h).modProc

theorem StoresWf.selfTest (h : StoresWf s) {k leadOk chkOk} : StoresWf (s.selfTest k leadOk chkOk) := by
  unfold State.selfTest
  split
  · exact h
  · extract_lets s1 p kind lead chk sp s2 s3 s4 s5 undiag surv failed s6 hasSp s7 s8 s9
    have h1 : StoresWf s1 := h.modClu
    have h2 : StoresWf s2 := h1.setRetired.setRetired
    have h3 : StoresWf s3 := h2.setMap.setMap
    have h4 : StoresWf s4 := h3.clearL1.clearL1
    have h5 : StoresWf s5 := h4.loseProc.modProc
    have h6 : StoresWf s6 := .ite h1.setSuspect h1
    have h7 : StoresWf s7 := .ite (.ite h6.placePair (.ite h6.placePair h6.placePair)) h6.placePair
    have h8 : StoresWf s8 := h7.unpause
    have h9 : StoresWf s9 := .ite h8.spEvent (.ite h8.spEvent h8.spEvent)
    clear_value s1 s2 s3 s4 s5 s6 s7 s8 s9
    exact .ite (.ite h1.setSuspect.spEvent h1) (.ite h5.spEvent.raiseSp (.ite h9.raiseSp h9))

theorem StoresWf.execSelfTestOutcome (h : StoresWf s) {k leadOk chkOk} : NextWf (execSelfTestOutcome k leadOk chkOk s) :=
  .next h.selfTest

theorem StoresWf.pathFault (h : StoresWf s) {k c} : StoresWf (s.pathFault k c) := by
  unfold State.pathFault
  refine .ite h ?_
  split
  exacts [h, .raiseSp (.spEvent (.ite h.setChkBad h.setChkBad.modProc))]

theorem StoresWf.execCheckerPathFault (h : StoresWf s) {k core} : NextWf (execCheckerPathFault k core s) :=
  .next h.pathFault

theorem StoresWf.execAgreementExchangeDelivery (h : StoresWf s) {p} : NextWf (execAgreementExchangeDelivery p s) := by
  unfold Machine.execAgreementExchangeDelivery
  refine .next ?_
  refine .ite ?_ ?_
  · extract_lets s1
    have h1 : StoresWf s1 := by
      unfold s1
      split
      · next e =>
        have h2 := h.injHit e
        split
        exacts [.ite h2 h2.pathFault, h2]
      · exact h
    clear_value s1
    exact h1.modProc
  · exact h

theorem StoresWf.moveCore (h : StoresWf s) {p t} : StoresWf (s.moveCore p t) := by
  unfold State.moveCore
  extract_lets k old sp s1 s2 s3 s4
  have h1 : StoresWf s1 := h.l1Purge.setMap.setSpareIdx
  have h2 : StoresWf s2 := h1.clearL1.clearL1
  have h3 : StoresWf s3 := .ite h2.clearL1 h2
  have h4 : StoresWf s4 := .ite h3.modProc h3
  clear_value s1 s2 s3 s4
  exact h4.unpause.tick1.raiseSp

theorem StoresWf.execQuietPointCheckerMove (h : StoresWf s) {p} : NextWf (execQuietPointCheckerMove p s) :=
  .next (.ite h.moveCore h)

theorem StoresWf.spStatus (h : StoresWf s) {k st} : StoresWf (s.spStatus k st) :=
  h.sg

theorem StoresWf.spBusy (h : StoresWf s) {k} {f : State → State} (hk : ∀ t, StoresWf t → StoresWf (f t)) : StoresWf (s.spBusy k f) :=
  .ite (hk _ h) h.sg

theorem StoresWf.spMove (h : StoresWf s) {k slot} : StoresWf (s.spMove k slot) :=
  h.spBusy (fun _ h => .ite h.moveCore.spStatus h.spStatus)

theorem StoresWf.execSpctlMove (h : StoresWf s) {a k slot} : NextWf (execSpctlMove a k slot s) :=
  h.onWrite fun _ h => h.spMove

theorem StoresWf.spRetest (h : StoresWf s) {k c pass} : StoresWf (s.spRetest k c pass) :=
  h.spBusy (fun _ h => .ite h.spStatus (.ite h.spStatus (.ite h.spStatus h.setRetired.setSuspect.setSpareIdx.spStatus)))

theorem StoresWf.execSpctlRetest (h : StoresWf s) {a k core pass} : NextWf (execSpctlRetest a k core pass s) :=
  h.onWrite fun _ h => h.spRetest

theorem StoresWf.execChkinjMism (h : StoresWf s) {p} : NextWf (execChkinjMism p s) :=
  .next (.ite h.chkinjWrite h)

theorem StoresWf.execChkinjCpf (h : StoresWf s) {p} : NextWf (execChkinjCpf p s) :=
  .next (.ite h.chkinjWrite h)

theorem StoresWf.execChkinjPar (h : StoresWf s) {p} : NextWf (execChkinjPar p s) :=
  .next (.ite h.chkinjWrite h)

theorem StoresWf.execRsnapReq (h : StoresWf s) {p} : NextWf (execRsnapReq p s) :=
  .next (.ite h.rsnapWrite h)

theorem StoresWf.execCluModeNext (h : StoresWf s) {a k v} : NextWf (execCluModeNext a k v s) :=
  h.onWrite fun _ h => h.sg.bootWrite

theorem StoresWf.onLine (h : StoresWf s) {l} {f : State → State} (hk : ∀ t, StoresWf t → StoresWf (f t)) : NextWf (s.onLine l f) :=
  .ite (.next (hk _ h)) .fault

theorem StoresWf.execMainStoreReadResult (h : StoresWf s) {line err m} : NextWf (execMainStoreReadResult line err m s) :=
  h.onLine fun _ h => by
    refine .ite h ?_
    split
    next e => exact (StoresWf.snd2 e h.arrayRead).out

theorem StoresWf.scrubNext (h : StoresWf s) {st} : StoresWf (s.scrubNext st) :=
  .ite h.modStack.sg h.modStack.sg.event

theorem StoresWf.scrubFound (h : StoresWf s) {st l outs} : StoresWf (s.scrubFound st l outs) :=
  h.correct.wordEvent.modStack

theorem StoresWf.scrubRepair (h : StoresWf s) {st l d pois} : StoresWf (s.scrubRepair st l d pois) := by
  unfold State.scrubRepair
  split
  exact h.arrayLine.event.scrubNext

theorem StoresWf.scrub (h : StoresWf s) {st} : StoresWf (s.scrub st) := by
  unfold State.scrub
  extract_lets l me outs broken
  split
  · split
    · next e =>
      have h1 := StoresWf.snd e h.lineRead
      exact .ite h1.scrubRepair h1.scrubNext
    · next e => exact StoresWf.snd e h.lineRead
  · refine .ite h.scrubNext (.ite h ?_)
    split
    · extract_lets s3
      have h3 : StoresWf s3 := h.checkLine
      clear_value s3
      split
      exacts [h3.scrubFound.scrubRepair, h3]
    · exact .ite h.scrubFound.lineAsk h.arrayRead.scrubNext

theorem StoresWf.execScrubRead (h : StoresWf s) {st} : NextWf (execScrubRead st s) :=
  .next (.ite h.scrub h)

theorem StoresWf.execErrsnapReq (h : StoresWf s) {a} : NextWf (execErrsnapReq a s) :=
  h.onWrite fun _ h => h.sg.snapReq

theorem StoresWf.execDirsnapReq (h : StoresWf s) {a} : NextWf (execDirsnapReq a s) :=
  h.onWrite fun _ h => h.sg.snapReq

theorem StoresWf.grantTo (h : StoresWf s) {l r} : StoresWf (s.grantTo l r) := by
  unfold State.grantTo
  split
  · extract_lets k s1
    have h1 : StoresWf s1 := by
      unfold s1
      split
      exacts [.ite h h.setLine, h]
    clear_value s1
    exact h1.foldl fun _ _ h => (h.foldl fun _ _ h => .ite (.ite h.modProc.slotGo h.modProc) h)
  · exact h.hostGrant
  · exact h

theorem StoresWf.persistAsk (h : StoresWf s) {l r} : StoresWf (s.persistAsk l r) := by
  unfold State.persistAsk
  split
  · extract_lets waits
    refine .ite h ?_
    split
    · next e => exact (StoresWf.snd e h.grantOr).grantTo
    · next e => exact StoresWf.snd e h.grantOr
  · exact h

theorem StoresWf.execPersistGrantRequest (h : StoresWf s) {line r} : NextWf (execPersistGrantRequest line r s) :=
  h.onLine fun _ h => h.persistAsk

theorem StoresWf.serveHeld (h : StoresWf s) {st} : StoresWf (s.serveHeld st) := by
  unfold State.serveHeld
  split
  · exact h
  · split
    · exact h
    · next e => exact (h.tryGrant e).modStack.grantTo.stallEnd

theorem StoresWf.execHeldGrantServed (h : StoresWf s) {st} : NextWf (execHeldGrantServed st s) :=
  .next h.serveHeld

theorem StoresWf.deadRow (h : StoresWf s) {l i ok} : StoresWf (s.deadRow l i ok) :=
  h.upd.unopened.coh

theorem StoresWf.msgRow (h : StoresWf s) {l r ok} : StoresWf (s.msgRow l r ok) := by
  unfold State.msgRow
  split
  exacts [.ite h.deadRow h.homeRow, h.homeRow]

theorem StoresWf.reqRow (h : StoresWf s) {l r kind} : StoresWf (s.reqRow l r kind) := by
  unfold State.reqRow
  extract_lets here new
  have hnew {tag} : StoresWf (new tag) := h.homeAct
  split
  exacts [.ite h.homeRow hnew, .ite h.msgRow hnew, h.homeRow]

theorem StoresWf.execRds (h : StoresWf s) {line r} : NextWf (execRds line r s) :=
  h.onLine fun _ h => h.reqRow

theorem StoresWf.execRdx (h : StoresWf s) {line r} : NextWf (execRdx line r s) :=
  h.onLine fun _ h => h.reqRow

theorem StoresWf.execUpg (h : StoresWf s) {line r} : NextWf (execUpg line r s) :=
  h.onLine fun _ h => h.reqRow

theorem StoresWf.execWb (h : StoresWf s) {line r} : NextWf (execWb line r s) :=
  h.onLine fun _ h => h.msgRow

theorem StoresWf.execEvc (h : StoresWf s) {line r} : NextWf (execEvc line r s) :=
  h.onLine fun _ h => h.reqRow

theorem StoresWf.execRdu (h : StoresWf s) {line r} : NextWf (execRdu line r s) :=
  h.onLine fun _ h => h.reqRow

theorem StoresWf.execWrf (h : StoresWf s) {line r} : NextWf (execWrf line r s) :=
  h.onLine fun _ h => h.msgRow

theorem StoresWf.execWrp (h : StoresWf s) {line r} : NextWf (execWrp line r s) :=
  h.onLine fun _ h => h.msgRow

theorem StoresWf.execCln (h : StoresWf s) {line r} : NextWf (execCln line r s) :=
  h.onLine fun _ h => h.reqRow

theorem StoresWf.execClinv (h : StoresWf s) {line r} : NextWf (execClinv line r s) :=
  h.onLine fun _ h => h.reqRow

theorem StoresWf.execFwds (h : StoresWf s) {line r} : NextWf (execFwds line r s) :=
  h.onLine fun _ h => h.fwdRow

theorem StoresWf.execFwdx (h : StoresWf s) {line r} : NextWf (execFwdx line r s) :=
  h.onLine fun _ h => h.fwdRow

theorem StoresWf.execFwdu (h : StoresWf s) {line r} : NextWf (execFwdu line r s) :=
  h.onLine fun _ h => h.fwdRow

theorem StoresWf.toMember (h : StoresWf s) {l r ok} : StoresWf (s.toMember l r ok) := by
  unfold State.toMember
  split
  · exact h
  · split
    exacts [h.upd.sendMember, h]

theorem StoresWf.execInv (h : StoresWf s) {line r} : NextWf (execInv line r s) :=
  h.onLine fun _ h => by
    split
    exacts [h.toMember, h.invAt]

theorem StoresWf.execRecall (h : StoresWf s) {line r} : NextWf (execRecall line r s) :=
  h.onLine fun _ h => by
    split
    exacts [h.toMember, h.recallAt]

theorem StoresWf.execDataGrant (h : StoresWf s) {line r} : NextWf (execDataGrant line r s) :=
  h.onLine fun _ h => by
    split
    · exact h.grantAt
    · exact h.hostGot
    · exact h.toMember
    · split
      · extract_lets s1
        have h1 : StoresWf s1 := h.upd.out
        clear_value s1
        exact .ite h1.send h1
      · exact h

theorem StoresWf.execInvAck (h : StoresWf s) {line r} : NextWf (execInvAck line r s) :=
  h.onLine fun _ h => by
    refine .ite h.hostAck ?_
    split
    exacts [.ite h.toMember h.ackAt, h.ackAt]

theorem StoresWf.execCmp (h : StoresWf s) {line r} : NextWf (execCmp line r s) :=
  h.onLine fun _ h => h.cmpAt

theorem StoresWf.execWback (h : StoresWf s) {line r} : NextWf (execWback line r s) :=
  h.onLine fun _ h => by
    split
    exacts [h.hostGot, h.toMember, h.evbFree]

theorem StoresWf.execEvack (h : StoresWf s) {line r} : NextWf (execEvack line r s) :=
  h.onLine fun _ h => by
    split
    exacts [h.hostGot, h.toMember, h.evbFree]

theorem StoresWf.execRetry (h : StoresWf s) {line r} : NextWf (execRetry line r s) :=
  h.onLine fun _ h => by
    split
    exacts [h.toMember, h.retryAt]

theorem StoresWf.execRetryBackoffExpiry (h : StoresWf s) {line r} : NextWf (execRetryBackoffExpiry line r s) :=
  h.onLine fun _ h => h.resend

theorem StoresWf.execPersistentReservationExpiry (h : StoresWf s) {line r} : NextWf (execPersistentReservationExpiry line r s) :=
  h.onLine fun _ h => h.modStack

theorem StoresWf.execPending (h : StoresWf s) {line r} : NextWf (execPending line r s) :=
  h.onLine fun _ h => by
    split
    exacts [h.toMember, h.pendAt]

theorem StoresWf.execPendingTick (h : StoresWf s) {line} : NextWf (execPendingTick line s) :=
  h.onLine fun _ h => h.pendTick

theorem StoresWf.biGo (h : StoresWf s) {l} : StoresWf (s.biGo l) := by
  unfold State.biGo
  extract_lets s1
  have h1 : StoresWf s1 := h.biStart
  clear_value s1
  refine .ite ?_ ?_
  · split
    exacts [h1.biFinish.event, h1]
  · exact h1

theorem StoresWf.execBackInvalidation (h : StoresWf s) {line} : NextWf (execBackInvalidation line s) :=
  h.onLine fun _ h => h.biGo

theorem StoresWf.execBackInvalidationTimeout (h : StoresWf s) {line} : NextWf (execBackInvalidationTimeout line s) :=
  h.onLine fun _ h => by
    split
    exacts [.ite h h.biLost.cxlEvt, h]

theorem StoresWf.execBackInvalidationResponse (h : StoresWf s) {line hi dirty conflict} :
    NextWf (execBackInvalidationResponse line hi dirty conflict s) :=
  h.onLine fun _ h => h.biAnswer

theorem StoresWf.settle (h : StoresWf s) {m} : StoresWf (s.settle m) := by
  unfold State.settle
  extract_lets l g s1 g2 g3
  have h1 : StoresWf s1 := h.poisonLine
  clear_value s1
  split
  exacts [h.send, h.poisonLine.homeBack, h.poisonLine.homeBack, h1.send, h1.send, h1.send, h]

theorem StoresWf.execMemberLost (h : StoresWf s) {m} : NextWf (execMemberLost m s) := by
  unfold Machine.execMemberLost
  extract_lets a owed s1 s2 s3
  have h1 : StoresWf s1 := h.upd
  have h2 : StoresWf s2 := by
    unfold s2
    refine h1.foldl fun _ _ h => ?_
    split
    exact .ite h.poisonLine.setDir (.ite h.setDir h)
  have h3 : StoresWf s3 := h2.foldl fun _ _ h => h.settle
  clear_value s1 s2 s3
  exact .ite (.next h) (.next h3.upd.event)

theorem StoresWf.cgctlSet (h : StoresWf s) {v} : StoresWf (s.cgctlSet v) :=
  h.sg.upd

theorem StoresWf.execCgctlWrite (h : StoresWf s) {a v} : NextWf (execCgctlWrite a v s) :=
  h.onWrite fun _ h => h.cgctlSet

theorem StoresWf.setEnt (h : StoresWf s) {q seq e} : StoresWf (s.setEnt q seq e) :=
  h.upd

theorem StoresWf.elcStatus (h : StoresWf s) {i} : StoresWf (s.elcStatus i) :=
  h.sg.raise

theorem StoresWf.mirSend (h : StoresWf s) {ring key sync} : StoresWf (s.mirSend ring key sync) := by
  unfold State.mirSend
  extract_lets q seq tag w
  split
  exact h.upd.fab

theorem StoresWf.injOr (h : StoresWf s) {b c n x} (e : (match s.injHit b c n with | some x => x | none => (0, s)) = x) : StoresWf x.2 := by
  subst e
  split
  exacts [h.injHit ‹_›, h]

theorem StoresWf.entWrite (h : StoresWf s) {q seq e} : StoresWf (s.entWrite q seq e) := by
  unfold State.entWrite
  extract_lets s1
  have h1 : StoresWf s1 := h.upd
  clear_value s1
  split
  next e =>
  have h2 := StoresWf.injOr h1 e
  split
  next e =>
  have h3 := StoresWf.snd e (StoresWf.tungInj h2)
  exact .ite h3.setEnt.mirSend h3.setEnt

theorem StoresWf.ringWrite (h : StoresWf s) {q} : StoresWf (s.ringWrite q) := by
  unfold State.ringWrite
  split
  next e =>
  have h1 := StoresWf.snd e h.tungInj
  exact .ite h1.modRp.mirSend h1.modRp

theorem StoresWf.ringVec (h : StoresWf s) {q vec} : StoresWf (s.ringVec q vec) := by
  unfold State.ringVec
  split
  exacts [h.msix, h]

theorem StoresWf.ringError (h : StoresWf s) {q c idx} : StoresWf (s.ringError q c idx) := by
  unfold State.ringError
  extract_lets s1 a s2
  have h1 : StoresWf s1 := h.modRp
  have h2 : StoresWf s2 := h1.ringVec.cxlEvt
  clear_value s1 s2
  exact .ite h2.event h2.event

theorem StoresWf.lateEvent (h : StoresWf s) {q seq e} : StoresWf (s.lateEvent q seq e) :=
  h.event

theorem StoresWf.abortEnd (h : StoresWf s) {result} : StoresWf (s.abortEnd result) :=
  h.upd.sg.elcStatus

theorem StoresWf.entDone (h : StoresWf s) {q seq status step ut res} : StoresWf (s.entDone q seq status step ut res) := by
  unfold State.entDone
  split
  · exact h
  · refine .ite h ?_
    extract_lets miss r comp e s1 s2
    have h1 : StoresWf s1 := .ite h.lateEvent h
    have h2 : StoresWf s2 := h1.modRp.entWrite
    clear_value s1 s2
    exact .ite h2.abortEnd h2

theorem StoresWf.noTimer (h : StoresWf s) {q seq i} : StoresWf (s.noTimer q seq i) :=
  h.upd.elcStatus.event.entDone

theorem StoresWf.accepted (h : StoresWf s) {q seq} : StoresWf (s.accepted q seq) := by
  unfold State.accepted
  split
  · exact h
  · extract_lets e s1
    have h1 : StoresWf s1 := h.setEnt.modRp
    clear_value s1
    exact .ite h1.entDone (.ite h1 (.ite h1.setEnt h1.noTimer))

theorem StoresWf.accept (h : StoresWf s) {q} : StoresWf (s.accept q) := by
  unfold State.accept
  extract_lets r seq a inst s1
  have h1 : StoresWf s1 := h.upd
  clear_value s1
  split
  exacts [h, .ite h (.ite h1.modRp.entWrite h1.modRp.entWrite.accepted)]

theorem StoresWf.execDescriptorAccept (h : StoresWf s) {q} : NextWf (execDescriptorAccept q s) :=
  .next h.accept

theorem StoresWf.acceptInOrder (h : StoresWf s) {q n} : StoresWf (s.acceptInOrder q n) := by
  induction n generalizing s with
  | zero => exact h
  | succ n ih =>
    unfold State.acceptInOrder
    dsimp only
    split
    · exact .ite h (ih h.accepted)
    · exact h

theorem StoresWf.compSignal (h : StoresWf s) {q} : StoresWf (s.compSignal q) :=
  .ite h.modRp.ringVec h

theorem StoresWf.cqpiTo (h : StoresWf s) {q v} : StoresWf (s.cqpiTo q v) :=
  h.modRp.compSignal

theorem StoresWf.cqpiAdvance (h : StoresWf s) {q} : StoresWf (s.cqpiAdvance q) :=
  .ite h (.ite h.modRp.ringWrite h.cqpiTo.ringWrite)

theorem StoresWf.mirAck (h : StoresWf s) {tag} : StoresWf (s.mirAck tag) := by
  unfold State.mirAck
  split
  · exact h
  · extract_lets s1 q
    have h1 : StoresWf s1 := h.upd
    clear_value s1
    refine .ite ?_ ?_
    · split
      exacts [.ite h1 h1.cqpiTo, h1]
    · split
      exacts [.ite h1 (.ite h1.acceptInOrder h1.setEnt), h1]

theorem StoresWf.execMirrorWriteAck (h : StoresWf s) {tag} : NextWf (execMirrorWriteAck tag s) :=
  .next h.mirAck

theorem StoresWf.mirRelease (h : StoresWf s) {take} : StoresWf (s.mirRelease take) := by
  unfold State.mirRelease
  extract_lets keys rings s1 s2
  have h1 : StoresWf s1 := h.upd
  have h2 : StoresWf s2 := by
    unfold s2
    refine h1.foldl fun _ _ h => ?_
    split
    exacts [.ite h (.ite (.ite h.acceptInOrder h) h.setEnt), h]
  clear_value s1 s2
  refine h2.foldl fun _ _ h => ?_
  split
  exacts [h.cqpiTo, h]

theorem StoresWf.mirBreak (h : StoresWf s) : StoresWf s.mirBreak :=
  h.sg.elcStatus.event.mirRelease

theorem StoresWf.execMirrorBreak (h : StoresWf s) : NextWf (execMirrorBreak s) :=
  .next (.ite h.mirBreak h)

theorem StoresWf.resync (h : StoresWf s) : StoresWf s.resync := by
  unfold State.resync
  extract_lets s1 s2
  have h1 : StoresWf s1 := h.sg
  have h2 : StoresWf s2 := by
    unfold s2
    refine h1.foldl fun _ _ h => ?_
    split
    exact .ite h h.mirSend
  clear_value s1 s2
  exact h2.foldl fun _ _ h => h.mirSend

theorem StoresWf.mirSet (h : StoresWf s) {v} : StoresWf (s.mirSet v) :=
  .ite h.sg (.ite h.sg.mirRelease.sg (.ite h.sg (.ite h.sg.mirRelease.resync h.sg)))

theorem StoresWf.execMirWrite (h : StoresWf s) {a v} : NextWf (execMirWrite a v s) :=
  h.onWrite fun _ h => h.mirSet

theorem StoresWf.execResyncComplete (h : StoresWf s) : NextWf (execResyncComplete s) :=
  .next (.ite h.sg.event h)

theorem StoresWf.deadlines (h : StoresWf s) : StoresWf s.deadlines := by
  unfold State.deadlines
  refine h.foldl fun _ _ h => ?_
  split
  exact .ite h.setEnt.lateEvent h

theorem StoresWf.execDeadlineCheck (h : StoresWf s) : NextWf (execDeadlineCheck s) :=
  .next (.ite h.deadlines h)

end

end Sys2Proof.Machine

namespace Sys2Proof.Machine

open Sys2Proof

/-! The canonical form through the channel engines and their programs. -/

section
set_option Elab.async false
variable {s : State}

theorem StoresWf.qRaise (h : StoresWf s) {i} : StoresWf (s.qRaise i) :=
  h.raise

theorem StoresWf.qResv (h : StoresWf s) {i m ring} : StoresWf (s.qResv i m ring).2 := by
  unfold State.qResv
  refine .iteSnd h ?_
  split
  exacts [h, h.modQ]

theorem StoresWf.qMatch (h : StoresWf s) {i ws} : StoresWf (s.qMatch i ws) := by
  unfold State.qMatch
  extract_lets seq ring n give
  split
  exacts [h.upd.modEng, h.event]

theorem StoresWf.qReply (h : StoresWf s) {i x} : StoresWf (s.qReply i x).2 := by
  unfold State.qReply
  split
  · next e => exact (StoresWf.snd e h.uncRead).modQ.qMatch
  · next e => exact StoresWf.snd e h.uncRead

theorem StoresWf.qServe (h : StoresWf s) {i} : StoresWf (s.qServe i) :=
  .ite (StoresWf.foldlBy (fun x : Bool × State => x.2) h fun (_, _) _ h => .iteSnd h.qReply h) h

theorem StoresWf.qCommit (h : StoresWf s) {i m v} : StoresWf (s.qCommit i m v).2 := by
  unfold State.qCommit
  extract_lets slot k s1 x s2
  have h1 : StoresWf s1 := h.modQ
  have h2 : StoresWf s2 := h1.upd.modQ
  clear_value s1 s2
  exact .iteSnd (.iteSnd h1 (.ite h2.qServe (.ite h2.qRaise h2))) h.event

theorem StoresWf.qRead (h : StoresWf s) {i} : StoresWf (s.qRead i).2 := by
  unfold State.qRead
  refine .iteSnd h ?_
  split
  exacts [h, h.modQ]

theorem StoresWf.qCmd (h : StoresWf s) {i c} : StoresWf (s.qCmd i c) := by
  unfold State.qCmd
  extract_lets k back s1
  have h1 : StoresWf s1 := h.modQ
  clear_value s1
  split
  exacts [h.modQ, .ite h1.qRaise h1, h.modQ, h]

theorem StoresWf.qClear (h : StoresWf s) {i} : StoresWf (s.qClear i) :=
  h.modQ

theorem StoresWf.qCfgSet (h : StoresWf s) {i v} : StoresWf (s.qCfgSet i v) :=
  .ite h.sg h.sg.qClear

theorem StoresWf.qBaseSet (h : StoresWf s) {i v} : StoresWf (s.qBaseSet i v) :=
  .ite h h.sg

theorem StoresWf.onQ (h : StoresWf s) {a i o} {f : State → State} (hk : ∀ t, StoresWf t → StoresWf (f t)) : NextWf (s.onQ a i o f) :=
  .next (.ite (hk _ h) h)

theorem StoresWf.execResv (h : StoresWf s) {a i} : NextWf (execResv a i s) :=
  h.onQ fun _ h => h.qResv.out

theorem StoresWf.execCommit (h : StoresWf s) {a i v} : NextWf (execCommit a i v s) :=
  h.onQ fun _ h => h.qCommit

theorem StoresWf.execRead (h : StoresWf s) {a i} : NextWf (execRead a i s) :=
  h.onQ fun _ h => h.qRead.out

theorem StoresWf.execMark (h : StoresWf s) {a i} : NextWf (execMark a i s) :=
  h.onQ fun _ h => h.qCmd

theorem StoresWf.execRewind (h : StoresWf s) {a i} : NextWf (execRewind a i s) :=
  h.onQ fun _ h => h.qCmd

theorem StoresWf.execRelease (h : StoresWf s) {a i} : NextWf (execRelease a i s) :=
  h.onQ fun _ h => h.qCmd

theorem StoresWf.execQueueDisable (h : StoresWf s) {a i} : NextWf (execQueueDisable a i s) :=
  h.onQ fun _ h => h.qCfgSet

theorem StoresWf.qAge (h : StoresWf s) {i} : StoresWf (s.qAge i) :=
  .ite h (.ite h (h.modQ.qRaise.foldl fun _ _ h => h.event))

theorem StoresWf.dispAge (h : StoresWf s) : StoresWf s.dispAge := by
  unfold State.dispAge
  extract_lets age
  refine .ite h ?_
  refine h.foldl fun _ _ h => ?_
  split
  exact .ite h.upd.setEnt.event h

theorem StoresWf.execQueueAgingCheck (h : StoresWf s) : NextWf (execQueueAgingCheck s) :=
  .next (.ite (h.foldl fun _ _ h => h.qAge).dispAge h)

theorem StoresWf.execChqSnapReq (h : StoresWf s) {a} : NextWf (execChqSnapReq a s) :=
  h.onWrite fun _ h => h.sg.snapReq

theorem StoresWf.execElcSnapReq (h : StoresWf s) {a} : NextWf (execElcSnapReq a s) :=
  h.onWrite fun _ h => h.sg.snapReq

theorem StoresWf.tungRead (h : StoresWf s) {p a n ext} : StoresWf (s.tungRead p a n ext).2 :=
  .iteSnd h h.event

theorem StoresWf.routineRead (h : StoresWf s) {p r isA a n ext pois} : StoresWf (s.routineRead p r isA a n ext pois).2 := by
  unfold State.routineRead
  extract_lets q given own l
  refine .iteSnd h ?_
  split
  · refine .iteSnd h ?_
    split
    · next e => exact StoresWf.snd e h.procRead
    · next e => exact StoresWf.snd e h.procRead
  · split
    · split
      next e => exact StoresWf.snd e h.tungRead
    · exact .iteSnd h.hostReads h.readLost
    · split
      exacts [h, h, h.modProc.rRead]
    · exact h

theorem StoresWf.routineStep (h : StoresWf s) {p r ext pois} : StoresWf (s.routineStep p r ext pois) := by
  unfold State.routineStep
  extract_lets q n sides checks place lim touch rd bad same
  have hrd {t isA ext} (h : StoresWf t) : StoresWf (rd t isA ext).2 := by
    unfold rd
    split
    exacts [.iteSnd h.routineRead h, h]
  refine .ite h.setProc ?_
  split
  · exact h
  · extract_lets s1 near
    have h1 : StoresWf s1 := h.setProc
    clear_value s1
    split
    · next e => exact StoresWf.snd e (hrd h1)
    · next e =>
      have h3 := StoresWf.snd e (hrd h1)
      split
      · next e => exact StoresWf.snd e (hrd h3)
      · next e =>
        have h5 := StoresWf.snd e (hrd h3)
        extract_lets stops stop m
        split
        exacts [h5, h5.setProc, h5.setProc]

theorem StoresWf.execMicroRoutineStep (h : StoresWf s) {p ext pois} : NextWf (execMicroRoutineStep p ext pois s) := by
  unfold Machine.execMicroRoutineStep
  extract_lets q
  refine .next ?_
  split
  exacts [.ite h.routineStep h, h]

theorem StoresWf.dropOps (h : StoresWf s) {q seq} : StoresWf (s.dropOps q seq) :=
  h.upd

theorem StoresWf.uFinish (h : StoresWf s) {e} : StoresWf (s.uFinish e) := by
  unfold State.uFinish
  split
  exacts [h, .ite h.dropOps.modEng.entDone h]

theorem StoresWf.setRun (h : StoresWf s) {e p} : StoresWf (s.setRun e p) :=
  h.modEng

theorem StoresWf.uStop (h : StoresWf s) {e p status} : StoresWf (s.uStop e p status) :=
  h.setRun.uFinish

theorem StoresWf.uFaultAt (h : StoresWf s) {e p kind} : StoresWf (s.uFaultAt e p kind) :=
  h.sg.event.uStop

theorem StoresWf.uBound (h : StoresWf s) {e p t} (eq : s.uBound e p = some t) : StoresWf t := by
  unfold State.uBound at eq
  split at eq
  · exact Option.some.inj eq ▸ h.uStop
  · split at eq
    · exact Option.some.inj eq ▸ h.uStop
    · cases eq

theorem StoresWf.uBoundIf (h : StoresWf s) {c : Prop} {d : Decidable c} {e p t} (eq : (if c then s.uBound e p else none) = some t) :
    StoresWf t := by
  split at eq
  · exact h.uBound eq
  · cases eq

theorem StoresWf.uStart (h : StoresWf s) {e p} : StoresWf (s.uStart e p).1 := by
  unfold State.uStart
  refine .iteFst h ?_
  extract_lets p s1
  have h1 : StoresWf s1 := by
    unfold s1
    split
    exacts [.ite h.setEnt h, h]
  clear_value s1
  exact h1.setRun

theorem StoresWf.askFar (h : StoresWf s) {who p e x n} : StoresWf (s.askFar who p e x n).2 :=
  .iteSnd (h.foldl fun _ _ h => h.rRead) (.iteSnd h.hostReads h)

theorem StoresWf.putFar (h : StoresWf s) {who p e x bs} : StoresWf (s.putFar who p e x bs).2 :=
  h.foldl fun _ _ h => h.rWrite

theorem StoresWf.movIssue (h : StoresWf s) {e p kind b addr n} : StoresWf (s.movIssue e p kind b addr n).1 := by
  unfold State.movIssue
  extract_lets x void buf n who
  split
  next e => exact StoresWf.snd e (.iteSnd h (.iteSnd h.askFar (.iteSnd h.putFar h)))

theorem StoresWf.doMov (h : StoresWf s) {e p w} : StoresWf (s.doMov e p w).1 := by
  unfold State.doMov
  refine .iteFst h ?_
  extract_lets len n addr mreg rest c
  split
  · split
    next e => exact StoresWf.fst e h.movIssue
  · split
    next e => exact StoresWf.fst e h.movIssue
  · split
    next e => exact StoresWf.fst e h.movIssue

theorem StoresWf.unitIssue (h : StoresWf s) {e p op reg req} : StoresWf (s.unitIssue e p op reg req).1 := by
  unfold State.unitIssue
  extract_lets id s1 o there x who
  have h1 : StoresWf s1 := h.upd
  clear_value s1
  refine .iteFst h1 ?_
  split
  next e =>
  have h2 := StoresWf.snd e (.iteSnd h1.askFar h1)
  split
  next e => exact StoresWf.snd e (.iteSnd h2.askFar h2)

theorem StoresWf.doPort (h : StoresWf s) {e p w} : StoresWf (s.doPort e p w).1 := by
  unfold State.doPort
  refine .iteFst h ?_
  extract_lets q m x id s1 s2 o off fail add
  have h1 : StoresWf s1 := h
  have h2 : StoresWf s2 := h.upd
  clear_value s1 s2
  split
  · refine .iteFst h2 ?_
    split
    next e => exact StoresWf.snd e h2.qResv
  · refine .iteFst h2 ?_
    split
    next e => exact StoresWf.snd e h2.qCommit
  · refine .iteFst h2 ?_
    split
    next e => exact StoresWf.snd e h2.qRead
  · exact .iteFst h2 h2.qCmd
  · exact .iteFst h2 h2
  · exact .iteFst h2 h2
  · exact h2
  · exact h1.unitIssue

theorem StoresWf.uCommit (h : StoresWf s) {e p0 p w} : StoresWf (s.uCommit e p0 p w) := by
  unfold State.uCommit
  extract_lets taken p p2 p3 res p4 p5 seqn tgt
  split
  extract_lets cyc p6 pk
  split
  exacts [h.setRun.uFinish, .ite h.modEng h.setRun.uFaultAt, .ite h.setRun h.setRun.uFaultAt]

theorem StoresWf.wordCheck (h : StoresWf s) {e a} : StoresWf (s.wordCheck e a).2 := by
  unfold State.wordCheck
  extract_lets n ev uce
  split
  · exact h
  · next e =>
    have h1 := h.injHit e
    split
    exacts [h1, h1.sg.event, h1.event]

/-- The state of what stands before a microword's effect is in canonical form. -/
def UPre.Wf : UPre → Prop
  | .stop t | .go t _ => StoresWf t
  | .stall => True

theorem StoresWf.uPre (h : StoresWf s) {e p w} : (s.uPre e p w).Wf := by
  unfold State.uPre
  split
  · trivial
  · split
    · exact h
    · extract_lets b p2
      have hb {t} (e : b = some t) : StoresWf t := h.uBoundIf e
      clear_value b p2
      split
      · exact hb rfl
      · split
        · exact h.uStart.uFaultAt
        · split
          · trivial
          · split
            next e => exact StoresWf.fst e h.uStart

theorem StoresWf.uRow (h : StoresWf s) {e pick f} (hk : ∀ t, StoresWf t → ∀ p w, StoresWf (f t p w)) : NextWf (s.uRow e pick f) := by
  unfold State.uRow
  refine .next ?_
  split
  · exact h
  · next p _ =>
    refine .ite h ?_
    extract_lets w at_
    refine .ite h ?_
    split
    next b t e =>
    have ht : StoresWf t := .snd e (.iteSnd h.wordCheck h)
    refine .ite ht.uFaultAt ?_
    have hp := ht.uPre (e := (BitVec.toNat ‹BitVec 4›)) (p := p) (w := w)
    split
    · next e => exact (e ▸ hp : UPre.Wf (.stop _))
    · exact ht
    · next e => exact hk _ (e ▸ hp : UPre.Wf (.go _ _)) _ _

theorem StoresWf.aluRow (h : StoresWf s) {e op} : NextWf (s.aluRow e op) :=
  h.uRow (fun _ h _ _ => h.setRun)

theorem StoresWf.shfRow (h : StoresWf s) {e op} : NextWf (s.shfRow e op) :=
  h.uRow (fun _ h _ _ => h.setRun)

theorem StoresWf.movRow (h : StoresWf s) {e op} : NextWf (s.movRow e op) :=
  h.uRow fun _ h _ _ => by
    split
    next e => exact (StoresWf.fst e h.doMov).setRun

theorem StoresWf.portRow (h : StoresWf s) {e op} : NextWf (s.portRow e op) :=
  h.uRow fun _ h _ _ => by
    split
    next e => exact (StoresWf.fst e h.doPort).modEng

theorem StoresWf.sqRow (h : StoresWf s) {e op} : NextWf (s.sqRow e op) :=
  h.uRow fun _ h _ _ => by
    extract_lets p p2
    split
    next e =>
    have h1 := StoresWf.fst e h.doMov
    split
    next e => exact (StoresWf.fst e h1.doPort).uCommit

theorem StoresWf.execSqNext (h : StoresWf s) {e} : NextWf (execSqNext e s) :=
  h.sqRow

theorem StoresWf.execSqJump (h : StoresWf s) {e} : NextWf (execSqJump e s) :=
  h.sqRow

theorem StoresWf.execSqBr (h : StoresWf s) {e} : NextWf (execSqBr e s) :=
  h.sqRow

theorem StoresWf.execSqCall (h : StoresWf s) {e} : NextWf (execSqCall e s) :=
  h.sqRow

theorem StoresWf.execSqRet (h : StoresWf s) {e} : NextWf (execSqRet e s) :=
  h.sqRow

theorem StoresWf.execSqDisp (h : StoresWf s) {e} : NextWf (execSqDisp e s) :=
  h.sqRow

theorem StoresWf.execSqPark (h : StoresWf s) {e} : NextWf (execSqPark e s) :=
  h.sqRow

theorem StoresWf.execSqEnd (h : StoresWf s) {e} : NextWf (execSqEnd e s) :=
  h.sqRow

theorem StoresWf.execAopAdd (h : StoresWf s) {e} : NextWf (execAopAdd e s) :=
  h.aluRow

theorem StoresWf.execAopSub (h : StoresWf s) {e} : NextWf (execAopSub e s) :=
  h.aluRow

theorem StoresWf.execAopAnd (h : StoresWf s) {e} : NextWf (execAopAnd e s) :=
  h.aluRow

theorem StoresWf.execAopOr (h : StoresWf s) {e} : NextWf (execAopOr e s) :=
  h.aluRow

theorem StoresWf.execAopXor (h : StoresWf s) {e} : NextWf (execAopXor e s) :=
  h.aluRow

theorem StoresWf.execAopAndn (h : StoresWf s) {e} : NextWf (execAopAndn e s) :=
  h.aluRow

theorem StoresWf.execAopMin (h : StoresWf s) {e} : NextWf (execAopMin e s) :=
  h.aluRow

theorem StoresWf.execAopMax (h : StoresWf s) {e} : NextWf (execAopMax e s) :=
  h.aluRow

theorem StoresWf.execAopMove (h : StoresWf s) {e} : NextWf (execAopMove e s) :=
  h.aluRow

theorem StoresWf.execAopShl (h : StoresWf s) {e} : NextWf (execAopShl e s) :=
  h.aluRow

theorem StoresWf.execAopShr (h : StoresWf s) {e} : NextWf (execAopShr e s) :=
  h.aluRow

theorem StoresWf.execAopCmp (h : StoresWf s) {e} : NextWf (execAopCmp e s) :=
  h.aluRow

theorem StoresWf.execSopExt (h : StoresWf s) {e} : NextWf (execSopExt e s) :=
  h.shfRow

theorem StoresWf.execSopExts (h : StoresWf s) {e} : NextWf (execSopExts e s) :=
  h.shfRow

theorem StoresWf.execSopIns (h : StoresWf s) {e} : NextWf (execSopIns e s) :=
  h.shfRow

theorem StoresWf.execSopLit (h : StoresWf s) {e} : NextWf (execSopLit e s) :=
  h.shfRow

theorem StoresWf.execMopRd (h : StoresWf s) {e} : NextWf (execMopRd e s) :=
  h.movRow

theorem StoresWf.execMopWr (h : StoresWf s) {e} : NextWf (execMopWr e s) :=
  h.movRow

theorem StoresWf.execMopFill (h : StoresWf s) {e} : NextWf (execMopFill e s) :=
  h.movRow

theorem StoresWf.execMopWait (h : StoresWf s) {e} : NextWf (execMopWait e s) :=
  h.movRow

theorem StoresWf.execXopResv (h : StoresWf s) {e} : NextWf (execXopResv e s) :=
  h.portRow

theorem StoresWf.execXopCommit (h : StoresWf s) {e} : NextWf (execXopCommit e s) :=
  h.portRow

theorem StoresWf.execXopRead (h : StoresWf s) {e} : NextWf (execXopRead e s) :=
  h.portRow

theorem StoresWf.execXopCmd (h : StoresWf s) {e} : NextWf (execXopCmd e s) :=
  h.portRow

theorem StoresWf.execXopQaddr (h : StoresWf s) {e} : NextWf (execXopQaddr e s) :=
  h.portRow

theorem StoresWf.execXopCob (h : StoresWf s) {e} : NextWf (execXopCob e s) :=
  h.portRow

theorem StoresWf.execXopZn (h : StoresWf s) {e} : NextWf (execXopZn e s) :=
  h.portRow

theorem StoresWf.execXopPostc (h : StoresWf s) {e} : NextWf (execXopPostc e s) :=
  h.portRow

theorem StoresWf.execXopTime (h : StoresWf s) {e} : NextWf (execXopTime e s) :=
  h.portRow

theorem StoresWf.movDone (h : StoresWf s) {e p m st ext} : StoresWf (s.movDone e p m st ext) := by
  unfold State.movDone
  extract_lets b x fin c bad buf c2
  clear_value b x c bad buf c2
  have hfin {t code buf} (h : StoresWf t) : StoresWf (fin t code buf) := h.modEng.uFinish
  clear_value fin
  refine .ite (hfin h) ?_
  split
  · exact hfin h
  · refine .ite (hfin h) ?_
    split
    · split
      · next e =>
        have h2 := StoresWf.snd e h.uncRead
        exact .ite (hfin h2) (hfin h2)
      · next e => exact StoresWf.snd e h.uncRead
    · exact hfin h
    · exact .ite (hfin h) (hfin h)
    · exact .ite h (.ite (hfin h) (hfin h))
  · refine .ite (hfin h) (.ite (hfin h) ?_)
    split
    · split
      · next e => exact hfin (StoresWf.snd e h.uncWrite)
      · next e => exact StoresWf.snd e h.uncWrite
    · exact .ite (hfin h) (.ite (hfin h) (hfin h.hostWrites))
    · exact .ite h (hfin h)

theorem StoresWf.execMoverOpComplete (h : StoresWf s) {e b st ext} : NextWf (execMoverOpComplete e b st ext s) := by
  unfold Machine.execMoverOpComplete
  refine .next ?_
  split
  · exact h
  · split
    exacts [h, .ite h.movDone h]

theorem StoresWf.execPortResultArrival (h : StoresWf s) {e n} : NextWf (execPortResultArrival e n s) := by
  unfold Machine.execPortResultArrival
  refine .next ?_
  split
  · exact h
  · split
    exacts [h, .ite h h.setRun.uFinish]

theorem StoresWf.execParkedProgramReply (h : StoresWf s) {e n} : NextWf (execParkedProgramReply e n s) := by
  unfold Machine.execParkedProgramReply
  refine .next ?_
  split
  · exact h
  · split
    exacts [h, h.modEng]

theorem StoresWf.execBndWatchdogExpiry (h : StoresWf s) {e} : NextWf (execBndWatchdogExpiry e s) := by
  unfold Machine.execBndWatchdogExpiry
  refine .next ?_
  split
  exacts [h, .ite h.uFaultAt h]

theorem StoresWf.dispatch (h : StoresWf s) {e} : StoresWf (s.dispatch e) := by
  unfold State.dispatch
  extract_lets g
  refine .ite h ?_
  split
  · exact h.modEng
  · split
    · exact h
    · refine .ite h ?_
      extract_lets ua p s1 ok s2
      have h1 : StoresWf s1 := .ite h.setEnt h
      have h2 : StoresWf s2 := .ite h1.setEnt h1
      clear_value s1 s2
      exact .ite h2.modEng h1.noTimer

theorem StoresWf.execDispatch (h : StoresWf s) {e} : NextWf (execDispatch e s) :=
  .next h.dispatch

theorem StoresWf.abort (h : StoresWf s) {q} : StoresWf (s.abort q) := by
  unfold State.abort
  refine .ite h ?_
  extract_lets seq s1
  clear_value seq
  have h1 : StoresWf s1 := h.upd.sg
  clear_value s1
  split
  · exact h.abortEnd
  · split
    · exact h.abortEnd
    · exact h.abortEnd
    · split
      · extract_lets pk s2
        clear_value pk
        have h2 : StoresWf s2 := h1.dropOps.modEng
        clear_value s2
        split
        exacts [h2.entDone, h2]
      · exact .ite h1 h1.entDone
    · split
      · extract_lets pk2 s3
        clear_value pk2
        have h3 : StoresWf s3 := h1.dropOps.modEng
        clear_value s3
        split
        exacts [h3.entDone, h3]
      · exact .ite h1 h1.entDone

theorem StoresWf.execAbort (h : StoresWf s) {a q} : NextWf (execAbort a q s) :=
  h.onWrite fun _ h => h.abort

theorem StoresWf.storeWord (h : StoresWf s) {e a w} : StoresWf (s.storeWord e a w) :=
  .ite h.modEng h.upd

theorem StoresWf.uctlErr (h : StoresWf s) {e c} : StoresWf (s.uctlErr e c) :=
  h.sg

theorem StoresWf.udata2 (h : StoresWf s) {e v} : StoresWf (s.udata2 e v) :=
  .sg (.ite h.sg.storeWord h.sg.uctlErr)

theorem StoresWf.execUdata2Write (h : StoresWf s) {a e v} : NextWf (execUdata2Write a e v s) :=
  h.onWrite fun _ h => h.udata2

theorem StoresWf.uctlRead (h : StoresWf s) {e} : StoresWf (s.uctlRead e) :=
  .ite h.sg h.sg.sg.sg

theorem StoresWf.execUctlRead (h : StoresWf s) {a e} : NextWf (execUctlRead a e s) :=
  h.onWrite fun _ h => h.uctlRead

theorem StoresWf.sectWrite (h : StoresWf s) {x} : StoresWf (s.sectWrite x) := by
  unfold State.sectWrite
  split
  · refine h.foldl fun _ _ h => ?_
    split
    exact .ite (h.foldl fun _ _ h => .ite h.storeWord h) h.storeWord
  · refine h.foldl fun _ _ h => ?_
    split
    exact h.sg
  · exact h

theorem StoresWf.imgBad (h : StoresWf s) {id c} : StoresWf (s.imgBad id c) :=
  h.uctlErr.event

theorem StoresWf.imgTake (h : StoresWf s) {install hdr bs} : StoresWf (s.imgTake install hdr bs) := by
  unfold State.imgTake
  extract_lets w id lines typ others room
  refine .ite h.imgBad ?_
  split
  · exact h.imgBad
  · split
    · exact h.imgBad
    · refine .ite h.imgBad (.ite h.uctlErr ?_)
      extract_lets s1 s2
      have h1 : StoresWf s1 := .ite (h.foldl fun _ _ h => h.sectWrite) h
      have h2 : StoresWf s2 := .ite h1.upd h1
      clear_value s1 s2
      exact h2.event

theorem StoresWf.imgBusy (h : StoresWf s) {b} : StoresWf (s.imgBusy b) :=
  h.sg

theorem StoresWf.imgGo (h : StoresWf s) : StoresWf s.imgGo := by
  unfold State.imgGo
  split
  · exact h
  · extract_lets done
    have hdone {t} (h : StoresWf t) : StoresWf (done t) := h.upd.imgBusy
    split
    · next e => exact StoresWf.snd e h.uncRead
    · next e =>
      have h2 := StoresWf.snd e h.uncRead
      extract_lets w id n typ
      refine .ite ((hdone h2).imgBad) (.ite ((hdone h2).imgBad) ?_)
      split
      · next e => exact StoresWf.snd e h2.uncRead
      · next e => exact (hdone (StoresWf.snd e h2.uncRead)).imgTake

theorem StoresWf.uctlCmd (h : StoresWf s) {f : State → State} (hk : ∀ t, StoresWf t → StoresWf (f t)) : StoresWf (s.uctlCmd f) :=
  .ite h.sg (hk _ h)

theorem StoresWf.imgCmd (h : StoresWf s) {install} : StoresWf (s.imgCmd install) :=
  h.uctlCmd fun _ h => h.upd.imgBusy.imgGo

theorem StoresWf.execLoadimg (h : StoresWf s) {a} : NextWf (execLoadimg a s) :=
  h.onWrite fun _ h => h.imgCmd

theorem StoresWf.execInstall (h : StoresWf s) {a} : NextWf (execInstall a s) :=
  h.onWrite fun _ h => h.imgCmd

theorem StoresWf.execRemove (h : StoresWf s) {a} : NextWf (execRemove a s) :=
  h.onWrite (fun _ h => (h.uctlCmd (fun _ h => h.upd)))

theorem StoresWf.portRead (h : StoresWf s) {p o master addr n st ext} : StoresWf (s.portRead p o master addr n st ext).2 := by
  unfold State.portRead
  extract_lets x c
  refine .iteSnd h (.iteSnd h ?_)
  split
  · split
    · next e => exact StoresWf.snd e h.uncRead
    · next e => exact StoresWf.snd e h.uncRead
  · exact h
  · exact h
  · exact h

theorem StoresWf.pieceEnd (h : StoresWf s) {e o st left outs} : StoresWf (s.pieceEnd e o st left outs) := by
  unfold State.pieceEnd
  extract_lets outs o
  split
  exacts [h, .ite h.setRun h.setRun.uFinish]

theorem StoresWf.pieceIn (h : StoresWf s) {e p o master ssel n st ext} : StoresWf (s.pieceIn e p o master ssel n st ext).2 :=
  .iteSnd h.portRead h

theorem StoresWf.cobStatus (h : StoresWf s) {i} : StoresWf (s.cobStatus i) :=
  h.sg.raise

theorem StoresWf.setCob (h : StoresWf s) {p c} : StoresWf (s.setCob p c) :=
  h.upd

/-- The state after a write of a port is in canonical form. -/
def PWrite.Wf : PWrite → Prop
  | .wait t | .done t _ _ => StoresWf t

theorem StoresWf.portWrite (h : StoresWf s) {e p o master addr bs st} : (s.portWrite e p o master addr bs st).Wf := by
  unfold State.portWrite
  extract_lets x n c
  split
  · exact h
  · split
    · exact h
    · split
      · split
        · next e => exact StoresWf.snd e h.uncWrite
        · next e => exact StoresWf.snd e h.uncWrite
      · split
        · exact h
        · split
          exacts [h, h.hostWrites]
      · split
        next e => exact StoresWf.snd e h.putFar

theorem StoresWf.pieceOut (h : StoresWf s) {e p o master dsel addr outp st} : (s.pieceOut e p o master dsel addr outp st).1.Wf := by
  unfold State.pieceOut
  split
  exacts [h.portWrite, h.modEng]

theorem PWrite.Wf.of_eq {α : Type} {x : PWrite × α} {w : PWrite} {a : α} (e : x = (w, a)) (h : x.1.Wf) : w.Wf := by
  subst e
  exact h

theorem StoresWf.cobPiece (h : StoresWf s) {e p o c st ext iv} : StoresWf (s.cobPiece e p o c st ext iv).2 := by
  unfold State.cobPiece
  extract_lets w last n r ut fail
  have hfail {t code u'} (h : StoresWf t) : StoresWf (fail t code u') := h.setCob.pieceEnd
  refine .iteSnd (hfail h) (.iteSnd (hfail h) ?_)
  split
  · next e => exact StoresWf.snd e h.pieceIn
  · next e => exact hfail (StoresWf.snd e h.pieceIn)
  · next e =>
    have h1 := StoresWf.snd e h.pieceIn
    split
    split
    next e =>
    have hw := PWrite.Wf.of_eq e h1.pieceOut
    split
    · exact hw
    · next t _ _ =>
      have h2 : StoresWf t := hw
      exact .iteSnd (hfail h2) (.pieceEnd (.setCob (.ite h2.upd.upd.event h2.upd)))

theorem StoresWf.cobDone (h : StoresWf s) {e p o st ext aad} : StoresWf (s.cobDone e p o st ext aad) := by
  unfold State.cobDone
  extract_lets w first dec slot aadLen ssel dsel n r cur ans u
  clear_value w first dec slot aadLen ssel dsel n r cur u
  have hans {t code} (h : StoresWf t) : StoresWf (ans t code) := h.pieceEnd
  clear_value ans
  refine .ite (hans h.setCob) (.ite (hans h) ?_)
  split
  · exact h.cobPiece
  · refine .ite h (.ite (hans h) ?_)
    refine .ite h ?_
    split
    · exact hans h
    · refine .ite (hans h) (.ite (hans h.event) ?_)
      refine .ite h ?_
      extract_lets iv ivo take
      clear_value iv ivo
      have htake {t} (h : StoresWf t) : StoresWf (take t) := .ite h h.upd
      clear_value take
      split
      · next e => exact StoresWf.snd e h.portRead
      · next e => exact (htake (StoresWf.snd e h.portRead)).pieceEnd
      · next e =>
        have h3 := StoresWf.snd e h.portRead
        extract_lets c
        clear_value c
        split
        · next e => exact StoresWf.snd e (htake h3).cobPiece
        · next e => exact (StoresWf.snd e (htake h3).cobPiece).upd

theorem StoresWf.execCobaltPieceComplete (h : StoresWf s) {e n ext aad st} : NextWf (execCobaltPieceComplete e n ext aad st s) := by
  unfold Machine.execCobaltPieceComplete
  refine .next ?_
  split
  · exact h
  · split
    exacts [h, .ite h.cobDone h]

theorem StoresWf.setZn (h : StoresWf s) {p z} : StoresWf (s.setZn p z) :=
  h.upd

theorem StoresWf.znPiece (h : StoresWf s) {e p o z st ext} : StoresWf (s.znPiece e p o z st ext) := by
  unfold State.znPiece
  extract_lets w me last dsel n space r fail cap
  have hfail {t code u'} (h : StoresWf t) : StoresWf (fail t code u') := h.setZn.pieceEnd
  clear_value fail
  split
  · next e => exact StoresWf.snd e h.pieceIn
  · next e => exact hfail (StoresWf.snd e h.pieceIn)
  · next e =>
    have h1 := StoresWf.snd e h.pieceIn
    extract_lets all g outp ovr outp2 used ends
    split
    next e =>
    have hw := PWrite.Wf.of_eq e h1.pieceOut
    split
    · exact hw
    · next t code left =>
      have h2 : StoresWf t := hw
      refine .ite (hfail h2) ?_
      extract_lets s3 z
      have h3 : StoresWf s3 := h2.upd
      clear_value s3
      split
      next t e =>
      have h4 : StoresWf t := by
        refine .snd e (.iteSnd ?_ h3)
        split
        exacts [h3.injHit ‹_›, h3]
      split
      exact .pieceEnd (.setZn (.ite (.ite h4.upd (.ite h4.upd.event h4.upd.event)) h4))

theorem StoresWf.znDone (h : StoresWf s) {e p o st ext} : StoresWf (s.znDone e p o st ext) := by
  unfold State.znDone
  extract_lets w first r i cur ans seats eng z
  clear_value w first r i cur seats eng z
  have hans {t code} (h : StoresWf t) : StoresWf (ans t code) := h.pieceEnd
  clear_value ans
  refine .ite (hans h) (.ite (hans h.upd) ?_)
  split
  exacts [h.znPiece, .ite (hans h.upd) (.ite h h.znPiece)]

theorem StoresWf.execZincPieceComplete (h : StoresWf s) {e n ext st} : NextWf (execZincPieceComplete e n ext st s) := by
  unfold Machine.execZincPieceComplete
  refine .next ?_
  split
  · exact h
  · split
    exacts [h, .ite h.znDone h]

theorem StoresWf.kload (h : StoresWf s) {v} : StoresWf (s.kload v) :=
  .ite h.sg (.ite h.upd.sg h)

theorem StoresWf.execKloadLoad (h : StoresWf s) {a v} : NextWf (execKloadLoad a v s) :=
  h.onWrite fun _ h => h.kload

theorem StoresWf.execKloadZero (h : StoresWf s) {a v} : NextWf (execKloadZero a v s) :=
  h.onWrite fun _ h => h.kload

theorem StoresWf.kzero (h : StoresWf s) {slot} : StoresWf (s.kzero slot) :=
  h.upd.event

theorem StoresWf.kdone (h : StoresWf s) : StoresWf s.kdone := by
  unfold State.kdone
  split
  · exact h
  · refine .ite h ?_
    extract_lets s1 ks s2
    have h1 : StoresWf s1 := h.upd.sg
    have h2 : StoresWf s2 := .ite h1.upd.event h1.kzero
    clear_value s1 s2
    exact h2.cobStatus

theorem StoresWf.execKeySlotCommandComplete (h : StoresWf s) : NextWf (execKeySlotCommandComplete s) :=
  .next (.ite h.kdone h)

theorem StoresWf.ceilUp (h : StoresWf s) {slot} : StoresWf (s.ceilUp slot) := by
  unfold State.ceilUp
  split
  exacts [h, .ite h.upd h]

theorem StoresWf.execCeilingWriteComplete (h : StoresWf s) {slot} : NextWf (execCeilingWriteComplete slot s) :=
  .next h.ceilUp

theorem StoresWf.rngFail (h : StoresWf s) : StoresWf s.rngFail :=
  .ite h.tick1.sg.cobStatus.event h

theorem StoresWf.execRngHealthFail (h : StoresWf s) : NextWf (execRngHealthFail s) :=
  .next h.rngFail

theorem StoresWf.execCobSnapReq (h : StoresWf s) {a} : NextWf (execCobSnapReq a s) :=
  h.onWrite fun _ h => h.sg.snapReq

theorem StoresWf.execZnSnapReq (h : StoresWf s) {a} : NextWf (execZnSnapReq a s) :=
  h.onWrite fun _ h => h.sg.snapReq

theorem StoresWf.stdEnd (h : StoresWf s) {e p status step ut} : StoresWf (s.stdEnd e p status step ut) :=
  h.setRun.uFinish

theorem StoresWf.stdGo (h : StoresWf s) {e p d} : StoresWf (s.stdGo e p d) :=
  h.setRun

theorem StoresWf.stdCob (h : StoresWf s) {e p d n last ssel dsel} : StoresWf (s.stdCob e p d n last ssel dsel).1 :=
  h.unitIssue

theorem StoresWf.stdZn (h : StoresWf s) {e p d n last ssel} : StoresWf (s.stdZn e p d n last ssel).1 :=
  h.unitIssue

theorem StoresWf.cutBuf (h : StoresWf s) {e b f} : StoresWf (s.cutBuf e b f) :=
  h.modEng

theorem StoresWf.stdMove (h : StoresWf s) {e p d} : StoresWf (s.stdMove e p d) := by
  unfold State.stdMove
  split
  · split
    · next e => exact h.uBound e
    · refine .ite (.ite h.stdGo h.stdEnd) ?_
      extract_lets n
      split
      next e => exact (StoresWf.fst e (.iteFst h.movIssue h.movIssue)).stdGo
  · refine .ite h.stdEnd ?_
    split
    next e => exact (StoresWf.fst e h.movIssue).stdGo
  · exact .ite h.stdEnd h.stdGo

theorem StoresWf.stdPost (h : StoresWf s) {e p d} : StoresWf (s.stdPost e p d) := by
  unfold State.stdPost
  extract_lets q m again stop s1 w p
  have hstop {t u} (h : StoresWf t) (e : stop t = some u) : StoresWf u := h.uBound e
  have h1 : StoresWf s1 := h.qCommit
  clear_value s1
  split
  · split
    · next e => exact hstop h e
    · refine .ite h (.ite h.stdGo ?_)
      split
      · next e => exact (StoresWf.snd e h.qResv).stdGo
      · next e => exact (StoresWf.snd e h.qResv).stdGo
  · refine .ite ?_ ?_
    · cases e : stop s1 with
      | none => exact h1
      | some t => exact hstop h1 e
    · split
      · next e => exact .snd e h.uncWrite
      · next e =>
        have h2 := StoresWf.snd e h.uncWrite
        split
        next e => exact (StoresWf.snd e h2.qCommit).modEng
  · split
    · next e => exact hstop h e
    · exact .ite h.uFaultAt (.ite h h.modEng)
  · exact .ite h.stdEnd h.stdEnd

theorem StoresWf.stdCipher (h : StoresWf s) {e p d} : StoresWf (s.stdCipher e p d) := by
  unfold State.stdCipher
  split
  · split
    · next e => exact h.uBound e
    · split
      split
      next e => exact (StoresWf.fst e h.stdCob).stdGo
  · exact .ite h.stdEnd (.ite h.stdEnd h.stdGo)

theorem StoresWf.stdZnTop (h : StoresWf s) {e p d} : StoresWf (s.stdZnTop e p d) := by
  unfold State.stdZnTop
  extract_lets edge d n last
  split
  · next e => exact h.uBoundIf e
  · split
    next e => exact (StoresWf.fst e h.stdZn).stdGo

theorem StoresWf.stdPut (h : StoresWf s) {e p d room stage} : StoresWf (s.stdPut e p d room stage) := by
  unfold State.stdPut
  extract_lets w s1 d
  have h1 : StoresWf s1 := h.cutBuf
  clear_value s1
  refine .ite h1.stdGo ?_
  split
  next e => exact (StoresWf.fst e h1.movIssue).stdGo

theorem StoresWf.stdZinc (h : StoresWf s) {e p d} : StoresWf (s.stdZinc e p d) := by
  unfold State.stdZinc
  split
  exacts [h.stdZnTop, h.stdPut, .ite h.stdEnd (.ite h.stdEnd (.ite h.stdEnd (.ite h.stdGo h.stdEnd)))]

theorem StoresWf.stdSeal (h : StoresWf s) {e p d} : StoresWf (s.stdSeal e p d) := by
  unfold State.stdSeal
  split
  · exact h.stdZnTop
  · extract_lets d closed room w full p s1
    have h1 : StoresWf s1 := h.cutBuf
    clear_value s1
    refine .ite h.stdEnd (.ite h.stdEnd ?_)
    refine .ite h.stdGo ?_
    split
    next e => exact (StoresWf.fst e h1.stdCob).stdGo
  · exact .ite h.stdEnd (.ite h.stdEnd (.ite h.stdEnd h.stdGo))

theorem StoresWf.stdOpen (h : StoresWf s) {e p d} : StoresWf (s.stdOpen e p d) := by
  unfold State.stdOpen
  split
  · split
    · next e => exact h.uBound e
    · split
      split
      next e => exact (StoresWf.fst e h.stdCob).stdGo
  · exact .ite h.stdEnd h.stdGo
  · refine .ite h.stdGo ?_
    split
    · next e => exact h.uBoundIf e
    · extract_lets d
      split
      next e => exact (StoresWf.fst e h.stdZn).stdGo
  · exact h.cutBuf.stdPut
  · exact .ite h.stdEnd (.ite h.stdGo (.ite h.stdEnd (.ite h.stdEnd h.stdEnd)))

theorem StoresWf.stdStart (h : StoresWf s) {e p d} : StoresWf (s.stdStart e p d) := by
  unfold State.stdStart
  split
  next e =>
  have h1 := StoresWf.fst e h.uStart
  refine .ite h1.stdEnd (.ite h1.stdGo ?_)
  split
  · exact h1.stdGo
  · extract_lets s2 spent s3
    have h2 : StoresWf s2 := .ite h1.upd h1
    have h3 : StoresWf s3 := .ite h2.event h2
    clear_value s2 s3
    exact h3.stdEnd

theorem StoresWf.stdStep (h : StoresWf s) {e} : StoresWf (s.stdStep e) := by
  unfold State.stdStep
  split
  · exact h
  · split
    · exact h
    · refine .ite h (.ite h.stdStart ?_)
      split
      exacts [h.stdCipher, h.stdCipher, h.stdZinc, h.stdZinc, h.stdSeal, h.stdOpen, .ite h.stdMove h.stdPost, h.stdMove]

theorem StoresWf.stdTick (h : StoresWf s) : StoresWf s.stdTick :=
  h.foldl fun _ _ h => h.stdStep

end

end Sys2Proof.Machine

namespace Sys2Proof.Machine

open Sys2Proof

/-! The canonical form through the ring pairs, the ledger, the instances and the links. -/

section
set_option Elab.async false
variable {s : State}

theorem StoresWf.onPage (h : StoresWf s) {fn page f} (hk : ∀ t, StoresWf t → ∀ q, StoresWf (f t q)) : NextWf (s.onPage fn page f) := by
  unfold State.onPage
  refine .next ?_
  split
  exacts [hk _ h _, h]

theorem StoresWf.sqpiSet (h : StoresWf s) {q v} : StoresWf (s.sqpiSet q v) :=
  .ite h (.ite (.ite h.modRp.event h.modRp) h.ringError)

theorem StoresWf.execSqpi (h : StoresWf s) {fn page v} : NextWf (execSqpi fn page v s) :=
  h.onPage (fun _ h _ => h.sqpiSet)

theorem StoresWf.cqciSet (h : StoresWf s) {q v} : StoresWf (s.cqciSet q v) :=
  .ite h (.ite h.modRp.ringWrite h.ringError)

theorem StoresWf.execCqci (h : StoresWf s) {fn page v} : NextWf (execCqci fn page v s) :=
  h.onPage (fun _ h _ => h.cqciSet)

theorem StoresWf.dcFill (h : StoresWf s) {h' d} : StoresWf (s.dcFill h' d) :=
  h.upd

theorem StoresWf.fetched (h : StoresWf s) {q idx data pois} : StoresWf (s.fetched q idx data pois) := by
  unfold State.fetched
  refine .ite h ?_
  extract_lets l
  split
  next t hit e =>
  have ht : StoresWf t := by
    split at e
    · next e' =>
      have h1 := StoresWf.injHitIf h e'
      split at e
      exacts [(Prod.mk.inj e).1 ▸ h1, (Prod.mk.inj e).1 ▸ h1.capture]
    · exact (Prod.mk.inj e).1 ▸ h
  refine .ite ht.upd ?_
  split
  exacts [ht.modRp, .ite ht.ringError ht.dcFill.modRp]

theorem StoresWf.execDescriptorFetchComplete (h : StoresWf s) {q idx data pois} : NextWf (execDescriptorFetchComplete q idx data pois s) :=
  .next h.fetched

theorem StoresWf.fetchLate (h : StoresWf s) {q} : StoresWf (s.fetchLate q) := by
  unfold State.fetchLate
  extract_lets r
  split
  exacts [.ite h.ringError h, h]

theorem StoresWf.execDescriptorFetchTimeout (h : StoresWf s) {q} : NextWf (execDescriptorFetchTimeout q s) :=
  .next h.fetchLate

theorem StoresWf.compWrite (h : StoresWf s) {q} : StoresWf (s.compWrite q) := by
  unfold State.compWrite
  extract_lets r size idx a w
  refine .ite h ?_
  split
  exacts [h, h.modRp.out]

theorem StoresWf.execCompletionWrite (h : StoresWf s) {q} : NextWf (execCompletionWrite q s) :=
  .next h.compWrite

theorem StoresWf.compGo (h : StoresWf s) {q idx} : StoresWf (s.compGo q idx) :=
  .ite h.modRp.cqpiAdvance h

theorem StoresWf.execCompletionGo (h : StoresWf s) {q idx} : NextWf (execCompletionGo q idx s) :=
  .next (.ite h.compGo h)

theorem StoresWf.goLate (h : StoresWf s) {q} : StoresWf (s.goLate q) := by
  unfold State.goLate
  split
  exacts [h, h.modRp.ringError]

theorem StoresWf.execCompletionGoTimeout (h : StoresWf s) {q} : NextWf (execCompletionGoTimeout q s) :=
  .next (.ite h.goLate h)

theorem StoresWf.execCompletionInterruptTimer (h : StoresWf s) {q} : NextWf (execCompletionInterruptTimer q s) :=
  .next (.ite h.compSignal h)

theorem StoresWf.sqbSet (h : StoresWf s) {q v} : StoresWf (s.sqbSet q v) :=
  .ite (.ite h h.sg.ringWrite) (.ite h.sg.modRp.ringWrite h.sg.ringWrite)

theorem StoresWf.cqbSet (h : StoresWf s) {q v} : StoresWf (s.cqbSet q v) :=
  .ite h h.sg.ringWrite

theorem StoresWf.onRing (h : StoresWf s) {a q} {f : State → State} (hk : ∀ t, StoresWf t → StoresWf (f t)) : NextWf (s.onRing a q f) :=
  .next (.ite (hk _ h) h)

theorem StoresWf.execRingPairEnable (h : StoresWf s) {a q v} : NextWf (execRingPairEnable a q v s) :=
  h.onRing fun _ h => h.sqbSet

theorem StoresWf.execRingPairDisable (h : StoresWf s) {a q v} : NextWf (execRingPairDisable a q v s) :=
  h.onRing fun _ h => h.sqbSet

theorem StoresWf.hostReq (h : StoresWf s) {h' kind resp bytes pois} : StoresWf (s.hostReq h' kind resp bytes pois) := by
  unfold State.hostReq
  refine .ite h ?_
  split
  exacts [h, h.upd.hostNext]

theorem StoresWf.memBad (h : StoresWf s) {op h'} : StoresWf (s.memBad op h') :=
  .ite h h.out.event

theorem StoresWf.execMemrd (h : StoresWf s) {h' mv} : NextWf (execMemrd h' mv s) := by
  unfold Machine.execMemrd
  refine .next ?_
  split
  exacts [h.hostReq, h.hostReq, h.hostReq, h.hostReq]

theorem StoresWf.execMemrddata (h : StoresWf s) {h' mv} : NextWf (execMemrddata h' mv s) := by
  unfold Machine.execMemrddata
  refine .next ?_
  split
  exacts [h.hostReq, h.hostReq, h.memBad]

theorem StoresWf.execMeminv (h : StoresWf s) {h' mv} : NextWf (execMeminv h' mv s) := by
  unfold Machine.execMeminv
  refine .next ?_
  split
  exacts [h.hostReq, h.hostReq, h.memBad]

theorem StoresWf.execMemclnevct (h : StoresWf s) {h'} : NextWf (execMemclnevct h' s) :=
  .next h.hostReq

theorem StoresWf.execMemspecrd (h : StoresWf s) {_h} : NextWf (execMemspecrd _h s) :=
  .next h

theorem StoresWf.execMemwr (h : StoresWf s) {h' mv data pois} : NextWf (execMemwr h' mv data pois s) :=
  .next h.hostReq

theorem StoresWf.execMemwrptl (h : StoresWf s) {h' mv data mask pois} : NextWf (execMemwrptl h' mv data mask pois s) :=
  .next h.hostReq

theorem StoresWf.execUnsupportedMemRequest (h : StoresWf s) {op h'} : NextWf (execUnsupportedMemRequest op h' s) :=
  .next h.memBad

theorem StoresWf.execHostSnoop (h : StoresWf s) {kind h'} : NextWf (execHostSnoop kind h' s) := by
  unfold Machine.execHostSnoop
  refine .next ?_
  split
  · exact h.out
  · split
    exacts [h.upd.out, h.out, h.out]

theorem StoresWf.execHdmCommit (h : StoresWf s) {base} : NextWf (execHdmCommit base s) :=
  .next (.ite h.upd.out h.upd.upd.setMstat.out)

theorem StoresWf.gpfTick (h : StoresWf s) : StoresWf s.gpfTick := by
  unfold State.gpfTick
  split
  exacts [.ite h h.upd.out, h]

theorem StoresWf.execGpfPhase1 (h : StoresWf s) : NextWf (execGpfPhase1 s) :=
  .next (.ite h.upd.gpfTick h)

theorem StoresWf.execGpfPhase2 (h : StoresWf s) : NextWf (execGpfPhase2 s) :=
  .next h

theorem StoresWf.holdRings (h : StoresWf s) : StoresWf s.holdRings :=
  h.foldl fun _ _ h => .ite h.modRp h

theorem StoresWf.ringsBack (h : StoresWf s) : StoresWf s.ringsBack :=
  (h.foldl fun _ _ h => h.modRp).setMstat.sg.cxlEvt.foldl fun _ _ h => h.msix

theorem StoresWf.attach (h : StoresWf s) : StoresWf s.attach :=
  h.setMstat.ringsBack

theorem StoresWf.execLinkTrained (h : StoresWf s) {width rate flit} : NextWf (execLinkTrained width rate flit s) := by
  unfold Machine.execLinkTrained
  extract_lets ready cm degr v s1 src s2 s3 s4
  have h1 : StoresWf s1 := h.sg.setMstat
  have h2 : StoresWf s2 := h1.upd
  have h3 : StoresWf s3 := h2.event
  have h4 : StoresWf s4 := .ite h3.cxlEvt.event h3
  exact .next (.ite h (.ite h4.attach h4))

theorem StoresWf.detachTick (h : StoresWf s) : StoresWf s.detachTick := by
  unfold State.detachTick
  split
  exacts [h, .ite h (.ite h.upd.upd.setMstat.cxlEvt.msix.event (h.upd.foldl fun _ _ h => h.biStart))]

theorem StoresWf.detachGo (h : StoresWf s) : StoresWf s.detachGo :=
  .ite h h.holdRings.upd

theorem StoresWf.execDetach (h : StoresWf s) {a} : NextWf (execDetach a s) :=
  h.onWrite fun _ h => h.detachGo

theorem StoresWf.execAttach (h : StoresWf s) {a} : NextWf (execAttach a s) :=
  h.onWrite (fun _ h => .ite h.attach h)

theorem StoresWf.removal (h : StoresWf s) {viral} : StoresWf (s.removal viral) := by
  unfold State.removal
  extract_lets s1 held s2 src s3 s4 s5 s6
  have h1 : StoresWf s1 := .ite h h.sg.setMstat
  have h2 : StoresWf s2 := h1.holdRings.setMstat
  have h3 : StoresWf s3 := h2.upd
  have h4 : StoresWf s4 := h3.event
  have h5 : StoresWf s5 := h4.cxlEvt
  have h6 : StoresWf s6 := h5.msix
  clear_value s1 s2 s3 s4 s5 s6
  exact .ite h1 (h6.foldl fun _ _ h => h.biFinish.event)

theorem StoresWf.linkLost (h : StoresWf s) : StoresWf s.linkLost :=
  .ite h.removal h

theorem StoresWf.execSurpriseRemoval (h : StoresWf s) {viral} : NextWf (execSurpriseRemoval viral s) :=
  .next (.ite h.removal (.ite h h.linkLost))

theorem StoresWf.resetStop (h : StoresWf s) {p} : StoresWf (s.resetStop p) :=
  h.modProc

theorem StoresWf.viLost (h : StoresWf s) {i} : StoresWf (s.viLost i) :=
  h.sgVi

theorem StoresWf.setInstState (h : StoresWf s) {i st} : StoresWf (s.setInstState i st) :=
  h.sgVi

theorem StoresWf.instEnd (h : StoresWf s) {i op result reason} : StoresWf (s.instEnd i op result reason) :=
  .report (.ite (.ite h.upd.sgVi.upd h.upd.sgVi) h.upd.sgVi.upd.event)

theorem StoresWf.instCmd (h : StoresWf s) {a i} {f : State → State} (hk : ∀ t, StoresWf t → StoresWf (f t)) : NextWf (s.instCmd a i f) :=
  .next (.ite h (.ite h.viLost (hk _ h)))

theorem StoresWf.inForce (h : StoresWf s) {i} : StoresWf (s.inForce i) :=
  h.setInst.seenFall.foldl fun _ _ h => h.resetStop

theorem StoresWf.create (h : StoresWf s) {i} : StoresWf (s.create i) := by
  unfold State.create
  split
  exacts [h.inForce.setInstState.event.instEnd, h.instEnd]

theorem StoresWf.execCreate (h : StoresWf s) {a i} : NextWf (execCreate a i s) :=
  h.instCmd fun _ h => h.create

theorem StoresWf.applyCmd (h : StoresWf s) {i} : StoresWf (s.applyCmd i) := by
  unfold State.applyCmd
  split
  exacts [h.inForce.instEnd, h.instEnd]

theorem StoresWf.execApply (h : StoresWf s) {a i} : NextWf (execApply a i s) :=
  h.instCmd fun _ h => h.applyCmd

theorem StoresWf.tryStop (h : StoresWf s) {p} : StoresWf (s.tryStop p) := by
  unfold State.tryStop
  extract_lets p q
  split
  · exact h
  · refine .ite h.setProc (.ite h ?_)
    split
    exacts [h, h.setProc]

theorem StoresWf.askStop (h : StoresWf s) {p r} : StoresWf (s.askStop p r) :=
  h.modProc.tryStop

theorem StoresWf.fenceInst (h : StoresWf s) {i} : StoresWf (s.fenceInst i) := by
  unfold State.fenceInst
  extract_lets mine c served s1 s2 its
  have h1 : StoresWf s1 := h.foldl fun _ _ h => (h.foldl fun _ _ h => h.dropOps.entDone).modEng
  have h2 : StoresWf s2 := h1.upd
  clear_value s1 s2
  refine h2.foldl fun _ _ h => ?_
  extract_lets s4
  have h4 : StoresWf s4 := h.modClu
  clear_value s4
  split
  exacts [.ite h4.jobEnd h4, h4]

theorem StoresWf.ledgerReset (h : StoresWf s) {i} : StoresWf (s.ledgerReset i).1 := by
  unfold State.ledgerReset
  split
  next e =>
  refine StoresWf.report (.event (.fst e ?_))
  refine StoresWf.foldlBy (fun x : State × Nat × Nat => x.1) h ?_
  rintro ⟨t, na, nr⟩ q h
  dsimp only
  refine StoresWf.ringWrite (.modRp ?_)
  refine StoresWf.foldlBy (fun x : State × Nat × Nat => x.1) h ?_
  rintro ⟨t, na, nr⟩ ⟨seq, e⟩ h
  exact .iteFst (.report (.ite h.entWrite.abortEnd h.entWrite)) (.iteFst h.report h)

theorem StoresWf.clearMail (h : StoresWf s) {i} : StoresWf (s.clearMail i) :=
  (h.foldl fun _ _ h => h.sgVi.sgVi).sgVi.seenFall

theorem StoresWf.zeroKeys (h : StoresWf s) {i} : StoresWf (s.zeroKeys i) := by
  unfold State.zeroKeys
  refine h.foldl fun _ _ h => ?_
  split
  exact h.kzero

theorem StoresWf.closeInst (h : StoresWf s) {i} : StoresWf (s.closeInst i) :=
  (h.foldl fun _ _ h => .ite h.qCfgSet h).foldl fun _ _ h => .ite h.sg.ringWrite h

theorem StoresWf.resetFinish (h : StoresWf s) {i} : StoresWf (s.resetFinish i) := by
  unfold State.resetFinish
  extract_lets s1 bad
  have h1 : StoresWf s1 := h.fenceInst
  clear_value s1
  split
  next e =>
  extract_lets s2 s3 s4 s5 s6
  have h3 : StoresWf s3 := (StoresWf.fst e h1.ledgerReset).badSlots.closeInst.zeroKeys.clearMail
  have h4 : StoresWf s4 := h3.foldl fun _ _ h => h.resetStop
  have h5 : StoresWf s5 := h4.foldl fun _ _ h => h.modRp
  clear_value s5
  have h6 : StoresWf s6 := h5.upd
  exact h6.setInstState.event

theorem StoresWf.destroyFinish (h : StoresWf s) {i} : StoresWf (s.destroyFinish i) := by
  unfold State.destroyFinish
  extract_lets s1 s2 rings s3 s4 src s5
  have h3 : StoresWf s3 := h.zeroKeys.sg.sg.closeInst.setInstState
  have h4 : StoresWf s4 := h3.foldl fun _ _ h => h.modRp
  clear_value s4
  have hsrc : StoresWf src := h4.setInst.seenFall
  have h5 : StoresWf s5 := hsrc.upd
  exact h5.event.instEnd

theorem StoresWf.resetTry (h : StoresWf s) {i op} : StoresWf (s.resetTry i op) :=
  .ite (.ite h.resetFinish.destroyFinish h.resetFinish.instEnd) h.upd

theorem StoresWf.resetBegin (h : StoresWf s) {i op} : StoresWf (s.resetBegin i op) :=
  .ite h.resetTry ((h.foldl fun _ _ h => h.modRp).foldl fun _ _ h => h.askStop).resetTry

theorem StoresWf.instReset (h : StoresWf s) {i} : StoresWf (s.instReset i) :=
  .ite h.instEnd h.resetBegin

theorem StoresWf.execReset (h : StoresWf s) {a i} : NextWf (execReset a i s) :=
  h.instCmd fun _ h => h.instReset

theorem StoresWf.destroy (h : StoresWf s) {i} : StoresWf (s.destroy i) :=
  .ite h.instEnd (.ite h.upd.destroyFinish h.resetBegin)

theorem StoresWf.execDestroy (h : StoresWf s) {a i} : NextWf (execDestroy a i s) :=
  h.instCmd fun _ h => h.destroy

theorem StoresWf.freezeTry (h : StoresWf s) {i} : StoresWf (s.freezeTry i) :=
  .ite h.upd.setInstState.event.instEnd h

theorem StoresWf.freeze (h : StoresWf s) {i} : StoresWf (s.freeze i) :=
  .ite h.instEnd (h.foldl fun _ _ h => h.modRp).upd

theorem StoresWf.execFreeze (h : StoresWf s) {a i} : NextWf (execFreeze a i s) :=
  h.instCmd fun _ h => h.freeze

theorem StoresWf.freezeDrained (h : StoresWf s) {i} : StoresWf (s.freezeDrained i) :=
  .ite (h.upd.foldl fun _ _ h => h.modProc.askStop).freezeTry h

theorem StoresWf.execFreezeDrainComplete (h : StoresWf s) {i} : NextWf (execFreezeDrainComplete i s) :=
  .next h.freezeDrained

theorem StoresWf.thaw (h : StoresWf s) {i} : StoresWf (s.thaw i) :=
  .ite h.instEnd ((h.foldl fun _ _ h => h.modProc).foldl fun _ _ h => h.modRp).upd.setInstState.event.instEnd

theorem StoresWf.execThaw (h : StoresWf s) {a i} : NextWf (execThaw a i s) :=
  h.instCmd fun _ h => h.thaw

theorem StoresWf.bootTry (h : StoresWf s) {p} : StoresWf (s.bootTry p) := by
  unfold State.bootTry
  extract_lets p q i c a fail src
  have hfail {t} (h : StoresWf t) : StoresWf (fail t) := h.modProc.sgVi
  refine .ite h (.ite h.setProc ?_)
  refine .ite (hfail h) ?_
  split
  · next e => exact StoresWf.snd e h.uncRead
  · next e =>
    have h2 := StoresWf.snd e h.uncRead
    exact .ite (hfail h2) h2.setProc

theorem StoresWf.startProc (h : StoresWf s) {p} : StoresWf (s.startProc p) := by
  unfold State.startProc
  extract_lets p q
  split
  exacts [h.setProc.bootTry, h.setProc, h.setProc, h]

theorem StoresWf.pctl (h : StoresWf s) {a i p} {f : State → State} (hk : ∀ t, StoresWf t → StoresWf (f t)) : NextWf (s.pctl a i p f) :=
  .next (.ite h (.ite h.viLost (hk _ h)))

theorem StoresWf.execStart (h : StoresWf s) {a i p} : NextWf (execStart a i p s) :=
  h.pctl fun _ h => h.startProc

theorem StoresWf.execStop (h : StoresWf s) {a i p} : NextWf (execStop a i p s) :=
  h.pctl fun _ h => h.askStop

theorem StoresWf.mailLost (h : StoresWf s) {i inb} : StoresWf (s.mailLost i inb) :=
  h.viLost.sgVi

theorem StoresWf.mail (h : StoresWf s) {a i o host inb full} {f : State → State} (hk : ∀ t, StoresWf t → StoresWf (f t)) :
    NextWf (s.mail a i o host inb full f) :=
  .next (.ite h (.ite h.mailLost (hk _ h)))

theorem StoresWf.mailFull (h : StoresWf s) {i b v} : StoresWf (s.mailFull i b v) :=
  h.sgVi.seenFall

theorem StoresWf.mailOut (h : StoresWf s) {i} : StoresWf (s.mailOut i) :=
  .ite h.mailFull.msix h.mailFull

theorem StoresWf.execMbidb (h : StoresWf s) {a i} : NextWf (execMbidb a i s) :=
  h.mail fun _ h => h.mailFull

theorem StoresWf.execMbiack (h : StoresWf s) {a i} : NextWf (execMbiack a i s) :=
  h.mail fun _ h => h.mailFull

theorem StoresWf.execMbodb (h : StoresWf s) {a i} : NextWf (execMbodb a i s) :=
  h.mail fun _ h => h.mailOut

theorem StoresWf.execMboack (h : StoresWf s) {a i} : NextWf (execMboack a i s) :=
  h.mail fun _ h => h.mailFull

theorem StoresWf.rptPost (h : StoresWf s) : StoresWf s.rptPost := by
  unfold State.rptPost
  split
  exacts [h, .ite h.upd.out h]

theorem StoresWf.execReportPost (h : StoresWf s) : NextWf (execReportPost s) :=
  .next h.rptPost

theorem StoresWf.rptGo (h : StoresWf s) : StoresWf s.rptGo :=
  .ite h (.ite h.upd.sg.msix h.upd.sg)

theorem StoresWf.execReportGo (h : StoresWf s) : NextWf (execReportGo s) :=
  .next (.ite h.rptGo h)

theorem StoresWf.rptNoGo (h : StoresWf s) : StoresWf s.rptNoGo := by
  unfold State.rptNoGo
  split
  exacts [h, .ite h.upd.sg.msix.event h]

theorem StoresWf.execReportGoTimeout (h : StoresWf s) : NextWf (execReportGoTimeout s) :=
  .next (.ite h.rptNoGo h)

theorem StoresWf.execReportsWaitingOver1s (h : StoresWf s) : NextWf (execReportsWaitingOver1s s) := by
  unfold Machine.execReportsWaitingOver1s
  refine .next ?_
  split
  exacts [h, .ite h.upd.event h]

theorem StoresWf.rptciSet (h : StoresWf s) {v} : StoresWf (s.rptciSet v) :=
  .ite h.sg.sg h

theorem StoresWf.execRptci (h : StoresWf s) {a v} : NextWf (execRptci a v s) :=
  h.onWrite fun _ h => h.rptciSet

theorem StoresWf.rptbSet (h : StoresWf s) {v} : StoresWf (s.rptbSet v) :=
  .ite h.sg (.ite h.sg.sg.sg.upd h.sg)

theorem StoresWf.execFunctionLevelReset (h : StoresWf s) {i} : NextWf (execFunctionLevelReset i s) :=
  .next (.ite h.instReset h)

theorem StoresWf.winRead (h : StoresWf s) {i} : StoresWf (s.winRead i).2 := by
  rw [State.winRead]
  refine .iteSnd ?_ (h.foldl fun _ _ h => h.lineAsk)
  refine StoresWf.foldlBy (fun x : List (List Byte × Bool) × State => x.2) h ?_
  rintro ⟨d, t⟩ l h
  dsimp only
  split
  · next e => exact .snd e h.lineRead
  · next e => exact .snd e h.lineRead

theorem StoresWf.saveEnd (h : StoresWf s) {i len result} : StoresWf (s.saveEnd i len result) :=
  .instEnd (.event (.ite h.upd h))

theorem StoresWf.saveTry (h : StoresWf s) {i st} : StoresWf (s.saveTry i st) := by
  rw [State.saveTry]
  split
  extract_lets top
  split
  · next e => exact StoresWf.upd (.snd e h.winRead)
  · next e =>
    have h1 := StoresWf.snd e h.winRead
    exact .ite h1.saveEnd (.ite h1.saveEnd h1.out.sgVi.saveEnd)

theorem StoresWf.save (h : StoresWf s) {i st} : StoresWf (s.save i st) :=
  .ite h.instEnd (.ite h.saveTry h.saveEnd)

theorem StoresWf.execSave (h : StoresWf s) {a i st} : NextWf (execSave a i st s) :=
  h.instCmd fun _ h => h.save

theorem StoresWf.procLoad (h : StoresWf s) {p rec dt} : StoresWf (s.procLoad p rec dt) :=
  h.modProc

theorem StoresWf.ringLoad (h : StoresWf s) {q rec lgOld lgNew} : StoresWf (s.ringLoad q rec lgOld lgNew) :=
  h.sg.sg.sg.modRp.ringWrite

theorem StoresWf.entLoad (h : StoresWf s) {i rec} : StoresWf (s.entLoad i rec) :=
  .entWrite (.ite h.upd.modRp h.upd)

theorem StoresWf.itemsLoad (h : StoresWf s) {j vs} : StoresWf (s.itemsLoad j vs) := by
  induction vs generalizing s with
  | nil => exact h
  | cons v vs ih => exact ih (.modQ (.upd h))

theorem StoresWf.queuesLoad (h : StoresWf s) {j bs n o} : StoresWf (s.queuesLoad j bs n o) := by
  induction n generalizing s j o with
  | zero => exact h
  | succ n ih => exact ih h.sg.sg.modQ.itemsLoad

theorem StoresWf.restoreGo (h : StoresWf s) {i hdr secs} : StoresWf (s.restoreGo i hdr secs) := by
  unfold State.restoreGo
  extract_lets c lgOld
  split
  extract_lets s1 s2 dt
  have h1 : StoresWf s1 := h.foldl fun _ _ h => h.sgVi.sgVi
  have h2 : StoresWf s2 := h1.sgVi.seenFall
  clear_value s1 s2
  split
  extract_lets s3
  have h3 : StoresWf s3 := by
    unfold s3
    refine h2.foldl fun _ _ h => ?_
    split
    exact h.procLoad
  clear_value s3
  split
  extract_lets s4
  have h4 : StoresWf s4 := h3.foldl fun _ _ h => h.ringLoad
  clear_value s4
  split
  extract_lets s5
  have h5 : StoresWf s5 := h4.foldl fun _ _ h => h.entLoad
  clear_value s5
  split
  exact h5.queuesLoad.upd.event.instEnd

theorem StoresWf.restoreLines (h : StoresWf s) {l0 win bad pos n} : StoresWf (s.restoreLines l0 win bad pos n).2 := by
  induction n generalizing s pos with
  | zero => exact h
  | succ n ih =>
    unfold State.restoreLines
    split
    · next e => exact ih (.snd e h.uncWrite)
    · next e => exact .snd e h.uncWrite

theorem StoresWf.restoreStep (h : StoresWf s) {i} : StoresWf (s.restoreStep i) := by
  unfold State.restoreStep
  split
  · exact h
  · split
    · exact h
    · split
      split
      extract_lets bad
      split
      next e =>
      have h1 := StoresWf.snd e h.restoreLines
      exact .ite h1.upd.restoreGo h1.upd

theorem StoresWf.restoreCheck (h : StoresWf s) {i hdr body} : StoresWf (s.restoreCheck i hdr body) := by
  unfold State.restoreCheck
  extract_lets s1 c s2
  have h1 : StoresWf s1 := h.sgVi
  have h2 : StoresWf s2 := h1.inForce.setInstState
  clear_value s1 s2
  refine .ite h1.instEnd ?_
  split
  · exact h1.instEnd
  · extract_lets cfg
    refine .ite h1.instEnd (.ite h1.instEnd ?_)
    split
    exacts [h2.upd.restoreStep, h1.instEnd]

theorem StoresWf.restoreRead (h : StoresWf s) {i a} : StoresWf (s.restoreRead i a) := by
  unfold State.restoreRead
  split
  · next e => exact (StoresWf.snd e h.uncRead).upd
  · next e =>
    have h2 := StoresWf.snd e h.uncRead
    extract_lets n
    refine .ite h2.instEnd (.ite h2.instEnd ?_)
    refine .ite h2.instEnd ?_
    split
    · next e => exact (StoresWf.snd e h2.uncRead).upd
    · next e =>
      have h4 := StoresWf.snd e h2.uncRead
      exact .ite h4.instEnd h4.restoreCheck

theorem StoresWf.restore (h : StoresWf s) {i ext st} : StoresWf (s.restore i ext st) := by
  unfold State.restore
  refine .ite h.instEnd ?_
  split
  exact .ite (.ite h.instEnd h.restoreRead) (.ite h.instEnd (.ite h.instEnd (.ite h.restoreCheck h.instEnd)))

theorem StoresWf.execRestore (h : StoresWf s) {a i ext st} : NextWf (execRestore a i ext st s) :=
  h.instCmd fun _ h => h.restore

theorem StoresWf.cmdStep (h : StoresWf s) {i op} : StoresWf (s.cmdStep i op) := by
  unfold State.cmdStep
  split
  exacts [h.resetTry, h.resetTry, h.freezeTry, h.saveTry, .ite h.restoreStep h.restoreRead, h]

theorem StoresWf.instTick (h : StoresWf s) : StoresWf s.instTick := by
  unfold State.instTick
  extract_lets s1
  have h1 : StoresWf s1 := h.foldl fun _ _ h => h.tryStop.bootTry
  clear_value s1
  refine h1.foldl fun _ _ h => ?_
  split
  exact h.cmdStep

theorem StoresWf.modLnk (h : StoresWf s) {l f} : StoresWf (s.modLnk l f) :=
  h.upd

theorem StoresWf.setLinkState (h : StoresWf s) {l n} : StoresWf (s.setLinkState l n) :=
  h.sg

theorem StoresWf.mbgStatus (h : StoresWf s) {i} : StoresWf (s.mbgStatus i) :=
  h.sg.raise

theorem StoresWf.sendNull (h : StoresWf s) {l nak} : StoresWf (s.sendNull l nak) := by
  unfold State.sendNull
  extract_lets k
  split
  exact h.modLnk.out

theorem StoresWf.sendSeq (h : StoresWf s) {l q f} : StoresWf (s.sendSeq l q f) := by
  unfold State.sendSeq
  extract_lets k
  split
  split
  next e => exact (StoresWf.injOr h e).modLnk.out

theorem StoresWf.freeInp (h : StoresWf s) {f} : StoresWf (s.freeInp f) := by
  unfold State.freeInp
  split
  exacts [h.modLnk, h]

theorem StoresWf.linkSend (h : StoresWf s) {l f} : StoresWf (s.linkSend l f) :=
  h.freeInp.modLnk.sendSeq

theorem StoresWf.resendAll (h : StoresWf s) {l} : StoresWf (s.resendAll l) := by
  unfold State.resendAll
  extract_lets k
  refine h.foldl fun _ _ h => ?_
  split
  exact h.sendSeq

theorem StoresWf.lackTo (h : StoresWf s) {l lack} : StoresWf (s.lackTo l lack) :=
  h.modLnk

theorem StoresWf.retrain (h : StoresWf s) {l} : StoresWf (s.retrain l) :=
  .ite h.modLnk.event h

theorem StoresWf.replayGo (h : StoresWf s) {l} : StoresWf (s.replayGo l) :=
  .ite h (.ite h.retrain h.modLnk.resendAll)

theorem StoresWf.execNak (h : StoresWf s) {l lack} : NextWf (execNak l lack s) :=
  .next (.ite h.lackTo.replayGo h)

theorem StoresWf.execReplayTimeout (h : StoresWf s) {l} : NextWf (execReplayTimeout l s) :=
  .next (.ite h.replayGo h)

theorem StoresWf.linkChanged (h : StoresWf s) : StoresWf s.linkChanged :=
  h.sg

theorem StoresWf.linkDown (h : StoresWf s) {l} : StoresWf (s.linkDown l) :=
  h.modLnk.upd.sg.linkChanged.mbgStatus.event

theorem StoresWf.execLinkDown (h : StoresWf s) {l} : NextWf (execLinkDown l s) :=
  .next (.ite h.linkDown h)

theorem StoresWf.execLinkRetrain (h : StoresWf s) {l} : NextWf (execLinkRetrain l s) :=
  .next (.ite h.retrain h)

theorem StoresWf.execLinkTrainingAttempt (h : StoresWf s) {l rx tx} : NextWf (execLinkTrainingAttempt l rx tx s) :=
  .next (.ite h.modLnk.setLinkState h)

theorem StoresWf.sendMgt (h : StoresWf s) {l ws} : StoresWf (s.sendMgt l ws) :=
  .ite h.linkSend h

theorem StoresWf.sendHello (h : StoresWf s) {l} : StoresWf (s.sendHello l) :=
  h.sendMgt

theorem StoresWf.execMbovaTrainingComplete (h : StoresWf s) {l rx tx} : NextWf (execMbovaTrainingComplete l rx tx s) := by
  unfold Machine.execMbovaTrainingComplete
  extract_lets n training
  split
  refine .next ?_
  refine .ite h (.ite (.ite h.setLinkState h) ?_)
  extract_lets s1 s2 s3
  have h1 : StoresWf s1 := h.sg.modLnk
  have h2 : StoresWf s2 := .ite h1.event h1
  have h3 : StoresWf s3 := h2.modLnk
  clear_value s1 s2 s3
  exact .ite h2.modLnk.resendAll h3.sendHello

theorem StoresWf.linkActive (h : StoresWf s) {l} : StoresWf (s.linkActive l) :=
  .ite h.setLinkState.linkChanged.event h

theorem StoresWf.linkReject (h : StoresWf s) {l} : StoresWf (s.linkReject l) :=
  .ite h.sendMgt.setLinkState.modLnk.event h

theorem StoresWf.helloAt (h : StoresWf s) {l node shape dir} : StoresWf (s.helloAt l node shape dir) :=
  .ite h (.ite h.sg.modLnk.sendMgt.linkActive h.sg.linkReject)

theorem StoresWf.execHello (h : StoresWf s) {l node shape dir _feat0} : NextWf (execHello l node shape dir _feat0 s) :=
  .next (.ite h.helloAt h)

theorem StoresWf.acceptAt (h : StoresWf s) {l} : StoresWf (s.acceptAt l) :=
  .ite h.modLnk.linkActive h

theorem StoresWf.execAccept (h : StoresWf s) {l} : NextWf (execAccept l s) :=
  .next (.ite h.acceptAt h)

theorem StoresWf.execReject (h : StoresWf s) {l} : NextWf (execReject l s) :=
  .next (.ite h.linkReject h)

theorem StoresWf.execGone (h : StoresWf s) {l} : NextWf (execGone l s) :=
  .next (.ite h.linkDown h)

theorem StoresWf.execLeaveMessage (h : StoresWf s) {l} : NextWf (execLeaveMessage l s) :=
  .next (.ite h.linkDown h)

theorem StoresWf.discard (h : StoresWf s) {f reason} : StoresWf (s.discard f reason) := by
  unfold State.discard
  extract_lets s1 m g
  have h1 : StoresWf s1 := h.freeInp.event
  clear_value s1
  exact .ite h1.upd h1

theorem StoresWf.execMbvSnapReq (h : StoresWf s) {a l} : NextWf (execMbvSnapReq a l s) :=
  h.onWrite fun _ h => h.sg.snapReq

theorem StoresWf.execMbgSnapReq (h : StoresWf s) {a} : NextWf (execMbgSnapReq a s) :=
  h.onWrite fun _ h => h.sg.snapReq

end

end Sys2Proof.Machine

namespace Sys2Proof.Machine

open Sys2Proof

/-! The canonical form through remote requests, the image and its epochs, power, boot and resume. -/

section
set_option Elab.async false
variable {s : State}

theorem StoresWf.sba (h : StoresWf s) {c} : StoresWf (s.sba c) :=
  h.fab

theorem StoresWf.barTag (h : StoresWf s) {tag bad} : StoresWf (s.barTag tag bad) := by
  unfold State.barTag
  refine h.foldl fun _ _ h => ?_
  split
  refine .ite ?_ ?_
  · extract_lets s1 rest
    have h1 : StoresWf s1 := .ite h.sg h
    clear_value s1
    exact .ite h1.upd.sba h1.upd
  · exact h

theorem StoresWf.opDone (h : StoresWf s) {i status res} : StoresWf (s.opDone i status res) := by
  unfold State.opDone
  extract_lets v s1 s2
  have h1 : StoresWf s1 := h.sg
  have h2 : StoresWf s2 := by
    unfold s2
    split
    exacts [h1.sg, h1]
  clear_value s1 s2
  exact .ite h2.mbgStatus h2

theorem StoresWf.ropEnd (h : StoresWf s) {r status pois ws} : StoresWf (s.ropEnd r status pois ws) := by
  unfold State.ropEnd
  extract_lets s1 s2 bs st first cells l s3
  have h1 : StoresWf s1 := h.upd
  have h2 : StoresWf s2 := .ite h1 h1.barTag
  have h3 : StoresWf s3 := by
    unfold s3
    split
    · split
      · exact h2
      · split
        exacts [h2, .ite h2.loadLost h2.loadGets]
    · split
      exacts [h2, .ite h2.dropStores h2.modProc]
    · exact h2.modEng
    · exact h2.modEng
    · exact .ite h2.modProc.readLost h2.modProc
    · exact h2.opDone
  clear_value s1 s2 s3
  exact h3.rPump

theorem StoresWf.remoteOver (h : StoresWf s) {key t d pois} : StoresWf (s.remoteOver key t d pois) := by
  unfold State.remoteOver
  extract_lets grants e s1 g s2
  have h1 : StoresWf s1 := h.setDir
  have h2 : StoresWf s2 := by
    unfold s2
    split
    exacts [h1.send, h1.send, h1.send, h1.send, h1.homeDone]
  clear_value s1 s2
  exact h2.drainQueue

theorem StoresWf.rspAt (h : StoresWf s) {m} : StoresWf (s.rspAt m) := by
  unfold State.rspAt
  split
  · exact h.ropEnd
  · split
    · split
      exacts [.ite h h.remoteOver, h]
    · exact h

theorem StoresWf.pndAt (h : StoresWf s) {m} : StoresWf (s.pndAt m) :=
  h.upd

theorem StoresWf.answer (h : StoresWf s) {m status pois ws} : StoresWf (s.answer m status pois ws) :=
  h.fab

theorem StoresWf.refused (h : StoresWf s) {m a} : StoresWf (s.refused m a) :=
  h.event

theorem StoresWf.doorbell (h : StoresWf s) {m} : StoresWf (s.doorbell m).2 := by
  unfold State.doorbell
  extract_lets w q v slot ws
  refine .iteSnd h (.iteSnd h ?_)
  split
  · next e => exact (StoresWf.snd e h.uncWrite).qResv.qCommit
  · next e => exact StoresWf.snd e h.uncWrite

theorem StoresWf.homePut (h : StoresWf s) {l} {go : State → State} (hk : ∀ t, StoresWf t → StoresWf (go t)) : StoresWf (s.homePut l go).2 := by
  unfold State.homePut
  refine .iteSnd ?_ ?_
  · split
    · next e => exact hk _ (StoresWf.snd e h.grantOr)
    · next e => exact StoresWf.snd e h.grantOr
  · exact h.lineClear

theorem StoresWf.serveReq (h : StoresWf s) {m} : StoresWf (s.serveReq m).2 := by
  unfold State.serveReq
  extract_lets a l mask cells
  split
  · split
    · next e => exact (StoresWf.snd e h.uncRead).answer
    · next e => exact StoresWf.snd e h.uncRead
  · exact h.homePut fun _ h => h.pokeLine.answer
  · refine h.homePut fun _ h => ?_
    split
    next e => exact (StoresWf.snd2 e h.readLine).pokeLine.answer
  · split
    · next e => exact (StoresWf.snd e h.doorbell).answer
    · next e => exact StoresWf.snd e h.doorbell

theorem StoresWf.homeReq (h : StoresWf s) {m} : StoresWf (s.homeReq m) := by
  unfold State.homeReq
  extract_lets a own q l need
  refine .ite h.answer (.ite ?_ ?_)
  · refine .ite h.answer.refused ?_
    split
    · next e => exact StoresWf.snd e h.serveReq
    · next e =>
      have h2 := StoresWf.snd e h.serveReq
      exact .ite h2.upd h2.answer
  · refine .ite h.answer.refused (.ite h.answer ?_)
    split
    · next e => exact StoresWf.snd e h.serveReq
    · next e => exact (StoresWf.snd e h.serveReq).upd

theorem StoresWf.inqGo (h : StoresWf s) {db} : StoresWf (s.inqGo db) := by
  unfold State.inqGo
  refine h.foldl fun _ _ h => ?_
  refine .ite h ?_
  split
  · next e => exact (StoresWf.snd e h.serveReq).upd
  · next e =>
    have h2 := StoresWf.snd e h.serveReq
    exact .ite h2.upd.fab h2

theorem StoresWf.crqTake (h : StoresWf s) {m i} : StoresWf (s.crqTake m i) := by
  unfold State.crqTake
  extract_lets a l code d need kind opens no
  clear_value a l code d need kind opens
  have hno {status} : StoresWf (no status) := .coh (.ite h.unopened h)
  clear_value no
  refine .ite hno (.ite hno.refused ?_)
  split
  exacts [h, h.send]

theorem StoresWf.memAnswer (h : StoresWf s) {w d pois} : StoresWf (s.memAnswer w d pois) := by
  unfold State.memAnswer
  extract_lets l s1 g g2 g3
  have h1 : StoresWf s1 := h.upd
  clear_value s1
  split
  · exact h1.send
  · exact h1.homeBack
  · exact h1.homeBack
  · split
    exact h1.send
  · split
    exact h1.send
  · split
    exact h1.send
  · exact h1

theorem StoresWf.remoteEnd (h : StoresWf s) {l f} : StoresWf (s.remoteEnd l f) := by
  unfold State.remoteEnd
  extract_lets d
  split
  exacts [h, h.upd.homeAct.drainQueue]

theorem StoresWf.remoteCmp (h : StoresWf s) {l} : StoresWf (s.remoteCmp l) :=
  h.coh

theorem StoresWf.remoteGot (h : StoresWf s) {l t st} : StoresWf (s.remoteGot l t st) := by
  unfold State.remoteGot
  split
  exacts [h, .ite h h.remoteCmp.remoteEnd]

theorem StoresWf.remDrop (h : StoresWf s) {l} : StoresWf (s.remDrop l) := by
  unfold State.remDrop
  extract_lets s1 d
  have h1 : StoresWf s1 := by
    unfold s1
    refine h.foldl fun _ _ h => ?_
    split
    · exact h
    · split
      exacts [h.giveUp, h.giveUp, h.giveUp, h.giveUp, h.dropL1D.dropL1I.killResvClu.setLine, h.dropL1D.dropL1I.killResvClu.setLine, h.setLine, h]
  clear_value s1
  exact h1.setDir

theorem StoresWf.remObey (h : StoresWf s) {m} : StoresWf (s.remObey m) := by
  unfold State.remObey
  extract_lets l node a d own
  split
  extract_lets back keep s1 src s2 dd
  have hback {t code} (h : StoresWf t) : StoresWf (back t code) := h.coh
  have hkeep {t me} (h : StoresWf t) : StoresWf (keep t me) := by
    unfold keep
    split
    · split
      · extract_lets st s3 s4 dd2 src2
        have h3 : StoresWf s3 := h.setLine
        have h4 : StoresWf s4 := .ite h3 (h3.foldl fun _ _ h => h.modCore)
        clear_value s3 s4
        exact .ite h4.setDir (.ite h4 h4.setDir)
      · exact h
    · exact h
  have h1 : StoresWf s1 := hkeep (hback h)
  have h2 : StoresWf s2 := hkeep (.ite (hback h) h.coh)
  clear_value s1 s2
  split
  exacts [h1.setDir, hback h, (hback h).remDrop, h.coh.remDrop, .remDrop (.ite (hback h) h.coh), .ite h2.setDir h2]

theorem StoresWf.fwdInGo (h : StoresWf s) : StoresWf s.fwdInGo :=
  h.foldl fun _ _ h => .ite h.upd.remObey h

theorem StoresWf.crsTake (h : StoresWf s) {m i} : StoresWf (s.crsTake m i) := by
  unfold State.crsTake
  extract_lets a w code acks d key ours order old x src got s1
  clear_value a w code acks d key ours old x src
  have horder {k} : StoresWf (order k) := h.upd.fwdInGo
  have hgot {st} : StoresWf (got st) := by
    unfold got
    split
    exacts [h.memAnswer, .ite h (.ite (.ite h (.remoteOver (.ite h.remoteCmp h))) h.upd.remoteGot), h]
  have h1 : StoresWf s1 := h.modTxn
  clear_value order got s1
  split
  · exact horder
  · exact horder
  · exact horder
  · exact horder
  · exact horder
  · exact hgot
  · exact hgot
  · exact hgot
  · exact hgot
  · split
    exacts [h.memAnswer, .ite h h.upd.remoteGot, h]
  · exact h.send
  · split
    exacts [.ite h h1.upd, h]
  · split
    exacts [h.send, h]
  · split
    exacts [.ite h h.upd.homeDone.drainQueue, h]
  · exact h

theorem StoresWf.cohTake (h : StoresWf s) {m i} : StoresWf (s.cohTake m i) :=
  .ite h.crqTake h.crsTake

theorem StoresWf.cohNext (h : StoresWf s) {src i n} : StoresWf (s.cohNext src i n) := by
  induction n generalizing s with
  | zero => exact h
  | succ n ih =>
    unfold State.cohNext
    dsimp only
    split
    exacts [h, ih h.upd.cohTake]

theorem StoresWf.cohAt (h : StoresWf s) {m} : StoresWf (s.cohAt m) := by
  unfold State.cohAt
  split
  exacts [h.event, h.upd.cohNext]

theorem StoresWf.lmwAt (h : StoresWf s) {m} : StoresWf (s.lmwAt m) := by
  unfold State.lmwAt
  extract_lets v o d base g place
  clear_value v o d base g place
  split
  exacts [h, .ite h.upd.fab h]

theorem StoresWf.sbaAt (h : StoresWf s) {m} : StoresWf (s.sbaAt m) := by
  unfold State.sbaAt
  extract_lets w c gen l here
  refine .ite ?_ ?_
  · refine h.upd.foldl fun _ _ h => ?_
    split
    exact h.fab
  · exact h.upd

theorem StoresWf.sbrAt (h : StoresWf s) {c gen aborted} : StoresWf (s.sbrAt c gen aborted) :=
  .ite h.sg.mbgStatus h

theorem StoresWf.mgtAt (h : StoresWf s) {l m} : StoresWf (s.mgtAt l m) := by
  unfold State.mgtAt
  extract_lets w
  split
  exacts [h.helloAt, h.acceptAt, h.linkReject, .ite h.linkDown h, .ite h.linkDown h, h]

theorem StoresWf.deliver (h : StoresWf s) {m} : StoresWf (s.deliver m) := by
  unfold State.deliver
  split
  exacts [h.homeReq, h.homeReq, h.homeReq, h.homeReq, h.rspAt, h.pndAt, h.cohAt, h.cohAt, h.lmwAt, h.mirAck, h.sbaAt, h.sbrAt, h]

theorem StoresWf.fabRow (h : StoresWf s) {typ m} : NextWf (s.fabRow typ m) :=
  .next (.ite h.deliver h)

theorem StoresWf.execRrd (h : StoresWf s) {m} : NextWf (execRrd m s) :=
  h.fabRow

theorem StoresWf.execRwr (h : StoresWf s) {m} : NextWf (execRwr m s) :=
  h.fabRow

theorem StoresWf.execRat (h : StoresWf s) {m} : NextWf (execRat m s) :=
  h.fabRow

theorem StoresWf.execRsp (h : StoresWf s) {m} : NextWf (execRsp m s) :=
  h.fabRow

theorem StoresWf.execPnd (h : StoresWf s) {m} : NextWf (execPnd m s) :=
  h.fabRow

theorem StoresWf.execCrq (h : StoresWf s) {m} : NextWf (execCrq m s) :=
  h.fabRow

theorem StoresWf.execCrs (h : StoresWf s) {m} : NextWf (execCrs m s) :=
  h.fabRow

theorem StoresWf.execLmw (h : StoresWf s) {m} : NextWf (execLmw m s) :=
  h.fabRow

theorem StoresWf.execDbl (h : StoresWf s) {m} : NextWf (execDbl m s) :=
  h.fabRow

theorem StoresWf.execSba (h : StoresWf s) {m} : NextWf (execSba m s) :=
  h.fabRow

theorem StoresWf.execSbr (h : StoresWf s) {c gen aborted} : NextWf (execSbr c gen aborted s) :=
  .next (.ite h.sbrAt h)

theorem StoresWf.execDoorbellRetry (h : StoresWf s) : NextWf (execDoorbellRetry s) :=
  .next (.ite h.inqGo h)

theorem StoresWf.flitAt (h : StoresWf s) {l bs} : StoresWf (s.flitAt l bs) := by
  unfold State.flitAt
  extract_lets hdr x okCrc nak typ lseq b s1 s2 s3 n ws m f
  have hnak {t} (h : StoresWf t) : StoresWf (nak t) := .ite h h.modLnk.sendNull
  have h1 : StoresWf s1 := h.lackTo.modLnk
  have h2 : StoresWf s2 := .ite h1.replayGo h1
  have h3 : StoresWf s3 := h2.modLnk
  clear_value s1 s2 s3
  exact .ite (hnak h.modLnk) (.ite h2 (.ite (hnak h2) (.ite h3.freeInp.mgtAt (.ite h3.freeInp h3.upd))))

theorem StoresWf.execFlitReceive (h : StoresWf s) {l flit} : NextWf (execFlitReceive l flit s) :=
  .next (.ite h.flitAt h)

theorem StoresWf.routeOne (h : StoresWf s) {f} : StoresWf (s.routeOne f) := by
  unfold State.routeOne
  extract_lets s1
  have h1 : StoresWf s1 := h.upd
  clear_value s1
  refine .ite (.ite h h1.freeInp.deliver) ?_
  split
  exacts [h, h1.discard, h1.linkSend]

theorem StoresWf.routePump (h : StoresWf s) : StoresWf s.routePump :=
  h.foldl fun _ _ h => .ite h.routeOne h

theorem StoresWf.mbvRecall (h : StoresWf s) {l} : StoresWf (s.mbvRecall l) :=
  .ite h.startTxn h.homeAct

theorem StoresWf.drainGroup (h : StoresWf s) : StoresWf s.drainGroup := by
  unfold State.drainGroup
  refine .ite h ?_
  refine h.foldl fun _ _ h => ?_
  split
  exact .ite h.mbvRecall h

theorem StoresWf.leaveGo (h : StoresWf s) : StoresWf s.leaveGo := by
  unfold State.leaveGo
  split
  exacts [h, .ite h (h.foldl fun _ _ h => h.sendMgt.linkDown).upd.sg.event]

theorem StoresWf.dirParity (h : StoresWf s) : StoresWf s.dirParity := by
  unfold State.dirParity
  split
  · exact h
  · split
    · exact h
    · next e =>
      have h1 := h.injHit e
      exact .ite h1 h1.capture.mbvRecall

theorem StoresWf.mbovaTick (h : StoresWf s) : StoresWf s.mbovaTick :=
  .leaveGo (.routePump (.rPump (.drainGroup (.inqGo (.fwdInGo (.dirParity (.ite (h.foldl fun _ _ h => h.ropEnd) h)))))))

theorem StoresWf.execRemotePendingTick (h : StoresWf s) {tag} : NextWf (execRemotePendingTick tag s) := by
  unfold Machine.execRemotePendingTick
  refine .next ?_
  split
  · exact h
  · refine .ite h ?_
    extract_lets s1
    have h1 : StoresWf s1 := h.upd
    clear_value s1
    split
    exacts [h1.modProc, h1.modProc, h1]

theorem StoresWf.execFabricTimeout (h : StoresWf s) {tag} : NextWf (execFabricTimeout tag s) := by
  unfold Machine.execFabricTimeout
  refine .next ?_
  split
  · exact h
  · refine .ite h ?_
    extract_lets s1
    have h1 : StoresWf s1 := h.upd.event
    clear_value s1
    split
    exacts [h1.upd.barTag.rPump, h1.upd.barTag.rPump, h1.ropEnd]

theorem StoresWf.opCmd (h : StoresWf s) {i node op} : StoresWf (s.opCmd i node op) :=
  .ite h.sg (.ite h.sg.opDone (.ite h.sg.opDone (.ite h.sg.rIssue h.sg.rIssue)))

theorem StoresWf.opRow (h : StoresWf s) {a slot node op} : NextWf (s.opRow a slot node op) :=
  .ite (h.onWrite (fun _ h => h.opCmd)) (.next h)

theorem StoresWf.execOpFadd (h : StoresWf s) {a slot node} : NextWf (execOpFadd a slot node s) :=
  h.opRow

theorem StoresWf.execOpSwap (h : StoresWf s) {a slot node} : NextWf (execOpSwap a slot node s) :=
  h.opRow

theorem StoresWf.execOpCas (h : StoresWf s) {a slot node} : NextWf (execOpCas a slot node s) :=
  h.opRow

theorem StoresWf.execOpDoorbell (h : StoresWf s) {a slot node} : NextWf (execOpDoorbell a slot node s) :=
  h.opRow

theorem StoresWf.sbArrive (h : StoresWf s) {c} : StoresWf (s.sbArrive c) :=
  .ite h.sg (.ite h.sg.sba h.sg.upd)

theorem StoresWf.execArrive (h : StoresWf s) {a c} : NextWf (execArrive a c s) :=
  h.onWrite fun _ h => h.sbArrive

theorem StoresWf.sbAbort (h : StoresWf s) {c} : StoresWf (s.sbAbort c) := by
  unfold State.sbAbort
  refine .ite h ?_
  extract_lets l s1
  have h1 : StoresWf s1 := by
    unfold s1
    refine h.upd.foldl fun _ _ h => ?_
    split
    exact h.fab
  clear_value s1
  exact h1.event

theorem StoresWf.execSbAbort (h : StoresWf s) {a c} : NextWf (execSbAbort a c s) :=
  h.onWrite fun _ h => h.sbAbort

theorem StoresWf.leaveSet (h : StoresWf s) : StoresWf s.leaveSet :=
  .ite h (h.upd.foldl fun _ _ h => h.ropEnd)

theorem StoresWf.execLeave (h : StoresWf s) {a} : NextWf (execLeave a s) :=
  h.onWrite fun _ h => h.leaveSet

theorem StoresWf.cutEpoch (h : StoresWf s) : StoresWf s.cutEpoch :=
  h.upd.foldl fun _ _ h => h.modStack

theorem StoresWf.captureMark (h : StoresWf s) {l} : StoresWf (s.captureMark l) := by
  unfold State.captureMark
  extract_lets s1 waits
  have h1 : StoresWf s1 := by
    unfold s1
    refine h.foldl fun _ _ h => ?_
    split
    exacts [.ite h.setLine h, h]
  clear_value s1
  exact h1.upd

theorem StoresWf.captured (h : StoresWf s) {st l d p} : StoresWf (s.captured st l d p) := by
  unfold State.captured
  split
  next e => exact (StoresWf.snd e h.tungInj).upd.modStack

theorem StoresWf.capture1 (h : StoresWf s) {st} : StoresWf (s.capture1 st) := by
  unfold State.capture1
  extract_lets me take
  clear_value me
  have htake {t l} (h : StoresWf t) : StoresWf (take t l) := by
    unfold take
    split
    · next e => exact (StoresWf.snd e h.lineRead).captured
    · next e => exact StoresWf.snd e h.lineRead
  clear_value take
  refine .ite h ?_
  split
  exacts [htake h, htake h.captureMark.modStack, h]

theorem StoresWf.execImagerCapture (h : StoresWf s) {st} : NextWf (execImagerCapture st s) :=
  .next (.ite h.capture1 h)

/-- An epoch's lines are put into the image byte for byte. -/
theorem Tun.write_img_wf (ls : Sp (List Byte × Bool)) (unc : List Nat) {t : Tun} (h : Memory.wf t.img = true) :
    Memory.wf (t.write ls unc).img = true := by
  induction ls generalizing t with
  | nil => exact h
  | cons x ls ih => exact ih (Memory.wf_spPutBytes _ _ _ h)

/-- A new record of the image in canonical form. -/
theorem StoresWf.modTun (h : StoresWf s) {f : Tun → Tun} (img : Memory.wf (f s.tun).img = true) : StoresWf (s.modTun f) := by
  obtain ⟨hms, -, hkept⟩ := h
  exact ⟨hms, img, hkept⟩

theorem StoresWf.commitEpoch (h : StoresWf s) {e} : StoresWf (s.commitEpoch e) := by
  unfold State.commitEpoch
  split
  next e =>
  have h1 := StoresWf.snd e h.tungInj
  have hw := h1.2.1
  exact h1.modTun (Tun.write_img_wf _ _ hw)

theorem StoresWf.closeEpoch (h : StoresWf s) : StoresWf s.closeEpoch := by
  unfold State.closeEpoch
  split
  exacts [h, .ite h (h.commitEpoch.foldl fun _ _ h => h.modStack).upd]

theorem StoresWf.execEpochClose (h : StoresWf s) : NextWf (execEpochClose s) :=
  .next (.ite h.closeEpoch h)

theorem StoresWf.tunCut (h : StoresWf s) : StoresWf s.tunCut :=
  .ite h.upd h

theorem StoresWf.execTunCut (h : StoresWf s) {a} : NextWf (execTunCut a s) :=
  h.onWrite fun _ h => h.tunCut

theorem StoresWf.setEff (h : StoresWf s) : StoresWf s.setEff :=
  .ite h h.sg.tunStatus

theorem StoresWf.budgetWrite (h : StoresWf s) {v} : StoresWf (s.budgetWrite v) :=
  h.sg.setEff

theorem StoresWf.execTunBudgetWrite (h : StoresWf s) {a v} : NextWf (execTunBudgetWrite a v s) :=
  h.onWrite fun _ h => h.budgetWrite

theorem StoresWf.execTunSnapReq (h : StoresWf s) {a} : NextWf (execTunSnapReq a s) :=
  h.onWrite fun _ h => h.sg.snapReq

theorem StoresWf.flushSignal (h : StoresWf s) {code} : StoresWf (s.flushSignal code) :=
  h.upd.out

theorem StoresWf.trip (h : StoresWf s) {trig} : StoresWf (s.trip trig) := by
  unfold State.trip
  split
  exacts [(h.foldl fun _ _ h => .ite h.sendMgt h).tick1.upd.upd.out, h.upd.flushSignal, h.upd.flushSignal, h.flushSignal, h]

theorem StoresWf.execPfailTrip (h : StoresWf s) {ns} : NextWf (execPfailTrip ns s) :=
  .next (.ite h.trip (.ite h (.ite h.tick1.trip h.tick1)))

theorem StoresWf.execVholdTrip (h : StoresWf s) {mv} : NextWf (execVholdTrip mv s) :=
  .next (.ite h.trip h)

theorem StoresWf.execTunPflush (h : StoresWf s) {a} : NextWf (execTunPflush a s) :=
  h.onWrite (fun _ h => .ite h.trip h)

theorem StoresWf.execFlushDeadlineMiss (h : StoresWf s) : NextWf (execFlushDeadlineMiss s) :=
  .next (.ite h.upd h)

theorem StoresWf.flushAbort (h : StoresWf s) : StoresWf s.flushAbort :=
  .ite h.upd.flushSignal h

theorem StoresWf.land (h : StoresWf s) {l bs pois} : StoresWf (s.land l bs pois) :=
  .ite h h.pokeLine

theorem StoresWf.drainProc (h : StoresWf s) {p} : StoresWf (s.drainProc p) :=
  ((h.foldl fun _ _ h => .land (.ite h.upd h)).foldl fun _ _ h => h.dropSlot).modProc

theorem StoresWf.drainBack (h : StoresWf s) {m} : StoresWf (s.drainBack m) := by
  unfold State.drainBack
  extract_lets s1
  have h1 : StoresWf s1 := .ite h.land h.land
  clear_value s1
  split
  exacts [.ite h1 h, h1, h]

theorem StoresWf.drainWrite (h : StoresWf s) {m} : StoresWf (s.drainWrite m) := by
  unfold State.drainWrite
  split
  exacts [h.upd.land, h.upd.land, h]

theorem StoresWf.drainCaches (h : StoresWf s) : StoresWf s.drainCaches := by
  unfold State.drainCaches
  extract_lets late s1 moving s2 dirty s3 clear s4
  have h1 : StoresWf s1 := h.foldl fun _ _ h => h.drainBack
  have h2 : StoresWf s2 := h1.foldl fun _ _ h => .ite h.arrayLine h
  have h3 : StoresWf s3 := by
    unfold s3
    refine h2.foldl fun _ _ h => ?_
    refine h.foldl fun _ _ h => ?_
    split
    refine .ite ?_ ?_
    · extract_lets s5
      have h5 : StoresWf s5 := h.checkLine
      clear_value s5
      split
      exacts [.ite h5.arrayLine h5, h5]
    · exact h
  have h4 : StoresWf s4 := h3.upd
  clear_value s1 s2 s3 s4
  exact h4.foldl fun _ _ h => h.drainWrite

theorem StoresWf.drainHost (h : StoresWf s) : StoresWf s.drainHost :=
  h.foldl fun _ _ h => .ite h (h.foldl fun _ _ h => h.upd.land)

theorem StoresWf.settleJobs (h : StoresWf s) {k} : StoresWf (s.settleJobs k) :=
  .modClu (.foldl (.ite h.modClu h.maintEnd) fun _ _ h => h.ctlStart.maintEnd)

theorem StoresWf.drainAll (h : StoresWf s) : StoresWf s.drainAll := by
  unfold State.drainAll
  extract_lets held capt s1 s2 s3 s4 s5
  have h2 : StoresWf s2 := h.upd.stallEnd.drainCaches.drainHost
  clear_value s2
  have h3 : StoresWf s3 := h2.foldl fun _ _ h => .ite h.drainProc h
  have h4 : StoresWf s4 := h3.foldl fun _ _ h => h.settleJobs
  clear_value s4
  exact h4.upd.upd

theorem StoresWf.progress (h : StoresWf s) {code} : StoresWf (s.progress code) :=
  h.upd.out

theorem StoresWf.fatalDrain (h : StoresWf s) : StoresWf s.fatalDrain :=
  h.drainAll.upd

theorem StoresWf.cutDue (h : StoresWf s) : StoresWf s.cutDue :=
  .ite h.fatalDrain.cutEpoch h.cutEpoch

theorem StoresWf.execEpochCut (h : StoresWf s) : NextWf (execEpochCut s) :=
  .next (.ite h.cutDue h)

theorem StoresWf.flushCommit (h : StoresWf s) {us} : StoresWf (s.flushCommit us) := by
  unfold State.flushCommit
  split
  · refine .ite h ?_
    extract_lets s1 n ls
    have h1 : StoresWf s1 := h.progress.drainAll.progress.progress.progress
    clear_value s1
    split
    next e => exact (StoresWf.snd e h1.tungInj).upd.upd.flushSignal
  · exact h

theorem StoresWf.execTunRecheck (h : StoresWf s) {a} : NextWf (execTunRecheck a s) :=
  h.onWrite (fun _ h => .ite h.upd h)

theorem StoresWf.holdUp (h : StoresWf s) {mv us} : StoresWf (s.holdUp mv us) := by
  unfold State.holdUp
  extract_lets hf s1 fill s2
  have h1 : StoresWf s1 := h.sg
  have h2 : StoresWf s2 := h1.upd.setEff
  clear_value s1 s2
  exact .ite h2 h2.event

theorem StoresWf.execHoldUpCheck (h : StoresWf s) {mv us} : NextWf (execHoldUpCheck mv us s) :=
  .next (.ite h.holdUp h)

theorem StoresWf.relocate (h : StoresWf s) : StoresWf s.relocate := by
  unfold State.relocate
  extract_lets x s1 wait s2 spares
  have h1 : StoresWf s1 := h.tick1.upd
  have h2 : StoresWf s2 := h1.upd
  clear_value s1 s2
  exact .ite h2.tunStatus.event h2

theorem StoresWf.execBlockRelocation (h : StoresWf s) {_unit} : NextWf (execBlockRelocation _unit s) :=
  .next (.ite h.relocate h)

theorem StoresWf.setBrs (h : StoresWf s) {v} : StoresWf (s.setBrs v) :=
  h.sg

theorem StoresWf.brsBit (h : StoresWf s) {lo u' b} : StoresWf (s.brsBit lo u' b) :=
  h.setBrs

theorem StoresWf.modBrs (h : StoresWf s) {f} : StoresWf (s.modBrs f) :=
  h.upd

theorem StoresWf.stepOut (h : StoresWf s) {u'} : StoresWf (s.stepOut u') :=
  h.brsBit.modBrs

theorem StoresWf.votedOut (h : StoresWf s) {u'} : StoresWf (s.votedOut u') :=
  h.stepOut.modBrs

theorem StoresWf.enterFatal (h : StoresWf s) {cause code} : StoresWf (s.enterFatal cause code) :=
  .ite h (h.event.sg.setBrs.modBrs.out.foldl fun _ _ h => .ite h.sendMgt h).upd

theorem StoresWf.duplexSettle (h : StoresWf s) {a b} : StoresWf (s.duplexSettle a b) := by
  unfold State.duplexSettle
  split
  extract_lets s1 s2
  have h1 : StoresWf s1 := h.votedOut.modBrs
  have h2 : StoresWf s2 := h1.event
  clear_value s1 s2
  split
  exacts [h2.brsBit.brsBit, h2.event]

theorem StoresWf.compareVotes (h : StoresWf s) {vs} : StoresWf (s.compareVotes vs) := by
  unfold State.compareVotes
  extract_lets v odd
  have hodd {u'} : StoresWf (odd u') := h.votedOut.event
  split
  exacts [.ite h (.ite hodd (.ite hodd (.ite hodd h.enterFatal))), .ite h h.duplexSettle, h]

theorem StoresWf.execVoterDisagreement (h : StoresWf s) {v0 v1 v2} : NextWf (execVoterDisagreement v0 v1 v2 s) :=
  .next (.ite h.compareVotes h)

theorem StoresWf.brassInj (h : StoresWf s) : StoresWf s.brassInj := by
  unfold State.brassInj
  refine h.foldl fun _ _ h => ?_
  refine .ite ?_ ?_
  · split
    · next e => exact (h.injHit e).compareVotes
    · exact h
  · exact h

theorem StoresWf.brassCheck (h : StoresWf s) {u'} : StoresWf (s.brassCheck u') :=
  .ite h.sg.enterFatal h.sg

theorem StoresWf.execBrassInternalCheck (h : StoresWf s) {u'} : NextWf (execBrassInternalCheck u' s) :=
  .next (.ite h.brassCheck h)

theorem StoresWf.rotEnd (h : StoresWf s) : StoresWf s.rotEnd :=
  h.setBrs.modBrs.event

theorem StoresWf.rotNext (h : StoresWf s) {u'} : StoresWf (s.rotNext u') :=
  .ite h.modBrs.rotEnd h.modBrs

theorem StoresWf.brassTested (h : StoresWf s) {u' pass} : StoresWf (s.brassTested u' pass) :=
  .ite (.rotNext (.ite h.modBrs.brsBit.brsBit.brsBit.brassInj.event h.modBrs.brsBit.brsBit.event))
    (.ite (.ite h.modBrs.brsBit.brsBit.event h.modBrs.brsBit.brsBit.event) h)

theorem StoresWf.execUnitSelfTestComplete (h : StoresWf s) {u' pass} : NextWf (execUnitSelfTestComplete u' pass s) :=
  .next (.ite h.brassTested h)

theorem StoresWf.onFlt (h : StoresWf s) {a off} {f : State → State} (hk : ∀ t, StoresWf t → StoresWf (f t)) : NextWf (s.onFlt a off f) :=
  .next (.ite (hk _ h) h)

theorem StoresWf.rotate (h : StoresWf s) : StoresWf s.rotate :=
  .ite h.setBrs h.setBrs.modBrs

theorem StoresWf.execRotate (h : StoresWf s) {a v} : NextWf (execRotate a v s) :=
  h.onFlt (fun _ h => .ite h.rotate h)

theorem StoresWf.rotStep (h : StoresWf s) : StoresWf s.rotStep := by
  unfold State.rotStep
  split
  exacts [h, .ite h (.ite h.rotNext (.modBrs (.brsBit (.ite h.stepOut h))))]

theorem StoresWf.execRotationStep (h : StoresWf s) : NextWf (execRotationStep s) :=
  .next h.rotStep

theorem StoresWf.ageHour (h : StoresWf s) : StoresWf s.ageHour :=
  .ite h (.ite h.modBrs.setBrs.event h.modBrs.setBrs)

theorem StoresWf.execRotationAgeHour (h : StoresWf s) : NextWf (execRotationAgeHour s) :=
  .next h.ageHour

theorem StoresWf.feClaim (h : StoresWf s) {b v} : StoresWf (s.feClaim b v) :=
  .ite h.setFe h.setFe

theorem StoresWf.execFeClaim (h : StoresWf s) {a b v} : NextWf (execFeClaim a b v s) :=
  h.onFlt fun _ h => h.feClaim

theorem StoresWf.feStatWrite (h : StoresWf s) {b v} : StoresWf (s.feStatWrite b v) :=
  .ite h.setFe h.setFe

theorem StoresWf.execFeStatFree (h : StoresWf s) {a b v} : NextWf (execFeStatFree a b v s) :=
  h.onFlt fun _ h => h.feStatWrite

theorem StoresWf.injWrite (h : StoresWf s) {b v} : StoresWf (s.injWrite b v) := by
  unfold State.injWrite
  extract_lets f c u w s1
  have h1 : StoresWf s1 := h.setFe
  clear_value s1
  split
  · split
    · next e => exact (h1.injHit e).rngFail
    · exact h1
  · exact h1.brassInj
  · exact h1

theorem StoresWf.execFeInjArm (h : StoresWf s) {a b v} : NextWf (execFeInjArm a b v s) :=
  h.onFlt fun _ h => h.injWrite

theorem StoresWf.contain (h : StoresWf s) {info} : StoresWf (s.contain info).1 :=
  .iteFst h.modProc.askStop (.iteFst ((h.foldl fun _ _ h => .ite h.modProc.askStop h).foldl fun _ _ h => h.modRp).upd h)

theorem StoresWf.escalate (h : StoresWf s) {b} : StoresWf (s.escalate b) := by
  unfold State.escalate
  extract_lets f c st s1
  have h1 : StoresWf s1 := h.setFe
  clear_value s1
  split
  · exact h
  · refine .ite h ?_
    split
    next e =>
    have h2 := StoresWf.fst e (.iteFst h1.contain h1)
    exact .ite h2.raiseFlt.event h2.raiseFlt.event.enterFatal

theorem StoresWf.execEscalationTimerExpiry (h : StoresWf s) {b} : NextWf (execEscalationTimerExpiry b s) :=
  .next h.escalate

theorem StoresWf.quietExit (h : StoresWf s) {b c} : StoresWf (s.quietExit b c) :=
  .ite h h.setFe.event

theorem StoresWf.execQuietPeriodExpiry (h : StoresWf s) {b c} : NextWf (execQuietPeriodExpiry b c s) :=
  .next h.quietExit

theorem StoresWf.uncontain (h : StoresWf s) {p} : StoresWf (s.uncontain p) :=
  h.modProc

theorem StoresWf.crel (h : StoresWf s) {v} : StoresWf (s.crel v) := by
  unfold State.crel
  extract_lets n s1 s2
  have h1 : StoresWf s1 := h.foldl fun _ _ h => h.uncontain
  have h2 : StoresWf s2 := h1.foldl fun _ _ h => h.modRp
  clear_value s2
  exact .ite h.uncontain (.ite h2.upd h)

theorem StoresWf.execCrel (h : StoresWf s) {a v} : NextWf (execCrel a v s) :=
  h.onFlt fun _ h => h.crel

theorem StoresWf.execFltSnapReq (h : StoresWf s) {a} : NextWf (execFltSnapReq a s) :=
  h.onFlt fun _ h => h.sg.snapReq

theorem StoresWf.modPew (h : StoresWf s) {f} : StoresWf (s.modPew f) :=
  h.upd

theorem StoresWf.modMgmt (h : StoresWf s) {f} : StoresWf (s.modMgmt f) :=
  h.upd

theorem StoresWf.traceRec (h : StoresWf s) {r} : StoresWf (s.traceRec r) :=
  .ite h (.ite h.modMgmt h.modMgmt)

theorem StoresWf.pewWrite (h : StoresWf s) {ok} : StoresWf (s.pewWrite ok) := by
  unfold State.pewWrite
  split
  · exact h
  · extract_lets drop
    have hd : StoresWf drop := h.modPew
    split
    · exact hd
    · split
      next e =>
      have h1 := StoresWf.injOr h e
      split
      next e =>
      have h2 := StoresWf.snd e (StoresWf.tungInj h1)
      exact .traceRec (.ite h2.modPew.raise h2.modPew)

theorem StoresWf.execPewterRecordWrite (h : StoresWf s) {ok} : NextWf (execPewterRecordWrite ok s) :=
  .next (.ite h.pewWrite h)

theorem StoresWf.refill (h : StoresWf s) {code} : StoresWf (s.refill code) := by
  unfold State.refill
  split
  exacts [h, .ite h (.ite h.modPew (.ite h.modPew h.modPew))]

theorem StoresWf.execTokenBucketRefill (h : StoresWf s) {code} : NextWf (execTokenBucketRefill code s) :=
  .next (.ite h.refill h)

theorem StoresWf.anchor (h : StoresWf s) : StoresWf s.anchor :=
  h.event.modPew

theorem StoresWf.execAncw (h : StoresWf s) {a _v} : NextWf (execAncw a _v s) :=
  h.onWrite fun _ h => h.anchor

theorem StoresWf.note (h : StoresWf s) {v} : StoresWf (s.note v) :=
  .ite h h.event

theorem StoresWf.execNotew (h : StoresWf s) {a v} : NextWf (execNotew a v s) :=
  h.onWrite fun _ h => h.note

theorem StoresWf.pewRead (h : StoresWf s) {v} : StoresWf (s.pewRead v) :=
  .ite h (h.foldl fun _ _ h => h.sg)

theorem StoresWf.execRcmd (h : StoresWf s) {a v} : NextWf (execRcmd a v s) :=
  h.onWrite fun _ h => h.pewRead

theorem StoresWf.execPewSnapReq (h : StoresWf s) {a} : NextWf (execPewSnapReq a s) :=
  h.onWrite fun _ h => h.sg.snapReq

theorem StoresWf.execCheckpointTick (h : StoresWf s) : NextWf (execCheckpointTick s) :=
  .next (.ite h.modPew h)

theorem StoresWf.pewTick (h : StoresWf s) : StoresWf s.pewTick := by
  unfold State.pewTick
  split
  exacts [h.modPew, h.modPew, h.modPew, h.modPew, h.modPew, h]

theorem StoresWf.setClk (h : StoresWf s) {p v} : StoresWf (s.setClk p v) :=
  h.sg

theorem StoresWf.clkTake (h : StoresWf s) {p set} : StoresWf (s.clkTake p set) :=
  h.setClk.modProc.event

theorem StoresWf.relockStart (h : StoresWf s) {p} : StoresWf (s.relockStart p) :=
  .ite h.setProc h

theorem StoresWf.clkSet (h : StoresWf s) {p v} : StoresWf (s.clkSet p v) := by
  unfold State.clkSet
  extract_lets set q s1
  have h1 : StoresWf s1 := h.setClk
  clear_value s1
  refine .ite h ?_
  split
  exacts [.ite h1.setProc h1.relockStart, h1.clkTake]

theorem StoresWf.execClkProcSet (h : StoresWf s) {a p v} : NextWf (execClkProcSet a p v s) :=
  h.onWrite fun _ h => h.clkSet

theorem StoresWf.execClockRelockComplete (h : StoresWf s) {p} : NextWf (execClockRelockComplete p s) := by
  unfold Machine.execClockRelockComplete
  refine .next ?_
  extract_lets s1
  have h1 : StoresWf s1 := h.relockStart
  clear_value s1
  split
  exacts [h1.clkTake, h1]

theorem StoresWf.refLose (h : StoresWf s) {r khz} : StoresWf (s.refLose r khz) := by
  unfold State.refLose
  split
  extract_lets s1 s2
  have h1 : StoresWf s1 := h.upd
  have h2 : StoresWf s2 := h1.sg.event
  clear_value s1 s2
  split
  exacts [h2.linkLost, h2.foldl fun _ _ h => .ite h.linkDown h, h2.sg.event]

theorem StoresWf.execReferenceClockLoss (h : StoresWf s) {r khz} : NextWf (execReferenceClockLoss r khz s) := by
  unfold Machine.execReferenceClockLoss
  refine .next ?_
  split
  exact .ite h.refLose h

theorem StoresWf.execClkSnapReq (h : StoresWf s) {a} : NextWf (execClkSnapReq a s) :=
  h.onWrite fun _ h => h.sg.snapReq

theorem StoresWf.sgs (h : StoresWf s) {l} : StoresWf (s.sgs l) := by
  unfold State.sgs
  refine h.foldl fun _ _ h => ?_
  split
  exact h.sg

theorem StoresWf.snap (h : StoresWf s) {b} : StoresWf (s.snap b) := by
  unfold State.snap
  extract_lets s1 s2
  have h1 : StoresWf s1 := h.sgs
  have h2 : StoresWf s2 := h1.upd
  clear_value s1 s2
  split
  exacts [h2.modProc, h2.tick1, h2]

theorem StoresWf.execSnapshotCapture (h : StoresWf s) {b} : NextWf (execSnapshotCapture b s) :=
  .next (.ite h.snap h)

theorem StoresWf.islandReset (h : StoresWf s) {i} : StoresWf (s.islandReset i) := by
  unfold State.islandReset
  extract_lets s1
  have h1 : StoresWf s1 := h.upd
  clear_value s1
  split
  exacts [.ite h1.clearL1 h1, h1]

theorem StoresWf.execIslandReset (h : StoresWf s) {isl} : NextWf (execIslandReset isl s) :=
  .next (.ite h.islandReset h)

theorem StoresWf.coreFailed (h : StoresWf s) {k c} : StoresWf (s.coreFailed k c) := by
  unfold State.coreFailed
  split
  exacts [.ite h.setRetired.setSpareIdx h.setRetired,
    .ite h.modClu.selfTest (.ite h.setRetired.clearL1.clearL1.setMap.setSpareIdx.unpause.tick1.spEvent.raiseSp
      h.setRetired.setMap.loseProc.spEvent.raiseSp)]

theorem StoresWf.crossingFail (h : StoresWf s) {i} : StoresWf (s.crossingFail i) := by
  unfold State.crossingFail
  extract_lets s1 ev
  have h1 : StoresWf s1 := h.tick1
  clear_value s1
  split
  exacts [h1.event.coreFailed, h1.event.enterFatal]

theorem StoresWf.execCrossingRearmTimeout (h : StoresWf s) {isl} : NextWf (execCrossingRearmTimeout isl s) :=
  .next (.ite h.crossingFail h)

theorem StoresWf.rolledBack (h : StoresWf s) : StoresWf s.rolledBack := by
  obtain ⟨hms, himg, hkept⟩ := h
  unfold State.rolledBack
  split
  · exact ⟨hms, himg, hkept⟩
  · next k e => exact .of_kept_none hms (hkept k e) rfl

theorem StoresWf.powerOff (h : StoresWf s) : StoresWf s.powerOff := by
  unfold State.powerOff
  extract_lets s1 tun pew s2 s3 s4 s5
  have h1 : StoresWf s1 := h.rolledBack
  have h5 : StoresWf s5 := .of_kept_none rfl h1.2.1 rfl
  clear_value s1 s5
  exact h5.foldl fun _ _ h => h.sgVi.foldl fun _ _ h => h.sgVi

theorem StoresWf.unassert (h : StoresWf s) : StoresWf s.unassert :=
  .ite h.upd h

theorem StoresWf.execPwrokFall (h : StoresWf s) : NextWf (execPwrokFall s) :=
  .next (.ite h.unassert h.powerOff)

theorem StoresWf.bootMarks (h : StoresWf s) {b cfg k} : StoresWf (s.bootMarks b cfg k) :=
  h.sg.sg

theorem StoresWf.bootAssign (h : StoresWf s) {b k} : StoresWf (s.bootAssign b k) := by
  unfold State.bootAssign
  extract_lets s1 v
  have h1 : StoresWf s1 := h.foldl fun _ _ h => .ite h.setChkBad.spEvent h
  clear_value s1
  split
  exact h1.sg.setSpareIdx

theorem StoresWf.bootChan (h : StoresWf s) {b} : StoresWf (s.bootChan b) :=
  h.foldl fun _ _ h => .ite h.modStack.sg.event h

theorem StoresWf.stdTable (h : StoresWf s) : StoresWf s.stdTable := by
  unfold State.stdTable
  refine h.foldl fun _ _ h => ?_
  split
  exact h.sg

theorem StoresWf.loadImages (h : StoresWf s) : StoresWf s.loadImages :=
  h.foldl fun _ _ h => .ite (h.foldl fun _ _ h => h.sectWrite) h

theorem StoresWf.loadPatch (h : StoresWf s) : StoresWf s.loadPatch := by
  unfold State.loadPatch
  split
  exacts [h.sg.tick1, h]

theorem StoresWf.setPhase (h : StoresWf s) {n} : StoresWf (s.setPhase n) :=
  h.sg

/-- What a boot finds is kept as it is. -/
theorem StoresWf.keeps (h : StoresWf s) {k : Kept} (hk : Memory.wf k.tun.img = true) : StoresWf { s with kept := some k } := by
  obtain ⟨hms, himg, -⟩ := h
  exact ⟨hms, himg, fun _ e => Option.some.inj e ▸ hk⟩

theorem StoresWf.bootGo (h : StoresWf s) {b} : StoresWf (s.bootGo b) := by
  unfold State.bootGo
  extract_lets keep cls w pew s1 s2 s3 s4 s5 s6 s7 s8 mx s9 s10
  have hk : Memory.wf keep.tun.img = true := h.2.1
  have h1 : StoresWf s1 := h.upd
  have h5 : StoresWf s5 := h1.setBrs.sg.sg.sg.sg.sg
  have h6 : StoresWf s6 := h5.event
  clear_value s6
  have h7 : StoresWf s7 := .ite (h6.foldl fun _ _ h => h.sg) h5
  have h8 : StoresWf s8 := .ite h7.event h7
  have h9 : StoresWf s10 := h8.sg.sg
  clear_value s10
  exact (h9.keeps hk).setPhase

theorem StoresWf.bootCores (h : StoresWf s) {b} : StoresWf (s.bootCores b) := by
  unfold State.bootCores
  extract_lets cfg ks s1 s2
  have h1 : StoresWf s1 := h.foldl fun _ _ h => h.bootMarks
  have h2 : StoresWf s2 := h1.foldl fun _ _ h => h.bootAssign
  clear_value s1 s2
  exact .setPhase (.ite h2 h2.loadPatch)

theorem StoresWf.bootSource (h : StoresWf s) : StoresWf s.bootSource := by
  unfold State.bootSource
  split
  exacts [h.sg.upd.setPhase, h.upd.setPhase]

theorem StoresWf.bootLost (h : StoresWf s) : StoresWf s.bootLost :=
  h.foldl fun _ _ h => (h.foldl fun _ _ h => .ite h.loseProc h)

theorem StoresWf.powerOn (h : StoresWf s) {b} : StoresWf (s.powerOn b) :=
  .ite h.upd h.bootGo

theorem StoresWf.execPwrokRise (h : StoresWf s) {b} : NextWf (execPwrokRise b s) :=
  .next (.ite h.powerOn h)

theorem StoresWf.format (h : StoresWf s) : StoresWf s.format :=
  .ite h.upd.upd.sg h

theorem StoresWf.execTunFormat (h : StoresWf s) {a} : NextWf (execTunFormat a s) :=
  h.onWrite fun _ h => h.format

theorem StoresWf.restarted (h : StoresWf s) {asked} : StoresWf (s.restarted asked) := by
  unfold State.restarted
  refine .ite ?_ ?_
  · split
    exacts [h.powerOff.powerOn, h]
  · exact h

theorem StoresWf.sysReset (h : StoresWf s) {v} : StoresWf (s.sysReset v) :=
  .ite h.trip.upd.restarted h.sg

theorem StoresWf.execSysResetRestart (h : StoresWf s) {a v} : NextWf (execSysResetRestart a v s) :=
  h.onWrite fun _ h => h.sysReset

theorem StoresWf.execSysLock (h : StoresWf s) {a v} : NextWf (execSysLock a v s) :=
  h.onWrite (fun _ h => .ite h.sg h)

theorem StoresWf.bpGo (h : StoresWf s) : StoresWf s.bpGo := by
  unfold State.bpGo
  split
  · exact h
  · split
    · next e => exact StoresWf.snd e h.uncRead
    · next e =>
      have h2 := StoresWf.snd e h.uncRead
      split
      next e => exact (StoresWf.snd e h2.tungInj).upd.sg

theorem StoresWf.bpWrite (h : StoresWf s) {v} : StoresWf (s.bpWrite v) := by
  unfold State.bpWrite
  extract_lets n s1 a
  have h1 : StoresWf s1 := .ite h.sg h
  clear_value s1
  exact .ite h1.sg (.ite h1.upd.sg (.ite h1.sg h1.upd.sg.bpGo))

theorem StoresWf.execBootProgramInstall (h : StoresWf s) {a v} : NextWf (execBootProgramInstall a v s) :=
  h.onWrite (fun _ h => .ite h h.bpWrite)

theorem StoresWf.execBootProgramRemove (h : StoresWf s) {a v} : NextWf (execBootProgramRemove a v s) :=
  h.onWrite (fun _ h => .ite h.bpWrite h)

theorem StoresWf.execVauxPresent (h : StoresWf s) : NextWf (execVauxPresent s) :=
  .next (.ite h h.upd)

theorem StoresWf.execVauxAbsent (h : StoresWf s) : NextWf (execVauxAbsent s) :=
  .next (.upd (.ite h.unassert h.powerOff))

theorem StoresWf.execPerst (h : StoresWf s) : NextWf (execPerst s) :=
  .next h.linkLost

theorem StoresWf.execFlushDone (h : StoresWf s) {us} : NextWf (execFlushDone us s) :=
  .next h.flushCommit.restarted

theorem StoresWf.execFlushAbort (h : StoresWf s) : NextWf (execFlushAbort s) :=
  .next h.flushAbort.restarted

theorem StoresWf.execHuokFall (h : StoresWf s) : NextWf (execHuokFall s) :=
  .next h.flushAbort.restarted

theorem StoresWf.lateRec (h : StoresWf s) {e ms pcyc} : StoresWf (s.lateRec e ms pcyc) :=
  h.event.modPew

theorem StoresWf.coldStart (h : StoresWf s) : StoresWf s.coldStart := by
  obtain ⟨-, -, hkept⟩ := h
  exact ⟨rfl, rfl, hkept⟩

theorem StoresWf.imageBack (h : StoresWf s) : StoresWf s.imageBack := by
  obtain ⟨-, himg, hkept⟩ := h
  unfold State.imageBack
  extract_lets s1
  have h1 : StoresWf s1 := ⟨himg, himg, hkept⟩
  exact h1.foldl fun _ _ h => h.poisonLine

theorem StoresWf.lostLine (h : StoresWf s) {l region} : StoresWf (s.lostLine l region) :=
  h.event

theorem StoresWf.applyFlush (h : StoresWf s) {e f} : StoresWf (s.applyFlush e f) := by
  unfold State.applyFlush
  extract_lets mark o ls bad ep
  refine h.commitEpoch.imageBack.foldl fun _ _ h => ?_
  split
  exact h.lostLine

theorem StoresWf.fallBack (h : StoresWf s) {e cause} : StoresWf (s.fallBack e cause) := by
  unfold State.fallBack
  extract_lets s1 s2 s3 s4 cut s5
  have h2 : StoresWf s2 := StoresWf.imageBack (h.modTun h.2.1)
  have h3 : StoresWf s3 := h2.foldl fun _ _ h => h.lostLine
  have h4 : StoresWf s4 := h3.foldl fun _ _ h => .ite h.sg h
  have h5 : StoresWf s5 := h4.sg
  clear_value s5
  exact h5.upd.event

theorem StoresWf.machineBack (h : StoresWf s) {m} : StoresWf (s.machineBack m) := by
  unfold State.machineBack
  extract_lets dt fe late s1 s2 s3 s4
  have h1 : StoresWf s1 := by
    unfold s1
    refine h.upd.foldl fun _ _ h => ?_
    split
    exact .ite h.setFe h
  have h2 : StoresWf s2 := by
    unfold s2
    refine h1.foldl fun _ _ h => ?_
    split
    exact .ite h.upd h.sg
  have h3 : StoresWf s3 := h2.upd
  have h4 : StoresWf s4 := h3.modPew
  clear_value s1 s2 s3 s4
  refine h4.foldl fun _ _ h => ?_
  split
  exacts [h.clkTake, .ite h h.setClk]

theorem StoresWf.repost (h : StoresWf s) {q seq e comp} : StoresWf (s.repost q seq e comp) :=
  h.modRp.entWrite

theorem StoresWf.resolveEnt (h : StoresWf s) {q seq e} : StoresWf (s.resolveEnt q seq e).2 := by
  unfold State.resolveEnt
  extract_lets r own s1
  have h1 : StoresWf s1 := h.repost
  clear_value s1
  refine .iteSnd h (.iteSnd h1.event ?_)
  split
  exacts [h, .iteSnd h.repost h, .iteSnd h.setEnt h.repost]

theorem StoresWf.resolveBad (h : StoresWf s) {q} : StoresWf (s.resolveBad q) := by
  unfold State.resolveBad
  extract_lets n a es gone s1 s2 s3
  have h1 : StoresWf s1 := h.modRp.sg
  have h2 : StoresWf s2 := h1.sg
  have h3 : StoresWf s3 := by
    unfold s3
    refine h2.foldl fun _ _ h => ?_
    split
    extract_lets fl
    split
    exacts [h, h.report, h.entWrite.report]
  clear_value s1 s2 s3
  exact h3.event

theorem StoresWf.resolve (h : StoresWf s) : StoresWf s.resolve.2 := by
  unfold State.resolve
  extract_lets s1
  have h1 : StoresWf s1 := .ite h.resync h
  clear_value s1
  split
  next e =>
  refine StoresWf.elcStatus (.snd e ?_)
  refine StoresWf.foldlBy (fun x : Bool × State => x.2) h1 ?_
  rintro ⟨b, t⟩ q h
  refine .iteSnd h.resolveBad (.iteSnd ?_ h)
  refine StoresWf.foldlBy (fun x : Bool × State => x.2) h ?_
  rintro ⟨b, t⟩ ⟨n, e⟩ h
  dsimp only
  exact h.resolveEnt

theorem StoresWf.cmdAgain (h : StoresWf s) {i op} : StoresWf (s.cmdAgain i op) := by
  unfold State.cmdAgain
  split
  exacts [h.resetBegin, h.resetBegin, h.instEnd, h.setInst.setInstState.instEnd, h.freeze.freezeDrained]

theorem StoresWf.cmdsAgain (h : StoresWf s) : StoresWf s.cmdsAgain := by
  unfold State.cmdsAgain
  refine h.upd.foldl fun _ _ h => ?_
  split
  exact h.cmdAgain

theorem StoresWf.resetEntry (h : StoresWf s) {p} : StoresWf (s.resetEntry p) :=
  .ite h.setProc h

theorem StoresWf.bootRelease (h : StoresWf s) : StoresWf s.bootRelease := by
  unfold State.bootRelease
  refine .ite h ?_
  extract_lets go l
  have hgo {t} (h : StoresWf t) : StoresWf (go t) := h.foldl fun _ _ h => h.resetEntry
  split
  exacts [hgo h, .ite (hgo (h.foldl fun _ _ h => h.uncWrite)) h.event]

theorem StoresWf.flushEvents (h : StoresWf s) {f} : StoresWf (s.flushEvents f) :=
  .ite h.lateRec.lateRec h.lateRec

theorem StoresWf.bootRestore (h : StoresWf s) {x} : StoresWf (s.bootRestore x) := by
  unfold State.bootRestore
  extract_lets flush saved s1 s2
  have h1 : StoresWf s1 := by
    unfold s1
    split
    exacts [h.coldStart, h.flushEvents.upd.applyFlush, h.upd.fallBack]
  have h2 : StoresWf s2 := by
    unfold s2
    split
    exacts [h1.machineBack, h1]
  clear_value s1 s2
  split
  extract_lets s4
  have h4 : StoresWf s4 := by
    unfold s4
    split
    exacts [h2.lateRec.upd, h2]
  clear_value s4
  exact h4.bootLost.setPhase

theorem StoresWf.bootImages (h : StoresWf s) {x} : StoresWf (s.bootImages x) := by
  unfold State.bootImages
  extract_lets s1
  have h1 : StoresWf s1 := .ite h.stdTable h
  clear_value s1
  exact .setPhase (.ite h1 h1.loadImages)

theorem StoresWf.bootLedger (h : StoresWf s) {x} : StoresWf (s.bootLedger x) := by
  unfold State.bootLedger
  extract_lets s1
  have h1 : StoresWf s1 := h.upd
  clear_value s1
  split
  next e => exact (StoresWf.snd e (.iteSnd h1 h1.resolve)).upd.setPhase

theorem StoresWf.bootTick (h : StoresWf s) : StoresWf s.bootTick := by
  unfold State.bootTick
  refine .ite h ?_
  split
  exacts [h.bootCores, h.bootChan.setPhase, h.bootSource, h.bootRestore, .ite h h.bootImages, h.bootLedger, h.upd.setPhase, h]

theorem StoresWf.heldBack (h : StoresWf s) : StoresWf s.heldBack := by
  unfold State.heldBack
  refine h.foldl fun _ _ h => ?_
  split
  exacts [.ite h.modRp (.ite h.modRp h), h]

theorem StoresWf.timersBack (h : StoresWf s) {m} : StoresWf (s.timersBack m) :=
  h.upd

/-- A release forgets what the boot found. -/
theorem StoresWf.forgets (h : StoresWf s) : StoresWf { s with kept := none } := by
  obtain ⟨hms, himg, -⟩ := h
  exact .of_kept_none hms himg rfl

theorem StoresWf.release (h : StoresWf s) {x} : StoresWf (s.release x) := by
  unfold State.release
  extract_lets code s1 s2 mx s3 s4 s5 s6 s7 s8
  have h1 : StoresWf s1 := by
    unfold s1
    split
    exacts [h.timersBack, h]
  have h2 : StoresWf s2 := .ite h1.setMstat h1
  clear_value s2
  have h3 : StoresWf s3 := h2.upd.forgets
  have h5 : StoresWf s5 := (h3.modTun h3.2.1).sg.setPhase
  have h6 : StoresWf s6 := .ite h5.setMstat h5.ringsBack
  have h7 : StoresWf s7 := h6.heldBack.cmdsAgain
  have h8 : StoresWf s8 := .ite h7 h7.bootRelease
  exact h8.tick1.event

theorem StoresWf.execProcessorsReleased (h : StoresWf s) : NextWf (execProcessorsReleased s) := by
  unfold Machine.execProcessorsReleased
  refine .next ?_
  split
  exacts [.ite h.release h, h]

theorem StoresWf.execManagementRead (h : StoresWf s) {addr} : NextWf (execManagementRead addr s) :=
  .next (.ite h.out h)

theorem StoresWf.mgmtSet (h : StoresWf s) {a v} : StoresWf (s.mgmtSet a v) :=
  .ite h.modMgmt (.ite h.modMgmt (.ite h.modMgmt h))

theorem StoresWf.execManagementWrite (h : StoresWf s) {addr v} : NextWf (execManagementWrite addr v s) :=
  .next (.ite h.mgmtSet h)

theorem StoresWf.traceNext (h : StoresWf s) : StoresWf s.traceNext := by
  unfold State.traceNext
  extract_lets m
  refine .ite h.out ?_
  split
  · refine .ite h.modMgmt.out ?_
    split
    exacts [h.modMgmt.out, h]
  · exact h.modMgmt.out
  · exact h.out

theorem StoresWf.execTraceFrame (h : StoresWf s) : NextWf (execTraceFrame s) :=
  .next (.ite h.traceNext h)

theorem StoresWf.throttleClocks (h : StoresWf s) {d} : StoresWf (s.throttleClocks d) :=
  h.foldl fun _ _ h => .ite h.setClk h

theorem StoresWf.throttle (h : StoresWf s) {d t} : StoresWf (s.throttle d t) := by
  unfold State.throttle
  extract_lets ev s1
  have h1 : StoresWf s1 := by
    unfold s1
    split
    exacts [.ite h.modMgmt.throttleClocks.event h,
      .ite h.modMgmt.throttleClocks (.ite (.ite h.modMgmt.throttleClocks.event h.modMgmt.throttleClocks) h)]
  clear_value s1
  exact .ite h1 h1.modMgmt

theorem StoresWf.sensorGroup (h : StoresWf s) {g t} : StoresWf (s.sensorGroup g t) := by
  unfold State.sensorGroup
  split
  extract_lets d s1 s2 d2 run s3
  have h1 : StoresWf s1 := .ite h.modMgmt (.ite h h.tick1.modMgmt.event)
  have h2 : StoresWf s2 := .ite h1.throttle h1
  have h3 : StoresWf s3 := h2.tick1.trip
  clear_value s1 s2 s3
  exact .ite (.ite h3.upd h3) h2

theorem StoresWf.sensors (h : StoresWf s) {r} : StoresWf (s.sensors r) :=
  .foldl (.ite h.modMgmt.modMgmt h.modMgmt) fun _ _ h => .ite h h.sensorGroup

theorem StoresWf.execSensorRead (h : StoresWf s) {r} : NextWf (execSensorRead r s) :=
  .next (.ite h.sensors h)

theorem StoresWf.execRailOutOfTolerance (h : StoresWf s) {rail mv us} : NextWf (execRailOutOfTolerance rail mv us s) := by
  unfold Machine.execRailOutOfTolerance
  refine .next ?_
  split
  exacts [h, .ite h.modMgmt.event h]

end

end Sys2Proof.Machine

namespace Sys2Proof.Machine

open Sys2Proof

/-! The canonical form through register accesses, and through every command and every tick. -/

section
set_option Elab.async false
variable {s : State}

theorem StoresWf.devRead (h : StoresWf s) {p off} : StoresWf (s.devRead p off).2 := by
  unfold State.devRead
  split
  · split
    exacts [.iteSnd h.crRead h, h]
  · next o _ =>
    extract_lets i
    generalize (o - 0x1000) % 0x40 = r
    refine .iteSnd ?_ h
    split
    · split
      next e => exact StoresWf.snd e h.qResv
    · split
      next e => exact StoresWf.snd e h.qRead
    · exact h
  · exact h

theorem StoresWf.plain (h : StoresWf s) {off v} : StoresWf (s.plain off v) := by
  unfold State.plain
  split
  exacts [h.sg, h]

theorem StoresWf.snapWrite (h : StoresWf s) {off v b} : StoresWf (s.snapWrite off v b) :=
  .ite h.sg.snapReq h

theorem StoresWf.nextOf (h : StoresWf s) {r} (hr : NextWf r) : StoresWf (nextOf s r) := by
  unfold Machine.nextOf
  split
  exacts [hr _ rfl, h]

theorem StoresWf.feWrite (h : StoresWf s) {a off b o v} : StoresWf (s.feWrite a off b o v) := by
  unfold State.feWrite
  refine .ite ?_ ?_
  · split
    · exact h.feStatWrite
    · exact h.feClaim
    · split
      exacts [h.injWrite, h]
    · exact h
  · exact h

theorem StoresWf.tunCtl (h : StoresWf s) {v} : StoresWf (s.tunCtl v) := by
  unfold State.tunCtl
  refine .ite ?_ ?_
  · extract_lets s1 s2 s3
    have h1 : StoresWf s1 := h.plain
    have h2 : StoresWf s2 := .ite h1.upd h1
    have h3 : StoresWf s3 := .ite h2.tunCut h2
    clear_value s1 s2 s3
    exact .ite h3.trip h3
  · exact .ite h.format h

theorem StoresWf.uctlWrite (h : StoresWf s) {e v} : StoresWf (s.uctlWrite e v) := by
  unfold State.uctlWrite
  extract_lets a s1
  have h1 : StoresWf s1 := .ite h.sg h
  clear_value s1
  split
  exacts [h1.uctlRead, .ite h1.imgCmd h1, .ite h1.imgCmd h1, .ite (h1.nextOf h1.execRemove) h1, h1]

theorem StoresWf.raWrite (h : StoresWf s) {q v} : StoresWf (s.raWrite q v) := by
  unfold State.raWrite
  split
  exacts [h, .ite h h.sg]

theorem StoresWf.mbvCtl (h : StoresWf s) {l v} : StoresWf (s.mbvCtl l v) :=
  .ite (.sg (.ite h.sg.upd h.sg.upd.modLnk)) (.ite h.sg.linkDown h.sg)

theorem StoresWf.shapeWrite (h : StoresWf s) {v} : StoresWf (s.shapeWrite v) :=
  .ite h h.sg

theorem StoresWf.dtrWrite (h : StoresWf s) {v} : StoresWf (s.dtrWrite v) :=
  h.sg

theorem StoresWf.instCmdWrite (h : StoresWf s) {a i op} : StoresWf (s.instCmdWrite a i op) := by
  refine .ite h (h.nextOf (h.instCmd fun _ h => ?_))
  split
  exacts [h.create, h.applyCmd, h.destroy, h.instReset, h.freeze, h.thaw, h.tick1.save, h.tick1.restore]

theorem StoresWf.viWrite (h : StoresWf s) {a i o v} : StoresWf (s.viWrite a i o v) := by
  unfold State.viWrite
  extract_lets n off mbox staged p
  have hmbox {host inb full} {f : State → State} (hk : ∀ t, StoresWf t → StoresWf (f t)) : StoresWf (mbox host inb full f) :=
    h.nextOf (h.mail hk)
  refine .ite (hmbox fun _ h => h.plain) (.ite (hmbox fun _ h => h.plain) ?_)
  split
  · exact h.instCmdWrite
  · split
    exacts [h.nextOf (h.pctl fun _ h => h.startProc), h.nextOf (h.pctl fun _ h => h.askStop), h]
  · exact hmbox fun _ h => h.mailFull
  · exact hmbox fun _ h => h.mailFull
  · exact hmbox fun _ h => h.mailOut
  · exact hmbox fun _ h => h.mailFull
  · exact hmbox fun _ h => h.plain
  · exact .ite h (.ite h.plain h.viLost)

theorem StoresWf.queueWrite (h : StoresWf s) {a i o v} : StoresWf (s.queueWrite a i o v) := by
  unfold State.queueWrite
  split
  exacts [h.qBaseSet, h.qCfgSet, h.qCommit, h.qCmd, h.plain, h]

theorem StoresWf.mbgWrite (h : StoresWf s) {o v} : StoresWf (s.mbgWrite o v) := by
  unfold State.mbgWrite
  refine .ite h.opCmd (.ite h.sbArrive ?_)
  refine .ite h.sbAbort ?_
  split
  exacts [h.shapeWrite, h.dtrWrite, .ite h.leaveSet h, h.snapWrite, h.plain]

theorem StoresWf.brsWrite (h : StoresWf s) {a o v} : StoresWf (s.brsWrite a o v) := by
  unfold State.brsWrite
  refine .ite ?_ ?_
  · split
    exacts [.ite h.rotate h, h.crel, h.snapWrite, h.plain]
  · exact h

theorem StoresWf.cluWr (h : StoresWf s) {k o v} : StoresWf (s.cluWr k o v) := by
  unfold State.cluWr
  split
  · exact h.ipiWrite
  · exact h.plain.bootWrite
  · split
    exacts [h.spMove, h.tick1.spRetest, h.spBusy (fun _ h => h.spStatus)]
  · exact h.plain

theorem StoresWf.ccWrite (h : StoresWf s) {a k o v} : StoresWf (s.ccWrite a k o v) := by
  unfold State.ccWrite
  split
  exacts [h.ccCtlWrite, h.lockWrite, h.pwrWrite, h.mopWrite, h.plain]

theorem StoresWf.devEffect (h : StoresWf s) {a off v} : StoresWf (s.devEffect a off v) := by
  unfold State.devEffect
  extract_lets l s1
  clear_value l
  have h1 : StoresWf s1 := .ite h.detachGo h
  clear_value s1
  refine .ite h ?_
  split
  · exact h.feWrite
  · split
    · exact .ite h.sg h
    · exact h.sysReset
    · exact h.bpWrite
    · exact h.snapWrite
    · exact .ite h.clkSet h
    · split
      exacts [h.crWrite, h]
    · exact h.cluWr
    · exact h.ccWrite
    · exact h.snapWrite
    · exact h.cgctlSet
    · exact h.snapWrite
    · exact .ite h h.plain
    · exact h.tunCtl
    · exact h.budgetWrite
    · exact h.snapWrite
    · exact .ite h1.attach h1
    · exact .ite (.ite (.ite h.sqbSet h.cqbSet) h) h.plain
    · exact h.udata2
    · exact h.uctlWrite
    · exact h.snapWrite
    · exact .ite h.queueWrite h.plain
    · exact h.mirSet
    · exact h.abort
    · exact h.snapWrite
    · exact .ite h.raWrite h.plain
    · exact h.snapWrite
    · exact h.kload
    · exact .ite h.upd h.plain
    · exact h.snapWrite
    · exact h.viWrite
    · exact h.rptbSet
    · exact h.rptciSet
    · exact h.mbvCtl
    · exact h.snapWrite
    · exact h.mbgWrite
    · exact h.brsWrite
    · exact h.snapWrite
    · exact h.anchor
    · exact h.note
    · exact h.pewRead
    · exact h.plain

theorem StoresWf.devWrite (h : StoresWf s) {a off v} : StoresWf (s.devWrite a off v) :=
  h.devEffect.seenFall

theorem StoresWf.irqSet (h : StoresWf s) {q v} : StoresWf (s.irqSet q v) :=
  .ite h h.modRp.ringWrite

theorem StoresWf.rstatSet (h : StoresWf s) {q v} : StoresWf (s.rstatSet q v) :=
  h.modRp

theorem StoresWf.barRefused (h : StoresWf s) {a bar off size} : StoresWf (s.barRefused a bar off size) :=
  .ite h.event h

theorem StoresWf.dbWrite (h : StoresWf s) {a fn page off size v} : StoresWf (s.dbWrite a fn page off size v) := by
  unfold State.dbWrite
  refine .ite h (.ite h.barRefused ?_)
  split
  · exact h
  · extract_lets w
    split
    exacts [h.sqpiSet, h.cqciSet, h.irqSet, h.rstatSet, h]

theorem StoresWf.msixMask (h : StoresWf s) {fn vec mask} : StoresWf (s.msixMask fn vec mask) :=
  .ite h (.ite h.upd (.ite h.upd.upd.msix h.upd))

theorem StoresWf.execRegisterWrite (h : StoresWf s) {a x size v} : NextWf (execRegisterWrite a x size v s) := by
  unfold Machine.execRegisterWrite
  refine .next ?_
  split
  · split
    exacts [.ite h.devWrite h, .ite h.barRefused (.ite h.devWrite h)]
  · split
    exacts [h.dbWrite, h.dbWrite, h]
  · split
    exacts [.ite h.msixMask h, .ite h.msixMask h, h]

theorem StoresWf.postedAck (h : StoresWf s) {p n} : StoresWf (s.postedAck p n) := by
  unfold State.postedAck
  extract_lets q
  split
  · exact h
  · split
    · exact h
    · extract_lets s1
      have h1 : StoresWf s1 := h.modProc
      clear_value s1
      split
      exacts [.ite h1.devWrite h, h1, .ite h.slotGo h]

theorem StoresWf.execPostedWriteAck (h : StoresWf s) {p n} : NextWf (execPostedWriteAck p n s) :=
  .next (.ite h.postedAck h)

theorem StoresWf.fillLoad (h : StoresWf s) {n l} : StoresWf (s.fillLoad n l) :=
  (h.foldl fun _ _ h => h.modCore).fillL1D

theorem StoresWf.loadCached (h : StoresWf s) {p n l key} : StoresWf (s.loadCached p n l key) := by
  unfold State.loadCached
  extract_lets c llw cut s1
  have h1 : StoresWf s1 := .ite h h.l1dCheck
  clear_value s1
  split
  · next e => exact StoresWf.snd e h1.wantLine
  · next e =>
    have h3 := StoresWf.snd e h1.wantLine
    split
    · next e => exact (StoresWf.snd e h3.lineRead).loadGets
    · next e => exact StoresWf.snd e h3.lineRead
  · next e =>
    have h6 := StoresWf.snd e h1.wantLine
    refine .ite h6 ?_
    extract_lets s7
    have h7 : StoresWf s7 := .ite h6 h6.ccRead.fillLoad
    clear_value s7
    split
    exacts [h7.loadGets, h7]

theorem StoresWf.loadArrives (h : StoresWf s) {p n ext pois} : StoresWf (s.loadArrives p n ext pois) := by
  unfold State.loadArrives
  extract_lets q
  split
  · exact h
  · refine .ite h ?_
    split
    · exact h.loadGets
    · refine .ite h ?_
      split
      · exact h.loadAsk.loadCached
      · refine .ite h.loadAsk ?_
        extract_lets sz
        split
        · split
          next e => exact (StoresWf.snd e h.tungRead).loadGets
        · refine .ite ?_ ?_
          · split
            next e => exact (StoresWf.snd e h.devRead).loadGets
          · exact h
        · exact .ite h.loadGets h
        · exact h

theorem StoresWf.execLoadDataArrival (h : StoresWf s) {p n ext pois} : NextWf (execLoadDataArrival p n ext pois s) :=
  .next (.ite h.loadArrives h)

theorem StoresWf.fpOp2 (h : StoresWf s) {p f op} : NextWf (fpOp2 p f op s) :=
  h.issue fun _ h => h.simple

theorem StoresWf.execFadd (h : StoresWf s) {p f} : NextWf (execFadd p f s) :=
  h.fpOp2

theorem StoresWf.execFsub (h : StoresWf s) {p f} : NextWf (execFsub p f s) :=
  h.fpOp2

theorem StoresWf.execFmul (h : StoresWf s) {p f} : NextWf (execFmul p f s) :=
  h.fpOp2

theorem StoresWf.execFdiv (h : StoresWf s) {p f} : NextWf (execFdiv p f s) :=
  h.issue (fun _ h => .ite h h.simple)

theorem StoresWf.execFsqrt (h : StoresWf s) {p f} : NextWf (execFsqrt p f s) :=
  h.issue (fun _ h => .ite h h.simple)

theorem StoresWf.signOp (h : StoresWf s) {p f op} : NextWf (signOp p f op s) :=
  h.issue fun _ h => h.simple

theorem StoresWf.execFneg (h : StoresWf s) {p f} : NextWf (execFneg p f s) :=
  h.signOp

theorem StoresWf.execFabs (h : StoresWf s) {p f} : NextWf (execFabs p f s) :=
  h.signOp

theorem StoresWf.cmpOp (h : StoresWf s) {p f op} : NextWf (cmpOp p f op s) :=
  h.issue fun _ h => h.simple

theorem StoresWf.execFeq (h : StoresWf s) {p f} : NextWf (execFeq p f s) :=
  h.cmpOp

theorem StoresWf.execFlt (h : StoresWf s) {p f} : NextWf (execFlt p f s) :=
  h.cmpOp

theorem StoresWf.execFle (h : StoresWf s) {p f} : NextWf (execFle p f s) :=
  h.cmpOp

theorem StoresWf.execFunord (h : StoresWf s) {p f} : NextWf (execFunord p f s) :=
  h.cmpOp

theorem StoresWf.execFcvtP (h : StoresWf s) {p f} : NextWf (execFcvtP p f s) :=
  h.issue fun _ h => h.simple

theorem StoresWf.execFcvtI (h : StoresWf s) {p f} : NextWf (execFcvtI p f s) :=
  h.issue fun _ h => h.simple

theorem StoresWf.execFcvtF (h : StoresWf s) {p f} : NextWf (execFcvtF p f s) :=
  h.issue fun _ h => h.simple

theorem StoresWf.execFmvgfLo (h : StoresWf s) {p f} : NextWf (execFmvgfLo p f s) :=
  h.issue fun _ h => h.simple

theorem StoresWf.execFmvgfHi (h : StoresWf s) {p f} : NextWf (execFmvgfHi p f s) :=
  h.issue fun _ h => h.simple

theorem StoresWf.execFmvfgLo (h : StoresWf s) {p f} : NextWf (execFmvfgLo p f s) :=
  h.issue fun _ h => h.simple

theorem StoresWf.execFmvfgHi (h : StoresWf s) {p f} : NextWf (execFmvfgHi p f s) :=
  h.issue fun _ h => h.simple

theorem StoresWf.fmaOp (h : StoresWf s) {p f np na} : NextWf (fmaOp p f np na s) :=
  h.issue fun _ h => h.simple

theorem StoresWf.execFmadd (h : StoresWf s) {p f} : NextWf (execFmadd p f s) :=
  h.fmaOp

theorem StoresWf.execFmsub (h : StoresWf s) {p f} : NextWf (execFmsub p f s) :=
  h.fmaOp

theorem StoresWf.execFnmsub (h : StoresWf s) {p f} : NextWf (execFnmsub p f s) :=
  h.fmaOp

theorem StoresWf.execFnmadd (h : StoresWf s) {p f} : NextWf (execFnmadd p f s) :=
  h.fmaOp

theorem StoresWf.exec (h : StoresWf s) {i} : NextWf (exec i s) := by
  unfold Machine.exec
  split
  exacts [h.execAdd, h.execAddu, h.execSub, h.execSubu, h.execNeg, h.execAnd, h.execOr, h.execXor, h.execAndn, h.execNor, h.execSlt,
    h.execSltu, h.execShl, h.execShr, h.execSar, h.execRor, h.execRol, h.execAddi, h.execAddiu, h.execSlti, h.execSltiu, h.execAndi,
    h.execOri, h.execXori, h.execLhi, h.execShli, h.execShri, h.execSari, h.execRori, h.execMul, h.execMulh, h.execMulhu, h.execDiv,
    h.execDivu, h.execRem, h.execRemu, h.execLongResultComplete, h.execLb, h.execLbu, h.execLh, h.execLhu, h.execLw, h.execLfs, h.execLfd,
    h.execSb, h.execSh, h.execSw, h.execSfs, h.execSfd, h.execLoadDataArrival, h.execLlw, h.execScw, h.execStnt, h.execBc, h.execCall,
    h.execJr, h.execFadd, h.execFsub, h.execFmul, h.execFdiv, h.execFsqrt, h.execFneg, h.execFabs, h.execFeq, h.execFlt, h.execFle,
    h.execFunord, h.execFcvtP, h.execFcvtI, h.execFcvtF, h.execFmvgfLo, h.execFmvgfHi, h.execFmvfgLo, h.execFmvfgHi, h.execFmadd,
    h.execFmsub, h.execFnmsub, h.execFnmadd, h.execBar, h.execPbar, h.execBarrierComplete, h.execBmove, h.execBfill, h.execBcmp,
    h.execBscan, h.execCksum, h.execMicroRoutineStep, h.execSegld, h.execSegix, h.execRdpsw, h.execWrpsw, h.execRdfpsw, h.execWrfpsw,
    h.execRdtime, h.execRfe, h.execHalt, h.execWait, h.execMfcr, h.execMtcr, h.execSvc, h.execBrk, h.execCmoClean, h.execCmoClinv,
    h.execCmoIinv, h.execCmrClean, h.execCmrCleanInvalidate, h.execCmrPreload, h.execExceptionEntry, h.execInterruptLineEvent, h.execIack,
    h.execCluIpi, h.execTimerCompareReached, h.execAgreementExchangeDelivery, h.execDetectedTransient, h.execComparatorMismatch,
    h.execSelfTestOutcome, h.execCheckerPathFault, h.execQuietPointCheckerMove, h.execSpctlMove, h.execSpctlRetest, h.execChkinjMism,
    h.execChkinjCpf, h.execChkinjPar, h.execStoreDepart, h.execOwnershipArrival, h.execPostedWriteAck, h.execStoreTimeout,
    h.execLoadTimeout, h.execLlwBackoffExpiry, h.execL1DataDisable, h.execL1DataEnable, h.execL1InstructionDisable,
    h.execL1InstructionEnable, h.execL1invIall, h.execClusterCacheDisable, h.execClusterCacheEnable, h.execMopClean,
    h.execMopCleanInvalidate, h.execMopPreload, h.execCcLockWrite, h.execCcPwrWrite, h.execControlJobStart, h.execMaintenanceJobEnd,
    h.execTagParitySearchComplete, h.execRds, h.execRdx, h.execUpg, h.execWb, h.execEvc, h.execRdu, h.execWrf, h.execWrp, h.execCln,
    h.execClinv, h.execFwds, h.execFwdx, h.execFwdu, h.execInv, h.execRecall, h.execDataGrant, h.execInvAck, h.execCmp, h.execWback,
    h.execEvack, h.execRetry, h.execRetryBackoffExpiry, h.execPersistentReservationExpiry, h.execPending, h.execPendingTick,
    h.execBackInvalidation, h.execBackInvalidationTimeout, h.execMemberLost, h.execDirsnapReq, h.execMainStoreReadResult, h.execScrubRead,
    h.execErrsnapReq, h.execPersistGrantRequest, h.execHeldGrantServed, h.execEpochCut, h.execImagerCapture, h.execEpochClose, h.execTunCut,
    h.execTunPflush, h.execTunRecheck, h.execTunFormat, h.execTunBudgetWrite, h.execTunSnapReq, h.execPfailTrip, h.execVholdTrip,
    h.execFlushDone, h.execFlushDeadlineMiss, h.execFlushAbort, h.execHoldUpCheck, h.execPwrokRise, h.execPwrokFall,
    h.execProcessorsReleased, h.execSqpi, h.execCqci, h.execDescriptorFetchComplete, h.execDescriptorFetchTimeout, h.execCompletionWrite,
    h.execCompletionGo, h.execCompletionGoTimeout, h.execCompletionInterruptTimer, h.execRingPairEnable, h.execRingPairDisable, h.execMemrd,
    h.execMemrddata, h.execMeminv, h.execMemclnevct, h.execMemspecrd, h.execMemwr, h.execMemwrptl, h.execUnsupportedMemRequest,
    h.execHostSnoop, h.execHdmCommit, h.execGpfPhase1, h.execGpfPhase2, h.execLinkTrained, h.execDetach, h.execAttach,
    h.execSurpriseRemoval, h.execDescriptorAccept, h.execDispatch, h.execAbort, h.execResv, h.execCommit, h.execRead, h.execMark,
    h.execRewind, h.execRelease, h.execQueueDisable, h.execQueueAgingCheck, h.execDeadlineCheck, h.execMirrorWriteAck, h.execMirrorBreak,
    h.execMirWrite, h.execResyncComplete, h.execChqSnapReq, h.execElcSnapReq, h.execSqNext, h.execSqJump, h.execSqBr, h.execSqCall,
    h.execSqRet, h.execSqDisp, h.execSqPark, h.execSqEnd, h.execAopAdd, h.execAopSub, h.execAopAnd, h.execAopOr, h.execAopXor,
    h.execAopAndn, h.execAopMin, h.execAopMax, h.execAopMove, h.execAopShl, h.execAopShr, h.execAopCmp, h.execSopExt, h.execSopExts,
    h.execSopIns, h.execSopLit, h.execMopRd, h.execMopWr, h.execMopFill, h.execMopWait, h.execMoverOpComplete, h.execXopResv,
    h.execXopCommit, h.execXopRead, h.execXopCmd, h.execXopQaddr, h.execXopCob, h.execXopZn, h.execXopPostc, h.execXopTime,
    h.execPortResultArrival, h.execParkedProgramReply, h.execBndWatchdogExpiry, h.execUdata2Write, h.execUctlRead, h.execLoadimg,
    h.execInstall, h.execRemove, h.execCobaltPieceComplete, h.execZincPieceComplete, h.execKloadLoad, h.execKloadZero,
    h.execKeySlotCommandComplete, h.execCeilingWriteComplete, h.execRngHealthFail, h.execCobSnapReq, h.execZnSnapReq, h.execCreate,
    h.execApply, h.execDestroy, h.execReset, h.execFreeze, h.execFreezeDrainComplete, h.execThaw, h.execSave, h.execRestore, h.execStart,
    h.execStop, h.execMbidb, h.execMbiack, h.execMbodb, h.execMboack, h.execReportPost, h.execReportGoTimeout, h.execRptci,
    h.execLinkTrainingAttempt, h.execFlitReceive, h.execNak, h.execReplayTimeout, h.execLinkRetrain, h.execLinkDown, h.execHello,
    h.execAccept, h.execReject, h.execGone, h.execLeaveMessage, h.execRrd, h.execRwr, h.execRat, h.execRsp, h.execPnd, h.execCrq, h.execCrs,
    h.execLmw, h.execDbl, h.execDoorbellRetry, h.execSba, h.execSbr, h.execRemotePendingTick, h.execFabricTimeout, h.execOpFadd,
    h.execOpSwap, h.execOpCas, h.execOpDoorbell, h.execArrive, h.execSbAbort, h.execLeave, h.execMbvSnapReq, h.execMbgSnapReq,
    h.execVoterDisagreement, h.execBrassInternalCheck, h.execUnitSelfTestComplete, h.execRotate, h.execRotationStep, h.execRotationAgeHour,
    h.execFeClaim, h.execFeStatFree, h.execFeInjArm, h.execEscalationTimerExpiry, h.execQuietPeriodExpiry, h.execCrel, h.execFltSnapReq,
    h.execPewterRecordWrite, h.execTokenBucketRefill, h.execAncw, h.execNotew, h.execRcmd, h.execPewSnapReq, h.execCheckpointTick,
    h.execClkProcSet, h.execClockRelockComplete, h.execReferenceClockLoss, h.execSnapshotCapture, h.execIslandReset,
    h.execCrossingRearmTimeout, h.execSysResetRestart, h.execSysLock, h.execBootProgramInstall, h.execBootProgramRemove, h.execClkSnapReq,
    h.execCluModeNext, h.execRsnapReq, h.execManagementWrite, h.execManagementRead, h.execTraceFrame, h.execSensorRead, h.execHuokFall,
    h.execPerst, h.execRailOutOfTolerance, h.execRegisterWrite, h.execBackInvalidationResponse, h.execFunctionLevelReset, h.execVauxPresent,
    h.execVauxAbsent, h.execBlockRelocation, h.execReportGo, h.execReportsWaitingOver1s, h.execCgctlWrite, h.execMbovaTrainingComplete]

theorem StoresWf.retryEvents (h : StoresWf s) {p} : StoresWf (s.retryEvents p) :=
  .foldl (.ite h h.modProc) fun _ _ h => h.spEvent

theorem StoresWf.procTick (h : StoresWf s) : StoresWf s.procTick :=
  h.foldl fun _ _ h => h.retryEvents.relockStart

theorem StoresWf.chanTick (h : StoresWf s) : StoresWf s.chanTick := by
  unfold State.chanTick
  extract_lets s1
  have h1 : StoresWf s1 := by
    unfold s1
    refine h.foldl fun _ _ h => ?_
    split
    exact h.qServe
  clear_value s1
  exact h1.imgGo.bpGo.stdTick

theorem StoresWf.runTick (h : StoresWf s) : StoresWf s.runTick :=
  h.procTick.chanTick.detachTick.gpfTick.instTick.mbovaTick

theorem StoresWf.clockTick (h : StoresWf s) : StoresWf s.clockTick := by
  unfold State.clockTick
  refine .ite ?_ ?_
  · extract_lets s1 s2 s3
    have h1 : StoresWf s1 := h.upd
    have h2 : StoresWf s2 := h1.upd
    have h3 : StoresWf s3 := h2.pewTick
    clear_value s1 s2 s3
    refine .ite ?_ ?_
    · split
      exacts [h3.upd.runTick, h3.upd, h3.bootTick, h3]
    · exact h1
  · exact h

theorem StoresWf.step (h : StoresWf s) : NextWf (step s) := by
  unfold Machine.step
  split
  exacts [.next h.clockTick, h.upd.exec]

end

/-- Settles O60: every command and every tick that reaches a next state keeps the stores in canonical form (`StoresWf.step`), as each function
of the model that makes a state does. -/
theorem mainStoreStaysCanonical : Obligations.MainStoreStaysCanonical := by
  unfold Obligations.MainStoreStaysCanonical
  exact fun _ u h e => h.step u e

end Sys2Proof.Machine

namespace Sys2Proof.Machine

open Sys2Proof

/-! A persist grant for a processor two of whose slots have one number. -/

/-- A store of one byte into line 10. -/
def line10Store : Entry := { sn := 0, space := 0, node := 0, seg := 0, acc := 0, persist := false, comb := false, bytes := [(960, 1)] }

/-- Two slots of one number: the first holds a plain store into line 10, the second a persist write into it from the combining buffer. -/
def twinSlots : List Slot :=
  [⟨0, [{ e := line10Store, tick := 0 }], false⟩, ⟨0, [{ e := { line10Store with persist := true, comb := true }, tick := 0 }], false⟩]

/-- Processor 0 has those slots; its cluster and its L1 data cache hold line 10, whose image-dirty bit is set. -/
def twinState : State :=
  { procs := [(0, { slots := twinSlots })], clus := [(0, { lines := [(10, { st := .m, way := 0, data := [], tick := 0 })] })],
    cores := [(0, { dc := [(10, ⟨0, .e⟩)] })], dbits := [10] }

/-- The combining line's turn, taken by the slot's number, falls to the first slot: its store writes the cache, and the L1 line becomes M. -/
theorem twinState_writes : (twinState.persistAsk 10 (.cluster 0)).cores ≠ twinState.cores := by decide +kernel

/-- Refutes O28: the clause on a granted persist request says that only image-dirty bits, clusters, processors and messages change. The grant
lets a slot that begins with a combining line go by its number, and the statement does not ask that a processor's slots have different
numbers: of two with the same one, the first goes, and its plain store into a line held in M changes the L1 data cache too. -/
theorem not_mainStoreReadsAndGrants : ¬ Obligations.MainStoreReadsAndGrants := by
  unfold Obligations.MainStoreReadsAndGrants
  intro h
  obtain ⟨-, -, hrequest, -⟩ := h
  obtain ⟨-, hgranted, -⟩ := hrequest twinState 10 0 (by decide +kernel)
  obtain ⟨u, hu, hframe, -⟩ := hgranted (by decide +kernel) (.inl (by decide +kernel))
  rw [exec_persistGrantRequest, execPersistGrantRequest, State.onLine_ok (by decide +kernel)] at hu
  cases hu
  have hcores := congrArg State.cores hframe
  exact twinState_writes hcores

end Sys2Proof.Machine

namespace Sys2Proof.Machine

open Sys2Proof

/-! A boot program whose source the home must read, correcting it (R512, R227). -/

/-- Line 0 is shared and one of its transactions is not closed yet; three of the check bits of its first word are inverted, a deviation that reads
as the wrong lowest data bit. -/
def unclosedSource : State := { phase := .run, flips := [(0, 7)], dir := [(0, { st := .s, opens := 1 })] }

/-- The copy of one line from address 0, as it begins. -/
def copyBegun : State := ({ unclosedSource with bpW := some (0, 1) } : State).sg 0x28 (setBit (unclosedSource.rg 0x28) 16 true)

theorem unclosedSource_noInjection : NoInjection unclosedSource := fun _ => (by decide : (({} : Fe).inj).getLsbD 32 = false)

/-- The line is not at rest, so the copy must wait. -/
theorem copyBegun_waits : (copyBegun.uncRead 0 96 0x603).1 = none := by decide +kernel

/-- The home answers the copy's RdU from the array at once and writes the corrected word back. -/
theorem unclosedSource_corrected : (unclosedSource.bpWrite 1).ms = [(0, 1)] := by decide +kernel

/-- Refutes O31: the clause on a copy whose lines cannot be read yet says that the main store's bytes stay. The copy asks the home of such a line
by RdU, and where only the Cmp of an earlier transaction is outstanding the home reads its array at once; a corrected word is written back
(R227), so a byte of the main store changes. -/
theorem not_powerBootAndRelease : ¬ Obligations.PowerBootAndRelease := by
  unfold Obligations.PowerBootAndRelease
  rintro ⟨-, -, -, -, hwrites⟩
  have hreach : unclosedSource.viaReach .pf 0x28 = true := by decide +kernel
  obtain ⟨-, hbp⟩ := hwrites unclosedSource .pf 1
  obtain ⟨-, -, hinstall⟩ := hbp hreach (by decide)
  obtain ⟨hwaits, -⟩ := hinstall (by decide) rfl (by decide) (by decide +kernel) (by decide +kernel) unclosedSource_noInjection
  obtain ⟨u, hu, -, -, -, hms⟩ := hwaits copyBegun_waits
  rw [exec_bootProgramInstall, execBootProgramInstall, State.onWrite_reach hreach] at hu
  cases hu
  exact absurd (unclosedSource_corrected.symm.trans hms) (by decide)

end Sys2Proof.Machine

namespace Sys2Proof.Machine

open Sys2Proof

/-! A trip begins a flush, or finds nothing to flush (R261, R533, R483). -/

/-- Nothing differs but the links, what leaves the module, and an injection that a flit took (R485). -/
def LinksOnly (s u : State) : Prop := u = { s with links := u.links, fe := u.fe, outbox := u.outbox }

namespace LinksOnly

theorem refl (s : State) : LinksOnly s s := rfl

theorem trans {s t u : State} (h : LinksOnly s t) (g : LinksOnly t u) : LinksOnly s u := by
  unfold LinksOnly at *
  rw [g, h]

theorem modLnk (s : State) (l : Nat) (f : Lnk → Lnk) : LinksOnly s (s.modLnk l f) := rfl

theorem freeInp (s : State) (f : Flit) : LinksOnly s (s.freeInp f) := by
  unfold State.freeInp
  split
  · exact modLnk s _ _
  · exact refl s

theorem injHit {s t : State} {b : Blk} {chk unit inv : Nat} (h : s.injHit b chk unit = some (inv, t)) : LinksOnly s t := by
  unfold State.injHit at h
  dsimp only at h
  split at h
  · cases h
    rfl
  · exact absurd h nofun

theorem sendSeq (s : State) (l : Nat) (q : BitVec 8) (f : Flit) : LinksOnly s (s.sendSeq l q f) := by
  unfold State.sendSeq
  dsimp only
  split
  next x h => exact trans (injHit h) rfl
  next => rfl

theorem sendMgt (s : State) (l : Nat) (ws : List Word) : LinksOnly s (s.sendMgt l ws) := by
  unfold State.sendMgt
  dsimp only
  split
  · exact ((freeInp s _).trans (modLnk _ _ _)).trans (sendSeq _ _ _ _)
  · exact refl s

theorem foldl {α : Type} (f : State → α → State) (h : ∀ s a, LinksOnly s (f s a)) (xs : List α) (s : State) : LinksOnly s (xs.foldl f s) := by
  induction xs generalizing s with
  | nil => exact refl s
  | cons a xs ih => exact (h s a).trans (ih _)

end LinksOnly

/-- A trip `trig` in `s` has begun a flush with header `f` (R261, R262). -/
structure FlushBegun (s u : State) (f : FlushRec) (trig : Nat) : Prop where
  phase : u.phase = .flush
  flush : u.tun.flush = some f
  trig : f.trig = trig
  seq : f.seq = s.tun.flushSeq + 1
  base : f.base = s.tun.closed
  committed : f.committed = false
  done : u.tun.done = false
  told : u.outbox.head? = some (.value 5 1)
  ms : u.ms = s.ms
  dbits : u.dbits = s.dbits
  procs : u.procs = s.procs

/-- The header that a trip in Run writes. -/
def State.header (s : State) (trig : Nat) : FlushRec :=
  { seq := s.tun.flushSeq + 1, ms := s.pew.ms, pcyc := s.pew.pcyc, tbase := s.tb, base := s.tun.closed, trig := trig, mapver := s.tun.mapver + 1,
    state := Config.freeNat s.free % 0xFFF41 }

/-- The neighbours of the active links hear GONE (R459). -/
def State.tellGone (s : State) : State := (List.range s.part.links).foldl (fun (s : State) l => if s.active l then s.sendMgt l [4] else s) s

theorem LinksOnly.tellGone (s : State) : LinksOnly s s.tellGone := by
  refine LinksOnly.foldl _ (fun t l => ?_) _ s
  split
  · exact sendMgt t l [4]
  · exact refl t

section
variable {s : State}

theorem State.trip_run (h : s.phase = .run) (trig : Nat) : FlushBegun s (s.trip trig) (s.header trig) trig := by
  have htrip : s.trip trig = (({ s.tellGone.tick1 with phase := .flush } : State).modTun fun t =>
      { t with flush := some (s.header trig), flushSeq := s.tun.flushSeq + 1, flushAt := s.tellGone.ticks, pcode := 1, done := false, checking := false }).out
      (.value 5 1) := by
    unfold State.trip
    rw [h]
    rfl
  have hgone := LinksOnly.tellGone s
  unfold LinksOnly at hgone
  have hms : s.tellGone.ms = s.ms := (congrArg State.ms hgone :)
  have hdbits : s.tellGone.dbits = s.dbits := (congrArg State.dbits hgone :)
  have hprocs : s.tellGone.procs = s.procs := (congrArg State.procs hgone :)
  rw [htrip]
  exact ⟨rfl, rfl, rfl, rfl, rfl, rfl, rfl, rfl, hms, hdbits, hprocs⟩

theorem State.trip_boot (h : s.phase = .boot ∨ s.phase = .nores) (trig : Nat) :
    s.trip trig = { s with phase := .flushed, tun := { s.tun with pcode := 0, done := true }, outbox := .value 5 8 :: s.outbox } := by
  unfold State.trip
  obtain h | h := h <;> rw [h] <;> rfl

theorem State.trip_fatal (h : s.phase = .fatal) (trig : Nat) :
    s.trip trig = { s with tun := { s.tun with pcode := 7, done := true }, outbox := .value 5 15 :: s.outbox } := by
  have htrip : s.trip trig = s.flushSignal 7 := by
    unfold State.trip
    rw [h]
  exact htrip

end

/-- What a command that trips with `trig` comes to in each phase (R261, R533, R483). -/
def Trips (s : State) (x : Res) (trig : Nat) : Prop :=
  (s.phase = .run → ∃ u f, x = .next u ∧ u.phase = .flush ∧ u.tun.flush = some f ∧ f.trig = trig ∧ f.seq = s.tun.flushSeq + 1 ∧ f.base = s.tun.closed ∧
    f.committed = false ∧ u.tun.done = false ∧ u.outbox.head? = some (.value 5 1) ∧ u.ms = s.ms ∧ u.dbits = s.dbits ∧ u.procs = s.procs) ∧
  (s.phase = .boot ∨ s.phase = .nores → x = .next { s with phase := .flushed, tun := { s.tun with pcode := 0, done := true }, outbox := .value 5 8 :: s.outbox }) ∧
  (s.phase = .fatal → x = .next { s with tun := { s.tun with pcode := 7, done := true }, outbox := .value 5 15 :: s.outbox })

theorem State.trip_trips (s : State) (trig : Nat) : Trips s (.next (s.trip trig)) trig := by
  refine ⟨fun h => ?_, fun h => by rw [State.trip_boot h], fun h => by rw [State.trip_fatal h]⟩
  obtain ⟨phase, flush, trig, seq, base, committed, done, told, ms, dbits, procs⟩ := State.trip_run h trig
  exact ⟨_, _, rfl, phase, flush, trig, seq, base, committed, done, told, ms, dbits, procs⟩

/-! A restart that finds nothing to flush begins the boot again (R507, R510, R533). -/

theorem State.raise_pew (s : State) (a : Nat) : (s.raise a).pew = s.pew := by
  unfold State.raise State.pend
  dsimp only
  split
  · split <;> rfl
  · rfl

theorem State.raiseFlt_pew (s : State) : s.raiseFlt.pew = s.pew := by
  unfold State.raiseFlt State.msix
  dsimp only
  split
  · split <;> exact State.raise_pew s _
  · exact State.raise_pew s _

theorem State.capture_pew (s : State) (e : Ev) : (s.capture e).pew = s.pew := by
  unfold State.capture
  split
  · rfl
  · split
    · rfl
    · dsimp only
      split
      · split
        · exact State.raiseFlt_pew _
        · rfl
      · rfl

/-- Nothing differs but what recording events touches, and the power cycles counted stand as they were. -/
def Reported (s u : State) : Prop := EventOnly s u ∧ u.pew.pcyc = s.pew.pcyc

namespace Reported

theorem refl (s : State) : Reported s s := ⟨rfl, rfl⟩

theorem trans {s t u : State} (h : Reported s t) (g : Reported t u) : Reported s u := ⟨h.1.trans g.1, g.2.trans h.2⟩

theorem sg (s : State) (a : Nat) (v d : Word) : Reported s (s.sg a v d) := ⟨rfl, rfl⟩

theorem event (s : State) (e : Ev) : Reported s (s.event e) := by
  refine ⟨EventOnly.event s e, ?_⟩
  have hpewter (t : State) : (t.pewter e).pew.pcyc = t.pew.pcyc := by
    unfold State.pewter
    dsimp only
    split <;> rfl
  exact (hpewter _).trans (congrArg Pewter.pcyc (State.capture_pew s e))

theorem ite {s t u : State} {c : Prop} [Decidable c] (h : Reported s t) (g : Reported s u) : Reported s (if c then t else u) := by
  split
  · exact h
  · exact g

theorem foldl {α : Type} (f : State → α → State) (h : ∀ s a, Reported s (f s a)) (xs : List α) (s : State) : Reported s (xs.foldl f s) := by
  induction xs generalizing s with
  | nil => exact refl s
  | cons a xs ih => exact (h s a).trans (ih _)

end Reported

/-- A boot of `s` under what the board brought has begun (R510): PHASE 1, one more power cycle, Tungsten as it was. -/
structure BootBegun (s u : State) (b : Boot) : Prop where
  phase : u.phase = .boot
  step : fld (u.rg 0x10) 3 0 = 1
  boot : u.boot = some b
  pcyc : u.pew.pcyc = satAdd 24 s.pew.pcyc 1
  tun : u.tun = s.tun

theorem State.bootGo_begun (s : State) (b : Boot) : BootBegun s (s.bootGo b) b := by
  unfold State.bootGo
  extract_lets keep cls w pew s1 s2 s3 s4 s5 s6 s7 s8 mx s9 s10
  have h5 : Reported s1 s5 := ⟨rfl, rfl⟩
  have h6 : Reported s5 s6 := .event s5 _
  have h7 : Reported s5 s7 := .ite (h6.trans (.foldl _ (fun t l => .sg t _ _ _) _ s6)) (.refl s5)
  have h8 : Reported s7 s8 := .ite (.event s7 _) (.refl s7)
  have h10 : Reported s8 s10 := ⟨rfl, rfl⟩
  obtain ⟨hevents, hpcyc⟩ := ((h5.trans h7).trans h8).trans h10
  unfold EventOnly at hevents
  have hphase : s10.phase = .boot := (congrArg State.phase hevents :)
  have hboot : s10.boot = some b := (congrArg State.boot hevents :)
  have htun : s10.tun = s.tun := (congrArg State.tun hevents :)
  clear_value s10
  refine ⟨hphase, ?_, hboot, hpcyc, htun⟩
  rw [State.setPhase, State.rg_sg_same, fld_setFld_same _ _ _ _ (by decide)]
  rfl

theorem State.rolledBack_pew (s : State) : s.rolledBack.pew = s.pew := by
  unfold State.rolledBack
  split <;> rfl

theorem State.rolledBack_none {s : State} (h : s.kept = none) : s.rolledBack = s := by
  rw [State.rolledBack, h]

theorem State.rolledBack_tun {s : State} {k : Kept} (h : s.kept = some k) : s.rolledBack.tun = k.tun := by
  rw [State.rolledBack, h]

theorem State.rolledBack_flush {s t : State} (hk : t.kept = s.kept) (hf : t.tun.flush = s.tun.flush) :
    t.rolledBack.tun.flush = s.rolledBack.tun.flush := by
  cases h : s.kept with
  | none => rw [State.rolledBack_none h, State.rolledBack_none (hk.trans h), hf]
  | some k => rw [State.rolledBack_tun h, State.rolledBack_tun (hk.trans h)]

/-- What power loss leaves of Tungsten's flush area and of the count of power cycles (R22, R505). -/
theorem State.powerOff_kept (s : State) : s.powerOff.tun.flush = s.rolledBack.tun.flush ∧ s.powerOff.pew.pcyc = s.pew.pcyc := by
  rw [← State.rolledBack_pew s]
  unfold State.powerOff
  extract_lets t tun pew u1 u2 u3 u4
  have hconfig {α : Type} (g : State → α) (h : ∀ s a v d, g (State.sg s a v d) = g s) :
      g (t.insts.foldl (fun (u : State) (i, (c : Inst)) => c.regs.foldl (fun (u : State) (o, v) => u.sgVi i o (BitVec.ofNat 48 v))
        (u.sgVi i 0x88 (BitVec.ofNat 48 (t.instState i)))) u4) = g u4 := by
    refine foldl_keeps g _ (fun u x => ?_) _ _
    exact (foldl_keeps g _ (fun u x => h u _ _ _) _ _).trans (h u _ _ _)
  exact ⟨(congrArg Tun.flush (hconfig State.tun fun _ _ _ _ => rfl) :), (congrArg Pewter.pcyc (hconfig State.pew fun _ _ _ _ => rfl) :)⟩

/-- SYS_RESET during a boot (R507, R533). -/
theorem State.sysReset_boot {s : State} {v : Word} {b : Boot} (hp : s.phase = .boot) (hb : s.boot = some b) (hok : b.brassOk ≠ 0)
    (hkey : fld v 47 36 = 0x5A7 ∧ fld v 3 0 = 1) :
    ∃ t : State, s.sysReset v = t.powerOff.bootGo b ∧ t.pew = s.pew ∧ t.rolledBack.tun.flush = s.rolledBack.tun.flush := by
  refine ⟨(s.trip 3).modTun fun t => { t with restart := true }, ?_, ?_, ?_⟩
  · unfold State.sysReset
    rw [if_pos hkey, State.trip_boot (.inl hp)]
    unfold State.restarted
    rw [if_pos ⟨rfl, rfl⟩]
    show (match s.boot with | some b => State.powerOn _ b | none => _) = _
    rw [hb]
    exact if_neg hok
  · rw [State.trip_boot (.inl hp)]
    rfl
  · rw [State.trip_boot (.inl hp)]
    exact State.rolledBack_flush rfl rfl

/-! The end of a flush (R262 to R265). -/

/-- An injection that a write of Tungsten takes is all that the write touches besides (R485). -/
theorem State.tungInj_eq (s : State) : s.tungInj.2 = { s with fe := s.tungInj.2.fe } := by
  unfold State.tungInj State.injHit
  dsimp only
  split
  next h =>
    split at h
    · cases h
      rfl
    · exact absurd h nofun
  next => rfl

/-- A flush with header `f` has ended after `us` µs with its record committed (R262 to R265). -/
structure FlushCommitted (f : FlushRec) (us : Nat) (u : State) (f' : FlushRec) : Prop where
  phase : u.phase = .flushed
  flush : u.tun.flush = some f'
  committed : f'.committed = true
  seq : f'.seq = f.seq
  time : f'.fus = us
  missed : f'.missed = (f.missed || decide (flushLimit u.dbits.length < us))
  lines : f'.lines = u.dbits.map fun l => (l, u.msLine l, u.linePois l)
  saved : u.saved.isSome = true
  done : u.tun.done = true
  told : u.outbox.take 4 = [.value 5 14, .value 5 5, .value 5 4, .value 5 3]

section
variable {s : State} {f : FlushRec}

theorem State.flushCommit_waits (h : s.procsStopped = false) (us : Nat) : s.flushCommit us = s := by
  unfold State.flushCommit
  split
  · rw [h]
    rfl
  · rfl

theorem State.flushCommit_commits (hp : s.phase = .flush) (hf : s.tun.flush = some f) (hs : s.procsStopped = true) (us : Nat) :
    ∃ f', FlushCommitted f us (s.flushCommit us) f' := by
  suffices h : ∀ u, s.flushCommit us = u → ∃ f', FlushCommitted f us u f' from h _ rfl
  intro u hu
  unfold State.flushCommit at hu
  rw [hp, hf] at hu
  replace hu := (if_neg (show ¬ (!s.procsStopped) = true by rw [hs]; decide)).symm.trans hu
  extract_lets s1 n ls at hu
  have htold : s1.outbox.take 3 = [.value 5 5, .value 5 4, .value 5 3] := rfl
  obtain ⟨bad, v, hinj⟩ : ∃ bad v, s1.tungInj = (bad, v) := ⟨_, _, rfl⟩
  have hfe := s1.tungInj_eq
  rw [hinj] at hu hfe
  clear_value s1
  obtain ⟨fe, rfl⟩ : ∃ fe, v = { s1 with fe := fe } := ⟨_, hfe⟩
  subst hu
  exact ⟨_, rfl, rfl, rfl, rfl, rfl, rfl, rfl, rfl, rfl, congrArg (Out.value 5 14 :: ·) htold⟩

end

theorem State.restarted_flushing {s : State} (h : s.phase = .flush) (asked : Bool) : s.restarted asked = s :=
  if_neg fun hx => Phase.noConfusion (h.symm.trans hx.2)

theorem State.restarted_unasked (s : State) : s.restarted false = s := if_neg fun h => Bool.noConfusion h.1

theorem State.flushAbort_flushing {s : State} (h : s.phase = .flush) :
    s.flushAbort = { s with phase := .flushed, tun := { s.tun with pcode := 7, done := true }, outbox := .value 5 15 :: s.outbox } := if_pos h

/-- Settles O30, by what a trip does in each phase (`State.trip_trips`), what begins the boot again after SYS_RESET (`State.bootGo_begun`) and what a
flush that commits leaves behind (`State.flushCommit_commits`), whatever its drain makes of the main store. -/
theorem tripsAndFlush : Obligations.TripsAndFlush := by
  unfold Obligations.TripsAndFlush
  intro s
  refine ⟨fun ns => ⟨fun h => ?_, fun h => ?_⟩, fun mv => ⟨fun h => ?_, fun h => ?_⟩, fun a ha hrun => ?_, fun a v ha hrun => ⟨fun hkey => ?_, fun hkey => ?_⟩,
    fun a v b ha hboot hb hok hkey hkind => ?_, fun f hp hf hr => ⟨fun hs us => ?_, fun hs us => ?_, ?_, fun c hc => ?_⟩⟩
  · rw [exec_pfailTrip, execPfailTrip, if_pos h]
    exact s.trip_trips 1
  · rw [exec_pfailTrip, execPfailTrip, if_neg (by omega), if_pos h]
  · rw [exec_vholdTrip, execVholdTrip, if_pos h]
    exact s.trip_trips 2
  · rw [exec_vholdTrip, execVholdTrip, if_neg (by omega)]
  · rw [exec_tunPflush, execTunPflush, State.onWrite_reach ha, if_pos hrun]
    exact s.trip_trips 3
  · have h := State.trip_run hrun 3
    rw [exec_sysResetRestart, execSysResetRestart, State.onWrite_reach ha, State.sysReset, if_pos hkey]
    refine ⟨_, _, congrArg Host.Outcome.next (State.restarted_flushing ?_ true), h.phase, rfl, h.flush, h.trig, h.ms, h.procs⟩
    exact h.phase
  · rw [exec_sysResetRestart, execSysResetRestart, State.onWrite_reach ha, State.sysReset, if_neg hkey]
    refine ⟨_, rfl, rfl, ?_⟩
    rw [State.rg_sg_same, getLsbD_setBit _ _ _ _ (by decide), if_pos rfl]
  · obtain ⟨t, hreset, hpew, hflush⟩ := State.sysReset_boot hboot hb hok ⟨hkey, hkind⟩
    have h := t.powerOff.bootGo_begun b
    obtain ⟨hkept, hpcyc⟩ := t.powerOff_kept
    rw [exec_sysResetRestart, execSysResetRestart, State.onWrite_reach ha, hreset]
    refine ⟨_, rfl, h.phase, h.step, h.boot, ?_, ?_⟩
    · rw [h.pcyc, hpcyc, hpew]
    · rw [h.tun, hkept, hflush]
  · rw [exec_flushDone, execFlushDone, State.flushCommit_waits hs, hr, State.restarted_unasked]
  · obtain ⟨f', h⟩ := State.flushCommit_commits hp hf hs us
    rw [exec_flushDone, execFlushDone, hr, State.restarted_unasked]
    exact ⟨_, f', rfl, h.phase, h.flush, h.committed, h.seq, h.time, h.missed, h.lines, h.saved, h.done, h.told⟩
  · rw [exec_flushDeadlineMiss, execFlushDeadlineMiss, if_pos hp, State.modTun, hf]
    rfl
  · have habort : exec c s = .next (s.flushAbort.restarted s.tun.restart) := by
      simp only [List.mem_cons, List.not_mem_nil, or_false] at hc
      obtain rfl | rfl := hc <;> rfl
    rw [habort, hr, State.restarted_unasked, State.flushAbort_flushing hp]

end Sys2Proof.Machine

namespace Sys2Proof.Machine

open Sys2Proof

/-! The cut of an epoch (R258). -/

/-- The same change of every stack below `n`. -/
theorem State.stack_foldl_modStack (f : Stack → Stack) (n : Nat) (s : State) {st : Nat} (h : st < n) :
    ((List.range n).foldl (fun (s : State) i => s.modStack i f) s).stack st = f (s.stack st) := by
  have hpast (m : Nat) : ∀ j, m ≤ j → ((List.range m).foldl (fun (s : State) i => s.modStack i f) s).stack j = s.stack j := by
    induction m with
    | zero => exact fun _ _ => rfl
    | succ m ih =>
      intro j hj
      rw [List.range_succ, List.foldl_append, List.foldl_cons, List.foldl_nil, State.stack_modStack_ne _ _ (by omega), ih j (by omega)]
  induction n with
  | zero => exact absurd h (Nat.not_lt_zero _)
  | succ n ih =>
    rw [List.range_succ, List.foldl_append, List.foldl_cons, List.foldl_nil]
    by_cases e : st = n
    · rw [e, State.stack_modStack, hpast n n le_rfl]
    · rw [State.stack_modStack_ne _ _ e, ih (by omega)]

theorem State.foldl_modStack_eq (f : Stack → Stack) (xs : List Nat) (s : State) :
    ∃ k, xs.foldl (fun (s : State) i => s.modStack i f) s = { s with stks := k } := by
  induction xs generalizing s with
  | nil => exact ⟨_, rfl⟩
  | cons x xs ih => exact ih (s.modStack x f)

section
variable {s : State}

theorem State.mayCut_run (ho : s.tun.opened = none) (hp : s.phase = .run)
    (hd : s.tun.cutNow = true ∨ s.tun.lastCut = none ∨ ∃ t, s.tun.lastCut = some t ∧ t + s.epochTicks ≤ s.ticks) : s.mayCut = true := by
  unfold State.mayCut
  rw [ho, hp]
  dsimp only
  obtain h | h | ⟨t, h, hle⟩ := hd
  · rw [h]
    rfl
  · rw [h]
    exact Bool.or_true _
  · rw [h]
    dsimp only
    rw [decide_eq_true hle, Bool.or_true]
    rfl

/-- The epoch that a cut opens. -/
def State.nextEpoch (s : State) : Epoch := { n := s.tun.closed + 1, tick := s.ticks, ms := s.pew.ms, tbase := s.tb, dirty := s.dbits.length }

theorem State.cutEpoch_spec (s : State) :
    s.cutEpoch = { s with tun := { s.tun with opened := some s.nextEpoch, lastCut := some s.ticks, cutNow := false }, stks := s.cutEpoch.stks } ∧
    ∀ st, st < s.part.stks → (s.cutEpoch.stack st).sweep = 0 := by
  refine ⟨?_, fun st hst => ?_⟩
  · unfold State.cutEpoch
    extract_lets e t
    obtain ⟨k, hk⟩ := State.foldl_modStack_eq (fun k => { k with sweep := 0, sweeping := true }) (List.range t.part.stks) t
    rw [hk]
    rfl
  · exact congrArg Stack.sweep (State.stack_foldl_modStack _ _ _ hst)

end

/-! The imager captures one line (R258, R255). -/

/-- A cluster's grant for a line ends. -/
def State.ungrant (s : State) (l k : Nat) : State :=
  match s.cline k l with
  | some c => if c.pg then s.setLine k l { c with pg := false } else s
  | none => s

theorem State.ungrant_eq (s : State) (l k : Nat) : ∃ x, s.ungrant l k = { s with clus := x } := by
  unfold State.ungrant
  split
  · split
    · exact ⟨_, rfl⟩
    · exact ⟨_, rfl⟩
  · exact ⟨_, rfl⟩

theorem State.ungrant_cline_same (s : State) (l k : Nat) : (s.ungrant l k).cline k l = (s.cline k l).map fun c => { c with pg := false } := by
  unfold State.ungrant
  split
  next c h =>
    rw [h]
    cases hg : c.pg
    · rw [if_neg Bool.false_ne_true, h, Option.map_some, ← hg]
    · rw [if_pos rfl, State.cline_setLine_same, Option.map_some]
  next h => rw [h, Option.map_none]

theorem State.ungrant_cline_ne (s : State) (l : Nat) {j k : Nat} (h : j ≠ k) : (s.ungrant l k).cline j l = s.cline j l := by
  unfold State.ungrant
  split
  · split
    · exact State.cline_setLine_ne s _ fun e => h (congrArg Prod.fst e)
    · rfl
  · rfl

/-- The grants of the clusters below `n` for a line end. -/
def State.ungrantBelow (s : State) (l n : Nat) : State := (List.range n).foldl (fun (s : State) k => s.ungrant l k) s

theorem State.ungrantBelow_succ (s : State) (l n : Nat) : s.ungrantBelow l (n + 1) = (s.ungrantBelow l n).ungrant l n := by
  rw [State.ungrantBelow, List.range_succ, List.foldl_append]
  rfl

theorem State.ungrantBelow_eq (s : State) (l n : Nat) : ∃ x, s.ungrantBelow l n = { s with clus := x } := by
  induction n with
  | zero => exact ⟨_, rfl⟩
  | succ n ih =>
    obtain ⟨x, hx⟩ := ih
    rw [State.ungrantBelow_succ, hx]
    exact State.ungrant_eq _ l n

theorem State.ungrantBelow_cline (s : State) (l n j : Nat) :
    (s.ungrantBelow l n).cline j l = (s.cline j l).map fun c => { c with pg := c.pg && !decide (j < n) } := by
  induction n with
  | zero =>
    have hid : (fun c : CLine => { c with pg := c.pg && !decide (j < 0) }) = id := by
      funext c
      rw [decide_eq_false (Nat.not_lt_zero j), Bool.not_false, Bool.and_true]
      rfl
    rw [hid, Option.map_id]
    rfl
  | succ n ih =>
    rw [State.ungrantBelow_succ]
    obtain h | h | h := Nat.lt_trichotomy j n
    · rw [State.ungrant_cline_ne _ _ (Nat.ne_of_lt h), ih, decide_eq_true h, decide_eq_true (Nat.lt_succ_of_lt h)]
    · subst h
      rw [State.ungrant_cline_same, ih, Option.map_map, decide_eq_true (Nat.lt_succ_self j)]
      refine congrArg (Option.map · _) (funext fun c => ?_)
      rw [Bool.not_true, Bool.and_false]
      rfl
    · rw [State.ungrant_cline_ne _ _ (Nat.ne_of_gt h), ih, decide_eq_false (Nat.not_lt_of_gt h), decide_eq_false (by omega)]

section
variable (s : State) (l : Nat)

theorem State.captureMark_eq : ∃ procs, s.captureMark l = { s with dbits := s.dbits.erase l, clus := (s.ungrantBelow l 8).clus, procs := procs } := by
  obtain ⟨x, hx⟩ := s.ungrantBelow_eq l 8
  unfold State.captureMark
  extract_lets t waits
  have ht : t = s.ungrantBelow l 8 := congrArg (List.foldl · s (List.range 8)) (funext₂ fun _ _ => rfl)
  clear_value t
  rw [ht, hx]
  exact ⟨_, rfl⟩

theorem State.captureMark_cline (j : Nat) :
    (s.captureMark l).cline j l = (s.cline j l).map fun c => { c with pg := c.pg && !decide (j < 8) } := by
  obtain ⟨procs, h⟩ := s.captureMark_eq l
  rw [← s.ungrantBelow_cline]
  generalize s.ungrantBelow l 8 = t at h ⊢
  rw [h]
  rfl

/-- A capture takes grants only: the owner of the line stays. -/
theorem State.captureMark_ownerClu : (s.captureMark l).ownerClu l = s.ownerClu l := by
  unfold State.ownerClu
  refine congrArg (List.find? · _) (funext fun k => ?_)
  rw [State.captureMark_cline]
  cases s.cline k l <;> rfl

theorem State.captureMark_readNow : (s.captureMark l).readNow l = s.readNow l := by
  obtain ⟨procs, h⟩ := s.captureMark_eq l
  have hdir : (s.captureMark l).dir = s.dir := (congrArg State.dir h :)
  have hnet : (s.captureMark l).net = s.net := (congrArg State.net h :)
  have hsnp : (s.captureMark l).bisnp = s.bisnp := (congrArg State.bisnp h :)
  unfold State.readNow State.quietLine
  rw [hdir, hnet, hsnp]
  generalize List.range 8 = ks
  refine congrArg (· && _) (congrArg (_ && ·) (congrArg (List.all ks) (funext fun k => ?_)))
  rw [State.captureMark_cline]
  cases s.cline k l <;> rfl

end

section
variable {s : State} {l : Nat}

theorem MK.moves_of_data {k : MK} (h : k = .data .m ∨ k = .data .e) : k.moves = true := by
  rcases h with rfl | rfl <;> rfl

/-- A line that can be read at once has no data on the way. -/
theorem State.readNow_noData (h : s.readNow l = true) :
    (s.net.find? fun m => m.line = l ∧ (m.kind = .data .m ∨ m.kind = .data .e) ∧ m.data ≠ []) = none := by
  unfold State.readNow State.quietLine at h
  simp only [Bool.and_eq_true] at h
  obtain ⟨⟨⟨⟨-, hnet⟩, -⟩, -⟩, -⟩ := h
  refine List.find?_eq_none.2 fun m hm hq => ?_
  obtain ⟨hl, hk, -⟩ := of_decide_eq_true hq
  refine absurd ?_ (Bool.not_eq_true' _ ▸ hnet |> Bool.eq_false_iff.1)
  exact List.any_eq_true.2 ⟨m, hm, by rw [MK.moves_of_data hk, decide_eq_true hl]; rfl⟩

/-- What a capture reads of a line (R255): the owner's copy where there is one, else the array's. -/
def State.Reads (s : State) (l : Nat) (d : List Byte) (z : Bool) : Prop :=
  (s.ownerClu l = none ∧ CleanLine s l ∧ (d, z) = (s.msLine l, false)) ∨
    ∃ k c, s.ownerClu l = some k ∧ s.cline k l = some c ∧ c.flip = 0 ∧ (d, z) = (c.data, c.pois)

theorem State.Reads.readLine {d : List Byte} {z : Bool} (hd : s.Reads l d z) (hq : s.readNow l = true) (hi : NoInjection s) (master : Nat) :
    s.readLine l master = (d, z, s) := by
  unfold State.readLine
  obtain ⟨ho, hc, he⟩ | ⟨k, c, ho, hc, hf, he⟩ := hd
  · obtain ⟨rfl, rfl⟩ := Prod.mk.inj he
    rw [ho, State.readNow_noData hq]
    exact hc.arrayRead master
  · obtain ⟨rfl, rfl⟩ := Prod.mk.inj he
    rw [ho]
    dsimp only
    rw [State.checkLine_clean hi hc hf, hc]

theorem State.Reads.lineRead {d : List Byte} {z : Bool} {me : Agent} (hd : s.Reads l d z) (hl : l < 2 ^ 44) (hq : s.readNow l = true)
    (hi : NoInjection s) (hn : s.dataFor l me = none) : s.lineRead l me = (some (d, z), s) := by
  unfold State.lineRead
  rw [hn]
  dsimp only
  rw [if_pos ⟨hl, hq⟩, hd.readLine hq hi]

theorem NoInjection.tungInj (hi : NoInjection s) : s.tungInj = (false, s) := by
  unfold State.tungInj
  rw [hi.injHit]

theorem CleanLine.modStack (h : CleanLine s l) (st : Nat) {f : Stack → Stack} (hf : ∀ k, (f k).fenced = k.fenced) :
    CleanLine (s.modStack st f) l := by
  refine ⟨?_, h.2⟩
  obtain ⟨hfence, -⟩ := h
  unfold State.fenced at hfence ⊢
  by_cases e : (homeR s.part l).1 = st
  · subst e
    exact (congrArg (fun b : BitVec 8 => b.getLsbD _) ((congrArg Stack.fenced (s.stack_modStack _ f)).trans (hf _))).trans hfence
  · exact (congrArg (fun k : Stack => k.fenced.getLsbD _) (State.stack_modStack_ne s f e)).trans hfence

end

/-- The imager on its way to capture a line: the sweep is past it, its bit and its grants are taken. -/
def State.captureStart (s : State) (st r l : Nat) : State := (s.captureMark l).modStack st fun k => { k with sweep := r + 1, capt := some l }

section
variable {s : State} {st r l : Nat}

theorem State.captureStart_eq : ∃ stks procs,
    s.captureStart st r l = { s with dbits := s.dbits.erase l, clus := (s.captureMark l).clus, stks := stks, procs := procs } := by
  obtain ⟨procs, h⟩ := s.captureMark_eq l
  unfold State.captureStart
  generalize s.captureMark l = t at h ⊢
  rw [h]
  exact ⟨_, _, rfl⟩

theorem State.Reads.captureStart {d : List Byte} {z : Bool} (h : s.Reads l d z) : (s.captureStart st r l).Reads l d z := by
  have howner := s.captureMark_ownerClu l
  have hline := s.captureMark_cline l
  obtain ⟨procs, hm⟩ := s.captureMark_eq l
  unfold State.captureStart
  generalize s.captureMark l = t at howner hline hm ⊢
  obtain ⟨ho, hc, he⟩ | ⟨k, c, ho, hc, hf, he⟩ := h
  · have hclean : CleanLine t l := by
      rw [hm]
      exact hc
    refine .inl ⟨howner.trans ho, hclean.modStack st fun _ => rfl, ?_⟩
    rw [he, hm]
    rfl
  · refine .inr ⟨k, { c with pg := c.pg && !decide (k < 8) }, howner.trans ho, ?_, hf, he⟩
    refine (hline k).trans ?_
    rw [hc]
    rfl

theorem State.captureStart_readNow : (s.captureStart st r l).readNow l = s.readNow l := by
  rw [← s.captureMark_readNow]
  unfold State.captureStart
  generalize s.captureMark l = t
  rfl

theorem NoInjection.captureStart (h : NoInjection s) : NoInjection (s.captureStart st r l) := by
  obtain ⟨stks, procs, he⟩ := State.captureStart_eq (s := s) (st := st) (r := r) (l := l)
  rw [he]
  exact h

/-- One step of the imager at a line it has not begun (R258). -/
theorem State.capture1_spec {e : Epoch} {d : List Byte} {z : Bool} (ho : s.tun.opened = some e) (hcap : (s.stack st).capt = none)
    (hnext : s.nextDirty st = some (r, l)) (hl : l < 2 ^ 44) (hn : s.dataFor l (.unc (BitVec.ofNat 12 imagerId)) = none)
    (hq : s.readNow l = true) (hi : NoInjection s) (hd : s.Reads l d z) :
    s.capture1 st = ((s.captureStart st r l).modTun fun t => { t with opened := t.opened.map fun e =>
      { e with lines := spIns e.lines l (d, z), unc := e.unc.erase l } }).modStack st fun k => { k with capt := none } := by
  have hn' : (s.captureStart st r l).dataFor l (.unc (BitVec.ofNat 12 imagerId)) = none := by
    obtain ⟨stks, procs, he⟩ := State.captureStart_eq (s := s) (st := st) (r := r) (l := l)
    rw [he]
    exact hn
  have hread := hd.captureStart.lineRead hl (State.captureStart_readNow.trans hq) (hi.captureStart (st := st) (r := r)) hn'
  have hcaptured : (s.captureStart st r l).captured st l d z = ((s.captureStart st r l).modTun fun t => { t with opened := t.opened.map fun e =>
      { e with lines := spIns e.lines l (d, z), unc := e.unc.erase l } }).modStack st fun k => { k with capt := none } := by
    unfold State.captured
    rw [hi.captureStart.tungInj]
    rfl
  unfold State.capture1
  extract_lets me take
  have htake (t : State) (ht : t.lineRead l me = (some (d, z), t)) : take t l = t.captured st l d z := by
    change (match t.lineRead l me with | (some (d, p), s) => s.captured st l d p | (none, s) => s) = _
    rw [ht]
  clear_value take
  rw [ho, hcap, hnext, if_neg (by exact Bool.false_ne_true)]
  exact (htake _ hread).trans hcaptured

end

/-! The budget (R246, R247, R257) and the hold-up check. -/

/-- Nothing but registers changes. -/
def DevOnly (s u : State) : Prop := u = { s with dev := u.dev }

theorem DevOnly.refl (s : State) : DevOnly s s := rfl

theorem DevOnly.trans {s t u : State} (h : DevOnly s t) (g : DevOnly t u) : DevOnly s u := by
  unfold DevOnly at h g ⊢
  rw [g, h]

theorem DevOnly.sg (s : State) (a : Nat) (v d : Word) : DevOnly s (s.sg a v d) := rfl

theorem DevOnly.eventOnly {s u : State} (h : DevOnly s u) : EventOnly s u := by
  unfold DevOnly at h
  rw [h]
  rfl

theorem DevOnly.raise (s : State) (a : Nat) : DevOnly s (s.raise a) := by
  unfold State.raise State.pend
  dsimp only
  split
  · split
    · exact .sg ..
    · exact .refl s
  · exact .refl s

theorem DevOnly.tunStatus (s : State) (i : Nat) : DevOnly s (s.tunStatus i) := by
  unfold State.tunStatus
  dsimp only
  split
  · exact (DevOnly.sg s ..).trans (.raise ..)
  · exact .sg ..

/-- The budget in force is the lesser of the request and the class maximum, 48 without a passed check (R247). -/
def State.Budgeted (u : State) : Prop :=
  u.effMib = if u.pstat.getLsbD 3 then min (fld (u.rg (aTun 8) budgetReset) 9 0) (fld (u.rg (aTun 8) budgetReset) 25 16) else 48

section
variable {s : State}

theorem State.rg_tunStatus (s : State) (i : Nat) {a : Nat} (d : Word) (h : OffLine a) (ha : a ≠ aTun 0x58) : (s.tunStatus i).rg a d = s.rg a d := by
  unfold State.tunStatus
  dsimp only
  split
  · rw [State.rg_raise _ _ d h, State.rg_sg_ne _ _ _ _ ha]
  · rw [State.rg_sg_ne _ _ _ _ ha]

/-- The request and the class maximum in the budget register, and the state of the hold-up check. -/
def State.SameRequest (s u : State) : Prop :=
  fld (u.rg (aTun 8) budgetReset) 9 0 = fld (s.rg (aTun 8) budgetReset) 9 0 ∧
    fld (u.rg (aTun 8) budgetReset) 25 16 = fld (s.rg (aTun 8) budgetReset) 25 16 ∧ u.pstat = s.pstat

theorem State.budgeted_of_eq {u : State} (hb : u.rg (aTun 8) budgetReset = s.rg (aTun 8) budgetReset) (hp : u.pstat = s.pstat)
    (h : s.Budgeted) : u.Budgeted := by
  unfold State.Budgeted State.effMib at h ⊢
  rw [hb, hp]
  exact h

theorem State.setEff_spec (s : State) : DevOnly s s.setEff ∧ s.SameRequest s.setEff ∧ s.setEff.Budgeted := by
  unfold State.setEff
  extract_lets v e
  have hreg : s.rg (aTun 8) budgetReset = v := rfl
  split
  next h => exact ⟨.refl s, ⟨rfl, rfl, rfl⟩, h.symm⟩
  next h =>
    have hlt : e < 2 ^ 10 := by
      have := fld_lt v 9 0
      dsimp only [e]
      split <;> omega
    have hv : ((s.sg (aTun 8) (setFld v 41 32 e) budgetReset).tunStatus 2).rg (aTun 8) budgetReset = setFld v 41 32 e := by
      rw [State.rg_tunStatus _ _ _ (.high (by decide)) (by decide), State.rg_sg_same]
    have hp : ((s.sg (aTun 8) (setFld v 41 32 e) budgetReset).tunStatus 2).pstat = s.pstat := by
      unfold State.pstat
      rw [State.rg_tunStatus _ _ _ (.high (by decide)) (by decide), State.rg_sg_ne _ _ _ _ (by decide)]
    have hreq : fld (setFld v 41 32 e) 9 0 = fld v 9 0 := fld_setFld_ne _ _ _ _ _ _ (by decide) (by decide)
    have hmax : fld (setFld v 41 32 e) 25 16 = fld v 25 16 := fld_setFld_ne _ _ _ _ _ _ (by decide) (by decide)
    refine ⟨(DevOnly.sg s ..).trans (.tunStatus ..), ⟨?_, ?_, hp⟩, ?_⟩
    · rw [hv, hreq]
    · rw [hv, hmax]
    · unfold State.Budgeted State.effMib
      rw [hv, hp, hreq, hmax, fld_setFld_same _ _ _ _ (by decide)]
      exact Nat.mod_eq_of_lt hlt

theorem writeFlds_rwIn (old v : Word) (hi lo a b : Nat) :
    writeFlds false old v [rwIn hi lo a b] = if a ≤ fld v hi lo ∧ fld v hi lo ≤ b then setFld old hi lo (fld v hi lo) else old := by
  by_cases h : a ≤ fld v hi lo ∧ fld v hi lo ≤ b
  · rw [if_pos h]
    simp [writeFlds, rwIn, h]
  · rw [if_neg h]
    simp [writeFlds, rwIn, h]

/-- A write of the budget: a request outside 48 to 768 is not taken (R257). -/
theorem State.budgetWrite_spec (s : State) (v : Word) :
    DevOnly s (s.budgetWrite v) ∧ fld ((s.budgetWrite v).rg (aTun 8) budgetReset) 9 0 =
        (if 48 ≤ fld v 9 0 ∧ fld v 9 0 ≤ 768 then fld v 9 0 else fld (s.rg (aTun 8) budgetReset) 9 0) ∧
      fld ((s.budgetWrite v).rg (aTun 8) budgetReset) 25 16 = fld (s.rg (aTun 8) budgetReset) 25 16 ∧ (s.budgetWrite v).Budgeted := by
  unfold State.budgetWrite
  obtain ⟨hdev, ⟨hreq, hmax, -⟩, hb⟩ := State.setEff_spec (s.sg (aTun 8) (writeFlds false (s.rg (aTun 8) budgetReset) v [rwIn 9 0 48 768]) budgetReset)
  refine ⟨(DevOnly.sg s ..).trans hdev, hreq.trans ?_, hmax.trans ?_, hb⟩
  · rw [State.rg_sg_same, writeFlds_rwIn]
    split
    · rw [fld_setFld_same _ _ _ _ (by decide)]
      exact Nat.mod_eq_of_lt (fld_lt v 9 0)
    · rfl
  · rw [State.rg_sg_same, writeFlds_rwIn]
    split
    · exact fld_setFld_ne _ _ _ _ _ _ (by decide) (by decide)
    · rfl

/-- Why the hold-up check fails, 0 where it passes (R247). -/
def State.holdUpFault (s : State) (mv us : Nat) : Nat := if fld s.pstat 2 0 = 0 then 1 else if mv < 11400 then 2 else if 22400 < us then 3 else 0

theorem State.holdUpFault_le (s : State) (mv us : Nat) : s.holdUpFault mv us ≤ 3 := by
  unfold State.holdUpFault
  split_ifs <;> decide

/-- What the hold-up check leaves in Tungsten: a rehearsal that ran leaves no flush header (R248). -/
def State.heldUp (s : State) (w : Nat) : Tun := { s.tun with checking := false, flush := if w = 0 ∨ w = 3 then none else s.tun.flush }

theorem State.holdUp_spec (s : State) (mv us : Nat) :
    let w := s.holdUpFault mv us
    EventOnly { s with tun := (s.holdUp mv us).tun } (s.holdUp mv us) ∧ (s.holdUp mv us).tun = s.heldUp w ∧
      fld (s.holdUp mv us).pstat 6 4 = w ∧ (s.holdUp mv us).pstat.getLsbD 3 = decide (w = 0) ∧ (s.holdUp mv us).Budgeted := by
  intro w
  have hw : w ≤ 3 := s.holdUpFault_le mv us
  let t : State := ({ s with tun := s.heldUp w } : State).sg (aTun 0x40) (setBit (setFld s.pstat 6 4 w) 3 (decide (w = 0)))
  have heq : s.holdUp mv us = if w = 0 then t.setEff else t.setEff.event { code := 0x0413, sev := 3, blk := some .tun, master := 0x603, pay := [(3, w), (16, mv)] } := by
    unfold State.holdUp
    extract_lets hf s1 fill s2
    have hflush : (if fill = true then none else s.tun.flush) = if w = 0 ∨ w = 3 then none else s.tun.flush := if_congr decide_eq_true_iff rfl rfl
    have hs2 : s2 = t.setEff := by
      change State.setEff { s1 with tun := { s.tun with checking := false, flush := if fill = true then none else s.tun.flush } } = _
      rw [hflush]
      rfl
    rw [hs2]
    rfl
  obtain ⟨hdev, ⟨-, -, hp⟩, hb⟩ := t.setEff_spec
  have hpt : t.pstat = setBit (setFld s.pstat 6 4 w) 3 (decide (w = 0)) := State.rg_sg_same ..
  have hwhy : fld t.pstat 6 4 = w := by
    rw [hpt]
    refine (fld_setFld_ne _ _ _ _ _ _ (by decide) (by decide)).trans ?_
    rw [fld_setFld_same _ _ _ _ (by decide)]
    exact Nat.mod_eq_of_lt (by omega)
  have hbit : t.pstat.getLsbD 3 = decide (w = 0) := by
    rw [hpt, getLsbD_setBit _ _ _ _ (by decide), if_pos rfl]
  have hmain : ∀ u, EventOnly t.setEff u → (∀ a d, OffLine a → u.rg a d = t.setEff.rg a d) →
      EventOnly { s with tun := u.tun } u ∧ u.tun = s.heldUp w ∧ fld u.pstat 6 4 = w ∧ u.pstat.getLsbD 3 = decide (w = 0) ∧ u.Budgeted := by
    intro u hu hrg
    have htun : u.tun = s.heldUp w := (congrArg State.tun (hdev.eventOnly.trans hu) :)
    have hpu : u.pstat = t.pstat := (hrg _ _ (.high (by decide))).trans hp
    refine ⟨?_, htun, hpu ▸ hwhy, hpu ▸ hbit, State.budgeted_of_eq (hrg _ _ (.high (by decide))) (hrg _ _ (.high (by decide))) hb⟩
    rw [htun]
    exact ((EventOnly.sg _ _ _ _).trans hdev.eventOnly).trans hu
  rw [heq]
  by_cases h : w = 0
  · rw [if_pos h]
    exact hmain _ (.refl _) fun _ _ _ => rfl
  · rw [if_neg h]
    exact hmain _ (.event ..) fun _ d ha => State.rg_event _ _ d ha

/-! FORMAT (R267) and a relocated block (R253, R259). -/

theorem State.format_spec (h : s.phase = .nores) :
    s.format = { s with phase := .boot, dev := s.format.dev, tun := { s.tun with cold := true, src := some { src := 0 } } } ∧
      s.format.pstat.getLsbD 7 = false := by
  unfold State.format
  rw [if_pos h]
  refine ⟨rfl, ?_⟩
  unfold State.pstat
  rw [State.rg_sg_same, getLsbD_setBit _ _ _ _ (by decide), if_pos rfl]

/-- A load of a block on its way is answered first. -/
def Load.answered (l : Load) : Load := if l.space = 1 ∧ l.asked = true then { l with ans := true } else l

theorem Load.answered_ans (l : Load) : l.answered.space = 1 → l.answered.asked = true → l.answered.ans = true := by
  unfold Load.answered
  split
  · exact fun _ _ => rfl
  next h => exact fun hs ha => absurd ⟨hs, ha⟩ h

/-- A processor as a relocation leaves it. -/
def Proc.answered (q : Proc) : Proc := { q with loads := q.loads.map Load.answered }

def State.relocProcs (s : State) : Sp Proc := s.procs.map fun x => (x.1, x.2.answered)

theorem State.relocate_spec (s : State) :
    s.relocate.tun = { s.tun with mapver := s.tun.mapver + 1 } ∧ s.relocate.ms = s.ms ∧ s.relocate.procs = s.relocProcs ∧ s.relocate.part = s.part := by
  let t : State := { s.tick1.modTun fun t => { t with mapver := t.mapver + 1 } with procs := s.relocProcs }
  have h : EventOnly t s.relocate := by
    unfold State.relocate
    extract_lets x t1 wait t2 spares
    have ht : t2 = t := rfl
    clear_value t2 t
    subst ht
    split
    · exact (DevOnly.tunStatus _ 1).eventOnly.trans (.event ..)
    · exact .refl _
  exact ⟨(congrArg State.tun h :), (congrArg State.ms h :), (congrArg State.procs h :), (congrArg State.part h :)⟩

theorem State.relocate_proc (s : State) (p : BitVec 6) : s.relocate.proc p = (s.proc p).answered := by
  obtain ⟨-, -, hprocs, hpart⟩ := s.relocate_spec
  unfold State.proc spGetD
  have hget : spGet s.relocProcs p.toNat = (spGet s.procs p.toNat).map Proc.answered :=
    spGet_map (g := fun (x : Nat × Proc) => (x.1, x.2.answered)) (fun _ => rfl) s.procs _
  rw [hprocs, hpart, hget]
  cases spGet s.procs p.toNat <;> rfl

end

/-! The imager's capture and the end of an epoch as instructions (R258, R259). -/

section
variable {s : State}

/-- An imager's step at a line it has not begun: the line enters the open epoch, and every grant of it ends (R258, R255). -/
theorem imagerCapture_spec {st : BitVec 3} {e : Epoch} {r l : Nat} {d : List Byte} {z : Bool} (hon : s.imagerOn = true) (hst : st.toNat < s.part.stks)
    (ho : s.tun.opened = some e) (hcap : (s.stack st.toNat).capt = none) (hnext : s.nextDirty st.toNat = some (r, l)) (hl : l < 2 ^ 44)
    (hn : s.dataFor l (.unc (BitVec.ofNat 12 imagerId)) = none) (hq : s.readNow l = true) (hi : NoInjection s) (hd : s.Reads l d z) :
    ∃ u e', exec (.imagerCapture st) s = .next u ∧
      u = { s with tun := { s.tun with opened := some e' }, dbits := s.dbits.erase l, stks := u.stks, procs := u.procs, clus := u.clus } ∧
      spGet e'.lines l = some (d, z) ∧ (∀ j, j ≠ l → spGet e'.lines j = spGet e.lines j) ∧ (u.stack st.toNat).sweep = r + 1 ∧
      (u.stack st.toNat).capt = none ∧ (∀ k : BitVec 3, ∀ c, u.cline k.toNat l = some c → c.pg = false) := by
  have hstep : exec (.imagerCapture st) s = .next (s.capture1 st.toNat) := by
    rw [exec_imagerCapture, execImagerCapture, if_pos ⟨hon, hst⟩]
  rw [hstep, State.capture1_spec ho hcap hnext hl hn hq hi hd]
  have hline := s.captureMark_cline l
  have hstack : (s.captureStart st.toNat r l).stack st.toNat = { (s.captureMark l).stack st.toNat with sweep := r + 1, capt := some l } :=
    State.stack_modStack _ _ _
  obtain ⟨stks, procs, heq⟩ := State.captureStart_eq (s := s) (st := st.toNat) (r := r) (l := l)
  generalize s.captureMark l = m at hline hstack heq
  generalize s.captureStart st.toNat r l = t at hstack heq ⊢
  refine ⟨_, { e with lines := spIns e.lines l (d, z), unc := e.unc.erase l }, rfl, ?_, spGet_spIns_same _ _ _,
    fun j hj => spGet_spIns_ne _ _ hj, ?_, ?_, fun k c hc => ?_⟩
  · subst heq
    unfold State.modStack State.modTun
    dsimp only
    rw [ho]
    rfl
  · rw [State.stack_modStack]
    exact congrArg Stack.sweep hstack
  · rw [State.stack_modStack]
  · have hgrants : t.cline k.toNat l = m.cline k.toNat l := by
      rw [heq]
      rfl
    have hmark : m.cline k.toNat l = some c := hgrants.symm.trans hc
    obtain ⟨c0, -, rfl⟩ := Option.map_eq_some_iff.1 ((hline _).symm.trans hmark)
    show (c0.pg && !decide (k.toNat < 8)) = false
    rw [decide_eq_true k.isLt, Bool.not_true, Bool.and_false]

theorem State.commitEpoch_eq (hi : NoInjection s) (e : Epoch) : ∃ c : Commit, c.seq = e.n ∧ c.ms = e.ms ∧ c.ok = true ∧ c.mapver = s.tun.mapver + 1 ∧
    s.commitEpoch e = { s with tun := { s.tun.write e.lines e.unc with ring := spIns s.tun.ring (e.n % 1024) c, closed := e.n, mapver := s.tun.mapver + 1, opened := none } } := by
  unfold State.commitEpoch
  rw [hi.tungInj]
  exact ⟨_, rfl, rfl, rfl, rfl, rfl⟩

/-- The end of an epoch whose lines are all captured (R258, R259). -/
theorem epochClose_spec {e : Epoch} (hon : s.imagerOn = true) (ho : s.tun.opened = some e)
    (hdone : ∀ st : Nat, st < s.part.stks → s.nextDirty st = none ∧ (s.stack st).capt = none) (hi : NoInjection s) :
    ∃ u c, exec .epochClose s = .next u ∧ u = { s with tun := u.tun, stks := u.stks, procs := u.procs } ∧ u.tun.opened = none ∧
      u.tun.closed = e.n ∧ spGet u.tun.ring (e.n % 1024) = some c ∧ c.seq = e.n ∧ c.ms = e.ms ∧ c.ok = true ∧ c.mapver = s.tun.mapver + 1 ∧
      u.tun.mapver = s.tun.mapver + 1 ∧ u.tun.img = (s.tun.write e.lines e.unc).img := by
  have hnone : ((List.range s.part.stks).any fun st => (s.nextDirty st).isSome || (s.stack st).capt.isSome) = false := by
    refine List.any_eq_false.2 fun st hst => ?_
    obtain ⟨hdirty, hcapt⟩ := hdone st (List.mem_range.1 hst)
    rw [hdirty, hcapt]
    exact Bool.false_ne_true
  obtain ⟨c, hseq, hms, hok, hver, hcommit⟩ := State.commitEpoch_eq hi e
  rw [exec_epochClose, execEpochClose, if_pos hon, State.closeEpoch, ho]
  dsimp only
  rw [hnone, if_neg Bool.false_ne_true, hcommit]
  generalize List.range s.part.stks = sts
  obtain ⟨k, hk⟩ := State.foldl_modStack_eq (fun k => { k with sweeping := false }) sts
    { s with tun := { s.tun.write e.lines e.unc with ring := spIns s.tun.ring (e.n % 1024) c, closed := e.n, mapver := s.tun.mapver + 1, opened := none } }
  rw [hk]
  exact ⟨_, c, rfl, rfl, rfl, rfl, spGet_spIns_same _ _ _, hseq, hms, hok, hver, rfl, rfl⟩

theorem epochCut_spec (ho : s.tun.opened = none) (hp : s.phase = .run)
    (hd : s.tun.cutNow = true ∨ s.tun.lastCut = none ∨ ∃ t, s.tun.lastCut = some t ∧ t + s.epochTicks ≤ s.ticks) : exec .epochCut s = .next s.cutEpoch := by
  have hrun : ¬ s.phase = .fatal := by
    rw [hp]
    exact nofun
  show execEpochCut s = _
  rw [execEpochCut, if_pos (State.mayCut_run ho hp hd), State.cutDue, if_neg hrun]

end

/-- Settles O29: every capture, commit, check and relocation is read off its own equation; a captured line is at rest, so its read leaves
the state as it is. -/
theorem imageEpochsAndFormat : Obligations.ImageEpochsAndFormat := by
  unfold Obligations.ImageEpochsAndFormat
  refine ⟨fun s => ⟨fun ho hp hd => ?_, ?_, fun e hon ho hdone hi => epochClose_spec hon ho hdone hi, fun a ha hp => ⟨?_, ?_⟩⟩,
    fun s => ⟨fun a v ha => ?_, fun mv us hp hc => ?_, fun a ha hp => ?_, fun n hp => ?_⟩⟩
  · obtain ⟨heq, hsweep⟩ := s.cutEpoch_spec
    rw [epochCut_spec ho hp hd]
    generalize s.cutEpoch = u at heq hsweep
    have htun : u.tun = { s.tun with opened := some s.nextEpoch, lastCut := some s.ticks, cutNow := false } := (congrArg State.tun heq :)
    refine ⟨u, s.nextEpoch, rfl, ?_, (congrArg Tun.opened htun :), rfl, rfl, (congrArg Tun.img htun :), (congrArg Tun.cutNow htun :), hsweep⟩
    rw [htun]
    exact heq
  · exact fun st e r l d z hon hst ho hcap hnext hl hn hq hi hd => imagerCapture_spec hon hst ho hcap hnext hl hn hq hi hd
  · show execTunCut a s = _
    rw [execTunCut, State.onWrite_reach ha, State.tunCut, if_pos hp]
    rfl
  · show execTunRecheck a s = _
    rw [execTunRecheck, State.onWrite_reach ha, if_pos hp]
    rfl
  · exact ⟨_, State.onWrite_reach ha (State.budgetWrite · v), s.budgetWrite_spec v⟩
  · exact ⟨_, congrArg Host.Outcome.next (if_pos ⟨hp, hc⟩), s.holdUp_spec mv us⟩
  · exact ⟨_, State.onWrite_reach ha _, State.format_spec hp⟩
  · obtain ⟨htun, hms, -, -⟩ := s.relocate_spec
    refine ⟨_, congrArg Host.Outcome.next (if_pos hp), htun, hms, fun p => ?_⟩
    rw [State.relocate_proc]
    refine ⟨rfl, fun x hx => ?_⟩
    obtain ⟨y, -, rfl⟩ := List.mem_map.1 hx
    exact y.answered_ans

end Sys2Proof.Machine

namespace Sys2Proof.Machine

open Sys2Proof

/-! The registers by which a cluster keeps its cores (R295): what they read after the operations of sparing. -/

theorem OffLine.clu (k : Nat) {o : Nat} (h : 0x280 ≤ o) (h' : o < 0x4000) : OffLine (aClu k o) := by
  intro i j _ hj
  unfold aClu
  omega

theorem aClu_ne (k : Nat) {a b : Nat} (h : a ≠ b) : aClu k a ≠ aClu k b := by
  unfold aClu
  omega

theorem cluOf_ofNat {k t : Nat} (hk : k < 8) (ht : t < 8) : cluOf (BitVec.ofNat 6 (8 * k + t)) = k := by
  unfold cluOf
  rw [BitVec.toNat_ofNat]
  omega

theorem slotOf_lt (p : BitVec 6) : slotOf p < 8 := Nat.mod_lt _ (by decide)

/-- STATUS of CLU[k]_SPSTAT, as it was set. -/
theorem extractLsb'_setFld_status (v : Word) (x : Nat) : (setFld v 23 16 x).extractLsb' 16 8 = BitVec.ofNat 8 x := by
  refine BitVec.eq_of_getLsbD_eq fun i hi => ?_
  rw [BitVec.getLsbD_extractLsb', getLsbD_setFld _ _ _ _ _ (by omega), if_pos (by omega), Nat.add_sub_cancel_left, BitVec.getLsbD_ofNat]

/-- Registers of device space differ at interrupt lines alone. -/
def DevKept (s u : State) : Prop := ∀ a d, OffLine a → u.rg a d = s.rg a d

namespace DevKept

theorem refl (s : State) : DevKept s s := fun _ _ _ => rfl

theorem trans {s t u : State} (h : DevKept s t) (g : DevKept t u) : DevKept s u := fun a d ha => (g a d ha).trans (h a d ha)

theorem of_dev {s u : State} (h : u.dev = s.dev) : DevKept s u := fun a d _ => congrArg (spGetD d · a) h

theorem of_cores {s u : State} (h : CoresOnly s u) : DevKept s u := of_dev (congrArg State.dev h.state :)

theorem event (s : State) (e : Ev) : DevKept s (s.event e) := fun _ d ha => State.rg_event s e d ha

theorem stopContained (s : State) (p : BitVec 6) : DevKept s (s.stopContained p) := of_dev rfl

theorem raiseSp (s : State) (k : Nat) : DevKept s (s.raiseSp k) := fun _ d ha => State.rg_raiseIn s k _ d ha

theorem foldl {α : Type} (f : State → α → State) (h : ∀ s a, DevKept s (f s a)) (xs : List α) (s : State) : DevKept s (xs.foldl f s) := by
  induction xs generalizing s with
  | nil => exact refl s
  | cons x xs ih => exact (h s x).trans (ih _)

variable {s u : State}

theorem map (h : DevKept s u) (k : Nat) : u.map k = s.map k := h _ _ (.clu k (by decide) (by decide))

theorem spareReg (h : DevKept s u) (k : Nat) : u.spareReg k = s.spareReg k := h _ _ (.clu k (by decide) (by decide))

theorem checked (h : DevKept s u) (k : Nat) : u.checked k = s.checked k :=
  congrArg (·.getLsbD 0) (h _ 0 (.clu k (by decide) (by decide)))

end DevKept

section
variable {s : State} {k : Nat}

/-- An injection that hits changes a capture block and no register of device space (R485). -/
theorem State.injHit_dev {t : State} {b : Blk} {chk n inv : Nat} (h : s.injHit b chk n = some (inv, t)) : t.dev = s.dev := by
  unfold State.injHit at h
  dsimp only at h
  split at h
  · obtain ⟨-, rfl⟩ := Prod.mk.inj (Option.some.inj h)
    rfl
  · cases h

theorem State.l1dCheck_dev (s : State) (n l : Nat) : DevKept s (s.l1dCheck n l) := by
  unfold State.l1dCheck
  dsimp only
  split
  · exact .refl s
  · split
    · exact .refl s
    · next inv t ht =>
      have hs : DevKept s t := by
        obtain ⟨c, -, hc⟩ := List.exists_of_findSome?_eq_some ht
        obtain h | ⟨-, h⟩ := (Option.orElse_eq_some _ _ _).1 hc
        · exact .of_dev (State.injHit_dev h)
        · exact .of_dev (State.injHit_dev h)
      have hdrop (v : State) : DevKept v ((v.modCore n fun (q : CoreS) => { q with dc := spDel q.dc l }).killResvCore n l) :=
        .of_cores ((CoresOnly.modCore v n _).trans (.killResvCore _ n l))
      split
      · exact hs
      · split
        · exact (hs.trans (hdrop t)).trans (.event _ _)
        · split
          · exact hs.trans (.event _ _)
          · refine (((hs.trans ?_).trans (hdrop _)).trans (DevKept.stopContained _ _)).trans (.event _ _)
            split
            · exact .of_dev rfl
            · exact .refl t

/-- Emptying an L1 data cache writes no register but interrupt lines (R187, R194). -/
theorem State.l1Purge_dev (s : State) (p : BitVec 6) : DevKept s (s.l1Purge p).2 := by
  let n := s.hostCore p
  let v := (s.core n).dc.foldl (fun s (l, x) => if x.st = .m then s.l1dCheck n l else s) s
  have hv : DevKept s v := by
    refine .foldl _ (fun s (l, x) => ?_) _ s
    dsimp only
    split
    · exact s.l1dCheck_dev n l
    · exact .refl s
  have hw : CoresOnly v ((v.core n).dc.foldl (fun s (l, _) => s.killResvCore n l) v) :=
    .foldl _ (fun s (l, _) => .killResvCore s n l) _ v
  unfold State.l1Purge
  dsimp only
  split
  · exact hv.trans (.of_cores ((hw.trans (.modCore _ n _)).trans (.modCore _ _ _)))
  · exact hv.trans (.of_cores (hw.trans (.modCore _ n _)))

/-! CLU[k]_SPARE, CLU[k]_MAP and CLU[k]_SPSTAT. -/

theorem State.setSpare_spareReg (s : State) (k : Nat) (v : Word) : (s.setSpare k v).spareReg k = v := by
  unfold State.setSpare
  dsimp only
  split
  · exact State.rg_sg_same _ _ _ _
  · exact State.rg_sg_same _ _ _ _

theorem State.rg_setSpare (s : State) (v : Word) {a : Nat} (d : Word) (h : a ≠ aClu k 0x410) : (s.setSpare k v).rg a d = s.rg a d := by
  unfold State.setSpare
  dsimp only
  split
  · exact State.rg_sg_ne s _ _ _ h
  · exact State.rg_sg_ne s _ _ _ h

theorem State.setSpare_map (s : State) (k : Nat) (v : Word) : (s.setSpare k v).map k = s.map k :=
  s.rg_setSpare v _ (aClu_ne k (by decide))

theorem State.setSpare_checked (s : State) (k : Nat) (v : Word) : (s.setSpare k v).checked k = s.checked k :=
  congrArg (·.getLsbD 0) (s.rg_setSpare v 0 (aClu_ne k (by decide)))

theorem State.setMap_checked (s : State) (k t c : Nat) : (s.setMap k t c).checked k = s.checked k :=
  congrArg (·.getLsbD 0) (State.rg_sg_ne s _ _ 0 (aClu_ne k (by decide)))

theorem State.mapAt_setMap_same (s : State) {t c : Nat} (ht : t < 12) (hc : c < 16) : mapAt ((s.setMap k t c).map k) t = c := by
  unfold State.map State.setMap mapAt
  rw [State.rg_sg_same, fld_setFld_same _ _ _ _ (by omega), show 4 * t + 3 + 1 - 4 * t = 4 by omega]
  exact Nat.mod_eq_of_lt hc

theorem State.mapAt_setMap_ne (s : State) {t i : Nat} (c : Nat) (hi : i < 12) (h : i ≠ t) : mapAt ((s.setMap k t c).map k) i = mapAt (s.map k) i := by
  unfold State.map State.setMap mapAt
  rw [State.rg_sg_same, fld_setFld_ne _ _ _ _ _ _ (by omega) (by omega)]
  rfl

theorem mapAt_lt (m : Word) (t : Nat) : mapAt m t < 16 := by
  have h := fld_lt m (4 * t + 3) (4 * t)
  rwa [show 4 * t + 3 + 1 - 4 * t = 4 by omega] at h

/-- A bit of CLU[k]_SPARE that marks a core. -/
theorem State.spareReg_setMark (s : State) (k : Nat) {n i : Nat} (b : Bool) (h : i < 48) :
    ((s.setSpare k (setBit (s.spareReg k) n b)).spareReg k).getLsbD i = if i = n then b else (s.spareReg k).getLsbD i := by
  rw [State.setSpare_spareReg, getLsbD_setBit _ _ _ _ h]

/-- The index of the spare leaves the marks as they are. -/
theorem State.spareReg_setSpareIdx (s : State) (k c : Nat) {i : Nat} (h : i < 48) (h4 : 4 ≤ i) :
    ((s.setSpareIdx k c).spareReg k).getLsbD i = (s.spareReg k).getLsbD i := by
  rw [State.setSpareIdx, State.setSpare_spareReg, getLsbD_setFld _ _ _ _ _ h, if_neg (by omega)]

theorem State.spare_setSpareIdx (s : State) {c : Nat} (h : c < 16) : (s.setSpareIdx k c).spare k = c := by
  rw [State.spare, State.setSpareIdx, State.setSpare_spareReg, fld_setFld_same _ _ _ _ (by decide)]
  exact Nat.mod_eq_of_lt h

theorem State.spStatus_status (s : State) (k x : Nat) : ((s.spStatus k x).rg (aClu k 0x420)).extractLsb' 16 8 = BitVec.ofNat 8 x := by
  rw [State.spStatus, State.rg_sg_same, extractLsb'_setFld_status]

theorem State.spStatus_map (s : State) (k x : Nat) : (s.spStatus k x).map k = s.map k := State.rg_sg_ne s _ _ _ (aClu_ne k (by decide))

theorem State.spStatus_spareReg (s : State) (k x : Nat) : (s.spStatus k x).spareReg k = s.spareReg k :=
  State.rg_sg_ne s _ _ _ (aClu_ne k (by decide))

end

end Sys2Proof.Machine

namespace Sys2Proof.Machine

open Sys2Proof

/-! Outcomes of self-tests, checker-path faults, moves, retests and injections (R285, R288, R291, R294). -/

/-- Registers, L1 caches, the boot configuration, the free counter and what events touch may differ; processors, cluster caches and the main store
do not. -/
def SparingOnly (s u : State) : Prop :=
  u = { s with dev := u.dev, bcfg := u.bcfg, cores := u.cores, free := u.free, fe := u.fe, outbox := u.outbox, cxl := u.cxl, pew := u.pew }

namespace SparingOnly

theorem refl (s : State) : SparingOnly s s := rfl

theorem trans {s t u : State} (h : SparingOnly s t) (g : SparingOnly t u) : SparingOnly s u := by
  unfold SparingOnly at *
  rw [g, h]

theorem of_event {s u : State} (h : EventOnly s u) : SparingOnly s u := by
  rw [h]
  rfl

theorem setSpare (s : State) (k : Nat) (v : Word) : SparingOnly s (s.setSpare k v) := by
  unfold State.setSpare
  dsimp only
  split
  · rfl
  · rfl

theorem setMap (s : State) (k t c : Nat) : SparingOnly s (s.setMap k t c) := rfl

theorem clearL1 (s : State) (n : Nat) : SparingOnly s (s.clearL1 n) := rfl

variable {s u : State}

theorem procs (h : SparingOnly s u) : u.procs = s.procs := (congrArg State.procs h :)

theorem proc (h : SparingOnly s u) (p : BitVec 6) : u.proc p = s.proc p := by
  rw [h]
  rfl

theorem ms (h : SparingOnly s u) : u.ms = s.ms := (congrArg State.ms h :)

theorem clu (h : SparingOnly s u) (k : Nat) : u.clu k = s.clu k := by
  rw [h]
  rfl

end SparingOnly

/-- A core whose L1 caches may be emptied. -/
theorem State.clearL1_if (s : State) (c : Prop) [Decidable c] (n : Nat) :
    SparingOnly s (if c then s.clearL1 n else s) ∧ (if c then s.clearL1 n else s).dev = s.dev := by
  split
  · exact ⟨.clearL1 s n, rfl⟩
  · exact ⟨.refl s, rfl⟩

/-- What telling of a sparing can do (R295, R296). -/
structure Told (s u : State) : Prop where
  only : SparingOnly s u
  dev : DevKept s u

namespace Told

theorem spEvent (s : State) (p : BitVec 6) (code sev cls c1 c2 kind : Nat) : Told s (s.spEvent p code sev cls c1 c2 kind) :=
  ⟨.of_event (.event _ _), .event _ _⟩

theorem raiseSp (s : State) (k : Nat) : Told s (s.raiseSp k) where
  only := by
    obtain ⟨dev, h⟩ := s.raiseIn_eq k (aClu k 0x428)
    rw [State.raiseSp, h]
    rfl
  dev := .raiseSp s k

theorem trans {s t u : State} (h : Told s t) (g : Told t u) : Told s u := ⟨h.only.trans g.only, h.dev.trans g.dev⟩

end Told

/-- Of the listed cores those that exist (R285). -/
theorem State.clearL1_foldl (s : State) (k : Nat) (xs : List Nat) :
    SparingOnly s (xs.foldl (fun s c => if c < 9 then s.clearL1 (9 * k + c) else s) s) ∧
      (xs.foldl (fun s c => if c < 9 then s.clearL1 (9 * k + c) else s) s).dev = s.dev := by
  induction xs generalizing s with
  | nil => exact ⟨.refl s, rfl⟩
  | cons c xs ih =>
    obtain ⟨honly, hdev⟩ := s.clearL1_if (c < 9) (9 * k + c)
    obtain ⟨honly', hdev'⟩ := ih (if c < 9 then s.clearL1 (9 * k + c) else s)
    exact ⟨honly.trans honly', hdev'.trans hdev⟩

/-- UNCHK of MODE, and whether a checker-path fault waits for its move (R287, R288). -/
def Proc.setUnchk (q : Proc) (unchk cpf : Bool) : Proc := { q.crSet 1 (setBit (q.crGet 1) 1 unchk) with cpf := cpf }

theorem Proc.setUnchk_unchk (q : Proc) (b c : Bool) : ((q.setUnchk b c).crGet 1).getLsbD 1 = b := by
  have h : (q.setUnchk b c).crGet 1 = setBit (q.crGet 1) 1 b := q.crGet_crSet_same 1 _
  rw [h, getLsbD_setBit _ _ _ _ (by decide), if_pos rfl]

section
variable {s : State} {p : BitVec 6} {k : Nat}

/-- A processor that goes on after a pause (R284). -/
structure Proc.Unpaused (q r : Proc) : Prop where
  paused : r.paused = none
  cr : ∀ c, r.crGet c = q.crGet c
  cpf : r.cpf = q.cpf
  g : r.g = q.g
  ip : r.ip = q.ip

theorem State.proc_unpause (s : State) (p : BitVec 6) (us : Nat) (sub : Bool) : (s.proc p).Unpaused ((s.unpause p us sub).proc p) := by
  rw [State.unpause, State.proc_modProc]
  exact ⟨rfl, fun _ => rfl, rfl, rfl, rfl⟩

/-- The new cores of a pair: its leader stands in MAP, and it is marked as unchecked when it has no checker (R285). -/
theorem State.placePair_spec (s : State) (p : BitVec 6) {lead : Nat} (chk failed left : Nat) (h : lead < 16) :
    ∃ v : State, SparingOnly s v ∧ mapAt (v.map (cluOf p)) (slotOf p) = lead ∧
      s.placePair p lead chk failed left = v.modProc p fun q => q.setUnchk (decide (chk ≥ 9)) false := by
  let k := cluOf p
  have hslot := slotOf_lt p
  let m := (s.setMap k (slotOf p) lead).setMap k (slotOf p + 4) chk
  let r := (m.setRetired k failed true).setSpareIdx k left
  obtain ⟨hv, hdev⟩ := r.clearL1_foldl k [lead, chk, failed]
  refine ⟨_, ?_, ?_, rfl⟩
  · exact ((((SparingOnly.setMap s k _ _).trans (.setMap _ k _ _)).trans (.setSpare _ k _)).trans (.setSpare _ k _)).trans hv
  · have hmap : r.map k = m.map k := (State.setSpare_map _ k _).trans (State.setSpare_map _ k _)
    rw [(DevKept.of_dev hdev).map, hmap, State.mapAt_setMap_ne _ _ (by omega) (by omega), State.mapAt_setMap_same _ (by omega) h]

/-- A failed leader without a spare: its checker takes its place without a checker, and this is told (R285). -/
theorem State.selfTest_leader_told {t : SelfTest} {rest : List SelfTest} (h : (s.clu k).sparing = t :: rest) (hbg : t.bg = false) (hs : 9 ≤ s.spare k) :
    Told (((s.modClu k fun c => { c with sparing := rest }).placePair t.p (mapAt (s.map k) (slotOf t.p + 4)) 0xF
        (mapAt (s.map k) (slotOf t.p)) 0xF).unpause t.p 66 false) (s.selfTest k false true) := by
  have hsp : decide ((s.modClu k fun c => { c with sparing := rest }).spare k < 9) = false := decide_eq_false (Nat.not_lt.2 hs)
  unfold State.selfTest
  rw [h]
  dsimp only
  rw [hbg, hsp]
  exact .spEvent _ _ _ _ _ _ _ _

/-- A failed leader without a spare: the processor goes on, unchecked, on the core that was its checker (R285). -/
theorem State.selfTest_leader {t : SelfTest} {rest : List SelfTest} (h : (s.clu k).sparing = t :: rest) (hbg : t.bg = false) (hk : cluOf t.p = k)
    (hs : 9 ≤ s.spare k) :
    ((s.selfTest k false true).clu k).sparing = rest ∧ ((s.selfTest k false true).proc t.p).paused = none ∧
      mapAt ((s.selfTest k false true).map k) (slotOf t.p) = mapAt (s.map k) (slotOf t.p + 4) ∧
      (((s.selfTest k false true).proc t.p).crGet 1).getLsbD 1 = true ∧
      ((s.selfTest k false true).proc t.p).g = (s.proc t.p).g ∧ (s.selfTest k false true).ms = s.ms := by
  obtain ⟨honly, hdev⟩ := State.selfTest_leader_told h hbg hs
  obtain ⟨v, hv, hmap, hplace⟩ := (s.modClu k fun c => { c with sparing := rest }).placePair_spec t.p
    0xF (mapAt (s.map k) (slotOf t.p)) 0xF (mapAt_lt (s.map k) (slotOf t.p + 4))
  rw [hplace] at honly hdev
  obtain ⟨hpaused, hcr, -, hg, -⟩ := (v.modProc t.p fun q => q.setUnchk (decide (0xF ≥ 9)) false).proc_unpause t.p 66 false
  rw [State.proc_modProc, hv.proc] at hcr hg
  rw [honly.proc, hcr, hg]
  refine ⟨?_, hpaused, ?_, Proc.setUnchk_unchk _ _ _, rfl, honly.ms.trans hv.ms⟩
  · rw [honly.clu]
    show (v.clu k).sparing = rest
    rw [hv.clu, State.clu_modClu_same]
  · rw [hdev.map, ← hmap, hk]
    rfl

/-- A fault on the path of the checker in slot `t` (R288): its mark is set, and a processor that is not paused goes on unchecked. -/
theorem State.pathFault_spec {t : Nat} (ht : t < 4) (hc : s.checked k = true) (h9 : mapAt (s.map k) (t + 4) < 9)
    (hfirst : ∀ x, x < t → mapAt (s.map k) (x + 4) ≠ mapAt (s.map k) (t + 4))
    (hp : (s.proc (BitVec.ofNat 6 (8 * k + t))).paused = none) :
    Told ((s.setChkBad k (mapAt (s.map k) (t + 4))).modProc (BitVec.ofNat 6 (8 * k + t)) fun q => { q.setUnchk true true with inj := q.inj &&& 5 })
      (s.pathFault k (mapAt (s.map k) (t + 4))) := by
  have hfind : (List.range 4).find? (fun x => decide (mapAt (s.map k) (x + 4) = mapAt (s.map k) (t + 4) ∧ mapAt (s.map k) (t + 4) < 9)) = some t := by
    rw [List.find?_range_eq_some]
    refine ⟨decide_eq_true ⟨rfl, h9⟩, List.mem_range.2 ht, fun x hx => ?_⟩
    rw [decide_eq_false fun h => hfirst x hx h.1]
    rfl
  have hgo : ((s.setChkBad k (mapAt (s.map k) (t + 4))).proc (BitVec.ofNat 6 (8 * k + t))).paused.isSome = false := by
    rw [State.setChkBad, (SparingOnly.setSpare s k _).proc, hp]
    rfl
  unfold State.pathFault
  rw [hc, hfind]
  dsimp only
  rw [hgo]
  exact (Told.spEvent _ _ _ _ _ _ _ _).trans (.raiseSp _ k)

/-- A checker that has moved checks its pair again (R288). -/
def State.recheck (s : State) (p : BitVec 6) (t : Nat) : State :=
  if s.checked (cluOf p) && decide (4 ≤ t) then s.modProc p fun q => q.setUnchk false false else s

theorem State.recheck_spec (s : State) (p : BitVec 6) (t : Nat) :
    (s.recheck p t).dev = s.dev ∧ (s.recheck p t).ms = s.ms ∧ ((s.recheck p t).proc p).g = (s.proc p).g ∧
      ((s.recheck p t).proc p).ip = (s.proc p).ip := by
  unfold State.recheck
  split
  · rw [State.proc_modProc]
    exact ⟨rfl, rfl, rfl, rfl⟩
  · exact ⟨rfl, rfl, rfl, rfl⟩

theorem State.recheck_checker {t : Nat} (hc : s.checked (cluOf p) = true) (h4 : 4 ≤ t) : (s.recheck p t).proc p = (s.proc p).setUnchk false false := by
  rw [State.recheck, if_pos (by rw [hc, decide_eq_true h4]; rfl), State.proc_modProc]

/-- The spare stands in field `t` of MAP once the core's L1 caches are purged; the processor then goes on (R288, R291). -/
theorem State.moveCore_goesOn (s : State) (p : BitVec 6) {t : Nat} (ht : t < 12) (hs : s.spare (cluOf p) < 9) :
    ∃ v us, SparingOnly (s.l1Purge p).2 v ∧ mapAt (v.map (cluOf p)) t = s.spare (cluOf p) ∧ v.checked (cluOf p) = s.checked (cluOf p) ∧
      Told ((v.recheck p t).unpause p us true).tick1 (s.moveCore p t) := by
  let k := cluOf p
  let x := (s.l1Purge p).2
  let m := (x.setMap k t (s.spare k)).setSpareIdx k (mapAt (s.map k) t)
  have hm : SparingOnly x m := (SparingOnly.setMap x k _ _).trans (.setSpare _ k _)
  have hmap : mapAt (m.map k) t = s.spare k :=
    (congrArg (mapAt · t) (State.setSpare_map _ k _)).trans (x.mapAt_setMap_same ht (Nat.lt_trans hs (by decide)))
  have hchk : m.checked k = s.checked k :=
    ((State.setSpare_checked _ k _).trans (x.setMap_checked k t _)).trans ((s.l1Purge_dev p).checked k)
  let c := (m.clearL1 (9 * k + mapAt (s.map k) t)).clearL1 (9 * k + s.spare k)
  obtain ⟨hv, hvdev⟩ := c.clearL1_if (c.checked k) (9 * k + mapAt (c.map k) (slotOf p))
  let v := if c.checked k then c.clearL1 (9 * k + mapAt (c.map k) (slotOf p)) else c
  let us := Config.freeNat (v.recheck p t).free % 26
  have hmove : s.moveCore p t = ((v.recheck p t).unpause p us true).tick1.raiseSp k := rfl
  rw [hmove]
  refine ⟨v, us, hm.trans (((SparingOnly.clearL1 m _).trans (.clearL1 _ _)).trans hv), ?_, ?_, .raiseSp _ k⟩
  · rw [(DevKept.of_dev hvdev).map]
    exact hmap
  · rw [(DevKept.of_dev hvdev).checked]
    exact hchk

/-- A move keeps the registers of the processor; for a checker the pair is checked again (R288, R291). -/
theorem State.moveCore_spec (s : State) (p : BitVec 6) {t : Nat} (ht : t < 12) (hs : s.spare (cluOf p) < 9) :
    mapAt ((s.moveCore p t).map (cluOf p)) t = s.spare (cluOf p) ∧ (s.moveCore p t).ms = s.ms ∧
      ((s.moveCore p t).proc p).g = (s.proc p).g ∧ ((s.moveCore p t).proc p).ip = (s.proc p).ip ∧
      (s.checked (cluOf p) = true → 4 ≤ t →
        ((s.moveCore p t).proc p).cpf = false ∧ (((s.moveCore p t).proc p).crGet 1).getLsbD 1 = false) := by
  obtain ⟨hpms, hpproc⟩ := s.l1Purge_kept p
  obtain ⟨resv, run, hpp⟩ := hpproc p
  obtain ⟨v, us, hv, hmap, hchk, htold⟩ := s.moveCore_goesOn p ht hs
  have hvp : v.proc p = { s.proc p with resv := resv, run := run } := (hv.proc p).trans hpp
  obtain ⟨hdev, hms, hg, hip⟩ := v.recheck_spec p t
  obtain ⟨-, hcr, hcpf, hg', hip'⟩ := (v.recheck p t).proc_unpause p us true
  have hproc : (s.moveCore p t).proc p = ((v.recheck p t).unpause p us true).proc p := htold.only.proc p
  have hkept : DevKept v (s.moveCore p t) := (DevKept.of_dev hdev).trans htold.dev
  rw [hkept.map, hproc, hg', hg, hip', hip, hvp]
  refine ⟨hmap, htold.only.ms.trans (hms.trans (hv.ms.trans hpms)), rfl, rfl, fun hc h4 => ?_⟩
  rw [hcpf, hcr, State.recheck_checker (hchk.trans hc) h4]
  exact ⟨rfl, Proc.setUnchk_unchk _ _ _⟩

/-- A controller without a self-test takes its command at once (R289). -/
theorem State.spBusy_idle (h : (s.clu k).sparing = []) (f : State → State) : s.spBusy k f = f s := by
  rw [State.spBusy, h]
  rfl

theorem State.spMove_noSpare (h : (s.clu k).sparing = []) (hs : 9 ≤ s.spare k) (slot : Nat) : s.spMove k slot = s.spStatus k 4 := by
  rw [State.spMove, State.spBusy_idle h]
  exact if_neg fun hc => absurd hc.1 (Nat.not_lt.2 hs)

/-- MOVE of a split cluster with a free spare (R291); that the core moves at the moment of the command is the model's own choice (log 17). -/
theorem State.spMove_split {slot : Nat} (h : (s.clu k).sparing = []) (hs : s.spare k < 9) (hslot : mapAt (s.map k) slot < 9)
    (hc : s.checked k = false) (hp : (s.proc (BitVec.ofNat 6 (8 * k + slot))).paused = none) :
    s.spMove k slot = (s.moveCore (BitVec.ofNat 6 (8 * k + slot)) slot).spStatus k 0 := by
  rw [State.spMove, State.spBusy_idle h]
  dsimp only
  rw [hc, if_neg Bool.false_ne_true, if_pos ⟨hs, hslot, by rw [hp]; rfl⟩]

theorem State.spRetest_fails {c : Nat} (h : (s.clu k).sparing = []) (hc : c < 9) (hr : (s.spareReg k).getLsbD (4 + c) = true) :
    s.spRetest k c false = s.spStatus k 6 := by
  rw [State.spRetest, State.spBusy_idle h]
  rw [hr, decide_eq_true hc]
  rfl

/-- Core `c` is no longer retired nor suspect, and is the spare. -/
def State.retested (s : State) (k c : Nat) : State := ((s.setRetired k c false).setSuspect k c false).setSpareIdx k c

theorem State.retested_spec (s : State) (k : Nat) {c : Nat} (hc : c < 9) :
    SparingOnly s (s.retested k c) ∧ ((s.retested k c).spareReg k).getLsbD (4 + c) = false ∧ (s.retested k c).spare k = c := by
  let r := s.setRetired k c false
  let x := r.setSuspect k c false
  have hr : (r.spareReg k).getLsbD (4 + c) = false := (s.spareReg_setMark k false (by omega)).trans (if_pos rfl)
  have hx : (x.spareReg k).getLsbD (4 + c) = false := ((r.spareReg_setMark k false (by omega)).trans (if_neg (by omega))).trans hr
  exact ⟨((SparingOnly.setSpare s k _).trans (.setSpare r k _)).trans (.setSpare x k _),
    (x.spareReg_setSpareIdx k c (by omega) (by omega)).trans hx, x.spare_setSpareIdx (by omega)⟩

/-- A retired core that passes becomes the missing spare (R291). -/
theorem State.spRetest_passes {c : Nat} (h : (s.clu k).sparing = []) (hc : c < 9) (hr : (s.spareReg k).getLsbD (4 + c) = true)
    (hs : 9 ≤ s.spare k) :
    s.spRetest k c true = (s.retested k c).spStatus k 0 := by
  rw [State.spRetest, State.spBusy_idle h]
  rw [hr, decide_eq_true hc]
  exact if_neg (Nat.not_lt.2 hs)

theorem State.chkinjWrite_checked (h : s.checked (cluOf p) = true) (v : BitVec 3) :
    s.chkinjWrite p v = s.modProc p fun q => { q with inj := q.inj ||| v } := by
  unfold State.chkinjWrite
  dsimp only
  rw [if_pos h]

/-- PAR arms in either mode (R294). -/
theorem State.chkinjWrite_par (s : State) (p : BitVec 6) : s.chkinjWrite p 4 = s.modProc p fun q => { q with inj := q.inj ||| 4 } := by
  have h : (if s.checked (cluOf p) then (4 : BitVec 3) else 4 &&& 4) = 4 := ite_self _
  unfold State.chkinjWrite
  dsimp only
  rw [h]

end

/-- Settles O21: a self-test is `State.selfTest_leader`, a checker-path fault `State.pathFault_spec`, both moves are `State.moveCore_spec`; a
retest writes CLU[k]_SPARE, and an injection is `State.chkinjWrite`. -/
theorem pairsAndSparing : Obligations.PairsAndSparing := by
  unfold Obligations.PairsAndSparing
  refine ⟨fun s k t rest h hbg hk hs => ?_, fun s k t ht hc h9 hfirst => ?_, fun s p hcpf hc hq hs => ?_,
    fun s a k slot ha h => ⟨fun hs => ?_, fun hs hslot hc hp => ?_⟩, fun s a k c ha h hc hr => ⟨?_, fun hs => ?_⟩, fun s p hh => ⟨?_, fun hc => ⟨?_, ?_⟩⟩⟩
  · exact ⟨_, rfl, State.selfTest_leader h hbg hk hs⟩
  · intro p hp
    have hcore : (BitVec.ofNat 4 (mapAt (s.map k.toNat) (t + 4))).toNat = mapAt (s.map k.toNat) (t + 4) :=
      Nat.mod_eq_of_lt (mapAt_lt _ _)
    obtain ⟨honly, hdev⟩ := State.pathFault_spec ht hc h9 hfirst hp
    have hbad := SparingOnly.setSpare s k.toNat (setBit (s.spareReg k.toNat) (13 + mapAt (s.map k.toNat) (t + 4)) true)
    rw [exec_checkerPathFault, execCheckerPathFault, hcore]
    refine ⟨_, rfl, ?_⟩
    rw [honly.proc, State.proc_modProc, State.setChkBad, hbad.proc, honly.ms, State.chkBad, hdev.spareReg]
    refine ⟨rfl, Proc.setUnchk_unchk (s.proc p) true true, ?_, rfl, rfl, hbad.ms⟩
    exact (s.spareReg_setMark k.toNat true (by omega)).trans (if_pos rfl)
  · have hslot := slotOf_lt p
    obtain ⟨hmap, hms, hg, hip, hmarks⟩ := s.moveCore_spec p (t := slotOf p + 4) (by omega) hs
    obtain ⟨hcpf', hunchk⟩ := hmarks hc (by omega)
    rw [exec_quietPointCheckerMove, execQuietPointCheckerMove, hcpf, hc, hq, decide_eq_true hs]
    exact ⟨_, rfl, hcpf', hunchk, hmap, hg, hip, hms⟩
  · rw [exec_spctlMove, execSpctlMove, State.onWrite_reach ha, State.spMove_noSpare h hs]
  · have hk : cluOf (BitVec.ofNat 6 (8 * k.toNat + slot.toNat)) = k.toNat := cluOf_ofNat k.isLt slot.isLt
    have hmove := s.moveCore_spec (BitVec.ofNat 6 (8 * k.toNat + slot.toNat)) (t := slot.toNat) (by omega) (by rwa [hk])
    rw [hk] at hmove
    obtain ⟨hmap, hms, -⟩ := hmove
    rw [exec_spctlMove, execSpctlMove, State.onWrite_reach ha, State.spMove_split h hs hslot hc hp]
    refine ⟨_, rfl, ?_, State.spStatus_status _ _ _, hms⟩
    rw [State.spStatus_map, hmap]
  · rw [exec_spctlRetest, execSpctlRetest, State.onWrite_reach ha, State.spRetest_fails h hc hr]
  · obtain ⟨honly, hbit, hspare⟩ := s.retested_spec k.toNat hc
    rw [exec_spctlRetest, execSpctlRetest, State.onWrite_reach ha, State.spRetest_passes h hc hr hs]
    refine ⟨_, rfl, ?_, ?_, honly.procs, honly.ms⟩
    · rw [State.spStatus_spareReg, hbit]
    · rw [State.spare, State.spStatus_spareReg]
      exact hspare
  · rw [exec_chkinjPar, execChkinjPar, if_pos hh, State.chkinjWrite_par]
  · rw [exec_chkinjMism, execChkinjMism, if_pos hh, State.chkinjWrite_checked hc]
  · rw [exec_chkinjCpf, execChkinjCpf, if_pos hh, State.chkinjWrite_checked hc]

end Sys2Proof.Machine

namespace Sys2Proof.Machine

open Sys2Proof

/-! Ring pairs and signals (R304, R311, R327, R475): what one ring pair's change leaves of the others, and what events, interrupt lines and
vectors leave of the rest. -/

@[simp] theorem State.rp_modRp (s : State) (q : Nat) (f : RP → RP) : (s.modRp q f).rp q = f (s.rp q) := spGetD_spPut_same _ _ _ _

theorem State.rp_modRp_ne (s : State) {q j : Nat} (f : RP → RP) (h : j ≠ q) : (s.modRp q f).rp j = s.rp j := spGetD_spPut_ne _ _ _ h

/-- Of the ring pairs only q differs; in `u` it is `r`. -/
structure RingNow (s u : State) (q : Nat) (r : RP) : Prop where
  rp : u.rp q = r
  others : ∀ j, j ≠ q → u.rp j = s.rp j

namespace RingNow

variable {s t u : State} {q : Nat} {r r' : RP}

theorem refl (s : State) (q : Nat) : RingNow s s q (s.rp q) := ⟨rfl, fun _ _ => rfl⟩

theorem trans (h : RingNow s t q r) (g : RingNow t u q r') : RingNow s u q r' :=
  ⟨g.rp, fun j hj => (g.others j hj).trans (h.others j hj)⟩

theorem modRp (s : State) (q : Nat) (f : RP → RP) : RingNow s (s.modRp q f) q (f (s.rp q)) :=
  ⟨s.rp_modRp q f, fun _ hj => s.rp_modRp_ne f hj⟩

theorem of_rps (h : RingNow s t q r) (e : u.rps = t.rps) : RingNow s u q r where
  rp := (congrArg (fun m => spGetD ({} : RP) m q) e).trans h.rp
  others j hj := (congrArg (fun m => spGetD ({} : RP) m j) e).trans (h.others j hj)

theorem modRp_of_rps (e : t.rps = s.rps) (f : RP → RP) : RingNow s (t.modRp q f) q (f (s.rp q)) := by
  have h := (refl s q).of_rps e
  rw [← h.rp]
  exact h.trans (modRp t q f)

end RingNow

/-- Between `s` and `u` there are only events, interrupt lines, vectors and bits of EVT (R303, R327, R475, R489). -/
structure Signals (s u : State) : Prop where
  only : EventOnly s u
  cxl : u.cxl = { s.cxl with pend := u.cxl.pend }
  rg : ∀ a d, OffLine a → a ≠ aCxl 0x18 → u.rg a d = s.rg a d

namespace Signals

theorem refl (s : State) : Signals s s := ⟨rfl, rfl, fun _ _ _ _ => rfl⟩

theorem trans {s t u : State} (h : Signals s t) (g : Signals t u) : Signals s u where
  only := h.only.trans g.only
  cxl := by rw [g.cxl, h.cxl]
  rg a d ha hn := (g.rg a d ha hn).trans (h.rg a d ha hn)

theorem raise (s : State) (a : Nat) : Signals s (s.raise a) where
  only := EventOnly.raise s a
  cxl := by rw [DevOnly.raise s a]
  rg _ d ha _ := State.rg_raise s a d ha

theorem msix (s : State) (fn vec : Nat) : Signals s (s.msix fn vec) where
  only := EventOnly.msix s fn vec
  cxl := by unfold State.msix; dsimp only; split <;> rfl
  rg a d _ _ := State.rg_msix s fn vec a d

theorem raiseFlt (s : State) : Signals s s.raiseFlt := by
  unfold State.raiseFlt
  dsimp only
  split
  · exact (raise s _).trans (msix ..)
  · exact raise s _

theorem setFe (s : State) (b : Nat) (f : Fe) : Signals s (s.setFe b f) := ⟨rfl, rfl, fun _ _ _ _ => rfl⟩

theorem capture (s : State) (e : Ev) : Signals s (s.capture e) := by
  unfold State.capture
  split
  · exact refl s
  · split
    · exact refl s
    · dsimp only
      split
      · split
        · exact (setFe s ..).trans (raiseFlt _)
        · exact setFe s ..
      · exact setFe s ..

theorem pewter (s : State) (e : Ev) : Signals s (s.pewter e) := by
  unfold State.pewter
  dsimp only
  split
  · exact ⟨rfl, rfl, fun _ _ _ _ => rfl⟩
  · exact ⟨rfl, rfl, fun _ _ _ _ => rfl⟩

theorem event (s : State) (e : Ev) : Signals s (s.event e) := (capture s e).trans (pewter _ e)

theorem setEvt (s : State) (v : Word) : Signals s (s.sg (aCxl 0x18) v) where
  only := EventOnly.sg s ..
  cxl := rfl
  rg _ d _ hn := State.rg_sg_ne s v 0 d hn

theorem cxlEvt (s : State) (i : Nat) : Signals s (s.cxlEvt i) := (setEvt s _).trans (raise _ _)

theorem ringVec (s : State) (q vec : Nat) : Signals s (s.ringVec q vec) := by
  unfold State.ringVec
  split
  · exact msix ..
  · exact refl s

theorem foldl {α : Type} (f : State → α → State) (h : ∀ s a, Signals s (f s a)) (xs : List α) (s : State) : Signals s (xs.foldl f s) := by
  induction xs generalizing s with
  | nil => exact refl s
  | cons x xs ih => exact (h s x).trans (ih _)

variable {s t u : State} {q : Nat} {r : RP}

/-- What signals leave alone of the state. -/
theorem frame (h : Signals s u) : u.rps = s.rps ∧ u.ms = s.ms ∧ u.procs = s.procs ∧ u.bisnp = s.bisnp := by
  rw [h.only]
  exact ⟨rfl, rfl, rfl, rfl⟩

theorem ringNow (h : Signals t u) (g : RingNow s t q r) : RingNow s u q r := g.of_rps h.frame.1

theorem mstat (h : Signals s u) (i : Nat) : u.mstat i = s.mstat i :=
  congrArg (·.getLsbD i) (h.rg (aCxl 8) 0 (.high (by decide)) (by decide))

/-- A ring pair's change with the signals it causes. -/
theorem ringOnly {f : RP → RP} (h : Signals (s.modRp q f) u) : EventOnly { s with rps := u.rps } u := by
  have hu := h.only
  unfold EventOnly at hu ⊢
  rw [hu]
  rfl

end Signals

/-! Ring errors (R312). -/

/-- A ring pair after ring error `c` (R312): the first error's code stays, errors 1 and 2 stop fetching, 4 stops posting. -/
def RP.failed (r : RP) (c : Nat) : RP :=
  { r with code := if r.err then r.code else BitVec.ofNat 4 c, err := true,
           stopF := r.stopF || decide (c = 1) || decide (c = 2), stopP := r.stopP || decide (c = 4) }

theorem State.ringError_signals (s : State) (q c : Nat) (idx : BitVec 32) : Signals (s.modRp q fun r => r.failed c) (s.ringError q c idx) := by
  unfold State.ringError
  dsimp only
  split
  · exact ((Signals.ringVec ..).trans (.cxlEvt ..)).trans (.event ..)
  · exact ((Signals.ringVec ..).trans (.cxlEvt ..)).trans (.event ..)

/-- A ring error is told of, and marks its ring pair alone (R312). -/
theorem State.ringError_spec (s : State) (q c : Nat) (idx : BitVec 32) :
    EventOnly { s with rps := (s.ringError q c idx).rps } (s.ringError q c idx) ∧ RingNow s (s.ringError q c idx) q ((s.rp q).failed c) :=
  have h := s.ringError_signals q c idx
  ⟨h.ringOnly, h.ringNow (.modRp ..)⟩

/-! Ring records (R342, R348). -/

/-- Between `s` and `u` only ring pairs, captures and what the mirror has under way differ. -/
def RecordOnly (s u : State) : Prop := u = { s with fe := u.fe, rps := u.rps, mirTag := u.mirTag, mirw := u.mirw, fabq := u.fabq }

theorem RecordOnly.frame {s u : State} (h : RecordOnly s u) : u.led = s.led ∧ u.ms = s.ms ∧ u.procs = s.procs ∧ u.dev = s.dev := by
  rw [h]
  exact ⟨rfl, rfl, rfl, rfl⟩

theorem State.mirSend_eq (s : State) (ring : Bool) (key : Nat) (sync : Bool) :
    s.mirSend ring key sync = { s with mirTag := (s.mirSend ring key sync).mirTag, mirw := (s.mirSend ring key sync).mirw,
                                       fabq := (s.mirSend ring key sync).fabq } := rfl

/-- Writing a ring record marks whether it is bad, and changes no other ring pair (R342, R347, R348). -/
theorem State.ringWrite_spec (s : State) (q : Nat) :
    RecordOnly s (s.ringWrite q) ∧ RingNow s (s.ringWrite q) q { s.rp q with bad := s.tungInj.1 } := by
  have hrec : RecordOnly s s.tungInj.2 := by
    unfold RecordOnly
    rw [s.tungInj_eq]
  have hnow : RingNow s (s.tungInj.2.modRp q fun r => { r with bad := s.tungInj.1 }) q { s.rp q with bad := s.tungInj.1 } :=
    .modRp_of_rps (by rw [s.tungInj_eq]) _
  unfold State.ringWrite
  dsimp only
  split
  · refine ⟨?_, hnow.of_rps rfl⟩
    unfold RecordOnly at hrec ⊢
    rw [State.mirSend_eq, hrec]
    rfl
  · refine ⟨?_, hnow⟩
    unfold RecordOnly at hrec ⊢
    rw [hrec]
    rfl

theorem RingNow.ringWrite {s t : State} {q : Nat} {r : RP} (h : RingNow s t q r) : RingNow s (t.ringWrite q) q { r with bad := t.tungInj.1 } := by
  rw [← h.rp]
  exact h.trans (t.ringWrite_spec q).2

theorem State.ringWrite_frame (s : State) (q : Nat) :
    (s.ringWrite q).led = s.led ∧ (s.ringWrite q).ms = s.ms ∧ (s.ringWrite q).procs = s.procs ∧ (s.ringWrite q).dev = s.dev :=
  (s.ringWrite_spec q).1.frame

end Sys2Proof.Machine

namespace Sys2Proof.Machine

open Sys2Proof

/-! Doorbells (R300, R302, R306, R310). -/

section
variable {s : State} {q : Nat} {v : BitVec 32}

theorem State.onPage_some {fn : BitVec 6} {page : BitVec 10} (h : s.pageRing fn.toNat page.toNat = some q) (f : State → Nat → State) :
    s.onPage fn page f = .next (f s q) := by
  rw [State.onPage, h]

theorem State.onPage_none {fn : BitVec 6} {page : BitVec 10} (h : s.pageRing fn.toNat page.toNat = none) (f : State → Nat → State) :
    s.onPage fn page f = .next s := by
  rw [State.onPage, h]

/-- SQPI takes a value within the ring (R306). -/
theorem State.sqpiSet_taken (hen : s.rpEn q = true) (hheld : (s.rp q).held = 0) (herr : (s.rp q).err = false)
    (hv : (v - (s.rp q).sqpi).toNat ≤ ((s.rp q).sqfp + BitVec.ofNat 32 (ringSize (s.sqb q)) - (s.rp q).sqpi).toNat) (hra : raSize (s.ra q) ≠ 0) :
    s.sqpiSet q v = s.modRp q fun r => { r with sqpi := v, stopF := r.stopF && r.err, ftick := s.ticks } := by
  unfold State.sqpiSet
  dsimp only
  rw [if_neg (by simp [hen, hheld, herr]), if_pos hv]
  exact if_neg fun h => hra h.2

/-- A value beyond the ring is ring error 1 (R306, R312). -/
theorem State.sqpiSet_beyond (hen : s.rpEn q = true) (hheld : (s.rp q).held = 0) (herr : (s.rp q).err = false)
    (hv : ((s.rp q).sqfp + BitVec.ofNat 32 (ringSize (s.sqb q)) - (s.rp q).sqpi).toNat < (v - (s.rp q).sqpi).toNat) :
    s.sqpiSet q v = s.ringError q 1 v := by
  unfold State.sqpiSet
  dsimp only
  rw [if_neg (by simp [hen, hheld, herr]), if_neg (Nat.not_le.2 hv)]

/-- CQCI takes a value up to CQPI, which ends HELD of resume, attach and detach (R310). -/
theorem State.cqciSet_taken (h1 : (s.rp q).held.getLsbD 1 = false) (h2 : (s.rp q).held.getLsbD 2 = false)
    (hv : (v - (s.rp q).cqci).toNat ≤ ((s.rp q).cqpi - (s.rp q).cqci).toNat) :
    s.cqciSet q v = (s.modRp q fun r => { r with cqci := v, held := setBit r.held 0 false }).ringWrite q := by
  unfold State.cqciSet
  dsimp only
  rw [if_neg (by rw [h1, h2]; exact Bool.false_ne_true), if_pos hv]

/-- A value beyond CQPI is ring error 3 (R310, R312). -/
theorem State.cqciSet_beyond (h1 : (s.rp q).held.getLsbD 1 = false) (h2 : (s.rp q).held.getLsbD 2 = false)
    (hv : ((s.rp q).cqpi - (s.rp q).cqci).toNat < (v - (s.rp q).cqci).toNat) : s.cqciSet q v = s.ringError q 3 v := by
  unfold State.cqciSet
  dsimp only
  rw [if_neg (by rw [h1, h2]; exact Bool.false_ne_true), if_neg (Nat.not_le.2 hv)]

end

/-! Descriptor fetches (R307, R312). -/

/-- The 64 bytes of a host line. -/
def slotBytes (data : List Byte) : List Byte := (List.range 64).map fun i => data.getD i 0

/-- A slot that may be fetched is awaited: its ring pair fetches, SQPI covers it, its data has not come, and the device cache lacks its line. -/
structure Awaited (s : State) (q : Nat) (idx : BitVec 32) : Prop where
  fetch : s.mayFetch q = true
  covered : (s.rp q).covered idx = true
  new : ((s.rp q).got.any fun x => x.1 = idx) = false
  miss : (s.cxl.dcache.any fun x => x.1 = s.slotLine q idx) = false

section
variable {s : State} {q : Nat} {idx : BitVec 32}

theorem Awaited.fetched (h : Awaited s q idx) (data : List Byte) (pois : Bool) :
    s.fetched q idx data pois = if pois then s.ringError q 2 idx
      else (s.dcFill (s.slotLine q idx) (slotBytes data)).modRp q fun r => { r with got := r.got ++ [(idx, slotBytes data)], ftick := s.ticks } := by
  obtain ⟨hfetch, hcov, hnew, hmiss⟩ := h
  have hfind : (s.cxl.dcache.find? fun x => decide (x.1 = s.slotLine q idx)) = none :=
    List.find?_eq_none.2 fun x hx => by simpa using List.any_eq_false.1 hmiss x hx
  unfold State.fetched
  simp only [hfetch, hcov, hnew, hmiss, hfind, Bool.not_true, Bool.or_self, Bool.false_eq_true, if_false]
  rfl

/-- The lowest slot awaited for 2 µs is ring error 2 (R312). -/
theorem State.fetchLate_due {i : Nat} (hfind : ((List.range 32).find? fun i => (s.rp q).covered ((s.rp q).sqfp + BitVec.ofNat 32 i) &&
    !((s.rp q).got.any fun x => decide (x.1 = (s.rp q).sqfp + BitVec.ofNat 32 i))) = some i) (hfetch : s.mayFetch q = true)
    (ht : (s.rp q).ftick + 50 ≤ s.ticks) : s.fetchLate q = s.ringError q 2 ((s.rp q).sqfp + BitVec.ofNat 32 i) := by
  unfold State.fetchLate
  dsimp only
  rw [hfind]
  exact if_pos ⟨hfetch, ht⟩

theorem State.fetchLate_early (ht : s.ticks < (s.rp q).ftick + 50) : s.fetchLate q = s := by
  unfold State.fetchLate
  dsimp only
  split
  · exact if_neg fun h => Nat.not_le.2 ht h.2
  · rfl

end

/-! Ring pairs enabled and disabled (R304, R342). -/

theorem fld_setBit_ne {n : Nat} (v : BitVec n) (i : Nat) (b : Bool) (hi lo : Nat) (h : hi < n) (d : hi < i ∨ i < lo) :
    fld (setBit v i b) hi lo = fld v hi lo := fld_setFld_ne v i i _ hi lo h d

/-- CXL_RP[q]_SQB once `v` has enabled its ring pair. -/
def sqbOn (old v : Word) : Word := setBit (setFld (setFld old 39 0 (fld v 39 0)) 43 40 (fld v 43 40)) 44 true

theorem sqbOn_en (old v : Word) : (sqbOn old v).getLsbD 44 = true := by
  rw [sqbOn, getLsbD_setBit _ _ _ _ (by decide), if_pos rfl]

theorem sqbOn_base (old v : Word) : fld (sqbOn old v) 39 0 = fld v 39 0 := by
  rw [sqbOn, fld_setBit_ne _ _ _ _ _ (by decide) (by decide), fld_setFld_ne _ _ _ _ _ _ (by decide) (by decide),
    fld_setFld_same _ _ _ _ (by decide)]
  exact Nat.mod_eq_of_lt (fld_lt ..)

theorem sqbOn_size (old v : Word) : ringSize (sqbOn old v) = 64 * 2 ^ fld v 43 40 := by
  rw [ringSize, sqbOn, fld_setBit_ne _ _ _ _ _ (by decide) (by decide), fld_setFld_same _ _ _ _ (by decide)]
  exact congrArg (64 * 2 ^ ·) (Nat.mod_eq_of_lt (fld_lt ..))

/-- A ring pair right after its enable: only the interrupt register, the sequence numbers and HELD of freeze and containment stay (R342). -/
def RP.enabled (r : RP) : RP := { irq := r.irq, nextSeq := r.nextSeq, enSeq := r.nextSeq, sqfpEn := 0, held := r.held &&& 6 }

section
variable {s : State} {q : Nat} {v : Word}

theorem State.sqbSet_enables (hen : s.rpEn q = false) (hw : s.reptWaits q = false) (hv : v.getLsbD 44 = true) (hsize : fld v 43 40 ≤ 10) :
    s.sqbSet q v = ((s.sg (aCxl (0x10000 + 16 * q)) (sqbOn (s.sqb q) v)).modRp q fun r => r.enabled).ringWrite q := by
  unfold State.sqbSet
  dsimp only
  rw [State.rpEn] at hen
  rw [if_neg (ne_true_of_eq_false hen), if_pos hsize, if_pos (by simp [hv, hw])]
  rfl

theorem State.sqbSet_disables (hen : s.rpEn q = true) (hv : v.getLsbD 44 = false) (ho : s.unretired q = false) :
    s.sqbSet q v = (s.sg (aCxl (0x10000 + 16 * q)) (setBit (s.sqb q) 44 false)).ringWrite q := by
  unfold State.sqbSet
  dsimp only
  rw [State.rpEn] at hen
  rw [if_pos hen, if_neg (by rw [hv, ho]; exact Bool.false_ne_true)]

theorem State.sqbSet_keeps (hen : s.rpEn q = true) (ho : s.unretired q = true) : s.sqbSet q v = s := by
  unfold State.sqbSet
  dsimp only
  rw [State.rpEn] at hen
  rw [if_pos hen, if_pos (by simp [ho])]

theorem State.onRing_pf {q : BitVec 10} (h : s.viaReach .pf (aCxl (0x10000 + 16 * q.toNat)) = true) (f : State → State) :
    s.onRing .pf q f = .next (f s) := by
  rw [State.onRing, if_pos ⟨rfl, h⟩]

theorem State.sqb_sg (s : State) (q : Nat) (w : Word) : (s.sg (aCxl (0x10000 + 16 * q)) w).sqb q = w := State.rg_sg_same s _ w 0

theorem State.sqb_ringWrite (s : State) (q j : Nat) : (s.ringWrite q).sqb j = s.sqb j := by
  obtain ⟨-, -, -, hdev⟩ := s.ringWrite_frame q
  exact congrArg (fun m => spGetD (0 : Word) m (aCxl (0x10000 + 16 * j))) hdev

end

/-- Settles O35: a doorbell is `State.sqpiSet` or `State.cqciSet`, a slot's arrival `Awaited.fetched`, a late one `State.fetchLate`, an enable or
disable `State.sqbSet`; each error is `State.ringError_spec`. -/
theorem ringDoorbellsAndFetches : Obligations.RingDoorbellsAndFetches := by
  unfold Obligations.RingDoorbellsAndFetches
  intro s q r others
  refine ⟨fun fn page v => ⟨fun hp => ?_, fun hp => ⟨fun hen hheld herr => ⟨fun hv hra => ?_, fun hv => ?_⟩,
      fun h1 h2 => ⟨fun hv => ?_, fun hv => ?_⟩⟩⟩,
    fun idx data hfetch hcov hnew hmiss => ?_, fun i hfind hfetch => ⟨fun ht => ?_, fun ht => ?_⟩,
    fun v hreach => ⟨fun hen hw hsize => ?_, fun hen => ⟨fun ho => ?_, fun ho => ?_⟩⟩⟩
  · rw [exec_sqpi, exec_cqci, execSqpi, execCqci, State.onPage_none hp, State.onPage_none hp]
    exact ⟨rfl, rfl⟩
  · rw [exec_sqpi, execSqpi, State.onPage_some hp, State.sqpiSet_taken hen hheld herr hv hra]
    have h := RingNow.modRp s q.toNat fun r => { r with sqpi := v, stopF := r.stopF && r.err, ftick := s.ticks }
    exact ⟨_, rfl, rfl, (congrArg RP.sqpi h.rp :), (congrArg RP.sqfp h.rp :), h.others⟩
  · rw [exec_sqpi, execSqpi, State.onPage_some hp, State.sqpiSet_beyond hen hheld herr hv]
    obtain ⟨hev, hnow⟩ := s.ringError_spec q.toNat 1 v
    refine ⟨_, rfl, hev, ?_, ?_, ?_, ?_, hnow.others⟩
    · rw [hnow.rp]; rfl
    · rw [hnow.rp]; rfl
    · rw [hnow.rp, RP.failed, herr]; rfl
    · rw [hnow.rp, RP.failed]; simp
  · rw [exec_cqci, execCqci, State.onPage_some hp, State.cqciSet_taken h1 h2 hv]
    have hnow := (RingNow.modRp s q.toNat fun r => { r with cqci := v, held := setBit r.held 0 false }).ringWrite
    obtain ⟨hled, hms, hprocs, -⟩ := State.ringWrite_frame (s.modRp q.toNat fun r => { r with cqci := v, held := setBit r.held 0 false }) q.toNat
    refine ⟨_, rfl, (congrArg RP.cqci hnow.rp :), ?_, (congrArg RP.cqpi hnow.rp :), hnow.others, hled, hms, hprocs⟩
    rw [hnow.rp]
    exact getLsbD_setBit _ 0 false 0 (by decide)
  · rw [exec_cqci, execCqci, State.onPage_some hp, State.cqciSet_beyond h1 h2 hv]
    obtain ⟨hev, hnow⟩ := s.ringError_spec q.toNat 3 v
    exact ⟨_, rfl, hev, (congrArg RP.cqci hnow.rp :), (congrArg RP.err hnow.rp :), hnow.others⟩
  · have hawait : Awaited s q.toNat idx := ⟨hfetch, hcov, hnew, hmiss⟩
    rw [exec_descriptorFetchComplete, exec_descriptorFetchComplete, execDescriptorFetchComplete, execDescriptorFetchComplete, hawait.fetched,
      hawait.fetched, if_neg Bool.false_ne_true, if_pos rfl]
    constructor
    · have h := RingNow.modRp (s.dcFill (s.slotLine q.toNat idx) (slotBytes data)) q.toNat
        fun r => { r with got := r.got ++ [(idx, slotBytes data)], ftick := s.ticks }
      exact ⟨_, rfl, rfl, (congrArg RP.got h.rp :), List.mem_append_right _ (List.mem_singleton.2 rfl), h.others⟩
    · obtain ⟨hev, hnow⟩ := s.ringError_spec q.toNat 2 idx
      refine ⟨_, rfl, hev, (congrArg RP.got hnow.rp :), (congrArg RP.err hnow.rp :), ?_, hnow.others⟩
      rw [hnow.rp, RP.failed]
      simp
  · rw [exec_descriptorFetchTimeout, execDescriptorFetchTimeout, State.fetchLate_due hfind hfetch ht]
    obtain ⟨hev, hnow⟩ := s.ringError_spec q.toNat 2 (r.sqfp + BitVec.ofNat 32 i)
    refine ⟨_, rfl, hev, (congrArg RP.err hnow.rp :), ?_, hnow.others⟩
    rw [hnow.rp, RP.failed]
    simp
  · rw [exec_descriptorFetchTimeout, execDescriptorFetchTimeout, State.fetchLate_early ht]
  · rw [exec_ringPairEnable, execRingPairEnable, State.onRing_pf hreach]
    have hbit : (setBit v 44 true).getLsbD 44 = true := getLsbD_setBit _ _ _ _ (by decide)
    have hfield : fld (setBit v 44 true) 43 40 = fld v 43 40 := fld_setBit_ne _ _ _ _ _ (by decide) (by decide)
    rw [State.sqbSet_enables hen hw hbit (hfield.trans_le hsize)]
    have hnow := (RingNow.modRp_of_rps (s := s) (t := s.sg (aCxl (0x10000 + 16 * q.toNat)) (sqbOn (s.sqb q.toNat) (setBit v 44 true))) (q := q.toNat)
      rfl RP.enabled).ringWrite
    have hsqb := (State.sqb_ringWrite ((s.sg (aCxl (0x10000 + 16 * q.toNat)) (sqbOn (s.sqb q.toNat) (setBit v 44 true))).modRp q.toNat RP.enabled)
      q.toNat q.toNat).trans (State.sqb_sg s _ _)
    refine ⟨_, rfl, ?_, ?_, ?_, (congrArg RP.sqpi hnow.rp :), (congrArg RP.cqpi hnow.rp :), (congrArg RP.cqci hnow.rp :), (congrArg RP.err hnow.rp :),
      (congrArg RP.enSeq hnow.rp :), hnow.others, (State.ringWrite_frame _ _).1⟩
    · rw [State.rpEn, hsqb, sqbOn_en]
    · rw [hsqb, sqbOn_base, fld_setBit_ne _ _ _ _ _ (by decide) (by decide)]
    · rw [hsqb, sqbOn_size, hfield]
  · rw [exec_ringPairDisable, execRingPairDisable, State.onRing_pf hreach,
      State.sqbSet_disables hen (getLsbD_setBit _ _ _ _ (by decide)) ho]
    have hnow := ((RingNow.refl s q.toNat).of_rps (u := s.sg (aCxl (0x10000 + 16 * q.toNat)) (setBit (s.sqb q.toNat) 44 false)) rfl).ringWrite
    refine ⟨_, rfl, ?_, hnow.others, (State.ringWrite_frame _ _).1⟩
    rw [State.rpEn, State.sqb_ringWrite, State.sqb_sg]
    exact getLsbD_setBit _ 44 false 44 (by decide)
  · rw [exec_ringPairDisable, execRingPairDisable, State.onRing_pf hreach, State.sqbSet_keeps hen ho]

end Sys2Proof.Machine

namespace Sys2Proof.Machine

open Sys2Proof

/-! Completions (R308, R309, R311, R312, R337). -/

section
variable {s : State} {q : Nat}

/-- A vector of a ring's owner is sent or stays pending (R303). -/
theorem State.ringVec_eq (s : State) (q vec : Nat) :
    s.ringVec q vec = { s with outbox := (s.ringVec q vec).outbox, cxl := (s.ringVec q vec).cxl } := by
  unfold State.ringVec
  split
  · unfold State.msix
    dsimp only
    split
    · rfl
    · rfl
  · rfl

/-- Completion `e` of index CQPI is written when nothing is being written and the ring has room. -/
theorem State.compWrite_posts {n : Nat} {e : LEnt} (hp : s.mayPost q = true) (hw : (s.rp q).wrs = [])
    (hroom : ((s.rp q).cqpi - (s.rp q).cqci).toNat < ringSize (s.cqb q))
    (hfind : ((s.entsOf q).find? fun x => x.2.st = .done ∧ x.2.cidx = (s.rp q).cqpi ∧ (s.rp q).enSeq ≤ x.1 ∧ x.2.wait = false) = some (n, e)) :
    s.compWrite q = (s.modRp q fun r => { r with wrs := r.wrs ++ [{ idx := (s.rp q).cqpi, tick := s.ticks, go := false }] }).out
      (.hostWrite (fld (s.cqb q) 39 0 * 4096 + 64 * ((s.rp q).cqpi.toNat % ringSize (s.cqb q)))
        (phased e.comp (s.rp q).cqpi (ringSize (s.cqb q)))) := by
  have hidx : (s.rp q).nextWrite (s.rp q).wrs.length (s.rp q).cqpi = (s.rp q).cqpi := by
    rw [hw]
    rfl
  unfold State.compWrite
  simp only [hidx, hp, hfind, Bool.not_true, Bool.false_or, decide_eq_true_eq, if_neg (Nat.not_le.2 hroom)]

/-- The completion interrupt is signalled when the count threshold is reached (R311). -/
theorem State.compSignal_due (hen : (s.rp q).irq.getLsbD 11 = true) (hvec : fld (s.rp q).irq 10 0 ≠ 0) (hvis : (s.rp q).visN ≠ 0)
    (hcount : max 1 (fld (s.rp q).irq 19 12) ≤ (s.rp q).visN) :
    s.compSignal q = (s.modRp q fun r => { r with visN := 0 }).ringVec q (fld (s.rp q).irq 10 0) :=
  if_pos ⟨hen, hvec, hvis, .inl hcount⟩

/-- A signal starts the count of visible completions again, and that is all it does to the ring pairs (R311). -/
theorem State.compSignal_spec (s : State) (q : Nat) :
    ∃ n, RingNow s (s.compSignal q) q { s.rp q with visN := n } ∧ EventOnly { s with rps := (s.compSignal q).rps } (s.compSignal q) := by
  unfold State.compSignal
  dsimp only
  split
  · have hsig := Signals.ringVec (s.modRp q fun r => { r with visN := 0 }) q (fld (s.rp q).irq 10 0)
    exact ⟨0, hsig.ringNow (.modRp ..), hsig.ringOnly⟩
  · exact ⟨(s.rp q).visN, .refl s q, rfl⟩

/-- A ring pair whose CQPI takes a value at a tick (R308): the completions that it passes become visible. -/
def RP.passed (r : RP) (v : BitVec 32) (now : Nat) : RP :=
  { r with cqpi := v, cqpiW := none, visT := if r.visN = 0 then now else r.visT, visN := r.visN + (v - r.cqpi).toNat,
           wrs := r.wrs.filter fun w => !idxBefore w.idx v }

theorem State.cqpiTo_eq (s : State) (q : Nat) (v : BitVec 32) : s.cqpiTo q v = (s.modRp q fun r => r.passed v s.ticks).compSignal q := rfl

/-- CQPI takes a value; CQCI and the other ring pairs stay (R308). -/
theorem State.cqpiTo_spec (s : State) (q : Nat) (v : BitVec 32) :
    (∃ r, RingNow s (s.cqpiTo q v) q r ∧ r.cqpi = v ∧ r.cqci = (s.rp q).cqci) ∧
      (s.cqpiTo q v).led = s.led ∧ (s.cqpiTo q v).ms = s.ms ∧ (s.cqpiTo q v).procs = s.procs := by
  rw [State.cqpiTo_eq]
  obtain ⟨n, hnow, hev⟩ := State.compSignal_spec (s.modRp q fun r => r.passed v s.ticks) q
  rw [State.rp_modRp] at hnow
  refine ⟨⟨_, (RingNow.modRp s q _).trans hnow, rfl, rfl⟩, ?_⟩
  rw [hev]
  exact ⟨rfl, rfl, rfl⟩

/-- With GO for the write at CQPI, the only one, CQPI moves past it (R308). -/
theorem State.cqpiAdvance_next {w : CWr} (hw : (s.rp q).wrs = [w]) (hgo : w.go = true) (hi : w.idx = (s.rp q).cqpi) (hm : s.mirSync = false) :
    s.cqpiAdvance q = (s.cqpiTo q ((s.rp q).cqpi + 1)).ringWrite q := by
  have hto : (s.rp q).goTo (s.rp q).wrs.length (s.rp q).cqpi = (s.rp q).cqpi + 1 := by
    have hlen : (s.rp q).wrs.length = 1 := congrArg List.length hw
    rw [hlen]
    exact if_pos (by rw [hw]; simp [hgo, hi])
  unfold State.cqpiAdvance
  dsimp only
  rw [hto, if_neg (by bv_omega), if_neg (ne_true_of_eq_false hm)]

/-- A write of a ring pair that has its GO (R308). -/
def RP.goes (r : RP) (idx : BitVec 32) : RP := { r with wrs := r.wrs.map fun w => if w.idx = idx then { w with go := true } else w }

theorem State.compGo_next {w : CWr} (hw : (s.rp q).wrs = [w]) (hgo : w.go = false) (hi : w.idx = (s.rp q).cqpi) (hm : s.mirSync = false) :
    s.compGo q w.idx = ((s.modRp q fun r => r.goes w.idx).cqpiTo q ((s.rp q).cqpi + 1)).ringWrite q := by
  have hrp : (s.modRp q fun r => r.goes w.idx).rp q = { s.rp q with wrs := [{ w with go := true }] } := by
    rw [State.rp_modRp, RP.goes, hw]
    simp
  have hnext := State.cqpiAdvance_next (s := s.modRp q fun r => r.goes w.idx) (q := q) (w := { w with go := true }) (by rw [hrp]) rfl
    (by rw [hrp]; exact hi) hm
  rw [hrp] at hnext
  unfold State.compGo
  rw [if_pos (by rw [hw]; simp [hgo])]
  exact hnext

/-- A write of a ring pair that is no longer under way, as it got no GO (R312). -/
def RP.unsent (r : RP) (idx : BitVec 32) : RP := { r with wrs := r.wrs.filter fun x => x.go || decide (x.idx ≠ idx) }

/-- A write without GO for 2 µs is ring error 4 (R312). -/
theorem State.goLate_due {w : CWr} (hw : (s.rp q).wrs = [w]) (hgo : w.go = false) (ht : w.tick + 50 ≤ s.ticks) :
    s.goLate q = (s.modRp q fun r => r.unsent w.idx).ringError q 4 w.idx := by
  have hfind : ((s.rp q).wrs.find? fun w => w.go = false ∧ w.tick + 50 ≤ s.ticks) = some w := by
    rw [hw]
    exact List.find?_cons_of_pos (decide_eq_true ⟨hgo, ht⟩)
  unfold State.goLate
  rw [hfind]
  rfl

theorem State.goLate_early {w : CWr} (hw : (s.rp q).wrs = [w]) (ht : s.ticks < w.tick + 50) : s.goLate q = s := by
  have hfind : ((s.rp q).wrs.find? fun w => w.go = false ∧ w.tick + 50 ≤ s.ticks) = none := by
    rw [hw]
    exact List.find?_cons_of_neg (by simp [ht])
  unfold State.goLate
  rw [hfind]

end

/-- Settles O36: a completion is `State.compWrite_posts`, its GO `State.compGo_next` with `State.cqpiTo_spec`, a missing GO `State.goLate`, the
interrupt `State.compSignal_due`. -/
theorem completionsReachTheHost : Obligations.CompletionsReachTheHost := by
  unfold Obligations.CompletionsReachTheHost
  intro s q r others
  refine ⟨fun n e hp hw hroom hfind => ?_, fun hrun w hw hgo => ⟨fun hi hm => ?_, fun ht => ?_, fun ht => ?_⟩,
    fun hrun hen hvec hvis hcount => ?_⟩
  · intro size sent
    rw [exec_completionWrite, execCompletionWrite, State.compWrite_posts hp hw hroom hfind]
    have hnow := RingNow.modRp s q.toNat fun r => { r with wrs := r.wrs ++ [{ idx := (s.rp q.toNat).cqpi, tick := s.ticks, go := false }] }
    exact ⟨_, rfl, rfl, (congrArg RP.wrs hnow.rp).trans (congrArg (· ++ _) hw), hnow.others⟩
  · rw [exec_completionGo, execCompletionGo, if_pos hrun, State.compGo_next hw hgo hi hm]
    obtain ⟨⟨r', hnow, hcqpi, hcqci⟩, hled, hms, hprocs⟩ := State.cqpiTo_spec (s.modRp q.toNat fun r => r.goes w.idx) q.toNat ((s.rp q.toNat).cqpi + 1)
    have hall := ((RingNow.modRp s q.toNat fun r => r.goes w.idx).trans hnow).ringWrite
    obtain ⟨hled', hms', hprocs', -⟩ := State.ringWrite_frame ((s.modRp q.toNat fun r => r.goes w.idx).cqpiTo q.toNat ((s.rp q.toNat).cqpi + 1)) q.toNat
    refine ⟨_, rfl, (congrArg RP.cqpi hall.rp).trans hcqpi, ?_, hall.others, hled'.trans hled, hms'.trans hms, hprocs'.trans hprocs⟩
    rw [hall.rp]
    rw [State.rp_modRp] at hcqci
    exact hcqci
  · rw [exec_completionGoTimeout, execCompletionGoTimeout, if_pos hrun, State.goLate_due hw hgo ht]
    obtain ⟨hev, hnow⟩ := (s.modRp q.toNat fun r => r.unsent w.idx).ringError_spec q.toNat 4 w.idx
    have hall := (RingNow.modRp s q.toNat fun r => r.unsent w.idx).trans hnow
    rw [State.rp_modRp] at hall
    refine ⟨_, rfl, hev, ?_, (congrArg RP.err hall.rp :), ?_, (congrArg RP.cqpi hall.rp :), hall.others⟩
    · rw [hall.rp, RP.failed]
      simp [RP.unsent, hw, hgo, r]
    · rw [hall.rp, RP.failed]
      simp
  · rw [exec_completionGoTimeout, execCompletionGoTimeout, if_pos hrun, State.goLate_early hw ht]
  · rw [exec_completionInterruptTimer, execCompletionInterruptTimer, if_pos hrun, State.compSignal_due hen hvec hvis hcount]
    have hnow := (Signals.ringVec (s.modRp q.toNat fun r => { r with visN := 0 }) q.toNat (fld (s.rp q.toNat).irq 10 0)).ringNow (.modRp s q.toNat _)
    refine ⟨_, rfl, ?_, (congrArg RP.visN hnow.rp :), hnow.others⟩
    rw [State.ringVec_eq]
    rfl

end Sys2Proof.Machine

namespace Sys2Proof.Machine

open Sys2Proof

/-! CXL_MSTAT and the registers of the rings apart from it (R304, R328). -/

section
variable (s : State)

theorem State.mstat_setMstat (i : Nat) (b : Bool) {j : Nat} (h : j < 48) : (s.setMstat i b).mstat j = if j = i then b else s.mstat j := by
  rw [State.mstat, State.setMstat, State.rg_sg_same, getLsbD_setBit _ _ _ _ h]
  rfl

theorem State.mstat_sg_ne {a : Nat} (v : Word) (h : aCxl 8 ≠ a) (i : Nat) : (s.sg a v).mstat i = s.mstat i :=
  congrArg (·.getLsbD i) (State.rg_sg_ne s v 0 0 h)

theorem State.rpEn_sg {a : Nat} (v : Word) (q : Nat) (h : a < aCxl 0x10000) : (s.sg a v).rpEn q = s.rpEn q := by
  refine congrArg (·.getLsbD 44) (State.rg_sg_ne s v 0 0 ?_)
  unfold aCxl at h ⊢
  omega

/-! Many ring pairs at once (R322, R324, R325). -/

/-- Only ring pairs differ. -/
def RingsOnly (s u : State) : Prop := u = { s with rps := u.rps }

theorem RingsOnly.frame {s u : State} (h : RingsOnly s u) :
    u.ms = s.ms ∧ u.procs = s.procs ∧ u.bisnp = s.bisnp ∧ ∀ i, u.mstat i = s.mstat i := by
  rw [h]
  exact ⟨rfl, rfl, rfl, fun _ => rfl⟩

/-- The enabled ring pairs. -/
def State.rings : List Nat := (List.range 1024).filter fun q => s.rpEn q

theorem State.rings_nodup : s.rings.Nodup := List.nodup_range.filter _

theorem State.mem_rings {q : Nat} (hq : q < 1024) (hen : s.rpEn q = true) : q ∈ s.rings := List.mem_filter.2 ⟨List.mem_range.2 hq, hen⟩

/-- Each of some ring pairs changed alike. -/
def State.modRps (f : RP → RP) (qs : List Nat) : State := qs.foldl (fun s q => s.modRp q f) s

theorem RingsOnly.modRps (f : RP → RP) (qs : List Nat) : RingsOnly s (s.modRps f qs) := by
  induction qs generalizing s with
  | nil => rfl
  | cons q qs ih => exact ih (s.modRp q f)

theorem State.rp_modRps_notMem (f : RP → RP) {qs : List Nat} {q : Nat} (h : q ∉ qs) : (s.modRps f qs).rp q = s.rp q := by
  induction qs generalizing s with
  | nil => rfl
  | cons j qs ih =>
    obtain ⟨hj, hqs⟩ := List.ne_and_not_mem_of_not_mem_cons h
    exact (ih (s.modRp j f) hqs).trans (s.rp_modRp_ne f hj)

theorem State.rp_modRps (f : RP → RP) {qs : List Nat} {q : Nat} (hn : qs.Nodup) (h : q ∈ qs) : (s.modRps f qs).rp q = f (s.rp q) := by
  induction qs generalizing s with
  | nil => cases h
  | cons j qs ih =>
    obtain ⟨hj, hqs⟩ := List.nodup_cons.1 hn
    cases h with
    | head => exact ((s.modRp q f).rp_modRps_notMem f hj).trans (s.rp_modRp q f)
    | tail _ hq =>
      have hne : q ≠ j := fun e => hj (e ▸ hq)
      exact (ih (s.modRp j f) hqs hq).trans (congrArg f (s.rp_modRp_ne f hne))

/-- HELD of resume, attach and detach is set (R322, R324). -/
def RP.hold (r : RP) : RP := { r with held := setBit r.held 0 true }

theorem RP.hold_held (r : RP) : r.hold.held.getLsbD 0 = true := getLsbD_setBit r.held 0 true 0 (by decide)

theorem State.holdRings_eq : s.holdRings = s.modRps RP.hold s.rings := by
  have hgo (qs : List Nat) (t : State) (ht : t.dev = s.dev) :
      qs.foldl (fun s q => if s.rpEn q then s.modRp q RP.hold else s) t = t.modRps RP.hold (qs.filter fun q => s.rpEn q) := by
    induction qs generalizing t with
    | nil => rfl
    | cons q qs ih =>
      have hq : t.rpEn q = s.rpEn q := congrArg (fun m => (spGetD (0 : Word) m (aCxl (0x10000 + 16 * q))).getLsbD 44) ht
      rw [List.foldl_cons, hq]
      cases hen : s.rpEn q with
      | true =>
        rw [List.filter_cons_of_pos hen]
        exact ih (t.modRp q RP.hold) ht
      | false =>
        rw [List.filter_cons_of_neg (ne_true_of_eq_false hen)]
        exact ih t ht
  exact hgo _ s rfl

/-- A held ring pair, as it stands. -/
theorem State.holdRings_held {q : Nat} (hq : q < 1024) (hen : s.rpEn q = true) : (s.holdRings.rp q).held.getLsbD 0 = true := by
  rw [s.holdRings_eq, s.rp_modRps _ s.rings_nodup (s.mem_rings hq hen)]
  exact RP.hold_held _

theorem RingsOnly.holdRings : RingsOnly s s.holdRings := by
  rw [s.holdRings_eq]
  exact .modRps s _ _

/-- A detach begins. -/
def State.detaching : State := { s with cxl := { s.cxl with detach := some (s.ticks, none) } }

theorem RingsOnly.detaching {s t : State} (h : RingsOnly s t) :
    t.detaching = { s with rps := t.detaching.rps, cxl := t.detaching.cxl } ∧ t.detaching.cxl.detach = some (s.ticks, none) ∧
      ∀ q, t.detaching.rp q = t.rp q := by
  refine ⟨?_, ?_, fun _ => rfl⟩
  · rw [h]
    rfl
  · rw [h]
    rfl

/-- A write of CXL_CTL.DETACH holds the rings and begins a detach (R324). -/
theorem State.detachGo_begins (h1 : s.mstat 1 = false) (hd : s.cxl.detach = none) : s.detachGo = s.holdRings.detaching :=
  if_neg (by rw [h1, hd]; decide)

/-! Attach (R322). -/

/-- A ring pair that goes on from SQFP after an attach or a resume (R322). -/
def RP.back (r : RP) : RP :=
  { r with sqpi := r.sqfp, acc := if idxBefore r.sqfp r.acc then r.acc else r.sqfp, got := [], wrs := [], cqpiW := none, visN := 0,
           held := setBit r.held 0 true, resumed := true }

/-- RESGEN counts one more. -/
def resgenNext (v : Word) : Word := setFld v 31 16 ((fld v 31 16 + 1) % 65536)

/-- RUN is set and RESGEN counts. -/
def State.runAgain : State := (s.setMstat 0 true).sg (aCxl 8) (resgenNext ((s.setMstat 0 true).rg (aCxl 8)))

/-- The rings go on and RUN is set: what stands before the signals of `State.ringsBack`. -/
def State.ringsOn : State := (s.modRps RP.back s.rings).runAgain

theorem State.ringsBack_signals : Signals s.ringsOn s.ringsBack := by
  unfold State.ringsBack
  extract_lets qs t
  have ht : s.modRps RP.back s.rings = t := rfl
  rw [State.ringsOn, ht]
  clear_value t qs
  exact (Signals.cxlEvt t.runAgain 5).trans (.foldl _ (fun t i => .msix t i 0) _ _)

theorem State.ringsOn_mstat {i : Nat} (h : i < 16) : s.ringsOn.mstat i = if i = 0 then true else s.mstat i := by
  have hres (t : State) : (t.sg (aCxl 8) (resgenNext (t.rg (aCxl 8)))).mstat i = t.mstat i := by
    rw [State.mstat, State.rg_sg_same, resgenNext, getLsbD_setFld _ _ _ _ _ (by omega), if_neg (by omega)]
    rfl
  rw [State.ringsOn, State.runAgain, hres, State.mstat_setMstat _ _ _ (by omega), (RingsOnly.modRps s _ _).frame.2.2.2]

theorem State.runAgain_frame : s.runAgain.rps = s.rps ∧ s.runAgain.ms = s.ms ∧ s.runAgain.procs = s.procs := ⟨rfl, rfl, rfl⟩

theorem State.ringsOn_frame : s.ringsOn.ms = s.ms ∧ s.ringsOn.procs = s.procs := by
  obtain ⟨-, hms, hprocs⟩ := (s.modRps RP.back s.rings).runAgain_frame
  obtain ⟨hms', hprocs', -⟩ := (RingsOnly.modRps s RP.back s.rings).frame
  exact ⟨hms.trans hms', hprocs.trans hprocs'⟩

theorem State.ringsOn_rp {q : Nat} (hq : q < 1024) (hen : s.rpEn q = true) : s.ringsOn.rp q = (s.rp q).back := by
  obtain ⟨hrps, -, -⟩ := (s.modRps RP.back s.rings).runAgain_frame
  rw [← s.rp_modRps RP.back s.rings_nodup (s.mem_rings hq hen)]
  exact congrArg (fun m => spGetD ({} : RP) m q) hrps

/-! Removal (R325). -/

/-- What the loss of the link leaves of its registers; viral leaves them. -/
def State.linkOff (viral : Bool) : State := if viral then s else (s.sg (aCxl 0x10) 0).setMstat 2 false

theorem State.linkOff_frame (viral : Bool) : s.linkOff viral = { s with dev := (s.linkOff viral).dev } := by
  cases viral with
  | true => rfl
  | false => rfl

theorem State.linkOff_stores (viral : Bool) : (s.linkOff viral).ms = s.ms ∧ (s.linkOff viral).procs = s.procs := by
  rw [s.linkOff_frame]
  exact ⟨rfl, rfl⟩

theorem State.linkOff_rpEn (viral : Bool) (q : Nat) : (s.linkOff viral).rpEn q = s.rpEn q := by
  cases viral with
  | true => rfl
  | false => exact (State.rpEn_sg _ _ q (by decide)).trans (s.rpEn_sg _ q (by decide))

theorem State.linkOff_mstat (viral : Bool) {i : Nat} (h : i < 48) : (s.linkOff viral).mstat i = if i = 2 then viral && s.mstat 2 else s.mstat i := by
  cases viral with
  | true =>
    split
    next h2 => rw [h2]; rfl
    next => rfl
  | false =>
    refine (State.mstat_setMstat _ 2 false h).trans ?_
    rw [s.mstat_sg_ne _ (by decide)]
    rfl

/-- DETACHED is set, and no detach of the CXL block `c` is under way any more. -/
def State.detached (c : Cxl) : State := { s.setMstat 1 true with cxl := { c with detach := none } }

theorem State.detached_frame (c : Cxl) :
    (s.detached c).ms = s.ms ∧ (s.detached c).procs = s.procs ∧ (s.detached c).bisnp = s.bisnp ∧ (s.detached c).rps = s.rps ∧
      (s.detached c).cxl.detach = none := ⟨rfl, rfl, rfl, rfl, rfl⟩

theorem State.detached_mstat (c : Cxl) {i : Nat} (h : i < 48) : (s.detached c).mstat i = if i = 1 then true else s.mstat i :=
  s.mstat_setMstat 1 true h

/-- A module detached at once: every enabled ring pair is held. -/
theorem State.holdRings_detached (c : Cxl) :
    (s.holdRings.detached c).ms = s.ms ∧ (s.holdRings.detached c).procs = s.procs ∧
      (∀ i, i < 48 → (s.holdRings.detached c).mstat i = if i = 1 then true else s.mstat i) ∧
      ∀ q, q < 1024 → s.rpEn q = true → ((s.holdRings.detached c).rp q).held.getLsbD 0 = true := by
  obtain ⟨hms, hprocs, -, hmstat⟩ := (RingsOnly.holdRings s).frame
  obtain ⟨hms', hprocs', -, hrps', -⟩ := s.holdRings.detached_frame c
  refine ⟨hms'.trans hms, hprocs'.trans hprocs, fun i hi => ?_, fun q hq hen => ?_⟩
  · rw [State.detached_mstat _ _ hi, hmstat]
  · have hrp : (s.holdRings.detached c).rp q = s.holdRings.rp q := congrArg (fun m => spGetD ({} : RP) m q) hrps'
    rw [hrp]
    exact s.holdRings_held hq hen

/-- With no back-invalidation under way a removal is the detach with its signals. -/
theorem State.removal_signals {viral : Bool} (h1 : s.mstat 1 = false) (hb : s.bisnp = []) :
    Signals ((s.linkOff viral).holdRings.detached (s.linkOff viral).cxl) (s.removal viral) := by
  have hmstat : (s.linkOff viral).mstat 1 = false := by
    rw [s.linkOff_mstat viral (by decide)]
    exact h1
  have hbisnp : (s.linkOff viral).bisnp = [] := by
    rw [s.linkOff_frame]
    exact hb
  have ht : (if viral then s else (s.sg (aCxl 0x10) 0).setMstat 2 false) = s.linkOff viral := rfl
  unfold State.removal
  rw [ht]
  generalize s.linkOff viral = t at hmstat hbisnp ⊢
  dsimp only
  rw [if_neg (ne_true_of_eq_false hmstat)]
  obtain ⟨-, -, hhold, -⟩ := (RingsOnly.holdRings t).frame
  rw [hbisnp] at hhold
  generalize t.holdRings = r at hhold ⊢
  have hsig (e : Ev) : Signals (r.detached t.cxl) ((((r.detached t.cxl).event e).cxlEvt 0).msix 0 0) :=
    ((Signals.event ..).trans (.cxlEvt ..)).trans (.msix ..)
  have hnone (e : Ev) : ((((r.detached t.cxl).event e).cxlEvt 0).msix 0 0).bisnp = [] := by
    obtain ⟨-, -, -, hsignal⟩ := (hsig e).frame
    obtain ⟨-, -, hmark, -⟩ := r.detached_frame t.cxl
    rw [hsignal, hmark, hhold]
  change Signals _ (List.foldl _ ((((r.detached t.cxl).event _).cxlEvt 0).msix 0 0) ((((r.detached t.cxl).event _).cxlEvt 0).msix 0 0).bisnp)
  rw [hnone, List.foldl_nil]
  exact hsig _

end

/-! Link training (R298). -/

/-- CXL_LINK of a link that trained at a width and a rate. -/
def linkWord (w : BitVec 5) (rate : BitVec 3) (flit : BitVec 2) (cm degr : Bool) : Word :=
  BitVec.ofNat 48 (b2n cm * 2 ^ 11 + b2n degr * 2 ^ 10 + flit.toNat * 2 ^ 8 + rate.toNat * 32 + w.toNat)

theorem linkWord_toNat (w : BitVec 5) (rate : BitVec 3) (flit : BitVec 2) (cm degr : Bool) :
    (linkWord w rate flit cm degr).toNat = b2n cm * 2 ^ 11 + b2n degr * 2 ^ 10 + flit.toNat * 2 ^ 8 + rate.toNat * 32 + w.toNat := by
  have hcm : b2n cm ≤ 1 := by cases cm <;> decide
  have hdegr : b2n degr ≤ 1 := by cases degr <;> decide
  have hflit := flit.isLt
  have hrate := rate.isLt
  have hw := w.isLt
  exact Nat.mod_eq_of_lt (by omega)

theorem linkWord_width (w : BitVec 5) (rate : BitVec 3) (flit : BitVec 2) (cm degr : Bool) : fld (linkWord w rate flit cm degr) 4 0 = w.toNat := by
  have hw := w.isLt
  rw [fld, linkWord_toNat, Nat.shiftRight_eq_div_pow]
  omega

theorem linkWord_rate (w : BitVec 5) (rate : BitVec 3) (flit : BitVec 2) (cm degr : Bool) : fld (linkWord w rate flit cm degr) 7 5 = rate.toNat := by
  have hw := w.isLt
  have hrate := rate.isLt
  rw [fld, linkWord_toNat, Nat.shiftRight_eq_div_pow]
  omega

/-- Does a link of a width and a rate carry CXL.cache and CXL.mem (R298)? -/
def linkCm (w : BitVec 5) (rate : BitVec 3) : Bool := decide (8 ≤ w.toNat ∧ 5 ≤ rate.toNat)

section
variable {s : State}

/-- What stands before the events of a link that trained (R298). -/
def State.trained (s : State) (w : BitVec 5) (rate : BitVec 3) (flit : BitVec 2) : State :=
  { (s.sg (aCxl 0x10) (linkWord w rate flit (linkCm w rate)
      (linkCm w rate && (decide (w.toNat < 16) || decide (rate.toNat = 5))))).setMstat 2 (linkCm w rate) with
    cxl := { s.cxl with gpf := false, gpfW := none } }

theorem State.trained_only (s : State) (w : BitVec 5) (rate : BitVec 3) (flit : BitVec 2) : EventOnly s (s.trained w rate flit) := rfl

theorem State.trained_gpf (s : State) (w : BitVec 5) (rate : BitVec 3) (flit : BitVec 2) : (s.trained w rate flit).cxl.gpf = false := rfl

theorem State.trained_mstat (s : State) (w : BitVec 5) (rate : BitVec 3) (flit : BitVec 2) {i : Nat} (h : i < 48) :
    (s.trained w rate flit).mstat i = if i = 2 then linkCm w rate else s.mstat i := by
  refine (State.mstat_setMstat _ 2 _ h).trans ?_
  rw [s.mstat_sg_ne _ (by decide)]

theorem State.trained_link (s : State) (w : BitVec 5) (rate : BitVec 3) (flit : BitVec 2) :
    ∃ degr, (s.trained w rate flit).rg (aCxl 0x10) = linkWord w rate flit (linkCm w rate) degr :=
  ⟨_, (State.rg_sg_ne _ _ 0 0 (by decide)).trans (State.rg_sg_same s _ _ 0)⟩

/-- A link that trains while the module runs attached is told of by events alone. -/
theorem execLinkTrained_signals {w : BitVec 5} {rate : BitVec 3} (flit : BitVec 2) (hok : s.refOk .cxl = true) (hrun : s.phase = .run) (hw : w ≠ 0)
    (hrate : rate ≠ 0) (h1 : s.mstat 1 = false) : ∃ u, execLinkTrained w rate flit s = .next u ∧ Signals (s.trained w rate flit) u := by
  unfold execLinkTrained
  extract_lets ready cm degr v linked c t told u
  have hgo : ¬ ((!ready) = true ∨ s.refOk .cxl = false ∨ w = 0 ∨ rate = 0 ∨
      s.phase = .fatal ∨ s.phase = .flush ∨ s.phase = .flushed ∨ s.phase = .off) := by
    have hready : ready = true := by simp [ready, hrun]
    rw [hready, hok, hrun]
    rintro (h | h | h | h | h | h | h | h)
    · cases h
    · cases h
    · exact hw h
    · exact hrate h
    all_goals cases h
  rw [if_neg hgo]
  have hsig : Signals (s.trained w rate flit) u := by
    have hev : Signals (s.trained w rate flit) told := Signals.event ..
    by_cases hd : degr = true
    · rw [show u = (told.cxlEvt 1).event _ from if_pos hd]
      exact hev.trans ((Signals.cxlEvt ..).trans (.event ..))
    · rw [show u = told from if_neg hd]
      exact hev
  have hmstat : u.mstat 1 = false := by
    rw [hsig.mstat, s.trained_mstat _ _ _ (by decide)]
    exact h1
  exact ⟨u, congrArg _ (if_neg (by simp [hmstat])), hsig⟩

theorem execLinkTrained_noRef (w : BitVec 5) (rate : BitVec 3) (flit : BitVec 2) (h : s.refOk .cxl = false) : execLinkTrained w rate flit s = .next s :=
  congrArg _ (if_pos (.inr (.inl h)))

/-- A removal begins when the host turns viral or the link was there (R325). -/
theorem execSurpriseRemoval_removes {viral : Bool} (hrun : s.phase = .run) (h : viral = true ∨ fld (s.rg (aCxl 0x10)) 4 0 ≠ 0) :
    execSurpriseRemoval viral s = .next (s.removal viral) := by
  have hlive : s.cxlLive = true := by
    rw [State.cxlLive, hrun]
  unfold execSurpriseRemoval
  cases viral with
  | true => rw [if_pos ⟨rfl, hlive⟩]
  | false =>
    have hlink : fld (s.rg (aCxl 0x10)) 4 0 ≠ 0 := h.resolve_left Bool.false_ne_true
    rw [if_neg fun h => Bool.false_ne_true h.1, if_neg Bool.false_ne_true, State.linkLost, if_pos ⟨hlive, hlink⟩]

/-! Snoops of the device cache, the HDM decoder, GPF (R297, R316, R321). -/

theorem execHostSnoop_hit {h : Nat} {d : List Byte} (hd : (s.cxl.dcache.find? fun x => x.1 = h) = some (h, d)) :
    execHostSnoop .inv h s = .next
        (({ s with cxl := { s.cxl with dcache := s.cxl.dcache.filter fun x => decide (x.1 ≠ h) } } : State).out (.memAnswer h 17 [] false)) ∧
      execHostSnoop .data h s = .next (s.out (.memAnswer h 18 [] false)) ∧ execHostSnoop .cur h s = .next (s.out (.memAnswer h 19 d false)) := by
  refine ⟨?_, ?_, ?_⟩
  · simp only [execHostSnoop, hd]
  · simp only [execHostSnoop, hd]
  · simp only [execHostSnoop, hd]

theorem execHostSnoop_miss {h : Nat} (hd : (s.cxl.dcache.find? fun x => x.1 = h) = none) (k : Snoop) :
    execHostSnoop k h s = .next (s.out (.memAnswer h 16 [] false)) := by
  simp only [execHostSnoop, hd]

theorem dcache_dropped (l : List (Nat × List Byte)) (h : Nat) : ((l.filter fun x => decide (x.1 ≠ h)).find? fun x => x.1 = h) = none := by
  refine List.find?_eq_none.2 fun x hx => ?_
  simpa using (List.mem_filter.1 hx).2

theorem execHdmCommit_takes {b : Nat} (h0 : s.mstat 0 = true) (h1 : s.mstat 1 = false) (hrun : s.phase = .run) (hb : b % 2 ^ 28 = 0) :
    execHdmCommit b s = .next ((({ s with cxl := { s.cxl with base := b, hdm := b / 2 ^ 28 } } : State).setMstat 3 true).out (.value 2 1)) := by
  have hgo : ¬ (b % 2 ^ 28 ≠ 0 ∨ s.mstat 0 = false ∨ s.mstat 1 = true ∨ s.phase ≠ .run) := by
    rw [h0, h1, hrun, hb]
    decide
  exact congrArg _ (if_neg hgo)

theorem execHdmCommit_refuses {b : Nat} (hb : b % 2 ^ 28 ≠ 0) :
    execHdmCommit b s = .next (({ s with cxl := { s.cxl with base := b } } : State).out (.value 2 0)) := congrArg _ (if_pos (.inl hb))

/-- GPF phase 1 ends CXL.cache writes, and its answer waits for the GO of those issued (R321). -/
theorem execGpfPhase1_run (hrun : s.phase = .run) (h2 : s.mstat 2 = true) :
    execGpfPhase1 s = .next (if s.goAwaited s.ticks then { s with cxl := { s.cxl with gpf := true, gpfW := some s.ticks } }
      else ({ s with cxl := { s.cxl with gpf := true, gpfW := none } } : State).out (.value 3 1)) :=
  congrArg _ (if_pos ⟨hrun, h2⟩)

end

/-- Settles O38: a snoop is `execHostSnoop_hit`, a decoder's commit `execHdmCommit_takes`, GPF `execGpfPhase1_run`, training
`execLinkTrained_signals`; a detach is `State.holdRings`, an attach `State.ringsBack_signals`, a removal `State.removal_signals`. -/
theorem linkAndAttachment : Obligations.LinkAndAttachment := by
  unfold Obligations.LinkAndAttachment
  intro s
  refine ⟨fun h d hd => ?_, fun h hd k => ?_, fun b h0 h1 hrun => ⟨fun hb => ?_, fun hb => ?_⟩, fun hrun h2 => ⟨fun hgo => ?_, fun hgo => ?_⟩, rfl,
    fun w rate flit hno => execLinkTrained_noRef w rate flit hno, fun w rate flit hok hrun hw hrate h1 => ?_,
    fun a ha => ⟨fun h1 hdet => ?_, fun h1 h2 => ?_⟩, fun viral hrun hlink h1 hb => ?_⟩
  · obtain ⟨hinv, hdata, hcur⟩ := execHostSnoop_hit hd
    exact ⟨⟨_, hinv, rfl, dcache_dropped _ h⟩, hdata, hcur⟩
  · exact execHostSnoop_miss hd k
  · exact ⟨_, execHdmCommit_takes h0 h1 hrun hb, rfl, State.mstat_setMstat _ 3 true (by decide), rfl⟩
  · exact execHdmCommit_refuses hb
  · rw [exec_gpfPhase1, execGpfPhase1_run hrun h2, if_neg (ne_true_of_eq_false hgo)]
    rfl
  · rw [exec_gpfPhase1, execGpfPhase1_run hrun h2, if_pos hgo]
  · obtain ⟨u, hu, hsig⟩ := execLinkTrained_signals flit hok hrun hw hrate h1
    obtain ⟨degr, hreg⟩ := s.trained_link w rate flit
    have hlink : u.rg (aCxl 0x10) = linkWord w rate flit (linkCm w rate) degr := (hsig.rg _ 0 (.high (by decide)) (by decide)).trans hreg
    refine ⟨u, hu, (s.trained_only w rate flit).trans hsig.only, ?_, ?_, ?_, ?_⟩
    · rw [hsig.mstat, s.trained_mstat _ _ _ (by decide)]
      rfl
    · rw [hsig.cxl]
      exact s.trained_gpf w rate flit
    · rw [hlink, linkWord_width]
    · rw [hlink, linkWord_rate]
  · rw [exec_detach, execDetach, State.onWrite_reach ha, State.detachGo_begins s h1 hdet]
    obtain ⟨honly, hdetach, hrp⟩ := (RingsOnly.holdRings s).detaching
    refine ⟨_, rfl, honly, hdetach, fun q hq hen => ?_⟩
    rw [hrp]
    exact s.holdRings_held hq hen
  · rw [exec_attach, execAttach, State.onWrite_reach ha, if_pos ⟨h1, h2⟩, State.attach]
    have hsig := (s.setMstat 1 false).ringsBack_signals
    obtain ⟨-, hms, hprocs, -⟩ := hsig.frame
    obtain ⟨hms', hprocs'⟩ := (s.setMstat 1 false).ringsOn_frame
    refine ⟨_, rfl, ?_, ?_, hms.trans hms', hprocs.trans hprocs', fun q hq hen => ?_⟩
    · rw [hsig.mstat, State.ringsOn_mstat _ (by decide), State.mstat_setMstat _ _ _ (by decide)]
      rfl
    · rw [hsig.mstat, State.ringsOn_mstat _ (by decide)]
      rfl
    · have hen' : (s.setMstat 1 false).rpEn q = true := (s.rpEn_sg _ q (by decide)).trans hen
      have hrp := (hsig.ringNow (RingNow.refl (s.setMstat 1 false).ringsOn q)).rp.trans ((s.setMstat 1 false).ringsOn_rp hq hen')
      rw [hrp]
      exact ⟨rfl, getLsbD_setBit _ 0 true 0 (by decide), rfl⟩
  · have hsig := s.removal_signals (viral := viral) h1 hb
    obtain ⟨-, hms, hprocs, -⟩ := hsig.frame
    obtain ⟨hms', hprocs', hmstat, hheld⟩ := (s.linkOff viral).holdRings_detached (s.linkOff viral).cxl
    obtain ⟨hms'', hprocs''⟩ := s.linkOff_stores viral
    refine ⟨_, execSurpriseRemoval_removes hrun hlink, ?_, ?_, ?_, hms.trans (hms'.trans hms''), hprocs.trans (hprocs'.trans hprocs''), fun q hq hen => ?_⟩
    · rw [hsig.mstat, hmstat 1 (by decide)]
      rfl
    · rw [hsig.mstat, hmstat 2 (by decide), s.linkOff_mstat viral (by decide)]
      rfl
    · rw [hsig.cxl]
      rfl
    · rw [(hsig.ringNow (RingNow.refl _ q)).rp]
      exact hheld q hq ((s.linkOff_rpEn viral q).trans hen)

end Sys2Proof.Machine
